-- ==== Sys2Proof/Word.lean ====
section
/-! DEFINITION. The word types of the TQB-9120 and the plainest helpers on them (R4, R64, R86). -/
namespace Sys2Proof

/-- A 32-bit register, instruction word or scratch word. -/
abbrev Word := BitVec 32
/-- One byte of memory. -/
abbrev Byte := BitVec 8

end Sys2Proof
end

