-- ==== Sys2Proof/Syntax.lean ====
section
/-! DEFINITION. The instructions: one constructor for each row of the opcode table. Rows 0-109 are the lane set
(R136-R140), rows 110-190 the uniform set (R142, R143), and the rest the machine's own steps, which no word encodes:
each is something the device, another agent or the outside world does at a cycle the rules give. -/
namespace Sys2Proof

/-- A lane word (R136) and its tail when X = 1 (R137): the fields D, A, B, HOLD and the tail word. -/
structure LaneWord where
  d : BitVec 7
  a : BitVec 7
  b : BitVec 7
  hold : BitVec 2
  tail : Option (BitVec 32)
deriving DecidableEq, Repr

/-- Form UA (R142). -/
structure UA where
  d : BitVec 6
  a : BitVec 6
  b : BitVec 6
  fn : BitVec 6
deriving DecidableEq, Repr

/-- Form UI (R142). -/
structure UI where
  d : BitVec 6
  a : BitVec 6
  imm : BitVec 12
deriving DecidableEq, Repr

/-- Form UB (R142). -/
structure UB where
  cond : BitVec 4
  off : BitVec 20
deriving DecidableEq, Repr

/-- Form UE (R142). -/
structure UE where
  d : BitVec 6
  a : BitVec 6
  flags : BitVec 12
deriving DecidableEq, Repr

/-- A gang of a resident heat: the model's number of the heat, the team's entry and the gang's number. -/
structure GangRef where
  hid : Nat
  team : Nat
  gang : Nat
deriving DecidableEq, Repr

/-- A team (its cox) of a resident heat. -/
structure TeamRef where
  hid : Nat
  team : Nat
deriving DecidableEq, Repr

/-- What a lane operation writes when its result lands (R153, R170, R185, R186): register words at key
32 x register + lane, mask bits (mask, lanes selected, values), index registers at key 32 x index + lane, window images,
a latch entry with the `sr.dix` of its writer (R68), and the completion flag it clears (R26). -/
structure LaneLanding where
  vs : List (Nat × BitVec 32)
  ms : List (Nat × BitVec 32 × BitVec 32)
  xs : List (Nat × BitVec 8)
  wins : List (Nat × BitVec 16)
  latch : Option (Nat × BitVec 64 × List (BitVec 32))
  flag : Option Nat
deriving DecidableEq, Repr

/-- What a cox instruction writes when its result lands (R200, R214, R217, R220, R222, R245): k registers and predicates,
field groups of tensor entries (entry, SEL, words), generator registers, a loop-nest slot (CNT, SINC and DINC of each
level), and the completion flag it clears. -/
structure CoxLanding where
  ks : List (Nat × BitVec 32)
  ps : List (Nat × Bool)
  ts : List (Nat × Nat × List (BitVec 32))
  gs : List (Nat × BitVec 128)
  nests : List (Nat × List (Nat × Int × Int))
  flag : Option Nat
deriving DecidableEq, Repr

/-- A detected violation (R317, R319, R322): rank first, then what the trap record names. -/
structure Detect where
  hid : Nat
  rank : Nat
  cause : Nat
  src : Nat
  res : Bool
  swcode : Nat
  team : Nat
  gang : Nat
  qmask : Nat
  core : Nat
  lanes : BitVec 32
  fdix : BitVec 64
  pc : Nat
  ret : Nat
  addr : Nat
  info : Nat
  eop : Nat
  eseq : Nat
  iter : List Nat
deriving DecidableEq, Repr

/-- A scratch access of a gang (R177-R179, R351): kind 0 load, 1 store, 2 atomic, 3 tensor load; for each real lane, in
ascending order, the byte offset within the core, the operand (the position in a block for a tensor load) and, for `.cas`,
the new value (the block's offset for a tensor load). `dests` gives the keys that take each lane's result, low word
first, and `zeros` the keys that helper lanes zero (R45); `latch` is the entry and stamp of a hold result. -/
structure ScratchAcc where
  g : GangRef
  core : Nat
  base : Nat
  kind : Nat
  aop : Nat
  size : Nat
  sx : Bool
  fmt : Nat
  scale : Int
  lanes : List (Nat × Nat × Nat × Nat)
  dests : List (Nat × List Nat)
  zeros : List Nat
  latch : Option (Nat × BitVec 64)
  flag : Option Nat
  blame : Detect
deriving DecidableEq, Repr

/-- What occupies a stack at a stack cycle (R32): lanes of a gang's access, a copy beat, the read of a record, or a
flow's read or landing. -/
inductive StackUse where
  | lanes (op : Nat) (mask : BitVec 32) (first : Bool)
  | beatRead (cmd beat : Nat)
  | beatWrite (cmd beat piece : Nat) (data : List (BitVec 8))
  | record (op : Nat)
  | flowRead (hid entry k : Nat)
  | flowLand (hid entry cursor : Nat) (data : List (BitVec 8))
deriving DecidableEq, Repr

/-- Where a performed message reports: the heat and its core whose MSG counts it (4 x crew-relative cluster index +
position, which stays when the heat moves, R294), the barrier that takes the BAR arrival (R218, R269), and the issuing
team. -/
structure AckTo where
  hid : Nat
  core : Nat
  bar : Option (BitVec 32)
  team : Nat := 0
deriving DecidableEq, Repr

/-- An unscheduled message (R267), header fields and payload bytes. -/
structure Msg where
  cls : BitVec 4
  plen : BitVec 8
  dpkg : BitVec 17
  spkg : BitVec 17
  ack : Bool
  rsvd : BitVec 17
  fid : BitVec 16
  sq : BitVec 32
  ttl : BitVec 8
  rsvd1 : BitVec 8
  payload : List (BitVec 8)
deriving DecidableEq, Repr

/-- An unscheduled flow (R267). -/
structure FlowKey where
  spkg : BitVec 17
  dpkg : BitVec 17
  cls : BitVec 4
  fid : BitVec 16
deriving DecidableEq, Repr

/-- The action of a fired threshold (R217, Table 6), with what it needs of the team that armed it: the heat's number, HEATID and
queue, the team and its TSEL, and the core's heat-relative number. It is launched even when the heat has ended since. -/
structure BarmAct where
  hid : Nat
  heatid : BitVec 32
  queue : Nat
  team : Nat
  tsel : Nat
  rel : Nat
  act : Nat
  opa : BitVec 32
  opb : BitVec 32
deriving DecidableEq, Repr

/-- What `lwr`, `sig` and `hpost` hand to their outbound path at t + 16 (R218, R226-R228). A host entry already stands in
its ring's order, under its number (R300). -/
inductive Post where
  | message (m : Msg) (done : AckTo)
  | localLaunch (m : Msg) (done : AckTo)
  | localSignal (core : Nat) (handle credit : BitVec 32) (arrive : Bool) (done : AckTo)
  | hostEntry (ring id : Nat)
deriving DecidableEq, Repr

/-- What a flit carries (R264, R354): nothing, a halt mark, or bytes. -/
inductive Flit where
  | idle
  | halt
  | bytes (b : List (BitVec 8))
deriving DecidableEq, Repr

/-- An agent of a halted heat that resumes at its own stop point (R351, R352). A gang's stream is the quad group that has
the given quads. -/
inductive StopAgent where
  | gang (team gang : Nat) (quads : BitVec 8)
  | cox (team : Nat)
  | access (op : Nat)
  | scratch (n : Nat)
  | command (cmd : Nat)
  | flow (entry : Nat)
deriving DecidableEq, Repr

/-- One constructor for each row of the opcode table. -/
inductive Instr where
  /-- R156. Adds two i32 values per active lane, wrapping or saturating with SAT. -/
  | addI32 (w : LaneWord)
  /-- R156. Subtracts two i32 values per active lane. -/
  | subI32 (w : LaneWord)
  /-- R156. Multiplies two i32 values per lane, keeping the low 32 bits. -/
  | mulI32 (w : LaneWord)
  /-- R156. Computes a times b plus c in i32 per lane; the tail is required. -/
  | madI32 (w : LaneWord)
  /-- R156. Signed minimum per lane. -/
  | minI32 (w : LaneWord)
  /-- R156. Signed maximum per lane. -/
  | maxI32 (w : LaneWord)
  /-- R156. Unsigned minimum per lane. -/
  | minN32 (w : LaneWord)
  /-- R156. Unsigned maximum per lane. -/
  | maxN32 (w : LaneWord)
  /-- R156. Absolute value of an i32 per lane. -/
  | absI32 (w : LaneWord)
  /-- R156. Negation of an i32 per lane. -/
  | negI32 (w : LaneWord)
  /-- R156. High 32 bits of the signed product per lane. -/
  | mulhI32 (w : LaneWord)
  /-- R156. High 32 bits of the unsigned product per lane. -/
  | mulhN32 (w : LaneWord)
  /-- R156. Saturating i32 addition per lane. -/
  | addSatI32 (w : LaneWord)
  /-- R156. Saturating i32 subtraction per lane. -/
  | subSatI32 (w : LaneWord)
  /-- R157. Adds 64-bit register pairs per lane. -/
  | addI64 (w : LaneWord)
  /-- R157. Subtracts 64-bit register pairs per lane. -/
  | subI64 (w : LaneWord)
  /-- R159. Bitwise AND per lane. -/
  | laneAnd (w : LaneWord)
  /-- R159. Bitwise OR per lane. -/
  | laneOr (w : LaneWord)
  /-- R159. Bitwise XOR per lane. -/
  | laneXor (w : LaneWord)
  /-- R159. a AND NOT b per lane. -/
  | laneAndn (w : LaneWord)
  /-- R159. Logical left shift per lane. -/
  | laneShl (w : LaneWord)
  /-- R159. Logical right shift per lane. -/
  | laneShr (w : LaneWord)
  /-- R159. Arithmetic right shift per lane. -/
  | laneSar (w : LaneWord)
  /-- R159. Rotate left per lane. -/
  | laneRot (w : LaneWord)
  /-- R160. Extracts a bit field, zero- or sign-extended; tail required. -/
  | laneBfx (w : LaneWord)
  /-- R160. Inserts a bit field into vC; tail required. -/
  | laneBfi (w : LaneWord)
  /-- R159. Counts 1 bits per lane. -/
  | lanePop (w : LaneWord)
  /-- R159. Counts leading zero bits per lane. -/
  | laneClz (w : LaneWord)
  /-- R159. Reverses the bits of a word per lane. -/
  | laneBrev (w : LaneWord)
  /-- R161. Selects a or b by c per lane; tail required. -/
  | sel (w : LaneWord)
  /-- R161. Moves B or a sign-extended immediate to D. -/
  | laneMov (w : LaneWord)
  /-- R161. Moves IMM shifted left by 16 to D (SUB = 1, tail required). -/
  | movHi (w : LaneWord)
  /-- R162. f32 addition per lane in mode RM. -/
  | addF32 (w : LaneWord)
  /-- R162. f32 subtraction per lane. -/
  | subF32 (w : LaneWord)
  /-- R162. f32 multiplication per lane. -/
  | mulF32 (w : LaneWord)
  /-- R162. Fused multiply-add with one rounding; tail required. -/
  | fmaF32 (w : LaneWord)
  /-- R162. f32 minimum per lane. -/
  | minF32 (w : LaneWord)
  /-- R162. f32 maximum per lane. -/
  | maxF32 (w : LaneWord)
  /-- R162. Clears the f32 sign bit. -/
  | absF32 (w : LaneWord)
  /-- R162. Inverts the f32 sign bit. -/
  | negF32 (w : LaneWord)
  /-- R162. Rounds an f32 to an integral value in mode RM. -/
  | rintF32 (w : LaneWord)
  /-- R166. Compares f32 values into a mask; tail required. -/
  | cmpF32 (w : LaneWord)
  /-- R166. Compares signed values into a mask; tail required. -/
  | cmpI32 (w : LaneWord)
  /-- R166. Compares unsigned values into a mask; tail required. -/
  | cmpN32 (w : LaneWord)
  /-- R158. Adds packed i16 pairs. -/
  | addI16x2 (w : LaneWord)
  /-- R158. Subtracts packed i16 pairs. -/
  | subI16x2 (w : LaneWord)
  /-- R163. Packed bf16 addition. -/
  | addBf16x2 (w : LaneWord)
  /-- R163. Packed bf16 subtraction. -/
  | subBf16x2 (w : LaneWord)
  /-- R163. Packed bf16 multiplication. -/
  | mulBf16x2 (w : LaneWord)
  /-- R163. Packed bf16 fused multiply-add; tail required. -/
  | fmaBf16x2 (w : LaneWord)
  /-- R163. Packed bf16 minimum. -/
  | minBf16x2 (w : LaneWord)
  /-- R163. Packed bf16 maximum. -/
  | maxBf16x2 (w : LaneWord)
  /-- R163. Packed f16 addition. -/
  | addF16x2 (w : LaneWord)
  /-- R163. Packed f16 subtraction. -/
  | subF16x2 (w : LaneWord)
  /-- R163. Packed f16 multiplication. -/
  | mulF16x2 (w : LaneWord)
  /-- R163. Packed f16 fused multiply-add; tail required. -/
  | fmaF16x2 (w : LaneWord)
  /-- R163. Packed f16 minimum. -/
  | minF16x2 (w : LaneWord)
  /-- R163. Packed f16 maximum. -/
  | maxF16x2 (w : LaneWord)
  /-- R164. Correctly rounded reciprocal, result at t + 12. -/
  | rcpF32 (w : LaneWord)
  /-- R164. Correctly rounded reciprocal square root. -/
  | rsqF32 (w : LaneWord)
  /-- R164. Correctly rounded square root. -/
  | sqrtF32 (w : LaneWord)
  /-- R164. Correctly rounded 2 to the power a. -/
  | ex2F32 (w : LaneWord)
  /-- R164. Correctly rounded log base 2. -/
  | lg2F32 (w : LaneWord)
  /-- R164. Correctly rounded sine of an angle in turns. -/
  | sint (w : LaneWord)
  /-- R164. Correctly rounded cosine of an angle in turns. -/
  | cost (w : LaneWord)
  /-- R167. Converts between lane formats in mode RM; tail required. -/
  | cvt (w : LaneWord)
  /-- R169. Signed 4-way byte dot product plus c; tail required. -/
  | dp4I8 (w : LaneWord)
  /-- R169. Unsigned 4-way byte dot product plus c; tail required. -/
  | dp4N8 (w : LaneWord)
  /-- R170. Decodes a t5 byte into trit masks and flags invalid codes in a mask; tail required. -/
  | unp5 (w : LaneWord)
  /-- R171. Packs an unpacked trit word into a t5 byte shifted into B. -/
  | pk5 (w : LaneWord)
  /-- R172. Accumulates five trit-weighted i8 activations into an i32; tail required. -/
  | tacc (w : LaneWord)
  /-- R173. ANDs two masks per active lane. -/
  | mand (w : LaneWord)
  /-- R173. ORs two masks per active lane. -/
  | mor (w : LaneWord)
  /-- R173. XORs two masks per active lane. -/
  | mxor (w : LaneWord)
  /-- R173. Inverts a mask per active lane. -/
  | mnot (w : LaneWord)
  /-- R174. Writes mask population counts and the lane bit to a register. -/
  | mpop (w : LaneWord)
  /-- R187. Moves A between lanes of a gang by idx, xor, up or down. -/
  | shfl (w : LaneWord)
  /-- R187. Swizzles A within each quad. -/
  | qswz (w : LaneWord)
  /-- R187. Broadcasts one lane's A within each quad. -/
  | qbc (w : LaneWord)
  /-- R188. Reduces A over each quad by the SUB operation. -/
  | qred (w : LaneWord)
  /-- R185. Writes an index register from A per lane. -/
  | xset (w : LaneWord)
  /-- R186. Writes a gang's index window register; tail required. -/
  | xwin (w : LaneWord)
  /-- R189. Sends a lane register to a core's landing register in the cluster; tail required. -/
  | snd (w : LaneWord)
  /-- R190. Reads and empties the core's landing register. -/
  | rcv (w : LaneWord)
  /-- R177. Loads from team scratch, delivering at t + 14. -/
  | lds (w : LaneWord)
  /-- R177. Stores to team scratch, performing at t + 10. -/
  | sts (w : LaneWord)
  /-- R179. Loads one tensor element through a tensor entry. -/
  | ldt (w : LaneWord)
  /-- R178. Scratch atomic read-modify-write. -/
  | ats (w : LaneWord)
  /-- R180. Global load through the team's windows. -/
  | ldg (w : LaneWord)
  /-- R180. Global store through the team's windows. -/
  | stg (w : LaneWord)
  /-- R124. Global load with acquire ordering on L pages. -/
  | ldgAcq (w : LaneWord)
  /-- R124. Global store with release ordering on L pages. -/
  | stgRel (w : LaneWord)
  /-- R181. Global atomic returning the old value. -/
  | atg (w : LaneWord)
  /-- R181. Global compare-and-swap. -/
  | casg (w : LaneWord)
  /-- R182. Global reduction that returns nothing. -/
  | redg (w : LaneWord)
  /-- R126. Gang-scope fence ordering the gang's own loads after its stores. -/
  | fenGang (w : LaneWord)
  /-- R126. Package-scope fence ordering L and N accesses (tail with SUB = 1). -/
  | fenPkg (w : LaneWord)
  /-- R184. Changes the owner of scratch granules from a gang; tail required. -/
  | laneOwn (w : LaneWord)
  /-- R191. Branches the gang or group to a clause header. -/
  | bra (w : LaneWord)
  /-- R191. Branches and pushes the return header on each quad's stack. -/
  | laneCall (w : LaneWord)
  /-- R192. Pops the quad return stacks and continues there. -/
  | laneRet (w : LaneWord)
  /-- R194. Parts the gang's quads into groups by a value inside a span. -/
  | part (w : LaneWord)
  /-- R195. Waits for all quads at the same rejoin. -/
  | rejoin (w : LaneWord)
  /-- R193. Opens a span with a cycle budget. -/
  | spn (w : LaneWord)
  /-- R193. Closes the innermost span, holding the gang until its end cycle. -/
  | spe (w : LaneWord)
  /-- R196. Applies one gang arrival to a barrier. -/
  | arv (w : LaneWord)
  /-- R197. Waits inside a span until a barrier's visible phase differs from P. -/
  | laneBwt (w : LaneWord)
  /-- R198. Raises a software trap for the gang. -/
  | laneTrap (w : LaneWord)
  /-- R199. Retires the gang. -/
  | laneEnd (w : LaneWord)
  /-- R199. Occupies an issue slot. -/
  | laneNop (w : LaneWord)
  /-- R202. Cox 32-bit add. -/
  | coxAdd (w : UA)
  /-- R202. Cox 32-bit subtract. -/
  | coxSub (w : UA)
  /-- R202. Cox low 32-bit product. -/
  | coxMul (w : UA)
  /-- R202. Cox high product, signed or unsigned by FN. -/
  | coxMulh (w : UA)
  /-- R202. Cox minimum, signed or unsigned by FN. -/
  | coxMin (w : UA)
  /-- R202. Cox maximum, signed or unsigned by FN. -/
  | coxMax (w : UA)
  /-- R202. Cox bitwise AND. -/
  | coxAnd (w : UA)
  /-- R202. Cox bitwise OR. -/
  | coxOr (w : UA)
  /-- R202. Cox bitwise XOR. -/
  | coxXor (w : UA)
  /-- R202. Cox A AND NOT B. -/
  | coxAndn (w : UA)
  /-- R202. Cox logical left shift. -/
  | coxShl (w : UA)
  /-- R202. Cox logical right shift. -/
  | coxShr (w : UA)
  /-- R202. Cox arithmetic right shift. -/
  | coxSar (w : UA)
  /-- R202. Cox rotate left. -/
  | coxRot (w : UA)
  /-- R202. Cox bit-field extract. -/
  | coxBfx (w : UA)
  /-- R202. Cox bit-field insert into D. -/
  | coxBfi (w : UA)
  /-- R203. Adds a sign-extended 12-bit immediate. -/
  | addi (w : UI)
  /-- R203. ANDs a zero-extended immediate. -/
  | andi (w : UI)
  /-- R203. ORs a zero-extended immediate. -/
  | ori (w : UI)
  /-- R203. XORs a zero-extended immediate. -/
  | xori (w : UI)
  /-- R203. Left shift by an immediate count. -/
  | shli (w : UI)
  /-- R203. Logical right shift by an immediate count. -/
  | shri (w : UI)
  /-- R203. Arithmetic right shift by an immediate count. -/
  | sari (w : UI)
  /-- R203. Loads a sign-extended 12-bit immediate. -/
  | movi (w : UI)
  /-- R203. Loads IMM12 into bits 31:20. -/
  | ldhi (w : UI)
  /-- R205. Compares two k registers into a predicate. -/
  | coxCmp (w : UA)
  /-- R205. Compares a k register with an immediate into a predicate. -/
  | cmpi (w : UI)
  /-- R206. ANDs two predicates. -/
  | pand (w : UA)
  /-- R206. ORs two predicates. -/
  | por (w : UA)
  /-- R206. Inverts a predicate. -/
  | pnot (w : UA)
  /-- R206. Selects A or B by a predicate. -/
  | csel (w : UA)
  /-- R203. ORs IMM12 shifted left by 8. -/
  | ormi (w : UI)
  /-- R207. Cox unconditional branch. -/
  | jmp (w : UB)
  /-- R207. Cox branch on a predicate or its inverse. -/
  | jp (w : UB)
  /-- R207. Decrements a counter and branches while nonzero. -/
  | loop (w : UB)
  /-- R207. Cox call pushing the return header. -/
  | coxCall (w : UB)
  /-- R207. Cox return popping its stack. -/
  | coxRet (w : UB)
  /-- R204. Cox f32 addition. -/
  | coxAddF32 (w : UA)
  /-- R204. Cox f32 subtraction. -/
  | coxSubF32 (w : UA)
  /-- R204. Cox f32 multiplication. -/
  | coxMulF32 (w : UA)
  /-- R204. Cox fused multiply-add with C named by FN. -/
  | coxFmaF32 (w : UA)
  /-- R204. Cox f32 minimum. -/
  | coxMinF32 (w : UA)
  /-- R204. Cox f32 maximum. -/
  | coxMaxF32 (w : UA)
  /-- R204. Cox conversion selected by FN with a rounding mode. -/
  | coxCvt (w : UA)
  /-- R202. Cox population count. -/
  | coxPop (w : UA)
  /-- R202. Cox leading-zero count. -/
  | coxClz (w : UA)
  /-- R202. Cox bit reverse. -/
  | coxBrev (w : UA)
  /-- R202. Cox register move. -/
  | coxMov (w : UA)
  /-- R202. Cox 64-bit pair addition. -/
  | coxAddI64 (w : UA)
  /-- R202. Cox 64-bit pair subtraction. -/
  | coxSubI64 (w : UA)
  /-- R208. Reads the pod counter into a k pair. -/
  | rdtime (w : UA)
  /-- R210. Holds the cox until a deadline heat cycle. -/
  | twait (w : UA)
  /-- R211. Joins a cluster-exchange session of crew teams. -/
  | csync (w : UA)
  /-- R212. Allocates barrier objects and returns their handles. -/
  | balloc (w : UA)
  /-- R213. Frees a barrier object and advances its generation. -/
  | bfree (w : UA)
  /-- R214. Sets a barrier's expectations and pending bytes. -/
  | binit (w : UE)
  /-- R215. Declares bytes and applies one cox arrival. -/
  | barv (w : UA)
  /-- R215. Declares bytes on a barrier without arriving. -/
  | barvDecl (w : UA)
  /-- R216. Holds the cox to a deadline and checks a barrier phase there. -/
  | coxBwt (w : UA)
  /-- R217. Arms a barrier threshold with an action. -/
  | barm (w : UE)
  /-- R209. Reads a special register into a k register. -/
  | srd (w : UI)
  /-- R230. Reads a system register in handler mode. -/
  | sysr (w : UI)
  /-- R230. Writes a system register in handler mode. -/
  | sysw (w : UI)
  /-- R326. Leaves handler mode and acts by ACTION. -/
  | eret (w : UA)
  /-- R229. Raises a software trap from the cox. -/
  | coxTrap (w : UI)
  /-- R229. Retires the cox and records the team's exit code. -/
  | coxEnd (w : UA)
  /-- R229. Cox no operation. -/
  | coxNop (w : UA)
  /-- R219. Loads a tensor entry from a sealed tensor record. -/
  | tload (w : UE)
  /-- R220. Writes one field group of a tensor entry from k registers. -/
  | tset (w : UE)
  /-- R222. Writes generator registers from k registers (SRC = 0). -/
  | gset (w : UE)
  /-- R222. Writes generator registers from a memory image (SRC = 1). -/
  | gsetMem (w : UE)
  /-- R223. Writes the team's stochastic-rounding seed. -/
  | sseed (w : UA)
  /-- R245. Writes a copy loop-nest slot. -/
  | nest (w : UE)
  /-- R234. Issues a matrix pass D = ±A×±B (+C). -/
  | mma (w : UE)
  /-- R246. Issues a copy of one box per nest iteration on a copy channel. -/
  | xcp (w : UE)
  /-- R252. Issues a collective transfer by a shape record. -/
  | xfer (w : UE)
  /-- R257. Issues a layout-engine permutation of tensor dimensions. -/
  | lay (w : UE)
  /-- R224. Changes granule owners from the cox. -/
  | coxOwn (w : UE)
  /-- R226. Sends a launch write to a package. -/
  | lwr (w : UE)
  /-- R227. Sends a signal crediting a remote barrier. -/
  | sig (w : UE)
  /-- R228. Posts one entry to a host ring. -/
  | hpost (w : UE)
  /-- R330. A stream reaches a lane or uniform word whose OP is unassigned and faults with cause 0x01 at its issue slot. -/
  | unassignedOpcode (w : BitVec 32)
  /-- R153. A lane operation's result lands in its destination at t + L. -/
  | laneResult
  /-- R200. A cox k or predicate write lands at t + 2. -/
  | coxResult
  /-- R114. A lane scratch store performs at t + 10. -/
  | scratchStorePerform
  /-- R178. An ats reads and writes its word at t + 10. -/
  | scratchAtomicPerform
  /-- R177. A scratch load or ats result is written at t + 14. -/
  | scratchLoadDelivery
  /-- R115. A flipped granule opens to its new owner at t + 10. -/
  | ownerFlipOpen
  /-- R32. A global access or beat occupies its HBM4 stack at its stack cycle, with translation and grant checks. -/
  | stackAccess
  /-- R123. An L or N store or load performs at its chosen performance cycle. -/
  | globalPerform
  /-- R180. A global load writes its destination at t + 640 or t + 704. -/
  | globalLoadDelivery
  /-- R180. A store or reduction completes, leaving STO and clearing its flag. -/
  | globalStoreCompletion
  /-- R181. An atg or casg writes its old value at t + 760 or t + 824. -/
  | atomicResult
  /-- R339. A core resends an atomic request whose reply failed or is missing. -/
  | atomicRepeat
  /-- R189. Exchanged data lands in the peer core's landing register at t + 24. -/
  | sndLanding
  /-- R331. A landing not received by landing + 7 faults with 0x85. -/
  | landingNotReceived
  /-- R211. An exchange session opens 8 c after the last csync of its teams. -/
  | csyncSessionOpen
  /-- R27. At span end e the gang continues, or an unclosed span reports an overrun. -/
  | spanEnd
  /-- R197. A gang waiting in bwt resumes once the visible phase differs from P. -/
  | bwtResume
  /-- R195. A parted gang continues as one once all quads reach the rejoin. -/
  | rejoinMerge
  /-- R210. The cox resumes issue at its twait deadline. -/
  | twaitDeadline
  /-- R216. At the cox bwt deadline the phase is checked and issue resumes. -/
  | coxBwtDeadline
  /-- R217. A fired threshold's action launches 6 c after firing. -/
  | barmActionLaunch
  /-- R287. A graph release decreases a node's count at its performance. -/
  | graphRelease
  /-- R218. An lwr, sig or hpost message is accepted into its outbound path at t + 16. -/
  | messageAccepted
  /-- R227. A signal to the own package is applied within 256 c. -/
  | localSignalApply
  /-- R300. A host-ring entry becomes visible once earlier stores performed and room exists. -/
  | hostRingEntryVisible
  /-- R301. Every 64 c a coalescing unit tests its time rule and may raise. -/
  | coalesceTimer
  /-- R299. The host frees ring entries by writing CI, releasing held entries. -/
  | hostRingCiWrite
  /-- R348. Writing a host ring's EN enables it or discards its held entries. -/
  | hostRingEnWrite
  /-- R232. An engine command starts at its first run of granted quanta. -/
  | engineCommandStart
  /-- R238. The matrix engine reads A, B and C in its read interval. -/
  | matrixRead
  /-- R238. The matrix engine writes D elements in its write interval. -/
  | matrixWrite
  /-- R250. A copy beat issues its source read at s + b. -/
  | copyBeat
  /-- R250. A copy beat writes its destination pieces at its write cycle. -/
  | copyWrite
  /-- R260. A layout beat reads its source words. -/
  | layoutBeat
  /-- R260. A layout beat writes its destination 40 or 72 c later. -/
  | layoutWrite
  /-- R233. An engine command completes, leaving ENG, clearing its flag and arriving on its barrier. -/
  | engineCompletion
  /-- R219. A tload fills its entry after checking the record. -/
  | tloadCompletion
  /-- R222. A gset.mem writes generator registers from the image read. -/
  | gsetMemCompletion
  /-- R252. An xfer's shape record is read, checked and captured. -/
  | xferRecordRead
  /-- R273. A fold entry combines a flit with DST by ROP. -/
  | collectiveFold
  /-- R273. A local collective entry moves 256 B at LCYC + 2k. -/
  | localMove
  /-- R274. A channel writes DST from its f32 image after the last bf16 fold. -/
  | bf16ImageWrite
  /-- R256. At DONE an xfer is checked complete and credits its barrier. -/
  | xferDone
  /-- R250. A host beat not complete by its bound faults with 0x89. -/
  | hostBoundCheck
  /-- R265. A transmit entry reads its flit's bytes before the send. -/
  | transmitRead
  /-- R265. A scheduled slot sends a flow's flit, an idle flit, a relayed flit or a halt flit. -/
  | scheduledFlitSend
  /-- R36. A received flit is released from the deskew buffer at send + 1,120. -/
  | flitRelease
  /-- R266. A flit lands at its destination and credits its barrier. -/
  | flitLanding
  /-- R34. Each port sends a frame marker at slot 0 of every link frame. -/
  | frameMarkerSend
  /-- R37. A frame marker is accepted within the slot guard. -/
  | frameMarkerArrival
  /-- R337. A marker outside the guard faults with 0x8F at expected + 13. -/
  | frameMarkerMiss
  /-- R268. The outbound queue head leaves in the next free unscheduled slot. -/
  | unscheduledSend
  /-- R269. A released unscheduled message enters the reorder buffer or is forwarded. -/
  | messageRelease
  /-- R271. A delivered launch write is read and its heat queued. -/
  | launchMessage
  /-- R227. A delivered signal credits and arrives on a barrier. -/
  | signalMessage
  /-- R269. Delivered bulk data performs and its credit is applied. -/
  | bulkMessage
  /-- R269. A delivered acknowledgement decreases MSG and applies a BAR arrival. -/
  | acknowledgement
  /-- R345. A negative acknowledgement raises its cause or schedules a resend. -/
  | negativeAcknowledgement
  /-- R344. An unacknowledged or refused message is sent again with the same SEQ. -/
  | messageRetransmit
  /-- R276. A PTP Sync message is sent or taken. -/
  | sync
  /-- R276. A PTP peer-delay request is taken. -/
  | pdelayReq
  /-- R276. A PTP peer-delay response is taken. -/
  | pdelayResp
  /-- R276. A PTP Announce message feeds the best master clock algorithm. -/
  | announce
  /-- R355. A regatta HALT message fixes PH and is forwarded. -/
  | halt
  /-- R356. A package reports to the coordinator that it is ready or leaving. -/
  | halted
  /-- R356. RESUME shifts halted anchors and pending switches by Δ. -/
  | resume
  /-- R356. A package confirms its resumption. -/
  | resumed
  /-- R356. EXCLUDE removes a package and aborts heats flowing to it. -/
  | exclude
  /-- R355. At PH every package halts its SCHED = 1 heats. -/
  | regattaHalt
  /-- R356. The coordinator proceeds 10 s after PH without all HALTED. -/
  | haltedTimeout
  /-- R261. A port completes training and measures its deskew. -/
  | linkTrained
  /-- R346. A port losing training raises 0xE2 in heats that name it. -/
  | linkTrainingLost
  /-- R346. Loss of PTP lock raises 0xE3 and clears PTP in READY. -/
  | ptpLockLost
  /-- R15. Firmware loads the pod counter while nothing is resident. -/
  | podCounterLoad
  /-- R16. The servo adjusts the clock trim at most once per 131,072 c. -/
  | frequencyTrim
  /-- R33. Controllers refresh every stack in cycles 3,936–4,095 of each frame. -/
  | refresh
  /-- R39. Writing ARM = 1 schedules a slot-table bank switch at SWCYC. -/
  | bankSwitchArm
  /-- R39. Writing ARM = 0 cancels a pending bank switch. -/
  | bankSwitchCancel
  /-- R39. The transmit side changes banks at SWCYC. -/
  | bankSwitchTx
  /-- R39. The receive side changes banks at SWCYC + 1,120. -/
  | bankSwitchRx
  /-- R43. Every 1,400 c the governor reassigns power tokens. -/
  | governorStep
  /-- R308. Each millisecond the umpire lowers or restores BUDGET by temperature. -/
  | thermalBudgetStep
  /-- R278. The host writes a queue's producer index, submitting commands. -/
  | queuePiWrite
  /-- R282. Writing a queue's EN enables it and restarts its save-notice count. -/
  | queueEnWrite
  /-- R278. The front end reads a command entry and captures its records. -/
  | prefetch
  /-- R281. A nop command completes when it becomes the head. -/
  | commandNop
  /-- R20. A heat command becomes a ready head for admission. -/
  | commandHeat
  /-- R287. A graph command activates its graph when it becomes the head. -/
  | commandGraph
  /-- R280. An indirect command runs the records of its buffer in order. -/
  | commandIndirect
  /-- R284. Every 64 c the arbiter admits at most one queue head. -/
  | arbiterStep
  /-- R62. At its anchor a heat starts running its teams. -/
  | heatStart
  /-- R57. An armed heat not triggered by its ARMTO limit is released with 0x92. -/
  | armedTimeout
  /-- R337. At END any unretired gang or cox faults with 0x90. -/
  | endCheck
  /-- R61. A closing heat whose counters read zero completes and releases its resources. -/
  | heatCompletion
  /-- R287. A ready copy node starts moving its bytes. -/
  | copyNode
  /-- R287. A copy node completes after its last byte and credit. -/
  | copyNodeCompletion
  /-- R287. A ready conditional node tests its word, re-arms and releases an arm. -/
  | conditionalNode
  /-- R287. The graph completes when its end node is ready and nothing runs. -/
  | graphEnd
  /-- R290. A MODE 0 request drains, saves or discards teams by the estimator. -/
  | preemptEstimate
  /-- R289. A MODE 1 request saves the heat. -/
  | preemptSave
  /-- R289. A MODE 2 request lets the heat drain to completion. -/
  | preemptDrain
  /-- R291. A non-draining heat halts at H. -/
  | preemptionHalt
  /-- R320. A faulted heat halts at Hf on every cluster. -/
  | faultHalt
  /-- R321. At Q the outstanding counters are zero and the policy acts. -/
  | quiesce
  /-- R291. The save image performs and the heat's resources are released. -/
  | saveComplete
  /-- R325. The named cox enters handler mode at Q + 256. -/
  | handlerEntry
  /-- R325. A handler not done within 65,536 c aborts the heat with 0xF8. -/
  | handlerTimeout
  /-- R294. Marshals restore a saved heat before its new anchor plus Smin. -/
  | restore
  /-- R352. Each agent resumes at A′ plus its stop point, replaying faulted work. -/
  | agentResume
  /-- R335. A mailbox REVOKE request fixes a revocation cycle Rv. -/
  | revoke
  /-- R335. From Rv accesses to the revoked window fault with 0x65. -/
  | revocation
  /-- R323. The driver sets a queue's handler entry and cause policies. -/
  | policySet
  /-- R305. A mailbox nonce request returns a signed attestation report. -/
  | attestation
  /-- R302. A firmware command-link message is consumed and a permit returned. -/
  | commandLinkMessage
  /-- R303. The device comes up stage by stage, setting READY bits. -/
  | powerOnReset
  /-- R304. The boot ROM verifies the firmware image with XMSS. -/
  | firmwareVerify
  /-- R350. A PCIe function-level reset lets a failed device take work again. -/
  | functionLevelReset
  /-- R297. A host access through BAR4 performs in free stack grains. -/
  | hostMemoryAccess
  /-- R306. Writing 1 latches all event counters into read copies. -/
  | counterLatch
  /-- R327. A die at or above 105 °C raises fatal cause 0xF5. -/
  | dieOvertemp
  /-- R327. A die bridge error raises fatal cause 0xF4. -/
  | dieBridgeError
  /-- R327. The firmware watchdog expires, raising fatal cause 0xF6. -/
  | firmwareWatchdog
  /-- R327. A fatal machine check raises cause 0xFF. -/
  | machineCheck
  /-- R5. A write to a register without behaviour of its own stores its RW fields. -/
  | registerWrite
  /-- R347. A pre-emption request whose MODE is unassigned is ignored and the mailbox status is set. -/
  | preemptionRequestUnassigned
  /-- R349. Marshals scrub the scratch and tiles of idle clusters, correcting single-bit errors and counting them. -/
  | scrub
  /-- R303. The PCIe host link fails and the PCIE bit of READY clears. -/
  | hostLinkLost
  /-- R307. An IEEE 1149.1 operation scans the package balls while the production fuse is not set. -/
  | boundaryScan
  /-- R322. The driver sets the location of the umpire's fault log through the firmware mailbox. -/
  | faultLogLocation
  /-- R350. The driver names the fatal dump area through the firmware mailbox. -/
  | dumpArea
  /-- R276. Each port sends a peer-delay request on its link. -/
  | pdelayReqSend
  /-- R276. A package sends Announce messages for the best master clock algorithm. -/
  | announceSend
  /-- R256. A re-sharding changes the package's layout generation, waiting for DONE of any xfer that pins it. -/
  | layoutGenerationChange
  /-- R262. The marshal moves a checkpoint to another package as bulk-class messages. -/
  | checkpointMove
deriving DecidableEq, Repr

/-- A step of the machine with what it acts on: the constructor of `Instr` it is, and its data. The agenda of the
state holds these; `State.arg` holds the one being executed. (Lean's runtime allows at most 244 constructors with
fields in one inductive, so the steps of `Instr` carry their data here.) -/
inductive Ev where
  | laneResult (g : GangRef) (r : LaneLanding)
  | coxResult (t : TeamRef) (r : CoxLanding)
  | scratchStorePerform (op : ScratchAcc) (fail : Option Detect)
  | scratchAtomicPerform (op : ScratchAcc) (fail : Option Detect)
  | scratchLoadDelivery (g : GangRef) (r : LaneLanding)
  | ownerFlipOpen (core granule : Nat)
  | stackAccess (use : StackUse)
  | globalPerform (op : Nat) (lanes : BitVec 32)
  | globalLoadDelivery (op : Nat) (lanes : BitVec 32)
  | globalStoreCompletion (op : Nat)
  | atomicResult (op : Nat) (lanes : BitVec 32)
  | atomicRepeat (op lane : Nat)
  | sndLanding (core : Nat) (sender : GangRef) (data : List (BitVec 32))
  | landingNotReceived (core stamp : Nat)
  | csyncSessionOpen (hid cluster mask tag : Nat)
  | spanEnd (g : GangRef) (stop : Nat)
  | bwtResume (g : GangRef) (quads : BitVec 8)
  | rejoinMerge (g : GangRef)
  | twaitDeadline (t : TeamRef)
  | coxBwtDeadline (t : TeamRef)
  | barmActionLaunch (core : Nat) (act : BarmAct)
  | graphRelease (queue node heatid msgHid msgCore : Nat)
  | messageAccepted (post : Post)
  | localSignalApply (core : Nat) (handle credit : BitVec 32) (arrive : Bool) (done : AckTo)
  | hostRingEntryVisible (ring : Nat)
  | coalesceTimer
  | hostRingCiWrite (ring : Nat) (ci : BitVec 32)
  | hostRingEnWrite (ring : Nat) (en : Bool)
  | engineCommandStart (cmd : Nat)
  | matrixRead (cmd : Nat)
  | matrixWrite (cmd : Nat) (last : Bool)
  | copyBeat (cmd beat : Nat)
  | copyWrite (cmd beat : Nat)
  | layoutBeat (cmd beat : Nat)
  | layoutWrite (cmd beat : Nat)
  | engineCompletion (cmd : Nat)
  | tloadCompletion (op : Nat)
  | gsetMemCompletion (op : Nat)
  | xferRecordRead (cmd : Nat)
  | collectiveFold (hid entry cursor : Nat) (data : List (BitVec 8))
  | localMove (hid entry k : Nat)
  | bf16ImageWrite (cmd offset : Nat)
  | xferDone (cmd : Nat)
  | hostBoundCheck (cmd beat : Nat) (write : Bool)
  | transmitRead (hid entry k : Nat) (late : Bool)
  | scheduledFlitSend (hid entry k : Nat)
  | flitArrival (port release : Nat) (f : Flit)
  | flitRelease (port : Nat)
  | flitLanding (hid entry cursor : Nat) (data : List (BitVec 8))
  | frameMarkerSend
  | frameMarkerArrival (port : Nat) (expected : Nat)
  | frameMarkerMiss (port : Nat) (expected : Nat)
  | unscheduledSend (port : Nat)
  | messageRelease (port : Nat) (bytes : List (BitVec 8))
  | launchMessage (m : Msg) (done : AckTo)
  | signalMessage (m : Msg)
  | bulkMessage (m : Msg)
  | acknowledgement (m : Msg)
  | negativeAcknowledgement (m : Msg) (cause : Nat)
  | messageRetransmit (key : FlowKey) (sq : BitVec 32) (attempt : Nat)
  | sync (port : Nat) (sent : Bool) (originTime : Nat)
  | pdelayReq (port : Nat)
  | pdelayResp (port : Nat) (turnaround : Nat)
  | announce (port : Nat) (body : List (BitVec 8))
  | halt (initiator cause ph : Nat) (fromPort : Option Nat)
  | halted (pkg leaving arg ph initiator : Nat)
  | resume (delta ph initiator : Nat)
  | resumed (pkg : Nat)
  | exclude (pkg ph initiator : Nat)
  | regattaHalt (ph : Nat)
  | haltedTimeout (ph : Nat)
  | linkTrained (port deskew flight : Nat)
  | linkTrainingLost (port : Nat)
  | ptpLockLost
  | podCounterLoad (value : BitVec 64) (epoch : Nat)
  | frequencyTrim (steps : Int)
  | refresh
  | bankSwitchArm (port : Nat) (swcyc : Nat)
  | bankSwitchCancel (port : Nat) (swcyc : Nat)
  | bankSwitchTx (port : Nat) (swcyc : Nat)
  | bankSwitchRx (port : Nat) (swcyc : Nat)
  | governorStep
  | thermalBudgetStep
  | queuePiWrite (queue : Nat) (pi : BitVec 32)
  | queueEnWrite (queue : Nat) (en : Bool)
  | prefetch (queue entry : Nat)
  | commandNop (queue : Nat)
  | commandHeat (queue : Nat)
  | commandGraph (queue : Nat)
  | commandIndirect (queue : Nat)
  | arbiterStep
  | heatStart (hid : Nat)
  | armedTimeout (hid : Nat)
  | endCheck (hid : Nat)
  | heatCompletion (hid : Nat)
  | copyNode (queue node : Nat)
  | copyNodeCompletion (queue node : Nat)
  | conditionalNode (queue node : Nat)
  | graphEnd (queue : Nat)
  | preemptEstimate (heatid : BitVec 32) (deadline : BitVec 64)
  | preemptSave (heatid : BitVec 32) (deadline : BitVec 64)
  | preemptDrain (heatid : BitVec 32) (deadline : BitVec 64)
  | preemptionHalt (hid : Nat)
  | faultHalt (hid : Nat)
  | quiesce (hid : Nat)
  | saveComplete (hid : Nat)
  | handlerEntry (hid : Nat)
  | handlerTimeout (hid : Nat)
  | restore (hid : Nat)
  | agentResume (hid : Nat) (agent : StopAgent)
  | revoke (heatid : BitVec 32) (team window : Nat)
  | revocation (hid team window : Nat)
  | policySet (queue cause : Nat) (policy : BitVec 2) (hentry : Option (BitVec 56))
  | attestation (nonce : List (BitVec 8))
  | commandLinkMessage (marshal : Nat) (toUmpire : Bool) (bytes : List (BitVec 8))
  | powerOnReset (stage : Nat)
  | firmwareVerify (image : List (BitVec 8)) (fromMailbox : Bool)
  | functionLevelReset
  | hostMemoryAccess (write : Bool) (offset : Nat) (data : List (BitVec 8))
  | counterLatch
  | dieOvertemp (die : Nat)
  | dieBridgeError
  | firmwareWatchdog
  | machineCheck
  | registerWrite (offset : Nat) (value : BitVec 64)
  | slotTableWrite (port : Nat) (rx bank : Bool) (idx : Nat) (value : BitVec 32)
  | preemptionRequestUnassigned (heatid mode : BitVec 32)
  | scrub (cluster : Nat) (errors : Nat)
  | hostLinkLost
  | boundaryScan (pins : List Bool)
  | faultLogLocation (addr : BitVec 48)
  | dumpArea (addr : BitVec 48)
  | pdelayReqSend (port : Nat)
  | announceSend
  | layoutGenerationChange (gen : BitVec 32)
  | checkpointMove (heatid : BitVec 32) (pkg : Nat) (dest : BitVec 48)
  | idle
deriving DecidableEq, Repr

/-- The instruction a step's data belongs to, none for `idle`, which is no step. -/
def Ev.instr : Ev → Option Instr
  | .laneResult .. => some .laneResult
  | .coxResult .. => some .coxResult
  | .scratchStorePerform .. => some .scratchStorePerform
  | .scratchAtomicPerform .. => some .scratchAtomicPerform
  | .scratchLoadDelivery .. => some .scratchLoadDelivery
  | .ownerFlipOpen .. => some .ownerFlipOpen
  | .stackAccess .. => some .stackAccess
  | .globalPerform .. => some .globalPerform
  | .globalLoadDelivery .. => some .globalLoadDelivery
  | .globalStoreCompletion .. => some .globalStoreCompletion
  | .atomicResult .. => some .atomicResult
  | .atomicRepeat .. => some .atomicRepeat
  | .sndLanding .. => some .sndLanding
  | .landingNotReceived .. => some .landingNotReceived
  | .csyncSessionOpen .. => some .csyncSessionOpen
  | .spanEnd .. => some .spanEnd
  | .bwtResume .. => some .bwtResume
  | .rejoinMerge .. => some .rejoinMerge
  | .twaitDeadline .. => some .twaitDeadline
  | .coxBwtDeadline .. => some .coxBwtDeadline
  | .barmActionLaunch .. => some .barmActionLaunch
  | .graphRelease .. => some .graphRelease
  | .messageAccepted .. => some .messageAccepted
  | .localSignalApply .. => some .localSignalApply
  | .hostRingEntryVisible .. => some .hostRingEntryVisible
  | .coalesceTimer .. => some .coalesceTimer
  | .hostRingCiWrite .. => some .hostRingCiWrite
  | .hostRingEnWrite .. => some .hostRingEnWrite
  | .engineCommandStart .. => some .engineCommandStart
  | .matrixRead .. => some .matrixRead
  | .matrixWrite .. => some .matrixWrite
  | .copyBeat .. => some .copyBeat
  | .copyWrite .. => some .copyWrite
  | .layoutBeat .. => some .layoutBeat
  | .layoutWrite .. => some .layoutWrite
  | .engineCompletion .. => some .engineCompletion
  | .tloadCompletion .. => some .tloadCompletion
  | .gsetMemCompletion .. => some .gsetMemCompletion
  | .xferRecordRead .. => some .xferRecordRead
  | .collectiveFold .. => some .collectiveFold
  | .localMove .. => some .localMove
  | .bf16ImageWrite .. => some .bf16ImageWrite
  | .xferDone .. => some .xferDone
  | .hostBoundCheck .. => some .hostBoundCheck
  | .transmitRead .. => some .transmitRead
  | .scheduledFlitSend .. => some .scheduledFlitSend
  | .flitArrival .. => some .flitRelease
  | .flitRelease .. => some .flitRelease
  | .flitLanding .. => some .flitLanding
  | .frameMarkerSend .. => some .frameMarkerSend
  | .frameMarkerArrival .. => some .frameMarkerArrival
  | .frameMarkerMiss .. => some .frameMarkerMiss
  | .unscheduledSend .. => some .unscheduledSend
  | .messageRelease .. => some .messageRelease
  | .launchMessage .. => some .launchMessage
  | .signalMessage .. => some .signalMessage
  | .bulkMessage .. => some .bulkMessage
  | .acknowledgement .. => some .acknowledgement
  | .negativeAcknowledgement .. => some .negativeAcknowledgement
  | .messageRetransmit .. => some .messageRetransmit
  | .sync .. => some .sync
  | .pdelayReq .. => some .pdelayReq
  | .pdelayResp .. => some .pdelayResp
  | .announce .. => some .announce
  | .halt .. => some .halt
  | .halted .. => some .halted
  | .resume .. => some .resume
  | .resumed .. => some .resumed
  | .exclude .. => some .exclude
  | .regattaHalt .. => some .regattaHalt
  | .haltedTimeout .. => some .haltedTimeout
  | .linkTrained .. => some .linkTrained
  | .linkTrainingLost .. => some .linkTrainingLost
  | .ptpLockLost .. => some .ptpLockLost
  | .podCounterLoad .. => some .podCounterLoad
  | .frequencyTrim .. => some .frequencyTrim
  | .refresh .. => some .refresh
  | .bankSwitchArm .. => some .bankSwitchArm
  | .bankSwitchCancel .. => some .bankSwitchCancel
  | .bankSwitchTx .. => some .bankSwitchTx
  | .bankSwitchRx .. => some .bankSwitchRx
  | .governorStep .. => some .governorStep
  | .thermalBudgetStep .. => some .thermalBudgetStep
  | .queuePiWrite .. => some .queuePiWrite
  | .queueEnWrite .. => some .queueEnWrite
  | .prefetch .. => some .prefetch
  | .commandNop .. => some .commandNop
  | .commandHeat .. => some .commandHeat
  | .commandGraph .. => some .commandGraph
  | .commandIndirect .. => some .commandIndirect
  | .arbiterStep .. => some .arbiterStep
  | .heatStart .. => some .heatStart
  | .armedTimeout .. => some .armedTimeout
  | .endCheck .. => some .endCheck
  | .heatCompletion .. => some .heatCompletion
  | .copyNode .. => some .copyNode
  | .copyNodeCompletion .. => some .copyNodeCompletion
  | .conditionalNode .. => some .conditionalNode
  | .graphEnd .. => some .graphEnd
  | .preemptEstimate .. => some .preemptEstimate
  | .preemptSave .. => some .preemptSave
  | .preemptDrain .. => some .preemptDrain
  | .preemptionHalt .. => some .preemptionHalt
  | .faultHalt .. => some .faultHalt
  | .quiesce .. => some .quiesce
  | .saveComplete .. => some .saveComplete
  | .handlerEntry .. => some .handlerEntry
  | .handlerTimeout .. => some .handlerTimeout
  | .restore .. => some .restore
  | .agentResume .. => some .agentResume
  | .revoke .. => some .revoke
  | .revocation .. => some .revocation
  | .policySet .. => some .policySet
  | .attestation .. => some .attestation
  | .commandLinkMessage .. => some .commandLinkMessage
  | .powerOnReset .. => some .powerOnReset
  | .firmwareVerify .. => some .firmwareVerify
  | .functionLevelReset .. => some .functionLevelReset
  | .hostMemoryAccess .. => some .hostMemoryAccess
  | .counterLatch .. => some .counterLatch
  | .dieOvertemp .. => some .dieOvertemp
  | .dieBridgeError .. => some .dieBridgeError
  | .firmwareWatchdog .. => some .firmwareWatchdog
  | .machineCheck .. => some .machineCheck
  | .registerWrite .. => some .registerWrite
  | .slotTableWrite .. => some .registerWrite
  | .preemptionRequestUnassigned .. => some .preemptionRequestUnassigned
  | .scrub .. => some .scrub
  | .hostLinkLost .. => some .hostLinkLost
  | .boundaryScan .. => some .boundaryScan
  | .faultLogLocation .. => some .faultLogLocation
  | .dumpArea .. => some .dumpArea
  | .pdelayReqSend .. => some .pdelayReqSend
  | .announceSend .. => some .announceSend
  | .layoutGenerationChange .. => some .layoutGenerationChange
  | .checkpointMove .. => some .checkpointMove
  | .idle => none

end Sys2Proof
end

