-- ==== Sys2Proof/Decode.lean ====
section
/-! DEFINITION. From words to instructions and back (R133-R144), and the breaches that an instruction's own words show
(R330, R331). `parse` reads every word; `staticBreaches` lists what the rules find wrong in it. -/
namespace Sys2Proof

/-- Bits hi:lo of a natural number. -/
def bits (x hi lo : Nat) : Nat := (x >>> lo) % 2 ^ (hi + 1 - lo)

/-- Bit i of a word. -/
def bit (w : BitVec n) (i : Nat) : Bool := w.getLsbD i

/-- Sign extension of the low n bits to an integer. -/
def sextInt (x n : Nat) : Int :=
  let y := x % 2 ^ n
  if y < 2 ^ (n - 1) then (y : Int) else (y : Int) - (2 ^ n : Nat)

/-- An integer taken mod 2^n. -/
def wrapN (n : Nat) (x : Int) : Nat := (x % ((2 ^ n : Nat) : Int)).toNat

/-- An integer taken mod 2^32, as a register word. -/
def wrap32 (x : Int) : Word := BitVec.ofNat 32 (wrapN 32 x)

/-- A word read as a signed integer. -/
def sw (w : Word) : Int := sextInt w.toNat 32

/-- Little-endian bytes of a number (R4). -/
def leBytes : Nat → Nat → List (BitVec 8)
  | 0, _ => []
  | n + 1, x => BitVec.ofNat 8 x :: leBytes n (x / 256)

/-- The number whose little-endian bytes are given (R4). -/
def ofLeBytes : List (BitVec 8) → Nat
  | [] => 0
  | b :: bs => b.toNat + 256 * ofLeBytes bs

/-- The tail that an instruction without one behaves as if it had (R137, Table 3: TA default). -/
def defaultTail : BitVec 32 := 0xE0000000#32

/-- The tail in force: the word's own, or the default. -/
def LaneWord.tailOr (w : LaneWord) : Nat := (w.tail.getD defaultTail).toNat
/-- C, third source operand code (R137). -/
def LaneWord.c (w : LaneWord) : Nat := bits w.tailOr 31 25
/-- IMB: B is replaced by IMM (R137). -/
def LaneWord.imb (w : LaneWord) : Bool := w.tailOr.testBit 24
/-- RM, rounding mode (R137). -/
def LaneWord.rm (w : LaneWord) : Nat := bits w.tailOr 23 21
/-- SAT (R137). -/
def LaneWord.sat (w : LaneWord) : Bool := w.tailOr.testBit 20
/-- SUB, sub-function (R137). -/
def LaneWord.sub (w : LaneWord) : Nat := bits w.tailOr 19 16
/-- IMM, 16-bit immediate (R137). -/
def LaneWord.imm (w : LaneWord) : Nat := bits w.tailOr 15 0
/-- SZ of a memory tail (R137). -/
def LaneWord.sz (w : LaneWord) : Nat := bits w.tailOr 24 22
/-- SX of a memory tail (R137). -/
def LaneWord.sx (w : LaneWord) : Bool := w.tailOr.testBit 21
/-- AOP of a memory tail (R137). -/
def LaneWord.aop (w : LaneWord) : Nat := bits w.tailOr 20 17
/-- OFF of a memory tail, 17 bits (R137). -/
def LaneWord.off (w : LaneWord) : Nat := bits w.tailOr 16 0
/-- IMM25 of a control tail, signed (R137). -/
def LaneWord.imm25 (w : LaneWord) : Int := sextInt w.tailOr 25

/-- The fields of form UA (R142). -/
def uaOf (w : BitVec 32) : UA :=
  { d := w.extractLsb' 18 6, a := w.extractLsb' 12 6, b := w.extractLsb' 6 6, fn := w.extractLsb' 0 6 }
/-- The fields of form UI (R142). -/
def uiOf (w : BitVec 32) : UI := { d := w.extractLsb' 18 6, a := w.extractLsb' 12 6, imm := w.extractLsb' 0 12 }
/-- The fields of form UB (R142). -/
def ubOf (w : BitVec 32) : UB := { cond := w.extractLsb' 20 4, off := w.extractLsb' 0 20 }
/-- The fields of form UE (R142). -/
def ueOf (w : BitVec 32) : UE := { d := w.extractLsb' 18 6, a := w.extractLsb' 12 6, flags := w.extractLsb' 0 12 }

/-- The fields of a lane word; the following word is its tail exactly when X = 1 (R136). -/
def laneWordOf (w : BitVec 32) (next : BitVec 32) : LaneWord :=
  { d := w.extractLsb' 17 7, a := w.extractLsb' 10 7, b := w.extractLsb' 3 7, hold := w.extractLsb' 1 2,
    tail := if bit w 0 then some next else none }

/-- An instruction's words taken apart: opcode and form. -/
inductive Parts where
  | lane (op : Nat) (w : LaneWord)
  | ua (op : Nat) (w : UA)
  | ui (op : Nat) (w : UI)
  | ub (op : Nat) (w : UB)
  | ue (op : Nat) (w : UE)
  | raw (w : BitVec 32)
deriving DecidableEq, Repr

/-- The lane instruction of an opcode (R140); `mov.hi` and `fen.pkg` are told from `mov` and `fen.gang` by SUB (R161, R183). -/
def laneInstr (op : Nat) (w : LaneWord) : Option Instr :=
  match op with
  | 0 => some (.addI32 w)
  | 1 => some (.subI32 w)
  | 2 => some (.mulI32 w)
  | 3 => some (.madI32 w)
  | 4 => some (.minI32 w)
  | 5 => some (.maxI32 w)
  | 6 => some (.minN32 w)
  | 7 => some (.maxN32 w)
  | 8 => some (.absI32 w)
  | 9 => some (.negI32 w)
  | 10 => some (.mulhI32 w)
  | 11 => some (.mulhN32 w)
  | 12 => some (.addSatI32 w)
  | 13 => some (.subSatI32 w)
  | 14 => some (.addI64 w)
  | 15 => some (.subI64 w)
  | 16 => some (.laneAnd w)
  | 17 => some (.laneOr w)
  | 18 => some (.laneXor w)
  | 19 => some (.laneAndn w)
  | 20 => some (.laneShl w)
  | 21 => some (.laneShr w)
  | 22 => some (.laneSar w)
  | 23 => some (.laneRot w)
  | 24 => some (.laneBfx w)
  | 25 => some (.laneBfi w)
  | 26 => some (.lanePop w)
  | 27 => some (.laneClz w)
  | 28 => some (.laneBrev w)
  | 29 => some (.sel w)
  | 30 => some (if w.sub = 1 then .movHi w else .laneMov w)
  | 32 => some (.addF32 w)
  | 33 => some (.subF32 w)
  | 34 => some (.mulF32 w)
  | 35 => some (.fmaF32 w)
  | 36 => some (.minF32 w)
  | 37 => some (.maxF32 w)
  | 38 => some (.absF32 w)
  | 39 => some (.negF32 w)
  | 40 => some (.rintF32 w)
  | 41 => some (.cmpF32 w)
  | 42 => some (.cmpI32 w)
  | 43 => some (.cmpN32 w)
  | 44 => some (.addI16x2 w)
  | 45 => some (.subI16x2 w)
  | 48 => some (.addBf16x2 w)
  | 49 => some (.subBf16x2 w)
  | 50 => some (.mulBf16x2 w)
  | 51 => some (.fmaBf16x2 w)
  | 52 => some (.minBf16x2 w)
  | 53 => some (.maxBf16x2 w)
  | 54 => some (.addF16x2 w)
  | 55 => some (.subF16x2 w)
  | 56 => some (.mulF16x2 w)
  | 57 => some (.fmaF16x2 w)
  | 58 => some (.minF16x2 w)
  | 59 => some (.maxF16x2 w)
  | 64 => some (.rcpF32 w)
  | 65 => some (.rsqF32 w)
  | 66 => some (.sqrtF32 w)
  | 67 => some (.ex2F32 w)
  | 68 => some (.lg2F32 w)
  | 69 => some (.sint w)
  | 70 => some (.cost w)
  | 72 => some (.cvt w)
  | 73 => some (.dp4I8 w)
  | 74 => some (.dp4N8 w)
  | 75 => some (.unp5 w)
  | 76 => some (.pk5 w)
  | 77 => some (.tacc w)
  | 80 => some (.mand w)
  | 81 => some (.mor w)
  | 82 => some (.mxor w)
  | 83 => some (.mnot w)
  | 84 => some (.mpop w)
  | 85 => some (.shfl w)
  | 86 => some (.qswz w)
  | 87 => some (.qbc w)
  | 88 => some (.qred w)
  | 89 => some (.xset w)
  | 90 => some (.xwin w)
  | 91 => some (.snd w)
  | 92 => some (.rcv w)
  | 96 => some (.lds w)
  | 97 => some (.sts w)
  | 98 => some (.ldt w)
  | 99 => some (.ats w)
  | 100 => some (.ldg w)
  | 101 => some (.stg w)
  | 102 => some (.ldgAcq w)
  | 103 => some (.stgRel w)
  | 104 => some (.atg w)
  | 105 => some (.casg w)
  | 106 => some (.redg w)
  | 107 => some (if w.sub = 1 then .fenPkg w else .fenGang w)
  | 108 => some (.laneOwn w)
  | 112 => some (.bra w)
  | 113 => some (.laneCall w)
  | 114 => some (.laneRet w)
  | 115 => some (.part w)
  | 116 => some (.rejoin w)
  | 117 => some (.spn w)
  | 118 => some (.spe w)
  | 119 => some (.arv w)
  | 120 => some (.laneBwt w)
  | 121 => some (.laneTrap w)
  | 122 => some (.laneEnd w)
  | 123 => some (.laneNop w)
  | _ => none

/-- The uniform instruction of an opcode (R143); D<0> tells `barv.decl` from `barv` (R215) and FLAGS<4> `gset.mem` from `gset` (R222). -/
def uniInstr (op : Nat) (w : BitVec 32) : Option Instr :=
  match op with
  | 0 => some (.coxAdd (uaOf w))
  | 1 => some (.coxSub (uaOf w))
  | 2 => some (.coxMul (uaOf w))
  | 3 => some (.coxMulh (uaOf w))
  | 4 => some (.coxMin (uaOf w))
  | 5 => some (.coxMax (uaOf w))
  | 6 => some (.coxAnd (uaOf w))
  | 7 => some (.coxOr (uaOf w))
  | 8 => some (.coxXor (uaOf w))
  | 9 => some (.coxAndn (uaOf w))
  | 10 => some (.coxShl (uaOf w))
  | 11 => some (.coxShr (uaOf w))
  | 12 => some (.coxSar (uaOf w))
  | 13 => some (.coxRot (uaOf w))
  | 14 => some (.coxBfx (uaOf w))
  | 15 => some (.coxBfi (uaOf w))
  | 16 => some (.addi (uiOf w))
  | 17 => some (.andi (uiOf w))
  | 18 => some (.ori (uiOf w))
  | 19 => some (.xori (uiOf w))
  | 20 => some (.shli (uiOf w))
  | 21 => some (.shri (uiOf w))
  | 22 => some (.sari (uiOf w))
  | 23 => some (.movi (uiOf w))
  | 24 => some (.ldhi (uiOf w))
  | 25 => some (.coxCmp (uaOf w))
  | 26 => some (.cmpi (uiOf w))
  | 27 => some (.pand (uaOf w))
  | 28 => some (.por (uaOf w))
  | 29 => some (.pnot (uaOf w))
  | 30 => some (.csel (uaOf w))
  | 31 => some (.ormi (uiOf w))
  | 32 => some (.jmp (ubOf w))
  | 33 => some (.jp (ubOf w))
  | 34 => some (.loop (ubOf w))
  | 35 => some (.coxCall (ubOf w))
  | 36 => some (.coxRet (ubOf w))
  | 48 => some (.coxAddF32 (uaOf w))
  | 49 => some (.coxSubF32 (uaOf w))
  | 50 => some (.coxMulF32 (uaOf w))
  | 51 => some (.coxFmaF32 (uaOf w))
  | 52 => some (.coxMinF32 (uaOf w))
  | 53 => some (.coxMaxF32 (uaOf w))
  | 54 => some (.coxCvt (uaOf w))
  | 55 => some (.coxPop (uaOf w))
  | 56 => some (.coxClz (uaOf w))
  | 57 => some (.coxBrev (uaOf w))
  | 58 => some (.coxMov (uaOf w))
  | 59 => some (.coxAddI64 (uaOf w))
  | 60 => some (.coxSubI64 (uaOf w))
  | 64 => some (.rdtime (uaOf w))
  | 65 => some (.twait (uaOf w))
  | 66 => some (.csync (uaOf w))
  | 67 => some (.balloc (uaOf w))
  | 68 => some (.bfree (uaOf w))
  | 69 => some (.binit (ueOf w))
  | 70 => some (if bit w 18 then .barvDecl (uaOf w) else .barv (uaOf w))
  | 71 => some (.coxBwt (uaOf w))
  | 72 => some (.barm (ueOf w))
  | 73 => some (.srd (uiOf w))
  | 74 => some (.sysr (uiOf w))
  | 75 => some (.sysw (uiOf w))
  | 76 => some (.eret (uaOf w))
  | 77 => some (.coxTrap (uiOf w))
  | 78 => some (.coxEnd (uaOf w))
  | 79 => some (.coxNop (uaOf w))
  | 80 => some (.tload (ueOf w))
  | 81 => some (.tset (ueOf w))
  | 82 => some (if bit w 4 then .gsetMem (ueOf w) else .gset (ueOf w))
  | 83 => some (.sseed (uaOf w))
  | 84 => some (.nest (ueOf w))
  | 85 => some (.mma (ueOf w))
  | 86 => some (.xcp (ueOf w))
  | 87 => some (.xfer (ueOf w))
  | 88 => some (.lay (ueOf w))
  | 89 => some (.coxOwn (ueOf w))
  | 96 => some (.lwr (ueOf w))
  | 97 => some (.sig (ueOf w))
  | 98 => some (.hpost (ueOf w))
  | _ => none

/-- A program instruction taken apart again: its opcode and its fields, or none for a step that no word encodes. -/
def Parts.of (i : Instr) : Option Parts :=
  match i with
  | .addI32 w => some (.lane 0 w)
  | .subI32 w => some (.lane 1 w)
  | .mulI32 w => some (.lane 2 w)
  | .madI32 w => some (.lane 3 w)
  | .minI32 w => some (.lane 4 w)
  | .maxI32 w => some (.lane 5 w)
  | .minN32 w => some (.lane 6 w)
  | .maxN32 w => some (.lane 7 w)
  | .absI32 w => some (.lane 8 w)
  | .negI32 w => some (.lane 9 w)
  | .mulhI32 w => some (.lane 10 w)
  | .mulhN32 w => some (.lane 11 w)
  | .addSatI32 w => some (.lane 12 w)
  | .subSatI32 w => some (.lane 13 w)
  | .addI64 w => some (.lane 14 w)
  | .subI64 w => some (.lane 15 w)
  | .laneAnd w => some (.lane 16 w)
  | .laneOr w => some (.lane 17 w)
  | .laneXor w => some (.lane 18 w)
  | .laneAndn w => some (.lane 19 w)
  | .laneShl w => some (.lane 20 w)
  | .laneShr w => some (.lane 21 w)
  | .laneSar w => some (.lane 22 w)
  | .laneRot w => some (.lane 23 w)
  | .laneBfx w => some (.lane 24 w)
  | .laneBfi w => some (.lane 25 w)
  | .lanePop w => some (.lane 26 w)
  | .laneClz w => some (.lane 27 w)
  | .laneBrev w => some (.lane 28 w)
  | .sel w => some (.lane 29 w)
  | .laneMov w => some (.lane 30 w)
  | .movHi w => some (.lane 30 w)
  | .addF32 w => some (.lane 32 w)
  | .subF32 w => some (.lane 33 w)
  | .mulF32 w => some (.lane 34 w)
  | .fmaF32 w => some (.lane 35 w)
  | .minF32 w => some (.lane 36 w)
  | .maxF32 w => some (.lane 37 w)
  | .absF32 w => some (.lane 38 w)
  | .negF32 w => some (.lane 39 w)
  | .rintF32 w => some (.lane 40 w)
  | .cmpF32 w => some (.lane 41 w)
  | .cmpI32 w => some (.lane 42 w)
  | .cmpN32 w => some (.lane 43 w)
  | .addI16x2 w => some (.lane 44 w)
  | .subI16x2 w => some (.lane 45 w)
  | .addBf16x2 w => some (.lane 48 w)
  | .subBf16x2 w => some (.lane 49 w)
  | .mulBf16x2 w => some (.lane 50 w)
  | .fmaBf16x2 w => some (.lane 51 w)
  | .minBf16x2 w => some (.lane 52 w)
  | .maxBf16x2 w => some (.lane 53 w)
  | .addF16x2 w => some (.lane 54 w)
  | .subF16x2 w => some (.lane 55 w)
  | .mulF16x2 w => some (.lane 56 w)
  | .fmaF16x2 w => some (.lane 57 w)
  | .minF16x2 w => some (.lane 58 w)
  | .maxF16x2 w => some (.lane 59 w)
  | .rcpF32 w => some (.lane 64 w)
  | .rsqF32 w => some (.lane 65 w)
  | .sqrtF32 w => some (.lane 66 w)
  | .ex2F32 w => some (.lane 67 w)
  | .lg2F32 w => some (.lane 68 w)
  | .sint w => some (.lane 69 w)
  | .cost w => some (.lane 70 w)
  | .cvt w => some (.lane 72 w)
  | .dp4I8 w => some (.lane 73 w)
  | .dp4N8 w => some (.lane 74 w)
  | .unp5 w => some (.lane 75 w)
  | .pk5 w => some (.lane 76 w)
  | .tacc w => some (.lane 77 w)
  | .mand w => some (.lane 80 w)
  | .mor w => some (.lane 81 w)
  | .mxor w => some (.lane 82 w)
  | .mnot w => some (.lane 83 w)
  | .mpop w => some (.lane 84 w)
  | .shfl w => some (.lane 85 w)
  | .qswz w => some (.lane 86 w)
  | .qbc w => some (.lane 87 w)
  | .qred w => some (.lane 88 w)
  | .xset w => some (.lane 89 w)
  | .xwin w => some (.lane 90 w)
  | .snd w => some (.lane 91 w)
  | .rcv w => some (.lane 92 w)
  | .lds w => some (.lane 96 w)
  | .sts w => some (.lane 97 w)
  | .ldt w => some (.lane 98 w)
  | .ats w => some (.lane 99 w)
  | .ldg w => some (.lane 100 w)
  | .stg w => some (.lane 101 w)
  | .ldgAcq w => some (.lane 102 w)
  | .stgRel w => some (.lane 103 w)
  | .atg w => some (.lane 104 w)
  | .casg w => some (.lane 105 w)
  | .redg w => some (.lane 106 w)
  | .fenGang w => some (.lane 107 w)
  | .fenPkg w => some (.lane 107 w)
  | .laneOwn w => some (.lane 108 w)
  | .bra w => some (.lane 112 w)
  | .laneCall w => some (.lane 113 w)
  | .laneRet w => some (.lane 114 w)
  | .part w => some (.lane 115 w)
  | .rejoin w => some (.lane 116 w)
  | .spn w => some (.lane 117 w)
  | .spe w => some (.lane 118 w)
  | .arv w => some (.lane 119 w)
  | .laneBwt w => some (.lane 120 w)
  | .laneTrap w => some (.lane 121 w)
  | .laneEnd w => some (.lane 122 w)
  | .laneNop w => some (.lane 123 w)
  | .coxAdd w => some (.ua 0 w)
  | .coxSub w => some (.ua 1 w)
  | .coxMul w => some (.ua 2 w)
  | .coxMulh w => some (.ua 3 w)
  | .coxMin w => some (.ua 4 w)
  | .coxMax w => some (.ua 5 w)
  | .coxAnd w => some (.ua 6 w)
  | .coxOr w => some (.ua 7 w)
  | .coxXor w => some (.ua 8 w)
  | .coxAndn w => some (.ua 9 w)
  | .coxShl w => some (.ua 10 w)
  | .coxShr w => some (.ua 11 w)
  | .coxSar w => some (.ua 12 w)
  | .coxRot w => some (.ua 13 w)
  | .coxBfx w => some (.ua 14 w)
  | .coxBfi w => some (.ua 15 w)
  | .addi w => some (.ui 16 w)
  | .andi w => some (.ui 17 w)
  | .ori w => some (.ui 18 w)
  | .xori w => some (.ui 19 w)
  | .shli w => some (.ui 20 w)
  | .shri w => some (.ui 21 w)
  | .sari w => some (.ui 22 w)
  | .movi w => some (.ui 23 w)
  | .ldhi w => some (.ui 24 w)
  | .coxCmp w => some (.ua 25 w)
  | .cmpi w => some (.ui 26 w)
  | .pand w => some (.ua 27 w)
  | .por w => some (.ua 28 w)
  | .pnot w => some (.ua 29 w)
  | .csel w => some (.ua 30 w)
  | .ormi w => some (.ui 31 w)
  | .jmp w => some (.ub 32 w)
  | .jp w => some (.ub 33 w)
  | .loop w => some (.ub 34 w)
  | .coxCall w => some (.ub 35 w)
  | .coxRet w => some (.ub 36 w)
  | .coxAddF32 w => some (.ua 48 w)
  | .coxSubF32 w => some (.ua 49 w)
  | .coxMulF32 w => some (.ua 50 w)
  | .coxFmaF32 w => some (.ua 51 w)
  | .coxMinF32 w => some (.ua 52 w)
  | .coxMaxF32 w => some (.ua 53 w)
  | .coxCvt w => some (.ua 54 w)
  | .coxPop w => some (.ua 55 w)
  | .coxClz w => some (.ua 56 w)
  | .coxBrev w => some (.ua 57 w)
  | .coxMov w => some (.ua 58 w)
  | .coxAddI64 w => some (.ua 59 w)
  | .coxSubI64 w => some (.ua 60 w)
  | .rdtime w => some (.ua 64 w)
  | .twait w => some (.ua 65 w)
  | .csync w => some (.ua 66 w)
  | .balloc w => some (.ua 67 w)
  | .bfree w => some (.ua 68 w)
  | .binit w => some (.ue 69 w)
  | .barv w => some (.ua 70 w)
  | .barvDecl w => some (.ua 70 w)
  | .coxBwt w => some (.ua 71 w)
  | .barm w => some (.ue 72 w)
  | .srd w => some (.ui 73 w)
  | .sysr w => some (.ui 74 w)
  | .sysw w => some (.ui 75 w)
  | .eret w => some (.ua 76 w)
  | .coxTrap w => some (.ui 77 w)
  | .coxEnd w => some (.ua 78 w)
  | .coxNop w => some (.ua 79 w)
  | .tload w => some (.ue 80 w)
  | .tset w => some (.ue 81 w)
  | .gset w => some (.ue 82 w)
  | .gsetMem w => some (.ue 82 w)
  | .sseed w => some (.ua 83 w)
  | .nest w => some (.ue 84 w)
  | .mma w => some (.ue 85 w)
  | .xcp w => some (.ue 86 w)
  | .xfer w => some (.ue 87 w)
  | .lay w => some (.ue 88 w)
  | .coxOwn w => some (.ue 89 w)
  | .lwr w => some (.ue 96 w)
  | .sig w => some (.ue 97 w)
  | .hpost w => some (.ue 98 w)
  | .laneResult => none
  | .coxResult => none
  | .scratchStorePerform => none
  | .scratchAtomicPerform => none
  | .scratchLoadDelivery => none
  | .ownerFlipOpen => none
  | .stackAccess => none
  | .globalPerform => none
  | .globalLoadDelivery => none
  | .globalStoreCompletion => none
  | .atomicResult => none
  | .atomicRepeat => none
  | .sndLanding => none
  | .landingNotReceived => none
  | .csyncSessionOpen => none
  | .spanEnd => none
  | .bwtResume => none
  | .rejoinMerge => none
  | .twaitDeadline => none
  | .coxBwtDeadline => none
  | .barmActionLaunch => none
  | .graphRelease => none
  | .messageAccepted => none
  | .localSignalApply => none
  | .hostRingEntryVisible => none
  | .coalesceTimer => none
  | .hostRingCiWrite => none
  | .hostRingEnWrite => none
  | .engineCommandStart => none
  | .matrixRead => none
  | .matrixWrite => none
  | .copyBeat => none
  | .copyWrite => none
  | .layoutBeat => none
  | .layoutWrite => none
  | .engineCompletion => none
  | .tloadCompletion => none
  | .gsetMemCompletion => none
  | .xferRecordRead => none
  | .collectiveFold => none
  | .localMove => none
  | .bf16ImageWrite => none
  | .xferDone => none
  | .hostBoundCheck => none
  | .transmitRead => none
  | .scheduledFlitSend => none
  | .flitRelease => none
  | .flitLanding => none
  | .frameMarkerSend => none
  | .frameMarkerArrival => none
  | .frameMarkerMiss => none
  | .unscheduledSend => none
  | .messageRelease => none
  | .launchMessage => none
  | .signalMessage => none
  | .bulkMessage => none
  | .acknowledgement => none
  | .negativeAcknowledgement => none
  | .messageRetransmit => none
  | .sync => none
  | .pdelayReq => none
  | .pdelayResp => none
  | .announce => none
  | .halt => none
  | .halted => none
  | .resume => none
  | .resumed => none
  | .exclude => none
  | .regattaHalt => none
  | .haltedTimeout => none
  | .linkTrained => none
  | .linkTrainingLost => none
  | .ptpLockLost => none
  | .podCounterLoad => none
  | .frequencyTrim => none
  | .refresh => none
  | .bankSwitchArm => none
  | .bankSwitchCancel => none
  | .bankSwitchTx => none
  | .bankSwitchRx => none
  | .governorStep => none
  | .thermalBudgetStep => none
  | .queuePiWrite => none
  | .queueEnWrite => none
  | .prefetch => none
  | .commandNop => none
  | .commandHeat => none
  | .commandGraph => none
  | .commandIndirect => none
  | .arbiterStep => none
  | .heatStart => none
  | .armedTimeout => none
  | .endCheck => none
  | .heatCompletion => none
  | .copyNode => none
  | .copyNodeCompletion => none
  | .conditionalNode => none
  | .graphEnd => none
  | .preemptEstimate => none
  | .preemptSave => none
  | .preemptDrain => none
  | .preemptionHalt => none
  | .faultHalt => none
  | .quiesce => none
  | .saveComplete => none
  | .handlerEntry => none
  | .handlerTimeout => none
  | .restore => none
  | .agentResume => none
  | .revoke => none
  | .revocation => none
  | .policySet => none
  | .attestation => none
  | .commandLinkMessage => none
  | .powerOnReset => none
  | .firmwareVerify => none
  | .functionLevelReset => none
  | .hostMemoryAccess => none
  | .counterLatch => none
  | .dieOvertemp => none
  | .dieBridgeError => none
  | .firmwareWatchdog => none
  | .machineCheck => none
  | .registerWrite => none
  | .unassignedOpcode w => some (.raw w)
  | .preemptionRequestUnassigned => none
  | .scrub => none
  | .hostLinkLost => none
  | .boundaryScan => none
  | .faultLogLocation => none
  | .dumpArea => none
  | .pdelayReqSend => none
  | .announceSend => none
  | .layoutGenerationChange => none
  | .checkpointMove => none

/-- READ ONE INSTRUCTION from its first word and the word after it (R133, R136, R142): total. A word whose OP is
unassigned in its set's map is the instruction `unassignedOpcode` (R144, R330). -/
def parse (w next : BitVec 32) : Instr :=
  let op := bits w.toNat 30 24
  ((if bit w 31 then uniInstr op w else laneInstr op (laneWordOf w next))).getD (.unassignedOpcode w)

/-- How many 32-bit words an instruction takes: two exactly when it is a lane word with a tail. -/
def Instr.words (i : Instr) : Nat :=
  match Parts.of i with
  | some (.lane _ w) => if w.tail.isSome then 2 else 1
  | some (.raw w) => if bit w 31 then 1 else if bit w 0 then 2 else 1
  | _ => 1

/-- The 8-bit top byte, and the rest of the word, for each form (R136, R142). -/
def Parts.words : Parts → List (BitVec 32)
  | .lane op w =>
    let h : BitVec 32 := BitVec.ofNat 8 op ++ w.d ++ w.a ++ w.b ++ w.hold ++ (BitVec.ofBool w.tail.isSome)
    h :: w.tail.toList
  | .ua op w => [BitVec.ofNat 8 (128 + op) ++ w.d ++ w.a ++ w.b ++ w.fn]
  | .ui op w => [BitVec.ofNat 8 (128 + op) ++ w.d ++ w.a ++ w.imm]
  | .ub op w => [BitVec.ofNat 8 (128 + op) ++ w.cond ++ w.off]
  | .ue op w => [BitVec.ofNat 8 (128 + op) ++ w.d ++ w.a ++ w.flags]
  | .raw w => [w]

/-- THE ENCODER: the words of an instruction, none for a step that no word encodes. -/
def encode (i : Instr) : List (BitVec 32) := ((Parts.of i).map Parts.words).getD []

/-! ## What the words alone show wrong -/

/-- How a lane field is used (R139): not at all, a source code, a destination code, a mask or an index number. -/
inductive FieldUse where
  | none | src | dst | mask | index
deriving DecidableEq, Repr

/-- How an arithmetic tail is used (R137, R155): C a source, tail required, B or immediate, RM honoured, SAT honoured
or ignored, greatest SUB (or none when the instruction defines no SUB), bits of IMM it uses when IMB = 0. -/
structure TailTA where
  c : Bool := false
  req : Bool := false
  imb : Bool := false
  rm : Bool := false
  sat : Bool := false
  sub : Option Nat := none
  imm : Nat := 0
deriving DecidableEq, Repr

/-- The tail layout an opcode fixes (R137, R139). -/
inductive TailUse where
  | none
  | ta (t : TailTA)
  | tm (load store aop : Bool)
  | tb
deriving DecidableEq, Repr

/-- The fields an opcode uses (R139, Table 4). -/
structure LaneShape where
  d : FieldUse
  a : FieldUse
  b : FieldUse
  tail : TailUse
deriving DecidableEq, Repr

/-- Field use of every assigned lane opcode (R139 Table 4, with the SAT and RM marks of R156-R172 and the SUB values of
R141, R160, R161, R183, R187, R188). -/
def laneShape (op : Nat) : LaneShape :=
  let two (t : TailTA) : LaneShape := ⟨.dst, .src, .src, .ta { t with imb := true }⟩
  let one (t : TailTA) : LaneShape := ⟨.dst, .src, .none, .ta t⟩
  let three (t : TailTA) : LaneShape := ⟨.dst, .src, .src, .ta { t with imb := true, c := true, req := true }⟩
  let bare (d a b : FieldUse) : LaneShape := ⟨d, a, b, .none⟩
  if op ≤ 0x02 then two { sat := true }
  else if op = 0x03 then three { sat := true }
  else if op ≤ 0x07 then two {}
  else if op ≤ 0x09 then one { sat := true }
  else if op ≤ 0x0D then two {}
  else if op ≤ 0x0F then two { sat := true }
  else if op ≤ 0x17 then two {}
  else if op = 0x18 then one { req := true, sub := some 1, imm := 0x3FF }
  else if op = 0x19 then three {}
  else if op ≤ 0x1C then one {}
  else if op = 0x1D then three {}
  else if op = 0x1E then ⟨.dst, .none, .src, .ta { imb := true, sub := some 1 }⟩
  else if op ≤ 0x22 then two { rm := true, sat := true }
  else if op = 0x23 then three { rm := true, sat := true }
  else if op ≤ 0x25 then two { sat := true }
  else if op ≤ 0x27 then one { sat := true }
  else if op = 0x28 then one { rm := true, sat := true }
  else if op = 0x29 then ⟨.mask, .src, .src, .ta { imb := true, req := true, sat := true, sub := some 7 }⟩
  else if op ≤ 0x2B then ⟨.mask, .src, .src, .ta { imb := true, req := true, sub := some 5 }⟩
  else if op ≤ 0x2D then two { sat := true }
  else if op = 0x33 ∨ op = 0x39 then three { rm := true, sat := true }
  else if op = 0x34 ∨ op = 0x35 ∨ op = 0x3A ∨ op = 0x3B then two { sat := true }
  else if op ≤ 0x38 then two { rm := true, sat := true }
  else if op = 0x40 ∨ op = 0x42 then one { rm := true, sat := true }
  else if op ≤ 0x46 then one { sat := true }
  else if op = 0x48 then one { req := true, rm := true, imm := 0x7FF }
  else if op ≤ 0x4A then three { sat := true }
  else if op = 0x4B then one { req := true, imm := 0x1F }
  else if op = 0x4C then ⟨.dst, .src, .src, .ta {}⟩
  else if op = 0x4D then ⟨.dst, .src, .src, .ta { c := true, req := true, sat := true, imm := 3 }⟩
  else if op ≤ 0x52 then bare .mask .mask .mask
  else if op = 0x53 then bare .mask .mask .none
  else if op = 0x54 then bare .dst .mask .none
  else if op = 0x55 then two { sub := some 3 }
  else if op ≤ 0x57 then two { sub := some 0 }
  else if op = 0x58 then one { sub := some 10 }
  else if op = 0x59 then bare .index .src .none
  else if op = 0x5A then ⟨.index, .none, .none, .ta { req := true, imm := 0xFFFF }⟩
  else if op = 0x5B then ⟨.none, .src, .none, .ta { req := true, imm := 3 }⟩
  else if op = 0x5C then bare .dst .none .none
  else if op = 0x60 ∨ op = 0x62 ∨ op = 0x64 ∨ op = 0x66 then ⟨.dst, .src, .none, .tm true (op = 0x62) false⟩
  else if op = 0x61 ∨ op = 0x65 ∨ op = 0x67 then ⟨.none, .src, .none, .tm false true false⟩
  else if op = 0x6A then ⟨.none, .src, .none, .tm false true true⟩
  else if op = 0x69 then ⟨.dst, .src, .none, .tm false true false⟩
  else if op ≤ 0x6A then ⟨.dst, .src, .none, .tm false true true⟩
  else if op = 0x6B then ⟨.none, .none, .none, .ta { sub := some 1 }⟩
  else if op = 0x6C then ⟨.none, .src, .none, .ta { req := true, imm := 0xFF07 }⟩
  else if op ≤ 0x71 then ⟨.none, .src, .none, .tb⟩
  else if op = 0x73 ∨ op = 0x77 ∨ op = 0x78 then bare .none .src .none
  else if op = 0x75 then ⟨.none, .none, .none, .tb⟩
  else if op = 0x79 then ⟨.none, .none, .none, .ta { req := true, imm := 0xFF }⟩
  else bare .none .none .none

/-- Breaches of one operand field (R66, R138, R139, R330). -/
def fieldBreach (u : FieldUse) (code : Nat) : List Nat :=
  match u with
  | .none => if code = 112 then [] else [0x03]
  | .src => if code ≥ 124 then [0x23] else []
  | .dst =>
    if code ≥ 124 then [0x23] else if code < 96 ∨ code = 112 ∨ code ≥ 120 then [] else [0x22]
  | .mask => if code < 8 then [] else [0x03]
  | .index => if code < 4 then [] else [0x03]

/-- A condition that breaks a rule, with its cause code. -/
def breach (b : Bool) (cause : Nat) : List Nat := if b then [cause] else []

/-- A code that may name a register pair as a source: an even v register, an even k register, or zero (R157, R175). -/
def pairSrc (code : Nat) : Bool :=
  (code < 96 && code % 2 == 0) || (code ≥ 96 && code ≤ 110 && code % 2 == 0) || code == 112

/-- A code that may name a register pair as a destination: an even v register, or 112 to discard (R175). -/
def pairDst (code : Nat) : Bool := (code < 96 && code % 2 == 0) || code == 112

/-- Width in bits of a format of `cvt` (R167, Table 8), 0 for a code that is not one. -/
def cvtWidth (f : Nat) : Nat :=
  if f = 0 ∨ f = 4 ∨ f = 11 ∨ f = 12 then 8
  else if f = 1 ∨ f = 5 ∨ f = 9 ∨ f = 10 then 16
  else if f = 2 ∨ f = 6 ∨ f = 8 then 32
  else 0

/-- Whether AOP is permitted for the instruction and SZ (R176, Table 2). -/
def aopAllowed (op aop sz : Nat) : Bool :=
  if aop ≤ 7 then sz == 2 || sz == 3
  else if aop = 8 then (op == 0x63 || op == 0x68) && (sz == 2 || sz == 3)
  else if aop ≤ 11 then sz == 2
  else aop == 12 && op == 0x63 && sz == 2

/-- Breaches of an arithmetic tail (R137, R138, R155, R330, R331). RM not honoured is 0x08 in lane arithmetic
(R331) and an unused field, 0x03, elsewhere. `mov.hi` uses IMM whether IMB is 1 or 0 (log 94). -/
def tailTABreaches (op : Nat) (t : TailTA) (w : LaneWord) : List Nat :=
  (if t.c ∨ (op = 0x48 ∧ w.imm.testBit 10 ∧ cvtWidth (bits w.imm 9 5) = 32)
   then fieldBreach .src w.c else fieldBreach .none w.c) ++
  breach (w.imb && !t.imb) 0x03 ++
  breach (decide (w.rm ≥ 5) || (!t.rm && w.rm != 0 && decide (op ≤ 0x4D))) 0x08 ++
  breach (!t.rm && w.rm != 0 && decide (op > 0x4D)) 0x03 ++
  breach (w.sat && !t.sat) 0x03 ++
  (match t.sub with
   | some m => breach (decide (w.sub > m)) 0x08
   | none => breach (w.sub != 0) 0x03) ++
  breach (!(w.imb && t.imb) && !(op == 0x1E && w.sub == 1) && (w.imm &&& (0xFFFF - t.imm)) != 0) 0x03

/-- Breaches that one instruction's own rule adds to the field rules: bit fields (R160), formats (R167), pairs (R157,
R172, R175, R181, R197), windows (R71, R186), owners (R184), atomic operations (R176, R182), spans (R331). -/
def laneOwnBreaches (op : Nat) (w : LaneWord) : List Nat :=
  let d := w.d.toNat
  let a := w.a.toNat
  let b := w.b.toNat
  if op = 0x18 then
    let len := if bits w.imm 4 0 = 0 then 32 else bits w.imm 4 0
    breach (decide (bits w.imm 9 5 + len > 32)) 0x25
  else if op = 0x48 then
    breach (cvtWidth (bits w.imm 4 0) == 0 || cvtWidth (bits w.imm 9 5) == 0 ||
      (w.imm.testBit 10 && cvtWidth (bits w.imm 4 0) == 32)) 0x26
  else if op = 0x0E ∨ op = 0x0F then
    breach (!(d < 96 && d % 2 == 0)) 0x24 ++ breach (!pairSrc a) 0x24 ++ breach (!w.imb && !pairSrc b) 0x24
  else if op = 0x4D then breach (decide (b > 94)) 0x24
  else if op = 0x5A then
    let len := bits w.imm 7 1
    breach (w.imm.testBit 0 || decide (len > 96) ||
      (len != 0 && decide (bits w.imm 14 8 + (if w.imm.testBit 15 then 4 else 1) * (len - 1) > 95))) 0x21
  else if op = 0x6C then breach (decide (bits w.imm 2 0 ≥ 5)) 0x08
  else if op = 0x78 then
    breach (!((decide (a ≤ 94)) || (a ≥ 96 && a ≤ 110 && a % 2 == 0))) 0x24
  else []

/-- Breaches of a memory tail and of the registers a memory instruction names (R137, R175, R176, R179, R181, R182). -/
def tailTMBreaches (op : Nat) (load store aop : Bool) (w : LaneWord) : List Nat :=
  let d := w.d.toNat
  let a := w.a.toNat
  (if store then fieldBreach .src w.c else fieldBreach .none w.c) ++
  breach (decide (w.sz ≥ 4)) 0x08 ++
  breach (w.sx && !(load && decide (w.sz < 2))) 0x03 ++
  (if aop then breach (!aopAllowed op w.aop w.sz) 0x08 else breach (w.aop != 0) 0x03) ++
  breach (op == 0x62 && decide (w.off ≥ 64)) 0x03 ++
  breach (w.sz == 3 && (laneShape op).d == .dst && !pairDst d) 0x24 ++
  breach (w.sz == 3 && store && op != 0x62 && !pairSrc w.c) 0x24 ++
  breach (decide (op ≥ 0x64) && !pairSrc a) 0x24 ++
  breach (op == 0x69 && decide (w.sz < 2)) 0x08 ++
  breach (op == 0x69 && w.sz == 2 && decide (w.c > 94)) 0x24 ++
  breach (op == 0x69 && w.sz == 3 && (decide (w.c > 92) || w.c % 4 != 0 || decide (a < 96))) 0x24 ++
  breach (op == 0x63 && w.aop == 12 && decide (w.c > 94)) 0x24

/-- How an instruction uses its B field (R137, R138, R161): an immediate takes its place, and `mov.hi` never reads it,
whatever IMB is (log 94). -/
def bUse (op : Nat) (w : LaneWord) : FieldUse :=
  match (laneShape op).tail with
  | .ta t => if (t.imb && w.imb && w.tail.isSome) || (op == 0x1E && w.sub == 1) then .none else (laneShape op).b
  | _ => (laneShape op).b

/-- Every breach that a lane instruction's words show (R330, R331). -/
def laneBreaches (op : Nat) (w : LaneWord) : List Nat :=
  let sh := laneShape op
  fieldBreach sh.d w.d.toNat ++ fieldBreach sh.a w.a.toNat ++ fieldBreach (bUse op w) w.b.toNat ++
  (match sh.tail with
   | .none => breach w.tail.isSome 0x03
   | .ta t =>
     breach (t.req && w.tail.isNone) 0x03 ++
     (if t.req && w.tail.isNone then [] else tailTABreaches op t w)
   | .tm load store aop =>
     if w.tail.isNone then [0x03] else tailTMBreaches op load store aop w
   | .tb => if w.tail.isNone then [0x03] else fieldBreach .none w.c) ++
  laneOwnBreaches op w

/-- Which fields of form UA an opcode uses: D, A, B, and the greatest FN (R143, R200-R223). FN beyond it is 0x08 where
FN is a selector and 0x03 where FN is unused. -/
def uaShape (op : Nat) : Bool × Bool × Bool × Option Nat :=
  if op ≤ 0x02 then (true, true, true, none)
  else if op ≤ 0x05 then (true, true, true, some 1)
  else if op ≤ 0x0F then (true, true, true, none)
  else if op = 0x19 then (true, true, true, some 63)
  else if op ≤ 0x1C then (true, true, true, none)
  else if op = 0x1D then (true, true, false, none)
  else if op = 0x1E then (true, true, true, some 63)
  else if op = 0x33 then (true, true, true, some 63)
  else if op ≤ 0x35 then (true, true, true, none)
  else if op = 0x36 then (true, true, false, some 63)
  else if op ≤ 0x3A then (true, true, false, none)
  else if op ≤ 0x3C then (true, true, true, none)
  else if op = 0x40 then (true, false, false, none)
  else if op = 0x41 then (false, true, false, none)
  else if op = 0x42 then (false, true, false, some 63)
  else if op = 0x43 then (true, true, false, some 63)
  else if op = 0x44 then (false, true, false, none)
  else if op = 0x46 then (true, true, true, none)
  else if op = 0x47 then (false, true, true, none)
  else if op = 0x4E then (false, false, false, some 63)
  else if op = 0x53 then (false, true, false, none)
  else (false, false, false, none)

/-- Every breach that a word of form UA shows (R200-R229, R330, R331). -/
def uaBreaches (op : Nat) (w : UA) : List Nat :=
  let sh := uaShape op
  let d := w.d.toNat
  let a := w.a.toNat
  let b := w.b.toNat
  let fn := w.fn.toNat
  breach (!sh.1 && d != 0) 0x03 ++ breach (!sh.2.1 && a != 0) 0x03 ++ breach (!sh.2.2.1 && b != 0) 0x03 ++
  (match sh.2.2.2 with
   | some m => breach (decide (fn > m)) 0x08
   | none => breach (fn != 0) 0x03) ++
  (if op = 0x19 then
     breach (decide (d ≥ 8)) 0x03 ++
     breach (decide (fn / 16 = 3) || decide (fn % 16 > 7) || (decide (fn % 16 > 5) && decide (fn / 16 ≠ 2))) 0x08
   else if op = 0x1B ∨ op = 0x1C ∨ op = 0x1D then breach (decide (d ≥ 8) || decide (a ≥ 8) || decide (b ≥ 8)) 0x03
   else if op = 0x1E then breach (decide (fn ≥ 16)) 0x03
   else if op = 0x36 then breach (decide (fn % 8 ≥ 4)) 0x08
   else if op = 0x3B ∨ op = 0x3C then breach (decide (d % 2 = 1) || decide (a % 2 = 1) || decide (b % 2 = 1)) 0x24
   else if op = 0x40 then breach (decide (d % 2 = 1)) 0x24
   else if op = 0x41 ∨ op = 0x53 then breach (decide (a % 2 = 1)) 0x24
   else if op = 0x47 then breach (decide (a % 2 = 1) || decide (b % 2 = 1)) 0x24
   else if op = 0x43 then breach (decide (d + fn > 63)) 0x27
   else if op = 0x46 then breach (decide (d ≥ 2)) 0x03
   else [])

/-- Every breach that a word of form UI shows (R203, R205, R209, R229, R230, R330). -/
def uiBreaches (op : Nat) (w : UI) : List Nat :=
  let d := w.d.toNat
  let a := w.a.toNat
  let m := w.imm.toNat
  if op = 0x14 ∨ op = 0x15 ∨ op = 0x16 then breach (decide (m ≥ 32)) 0x03
  else if op = 0x17 ∨ op = 0x18 ∨ op = 0x4A then breach (a != 0) 0x03
  else if op = 0x1A then breach (decide (d / 8 > 5)) 0x08
  else if op = 0x49 then breach (a != 0) 0x03 ++ breach (decide (m > 12)) 0x08
  else if op = 0x4B then breach (d != 0) 0x03
  else if op = 0x4D then breach (d != 0 || a != 0 || decide (m ≥ 256)) 0x03
  else []

/-- Every breach that a word of form UB shows (R143, R207). -/
def ubBreaches (op : Nat) (w : UB) : List Nat :=
  if op = 0x20 ∨ op = 0x23 then breach (w.cond != 0) 0x03
  else if op = 0x24 then breach (w.cond != 0 || w.off != 0) 0x03
  else []

/-- The words of a UE command's descriptor and the FLAGS bits that must be zero (R218 Table 7, R220, R222, R231). -/
def ueShape (op flags : Nat) : Nat × Nat :=
  if op = 0x45 then (3, 0xFFF)
  else if op = 0x48 then (4, 0xFFF)
  else if op = 0x50 then (2, 0x7C0)
  else if op = 0x51 then (if bits flags 9 6 < 2 then 2 else 3, 0xC00)
  else if op = 0x52 then
    (if flags.testBit 4 then 2 else if flags.testBit 3 then 8 else 4, if flags.testBit 4 then 0x7E0 else 0xFE0)
  else if op = 0x54 then (1, 0xFFC)
  else if op = 0x55 then (6, 0x03F)
  else if op = 0x56 then (4, 0x03F)
  else if op = 0x57 then (4, 0x1FF)
  else if op = 0x58 then (3, 0x7FF)
  else if op = 0x59 then (1, 0x800)
  else if op = 0x60 then (13, 0x7FF)
  else if op = 0x61 then (4, 0x7FF)
  else (1, 0x7FF)

/-- Every breach that a word of form UE shows (R218-R228, R231, R245, R330, R331). -/
def ueBreaches (op : Nat) (w : UE) : List Nat :=
  let f := w.flags.toNat
  let d := w.d.toNat
  let sh := ueShape op f
  breach ((f &&& sh.2) != 0) 0x03 ++
  breach (!f.testBit 11 && op != 0x45 && op != 0x48 && w.a != 0) 0x03 ++
  breach (decide (d + sh.1 > 64)) 0x27 ++
  (if op = 0x51 then breach (decide (bits f 9 6 ≥ 14)) 0x08
   else if op = 0x52 then
     breach (f.testBit 3 && f.testBit 0) 0x24 ++ breach (f.testBit 4 && decide (d % 2 = 1)) 0x24
   else if op = 0x50 then breach (decide (d % 2 = 1)) 0x24
   else if op = 0x59 then breach (decide (bits f 10 8 ≥ 5)) 0x08
   else [])

/-- EVERY BREACH THAT AN INSTRUCTION'S OWN WORDS SHOW, as cause codes (R327, R330, R331). -/
def staticBreaches (i : Instr) : List Nat :=
  match Parts.of i with
  | some (.lane op w) => laneBreaches op w
  | some (.ua op w) => uaBreaches op w
  | some (.ui op w) => uiBreaches op w
  | some (.ub op w) => ubBreaches op w
  | some (.ue op w) => ueBreaches op w
  | some (.raw _) => [0x01]
  | none => []

/-- Long-latency operations (R134): they take SETA and SETB in order. -/
def isLong (i : Instr) : Bool :=
  match Parts.of i with
  | some (.lane op _) =>
    (op ≥ 0x40 && op ≤ 0x46) || (op ≥ 0x55 && op ≤ 0x58) || op == 0x5B || (op ≥ 0x60 && op ≤ 0x6A)
  | some (.ue op w) =>
    if op = 0x51 ∨ op = 0x54 then false else if op = 0x52 then w.flags.getLsbD 4 else true
  | _ => false

/-- Control instructions, which must be last in their clause (R135). -/
def isControl (i : Instr) : Bool :=
  match Parts.of i with
  | some (.lane op _) => (op ≥ 0x70 && op ≤ 0x76) || (op ≥ 0x78 && op ≤ 0x7A)
  | some (.ub _ _) => true
  | some (.ua op _) => op == 0x41 || op == 0x47 || op == 0x4C || op == 0x4E
  | some (.ui op _) => op == 0x4D
  | _ => false

/-- Whether the instruction belongs to the uniform set (bit 31 of its word, R133). -/
def isUniform (i : Instr) : Bool :=
  match Parts.of i with
  | some (.lane _ _) => false
  | some (.raw w) => bit w 31
  | some _ => true
  | none => false

/-! ## The clause header (R134) -/

/-- A clause header. -/
structure Header where
  s : Bool
  nm1 : Nat
  wait : Nat
  seta : Nat
  setb : Nat
  mask : Nat
  gap : Nat
deriving DecidableEq, Repr

/-- The fields of a clause header (R134, Table 1). -/
def headerOf (w : BitVec 32) : Header :=
  let x := w.toNat
  { s := bit w 31, nm1 := bits x 30 28, wait := bits x 27 16, seta := bits x 15 12, setb := bits x 11 8,
    mask := bits x 7 5, gap := bits x 4 0 }

/-- Breaches of a header in a stream of the given set (R144, R330). -/
def headerBreaches (uniform : Bool) (h : Header) : List Nat :=
  breach (h.s != uniform) 0x02 ++
  breach ((h.seta ≥ 12 && h.seta ≤ 14) || (h.setb ≥ 12 && h.setb ≤ 14)) 0x08 ++
  breach (uniform && h.mask != 0) 0x03

/-! ## Decoding bytes -/

/-- Why bytes are no instruction. -/
inductive DecodeReject where
  | truncated
  | unassignedOpcode (word : BitVec 32)
deriving DecidableEq, Repr

/-- THE DECODER: one instruction from the front of a list of bytes, little-endian words (R133), and the bytes after it.
An unassigned opcode is rejected by name. Instructions whose fields break a rule are read as what they are: issuing
them takes the issue fault that R330 and R331 give. -/
def decode (bs : List (BitVec 8)) : Except DecodeReject (Instr × List (BitVec 8)) :=
  if bs.length < 4 then .error .truncated
  else
    let w := BitVec.ofNat 32 (ofLeBytes (bs.take 4))
    let rest := bs.drop 4
    let i := parse w (BitVec.ofNat 32 (ofLeBytes (rest.take 4)))
    if i = .unassignedOpcode w then .error (.unassignedOpcode w)
    else if i.words = 2 then (if rest.length < 4 then .error .truncated else .ok (i, rest.drop 4))
    else .ok (i, rest)

/-- The bytes of an instruction's words, in memory order (R133). -/
def encodeBytes (i : Instr) : List (BitVec 8) := ((encode i).map fun w => leBytes 4 w.toNat).flatten

/-- The instruction the decoder reads from bits numbered as the opcode table numbers them, with every bit above them
zero. -/
def decodeTableWord (_nbits w : Nat) : Option Instr :=
  match decode (leBytes 8 (w % 2 ^ 64)) with
  | .ok (i, _) => some i
  | .error _ => none

end Sys2Proof
end

