-- ==== Sys2Proof/Config.lean ====
section
/-! DEFINITION. What one device of the family fixes for good, and the values the spec leaves open.
Every `opaque` constant has no body in the sense that no proof sees its value: a claim about the model holds whatever
it is (assumption log 11, 14, 20). -/
namespace Sys2Proof.Config

/-- FREE VALUE. The `n`-th choice the device makes where the spec bounds a cycle or a placement and does not fix it
(R123, R217, R227, R271, R278, R291, and the durations the spec does not give). The caller reduces it into the bounds
the rule states. The counter `State.freeCtr` supplies `n`, so no two choices are tied together. -/
opaque freeChoice : Nat → Nat

/-- FREE VALUE. The content of a result word the spec leaves open (contents of an image area "written and read only by
the device", R292). -/
opaque freeByte : Nat → BitVec 8

/-- FREE VALUE. A register word the spec leaves open: what a hold-result latch takes from an instruction that has no
32-bit result (R68). -/
opaque freeWord : Nat → BitVec 32

/-- FREE VALUE. The secret of the device identity key (R305): the value that chain j of leaf i starts from, the public SEED,
and the key of the randomisers. The signature scheme over them is XMSS itself (Machine/Xmss.lean). -/
opaque identityChain : Nat → Nat → List (BitVec 8)
/-- FREE VALUE. SEED of the device identity key. -/
opaque identitySeed : List (BitVec 8)
/-- FREE VALUE. SK_PRF of the device identity key. -/
opaque identityPrf : List (BitVec 8)

/-- FREE VALUE. The hash of the vendor public key fused in the package (R304). -/
opaque fusedKeyHash : List (BitVec 8)
/-- FREE VALUE. The fused minimum security version (R304). -/
opaque fusedMinSvn : Nat
/-- FREE VALUE. The 64-bit device serial (R305). -/
opaque deviceSerial : BitVec 64
/-- FREE VALUE. Whether the production fuse is set (R307). -/
opaque productionFuse : Bool
/-- FREE VALUE. The fixed power allowance for HBM4, SRAM, control and I/O, in units of 0.25 W (R42): the spec names it
and gives no number. -/
opaque fixedAllowance : Nat

/-- FREE VALUE. The Amton ports that are cabled (R303): a property of the board. -/
opaque cabledPorts : BitVec 16

/-- FREE VALUE. HALTLEAD of the regatta the package joins, in link frames of 8,192 c (R355): a regatta parameter. -/
opaque haltLeadFrames : Nat
/-- FREE VALUE. The packages of the regatta the package joins, in the layout of `sr.pkg` (R355, R356). -/
opaque regattaPackages : List Nat

/-- FREE VALUE. Where the umpire allocates the save image of the `n`-th heat (R291, R292, log 71). -/
opaque imagePlace : Nat → Nat

/-- FREE VALUE. The cluster that a graph's copy node counts as its source (R267, R287, log 103), by queue and node. -/
opaque copyCluster : Nat → Nat

/-- FREE VALUE. The codes of the mailbox status word (R291, R347, log 72): 1 an unknown HEATID, 2 an unassigned MODE, 3 a
queue's indices. The spec has the word set and gives no numbers. -/
opaque statusCode : Nat → BitVec 32

/-- FREE VALUE. The firmware image in the on-module flash (R304). -/
opaque flashImage : List (BitVec 8)

end Sys2Proof.Config
end

