-- ==== Sys2Proof/Machine/State.lean ====
section
/-! DEFINITION. The state of one TQB-9120 package: everything the spec names, as plain data. Where a rule counts heat
cycles, the field's docstring says so; every other cycle is a pod cycle. A `Store` is a sparse array: keys strictly
rising, and no entry holds the value an unlisted key reads as (the default is given by the accessor that reads it). -/
namespace Sys2Proof.Machine

/-- A sparse array in canonical form: rising keys, no default entries. -/
abbrev Store (α : Type) := List (Nat × α)

/-- A clause being issued (R134, R135): where its header stands, the header, its words, and how far it has come. Words
are fetched whole at the slot of the clause's first instruction; `missing` is the place of the first that could not be, the
header being 0 (log 21).
`nth` counts instructions issued (R68), `nlong` long-latency operations (R134), `held` the HOLD field of each issued
instruction, newest first (R69), and `long1` the completion cycle of the first long-latency operation. -/
structure Clause where
  addr : Nat
  hdr : Word
  words : List Word
  missing : Option Nat
  branched : Bool
  idx : Nat
  nth : Nat
  nlong : Nat
  held : List Nat
  long1 : Nat
deriving DecidableEq, Repr

/-- What a quad group is doing (R29): running, waiting in `bwt` under a handle for a phase other than `phase`, waiting
at the `spe` or the `rejoin` whose word stands at `word`, to go on at `next`. -/
inductive GroupWait where
  | none
  | bwt (handle : BitVec 32) (phase : BitVec 16)
  | spe (next : Nat)
  | rejoin (word next : Nat)
deriving DecidableEq, Repr

/-- A quad group of a gang (R29, R46): its quads, its stream position, its return stack (equal in every quad of the
group, R192) and what it waits for. `ready` is the first heat cycle at which it may issue, before GAP. `branched` says
that `pc` came from a branch or a return, so that its header is checked as R332 states. `stopped` is the heat cycle from which
a fault of its own, or the halt it has yet to resume from, keeps it from issuing (R318, R352); `resume` is the stop point that
its next slot may not precede, and whether it goes on at RET, where no GAP is left to it (R352, log 93). -/
structure Group where
  quads : BitVec 8
  pc : Nat
  clause : Option Clause
  branched : Bool
  ready : Nat
  stack : List Nat
  wait : GroupWait
  stopped : Option Nat
  resume : Option (Nat × Bool)
deriving DecidableEq, Repr

/-- A group before a header, at an address, with nothing to wait for. -/
def Group.start (quads : BitVec 8) (pc ready : Nat) (stack : List Nat) : Group :=
  { quads := quads, pc := pc, clause := none, branched := false, ready := ready, stack := stack, wait := .none, stopped := none
    resume := none }

/-- A latch entry as one quad sees it (R68, R69): the first heat cycle at which it may be read, the `sr.dix` of the
instruction that wrote it, and its values by lane. -/
structure Latch where
  avail : Nat
  stamp : BitVec 64
  vals : List Word
deriving DecidableEq, Repr

/-- One lane access as the ordering rules remember it (R123-R128): its operation and lane, its 8-byte word, whether it
stores, acquires or releases, its page kind (0 S, 1 L, 2 N), whether its P is its stack cycle by rule (`fixed`), its stack
cycle and P (pod cycles), and how many package and gang fences its gang had issued. -/
structure PAcc where
  op : Nat
  lane : Nat
  word : Nat
  store : Bool
  acq : Bool
  rel : Bool
  kind : Nat
  fixed : Bool
  s : Nat
  p : Nat
  pkg : Nat
  gng : Nat
deriving DecidableEq, Repr

/-- What orders a gang's global accesses (R123-R128): the fences it has issued of each scope, and its accesses of the
current memory frame and later, oldest first. -/
structure POrder where
  pkg : Nat
  gng : Nat
  accs : List PAcc
deriving DecidableEq, Repr

/-- A gang (R44, R64, R76). Registers are keyed 32 x register + lane, latch entries 8 x entry + quad: the quad groups of a
parted gang issue clauses of their own, each with its latch (R69). -/
structure Gang where
  v : Store Word
  m : Store Word
  x : Store (BitVec 8)
  win : Store (BitVec 16)
  latch : Store Latch
  flags : BitVec 12
  flagMin : Store Nat
  dix : BitVec 64
  vdirty : BitVec 96
  mxdirty : BitVec 12
  groups : List Group
  turn : Nat
  lastSlot : Option Nat
  spans : List Nat
  retired : Bool
  ord : POrder
deriving DecidableEq, Repr

/-- What the cox waits for (R30): nothing, or a deadline in heat cycles. -/
inductive CoxWait where
  | none
  | until (h : Nat)
  | phase (h : Nat) (handle : BitVec 32) (phase : BitVec 16)
deriving DecidableEq, Repr

/-- What handler entry sets aside (R325): return stack, flags, p1-p7, where the cox stood, and the cycle of
entry. -/
structure Handler where
  stack : List Nat
  flags : BitVec 12
  p : BitVec 8
  pc : Nat
  clause : Option Clause
  branched : Bool
  ready : Nat
  wait : CoxWait
  retired : Bool
  stopped : Option Nat
  resume : Option (Nat × Bool)
  entered : Nat
deriving DecidableEq, Repr

/-- A cox (R24, R76, R207, R229). `count` is its instruction count (R322: FDIX of a cox); `stopped` and `resume` are as for a
quad group. -/
structure Cox where
  pc : Nat
  clause : Option Clause
  branched : Bool
  ready : Nat
  stack : List Nat
  flags : BitVec 12
  flagMin : Store Nat
  wait : CoxWait
  count : BitVec 64
  retired : Bool
  exitCode : Nat
  stopped : Option Nat
  resume : Option (Nat × Bool)
  handler : Option Handler
deriving DecidableEq, Repr

/-- A tensor identifier entry (R79). EXT and STRIDE are keyed by dimension. -/
structure Tensor where
  valid : Bool
  fmt : Nat
  rank : Nat
  loc : Bool
  baxis : Nat
  scale : Int
  serial : BitVec 32
  base : Nat
  ext : Store Nat
  stride : Store Int
deriving DecidableEq, Repr

/-- One page of a window (R119). -/
structure Page where
  pres : Bool
  kind : Nat
  wr : Bool
  cow : Bool
  pa : Nat
deriving DecidableEq, Repr

/-- A translation window with its resolved pages (R118, R120) and the revocation cycle set for it, if any (R335). -/
structure Window where
  vbase : Nat
  size : Nat
  plist : Nat
  npage : Nat
  pages : List Page
  revoked : Option Nat
deriving DecidableEq, Repr

/-- A loop-nest slot (R245): CNT, SINC and DINC of each level. -/
structure NestSlot where
  levels : List (Nat × Int × Int)
deriving DecidableEq, Repr

/-- A team (R44, R50, R64). `kOld` and `kOldAt` keep the values that the k registers written in cycle `kOldAt` held
before, since lanes see a k write one cycle after coxes do (R73); `sseeds` keeps the writes of `sr.sseed` with their
cycles, newest first (R84); `aint` names the tiles that hold i32 (R248). -/
structure Team where
  core : Nat
  tsel : Nat
  lanes : Nat
  sigma : Nat
  restart : Bool
  sbase : Nat
  scnt : Nat
  abase : Nat
  acnt : Nat
  gentry : Nat
  centry : Nat
  wins : List Window
  k : Store Word
  kOld : List (Nat × Word)
  kOldAt : Nat
  p : BitVec 8
  g : Store (BitVec 128)
  t : Store Tensor
  nest : Store NestSlot
  sseeds : List (Nat × BitVec 64)
  atomSeq : BitVec 32
  kdirty : BitVec 64
  gdirty : BitVec 8
  tdirty : BitVec 64
  sdirty : BitVec 192
  adirty : BitVec 24
  aint : BitVec 24
  shift : Nat
  cox : Cox
  gangs : List Gang
deriving DecidableEq, Repr

/-- A flow table entry (R263, Table 2), with the word cursor state of its flow's role on this package. -/
structure FlowEntry where
  flow : Nat
  port : Nat
  role : Nat
  rport : Nat
  dest : Nat
  team : Nat
  cred : Bool
  arr : Bool
  bidx : Nat
  op : Nat
  base : Nat
  len : Nat
  firstf : Nat
  sfirst : Nat
  scnt : Nat
  doff : Nat
deriving DecidableEq, Repr

/-- A power phase (R41): START / 64, MXW, LNW, PTW. -/
structure PowerPhase where
  start : Nat
  mxw : Nat
  lnw : Nat
  ptw : Nat
deriving DecidableEq, Repr

/-- A team table entry as captured (R50). -/
structure TeamEntry where
  core : Nat
  tsel : Nat
  ngang : Nat
  lanes : Nat
  stagger : Nat
  restart : Bool
  sbase : Nat
  scnt : Nat
  abase : Nat
  acnt : Nat
  nwin : Nat
  gentry : Nat
  centry : Nat
  winidx : Nat
deriving DecidableEq, Repr

/-- A window table entry as captured (R118). -/
structure WinEntry where
  vbase : Nat
  psz : Nat
  npage : Nat
  plist : Nat
deriving DecidableEq, Repr

/-- A captured heat record (R49-R54, R118, R263). `res` holds the 4 x 64 reservation entries of each cluster, `mem` the
8 x 64 memory slot entries; `pages` the page list entries of each window, resolved at the gate (R120), none for an armed
heat. -/
structure Record where
  nteam : Nat
  place : Bool
  exact : Bool
  rho : Nat
  sched : Bool
  armed : Bool
  stop : Nat
  nclus : Nat
  armTeam : Nat
  armIdx : Nat
  armMem : Nat
  armBytes : Nat
  armTo : Nat
  teams : List TeamEntry
  clusters : List Nat
  res : List Nat
  mem : List Nat
  phases : List PowerPhase
  wins : List WinEntry
  pages : List (List Page)
  flows : List FlowEntry
deriving DecidableEq, Repr

/-- States of a heat (R58), with the states that halting adds (R320, R291, R325). -/
inductive HeatState where
  | armed | scheduled | running | closing | halting | quiesced | saving | saved | restoring | handler
deriving DecidableEq, Repr

/-- Where a heat came from (R283, R285), for its completion record and its queue. -/
inductive Origin where
  | ring (entry : Nat) (tag : BitVec 32) (irq : Bool)
  | indirect (entry idx : Nat) (irq : Bool)
  | node (node : Nat) (irq : Bool)
  | launch
deriving DecidableEq, Repr

/-- How a heat halts (R291, R320, R354, R355): by fault, by pre-emption, by a regatta halt, or by a halt flit on a port of
a die. -/
inductive HaltKind where
  | fault | preempt | regatta
  | haltFlit (die : Nat)
deriving DecidableEq, Repr

/-- A step waiting for its cycle: `rank` orders the steps of one cycle, then `seq` (log 12). -/
structure Due where
  at_ : Nat
  rank : Nat
  seq : Nat
  ev : Ev
deriving DecidableEq, Repr

/-- An armed threshold (R217): the object's number in arm order, WATCH, THR, its count and its action. -/
structure Threshold where
  order : Nat
  watch : Bool
  thr : Nat
  count : Nat
  act : BarmAct
  after : Nat
deriving DecidableEq, Repr

/-- A barrier object (R82) with its armed thresholds; `team` is the team that allocated it (R295); `hist` holds earlier phases with the cycles in which they ended,
newest first, for the 6-cycle visibility (R25, R83, R197). -/
structure Barrier where
  gen : BitVec 22
  alloc : Bool
  expg : Nat
  expc : Nat
  expe : Nat
  arrv : Nat
  phase : BitVec 16
  pend : Nat
  arms : List Threshold
  hist : List (Nat × BitVec 16)
  team : Nat
deriving DecidableEq, Repr

/-- A landing register's content (R189, R190): when it landed, who sent it, and 32 words. -/
structure Landing where
  at_ : Nat
  stamp : Nat
  sender : GangRef
  data : List Word
deriving DecidableEq, Repr

/-- A heat (R58): its captured record and everything the device keeps for it. `cursors` is keyed
4 x flow + role; `stops` are the stop points of R351 in heat cycles; `dieHalt`
holds, by die, 1 + the heat cycle from which halt flits stop the streams there (R354); `trigger` is the advance that
triggered an armed heat whose anchor is not yet fixed (R56); `relayed`, keyed 16 x FLOW + RPORT,
counts the flits that its relay entries have taken; `saveCost` is the largest sum of S over the teams of a cluster, as R290 gave
it before the last save (R291, R294); `hot` holds
faulted scratch accesses with the heat cycle of their detection; `trap` holds W0-W63 (R322). `parked` holds schedule
steps that the halt put off, at heat cycles (R352). `engFree` and `engDone`, keyed 4 x cluster + engine, hold the first
cycle after the quanta taken and the completion of the last command, counted from the anchor (R232, R233). `rxBase` is the
pod cycle from which its receive and relay entries count (R266). `away` says
that its state is in its save image; then `barsAway` and `landAway` hold the barrier objects and landing registers of its
cores, by crew-relative core, as they stood at the halt (R292), `msgAway` holds the MSG counts of
its cores and `lateAcks` the BAR arrivals of messages acknowledged meanwhile, by crew-relative core. -/
structure Heat where
  hid : Nat
  heatid : BitVec 32
  queue : Nat
  origin : Origin
  record : Record
  status : HeatState
  anchor : Nat
  admitted : Nat
  chargeFrom : Nat
  charge : Nat
  prov : Int
  args : List Word
  clusters : List Nat
  teams : List Team
  cursors : Store Nat
  stoppedFlows : List Nat
  sessions : List (Nat × Nat × Nat × Option Nat)
  csyncs : List (Nat × Nat × Nat × Nat)
  fault : Option Detect
  faultAt : Nat
  nsec : Nat
  trap : Store Word
  halt : Option (HaltKind × Nat)
  dieHalt : Store Nat
  trigger : Option Nat
  relayed : Store Nat
  stops : List (StopAgent × Nat)
  hot : List (Nat × ScratchAcc)
  resumeStop : Nat
  checkpoints : Nat
  image : Option Nat
  imageLen : Nat
  saveCost : Nat
  discards : List Nat
  eseqs : Store Nat
  away : Bool
  abortCause : Nat
  parked : List Due
  engFree : Store Nat
  engDone : Store Nat
  rxBase : Nat
  barsAway : List (Nat × Store Barrier)
  landAway : List (Nat × Landing)
  msgAway : Store Nat
  lateAcks : List (Nat × BitVec 32)
deriving DecidableEq, Repr

/-- A change to a barrier waiting for the end of its cycle (R83): declared and credited bytes and arrivals, by an agent
of rank `rank` (R319) named as a detection names it. -/
structure BarChange where
  core : Nat
  idx : Nat
  declare : Nat
  credit : Nat
  arrivals : Nat
  engine : Bool
  agent : Detect
deriving DecidableEq, Repr

/-- A core (R60, R82, R111, R115, R189): outstanding counters, owners and closures of its granules, barriers, landing
register. -/
structure Core where
  sto : Nat
  atm : Nat
  eng : Nat
  msg : Nat
  owner : Store (BitVec 3)
  closed : Store Nat
  bars : Store Barrier
  landing : Option Landing
deriving DecidableEq, Repr

/-- One lane of a global access: its lane, addresses, page kind (0 S, 1 L, 2 N), whether its stack lies on the other die,
its stack cycle and P (heat cycles), operand and comparand, result; `ok` says that its stack cycle found no breach and
`done` that it has performed; `sq` is an atomic's sequence number (R125). -/
structure LaneAcc where
  lane : Nat
  va : Nat
  pa : Nat
  kind : Nat
  far : Bool
  s : Nat
  p : Nat
  data : Nat
  cmp : Nat
  result : Nat
  ok : Bool
  done : Bool
  sq : BitVec 32
deriving DecidableEq, Repr

/-- What a global operation does (R180-R182, R219, R222, R252). -/
inductive GlobalKind where
  | load | store | atomic | cas | reduce | tload | gset | xferRec
deriving DecidableEq, Repr

/-- A global operation in flight (R180-R182, R219, R222, R252, R351): the issuing stream, its issue in heat cycles, size,
sign extension, operation, acquire or release, lanes, destination keys of each lane (low word first), the keys that
helper lanes zero, the latch entry of a hold result, the flag it clears, what a detection of it names, and `hot` when it
has faulted and is kept as replay data. `n`, `bar` and `addr` serve `tload`, `gset.mem` and `xfer`. -/
structure GlobalOp where
  id : Nat
  hid : Nat
  team : Nat
  gang : Nat
  core : Nat
  issue : Nat
  kind : GlobalKind
  sz : Nat
  sx : Bool
  aop : Nat
  order : Bool
  lanes : List LaneAcc
  dests : List (Nat × List Nat)
  zeros : List Nat
  latch : Option (Nat × BitVec 64)
  flag : Option Nat
  blame : Detect
  hot : Bool
  n : Nat
  bar : Option (BitVec 32)
  addr : Nat
  bytes : List (BitVec 8)
deriving DecidableEq, Repr

/-- A side of an engine command (R234, R246): a tensor entry as captured, an accumulator tile, a generator register with
its odd partner, a PCIe bus address, or nothing, with the selector that names none. -/
inductive Side where
  | entry (t : Tensor)
  | tile (n : Nat)
  | gen (n : Nat) (g odd : BitVec 128)
  | host (addr : Nat)
  | none (code : Nat)
deriving DecidableEq, Repr

/-- A captured `mma` descriptor (R234): the negations, zero-C, the transposed reads, the shape, the origins, the sides. -/
structure MmaBody where
  na : Bool
  nb : Bool
  zc : Bool
  ta : Bool
  tb : Bool
  m : Nat
  n : Nat
  k : Nat
  arow : Nat
  ak : Nat
  bk : Nat
  bcol : Nat
  crow : Nat
  ccol : Nat
  drow : Nat
  dcol : Nat
  a : Side
  b : Side
  c : Side
  d : Side
deriving DecidableEq, Repr

/-- A captured `xcp` descriptor (R246): the sides, whether a tile side counts as i32 (R248), the tile origin and the nest's
levels (CNT, SINC, DINC). -/
structure XcpBody where
  src : Side
  dst : Side
  tint : Bool
  trow : Nat
  tcol : Nat
  levels : List (Nat × Int × Int)
deriving DecidableEq, Repr

/-- An engine command's captured descriptor (R234, R246, R252, R257). -/
inductive EngBody where
  | mma (b : MmaBody)
  | xcp (b : XcpBody)
  | xfer (src dst : Tensor) (va : Nat)
  | lay (src dst : Tensor) (dmw : BitVec 64)
deriving DecidableEq, Repr

/-- The captured shape record of an `xfer` (R253), and where this package stands in it (R254): its place in the list, its
coordinates, its rank in the group and the group's size, its partition rank and count. -/
structure ShapeRec where
  kind : Nat
  rop : Nat
  pax : Nat
  repl : Nat
  splitdim : Nat
  grid : List Nat
  lgen : BitVec 32
  nitem : Nat
  done : Nat
  nflow : Nat
  flowbase : Nat
  npkg : Nat
  place : Nat
  coords : List Nat
  rank : Nat
  size : Nat
  part : Nat
  parts : Nat
deriving DecidableEq, Repr

/-- An engine command in flight (R231-R233, R318, R351). `eng` is 0 matrix, 1 and 2 copy channels, 3 layout. `issue`,
`start` and `completion` are heat cycles of its team.
`iter` counts iterations credited (R251), `left` holds 1 + the destination pieces that an iteration still has to write,
`buf` bytes read and not yet written, `result` a pass's elements, `image` the f32 image of R274 or the host pieces done,
`folds` the folds of an `xfer` or the elements of D that a pass has written.
`failed` is the place of the failing beat (R318), `held` marks a command held behind a failed one, `blame` what a
detection names. -/
structure EngCmd where
  id : Nat
  hid : Nat
  team : Nat
  core : Nat
  cluster : Nat
  eng : Nat
  eseq : Nat
  opcode : Nat
  issue : Nat
  start : Nat
  quanta : Nat
  completion : Nat
  body : EngBody
  cr : Bool
  crh : BitVec 32
  bar : Option (BitVec 32)
  flag : Option Nat
  iter : Nat
  left : Store Nat
  buf : Store Byte
  result : List Nat
  image : Store Word
  folds : Nat
  shape : Option ShapeRec
  failed : Option Nat
  held : Bool
  done : Bool
  blame : Detect
deriving DecidableEq, Repr

/-- A flit that a relay holds (R265): the heat and flow it belongs to, its number among the flits of that flow released on the
port, its release cycle, and its bytes. -/
structure RelayFlit where
  hid : Nat
  flow : Nat
  n : Nat
  at_ : Nat
  bytes : List Byte
deriving DecidableEq, Repr

/-- A transmit or relay entry of a heat that has completed (R35, R264): its slots carry idle flits until a switch takes them
out of the bank. `base` is the pod cycle from which its frames count. -/
structure GoneFlow where
  hid : Nat
  entry : Nat
  e : FlowEntry
  base : Nat
deriving DecidableEq, Repr

/-- A heat that has left the package, as the governor still sees it (R43): its record, anchor and the cycle in which it
ended. -/
structure SpentHeat where
  record : Record
  anchor : Nat
  ended : Nat
deriving DecidableEq, Repr

/-- An unacknowledged message and what to do when it is acknowledged (R268, R269, R344). -/
structure Unacked where
  m : Msg
  done : AckTo
  losses : Nat
  lastNeg : Bool
deriving DecidableEq, Repr

/-- What an Announce tells of a grandmaster (R17, R276), as the default best master clock algorithm compares it: priority1,
clock class, accuracy and variance, priority2, identity, steps removed, the sending clock, and the path it took
(PATH_TRACE). -/
structure Announce where
  prio1 : Nat
  cls : Nat
  accuracy : Nat
  variance : Nat
  prio2 : Nat
  identity : Nat
  steps : Nat
  sender : Nat
  path : List Nat
deriving DecidableEq, Repr

/-- The package's PTP clock (R17): priority1 and priority2 as firmware set them, domainNumber (the regatta's number), the
port towards the master, none when the package is itself grandmaster, and whether the algorithm has run. -/
structure Ptp where
  prio1 : Nat
  prio2 : Nat
  domain : Nat
  slavePort : Option Nat
  decided : Bool
deriving DecidableEq, Repr

/-- A port (R37-R39, R261, R268): training, deskew, the slot tables (keyed 4,096 x bank + slot for each direction), bank
control, outbound queue, the flits that relays hold from this port (R265), the deskew buffer (flits by release cycle, R36), and
the last flit sent with its cycle. `syncAt` is the last accepted
frame marker's arrival and expected cycle, `pdelay` the last request's cycle and the measured delay, `announce` the last
Announce taken (R17, R276). -/
structure Port where
  trained : Bool
  deskew : Nat
  txTable : Store (BitVec 32)
  rxTable : Store (BitVec 32)
  swcyc : Nat
  pend : Bool
  txAct : Bool
  rxAct : Bool
  rxPend : Option Nat
  queue : List (Nat × Msg)
  lastUnsched : Option Nat
  relay : List RelayFlit
  incoming : List (Nat × Flit)
  txBuf : List (Nat × List Byte)
  sent : Option (Nat × Flit)
  markerSeen : Option Nat
  lastRelease : Option Nat
  syncAt : Option (Nat × Nat)
  pdelay : Option (Nat × Nat)
  announce : Option Announce
deriving DecidableEq, Repr

/-- A queue descriptor (R277, Table 1). -/
structure QueueDesc where
  rbase : BitVec 64
  cbase : BitVec 64
  rlog : Nat
  rloc : Bool
  cloc : Bool
  en : Bool
  qw : Nat
  pi : BitVec 32
  ci : BitVec 32
deriving DecidableEq, Repr

/-- A captured heat, or the cause that its capture found (R278, R340). -/
inductive Captured where
  | heat (r : Record)
  | bad (cause : Nat)
deriving DecidableEq, Repr

/-- A graph node as captured (R286, Table 4): KIND, INIT, PRED, ADDR, SUCC and X3-X7, and the captured heat. -/
structure Node where
  kind : Nat
  init : Nat
  pred : Nat
  addr : Nat
  succ : List Nat
  x : List (BitVec 64)
  heat : Option Record
deriving DecidableEq, Repr

/-- A captured command (R278-R280); `raw` is a record of an indirect buffer that has been read and not yet prefetched. -/
inductive CmdBody where
  | nop
  | heat (r : Record) (anchor : Nat) (args : List Word)
  | graph (nodes : List Node)
  | indirect (vol : Bool) (addr nrec : Nat)
  | bad (cause kind : Nat)
  | raw (bytes : List Byte)
deriving DecidableEq, Repr

/-- Progress of a prefetched command (R281, R282). `sub` numbers a record of an indirect command's buffer; such records stand
before their command. `ready` says that it has become the ready head, `expanded` that an indirect command's buffer has been
read. -/
structure Command where
  entry : Nat
  sub : Option Nat
  ser : Bool
  irq : Bool
  tag : BitVec 32
  body : CmdBody
  readAt : Nat
  admitted : Bool
  completed : Bool
  charge : Nat
  cause : Nat
  ready : Bool
  expanded : Bool
deriving DecidableEq, Repr

/-- A node's progress in an active graph (R287): its count, whether it has run since the last start or re-arm, whether it is
running, the cycle in which it became ready (0 while it is not), the bytes a copy has moved, and those it has read and not yet
written. -/
structure NodeRun where
  node : Node
  count : Nat
  ran : Bool
  running : Bool
  readyAt : Nat
  moved : Nat
  held : List Byte
deriving DecidableEq, Repr

/-- The active graph of a queue (R287). -/
structure Graph where
  entry : Nat
  sub : Option Nat
  nodes : List NodeRun
  charge : Nat
  cause : Nat
  stopped : Bool
deriving DecidableEq, Repr

/-- A launch write read by the front end (R271), under a number of its own. -/
structure LaunchReq where
  id : Nat
  readyAt : Nat
  delivered : Nat
  record : Record
  anchor : Nat
  args : List Word
deriving DecidableEq, Repr

/-- A queue's front-end state (R277-R288). `policies` holds 1 + the policy code of each cause that has one set (R323). `saves` lists the model's numbers of saved heats waiting to resume, and
`nsave` counts save notices since EN was last written to 1 (R282). -/
structure Queue where
  desc : QueueDesc
  next : Nat
  commands : List Command
  graph : Option Graph
  launches : List LaunchReq
  saves : List Nat
  nsave : Nat
  deficit : Int
  policies : Store Nat
  hentry : BitVec 56
deriving DecidableEq, Repr

/-- An entry posted to a host ring and not yet visible (R300, R348): its number, the cycle of its post with the posting core
and TSEL, whose entry it is, its bytes, the operations it waits for, whether its ready cycle has come, the first cycle in
which it may become visible, and the report. -/
structure RingEntry where
  id : Nat
  posted : Nat
  core : Nat
  tsel : Nat
  heatid : BitVec 32
  team : Nat
  bytes : List Byte
  ops : List Nat
  accepted : Bool
  from_ : Nat
  done : AckTo
deriving DecidableEq, Repr

/-- A host ring (R299, R300, R348) with its entries posted and not yet visible, in the order of their posts. -/
structure Ring where
  hbase : BitVec 64
  rlog : Nat
  en : Bool
  pi : BitVec 32
  ci : BitVec 32
  dropped : BitVec 32
  lost : BitVec 32
  waiting : List RingEntry
deriving DecidableEq, Repr

/-- A coalescing unit (R301). -/
structure Coalesce where
  vec : Nat
  en : Bool
  ccnt : Nat
  ctim : Nat
  pend : Nat
  first : Nat
deriving DecidableEq, Repr

/-- READY (R303, Table 6). -/
structure Ready where
  pcie : Bool
  fwok : Bool
  ump : Bool
  mar : Bool
  stack : BitVec 8
  port : BitVec 16
  ptp : Bool
  fe : Bool
deriving DecidableEq, Repr

/-- What the driver has set and reads in the firmware mailbox (R291, R322, R335, R347, R350, R358); `area` holds the
doublewords of its 4 KiB as the host last wrote them (R298, log 82). -/
structure Mailbox where
  logBase : Option (BitVec 48)
  dumpBase : Option (BitVec 48)
  status : BitVec 32
  imageAt : BitVec 48
  imageHeat : BitVec 32
  revokeAt : BitVec 64
  revokeFault : Bool
  regattaHalted : Bool
  regattaPh : Nat
  regattaDelta : Nat
  attestation : List Byte
  area : Store (BitVec 64)
deriving DecidableEq, Repr

/-- One event counter and its selector (R306). -/
structure Counter where
  value : BitVec 64
  source : BitVec 8
  field : BitVec 8
  copy : BitVec 64
deriving DecidableEq, Repr

/-- A command link between the umpire and a marshal (R302): for each sender its permits, the messages held for want of one,
and the messages sent and not yet consumed, oldest first; and for each receiver the last message consumed. -/
structure CmdLink where
  umpPermits : Nat
  marPermits : Nat
  umpHeld : List (List Byte)
  marHeld : List (List Byte)
  umpSent : List (List Byte)
  marSent : List (List Byte)
  umpTook : List Byte
  marTook : List Byte
deriving DecidableEq, Repr

/-- The state of one stack in the current frame (R33, R338): the last grain used, counted from 1 (R306), retries taken, the
frame in which its refresh starts late, and the cycle in which its last refresh began. -/
structure StackFrame where
  frame : Nat
  grain : Nat
  retries : Nat
  overrun : Bool
  lateRefresh : Option Nat
  refreshed : Nat
deriving DecidableEq, Repr

/-- A stack after power-on (log 8). -/
def StackFrame.init : StackFrame :=
  { frame := 0, grain := 0, retries := 0, overrun := false, lateRefresh := none, refreshed := 0 }

/-- The window of the last 64 sequence numbers of an atomic flow at one home (R125, R339), newest first. -/
structure AtomWindow where
  heatid : BitVec 32
  team : Nat
  stack : Nat
  results : List (BitVec 32 × Nat)
deriving DecidableEq, Repr

/-- The regatta as the umpire sees it (R18, R355, R356): `epoch` is E in nanoseconds of PTP time. -/
structure Regatta where
  member : Bool
  epoch : Nat
  haltLead : Nat
  packages : List Nat
  ph : Option Nat
  initiators : List Nat
  reported : List (Nat × Bool × Nat)
  forwarded : List (Nat × Nat)
  halted : Bool
deriving DecidableEq, Repr

/-- Physical events the environment has announced: HBM reads that need a retry (stack, pod cycle of the access, does the
re-read fail), HBM reads with a single-bit error (stack, pod cycle), double-bit and single-bit errors found in on-chip words
(0 scratch, 1 tile, 2 register or table, 3 barrier object; where), and atomic requests or replies that are lost (0 request, 1 reply;
sequence number). -/
structure Env where
  hbmErrors : List (Nat × Nat × Bool)
  hbmFixed : List (Nat × Nat)
  doubleBits : List (Nat × Nat)
  singleBits : List (Nat × Nat)
  lostAtomics : List (Nat × BitVec 32)
deriving DecidableEq, Repr

/-- What the umpire enters in its log besides trap records: a command that failed before a heat existed, a heat released before
its heat cycle 0, a graph stopped, and a launch record refused (R329), a lost or refused message of a heat that is no
longer resident (R344, R345), a discarded host-ring post (R348), a graph release that found no graph (R287), an unassigned
control subtype (R355), and a package's confirmation (R356). -/
inductive LogEvent where
  | command (queue cause : Nat)
  | heat (heatid : BitVec 32) (cause : Nat)
  | graph (queue cause : Nat)
  | launch (cause : Nat)
  | message (cause : Nat)
  | discard (heatid : BitVec 32) (team ring : Nat) (lost : Bool)
  | release (heatid : BitVec 32) (queue node : Nat)
  | control (sub : Nat)
  | resumed (pkg : Nat)
deriving DecidableEq, Repr

/-- The stream whose instruction is being executed. -/
inductive Issuer where
  | none
  | gang (g : GangRef) (quads : BitVec 8)
  | cox (t : TeamRef)
deriving DecidableEq, Repr

/-- THE MACHINE. `copied` names the cycle of the last write with which a channel 1 command completed, and the bytes of scratch
and tiles that such writes of that cycle touched (R114). -/
structure State where
  now : Nat
  agenda : List Due
  arg : Ev
  cur : Issuer
  seq : Nat
  freeCtr : Nat
  -- memories
  hbm : Store Byte
  hostMem : Store Byte
  scratch : Store Byte
  tiles : Store Word
  copied : Nat × List Nat
  hbmLog : List (Nat × Nat × Byte)
  stackFrames : Store StackFrame
  atomWindows : List AtomWindow
  -- cores and heats
  cores : Store Core
  heats : List Heat
  nextHid : Nat
  nextHeatid : BitVec 32
  gops : List GlobalOp
  cmds : List EngCmd
  nextOp : Nat
  barPend : List BarChange
  detects : List Detect
  -- fabric
  ports : Store Port
  flows : List (FlowKey × BitVec 32)
  unacked : List Unacked
  inflow : List (FlowKey × BitVec 32 × Nat)
  reorder : List (Msg × Nat)
  seen : List (FlowKey × List (BitVec 32))
  routes : Store Nat
  gone : List GoneFlow
  spent : List SpentHeat
  regatta : Regatta
  -- front end
  queues : Store Queue
  pointer : Nat
  preempt0 : BitVec 64
  preempt1 : BitVec 64
  -- host interface and firmware
  rings : Store Ring
  coalesce : Store Coalesce
  msix : List Nat
  ready : Ready
  budget : Nat
  budgetSet : Nat
  temp : BitVec 32
  winbase : BitVec 64
  counters : Store Counter
  mailbox : Mailbox
  faultLog : List (List Word)
  logEvents : List (Nat × LogEvent)
  links : Store CmdLink
  fatal : Option Nat
  clockOff : Bool
  leafIndex : Option Nat
  image : List Byte
  flashFailed : Bool
  hostReads : List (Nat × List Byte)
  power : Nat
  layoutGen : BitVec 32
  pkgNo : BitVec 17
  -- time
  trim : Int
  trimAt : Option Nat
  ptpLock : Bool
  ptp : Ptp
  tokens : Store Nat
  limits : Store Nat
  pins : List Bool
  env : Env
deriving DecidableEq, Repr

/-- Why the machine stops with a fault. -/
inductive Fault where
  /-- Raised by `step` when core clocks have been removed (R350, cause 0xF5) or nothing is left to happen: the spec gives
  the device no further behaviour. Safe. -/
  | clockStopped
  /-- Raised by a program instruction executed with no stream issuing it: `step` never does this. Safe. -/
  | noStream
  /-- Raised by a machine step executed without its data in `State.arg`: `step` never does this. Safe. -/
  | noData
deriving DecidableEq, Repr

/-- Why the machine refuses an instruction. -/
inductive Refusal where
  /-- Raised by an arm of `exec` whose instruction has no meaning yet. Safe. -/
  | notModelled (mnemonic : String)
deriving DecidableEq, Repr

/-- A core after power-on (R64, R82, R111): counters 0, owners 0, barriers 0, landing register empty. -/
def Core.init : Core :=
  { sto := 0, atm := 0, eng := 0, msg := 0, owner := [], closed := [], bars := [], landing := none }

/-- A barrier object after power-on (R82, Table 8). -/
def Barrier.init : Barrier :=
  { gen := 0, alloc := false, expg := 0, expc := 0, expe := 0, arrv := 0, phase := 0, pend := 0, arms := [], hist := [], team := 0 }

/-- A port after power-on (R38, R39, R261). -/
def Port.init : Port :=
  { trained := false, deskew := 0, txTable := [], rxTable := [], swcyc := 0, pend := false, txAct := false,
    rxAct := false, rxPend := none, queue := [], lastUnsched := none, relay := [], incoming := [], txBuf := [],
    sent := none, markerSeen := none, lastRelease := none, syncAt := none, pdelay := none, announce := none }

/-- A queue descriptor at reset (R277). -/
def QueueDesc.init : QueueDesc :=
  { rbase := 0, cbase := 0, rlog := 0, rloc := false, cloc := false, en := false, qw := 0, pi := 0, ci := 0 }

/-- A queue at reset (R277, R284, R323): deficit 0, HENTRY 0, default policies (none listed). -/
def Queue.init : Queue :=
  { desc := QueueDesc.init, next := 0, commands := [], graph := none, launches := [], saves := [], nsave := 0,
    deficit := 0, policies := [], hentry := 0 }

/-- A host ring at reset (R299). -/
def Ring.init : Ring :=
  { hbase := 0, rlog := 0, en := false, pi := 0, ci := 0, dropped := 0, lost := 0, waiting := [] }

/-- A coalescing unit at reset (R301). -/
def Coalesce.init : Coalesce := { vec := 0, en := false, ccnt := 0, ctim := 0, pend := 0, first := 0 }

/-- A command link with its 8 permits each way (R302). -/
def CmdLink.init : CmdLink :=
  { umpPermits := 8, marPermits := 8, umpHeld := [], marHeld := [], umpSent := [], marSent := [], umpTook := [], marTook := [] }

/-- A tensor entry at heat start (R79). -/
def Tensor.init : Tensor :=
  { valid := false, fmt := 0, rank := 0, loc := false, baxis := 0, scale := 0, serial := 0, base := 0,
    ext := [], stride := [] }

/-- An event counter at reset (log 8). -/
def Counter.init : Counter := { value := 0, source := 0, field := 0, copy := 0 }

/-- How a step's rank and its place among the steps of that rank order it within a cycle (log 12). -/
def dueRank (rank sub : Nat) : Nat := 65536 * rank + sub

/-- THE MACHINE AFTER POWER-ON RESET (R303 and the reset values of every table; log 1 to 12): nothing trained, no queue
enabled, no heat. The agenda holds the bring-up stages of R303 and the device's periodic work (R33, R34, R43, R284, R301,
R308). -/
def State.reset : State :=
  { now := 0
    agenda :=
      [{ at_ := 0, rank := dueRank 70 0, seq := 0, ev := .powerOnReset 0 },
       { at_ := 0, rank := dueRank 71 0, seq := 1, ev := .frameMarkerSend },
       { at_ := 0, rank := dueRank 72 0, seq := 2, ev := .governorStep },
       { at_ := 0, rank := dueRank 73 0, seq := 3, ev := .coalesceTimer },
       { at_ := 0, rank := dueRank 90 0, seq := 4, ev := .arbiterStep },
       { at_ := 3936, rank := dueRank 70 0, seq := 5, ev := .refresh },
       { at_ := 1400000, rank := dueRank 72 0, seq := 6, ev := .thermalBudgetStep }]
    arg := .idle, cur := .none, seq := 7, freeCtr := 0
    hbm := [], hostMem := [], scratch := [], tiles := [], copied := (0, []), hbmLog := [], stackFrames := [], atomWindows := []
    cores := [], heats := [], nextHid := 0, nextHeatid := 1, gops := [], cmds := [], nextOp := 0
    barPend := [], detects := []
    ports := [], flows := [], unacked := [], inflow := [], reorder := [], seen := [], routes := [], gone := [], spent := []
    regatta := { member := false, epoch := 0, haltLead := 0, packages := [], ph := none, initiators := [],
                 reported := [], forwarded := [], halted := false }
    queues := [], pointer := 0, preempt0 := 0, preempt1 := 0
    rings := [], coalesce := [], msix := []
    ready := { pcie := false, fwok := false, ump := false, mar := false, stack := 0, port := 0, ptp := false, fe := false }
    budget := 2000, budgetSet := 2000, temp := 0, winbase := 0, counters := []
    mailbox := { logBase := none, dumpBase := none, status := 0, imageAt := 0, imageHeat := 0, revokeAt := 0,
                 revokeFault := false, regattaHalted := false, regattaPh := 0, regattaDelta := 0, attestation := [],
                 area := [] }
    faultLog := [], logEvents := [], links := [], fatal := none, clockOff := false, leafIndex := none, image := []
    flashFailed := false, hostReads := [], power := 0
    layoutGen := 0, pkgNo := 0, trim := 0, trimAt := none, ptpLock := false
    ptp := { prio1 := 128, prio2 := 128, domain := 0, slavePort := none, decided := false }, tokens := [], limits := []
    pins := [], env := { hbmErrors := [], hbmFixed := [], doubleBits := [], singleBits := [], lostAtomics := [] } }

end Sys2Proof.Machine
end

