-- ==== Sys2Proof/Machine/Store.lean ====
section
/-! DEFINITION. Sparse arrays: reading and writing one entry or a run of entries, keeping the canonical form (keys
strictly rising, no entry equal to what an unlisted key reads as). -/
namespace Sys2Proof.Machine

/-- The entry at key k; an unlisted key reads as d. -/
def Store.get (d : α) (s : Store α) (k : Nat) : α :=
  match s with
  | [] => d
  | (a, v) :: r => if a = k then v else Store.get d r k

/-- Put an entry before the entries of greater keys. -/
def Store.place (s : Store α) (k : Nat) (v : α) : Store α :=
  match s with
  | [] => [(k, v)]
  | (a, w) :: r => if a < k then (a, w) :: Store.place r k v else (k, v) :: (a, w) :: r

/-- Write v at key k: the old entry goes, and the new one comes unless v is the default. -/
def Store.set [DecidableEq α] (d : α) (s : Store α) (k : Nat) (v : α) : Store α :=
  let r := s.filter fun e => e.1 != k
  if v = d then r else Store.place r k v

/-- Write several entries, the later ones over the earlier. -/
def Store.setAll [DecidableEq α] (d : α) (s : Store α) (kvs : List (Nat × α)) : Store α :=
  kvs.foldl (fun s kv => Store.set d s kv.1 kv.2) s

/-- The listed entries of a run of values from key k on. -/
def Store.runEntries [DecidableEq α] (d : α) : Nat → List α → Store α
  | _, [] => []
  | k, v :: r => if v = d then Store.runEntries d (k + 1) r else (k, v) :: Store.runEntries d (k + 1) r

/-- Write a run of values at keys k, k + 1, … -/
def Store.putRun [DecidableEq α] (d : α) (s : Store α) (k : Nat) (vs : List α) : Store α :=
  s.takeWhile (fun e => e.1 < k) ++ Store.runEntries d k vs ++ s.dropWhile (fun e => e.1 < k + vs.length)

/-- Read n entries at keys k, k + 1, … -/
def Store.getRun (d : α) : Nat → Store α → Nat → List α
  | 0, _, _ => []
  | n + 1, s, k =>
    let r := s.dropWhile (fun e => e.1 < k)
    (match r with
     | (a, v) :: _ => if a = k then v else d
     | [] => d) :: Store.getRun d n r (k + 1)

/-- Remove every entry whose key lies in [k, k + n). -/
def Store.clearRun (s : Store α) (k n : Nat) : Store α :=
  s.takeWhile (fun e => e.1 < k) ++ s.dropWhile (fun e => e.1 < k + n)

/-- The canonical form. -/
def Store.wf [DecidableEq α] (d : α) : Store α → Bool
  | [] => true
  | (k, v) :: r => decide (v ≠ d) && (match r with | [] => true | (k', _) :: _ => decide (k < k')) && Store.wf d r

/-- Change entry i of a list. -/
def modifyNth (l : List α) (i : Nat) (f : α → α) : List α :=
  match l, i with
  | [], _ => []
  | x :: r, 0 => f x :: r
  | x :: r, i + 1 => x :: modifyNth r i f

end Sys2Proof.Machine
end

