-- ==== Sys2Proof/Machine/Num.lean ====
section
/-! DEFINITION. Number formats and arithmetic (R86-R107): exact dyadic values, rounding once, the counter hash, block
formats, t5, the extended format and grouped summation. -/
namespace Sys2Proof.Machine

/-- A floating value: NaN, an infinity, or (-1)^neg x m x 2^e exactly (m = 0 is a signed zero). -/
inductive FVal where
  | nan
  | inf (neg : Bool)
  | fin (neg : Bool) (m : Nat) (e : Int)
deriving DecidableEq, Repr

/-- A floating format (R87): exponent bits, fraction bits, bias; `top` is set for e4m3, whose greatest exponent holds
numbers; `sat` for the formats that saturate (R93). -/
structure Fmt where
  eb : Nat
  fb : Nat
  bias : Nat
  top : Bool
  sat : Bool
deriving DecidableEq, Repr

/-- binary32 (R87). -/
def f32 : Fmt := ⟨8, 23, 127, false, false⟩
/-- binary16 (R87). -/
def f16 : Fmt := ⟨5, 10, 15, false, false⟩
/-- bf16 (R87). -/
def bf16 : Fmt := ⟨8, 7, 127, false, false⟩
/-- e4m3 (R87). -/
def e4m3 : Fmt := ⟨4, 3, 7, true, true⟩
/-- e5m2 (R87). -/
def e5m2 : Fmt := ⟨5, 2, 15, false, true⟩

/-- Width of a format. -/
def Fmt.width (F : Fmt) : Nat := 1 + F.eb + F.fb

/-- The canonical NaN (R88, Table 2). -/
def Fmt.canonNaN (F : Fmt) : Nat :=
  if F.top then 0x7F else (2 ^ F.eb - 1) * 2 ^ F.fb + 2 ^ (F.fb - 1)

/-- The bits of an infinity. -/
def Fmt.infBits (F : Fmt) (neg : Bool) : Nat :=
  (2 ^ F.eb - 1) * 2 ^ F.fb + (if neg then 2 ^ (F.eb + F.fb) else 0)

/-- The bits of the largest finite value. -/
def Fmt.maxBits (F : Fmt) (neg : Bool) : Nat :=
  (if F.top then 0x7E else (2 ^ F.eb - 1) * 2 ^ F.fb - 1) + (if neg then 2 ^ (F.eb + F.fb) else 0)

/-- The value of a bit pattern (R87, R88). -/
def Fmt.decode (F : Fmt) (x : Nat) : FVal :=
  let f := x % 2 ^ F.fb
  let e := (x / 2 ^ F.fb) % 2 ^ F.eb
  let neg := x.testBit (F.eb + F.fb)
  if F.top then
    if e = 15 ∧ f = 7 then .nan
    else if e = 0 then .fin neg f (1 - (F.bias : Int) - F.fb)
    else .fin neg (2 ^ F.fb + f) ((e : Int) - F.bias - F.fb)
  else if e = 2 ^ F.eb - 1 then (if f = 0 then .inf neg else .nan)
  else if e = 0 then .fin neg f (1 - (F.bias : Int) - F.fb)
  else .fin neg (2 ^ F.fb + f) ((e : Int) - F.bias - F.fb)

/-- Rounding modes (R91); stochastic rounding carries its draw h (R96). -/
inductive RMode where
  | rn | rz | rd | ru
  | sr (h : Nat)
deriving DecidableEq, Repr

/-- Whether a magnitude lo + frac, with frac = (rem + sticky) / 2^sh in (0, 1), is rounded away from zero (R91, R96). -/
def roundsUp (mode : RMode) (neg : Bool) (lo rem sh : Nat) (sticky : Bool) : Bool :=
  let inexact := rem != 0 || sticky
  match mode with
  | .rn => decide (2 * rem > 2 ^ sh) || (decide (2 * rem = 2 ^ sh) && (sticky || lo % 2 == 1))
  | .rz => false
  | .rd => neg && inexact
  | .ru => !neg && inexact
  | .sr h => inexact && decide (2 ^ 32 * rem / 2 ^ sh > h)

/-- m x 2^e as an integer when e is not negative, and its remainder otherwise: (quotient, remainder, shift). -/
def splitAt (m : Nat) (e q : Int) : Nat × Nat × Nat :=
  if e ≥ q then (m * 2 ^ (e - q).toNat, 0, 0)
  else ((m >>> (q - e).toNat), m % 2 ^ (q - e).toNat, (q - e).toNat)

/-- The bits of sig x 2^q, which F represents. -/
def Fmt.pack (F : Fmt) (neg : Bool) (sig : Nat) (q : Int) : Nat :=
  let s := if neg then 2 ^ (F.eb + F.fb) else 0
  let emin : Int := 1 - (F.bias : Int)
  if sig = 0 then s
  else
    let E : Int := (Nat.log2 sig : Int) + q
    if E < emin then s + (splitAt sig q (emin - F.fb)).1
    else s + ((E + F.bias).toNat - 1) * 2 ^ F.fb + (splitAt sig q (E - F.fb)).1

/-- Whether sig x 2^q is beyond the largest finite value (R93). -/
def Fmt.beyond (F : Fmt) (sig : Nat) (q : Int) : Bool :=
  let mm := if F.top then 14 else 2 ^ (F.fb + 1) - 1
  let me : Int := if F.top then 5 else (2 ^ F.eb : Nat) - 2 - (F.bias : Int) - F.fb
  if q ≥ me then decide (sig * 2 ^ (q - me).toNat > mm) else decide (sig > mm * 2 ^ (me - q).toNat)

/-- The result of overflow (R93, Table 4). -/
def Fmt.overflow (F : Fmt) (mode : RMode) (neg : Bool) : Nat :=
  if F.sat then F.maxBits neg
  else match mode with
    | .rn => F.infBits neg
    | .rz => F.maxBits neg
    | .rd => if neg then F.infBits neg else F.maxBits neg
    | .ru => if neg then F.maxBits neg else F.infBits neg
    | .sr _ => F.infBits neg

/-- Round a magnitude m x 2^e, with `sticky` standing for a nonzero rest below it, to F (R91, R93, R96). -/
def Fmt.roundMag (F : Fmt) (mode : RMode) (neg : Bool) (m : Nat) (e : Int) (sticky : Bool) : Nat :=
  if m = 0 ∧ !sticky then F.pack neg 0 0
  else
    let emin : Int := 1 - (F.bias : Int)
    let E : Int := (Nat.log2 m : Int) + e
    let q := max E emin - F.fb
    let r := splitAt m e q
    let sig := if roundsUp mode neg r.1 r.2.1 r.2.2 sticky then r.1 + 1 else r.1
    if F.beyond sig q then F.overflow mode neg else F.pack neg sig q

/-- rnd(x, F, mode) (R91, R93). -/
def Fmt.rnd (F : Fmt) (mode : RMode) (x : FVal) : Nat :=
  match x with
  | .nan => F.canonNaN
  | .inf neg => if F.top then F.maxBits neg else F.infBits neg
  | .fin neg m e => F.roundMag mode neg m e false

/-- rne_F (R91). -/
def Fmt.rne (F : Fmt) (x : FVal) : Nat := F.rnd .rn x

/-- Exact product (R89, R92). -/
def FVal.mul (a b : FVal) : FVal :=
  match a, b with
  | .nan, _ => .nan
  | _, .nan => .nan
  | .inf s, .inf t => .inf (s != t)
  | .inf s, .fin t m _ => if m = 0 then .nan else .inf (s != t)
  | .fin s m _, .inf t => if m = 0 then .nan else .inf (s != t)
  | .fin s m e, .fin t n f => .fin (s != t) (m * n) (e + f)

/-- A signed integer times 2^e as a value, a zero taking the sign given. -/
def FVal.ofInt (zneg : Bool) (x : Int) (e : Int) : FVal :=
  if x = 0 then .fin zneg 0 0 else .fin (decide (x < 0)) x.natAbs e

/-- The signed mantissa of a finite value at exponent g, g at or below its own. -/
def sigAt (neg : Bool) (m : Nat) (e g : Int) : Int :=
  let x : Int := (m * 2 ^ (e - g).toNat : Nat)
  if neg then -x else x

/-- Exact sum; `rd` says that the mode is toward minus infinity, which decides the sign of a zero sum (R92). -/
def FVal.add (rd : Bool) (a b : FVal) : FVal :=
  match a, b with
  | .nan, _ => .nan
  | _, .nan => .nan
  | .inf s, .inf t => if s = t then .inf s else .nan
  | .inf s, _ => .inf s
  | _, .inf t => .inf t
  | .fin s m e, .fin t n f =>
    if m = 0 ∧ n = 0 then .fin (if rd then s || t else s && t) 0 0
    else
      let g := min e f
      FVal.ofInt rd (sigAt s m e g + sigAt t n f g) g

/-- The value with its sign changed. -/
def FVal.neg : FVal → FVal
  | .nan => .nan
  | .inf s => .inf !s
  | .fin s m e => .fin (!s) m e

/-- The value times 2^k, exactly. -/
def FVal.scale (k : Int) : FVal → FVal
  | .nan => .nan
  | .inf s => .inf s
  | .fin s m e => .fin s m (e + k)

/-- The sign bit of a value; NaN counts as positive. -/
def FVal.isNeg : FVal → Bool
  | .nan => false
  | .inf s => s
  | .fin s _ _ => s

/-- Whether the mode is toward minus infinity. -/
def RMode.isRd : RMode → Bool
  | .rd => true
  | _ => false

/-- Compare two values that are not NaN: -1, 0, 1 as an integer, with -0 equal to +0 (R166). -/
def FVal.cmp (a b : FVal) : Int :=
  match a, b with
  | .nan, _ => 0
  | _, .nan => 0
  | .inf s, .inf t => if s = t then 0 else if s then -1 else 1
  | .inf s, _ => if s then -1 else 1
  | _, .inf t => if t then 1 else -1
  | .fin s m e, .fin t n f =>
    let g := min e f
    let x := sigAt s m e g
    let y := sigAt t n f g
    if x < y then -1 else if x = y then 0 else 1

/-- min and max of a floating format (R162): NaN gives the canonical NaN, -0 orders below +0, no rounding. -/
def Fmt.minMax (F : Fmt) (wantMax : Bool) (x y : Nat) : Nat :=
  let a := F.decode x
  let b := F.decode y
  if a = .nan ∨ b = .nan then F.canonNaN
  else
    let c := a.cmp b
    let aLess := decide (c < 0) || (decide (c = 0) && a.isNeg)
    if wantMax then (if aLess then y else x) else (if aLess then x else y)

/-- Round to an integer (R94, R162): the magnitude of the result. -/
def roundInt (mode : RMode) (neg : Bool) (m : Nat) (e : Int) : Nat :=
  let r := splitAt m e 0
  if roundsUp mode neg r.1 r.2.1 r.2.2 false then r.1 + 1 else r.1

/-- Saturation (R86). -/
def sat (lo hi x : Int) : Int := if x < lo then lo else if x > hi then hi else x

/-- Saturation to a signed type of n bits. -/
def satI (n : Nat) (x : Int) : Int := sat (-(2 ^ (n - 1) : Nat)) ((2 ^ (n - 1) : Nat) - 1) x
/-- Saturation to an unsigned type of n bits. -/
def satN (n : Nat) (x : Int) : Int := sat 0 ((2 ^ n : Nat) - 1) x

/-- Floating to integer type T of n bits (R94): round, then saturate; infinities saturate, NaN gives 0. -/
def FVal.toIntType (signed : Bool) (n : Nat) (mode : RMode) (x : FVal) : Int :=
  let s := if signed then satI n else satN n
  match x with
  | .nan => 0
  | .inf neg => if neg then s (-(2 ^ 70 : Nat)) else s (2 ^ 70 : Nat)
  | .fin neg m e =>
    let r : Int := roundInt mode neg m e
    s (if neg then -r else r)

/-- An integer as a value; 0 is +0. -/
def FVal.int (x : Int) : FVal := FVal.ofInt false x 0

/-- rint.f32 (R162). -/
def rintF32 (mode : RMode) (x : Nat) : Nat :=
  match f32.decode x with
  | .nan => f32.canonNaN
  | .inf _ => x
  | .fin neg m e =>
    if m = 0 ∨ decide ((Nat.log2 m : Int) + e ≥ 23) then x
    else f32.pack neg (roundInt mode neg m e) 0

/-- Rotate a 32-bit number left. -/
def rotl32 (x n : Nat) : Nat := ((x <<< n) % 2 ^ 32) ||| (x >>> (32 - n))

/-- One round of the counter hash (R95). -/
def hashRound (i : Nat) (st : Nat × Nat × Nat × Nat) : Nat × Nat × Nat × Nat :=
  let (x, y, k0, k1) := st
  let x := (x + rotl32 y 7 + k0) % 2 ^ 32
  let y := y ^^^ rotl32 x 13
  let y := (y + k1 + i * 0x9E3779B9) % 2 ^ 32
  let x := x ^^^ rotl32 y 17
  (x, y, k1, k0 ^^^ 0x6A09E667)

/-- The counter hash H(key, a, b) (R95). -/
def hash32 (key a b : Nat) : Nat :=
  let st := [0, 1, 2, 3, 4, 5].foldl (fun st i => hashRound i st)
    (a % 2 ^ 32, b % 2 ^ 32, key % 2 ^ 32, (key >>> 32) % 2 ^ 32)
  st.1 ^^^ rotl32 st.2.1 5

/-- The floating format of a tensor FMT code, if it is one (R79). -/
def fmtOf (code : Nat) : Option Fmt :=
  if code = 8 then some f32 else if code = 9 then some f16 else if code = 10 then some bf16
  else if code = 11 then some e4m3 else if code = 12 then some e5m2 else none

/-- Whether an integer format code is signed, and its width (R79): 0-3 i8-i64, 4-7 n8-n64. -/
def intFmt (code : Nat) : Option (Bool × Nat) :=
  if code < 4 then some (true, 8 * 2 ^ code) else if code < 8 then some (false, 8 * 2 ^ (code - 4)) else none

/-- Conversion of one element between two formats by R94. -/
def convert (dst src : Nat) (mode : RMode) (x : Nat) : Nat :=
  match fmtOf src, fmtOf dst, intFmt src, intFmt dst with
  | some S, some D, _, _ => D.rnd mode (S.decode x)
  | some S, none, _, some (sg, n) => wrapN n ((S.decode x).toIntType sg n mode)
  | none, some D, some (sg, n), _ => D.rnd mode (FVal.int (if sg then sextInt x n else (x % 2 ^ n : Nat)))
  | none, none, some (sg, n), some (sg', n') =>
    let v : Int := if sg then sextInt x n else (x % 2 ^ n : Nat)
    wrapN n' (if sg' then satI n' v else satN n' v)
  | _, _, _, _ => 0

/-! ## Block formats and t5 (R97-R101) -/

/-- Bytes of a db8 or db4 block (R97). -/
def blockBytes (code : Nat) : Nat := if code = 13 then 34 else 18

/-- Decode element i of a block (R98), SCALE included. -/
def blockElem (code : Nat) (scale : Int) (block : List Nat) (i : Nat) : FVal :=
  let x0 := block.getD 0 0
  let x1 := block.getD 1 0
  if x0 = 255 ∨ x1 = 255 then .nan
  else if code = 13 then
    let b := block.getD (2 + i) 0
    let X := if b.testBit 7 then x1 else x0
    .fin (b.testBit 6) (b % 64) ((X : Int) - 127 - 5 + scale)
  else
    let b := (block.getD (2 + i / 2) 0 >>> (4 * (i % 2))) % 16
    let X := if b.testBit 3 then x1 else x0
    .fin (b.testBit 2) (b % 4) ((X : Int) - 127 - 1 + scale)

/-- rne(|y| / 2^g): nearest integer, ties to even. -/
def rneDiv (m : Nat) (e g : Int) : Nat := roundInt .rn false m (e - g)

/-- The smallest X from x on, below x + fuel, with rne(a / 2^(X - 127 - Q)) at most M; 254 if none (R99). -/
def findX1 (m : Nat) (e : Int) (Q M : Nat) : Nat → Nat → Nat
  | 0, _ => 254
  | fuel + 1, x => if rneDiv m e ((x : Int) - 127 - Q) ≤ M then x else findX1 m e Q M fuel (x + 1)

/-- The greater of two finite magnitudes. -/
def maxMag (a b : Nat × Int) : Nat × Int :=
  if (FVal.fin false a.1 a.2).cmp (.fin false b.1 b.2) < 0 then b else a

/-- The magnitude of a finite value. -/
def FVal.mag : FVal → Nat × Int
  | .fin _ m e => (m, e)
  | _ => (0, 0)

/-- The block quantiser (R99) on 32 values already multiplied by 2^-SCALE: the block's bytes. -/
def quantise (code : Nat) (ys : List FVal) : List Nat :=
  let Q := if code = 13 then 5 else 1
  let M := if code = 13 then 63 else 3
  let bad := ys.any fun y => match y with | .fin _ _ _ => false | _ => true
  if bad then 255 :: 255 :: List.replicate (blockBytes code - 2) 0
  else
    let a := ys.foldl (fun acc y => maxMag acc y.mag) (0, 0)
    let x1 := findX1 a.1 a.2 Q M 255 0
    let x0 := x1 - (if code = 13 then 3 else 2)
    let el := ys.map fun y =>
      let mg := y.mag
      let q0 := rneDiv mg.1 mg.2 ((x0 : Int) - 127 - Q)
      let sm := if q0 ≤ M then (0, q0) else (1, min (rneDiv mg.1 mg.2 ((x1 : Int) - 127 - Q)) M)
      if code = 13 then sm.1 * 128 + (if y.isNeg then 64 else 0) + sm.2
      else sm.1 * 8 + (if y.isNeg then 4 else 0) + sm.2
    x0 :: x1 ::
      (if code = 13 then el
       else (List.range 16).map fun i => el.getD (2 * i) 0 + 16 * el.getD (2 * i + 1) 0)

/-- Trit k of a t5 byte (R101): 0, 1 or -1; a byte of 243 to 255 holds five zeros. -/
def trit (v k : Nat) : Int :=
  if v ≥ 243 then 0
  else match (v / 3 ^ k) % 3 with
    | 0 => 0
    | 1 => 1
    | _ => -1

/-! ## The matrix engine's summation (R102-R106) -/

/-- rne_ext: rounding to the 26-bit extended format (R102). -/
def rneExt : FVal → FVal
  | .nan => .nan
  | .inf s => .inf s
  | .fin s m e =>
    if m = 0 then .fin s 0 0
    else
      let E : Int := (Nat.log2 m : Int) + e
      let q := max E (-510) - 25
      let r := splitAt m e q
      let sig := if roundsUp .rn s r.1 r.2.1 r.2.2 false then r.1 + 1 else r.1
      if decide ((Nat.log2 sig : Int) + q > 511) then .inf s else .fin s sig q

/-- groupsum (R104): truncate every product to a common unit, then add exactly. -/
def groupsum (W : Nat) (ps : List FVal) : FVal :=
  let anyNaN := ps.any fun p => p = .nan
  let pinf := ps.any fun p => p = .inf false
  let ninf := ps.any fun p => p = .inf true
  if anyNaN ∨ (pinf ∧ ninf) then .nan
  else if pinf then .inf false
  else if ninf then .inf true
  else
    let exps := ps.filterMap fun p => match p with
      | .fin _ m e => if m = 0 then none else some ((Nat.log2 m : Int) + e)
      | _ => none
    match exps with
    | [] => ps.foldl (fun acc p => match acc with
        | none => some p
        | some a => some (FVal.add false a p)) none |>.getD (.fin false 0 0)
    | E0 :: rest =>
      let E := rest.foldl max E0
      let u := E - W + 1
      let ts := ps.map fun p => match p with
        | .fin s m e => FVal.fin s (splitAt m e u).1 u
        | q => q
      let total := ts.foldl (fun acc t => match t with
        | .fin s m _ => acc + (if s then -(m : Int) else m)
        | _ => acc) (0 : Int)
      let allNegZero := ts.all fun t => match t with
        | .fin s m _ => s && m == 0
        | _ => false
      FVal.ofInt allNegZero total u

/-- One element of a floating pass (R104): groups in ascending k, then one rounding to f32. -/
def passFloat (W : Nat) : List (List FVal) → FVal → Nat
  | [], acc => f32.rne acc
  | g :: gs, acc => passFloat W gs (rneExt (FVal.add false acc (groupsum W g)))

/-- One element of an integer pass (R106). -/
def passInt : List (List Int) → Int → Int
  | [], acc => acc
  | g :: gs, acc => passInt gs (satI 32 (acc + g.foldl (· + ·) 0))

/-- The 3-term BF16 split (R103), as bf16 bits. -/
def split3 (x : Nat) : Nat × Nat × Nat :=
  match f32.decode x with
  | .nan => (bf16.canonNaN, bf16.canonNaN, bf16.canonNaN)
  | .inf s => (bf16.infBits s, 0, 0)
  | v =>
    if v.mag.1 = 0 then (bf16.rne v, 0, 0)
    else
      let h0 := bf16.rne v
      let hi := match bf16.decode h0 with
        | .inf s => bf16.maxBits s
        | _ => h0
      let r1 := FVal.add false v (bf16.decode hi).neg
      let mid := bf16.rne r1
      let r2 := FVal.add false r1 (bf16.decode mid).neg
      (hi, mid, bf16.rne r2)

end Sys2Proof.Machine
end

