-- ==== Sys2Proof/Machine/Ops.lean ====
section
/-! DEFINITION. The named operations over the state that every family shares: finding and changing heats, teams, gangs
and cores; the agenda; memory; translation; owners; barriers; detecting a violation, halting on it and saving what the
trap record names (R317-R322). -/
namespace Sys2Proof.Machine

/-! ## Heats, teams, gangs, cores -/

/-- The heat with the model's number hid. -/
def State.heat? (s : State) (hid : Nat) : Option Heat := s.heats.find? (fun h => h.hid == hid)

/-- Change one heat. -/
def State.modHeat (s : State) (hid : Nat) (f : Heat → Heat) : State :=
  { s with heats := s.heats.map fun h => if h.hid = hid then f h else h }

/-- Change one team of a heat. -/
def Heat.modTeam (h : Heat) (t : Nat) (f : Team → Team) : Heat := { h with teams := modifyNth h.teams t f }

/-- Change one team. -/
def State.modTeam (s : State) (r : TeamRef) (f : Team → Team) : State := s.modHeat r.hid fun h => h.modTeam r.team f

/-- Change the cox of a team. -/
def State.modCox (s : State) (r : TeamRef) (f : Cox → Cox) : State := s.modTeam r fun t => { t with cox := f t.cox }

/-- Change one gang. -/
def State.modGang (s : State) (r : GangRef) (f : Gang → Gang) : State :=
  s.modTeam ⟨r.hid, r.team⟩ fun t => { t with gangs := modifyNth t.gangs r.gang f }

/-- A team. -/
def State.team? (s : State) (r : TeamRef) : Option Team := (s.heat? r.hid).bind fun h => h.teams[r.team]?

/-- A gang. -/
def State.gang? (s : State) (r : GangRef) : Option Gang := (s.team? ⟨r.hid, r.team⟩).bind fun t => t.gangs[r.gang]?

/-- A core. -/
def State.core (s : State) (c : Nat) : Core := Store.get Core.init s.cores c

/-- Change one core. -/
def State.modCore (s : State) (c : Nat) (f : Core → Core) : State :=
  { s with cores := Store.set Core.init s.cores c (f (s.core c)) }

/-- A port. -/
def State.port (s : State) (p : Nat) : Port := Store.get Port.init s.ports p

/-- Change one port. -/
def State.modPort (s : State) (p : Nat) (f : Port → Port) : State :=
  { s with ports := Store.set Port.init s.ports p (f (s.port p)) }

/-- A queue. -/
def State.queue (s : State) (q : Nat) : Queue := Store.get Queue.init s.queues q

/-- Change one queue. -/
def State.modQueue (s : State) (q : Nat) (f : Queue → Queue) : State :=
  { s with queues := Store.set Queue.init s.queues q (f (s.queue q)) }

/-- A global operation in flight. -/
def State.gop? (s : State) (id : Nat) : Option GlobalOp := s.gops.find? (fun o => o.id == id)

/-- Change one global operation. -/
def State.modGop (s : State) (id : Nat) (f : GlobalOp → GlobalOp) : State :=
  { s with gops := s.gops.map fun o => if o.id = id then f o else o }

/-- Remove a global operation. -/
def State.dropGop (s : State) (id : Nat) : State := { s with gops := s.gops.filter fun o => o.id ≠ id }

/-- An engine command in flight. -/
def State.cmd? (s : State) (id : Nat) : Option EngCmd := s.cmds.find? (fun c => c.id == id)

/-- Change one engine command. -/
def State.modCmd (s : State) (id : Nat) (f : EngCmd → EngCmd) : State :=
  { s with cmds := s.cmds.map fun c => if c.id = id then f c else c }

/-- Cluster of a core (R8). -/
def clusterOf (core : Nat) : Nat := core / 4
/-- Die of a core: clusters 0-47 lie on die 0 (R7, R8). -/
def dieOfCore (core : Nat) : Nat := if core < 192 then 0 else 1
/-- Die of a cluster. -/
def dieOfCluster (c : Nat) : Nat := if c < 48 then 0 else 1
/-- Stack of a physical or virtual address (R109). -/
def stackOf (a : Nat) : Nat := bits a 14 12
/-- Die of a stack: stacks 0-3 lie on die 0 (R7). -/
def dieOfStack (s : Nat) : Nat := if s < 4 then 0 else 1
/-- Die of a port (R261). -/
def dieOfPort (p : Nat) : Nat := if p < 8 then 0 else 1
/-- Crew index of a team (R48). -/
def crewIndex (t : Team) : Nat := 2 * (t.core % 4) + t.tsel

/-- Issue positions of the lane pipe (R21): rho. -/
def Heat.rho (h : Heat) : Nat := h.record.rho

/-- Pod cycle of a team's heat cycle 0: the anchor, moved by the restart of a discarded team (R19, R295). -/
def Heat.base (h : Heat) (t : Team) : Nat := h.anchor + t.shift

/-- The crew-relative index of a cluster in a heat (R52). -/
def Heat.clusterIndex (h : Heat) (cluster : Nat) : Option Nat := h.clusters.findIdx? (· == cluster)

/-- The core of a heat that a heat-relative core number names (R294). -/
def Heat.coreAt (h : Heat) (rel : Nat) : Option Nat := (h.clusters[rel / 4]?).map fun cl => 4 * cl + rel % 4

/-- The heat-relative number of a core of the heat. -/
def Heat.relCore (h : Heat) (core : Nat) : Nat := 4 * (h.clusterIndex (clusterOf core)).getD 0 + core % 4

/-- The first own slot of position p at or after heat cycle h (R21). -/
def alignSlot (rho p h : Nat) : Nat := h + ((p + rho - h % rho) % rho)

/-- The issue position of a gang (R21): its own number, but for the second team of a core that hosts two. -/
def Heat.position (h : Heat) (t : Team) (gang : Nat) : Nat :=
  if t.tsel = 1 ∧ h.teams.any (fun x => x.core == t.core && x.tsel == 0) then h.rho / 2 + gang else gang

/-- Smallest multiple of g that is at least x. -/
def roundUp (g x : Nat) : Nat := (x + g - 1) / g * g

/-! ## The pod counter (R14) -/

/-- THE POD COUNTER (R14): the count of core cycles, which wraps at 2^64. -/
def State.podtime (s : State) : BitVec 64 := BitVec.ofNat 64 s.now

/-- The first cycle of the counter's current turn: the counter has wrapped now / 2^64 times. -/
def turnBase (now : Nat) : Nat := now / 2 ^ 64 * 2 ^ 64

/-- The cycle that a pod cycle named by software means (R14, log 92): the one of the counter's current turn. -/
def State.named (s : State) (c : Nat) : Nat := turnBase s.now + c

/-- The first cycle after c at which the pod counter is a multiple of n (R14): multiples start anew when the counter wraps. -/
def nextMultiple (n c : Nat) : Nat :=
  let x := c % 2 ^ 64 / n * n + n
  turnBase c + (if x < 2 ^ 64 then x else 2 ^ 64)

/-! ## The agenda and free choices -/

/-- Whether step a comes before step b: cycle, then rank, then order of entry. -/
def Due.before (a b : Due) : Bool :=
  decide (a.at_ < b.at_) || (a.at_ == b.at_ && (decide (a.rank < b.rank) || (a.rank == b.rank && decide (a.seq < b.seq))))

/-- Insert a step at its place. -/
def insertDue (d : Due) : List Due → List Due
  | [] => [d]
  | e :: r => if d.before e then d :: e :: r else e :: insertDue d r

/-- Put a step on the agenda, at place `sub` among the steps of its rank. -/
def State.pushSub (s : State) (cycle rank sub : Nat) (ev : Ev) : State :=
  { s with agenda := insertDue { at_ := cycle, rank := dueRank rank sub, seq := s.seq, ev := ev } s.agenda
           seq := s.seq + 1 }

/-- Put a step on the agenda. -/
def State.push (s : State) (cycle rank : Nat) (ev : Ev) : State := s.pushSub cycle rank 0 ev

/-- Remove the steps of the agenda that a test picks. -/
def State.cancel (s : State) (p : Ev → Bool) : State := { s with agenda := s.agenda.filter fun d => !p d.ev }

/-- PUT OFF a schedule step of a heat that a halt keeps from happening in the current cycle (R352): it is kept at its
distance from the heat's anchor until the heat resumes. -/
def State.park (s : State) (hid rank : Nat) (ev : Ev) : State :=
  s.modHeat hid fun h =>
    { h with parked := h.parked ++ [{ at_ := s.now - h.anchor, rank := dueRank rank 0, seq := h.parked.length, ev := ev }] }

/-- FREE CHOICE: a number in [lo, hi], or lo when hi is not above it. -/
def State.choose (s : State) (lo hi : Nat) : Nat × State :=
  if hi ≤ lo then (lo, s)
  else (lo + Config.freeChoice s.freeCtr % (hi - lo + 1), { s with freeCtr := s.freeCtr + 1 })

/-- Take n free register words. -/
def State.freeWords (s : State) (n : Nat) : List Word × State :=
  ((List.range n).map fun i => Config.freeWord (s.freeCtr + i), { s with freeCtr := s.freeCtr + n })

/-! ## Memory -/

/-- Key of a byte of a core's scratch. -/
def scratchKey (core o : Nat) : Nat := core * 2 ^ 20 + o
/-- Key of an element of an accumulator tile (R117). -/
def tileKey (cluster tile i j : Nat) : Nat := (cluster * 32 + tile) * 2 ^ 14 + 128 * i + j

/-- Read bytes of a core's scratch (offset from the start of the core's scratch). -/
def State.readScratch (s : State) (core o n : Nat) : List Byte := Store.getRun 0 n s.scratch (scratchKey core o)

/-- Write bytes of a core's scratch. -/
def State.writeScratch (s : State) (core o : Nat) (bs : List Byte) : State :=
  { s with scratch := Store.putRun 0 s.scratch (scratchKey core o) bs }

/-- Read bytes of HBM4. -/
def State.readHbm (s : State) (pa n : Nat) : List Byte := Store.getRun 0 n s.hbm pa

/-- First cycle of the memory frame of a pod cycle (R31). -/
def frameStart (c : Nat) : Nat := c / 4096 * 4096

/-- Log entries that a write leaves: the byte as it stood before, newest first (R122). -/
def logEntries (s : State) (pa : Nat) (n : Nat) : List (Nat × Nat × Byte) :=
  (List.range n).map fun i => (s.now, pa + i, Store.get 0 s.hbm (pa + i))

/-- Write bytes of HBM4 in the current cycle, keeping what stood before for loads that perform earlier in the frame. The front
end and bulk messages may name an address at or above 384 GiB: its bytes are kept like any others (log 105). -/
def State.writeHbm (s : State) (pa : Nat) (bs : List Byte) : State :=
  { s with
    hbmLog := logEntries s pa bs.length ++ s.hbmLog.filter fun e => decide (frameStart s.now ≤ e.1)
    hbm := Store.putRun 0 s.hbm pa bs }

/-- The value a byte had after every write that performed at or before cycle P of the current frame (R122). -/
def byteAsOf (log : List (Nat × Nat × Byte)) (a P : Nat) (v : Byte) : Byte :=
  log.foldl (fun acc e => if decide (e.1 > P) && e.2.1 == a then e.2.2 else acc) v

/-- Read bytes of HBM4 as they stood at cycle P (R122, R123). -/
def State.readHbmAt (s : State) (pa n P : Nat) : List Byte :=
  if P ≥ s.now then s.readHbm pa n
  else (List.range n).map fun i => byteAsOf s.hbmLog (pa + i) P (Store.get 0 s.hbm (pa + i))

/-- Read bytes of host memory. -/
def State.readHost (s : State) (a n : Nat) : List Byte := Store.getRun 0 n s.hostMem a
/-- Write bytes of host memory. -/
def State.writeHost (s : State) (a : Nat) (bs : List Byte) : State :=
  { s with hostMem := Store.putRun 0 s.hostMem a bs }

/-- One byte through CRC-32C (R49), reflected. -/
def crcByte (crc b : Nat) : Nat :=
  (List.range 8).foldl (fun c _ => if c % 2 = 1 then (c / 2) ^^^ 0x82F63B78 else c / 2) (crc ^^^ b)

/-- CRC-32C of bytes (R49). -/
def crc32c (bs : List Byte) : Nat := (bs.foldl (fun c b => crcByte c b.toNat) 0xFFFFFFFF) ^^^ 0xFFFFFFFF

/-- The bytes with those of [at, at + 4) read as zero. -/
def zeroSeal (bs : List Byte) (p : Nat) : List Byte := bs.take p ++ List.replicate 4 0 ++ bs.drop (p + 4)

/-- Whether the CRC-32C over the bytes, its own four bytes at p read as zero, is the one they hold (R49, R340). -/
def sealOk (bs : List Byte) (p : Nat) : Bool := crc32c (zeroSeal bs p) == ofLeBytes ((bs.drop p).take 4)

/-! ## Translation (R118-R120, R334) -/

/-- What translation finds: a physical address and its page, or a cause. -/
inductive Trans where
  | ok (pa : Nat) (page : Page) (w : Nat)
  | fail (cause : Nat)
deriving DecidableEq, Repr

/-- The first window, from number i on, that contains va. -/
def findWindow (va : Nat) : List Window → Nat → Option (Nat × Window)
  | [], _ => none
  | w :: r, i => if w.vbase ≤ va ∧ va < w.vbase + w.npage * w.size then some (i, w) else findWindow va r (i + 1)

/-- Translate va through a team's windows (R120), with the checks of R334 in their order. -/
def translate (wins : List Window) (va : Nat) (write : Bool) : Trans :=
  match findWindow va wins 0 with
  | none => .fail 0x60
  | some (i, w) =>
    match w.pages[(va - w.vbase) / w.size]? with
    | none => .fail 0x61
    | some p =>
      if !p.pres then .fail 0x61
      else if write && !p.wr then .fail 0x62
      else if write && p.cow then .fail 0x63
      else .ok (p.pa + (va - w.vbase) % w.size) p i

/-- A byte range read through a team's windows, for a stream's fetch (R120, R334): none when some word has no present page. -/
def State.fetchWord (s : State) (t : Team) (va : Nat) : Option Word :=
  match translate t.wins va false with
  | .ok pa _ _ => some (BitVec.ofNat 32 (ofLeBytes (s.readHbm pa 4)))
  | .fail _ => none

/-! ## Stack slots (R31, R32, R54, R337, R338) -/

/-- The cause a stack cycle breaks, if any: a slack window, or a grain not granted to the cluster. -/
def stackBreach (h : Heat) (cluster stack cyc : Nat) : Option Nat :=
  let o := cyc % 4096
  if o ≥ 3840 then some 0x83
  else
    match h.clusterIndex cluster with
    | none => some 0x8B
    | some j => if h.record.mem.getD (64 * stack + o / 64) 0xFF = j then none else some 0x8B

/-- Whether the refresh of a stack that starts late takes a cycle (R338). -/
def State.lateRefresh (s : State) (stack cyc : Nat) : Bool :=
  match (s.stackFrames.find? fun e => e.1 == stack).bind (·.2.lateRefresh) with
  | some f => f == cyc / 4096 && decide (cyc % 4096 < 96)
  | none => false

/-- Whether a stack cycle is open to the accesses of no heat (R55, R129, R338): outside the slack window and a late refresh, in a
grain that every resident heat leaves at 0xFF. -/
def State.grainFree (s : State) (stack cyc : Nat) : Bool :=
  decide (cyc % 4096 < 3840) && !s.lateRefresh stack cyc &&
    s.heats.all fun h => h.status == .saved || h.record.mem.getD (64 * stack + cyc % 4096 / 64) 0xFF == 0xFF

/-! ## Owners (R111-R116, R333) -/

/-- Test a granule for an agent of the given owner code in the current cycle: closed, owned by another, or fine. -/
def State.ownerTest (s : State) (core granule code : Nat) : Option Bool :=
  let c := s.core core
  if s.now < Store.get 0 c.closed granule then some true
  else if (Store.get 0 c.owner granule).toNat = code then none
  else some false

/-- Cause of an owner breach for lanes and engines (R333, Table 3). -/
def ownerCause (lane : Bool) : Bool → Nat
  | true => 0x45
  | false => if lane then 0x42 else 0x43

/-- Mark the granules of a team's scratch bytes dirty (R85). -/
def Team.markScratch (t : Team) (o n : Nat) : Team :=
  (List.range ((o % 4096 + n + 4095) / 4096)).foldl
    (fun t i => { t with sdirty := t.sdirty ||| (1#192 <<< (o / 4096 + i)) }) t

/-! ## Event counters (R306) -/

/-- COUNT n events of a source; `field` is the cluster, stack or port they belong to, which counts only for the sources
that name one. -/
def State.tick (s : State) (source field n : Nat) : State :=
  let named := (source ≥ 1 && source ≤ 5) || source == 7 || source == 8
  { s with counters := s.counters.map fun e =>
      if e.2.source.toNat = source ∧ (!named || e.2.field.toNat == field) then
        (e.1, { e.2 with value := e.2.value + BitVec.ofNat 64 n }) else e }

/-- COUNT A CORRECTED SINGLE-BIT ERROR (R338, R349): the words of a kind that a read touches are corrected, written back, and
counted by source 12. -/
def State.corrected (s : State) (kind : Nat) (touched : Nat → Bool) : State :=
  let n := (s.env.singleBits.filter fun e => e.1 == kind && touched e.2).length
  if n = 0 then s
  else { s.tick 12 0 n with env := { s.env with singleBits := s.env.singleBits.filter fun e => !(e.1 == kind && touched e.2) } }

/-- Whether a read touches a word of a kind whose error cannot be corrected (R349). -/
def State.uncorrectable (s : State) (kind : Nat) (touched : Nat → Bool) : Bool :=
  s.env.doubleBits.any fun e => e.1 == kind && touched e.2

/-- The place of a register of a gang in the announcements of R349: v register r has number r. -/
def gangPlace (g : GangRef) (r : Nat) : Nat := ((g.hid * 1024 + g.team) * 16 + g.gang) * 512 + r
/-- The place of a register or entry of a team: k register n has number 256 + n, g register n 384 + n, tensor entry n
448 + n. -/
def teamPlace (t : TeamRef) (n : Nat) : Nat := (t.hid * 1024 + t.team) * 8192 + n
/-- The place of a barrier object of a core. -/
def barPlace (core i : Nat) : Nat := core * 1024 + i

/-- What event counter i reads (R306): source 0 counts pod cycles, its stored value being the difference (log 8). -/
def State.readCounter (s : State) (i : Nat) : BitVec 64 :=
  let c := Store.get Counter.init s.counters i
  if c.source = 0 then c.value + BitVec.ofNat 64 s.now else c.value

/-! ## Outstanding counters (R60, R61, R321) -/

/-- The engine command that a step belongs to, and its place in the command: the code of its beat, or past every beat
for the command's own steps. -/
def cmdPlace : Ev → Option (Nat × Nat)
  | .engineCommandStart c => some (c, 0)
  | .matrixRead c => some (c, 0)
  | .matrixWrite c _ => some (c, 0)
  | .copyBeat c b => some (c, b)
  | .copyWrite c b => some (c, b)
  | .layoutBeat c b => some (c, b)
  | .layoutWrite c b => some (c, b)
  | .hostBoundCheck c b _ => some (c, b / 2)
  | .stackAccess (.beatRead c b) => some (c, b)
  | .stackAccess (.beatWrite c b _ _) => some (c, b)
  | .engineCompletion c => some (c, 2 ^ 200)
  | .xferDone c => some (c, 2 ^ 200)
  | .bf16ImageWrite c _ => some (c, 0)
  | _ => none

/-- Whether beats of a failed engine command of the heat, before the failing one, are still to perform (R318, R336). -/
def State.beatsLeft (s : State) (h : Heat) : Bool :=
  s.cmds.any fun c => c.hid == h.hid && c.failed.isSome && s.agenda.any fun d =>
    match cmdPlace d.ev with
    | some (id, _) => id == c.id
    | none => false

/-- Whether STO, ATM and ENG of every core the heat occupies read zero and no earlier beat of a failed command is left to
perform (R291, R321, R336). -/
def State.quiet (s : State) (h : Heat) : Bool :=
  (h.clusters.all fun cl => [0, 1, 2, 3].all fun p =>
    let c := s.core (4 * cl + p)
    c.sto == 0 && c.atm == 0 && c.eng == 0) && !s.beatsLeft h

/-- Whether MSG of every core of the heat reads zero. -/
def State.msgQuiet (s : State) (h : Heat) : Bool :=
  h.clusters.all fun cl => [0, 1, 2, 3].all fun p => (s.core (4 * cl + p)).msg == 0

/-- The lesser of two cycles that may be set. -/
def leastSet (a b : Option Nat) : Option Nat :=
  match a, b with
  | some x, some y => some (min x y)
  | some x, none => some x
  | none, y => y

/-- The heat cycle from which halt flits stop the streams of a die (R351, R354). -/
def Heat.flitStop (h : Heat) (die : Nat) : Option Nat :=
  match Store.get 0 h.dieHalt die with
  | 0 => none
  | n + 1 => some n

/-- The heat cycle from which a halt stops the streams on a die (R320, R351): that of the heat's halt, or an earlier one that a
halt flit gives the die. -/
def Heat.stopOn (h : Heat) (die : Nat) : Option Nat :=
  let own : Option Nat := match h.halt with
    | some (.haltFlit _, _) => none
    | some (_, x) => some x
    | none => none
  leastSet own (h.flitStop die)

/-- The heat cycle from which a halt stops the streams of a core. -/
def Heat.stopAt (h : Heat) (core : Nat) : Option Nat := h.stopOn (dieOfCore core)

/-- Whether the streams of a core of the heat issue at a heat cycle: it runs and that cycle lies before its halt (R320,
R291). -/
def Heat.issuesAt (h : Heat) (core c : Nat) : Bool :=
  (h.status == .running || h.status == .closing) &&
    (match h.stopAt core with
     | some x => decide (c < x)
     | none => true)

/-- Whether the streams of a team issue at a heat cycle of the team, which a restart shifts against the heat's (R295). -/
def Heat.teamIssuesAt (h : Heat) (t : Team) (c : Nat) : Bool := h.issuesAt t.core (c + t.shift)

/-- Whether every gang and cox of the heat has retired (R58). -/
def Heat.allRetired (h : Heat) : Bool := h.teams.all fun t => t.cox.retired && t.gangs.all (·.retired)

/-- Follow up a change that may let a heat complete (R61) or quiesce (R321): put that step in the current cycle. -/
def State.afterCounter (s : State) (hid : Nat) : State :=
  match s.heat? hid with
  | none => s
  | some h =>
    if h.status = .halting ∧ s.quiet h then s.push s.now 85 (.quiesce hid)
    else if (h.status = .running ∨ h.status = .closing) ∧ h.fault.isNone ∧ h.allRetired ∧ s.quiet h ∧ s.msgQuiet h
    then s.push s.now 80 (.heatCompletion hid)
    else s

/-! ## Detecting a violation, and the trap record (R317-R322) -/

/-- A detection with every field that its agent does not give at zero. -/
def Detect.blank (hid rank cause src : Nat) : Detect :=
  { hid := hid, rank := rank, cause := cause, src := src, res := false, swcode := 0, team := 0, gang := 0, qmask := 0,
    core := 0, lanes := 0, fdix := 0, pc := 0, ret := 0, addr := 0, info := 0, eop := 0, eseq := 0, iter := [] }

/-- Rank of a gang's or cox's detection (R319): core, then TSEL, then gangs before the cox. -/
def streamRank (core tsel k : Nat) : Nat := core * 34 + tsel * 17 + k
/-- Rank of an engine's detection (R319). -/
def engineRank (cluster eng : Nat) : Nat := 100000 + cluster * 4 + eng
/-- Rank of a fabric or external detection (R319). -/
def externalRank (port cause : Nat) : Nat := 200000 + port * 256 + cause

/-- The heat cycle of a team now. -/
def Heat.cycleOf (h : Heat) (t : Team) (now : Nat) : Nat := now - h.base t

/-- Stop a group: it issues nothing from a heat cycle on, or an earlier one (R318). -/
def Group.stop (g : Group) (c : Nat) : Group := { g with stopped := some (g.stopped.getD c) }

/-- Stop the quad groups of a gang that hold some of the given quads: they issue nothing from the current cycle (R318). -/
def State.stopGroups (s : State) (g : GangRef) (quads : BitVec 8) : State :=
  match s.heat? g.hid, s.team? ⟨g.hid, g.team⟩ with
  | some h, some t => s.modGang g fun x =>
      { x with groups := x.groups.map fun gr => if gr.quads &&& quads = 0 then gr else gr.stop (h.cycleOf t s.now) }
  | _, _ => s

/-- Stop every quad group of a gang. -/
def State.stopGang (s : State) (g : GangRef) : State := s.stopGroups g 0xFF

/-- Stop a cox (R318). -/
def State.stopCox (s : State) (r : TeamRef) : State :=
  match s.heat? r.hid, s.team? r with
  | some h, some t => s.modCox r fun x => { x with stopped := some (x.stopped.getD (h.cycleOf t s.now)) }
  | _, _ => s

/-- STOP THE STREAM that a detection names (R317, R318): the quad group, the cox, or the cox that commanded an engine. -/
def State.stopNamed (s : State) (d : Detect) : State :=
  if d.src = 0 then s.stopGroups ⟨d.hid, d.team, d.gang⟩ (BitVec.ofNat 8 d.qmask)
  else if d.src ≤ 5 then s.stopCox ⟨d.hid, d.team⟩
  else s

/-- Enter something in the umpire's log (R329, R344, R348). -/
def State.logEvent (s : State) (e : LogEvent) : State := { s with logEvents := s.logEvents ++ [(s.now, e)] }

/-- RECORD A DETECTION in the current cycle (R317). It is ranked with the others of the cycle when the cycle ends (R319). -/
def State.detect (s : State) (d : Detect) : State := { s with detects := s.detects ++ [d] }

/-- The words of a trap record (R322, Table 2). -/
def trapWords (d : Detect) (h : Heat) (nsec : Nat) (f hf : Nat) : Store Word :=
  let lo (x : Nat) : Word := BitVec.ofNat 32 x
  let hi (x : Nat) : Word := BitVec.ofNat 32 (x / 2 ^ 32)
  let w0 := d.cause * 2 ^ 24 + d.src * 2 ^ 20 + (if d.res then 2 ^ 19 else 0) + d.swcode % 256 * 256 + min nsec 255
  let w1 := d.team * 2 ^ 22 + d.gang * 2 ^ 18 + d.qmask * 2 ^ 10 + d.core * 2
  let ws : List (Nat × Word) :=
    [(0, lo w0), (1, lo w1), (2, d.lanes), (3, lo d.fdix.toNat), (4, hi d.fdix.toNat), (5, lo d.pc), (6, hi d.pc),
     (7, lo d.ret), (8, hi d.ret), (9, lo f), (10, hi f), (11, lo hf), (12, hi hf), (13, lo d.addr), (14, hi d.addr),
     (15, lo d.info), (16, lo (d.eop * 2 ^ 24 + d.eseq % 2 ^ 24)),
     (17, lo (d.iter.getD 0 0)), (18, lo (d.iter.getD 1 0)), (19, lo (d.iter.getD 2 0)),
     (20, lo (d.iter.getD 3 0)), (21, lo (d.iter.getD 4 0)),
     (22, lo h.anchor), (23, hi h.anchor), (24, h.heatid)]
  Store.setAll 0 [] ws

/-- Whether the heat is in a state in which a detection counts (R319: up to Q). -/
def Heat.live (h : Heat) : Bool :=
  h.status == .running || h.status == .closing || h.status == .halting

/-- The first multiple of rho that is at least f + 48 (R320). -/
def haltCycle (rho f : Nat) : Nat := roundUp rho (f + 48)

/-- The heat cycle at which a fault of heat cycle f halts the heat (R320): Hf, or the earlier H of a pending pre-emption or
regatta halt. A halt flit only stops the streams of its die earlier (R351). -/
def Heat.faultStop (h : Heat) (f : Nat) : Nat :=
  match h.halt with
  | some (.haltFlit _, _) => haltCycle h.rho f
  | some (_, x) => min x (haltCycle h.rho f)
  | none => haltCycle h.rho f

/-- TAKE THE HEAT'S FAULT: the first detection becomes primary, the heat halts at Hf, and the trap record is filled
(R319, R320, R322). A later one is only counted. A heat that has not reached its heat cycle 0 is released with the cause, which
the umpire logs (R329). -/
def State.takeFault (s : State) (d : Detect) : State :=
  match s.heat? d.hid with
  | none => s
  | some h =>
    if h.status = .armed ∨ h.status = .scheduled then
      ((s.modHeat d.hid fun h =>
        { h with abortCause := d.cause, status := .quiesced, anchor := if h.status = .armed then 0 else h.anchor }).logEvent
          (.heat h.heatid d.cause)).push s.now 80 (.heatCompletion d.hid)
    else if !h.live then s
    else match h.fault with
      | some p =>
        let n := h.nsec + 1
        s.modHeat d.hid fun h => { h with nsec := n, trap := trapWords p h n h.faultAt (h.halt.map (·.2) |>.getD 0) }
      | none =>
        let f := s.now - h.anchor
        let hf := h.faultStop f
        let s := s.modHeat d.hid fun h =>
          { h with fault := some d, faultAt := f, nsec := 0, halt := some (.fault, hf), trap := trapWords d h 0 f hf }
        s.push (h.anchor + hf) 84 (.faultHalt d.hid)

/-- Insert a detection by rank. -/
def insertDetect (d : Detect) : List Detect → List Detect
  | [] => [d]
  | e :: r => if d.rank < e.rank then d :: e :: r else e :: insertDetect d r

/-- End of a cycle: rank the cycle's detections and take them in order (R319). -/
def State.settleDetects (s : State) : State :=
  let ds := s.detects.foldl (fun acc d => insertDetect d acc) []
  ds.foldl (fun s d => s.takeFault d) { s with detects := [] }

/-! ## Barriers (R82, R83, R217, R342) -/

/-- Index of a handle. -/
def handleIdx (h : Word) : Nat := h.toNat % 1024
/-- Generation of a handle. -/
def handleGen (h : Word) : BitVec 22 := h.extractLsb' 10 22

/-- An object. -/
def Core.bar (c : Core) (i : Nat) : Barrier := Store.get Barrier.init c.bars i
/-- Change one object. -/
def Core.modBar (c : Core) (i : Nat) (f : Barrier → Barrier) : Core :=
  { c with bars := Store.set Barrier.init c.bars i (f (c.bar i)) }

/-- The cause that a handle breaks on a core, if any (R342, R349): an object that cannot be read, a stale generation, or an
object not allocated. -/
def State.handleBreach (s : State) (core : Nat) (handle : Word) : Option Nat :=
  let b := (s.core core).bar (handleIdx handle)
  if b.gen ≠ handleGen handle then some 0xC0 else if !b.alloc then some 0xC1
  else if s.uncorrectable 3 (· == barPlace core (handleIdx handle)) then some 0xF3 else none

/-- The handle that names an object as it stands (a flow's BIDX names only the index, R263). -/
def State.handleOf (s : State) (core i : Nat) : Word := ((s.core core).bar i).gen ++ BitVec.ofNat 10 i

/-- The phase visible at pod cycle c: after every change at or before c - 6 (R25, R197). -/
def visiblePhase (b : Barrier) (c : Nat) : BitVec 16 :=
  b.hist.foldl (fun ph e => if e.1 + 6 > c then e.2 else ph) b.phase

/-- PUT A CHANGE TO A BARRIER among those of the cycle (R83), after checking the handle (R342). `agent` names who makes
it. A breach is detected at once, the named stream stops (R318), and the change is not applied. -/
def State.barChange (s : State) (core : Nat) (handle : Word) (declare credit arrivals : Nat) (engine : Bool)
    (agent : Detect) : State :=
  let s := s.corrected 3 (· == barPlace core (handleIdx handle))
  match s.handleBreach core handle with
  | some cause => (s.stopNamed agent).detect { agent with cause := cause, info := handle.toNat }
  | none =>
    { s with barPend := s.barPend ++ [{ core := core, idx := handleIdx handle, declare := declare, credit := credit,
                                        arrivals := arrivals, engine := engine, agent := { agent with info := handle.toNat } }] }

/-- Insert a change by its agent's rank (R319, R342). -/
def insertChange (c : BarChange) : List BarChange → List BarChange
  | [] => [c]
  | e :: r => if c.agent.rank < e.agent.rank then c :: e :: r else e :: insertChange c r

/-- Whether two changes are one agent's. -/
def BarChange.sameAgent (a b : BarChange) : Bool := a.agent.rank == b.agent.rank && a.agent.hid == b.agent.hid && a.agent.src == b.agent.src

/-- Arrivals by agent, in rank order (R342): the changes of the agents whose arrivals fit, and one change of each agent whose
arrivals would exceed the expected members. None of that agent's changes is applied. Fuel bounds the agents. -/
def takeArrivals (limit : Nat) : Nat → List BarChange → Nat → List BarChange × List BarChange
  | 0, _, _ => ([], [])
  | _ + 1, [], _ => ([], [])
  | k + 1, c :: r, n =>
    let mine := c :: r.filter c.sameAgent
    let rest := r.filter fun d => !c.sameAgent d
    let a := (mine.map (·.arrivals)).sum
    if n + a > limit ∧ a > 0 then
      let q := takeArrivals limit k rest n
      (q.1, c :: q.2)
    else
      let q := takeArrivals limit k rest (n + a)
      (mine ++ q.1, q.2)

/-- What byte changes make of PEND (R342): PEND after, the bytes that engines credited, how many changes were applied, and the
change that would take PEND out of range. -/
structure ByteSum where
  pend : Nat
  credited : Nat
  applied : Nat
  breach : Option BarChange
deriving DecidableEq, Repr

/-- Byte changes in the order of R342, declarations before credits, applied one by one until one would take PEND out of
range. -/
def takeBytes (x : ByteSum) : List (Bool × BarChange) → ByteSum
  | [] => x
  | (isDecl, c) :: r =>
    if isDecl then
      if x.pend + c.declare ≥ 2 ^ 40 then { x with breach := some c }
      else takeBytes { x with pend := x.pend + c.declare, applied := x.applied + 1 } r
    else
      if c.credit > x.pend then { x with breach := some c }
      else takeBytes { x with
        pend := x.pend - c.credit, credited := x.credited + (if c.engine then c.credit else 0), applied := x.applied + 1 } r

/-- The byte changes of a cycle together: their net change when that stays in range, else one by one (R342). -/
def sumBytes (pend : Nat) (cs : List BarChange) : ByteSum :=
  let decl := (cs.map (·.declare)).sum
  let cred := (cs.map (·.credit)).sum
  if cred ≤ pend + decl ∧ pend + decl < 2 ^ 40 + cred then
    { pend := pend + decl - cred, credited := (cs.map fun c => if c.engine then c.credit else 0).sum, applied := cs.length
      breach := none }
  else takeBytes { pend := pend, credited := 0, applied := 0, breach := none }
    ((cs.filter fun c => decide (c.declare > 0)).map (fun c => (true, c)) ++
      (cs.filter fun c => decide (c.credit > 0)).map fun c => (false, c))

/-- Insert a fired threshold in firing order: byte thresholds first, then ascending THR, ties by arm order (R217). -/
def insertFired (t : Threshold) : List Threshold → List Threshold
  | [] => [t]
  | u :: r =>
    let lt := (!t.watch && u.watch) ||
      (t.watch == u.watch && (decide (t.thr < u.thr) || (t.thr == u.thr && decide (t.order < u.order))))
    if lt then t :: u :: r else u :: insertFired t r

/-- Whether a waiting group watches object i of the team's core under handle h. -/
def waitsOn (g : Group) (i : Nat) (gen : BitVec 22) : Bool :=
  match g.wait with
  | .bwt h _ => handleIdx h == i && handleGen h == gen
  | _ => false

/-- Wake the groups that wait on an object, 6 cycles after its phase advanced (R197). -/
def State.wakeWaiters (s : State) (core i : Nat) (gen : BitVec 22) : State :=
  s.heats.foldl (fun s h =>
    (List.range h.teams.length).foldl (fun s ti =>
      match h.teams[ti]? with
      | none => s
      | some t =>
        if t.core ≠ core then s
        else (List.range t.gangs.length).foldl (fun s gi =>
          match t.gangs[gi]? with
          | none => s
          | some g => g.groups.foldl (fun s gr =>
              if waitsOn gr i gen then s.push (s.now + 6) 48 (.bwtResume ⟨h.hid, ti, gi⟩ gr.quads) else s) s) s) s) s

/-- Multiples that a heat's anchor takes (R56): G. -/
def Record.grid (r : Record) : Nat := if r.sched ∨ r.flows ≠ [] then 8192 else 4096

/-- Trigger of an armed heat (R56, R57): the step that fixes its anchor, no earlier than the advance + 256, follows in the same
cycle. -/
def State.triggerArmed (s : State) (core i : Nat) : State :=
  s.heats.foldl (fun s h =>
    let trig : Bool := match h.teams[h.record.armTeam]? with
      | some t => h.status == .armed && h.trigger.isNone && t.core == core && h.record.armIdx == i
      | none => false
    if trig then (s.modHeat h.hid fun h => { h with trigger := some s.now }).push s.now 3 (.heatStart h.hid) else s) s

/-- What the changes of one cycle make of an object (R83, R342), before its advance is tested: the agents whose arrivals
exceed the expected members, the byte changes of the others, the arrivals applied, and whether anything was applied. -/
structure BarSum where
  over_ : List BarChange
  bytes : ByteSum
  arrivals : Nat
  any_ : Bool
deriving DecidableEq, Repr

/-- Sum up the changes of an object in a cycle (R83, R342). -/
def Barrier.sum (b : Barrier) (cs : List BarChange) : BarSum :=
  let ordered := cs.foldl (fun acc c => insertChange c acc) []
  let q := takeArrivals (b.expg + b.expc + b.expe) cs.length ordered b.arrv
  let bytes := sumBytes b.pend (q.1.foldl (fun acc c => insertChange c acc) [])
  let ok := match bytes.breach with
    | some x => q.1.filter fun c => !x.sameAgent c
    | none => q.1
  let arr := (ok.map (·.arrivals)).sum
  { over_ := q.2, bytes := bytes, arrivals := arr, any_ := decide (0 < arr ∨ 0 < bytes.applied) }

/-- Whether the object advances (R83): something was applied, every expected member has arrived, and no byte is pending. -/
def Barrier.advances (b : Barrier) (x : BarSum) : Bool :=
  x.any_ && decide (b.arrv + x.arrivals = b.expg + b.expc + b.expe ∧ x.bytes.pend = 0)

/-- The thresholds of an object after a cycle's changes, those armed in that cycle not yet counting (R217). -/
def Barrier.counted (b : Barrier) (x : BarSum) (now : Nat) : List Threshold :=
  b.arms.map fun t =>
    if t.after < now then { t with count := t.count + (if t.watch then (b.advances x).toNat else x.bytes.credited) } else t

/-- The thresholds that fire, in firing order (R217). -/
def Barrier.firing (b : Barrier) (x : BarSum) (now : Nat) : List Threshold :=
  ((b.counted x now).filter fun t => decide (t.count ≥ t.thr)).foldl (fun acc t => insertFired t acc) []

/-- The object after a cycle's changes (R83, R217). -/
def Barrier.after (b : Barrier) (x : BarSum) (now : Nat) : Barrier :=
  let adv := b.advances x
  { b with
    arrv := if adv then 0 else b.arrv + x.arrivals
    pend := x.bytes.pend
    arms := (b.counted x now).filter fun t => decide (t.count < t.thr)
    phase := if adv then b.phase + 1 else b.phase
    hist := if adv then (now, b.phase) :: b.hist.filter (fun e => decide (e.1 + 6 > now)) else b.hist }

/-- Detect the breaches of a cycle's changes (R342); the streams that made them stop (R318). -/
def State.blameChanges (s : State) (x : BarSum) : State :=
  let name (s : State) (c : BarChange) (cause : Nat) : State := (s.stopNamed c.agent).detect { c.agent with cause := cause }
  let s := x.over_.foldl (fun s c => name s c 0xC4) s
  match x.bytes.breach with
  | some c => name s c 0xC5
  | none => s

/-- Apply one object's changes of the cycle, test for its advance and fire its thresholds (R83, R217, R342). -/
def State.settleBarrier (s : State) (core i : Nat) (cs : List BarChange) : State :=
  let b : Barrier := (s.core core).bar i
  let x := b.sum cs
  let fired := b.firing x s.now
  let s := s.blameChanges x
  let s := s.modCore core fun c => { c.modBar i fun _ => b.after x s.now with msg := c.msg + fired.length }
  let s := fired.foldl (fun s t => s.push (s.now + 6) 58 (.barmActionLaunch core t.act)) s
  if b.advances x then (s.wakeWaiters core i b.gen).triggerArmed core i else s

/-- Changes of the cycle, object by object. Fuel bounds the number of objects. -/
def settleBars : Nat → State → State
  | 0, s => { s with barPend := [] }
  | n + 1, s =>
    match s.barPend with
    | [] => s
    | c :: _ =>
      let mine := s.barPend.filter fun d => d.core == c.core && d.idx == c.idx
      let rest := s.barPend.filter fun d => !(d.core == c.core && d.idx == c.idx)
      settleBars n ({ s with barPend := rest }.settleBarrier c.core c.idx mine)

/-- THE END OF A CYCLE: every barrier change of the cycle together (R83), then the cycle's detections by rank (R319). -/
def State.settle (s : State) : State := (settleBars s.barPend.length s).settleDetects

/-- Free an object: its generation advances, its thresholds are dropped (R61, R213). -/
def Barrier.free (b : Barrier) : Barrier := { Barrier.init with gen := b.gen + 1 }

/-! ## Completion flags (R26) -/

/-- Clear flag i of a gang unless a later completion named for it in the same clause is still to come (R26). -/
def Gang.clearFlag (g : Gang) (i now : Nat) : Gang :=
  if now < Store.get 0 g.flagMin i then g else { g with flags := g.flags &&& ~~~(1#12 <<< i) }

/-- Clear flag i of a cox likewise. -/
def Cox.clearFlag (c : Cox) (i now : Nat) : Cox :=
  if now < Store.get 0 c.flagMin i then c else { c with flags := c.flags &&& ~~~(1#12 <<< i) }

/-- Clear the flag an operation of a gang names, if it names one. -/
def State.clearGangFlag (s : State) (g : GangRef) (f : Option Nat) : State :=
  match f with
  | none => s
  | some i => s.modGang g fun x => x.clearFlag i s.now

/-- Clear the flag an operation of a cox names, if it names one. -/
def State.clearCoxFlag (s : State) (t : TeamRef) (f : Option Nat) : State :=
  match f with
  | none => s
  | some i => s.modCox t fun x => x.clearFlag i s.now

end Sys2Proof.Machine
end

