-- ==== Sys2Proof/Machine/Generator.lean ====
section
/-! DEFINITION. Generator operands (R77, R78, R239-R244): the value that a generator register gives at a pair of logical
coordinates. -/
namespace Sys2Proof.Machine

/-- MODE of a generator register (R77). -/
def genMode (g : BitVec 128) : Nat := bits g.toNat 127 124
/-- OTYPE of a generator register. -/
def genType (g : BitVec 128) : Nat := bits g.toNat 123 121
/-- SPLIT of a generator register. -/
def genSplit (g : BitVec 128) : Nat := bits g.toNat 120 119
/-- SCOPE of a generator register. -/
def genScope (g : BitVec 128) : Nat := bits g.toNat 118 117
/-- Whether a register has a phase mode (R78). -/
def genPhase (g : BitVec 128) : Bool := decide (2 ≤ genMode g ∧ genMode g ≤ 4)
/-- The bits of a generator register that its MODE gives a meaning (R77, Tables 4 and 5); every parameter bit of an unassigned
mode. -/
def genFields (mode : Nat) : BitVec 128 :=
  let at' (hi lo : Nat) : Nat := (2 ^ (hi + 1 - lo) - 1) * 2 ^ lo
  BitVec.ofNat 128 (at' 127 117 +
    (if mode ≥ 9 then at' 111 0
     else at' 95 64 + (if mode = 6 then at' 111 96 else if mode = 7 then at' 99 96 else 0) +
       (if mode ≤ 1 ∨ mode = 7 then at' 63 0 else 0)))

/-- What generator register n reads (R5, R77, R78; log 97): its reserved bits read 0; the odd register after a phase mode holds
phase terms, which use every bit. -/
def Team.genRead (t : Team) (n : Nat) : BitVec 128 :=
  let g := Store.get 0 t.g n
  if n % 2 = 1 ∧ genPhase (Store.get 0 t.g (n - 1)) then g else g &&& genFields (bits g.toNat 127 124)

/-- The tensor format code of an OTYPE (R77, R79). -/
def genFmt (t : Nat) : Nat := match t with
  | 0 => 10
  | 1 => 9
  | 2 => 11
  | 3 => 12
  | _ => 0

/-- The coordinates (i, j) at a logical position (R239). -/
def genCoord (g : BitVec 128) (lr lc : Nat) : Nat × Nat :=
  ((bits g.toNat 95 80 + lr) % 2 ^ 32, (bits g.toNat 79 64 + lc) % 2 ^ 32)

/-- The key of modes 0 and 1 (R240). `origin` is (i, j) of the operand's origin. -/
def genKey (g : BitVec 128) (heatid team : Nat) (origin : Nat × Nat) : Nat :=
  let seed := bits g.toNat 63 0
  let scope := genScope g
  let sv := match scope with
    | 1 => heatid
    | 2 => team
    | _ => origin.1 % 2 ^ 16 + 2 ^ 16 * (origin.2 % 2 ^ 16)
  if scope = 0 then seed else seed ^^^ (hash32 seed sv scope * 2 ^ 32 + hash32 seed scope sv)

/-- fma rounded once to f32 (R243). -/
def fma32 (a b c : Nat) : Nat := f32.rne (FVal.add false ((f32.decode a).mul (f32.decode b)) (f32.decode c))
/-- A product rounded once to f32. -/
def mul32 (a b : Nat) : Nat := f32.rne ((f32.decode a).mul (f32.decode b))
/-- A zero of either sign written +0 (R243). -/
def plusZero (x : Nat) : Nat := if x = 0x80000000 then 0 else x
/-- The negated f32, a zero written +0. -/
def negPlus (x : Nat) : Nat := plusZero (x ^^^ 0x80000000)

/-- phase(θ): the pair (c, s) (R243, Table 6), with the coefficients SCk and CCk as f32 bits. -/
def phasePair (th : Nat) : Nat × Nat :=
  let o := bits th 31 29
  let f := bits th 28 0
  let m := if o % 2 = 0 then f else 2 ^ 29 - f
  let y := f32.rne (.fin false m (-29))
  let y2 := mul32 y y
  let q := fma32 0x34A83C1A y2 0xB8196966
  let q := fma32 q y2 0x3B2335E3
  let q := fma32 q y2 0xBDA55DE7
  let q := fma32 q y2 0x3F490FDB
  let sv := mul32 q y
  let p := fma32 0xB2D368F9 y2 0x3670FA83
  let p := fma32 p y2 0xB9AAE9E4
  let p := fma32 p y2 0x3C81E0F8
  let p := fma32 p y2 0xBE9DE9E6
  let cv := fma32 p y2 0x3F800000
  let pos (x : Nat) : Nat := plusZero x
  match o with
  | 0 => (pos cv, pos sv)
  | 1 => (pos sv, pos cv)
  | 2 => (negPlus sv, pos cv)
  | 3 => (negPlus cv, pos sv)
  | 4 => (negPlus cv, negPlus sv)
  | 5 => (negPlus sv, negPlus cv)
  | 6 => (pos sv, negPlus cv)
  | _ => (pos cv, negPlus sv)

/-- θ at coordinates (R243), from the terms P0, W, WI, WJ of the odd register (R78). -/
def genTheta (odd : BitVec 128) (i j : Nat) : Nat :=
  let x := odd.toNat
  (bits x 127 96 + i * j * bits x 95 64 + i * bits x 63 32 + j * bits x 31 0) % 2 ^ 32

/-- gauss8 (R242). -/
def gauss8 (key i j : Nat) : Nat :=
  let sum := (List.range 8).foldl (fun a m => a + hash32 ((key + m) % 2 ^ 64) i j / 2 ^ 16) 0
  f32.rne ((FVal.int (2 * (sum : Int) - 524280)).mul (f32.decode 0x371CC471))

/-- 1.0 or +0 as f32 bits. -/
def oneIf (b : Bool) : Nat := if b then 0x3F800000 else 0

/-- x(i, j) as f32 bits (R241, Table 5). -/
def genValue (g odd : BitVec 128) (key i j : Nat) : Nat :=
  let x := g.toNat
  match genMode g with
  | 0 => if (hash32 key i j).testBit 31 then 0xBF800000 else 0x3F800000
  | 1 => gauss8 key i j
  | 2 => (phasePair (genTheta odd i j)).1
  | 3 => (phasePair (genTheta odd i j)).2
  | 4 =>
    let cs := phasePair (genTheta odd (i / 2) (j / 2))
    if i % 2 = j % 2 then cs.1 else if i % 2 = 0 then negPlus cs.2 else cs.2
  | 5 => oneIf (decide (j ≤ i))
  | 6 => oneIf (decide (j ≤ i ∧ i - j < bits x 111 96))
  | 7 => oneIf (x.testBit (8 * ((i >>> bits x 99 96) % 8) + (j >>> bits x 99 96) % 8))
  | _ => oneIf (i == j)

/-- The operand element: a floating value, or the integer of an i8 operand (R244). -/
inductive Elem where
  | flt (v : FVal)
  | int (v : Int)
deriving DecidableEq, Repr

/-- An element of OTYPE at a logical position (R239-R244). `origin` is the logical position of the operand's origin. -/
def genElem (g odd : BitVec 128) (heatid team : Nat) (origin : Nat × Nat) (lr lc : Nat) : Elem :=
  let c := genCoord g lr lc
  let x := genValue g odd (genKey g heatid team (genCoord g origin.1 origin.2)) c.1 c.2
  if genType g = 4 then .int (satI 8 ((f32.decode x).toIntType true 8 .rn))
  else if genSplit g ≠ 0 then
    let t := split3 x
    .flt (bf16.decode (if genSplit g = 1 then t.1 else if genSplit g = 2 then t.2.1 else t.2.2))
  else match fmtOf (genFmt (genType g)) with
    | some F => .flt (F.decode (F.rne (f32.decode x)))
    | none => .flt .nan

end Sys2Proof.Machine
end

