-- ==== Sys2Proof/Machine/Flags.lean ====
section
/-! DEFINITION. Completion flags at issue (R26, R134): which flag a long-latency operation takes, and setting it. The
flag becomes 1 in the issue cycle and 0 at completion; when SETA and SETB of one clause name one flag, it clears at the
later of the two completions. -/
namespace Sys2Proof.Machine

/-- The flag that the clause names for its next long-latency operation (R134): SETA for the first, SETB for the second. -/
def Clause.nextFlag (c : Clause) : Option Nat :=
  let h := headerOf c.hdr
  let f := if c.nlong = 0 then h.seta else if c.nlong = 1 then h.setb else 15
  if f < 12 then some f else none

/-- The flag an instruction sets when it issues as the clause's next one. -/
def flagFor (c : Clause) (i : Instr) : Option Nat := if isLong i then c.nextFlag else none

/-- The cycle before which flag clears of the clause's earlier operation are put off (R26). -/
def flagHold (c : Clause) (completion : Nat) : Nat :=
  let h := headerOf c.hdr
  if c.nlong = 1 ∧ h.seta = h.setb then max c.long1 completion else 0

/-- Set a gang's flag (R26). -/
def Gang.setFlag (g : Gang) (f : Option Nat) (hold : Nat) : Gang :=
  match f with
  | none => g
  | some i => { g with flags := g.flags ||| (1#12 <<< i), flagMin := Store.set 0 g.flagMin i hold }

/-- Set a cox's flag (R26). -/
def Cox.setFlag (c : Cox) (f : Option Nat) (hold : Nat) : Cox :=
  match f with
  | none => c
  | some i => { c with flags := c.flags ||| (1#12 <<< i), flagMin := Store.set 0 c.flagMin i hold }

/-- Whether a flag named in WAIT reads 1 (R26, R134). -/
def waitBlocked (flags : BitVec 12) (h : Header) : Bool := (flags.toNat &&& h.wait) != 0

end Sys2Proof.Machine
end

