-- ==== Sys2Proof/Machine/Operands.lean ====
section
/-! DEFINITION. Operands of the lane set (R66-R76) and the shared way a lane instruction issues: its breaches at issue
(R328, R330, R331), its place in the clause (R135), and the landing of its result (R153). -/
namespace Sys2Proof.Machine

/-- What a lane instruction sees at its issue. `t` is the heat cycle, `base` the pod cycle of heat cycle 0. -/
structure LCtx where
  ref : GangRef
  quads : BitVec 8
  heat : Heat
  team : Team
  gang : Gang
  group : Group
  clause : Clause
  t : Nat
  base : Nat
  active : BitVec 32

/-- The lanes of a set of quads. -/
def quadLanes (q : BitVec 8) : BitVec 32 :=
  (List.range 8).foldl (fun acc i => if q.getLsbD i then acc ||| (0xF#32 <<< (4 * i)) else acc) 0

/-- Mask register n (R75): m0 reads all ones. -/
def Gang.mask (g : Gang) (n : Nat) : Word := if n = 0 then 0xFFFFFFFF else Store.get 0xFFFFFFFF g.m n

/-- A v register in a lane. -/
def Gang.vreg (g : Gang) (r lane : Nat) : Word := Store.get 0 g.v (32 * r + lane)

/-- The context of the lane instruction being issued. -/
def laneCtx (s : State) : Option LCtx :=
  match s.cur with
  | .gang r q =>
    match s.heat? r.hid with
    | none => none
    | some h =>
      match h.teams[r.team]? with
      | none => none
      | some t =>
        match t.gangs[r.gang]? with
        | none => none
        | some g =>
          match g.groups.find? (fun x => x.quads == q) with
          | none => none
          | some gr =>
            match gr.clause with
            | none => none
            | some cl =>
              some { ref := r, quads := q, heat := h, team := t, gang := g, group := gr, clause := cl,
                     t := s.now - h.base t, base := h.base t,
                     active := g.mask (headerOf cl.hdr).mask &&& quadLanes q }
  | _ => none

/-- The lowest set bit of a word, if any. -/
def lowestBit (w : BitVec n) : Option Nat := (List.range n).find? fun i => w.getLsbD i

/-- The lanes of a set, ascending. -/
def lanesOf (w : BitVec 32) : List Nat := (List.range 32).filter fun i => w.getLsbD i

/-- The team lane index (R84). -/
def LCtx.tli (c : LCtx) (lane : Nat) : Nat := 32 * c.ref.gang + lane

/-- Whether a lane is real, not a helper (R45). -/
def LCtx.real (c : LCtx) (lane : Nat) : Bool := decide (c.tli lane < c.team.lanes)

/-- The k register that lanes read (R73): a write landing in this very cycle is seen from the next one. -/
def Team.kLane (t : Team) (now n : Nat) : Word :=
  if t.kOldAt = now then
    match t.kOld.find? (fun e => e.1 == n) with
    | some e => e.2
    | none => Store.get 0 t.k n
  else Store.get 0 t.k n

/-- The index window fields (R70, Table 3): step, base, length. -/
def winFields (w : BitVec 16) : Nat × Nat × Nat :=
  (if w.getLsbD 15 then 4 else 1, bits w.toNat 14 8, bits w.toNat 7 1)

/-- The register that v[xN] names in a lane (R71). -/
def Gang.winReg (g : Gang) (n lane : Nat) : Nat :=
  let w := winFields (Store.get 0 g.win n)
  w.2.1 + w.1 * (Store.get 0 g.x (32 * n + lane)).toNat

/-- The value of a source code in a lane (R66). -/
def LCtx.src (c : LCtx) (code lane : Nat) : Word :=
  if code < 96 then c.gang.vreg code lane
  else if code < 112 then c.team.kLane (c.base + c.t) (code - 96)
  else if code = 112 then 0
  else if code = 113 then BitVec.ofNat 32 lane
  else if code = 114 then BitVec.ofNat 32 (lane / 4)
  else if code = 115 then BitVec.ofNat 32 c.ref.gang
  else if code = 116 then BitVec.ofNat 32 (c.tli lane)
  else if code < 120 then ((Store.get ⟨0, 0, []⟩ c.gang.latch (8 * (code - 117) + lane / 4)).vals.getD lane 0)
  else if code < 124 then
    let r := c.gang.winReg (code - 120) lane
    if r < 96 then c.gang.vreg r lane else 0
  else 0

/-- The 64-bit value of a pair (R86, R157): an even v pair, an even k pair, or zero. -/
def LCtx.pair (c : LCtx) (code lane : Nat) : Nat :=
  if code = 112 then 0 else (c.src code lane).toNat + 2 ^ 32 * (c.src (code + 1) lane).toNat

/-- A source given as a word, 32 bits or a pair by width. -/
def LCtx.datum (c : LCtx) (code lane : Nat) (wide : Bool) : Nat :=
  if wide then c.pair code lane else (c.src code lane).toNat

/-- B or the immediate of an integer instruction (R137): IMM sign-extended. -/
def LCtx.srcB (c : LCtx) (w : LaneWord) (lane : Nat) : Word :=
  if w.imb then wrap32 (sextInt w.imm 16) else c.src w.b.toNat lane

/-- B or the immediate of an f32 instruction (R137): IMM is the upper half. -/
def LCtx.srcBF (c : LCtx) (w : LaneWord) (lane : Nat) : Word :=
  if w.imb then BitVec.ofNat 32 (w.imm * 2 ^ 16) else c.src w.b.toNat lane

/-- B or the immediate of a packed instruction (R137): IMM in both halves. -/
def LCtx.srcBP (c : LCtx) (w : LaneWord) (lane : Nat) : Word :=
  if w.imb then BitVec.ofNat 32 (w.imm * 2 ^ 16 + w.imm) else c.src w.b.toNat lane

/-- The seed that lanes round with at a cycle (R84, R223): the newest write at least 3 cycles old. -/
def Team.laneSeed (t : Team) (now : Nat) : BitVec 64 :=
  match t.sseeds.find? (fun e => decide (e.1 + 3 ≤ now)) with
  | some e => e.2
  | none => 0

/-- The rounding mode in force in a lane for element e (R91, R96). -/
def LCtx.mode (c : LCtx) (w : LaneWord) (lane e : Nat) : RMode :=
  match w.rm with
  | 0 => .rn
  | 1 => .rz
  | 2 => .rd
  | 3 => .ru
  | _ =>
    let d := c.gang.dix.toNat
    .sr (hash32 (c.team.laneSeed (c.base + c.t)).toNat ((d % 2 ^ 32) ^^^ (d / 2 ^ 32)) (c.tli lane + 512 * e))

/-! ## Breaches at issue -/

/-- The source codes of an instruction with the number of consecutive registers each names (R67, R140, R172, R175, R178, R181). -/
def sourcesOf (op : Nat) (w : LaneWord) : List (Nat × Nat) :=
  let sh := laneShape op
  let pairs := op == 0x0E || op == 0x0F
  let a := if sh.a = .src then [(w.a.toNat, if pairs || (op ≥ 0x64 && op ≤ 0x6A) || op == 0x78 then 2 else 1)] else []
  let b := if sh.b = .src ∧ bUse op w = .src ∧ !w.imb then [(w.b.toNat, if pairs || op == 0x4D then 2 else 1)] else []
  let c := match sh.tail with
    | .ta t => if t.c ∨ (op = 0x48 ∧ w.c ≠ 112) then [(w.c, 1)] else []
    | .tm _ store _ =>
      if !store then []
      else if op = 0x69 then [(w.c, if w.sz = 3 then 4 else 2)]
      else if op = 0x62 then [(w.c, 1)]
      else [(w.c, if w.sz = 3 ∨ w.aop = 12 then 2 else 1)]
    | _ => []
  a ++ b ++ c

/-- The banks that a source occupies, each with what it reads there (R67). -/
def banksOf (g : Gang) (src : Nat × Nat) : List (Nat × Nat) :=
  if src.1 < 96 then (List.range (min src.2 (96 - src.1))).map fun i => ((src.1 + i) % 4, src.1 + i)
  else if src.1 ≥ 120 ∧ src.1 < 124 then
    let w := winFields (Store.get 0 g.win (src.1 - 120))
    if w.1 = 4 then [(w.2.1 % 4, 1000 + src.1)] else [0, 1, 2, 3].map fun b => (b, 1000 + src.1)
  else []

/-- Whether two sources read different registers of one bank (R67). -/
def bankConflict (g : Gang) (srcs : List (Nat × Nat)) : Bool :=
  let bs := (srcs.map (banksOf g)).flatten
  bs.any fun x => bs.any fun y => x.1 == y.1 && x.2 != y.2

/-- Whether a group's reading of a latch code is forbidden (R69). -/
def latchBreach (g : Gang) (quads : BitVec 8) (cl : Clause) (t code : Nat) : Bool :=
  if code < 117 ∨ code > 119 then false
  else
    let e := code - 117
    let mine : Latch := Store.get ⟨0, 0, []⟩ g.latch (8 * e + (lowestBit quads).getD 0)
    let ok (k : Nat) : Bool :=
      let hold := cl.held.getD (k - 1) 0
      decide (k ≤ cl.nth) && (e == (cl.nth - k) % 3) && hold != 0 && (hold != 3 || decide (mine.avail ≤ t))
    !(ok 1 || ok 2)

/-- Whether some real active lane's index lies outside its window (R71, R328). -/
def LCtx.indexBreach (c : LCtx) (code : Nat) : Bool :=
  if code < 120 ∨ code > 123 then false
  else
    let len := (winFields (Store.get 0 c.gang.win (code - 120))).2.2
    (lanesOf c.active).any fun l => c.real l && decide ((Store.get 0 c.gang.x (32 * (code - 120) + l)).toNat ≥ len)

/-- Breaches of a lane instruction's sources and windowed destination at its issue (R67, R69, R71). -/
def LCtx.operandBreaches (c : LCtx) (op : Nat) (w : LaneWord) : List Nat :=
  let srcs := sourcesOf op w
  breach (bankConflict c.gang srcs) 0x04 ++
  breach (srcs.any fun x => latchBreach c.gang c.quads c.clause c.t x.1) 0x05 ++
  breach ((srcs.any fun x => c.indexBreach x.1) || ((laneShape op).d == .dst && c.indexBreach w.d.toNat)) 0x20

/-- The places of the registers that an instruction reads (R349), windowed ones in the lanes that are active, and of the entry
that `ldt` names. -/
def LCtx.reads (c : LCtx) (op : Nat) (w : LaneWord) : List Nat :=
  (if op = 0x62 then [teamPlace ⟨c.ref.hid, c.ref.team⟩ (448 + w.off % 64)] else []) ++
  ((sourcesOf op w).map fun x =>
    if x.1 < 96 then (List.range x.2).map fun i => gangPlace c.ref (x.1 + i)
    else if x.1 < 112 then (List.range x.2).map fun i => teamPlace ⟨c.ref.hid, c.ref.team⟩ (256 + (x.1 - 96) + i)
    else if x.1 ≥ 120 ∧ x.1 < 124 then (lanesOf c.active).map fun l => gangPlace c.ref (c.gang.winReg (x.1 - 120) l)
    else []).flatten

/-- Whether a register that the instruction reads holds an error that cannot be corrected (R349). -/
def LCtx.registerError (c : LCtx) (s : State) (op : Nat) (w : LaneWord) : Bool := s.uncorrectable 2 (c.reads op w).contains

/-- The address of the clause's word that could not be fetched. -/
def Clause.missingAddr (cl : Clause) : Nat :=
  match cl.missing with
  | some n => cl.addr + 4 * n
  | none => 0

/-- The causes of a clause none of whose instructions can be read, at the slot of its first (R330, R332, R334): a header that
cannot be fetched; a branch target that is no header; a first word that cannot be fetched, with what the header breaks. -/
def Clause.unread (uniform : Bool) (flags : BitVec 12) (cl : Clause) (checkWait : Bool) : List Nat :=
  let h := headerOf cl.hdr
  if cl.idx ≠ 0 then []
  else if cl.missing = some 0 then [0x66]
  else if cl.branched ∧ headerBreaches uniform h ≠ [] then [0x07]
  else if cl.missing = some 1 then headerBreaches uniform h ++ [0x66] ++ breach (checkWait && waitBlocked flags h) 0x80
  else []

/-- Breaches of the clause an instruction belongs to: header, WAIT and fetch at the first instruction (R330, R334,
R337), and framing (R135). -/
def clauseBreaches (uniform : Bool) (flags : BitVec 12) (cl : Clause) (i : Instr) (checkWait : Bool) : List Nat :=
  let h := headerOf cl.hdr
  (if cl.idx = 0 then
     headerBreaches uniform h ++ breach cl.missing.isSome 0x66 ++ breach (checkWait && waitBlocked flags h) 0x80
   else []) ++
  breach (isUniform i != uniform) 0x02 ++
  breach (decide (cl.idx + i.words > cl.words.length) || (isControl i && decide (cl.idx + i.words < cl.words.length))) 0x06

/-- The breaches of an instruction's own words, when it is of the stream's set; when its tail lies outside the clause, only
its first word's fields are read (R138, R330). -/
def wordBreaches (uniform : Bool) (cl : Clause) (i : Instr) : List Nat :=
  if isUniform i != uniform then []
  else if cl.idx + i.words > cl.words.length then
    match Parts.of i with
    | some (.lane op w) =>
      let sh := laneShape op
      fieldBreach sh.d w.d.toNat ++ fieldBreach sh.a w.a.toNat ++ fieldBreach sh.b w.b.toNat ++ breach (sh.tail == .none) 0x03
    | some (.raw _) => [0x01]
    | _ => []
  else staticBreaches i

/-- The lowest cause of a list (R328). -/
def lowest : List Nat → Option Nat
  | [] => none
  | x :: r => some (r.foldl min x)

/-! ## Issuing -/

/-- The stream and place that a detection of this instruction names (R322). -/
def LCtx.blame (c : LCtx) (cause : Nat) : Detect :=
  { Detect.blank c.ref.hid (streamRank c.team.core c.team.tsel c.ref.gang) cause 0 with
    team := c.ref.team, gang := c.ref.gang, qmask := c.quads.toNat, core := c.team.core, lanes := c.active,
    fdix := c.gang.dix, pc := c.clause.addr + 4 + 4 * c.clause.idx }

/-- Change the issuing group. -/
def Gang.modGroup (g : Gang) (q : BitVec 8) (f : Group → Group) : Gang :=
  { g with groups := g.groups.map fun x => if x.quads = q then f x else x }

/-- Stop the issuing group (R318). -/
def LCtx.stop (c : LCtx) (s : State) : State :=
  s.modGang c.ref fun g => g.modGroup c.quads fun gr => { gr with stopped := some c.t }

/-- TAKE AN ISSUE FAULT in a gang stream (R317, R318, R322): the instruction has no effect, its quad group stops, and RET
is the header of its clause. -/
def LCtx.issueFault (c : LCtx) (s : State) (cause : Nat) (lanes : Option (BitVec 32)) (addr info : Nat) : State :=
  (c.stop s).detect
    { c.blame cause with res := true, ret := c.clause.addr, lanes := lanes.getD c.active, addr := addr, info := info }

/-- What a cox instruction sees at its issue. `t` is the heat cycle, `base` the pod cycle of heat cycle 0. -/
structure UCtx where
  ref : TeamRef
  heat : Heat
  team : Team
  cox : Cox
  clause : Clause
  t : Nat
  base : Nat

/-- The context of the uniform instruction being issued. -/
def uniCtx (s : State) : Option UCtx :=
  match s.cur with
  | .cox r =>
    match s.heat? r.hid with
    | none => none
    | some h =>
      match h.teams[r.team]? with
      | none => none
      | some t =>
        match t.cox.clause with
        | none => none
        | some cl =>
          some { ref := r, heat := h, team := t, cox := t.cox, clause := cl, t := s.now - h.base t, base := h.base t }
  | _ => none

/-- Whether the cox runs in handler mode (R325). -/
def UCtx.handling (c : UCtx) : Bool := c.cox.handler.isSome
/-- The address of the instruction word. -/
def UCtx.pc (c : UCtx) : Nat := c.clause.addr + 4 + 4 * c.clause.idx

/-- What a detection of this instruction names (R322). -/
def UCtx.blame (c : UCtx) (cause : Nat) : Detect :=
  { Detect.blank c.ref.hid (streamRank c.team.core c.team.tsel 16) cause 1 with
    team := c.ref.team, core := c.team.core, fdix := c.cox.count, pc := c.pc }

/-- TAKE AN ISSUE FAULT in a cox stream (R317, R318, R322): the instruction has no effect, the stream stops, and RET is
the header of its clause. -/
def UCtx.issueFault (c : UCtx) (s : State) (cause addr info : Nat) : State :=
  (s.modCox c.ref fun x => { x with stopped := some c.t }).detect
    { c.blame cause with res := true, ret := c.clause.addr, addr := addr, info := info }

/-- ABORT A HALTED HEAT from its handler (R325): it completes now, with the given cause, or that of its fault when the
cause is 0. -/
def State.abortHandler (s : State) (hid cause : Nat) : State :=
  (s.modHeat hid fun h =>
    { h with abortCause := if cause = 0 then (h.fault.map (·.cause)).getD 0 else cause, status := .quiesced }).push
      s.now 80 (.heatCompletion hid)

/-- The causes of an instruction word of the other set in a stream (R328, R330): 0x02, whatever else it breaks, or those of a
clause that cannot be read. -/
def Clause.foreign (uniform : Bool) (flags : BitVec 12) (cl : Clause) (checkWait : Bool) : Nat :=
  (lowest (cl.unread uniform flags checkWait)).getD 0x02

/-- A uniform word in a gang stream, or a lane word in a cox stream, is an issue fault (R328, R330). -/
def wrongSet (s : State) : Host.Outcome State Fault Refusal :=
  match laneCtx s, uniCtx s with
  | some c, _ =>
    let cause := c.clause.foreign false c.gang.flags true
    .next (c.issueFault s cause none (if cause = 0x66 then c.clause.missingAddr else 0) 0)
  | none, some c =>
    let cause := c.clause.foreign true c.cox.flags (!c.handling)
    .next (if c.handling then s.abortHandler c.ref.hid 0xF7
      else c.issueFault s cause (if cause = 0x66 then c.clause.missingAddr else 0) 0)
  | none, none => .fault .noStream

/-- The clause after one more instruction, or none when it is finished. -/
def Clause.advance (cl : Clause) (i : Instr) (hold completion : Nat) : Option Clause :=
  let n := cl.idx + i.words
  if n ≥ cl.words.length then none
  else some { cl with idx := n, nth := cl.nth + 1, held := hold :: cl.held,
                      nlong := if isLong i then cl.nlong + 1 else cl.nlong,
                      long1 := if isLong i ∧ cl.nlong = 0 then completion else cl.long1 }

/-- Address of the header after a clause (R133). -/
def Clause.nextAddr (cl : Clause) : Nat := cl.addr + 4 + 4 * ((headerOf cl.hdr).nm1 + 1)

/-- The issuing group after its instruction: further in its clause, or before the next header (R135). -/
def Group.advance (gr : Group) (cl : Clause) (i : Instr) (t hold completion : Nat) : Group :=
  match cl.advance i hold completion with
  | some cl' => { gr with clause := some cl', ready := t + 1, resume := none }
  | none => { gr with clause := none, pc := cl.nextAddr, branched := false, ready := t + 1, resume := none }

/-- The opcode of a lane instruction; 0 for any other word. -/
def laneOp (i : Instr) : Nat :=
  match Parts.of i with
  | some (.lane op _) => op
  | _ => 0

/-- The value that an instruction reads through B in a lane (R137, R161; log 95): the register, or the immediate as it takes
B's place. -/
def LCtx.readB (c : LCtx) (op : Nat) (w : LaneWord) (lane : Nat) : Word :=
  if op = 0x1E ∧ w.sub = 1 then BitVec.ofNat 32 (w.imm * 2 ^ 16)
  else if op ≥ 0x20 ∧ op ≤ 0x29 then c.srcBF w lane
  else if op = 0x2C ∨ op = 0x2D ∨ (op ≥ 0x30 ∧ op ≤ 0x3B) then c.srcBP w lane
  else c.srcB w lane

/-- Whether a code names a windowed register beyond the file in a lane: an inactive lane's index has no bound (R71). -/
def LCtx.beyond (c : LCtx) (code lane : Nat) : Bool :=
  decide (code ≥ 120 ∧ code < 124) && decide (c.gang.winReg (code - 120) lane ≥ 96)

/-- The value that hold A or hold B keeps (R68), in every lane: what the instruction read through A or B. Where it reads no
32-bit value there (a mask number, an unused field) or names no register (an inactive lane's index), it is a free word
(log 96). -/
def LCtx.heldSource (c : LCtx) (op : Nat) (w : LaneWord) (free : List Word) : List Word :=
  let sh := laneShape op
  let imm := w.imb || bUse op w == .none
  (List.range 32).map fun l =>
    if w.hold = 1 then
      (if sh.a ≠ .src ∨ c.beyond w.a.toNat l then free.getD l 0 else c.src w.a.toNat l)
    else if sh.b ≠ .src ∨ (!imm ∧ c.beyond w.b.toNat l) then free.getD l 0
    else c.readB op w l

/-- Put a latch entry in the quads of a set (R68). -/
def Gang.setLatch (g : Gang) (quads : BitVec 8) (e : Nat) (x : Latch) : Gang :=
  let keys : List Nat := ((List.range 8).filter fun q => quads.getLsbD q).map fun q => 8 * e + q
  { g with latch := Store.setAll ⟨0, 0, []⟩ g.latch (keys.map fun k => (k, x)) }

/-- COMMIT the issue of a lane instruction whose operation completes at heat cycle `t + L`: `sr.dix` advances, the flag is
set, hold A and hold B write their latch, hold result reserves it (its words are free until the result lands; an
instruction with no 32-bit result leaves them free, log 22), corrected errors of the registers read are counted (R349), and
the stream moves on (R68, R76, R84). -/
def LCtx.commit (c : LCtx) (s : State) (i : Instr) (w : LaneWord) (L : Nat) : State :=
  let done := c.base + c.t + L
  let f := flagFor c.clause i
  let fw := if w.hold = 0 then ([], s) else s.freeWords 32
  let s := (fw.2.tick 1 (clusterOf c.team.core) 1).corrected 2 (c.reads (laneOp i) w).contains
  let entry : Option Latch :=
    if w.hold = 0 then none
    else if w.hold = 3 then some { avail := c.t + L, stamp := c.gang.dix, vals := fw.1 }
    else some { avail := c.t, stamp := c.gang.dix, vals := c.heldSource (laneOp i) w fw.1 }
  s.modGang c.ref fun g =>
    let g := g.setFlag f (flagHold c.clause done)
    let g := match entry with
      | none => g
      | some e => g.setLatch c.quads (c.clause.nth % 3) e
    { g.modGroup c.quads (fun gr => gr.advance c.clause i c.t w.hold.toNat done) with
      dix := g.dix + 1, lastSlot := some c.t, turn := (lowestBit c.quads).getD 0 }

/-- Registers that a result word writes in a lane (R66, R71): none for 112 and for a helper's index beyond the file. -/
def LCtx.destKeys (c : LCtx) (d lane : Nat) : List Nat :=
  if d < 96 then [32 * d + lane]
  else if d ≥ 120 ∧ d < 124 then
    let r := c.gang.winReg (d - 120) lane
    if r < 96 then [32 * r + lane] else []
  else []

/-- The landing of 32-bit results, one for each listed lane (R153, R68). -/
def LCtx.landing (c : LCtx) (w : LaneWord) (i : Instr) (vals : List (Nat × Word)) : LaneLanding :=
  { vs := (vals.map fun lv => (c.destKeys w.d.toNat lv.1).map fun k => (k, lv.2)).flatten
    ms := [], xs := [], wins := []
    latch := if w.hold = 3 then
        some (c.clause.nth % 3, c.gang.dix, (List.range 32).map fun l =>
          match vals.find? (fun e => e.1 == l) with
          | some e => e.2
          | none => 0)
      else none
    flag := flagFor c.clause i }

/-- The landing of 64-bit results into pairs (R86). -/
def LCtx.landing64 (c : LCtx) (w : LaneWord) (i : Instr) (vals : List (Nat × Nat)) : LaneLanding :=
  let d := w.d.toNat
  let lo := vals.map fun lv => (lv.1, BitVec.ofNat 32 lv.2)
  { c.landing w i lo with
    vs := if d < 96 then (vals.map fun lv =>
        [(32 * d + lv.1, BitVec.ofNat 32 lv.2), (32 * (d + 1) + lv.1, BitVec.ofNat 32 (lv.2 / 2 ^ 32))]).flatten else [] }

/-- THE CAUSES OF EVERY BREACH of a lane instruction at its issue (R328, R330-R332, R337, R349): of its clause, its words, its
operands and the registers it reads, and `own`, those of its own rule. -/
def LCtx.causes (c : LCtx) (s : State) (i : Instr) (w : LaneWord) (own : List (Nat × Option (BitVec 32) × Nat × Nat)) : List Nat :=
  match c.clause.unread false c.gang.flags true with
  | [] => clauseBreaches false c.gang.flags c.clause i true ++ wordBreaches false c.clause i ++ c.operandBreaches (laneOp i) w ++
      breach (c.registerError s (laneOp i) w) 0xF3 ++ own.map (·.1)
  | x => x

/-- CHECK A LANE INSTRUCTION AT ITS ISSUE: with any breach it takes the issue fault of the lowest cause (R328);
otherwise it goes on as `go` says. `extra` lists the breaches of the instruction's own rule, each with the lanes, address
and INFO that the record then names. -/
def checkLane (i : Instr) (w : LaneWord) (s : State) (extra : LCtx → List (Nat × Option (BitVec 32) × Nat × Nat))
    (go : LCtx → State) : Host.Outcome State Fault Refusal :=
  match laneCtx s with
  | none => wrongSet s
  | some c =>
    let own := extra c
    match lowest (c.causes s i w own) with
    | some cause =>
      match own.find? (fun e => e.1 == cause) with
      | some e => .next (c.issueFault s cause e.2.1 e.2.2.1 e.2.2.2)
      | none => .next (c.issueFault s cause none (if cause = 0x66 then c.clause.missingAddr else 0) 0)
    | none => .next (go c)

/-- ISSUE A LANE INSTRUCTION of latency L: when it breaks nothing, its issue is committed and `act` gives its effect. -/
def issueLane (i : Instr) (w : LaneWord) (s : State) (L : LCtx → Nat)
    (extra : LCtx → List (Nat × Option (BitVec 32) × Nat × Nat)) (act : LCtx → State → State) :
    Host.Outcome State Fault Refusal :=
  checkLane i w s extra fun c => act c (c.commit s i w (L c))

/-- A LANE INSTRUCTION THAT COMPUTES: every active lane's result of `f` lands at t + L (R153). -/
def laneCompute (i : Instr) (w : LaneWord) (s : State) (L : Nat) (f : LCtx → Nat → Word) :
    Host.Outcome State Fault Refusal :=
  issueLane i w s (fun _ => L) (fun _ => []) fun c s =>
    s.push (s.now + L) 10 (.laneResult c.ref (c.landing w i ((lanesOf c.active).map fun l => (l, f c l))))

end Sys2Proof.Machine
end

