-- ==== Sys2Proof/Machine/Tensor.lean ====
section
/-! DEFINITION. Tensor identifier entries: formats, extents and element addresses (R79, R80), and the operations of
atomics and reductions (R176). -/
namespace Sys2Proof.Machine

/-- Bytes of an element format (R79); 0 for the packed formats 13-15. -/
def elemBytes (fmt : Nat) : Nat :=
  if fmt = 0 ∨ fmt = 4 ∨ fmt = 11 ∨ fmt = 12 then 1
  else if fmt = 1 ∨ fmt = 5 ∨ fmt = 9 ∨ fmt = 10 then 2
  else if fmt = 2 ∨ fmt = 6 ∨ fmt = 8 then 4
  else if fmt = 3 ∨ fmt = 7 then 8
  else 0

/-- Whether the format is a block format: db8 or db4. -/
def isBlock (fmt : Nat) : Bool := fmt == 13 || fmt == 14

/-- Extent of dimension d (R79): 1 at and above RANK. -/
def Tensor.extent (t : Tensor) (d : Nat) : Nat := if d < t.rank then Store.get 0 t.ext d else 1

/-- Stride of dimension d (R79): 0 at and above RANK. -/
def Tensor.pitch (t : Tensor) (d : Nat) : Int := if d < t.rank then Store.get 0 t.stride d else 0

/-- The packed axis, if the format has one (R80). -/
def Tensor.packed (t : Tensor) : Option Nat :=
  if isBlock t.fmt then some t.baxis else if t.fmt = 15 then some 0 else none

/-- THE ADDRESS of the element at an index (R80): of its block for db8 and db4, of its byte for t5. -/
def Tensor.addr (t : Tensor) (idx : List Nat) : Int :=
  let sum := (List.range 12).foldl (fun (acc : Int) d =>
    if t.packed = some d then acc else acc + (idx.getD d 0 : Nat) * t.pitch d) (t.base : Int)
  if isBlock t.fmt then sum + (idx.getD t.baxis 0 / 32 * blockBytes t.fmt : Nat)
  else if t.fmt = 15 then sum + (idx.getD 0 0 / 5 : Nat)
  else sum

/-- Signed and unsigned minimum and maximum, and the rest of the atomic operations on words of `size` bytes (R176). -/
def aopNew (aop size old c new : Nat) : Nat :=
  let n := 8 * size
  match aop with
  | 0 => (old + c) % 2 ^ n
  | 1 => if sextInt old n ≤ sextInt c n then old else c
  | 2 => if sextInt old n ≥ sextInt c n then old else c
  | 3 => min old c
  | 4 => max old c
  | 5 => old &&& c
  | 6 => old ||| c
  | 7 => old ^^^ c
  | 8 => c
  | 9 => f32.rne (FVal.add false (f32.decode old) (f32.decode c))
  | 10 => f32.minMax false old c
  | 11 => f32.minMax true old c
  | _ => if old = c then new else old

end Sys2Proof.Machine
end

