-- ==== Sys2Proof/Machine/Scratch.lean ====
section
/-! DEFINITION. Scratch accesses of gangs (R114, R177-R179, R317, R333): testing owners, reading, writing, delivering, and
the machine's steps that perform and deliver them; and the landing of every lane result (R153). -/
namespace Sys2Proof.Machine

/-- A set of lanes as a word. -/
def laneSet (ls : List Nat) : BitVec 32 := ls.foldl (fun m l => m ||| (1#32 <<< l)) 0

/-- The lowest cause among lanes, with its lanes and the first lane's address (R328). -/
def worstLane (cs : List (Nat × Nat × Nat)) : Option (Nat × BitVec 32 × Nat) :=
  match lowest (cs.map fun c => c.2.1) with
  | none => none
  | some cause =>
    let hit := cs.filter fun c => c.2.1 == cause
    some (cause, laneSet (hit.map (·.1)), (hit.headD (0, 0, 0)).2.2)

/-- The byte ranges that one lane of a scratch access touches (R179). -/
def scratchRanges (op : ScratchAcc) (l : Nat × Nat × Nat × Nat) : List (Nat × Nat) :=
  if op.kind = 3 ∧ isBlock op.fmt then [(l.2.2.2, 2), (l.2.1, 1)] else [(l.2.1, op.size)]

/-- What is wrong with a scratch access now: owners and closures (R333), and errors that cannot be corrected (R349). -/
def State.accFail (s : State) (op : ScratchAcc) : Option (Nat × BitVec 32 × Nat) :=
  let owner (o : Nat) : List Nat := match s.ownerTest op.core (o / 4096) 0 with
    | some closed => [ownerCause true closed]
    | none => []
  let ecc (o : Nat) : List Nat := breach (op.kind != 1 && s.uncorrectable 0 (· == scratchKey op.core o / 8)) 0xF0
  worstLane ((op.lanes.map fun l => ((scratchRanges op l).map fun r =>
    ((owner r.1 ++ owner (r.1 + r.2 - 1) ++ ecc r.1).map fun c => (l.1, c, r.1 - op.base))).flatten).flatten)

/-- The 64-bit words of scratch that an access reads (R349): a store reads none. -/
def scratchWords (op : ScratchAcc) : List Nat :=
  if op.kind = 1 then []
  else (op.lanes.map fun l => (scratchRanges op l).map fun r => scratchKey op.core r.1 / 8).flatten

/-- A narrow value extended into its register (R175, R179). -/
def extendTo (sx : Bool) (size x : Nat) : Nat := if sx && decide (size < 4) then wrapN 32 (sextInt x (8 * size)) else x

/-- The value that a lane of a load reads (R177, R179). -/
def State.readLane (s : State) (op : ScratchAcc) (l : Nat × Nat × Nat × Nat) : Nat :=
  if op.kind = 3 ∧ isBlock op.fmt then
    let block := (s.readScratch op.core l.2.2.2 (blockBytes op.fmt)).map (·.toNat)
    f32.rne (blockElem op.fmt op.scale block l.2.2.1)
  else
    let x := ofLeBytes (s.readScratch op.core l.2.1 op.size)
    if op.kind = 3 ∧ op.fmt = 15 then wrapN 32 (trit x l.2.2.1) else extendTo op.sx op.size x

/-- The words of a result in its registers, low word first. -/
def placeKeys (keys : List Nat) (x : Nat) : List (Nat × Word) :=
  match keys with
  | [] => []
  | [k] => [(k, BitVec.ofNat 32 x)]
  | k :: k' :: _ => [(k, BitVec.ofNat 32 x), (k', BitVec.ofNat 32 (x / 2 ^ 32))]

/-- The landing of values read by lane (R45, R68). -/
def landingOf (dests : List (Nat × List Nat)) (zeros : List Nat) (latch : Option (Nat × BitVec 64)) (flag : Option Nat)
    (vals : List (Nat × Nat)) : LaneLanding :=
  { vs := (vals.map fun v => match dests.find? (fun d => d.1 == v.1) with
      | some d => placeKeys d.2 v.2
      | none => []).flatten ++ zeros.map fun k => (k, 0)
    ms := [], xs := [], wins := []
    latch := latch.map fun e => (e.1, e.2, (List.range 32).map fun l =>
      match vals.find? (fun v => v.1 == l) with
      | some v => BitVec.ofNat 32 v.2
      | none => 0)
    flag := flag }

/-- A landing that only clears a flag. -/
def flagOnly (flag : Option Nat) : LaneLanding :=
  { vs := [], ms := [], xs := [], wins := [], latch := none, flag := flag }

/-- A SCRATCH ACCESS FAULTS in the current cycle (R317, R318): it has no effect, its stream stops, and it is kept as replay
data (R351). -/
def State.failAcc (s : State) (op : ScratchAcc) (d : Detect) : State :=
  let s := s.modHeat op.g.hid fun h => match h.teams[op.g.team]? with
    | some t => { h with hot := h.hot ++ [(s.now - h.base t, op)] }
    | none => h
  (s.stopNamed d).detect d

/-- START A SCRATCH ACCESS (R114, R177-R179): a load is tested and read now and delivered 14 c later; a store or atomic is
tested now and performs, or reports its breach, 10 c later. Single-bit errors in what it reads are corrected (R349). -/
def State.startAcc (s : State) (op : ScratchAcc) : State :=
  let s := s.corrected 0 (scratchWords op).contains
  let bad := (s.accFail op).map fun f => { op.blame with cause := f.1, lanes := f.2.1, addr := f.2.2 }
  if op.kind = 1 then s.push (s.now + 10) 10 (.scratchStorePerform op bad)
  else if op.kind = 2 then s.push (s.now + 10) 10 (.scratchAtomicPerform op bad)
  else match bad with
    | some d => (s.failAcc op d).push (s.now + 14) 10 (.scratchLoadDelivery op.g (flagOnly op.flag))
    | none => s.push (s.now + 14) 10 (.scratchLoadDelivery op.g
        (landingOf op.dests op.zeros op.latch op.flag (op.lanes.map fun l => (l.1, s.readLane op l))))

/-- Write a lane's bytes and mark its granule dirty (R85). -/
def State.storeBytes (s : State) (g : GangRef) (core o : Nat) (bs : List Byte) : State :=
  (s.writeScratch core o bs).modTeam ⟨g.hid, g.team⟩ fun t => t.markScratch o bs.length

/-- The lanes of a store, in ascending order (R177). -/
def State.storeAcc (s : State) (op : ScratchAcc) : State :=
  op.lanes.foldl (fun s l => s.storeBytes op.g op.core l.2.1 (leBytes op.size l.2.2.1)) s

/-- The lanes of an atomic, in ascending order, each reading the result of the one before (R178): old values, newest
first. -/
def State.atomicAcc (s : State) (op : ScratchAcc) : State × List (Nat × Nat) :=
  op.lanes.foldl (fun acc l =>
    let old := ofLeBytes (acc.1.readScratch op.core l.2.1 op.size)
    let new := aopNew op.aop op.size old (l.2.2.1 % 2 ^ (8 * op.size)) (l.2.2.2 % 2 ^ (8 * op.size))
    (acc.1.storeBytes op.g op.core l.2.1 (leBytes op.size new), (l.1, old) :: acc.2)) (s, [])

/-- The latch of a gang after a held result has landed (R68): in each quad whose entry the instruction of that stamp
reserved. -/
def Gang.landLatch (g : Gang) (e : Nat) (stamp : BitVec 64) (vals : List Word) : Store Latch :=
  (List.range 8).foldl (fun latch q =>
    let old := Store.get ⟨0, 0, []⟩ latch (8 * e + q)
    if old.stamp = stamp ∧ old.vals ≠ [] then Store.set ⟨0, 0, []⟩ latch (8 * e + q) { old with vals := vals } else latch) g.latch

/-- LAND A RESULT (R153, R68, R85): registers, masks, index registers, windows, latch entry and flag. -/
def Gang.land (g : Gang) (r : LaneLanding) (now : Nat) : Gang :=
  let ms := r.ms.filter fun e => e.1 ≠ 0
  let latch : Store Latch := match r.latch with
    | none => g.latch
    | some (e, stamp, vals) => g.landLatch e stamp vals
  let g : Gang :=
    { g with
      v := Store.setAll 0 g.v r.vs
      m := ms.foldl (fun m e => Store.set 0xFFFFFFFF m e.1
        ((Store.get 0xFFFFFFFF m e.1 &&& ~~~e.2.1) ||| (e.2.2 &&& e.2.1))) g.m
      x := Store.setAll 0 g.x r.xs
      win := Store.setAll 0 g.win r.wins
      latch := latch
      vdirty := r.vs.foldl (fun d e => d ||| (1#96 <<< (e.1 / 32))) g.vdirty
      mxdirty := r.wins.foldl (fun d _ => d ||| (1#12 <<< 11))
        (r.xs.foldl (fun d e => d ||| (1#12 <<< (7 + e.1 / 32)))
          (ms.foldl (fun d e => d ||| (1#12 <<< (e.1 - 1))) g.mxdirty)) }
  match r.flag with
  | some f => g.clearFlag f now
  | none => g

/-- LANE_RESULT (R153): a lane operation's result lands. -/
def execLaneResult (s : State) : Host.Outcome State Fault Refusal :=
  match s.arg with
  | .laneResult g r => .next (s.modGang g fun x => x.land r s.now)
  | _ => .fault .noData

/-- SCRATCH_LOAD_DELIVERY (R177, R178): a scratch load or atomic result is written. -/
def execScratchLoadDelivery (s : State) : Host.Outcome State Fault Refusal :=
  match s.arg with
  | .scratchLoadDelivery g r => .next (s.modGang g fun x => x.land r s.now)
  | _ => .fault .noData

/-- SCRATCH_STORE_PERFORM (R114, R317): a lane store performs, or reports the breach found at its issue. -/
def execScratchStorePerform (s : State) : Host.Outcome State Fault Refusal :=
  match s.arg with
  | .scratchStorePerform op fail =>
    let t := match fail with
      | some d => s.failAcc op d
      | none => s.storeAcc op
    .next (t.clearGangFlag op.g op.flag)
  | _ => .fault .noData

/-- SCRATCH_ATOMIC_PERFORM (R114, R178): an `ats` reads and writes its words; its old values are delivered 4 c later. -/
def execScratchAtomicPerform (s : State) : Host.Outcome State Fault Refusal :=
  match s.arg with
  | .scratchAtomicPerform op fail =>
    match fail with
    | some d => .next ((s.failAcc op d).push (s.now + 4) 10 (.scratchLoadDelivery op.g (flagOnly op.flag)))
    | none =>
      let r := s.atomicAcc op
      .next (r.1.push (s.now + 4) 10 (.scratchLoadDelivery op.g (landingOf op.dests op.zeros op.latch op.flag r.2)))
  | _ => .fault .noData

/-- OWNER_FLIP_OPEN (R115): a flipped granule opens, unless a later flip has closed it again (R184). -/
def execOwnerFlipOpen (s : State) : Host.Outcome State Fault Refusal :=
  match s.arg with
  | .ownerFlipOpen core granule =>
    .next (s.modCore core fun c =>
      if Store.get 0 c.closed granule ≤ s.now then { c with closed := Store.set 0 c.closed granule 0 } else c)
  | _ => .fault .noData

/-- Matrix passes that a flip may cut: their intervals are tested again after the flips of the cycle (R115, R240). -/
def State.retestPasses (s : State) (core : Nat) : State :=
  s.cmds.foldl (fun s c =>
    if c.eng = 0 ∧ c.core = core ∧ c.failed.isNone ∧ !c.held ∧ !c.done then s.push s.now 60 (.matrixRead c.id) else s) s

/-- FLIP OWNERS (R115, R184): each granule takes the owner now and is closed to all for 10 c. -/
def State.flip (s : State) (core g0 count : Nat) (owner : Nat) : State :=
  let gs := (List.range count).map fun i => g0 + i
  let s := s.modCore core fun c =>
    { c with
      owner := Store.setAll 0 c.owner (gs.map fun g => (g, BitVec.ofNat 3 owner))
      closed := Store.setAll 0 c.closed (gs.map fun g => (g, s.now + 10)) }
  (gs.foldl (fun s g => s.push (s.now + 10) 10 (.ownerFlipOpen core g)) s).retestPasses core

end Sys2Proof.Machine
end

