-- ==== Sys2Proof/Machine/Global.lean ====
section
/-! DEFINITION. Global memory accesses of gangs (R122-R128, R175, R180-R182, R317, R318, R334-R339): choosing P at issue
within its bounds and orders, the stack cycle with its checks, performing, delivering and completing. -/
namespace Sys2Proof.Machine

/-- Pod cycle of a team's heat cycle 0, if the team is resident. -/
def State.teamBase (s : State) (r : TeamRef) : Nat :=
  match s.heat? r.hid, s.team? r with
  | some h, some t => h.base t
  | _, _ => 0

/-- The team of an operation. -/
def GlobalOp.teamRef (o : GlobalOp) : TeamRef := ⟨o.hid, o.team⟩
/-- The gang of an operation. -/
def GlobalOp.gangRef (o : GlobalOp) : GangRef := ⟨o.hid, o.team, o.gang⟩
/-- Whether the operation reads without writing memory. -/
def GlobalOp.isLoad (o : GlobalOp) : Bool := o.kind == .load
/-- Whether the operation is an `atg` or `casg`. -/
def GlobalOp.isAtomic (o : GlobalOp) : Bool := o.kind == .atomic || o.kind == .cas
/-- Latency from issue for a same-die stack (R25). -/
def GlobalKind.latency : GlobalKind → Nat
  | .load => 640
  | .store => 640
  | .tload => 648
  | .gset => 648
  | .xferRec => 648
  | _ => 760

/-! ## Choosing P (R123-R128) -/

/-- The least P that an earlier access a leaves to a later one n of its gang (R123 Table 5, R124, R126, R128). -/
def PAcc.floor (a n : PAcc) : Nat :=
  let both := a.kind != 0 && n.kind != 0
  let general := if both && (a.acq || n.rel || decide (a.pkg < n.pkg)) then a.p + 1 else 0
  let known := (a.kind == 1 && n.kind == 1) || decide (a.gng < n.gng)
  let sameWord :=
    if a.word ≠ n.word then 0
    else if n.store then (if a.store || known then a.p + 1 else 0)
    else if a.store && known then a.p else 0
  max general sameWord

/-- The least P that all earlier accesses leave. -/
def floorOf (accs : List PAcc) (n : PAcc) : Nat := accs.foldl (fun m a => max m (a.floor n)) 0

/-- The earliest P's that still satisfy every order, for accesses that have not performed by `now` (R123: the device
chooses P so that the ordering rules hold). -/
def earliest (now : Nat) (accs : List PAcc) : List PAcc :=
  accs.foldl (fun done a =>
    done ++ [if a.fixed || decide (a.p ≤ now) then a
             else { a with p := min a.p (max (max a.s (now + 1)) (floorOf done a)) }]) []

/-- The cycle at which a lane's access takes effect on the agenda: its P, or its stack cycle for a load of earlier P. -/
def LaneAcc.actAt (l : LaneAcc) : Nat := max l.p l.s

/-- The distinct numbers of a list, ascending by first appearance. -/
def distinct (l : List Nat) : List Nat := l.foldl (fun acc x => if acc.contains x then acc else acc ++ [x]) []

/-- Put the performances of an operation's unperformed lanes on the agenda: stores and atomics at P, before loads of the
same cycle, by ascending core (R122). -/
def State.pushPerforms (s : State) (o : GlobalOp) : State :=
  let base := s.teamBase o.teamRef
  let pend := o.lanes.filter fun l => !l.done
  (distinct (pend.map (·.actAt))).foldl (fun s c =>
    let mask := laneSet ((pend.filter fun l => l.actAt == c).map (·.lane))
    if o.isLoad then s.push (base + c) 30 (.globalPerform o.id mask)
    else s.pushSub (base + c) 20 o.core (.globalPerform o.id mask)) s

/-- Whether a step performs lanes of the given operations. -/
def performsOf (ids : List Nat) : Ev → Bool
  | .globalPerform op _ => ids.contains op
  | _ => false

/-- Move a gang's pending accesses to the earliest P's that the orders allow, to leave room for a later one (R123). -/
def State.pullBack (s : State) (g : GangRef) : State :=
  match s.gang? g with
  | none => s
  | some x =>
    let base := s.teamBase ⟨g.hid, g.team⟩
    let accs := earliest s.now x.ord.accs
    let ids := distinct (accs.map (·.op))
    let s := s.modGang g fun x => { x with ord := { x.ord with accs := accs } }
    let move (o : GlobalOp) : GlobalOp :=
      { o with lanes := o.lanes.map fun l =>
          match accs.find? (fun a => a.op == o.id && a.lane == l.lane) with
          | some a => if l.done then l else { l with p := a.p - base }
          | none => l }
    let s : State := { s with gops := s.gops.map fun (o : GlobalOp) => if ids.contains o.id then move o else o }
    let s : State := s.cancel (performsOf ids)
    s.gops.foldl (fun (s : State) (o : GlobalOp) => if ids.contains o.id then s.pushPerforms o else s) s

/-- The bounds of P (R123 Table 5, R124, R125), in pod cycles: kind of page, stack cycle, issue and latency. -/
def pBounds (kind : GlobalKind) (page : Nat) (acq : Bool) (sp issue lat : Nat) : Nat × Nat :=
  let f0 := frameStart sp
  let fz := f0 + 3839
  if page = 0 ∨ kind = .atomic ∨ kind = .cas then (sp, sp)
  else if kind = .load then (if acq then sp else f0, min (sp + 256) fz)
  else (sp, min (issue + lat) fz)

/-- What choosing P threads through the lanes: the state, the P chosen for each word of a store, and the lanes so far. -/
structure PChoice where
  s : State
  words : List (Nat × Nat)
  news : List PAcc
  lanes : List LaneAcc

/-- Choose the P of one lane (R123): a free choice within its bounds and the floor of the gang's earlier accesses. When
the floor lies above the bound, the gang's pending accesses are moved to their earliest P's first; a floor that remains
above the bound wins. The P of an `atg` or `casg` is its stack cycle (R125) even where an earlier access to an other-die
stack is ordered before it and performs later (R124, R126; log 29). -/
def PChoice.next (c : PChoice) (g : GangRef) (base op issue lat : Nat) (kind : GlobalKind) (order : Bool) (l : LaneAcc) :
    PChoice :=
  let sp := base + l.s
  let store := !(kind == .load)
  let acq := order && kind == .load && l.kind == 1
  let rel := order && kind == .store && l.kind == 1
  let fixed := l.kind == 0 || kind == .atomic || kind == .cas
  let b := pBounds kind l.kind acq sp issue lat
  let ord (s : State) : POrder := match s.gang? g with
    | some x => x.ord
    | none => { pkg := 0, gng := 0, accs := [] }
  let o := ord c.s
  let me (p : Nat) : PAcc :=
    { op := op, lane := l.lane, word := l.pa / 8, store := store, acq := acq, rel := rel, kind := l.kind, fixed := fixed,
      s := sp, p := p, pkg := o.pkg, gng := o.gng }
  match (if store then c.words.find? (fun e => e.1 == l.pa / 8) else none) with
  | some e => { c with lanes := c.lanes ++ [{ l with p := e.2 - base }], news := c.news ++ [me e.2] }
  | none =>
    let fl := floorOf o.accs (me 0)
    let s := if fl > b.2 then c.s.pullBack g else c.s
    let fl := if fl > b.2 then floorOf (ord s).accs (me 0) else fl
    let r : Nat × State :=
      if fixed then (sp, s) else if fl > b.2 then (fl, s) else s.choose (max b.1 fl) b.2
    { s := r.2, words := (l.pa / 8, r.1) :: c.words, news := c.news ++ [me r.1]
      lanes := c.lanes ++ [{ l with p := r.1 - base }] }

/-! ## Issue -/

/-- The virtual address of a lane (R175). -/
def LCtx.va (c : LCtx) (w : LaneWord) (l : Nat) : Nat :=
  wrapN 56 ((c.pair w.a.toNat l % 2 ^ 56 : Nat) + sextInt w.off 17)

/-- The real active lanes of an instruction (R45, R75). -/
def LCtx.realLanes (c : LCtx) : List Nat := (lanesOf c.active).filter c.real
/-- The active helper lanes. -/
def LCtx.helperLanes (c : LCtx) : List Nat := (lanesOf c.active).filter fun l => !c.real l

/-- Destination keys of a lane for a result of 2^SZ bytes (R86, R175). -/
def LCtx.resultKeys (c : LCtx) (w : LaneWord) (wide : Bool) (l : Nat) : List Nat :=
  let d := w.d.toNat
  if d < 96 then (if wide then [32 * d + l, 32 * (d + 1) + l] else [32 * d + l]) else c.destKeys d l

/-- The hold-result entry and stamp of an instruction (R68). -/
def LCtx.holdEntry (c : LCtx) (w : LaneWord) : Option (Nat × BitVec 64) :=
  if w.hold = 3 then some (c.clause.nth % 3, c.gang.dix) else none

/-- Lanes of an instruction with a property, as a breach of its own rule: cause, lanes and the first lane's address. -/
def laneExtra (cause : Nat) (ls : List (Nat × Nat)) : List (Nat × Option (BitVec 32) × Nat × Nat) :=
  if ls = [] then [] else [(cause, some (laneSet (ls.map (·.1))), (ls.headD (0, 0)).2, 0)]

/-- Misaligned lanes of a global access (R175, R331). -/
def LCtx.globalExtra (c : LCtx) (w : LaneWord) : List (Nat × Option (BitVec 32) × Nat × Nat) :=
  laneExtra 0x64 ((c.realLanes.map fun l => (l, c.va w l)).filter fun e => e.2 % 2 ^ w.sz != 0)

/-- The operand and second operand of a lane: C, or C and C+1 for `casg` (R181). -/
def LCtx.globalData (c : LCtx) (w : LaneWord) (kind : GlobalKind) (l : Nat) : Nat × Nat :=
  let wide := w.sz == 3
  match kind with
  | .load => (0, 0)
  | .cas => if wide then (c.pair w.c l, c.pair (w.c + 2) l)
            else ((c.src w.c l).toNat, (c.src (w.c + 1) l).toNat)
  | _ => (c.datum w.c l wide % 2 ^ (8 * 2 ^ w.sz), 0)

/-- A lane's access as fixed at issue (R32, R109, R180). -/
def LCtx.laneAcc (c : LCtx) (w : LaneWord) (kind : GlobalKind) (sq : BitVec 32) (l : Nat) : LaneAcc :=
  let va := c.va w l
  let far := dieOfCore c.team.core != dieOfStack (stackOf va)
  let tr := match translate c.team.wins va (kind != .load) with
    | .ok pa page _ => (pa, page.kind)
    | .fail _ => (0, 0)
  let d := c.globalData w kind l
  let st := c.t + 320 + (if far then 48 else 0)
  { lane := l, va := va, pa := tr.1, kind := tr.2, far := far, s := st, p := st, data := d.1, cmp := d.2, result := 0,
    ok := false, done := false, sq := sq }

/-- Whether some lane reaches an other-die stack. -/
def GlobalOp.anyFar (o : GlobalOp) : Bool := o.lanes.any (·.far)
/-- Whether some lane reaches a same-die stack. -/
def GlobalOp.anyNear (o : GlobalOp) : Bool := o.lanes.any fun l => !l.far
/-- Completion cycle of the whole operation after its issue (R180-R182). -/
def GlobalOp.span (o : GlobalOp) : Nat := o.kind.latency + (if o.anyFar then 64 else 0)

/-- Put an operation's deliveries and completion on the agenda, at the heat cycles of its issue (R25, R180-R182, R352). -/
def State.pushDeliveries (s : State) (o : GlobalOp) : State :=
  let at0 := s.teamBase o.teamRef + o.issue + o.kind.latency
  let near := laneSet ((o.lanes.filter fun l => !l.far).map (·.lane))
  let far := laneSet ((o.lanes.filter (·.far)).map (·.lane))
  let zeros := laneSet (o.zeros.map (· % 32))
  let first := o.anyNear || !o.anyFar
  let ev (m : BitVec 32) : Ev := if o.isAtomic then .atomicResult o.id m else .globalLoadDelivery o.id m
  if o.isLoad || o.isAtomic then
    let s := if first then s.push at0 10 (ev (near ||| zeros)) else s
    if o.anyFar then s.push (at0 + 64) 10 (ev (far ||| (if first then 0 else zeros))) else s
  else s.push (at0 + (if o.anyFar then 64 else 0)) 45 (.globalStoreCompletion o.id)

/-- Put the stack cycles of an operation's unchecked lanes on the agenda (R32). `first` marks the earliest, at which the
windows of every lane are checked (R318). -/
def State.pushStacks (s : State) (o : GlobalOp) : State :=
  let base := s.teamBase o.teamRef
  let ls := o.lanes.filter fun l => !l.ok
  let near := ls.filter fun l => !l.far
  let far := ls.filter (·.far)
  let put (s : State) (ls : List LaneAcc) (first : Bool) : State := match ls with
    | [] => s
    | l :: _ => s.push (base + l.s) 15 (.stackAccess (.lanes o.id (laneSet (ls.map (·.lane))) first))
  put (put s near true) far near.isEmpty

/-- Count an operation in or out of STO or ATM of its core (R60). -/
def State.countOp (s : State) (o : GlobalOp) (up : Bool) : State :=
  s.modCore o.core fun c =>
    if o.isAtomic then { c with atm := if up then c.atm + 1 else c.atm - 1 }
    else if o.isLoad then c
    else { c with sto := if up then c.sto + 1 else c.sto - 1 }

/-- ISSUE A GLOBAL ACCESS (R175, R180-R182): every real active lane takes its stack cycle and P; loads and atomics deliver,
stores and reductions complete, at their architected cycles. -/
def LCtx.issueGlobal (c : LCtx) (s : State) (i : Instr) (w : LaneWord) (kind : GlobalKind) (order : Bool) : State :=
  let ls := c.realLanes
  let atomic := kind == .atomic || kind == .cas
  let seq0 := c.team.atomSeq
  let accs := ((List.range ls.length).zip ls).map fun e => c.laneAcc w kind (seq0 + BitVec.ofNat 32 e.1) e.2
  let id := s.nextOp
  let s : State := { s with nextOp := id + 1 }
  let s := if atomic then s.modTeam ⟨c.ref.hid, c.ref.team⟩ fun t =>
      { t with atomSeq := t.atomSeq + BitVec.ofNat 32 ls.length } else s
  let issue := c.base + c.t
  let lat (l : LaneAcc) : Nat := kind.latency + (if l.far then 64 else 0)
  let ch := accs.foldl (fun ch l => ch.next c.ref c.base id issue (lat l) kind order l)
    ({ s := s, words := [], news := [], lanes := [] } : PChoice)
  let keep (a : PAcc) : Bool := decide (frameStart (issue + 320) ≤ a.p)
  let s := ch.s.modGang c.ref fun g => { g with ord := { g.ord with accs := g.ord.accs.filter keep ++ ch.news } }
  let loads := kind == .load || atomic
  let o : GlobalOp :=
    { id := id, hid := c.ref.hid, team := c.ref.team, gang := c.ref.gang, core := c.team.core, issue := c.t, kind := kind
      sz := w.sz, sx := w.sx, aop := w.aop, order := order, lanes := ch.lanes
      dests := if loads then ls.map fun l => (l, c.resultKeys w (w.sz == 3) l) else []
      zeros := if loads then (c.helperLanes.map (c.resultKeys w (w.sz == 3))).flatten else []
      latch := c.holdEntry w, flag := flagFor c.clause i, blame := c.blame 0, hot := false, n := 0, bar := none
      addr := 0, bytes := [] }
  let s : State := { s with gops := s.gops ++ [o] }
  (((s.countOp o true).pushStacks o).pushPerforms o).pushDeliveries o

/-! ## The stack cycle (R32, R318, R334-R338) -/

/-- COUNT A CORRECTED READ of a stack in the current cycle, if one is announced (R306, R338). -/
def State.hbmCorrected (s : State) (stack : Nat) : State :=
  if s.env.hbmFixed.contains (stack, s.now) then
    { s.tick 12 0 1 with env := { s.env with hbmFixed := s.env.hbmFixed.erase (stack, s.now) } }
  else s

/-- One access at a stack in the current cycle (R33, R306, R338): the cause it breaks, if any. A retry whose re-read succeeds
is counted, the second of a frame too. -/
def State.stackUse (s : State) (stack : Nat) : Option Nat × State :=
  let f := s.now / 4096
  let x := Store.get StackFrame.init s.stackFrames stack
  let n := if x.frame = f then x.retries else 0
  let put (s : State) (y : StackFrame) : State := { s with stackFrames := Store.set StackFrame.init s.stackFrames stack y }
  let used : StackFrame := { x with grain := s.now / 64 + 1 }
  let s := (put (if x.grain = s.now / 64 + 1 then s else s.tick 5 stack 1) used).hbmCorrected stack
  if s.lateRefresh stack s.now then (some 0x83, s)
  else match s.env.hbmErrors.find? (fun e => e.1 == stack && e.2.1 == s.now) with
    | none => (if n ≥ 2 then some 0x84 else none, s)
    | some e =>
      let s : State := { s with env := { s.env with hbmErrors := s.env.hbmErrors.filter (· ≠ e) } }
      let s := if e.2.2 then s else s.tick 6 0 1
      if n ≥ 1 then (some 0x84, put s { used with frame := f, retries := 2, overrun := true, lateRefresh := some (f + 1) })
      else (if e.2.2 then some 0xF2 else none, put s { used with frame := f, retries := 1, overrun := false })

/-- The window of a team that is revoked for an access now (R335): the VBASE. -/
def revokedAt (wins : List Window) (va now : Nat) : Option Nat :=
  match findWindow va wins 0 with
  | some (_, w) => match w.revoked with
    | some rv => if rv ≤ now then some w.vbase else none
    | none => none
  | none => none

/-- Everything one lane's own stack cycle can break (R318): cause and address. -/
def State.laneStack (s : State) (h : Heat) (t : Team) (l : LaneAcc) : List (Nat × Nat) × State :=
  let r1 := match revokedAt t.wins l.va s.now with
    | some vb => [(0x65, vb)]
    | none => []
  let r2 := match stackBreach h (clusterOf t.core) (stackOf l.va) s.now with
    | some c => [(c, l.va)]
    | none => []
  let u := s.stackUse (stackOf l.va)
  let r3 := match u.1 with
    | some c => [(c, l.va)]
    | none => []
  (r1 ++ r2 ++ r3, u.2)

/-- THE STACK CYCLE of lanes of a gang's access (R32): with the earliest, the windows, presence and permission of every
lane (R334); at each, slack, grain, revocation and errors (R335, R337, R338). A lane that passes takes its physical address from
the windows as they now are (R120, R352). A breach stops the stream, and the operation
is kept as replay data (R318, R351); lanes whose earlier stack cycle passed stand. -/
def State.stackLanes (s : State) (id : Nat) (mask : BitVec 32) (first : Bool) : State :=
  match s.gop? id with
  | none => s
  | some o =>
    match s.heat? o.hid, s.team? o.teamRef with
    | some h, some t =>
      if o.hot then s
      else
        let win : List (Nat × Nat × Nat) := if !first then [] else o.lanes.filterMap fun l =>
          match translate t.wins l.va (!o.isLoad) with
          | .fail c => some (l.lane, c, l.va)
          | .ok .. => none
        let own := (o.lanes.filter fun l => mask.getLsbD l.lane && !l.ok).foldl (fun (acc : List (Nat × Nat × Nat) × State) l =>
          let r := acc.2.laneStack h t l
          (acc.1 ++ r.1.map fun c => (l.lane, c.1, c.2), r.2)) (([] : List (Nat × Nat × Nat)), s)
        let s := own.2
        match worstLane (win ++ own.1) with
        | none =>
          let pass (l : LaneAcc) : LaneAcc :=
            if l.ok || !(mask.getLsbD l.lane) then l
            else match translate t.wins l.va (!o.isLoad) with
              | .ok pa _ _ => { l with ok := true, pa := pa }
              | .fail _ => { l with ok := true }
          s.modGop id fun o => { o with lanes := o.lanes.map pass }
        | some (cause, lanes, addr) =>
          let s := s.modGop id fun o => { o with hot := true }
          (s.stopNamed o.blame).detect { o.blame with cause := cause, lanes := lanes, addr := addr, info := stackOf addr }
    | _, _ => s

/-! ## Performing (R122, R125, R339) -/

/-- Whether a loss of an atomic's request (0) or reply (1) is announced; taking it consumes it (R339). -/
def State.takeLoss (s : State) (which : Nat) (sq : BitVec 32) : Bool × State :=
  if s.env.lostAtomics.contains (which, sq) then
    (true, { s with env := { s.env with lostAtomics := s.env.lostAtomics.erase (which, sq) } })
  else (false, s)

/-- The flow of an atomic at its home (R125). -/
def State.windowOf (s : State) (heatid : BitVec 32) (team stack : Nat) : Option AtomWindow :=
  s.atomWindows.find? fun w => w.heatid == heatid && w.team == team && w.stack == stack

/-- Record an applied atomic in its flow's window of 64 (R125). -/
def State.recordAtomic (s : State) (heatid : BitVec 32) (team stack : Nat) (sq : BitVec 32) (old : Nat) : State :=
  match s.windowOf heatid team stack with
  | none => { s with atomWindows := s.atomWindows ++
                [{ heatid := heatid, team := team, stack := stack, results := [(sq, old)] }] }
  | some w => { s with atomWindows := s.atomWindows.map fun x =>
                  if x = w then { x with results := ((sq, old) :: x.results).take 64 } else x }

/-- Change one lane of an operation. -/
def State.modLane (s : State) (id lane : Nat) (f : LaneAcc → LaneAcc) : State :=
  s.modGop id fun o => { o with lanes := o.lanes.map fun l => if l.lane = lane then f l else l }

/-- The `sr.heatid` of a heat. -/
def State.heatidOf (s : State) (hid : Nat) : BitVec 32 := ((s.heat? hid).map (·.heatid)).getD 0

/-- Apply an atomic's lane at its home, unless its window holds its number (R125, R339): its old value. -/
def State.applyAtomic (s : State) (o : GlobalOp) (l : LaneAcc) : Nat × State :=
  let hd := s.heatidOf o.hid
  match (s.windowOf hd o.team (stackOf l.va)).bind fun w => w.results.find? (fun r => r.1 == l.sq) with
  | some r => (r.2, s)
  | none =>
    let n := 2 ^ o.sz
    let old := ofLeBytes (s.readHbm l.pa n)
    let new := aopNew (if o.kind = .cas then 12 else o.aop) n old l.data l.cmp
    (old, (s.writeHbm l.pa (leBytes n new)).recordAtomic hd o.team (stackOf l.va) l.sq old)

/-- Perform one lane that stores (R122, R125). A request lost on its way does nothing; a reply lost on its way leaves its
lane to the repeat, which the core sends 96 c before delivery (R339). -/
def State.performStore (s : State) (o : GlobalOp) (l : LaneAcc) : State :=
  let n := 2 ^ o.sz
  let again := s.teamBase o.teamRef + o.issue + 760 + (if l.far then 64 else 0) - 96
  match o.kind with
  | .store => (s.writeHbm l.pa (leBytes n l.data)).modLane o.id l.lane fun l => { l with done := true }
  | .reduce =>
    let old := ofLeBytes (s.readHbm l.pa n)
    (s.writeHbm l.pa (leBytes n (aopNew o.aop n old l.data l.cmp))).modLane o.id l.lane fun l => { l with done := true }
  | _ =>
    let lost := s.takeLoss 0 l.sq
    if lost.1 then lost.2.push again 48 (.atomicRepeat o.id l.lane)
    else
      let a := lost.2.applyAtomic o l
      let reply := a.2.takeLoss 1 l.sq
      if reply.1 then reply.2.push again 48 (.atomicRepeat o.id l.lane)
      else reply.2.modLane o.id l.lane fun l => { l with done := true, result := a.1 }

/-- Insert a pending store lane in the order of R122: ascending lane, then issue. -/
def insertLane (e : GlobalOp × LaneAcc) : List (GlobalOp × LaneAcc) → List (GlobalOp × LaneAcc)
  | [] => [e]
  | f :: r => if e.2.lane < f.2.lane then e :: f :: r else f :: insertLane e r

/-- PERFORM EVERY LANE of a core's stores, atomics and reductions whose P is now (R122), in ascending lane order. -/
def State.performCore (s : State) (core : Nat) : State :=
  let due := ((s.gops.filter fun o => o.core == core && !o.isLoad).map fun o =>
    (o.lanes.filter fun l => l.ok && !l.done && s.teamBase o.teamRef + l.p == s.now).map fun l => (o, l)).flatten
  (due.foldl (fun acc e => insertLane e acc) []).foldl (fun s e => s.performStore e.1 e.2) s

/-- Read the lanes of a load whose P is now or lies before its stack cycle (R122, R123). -/
def State.performLoad (s : State) (o : GlobalOp) (mask : BitVec 32) : State :=
  let base := s.teamBase o.teamRef
  let rd (o : GlobalOp) (l : LaneAcc) : LaneAcc :=
    if mask.getLsbD l.lane && l.ok && !l.done then
      { l with
        done := true
        result := extendTo o.sx (2 ^ o.sz) (ofLeBytes (s.readHbmAt l.pa (2 ^ o.sz) (base + l.p))) }
    else l
  s.modGop o.id fun o => { o with lanes := o.lanes.map (rd o) }

/-- Whether the operation reads a record for a cox (R219, R222, R252). -/
def GlobalOp.isRecord (o : GlobalOp) : Bool := o.kind == .tload || o.kind == .gset || o.kind == .xferRec

/-- Read a record's bytes, which perform at the stack cycle (R129, R219). -/
def State.performRecord (s : State) (o : GlobalOp) : State :=
  match (s.team? o.teamRef).map fun t => translate t.wins o.addr false with
  | some (.ok pa _ _) => s.modGop o.id fun o => { o with bytes := s.readHbm pa o.sz }
  | _ => s

/-- GLOBAL_PERFORM (R122, R123). -/
def execGlobalPerform (s : State) : Host.Outcome State Fault Refusal :=
  match s.arg with
  | .globalPerform id mask =>
    match s.gop? id with
    | none => .next s
    | some o =>
      .next (if o.isRecord then s.performRecord o else if o.isLoad then s.performLoad o mask else s.performCore o.core)
  | _ => .fault .noData

/-- Deliver results of lanes, and with the last of them clear the flag and end the operation unless it is kept for replay
(R45, R318). -/
def State.deliver (s : State) (o : GlobalOp) (mask : BitVec 32) : State :=
  let last := !o.anyFar || (o.lanes.any fun l => l.far && mask.getLsbD l.lane)
  let vals := (o.lanes.filter fun l => mask.getLsbD l.lane && l.done).map fun l => (l.lane, l.result)
  let all := (o.lanes.filter (·.done)).map fun l => (l.lane, l.result)
  let zeros := o.zeros.filter fun k => mask.getLsbD (k % 32)
  let land : LaneLanding :=
    if o.hot then flagOnly (if last then o.flag else none)
    else { landingOf o.dests zeros none (if last then o.flag else none) vals with
           latch := if last then (landingOf o.dests zeros o.latch none all).latch else none }
  let s := s.modGang o.gangRef fun g => g.land land s.now
  if last && !o.hot then s.dropGop o.id else s

/-- GLOBAL_LOAD_DELIVERY (R180). -/
def execGlobalLoadDelivery (s : State) : Host.Outcome State Fault Refusal :=
  match s.arg with
  | .globalLoadDelivery id mask =>
    match s.gop? id with
    | none => .next s
    | some o => .next (s.deliver o mask)
  | _ => .fault .noData

/-- ATOMIC_RESULT (R181): old values are written; with the last lane the operation leaves ATM. -/
def execAtomicResult (s : State) : Host.Outcome State Fault Refusal :=
  match s.arg with
  | .atomicResult id mask =>
    match s.gop? id with
    | none => .next s
    | some o =>
      let last := !o.anyFar || (o.lanes.any fun l => l.far && mask.getLsbD l.lane)
      let s := s.deliver o mask
      .next (if last then (s.countOp o false).afterCounter o.hid else s)
  | _ => .fault .noData

/-- GLOBAL_STORE_COMPLETION (R180, R182): the operation leaves STO and its flag clears. -/
def execGlobalStoreCompletion (s : State) : Host.Outcome State Fault Refusal :=
  match s.arg with
  | .globalStoreCompletion id =>
    match s.gop? id with
    | none => .next s
    | some o =>
      let s := (s.countOp o false).clearGangFlag o.gangRef o.flag
      .next ((if o.hot then s else s.dropGop id).afterCounter o.hid)
  | _ => .fault .noData

/-- ATOMIC_REPEAT (R339): the core sends the request again; the home answers from its window, or applies the request when
it never reached it. A second loss faults with 0xFA. -/
def execAtomicRepeat (s : State) : Host.Outcome State Fault Refusal :=
  match s.arg with
  | .atomicRepeat id lane =>
    match s.gop? id with
    | none => .next s
    | some o =>
      match o.lanes.find? (fun l => l.lane == lane) with
      | none => .next s
      | some l =>
        let failed (s : State) : State :=
          let s := (s.modGop id fun o => { o with hot := true }).modLane id lane fun l =>
            { l with ok := false, s := s.now - s.teamBase o.teamRef, p := s.now - s.teamBase o.teamRef }
          (s.stopNamed o.blame).detect
            { o.blame with cause := 0xFA, lanes := laneSet [lane], addr := l.va, info := stackOf l.va }
        let lost := s.takeLoss 0 l.sq
        if lost.1 then .next (failed lost.2)
        else
          let a := lost.2.applyAtomic o l
          let reply := a.2.takeLoss 1 l.sq
          if reply.1 then .next (failed reply.2)
          else .next (reply.2.modLane id lane fun l => { l with done := true, result := a.1 })
  | _ => .fault .noData

end Sys2Proof.Machine
end

