-- ==== Sys2Proof/Machine/LaneAccess.lean ====
section
/-! DEFINITION. Lane set II (R175-R199): exchange among lanes, index registers, cluster exchange, scratch and global
memory, fences, owner flips, and control flow of a gang. -/
namespace Sys2Proof.Machine

/-! ## Exchange (R185-R188) -/

/-- The quads present in a gang (R45, R75). -/
def Gang.present (g : Gang) : BitVec 8 := g.groups.foldl (fun q x => q ||| x.quads) 0

/-- What a lane supplies to an exchange: its A, or 0 in an absent quad (R187). -/
def LCtx.supply (c : LCtx) (w : LaneWord) (l : Nat) : Word :=
  if (quadLanes c.gang.present).getLsbD l then c.src w.a.toNat l else 0

/-- The selector of an exchange (R187). -/
def LCtx.selector (c : LCtx) (w : LaneWord) (l : Nat) : Nat := (c.srcB w l).toNat

/-- The source lane of `shfl` (R187, Table 4). -/
def shflLane (mode b i : Nat) : Nat :=
  let n := b % 32
  match mode with
  | 0 => n
  | 1 => i ^^^ n
  | 2 => if i < n then i else i - n
  | _ => if i + n > 31 then i else i + n

/-- shfl (R187). -/
def execShfl (w : LaneWord) (s : State) :=
  laneCompute (.shfl w) w s 6 fun c l => c.supply w (shflLane w.sub (c.selector w l) l)
/-- qswz (R187). -/
def execQswz (w : LaneWord) (s : State) :=
  laneCompute (.qswz w) w s 6 fun c l => c.supply w (4 * (l / 4) + (c.selector w l >>> (2 * (l % 4))) % 4)
/-- qbc (R187). -/
def execQbc (w : LaneWord) (s : State) :=
  laneCompute (.qbc w) w s 6 fun c l => c.supply w (4 * (l / 4) + c.selector w l % 4)

/-- The operation of `qred` on two words (R188). -/
def qredOp (op a b : Nat) : Nat :=
  match op with
  | 0 => (a + b) % 2 ^ 32
  | 1 => f32.rne (FVal.add false (f32.decode a) (f32.decode b))
  | 2 => if sextInt a 32 ≤ sextInt b 32 then a else b
  | 3 => if sextInt a 32 ≥ sextInt b 32 then a else b
  | 4 => min a b
  | 5 => max a b
  | 6 => f32.minMax false a b
  | 7 => f32.minMax true a b
  | 8 => a &&& b
  | 9 => a ||| b
  | _ => a ^^^ b

/-- qred (R188). -/
def execQred (w : LaneWord) (s : State) :=
  laneCompute (.qred w) w s 6 fun c l =>
    let a (k : Nat) := (c.supply w (4 * (l / 4) + k)).toNat
    BitVec.ofNat 32 (qredOp w.sub (qredOp w.sub (a 0) (a 1)) (qredOp w.sub (a 2) (a 3)))

/-- xset (R72, R185): the index register of each active lane at t + 4. -/
def execXset (w : LaneWord) (s : State) : Host.Outcome State Fault Refusal :=
  issueLane (.xset w) w s (fun _ => 4) (fun _ => []) fun c s =>
    let n := w.d.toNat % 4
    s.push (s.now + 4) 10 (.laneResult c.ref
      { flagOnly none with xs := (lanesOf c.active).map fun l => (32 * n + l, (c.src w.a.toNat l).setWidth 8) })

/-- xwin (R72, R186): the gang's window at t + 4, whatever the mask. -/
def execXwin (w : LaneWord) (s : State) : Host.Outcome State Fault Refusal :=
  issueLane (.xwin w) w s (fun _ => 4) (fun _ => []) fun c s =>
    s.push (s.now + 4) 10 (.laneResult c.ref
      { flagOnly none with wins := [(w.d.toNat % 4, BitVec.ofNat 16 w.imm)] })

/-! ## Cluster exchange (R189, R190, R211) -/

/-- Whether an open exchange session of the cluster includes both crew indices (R211). -/
def Heat.sessionOpen (h : Heat) (cluster a b t : Nat) : Bool :=
  h.sessions.any fun x => x.1 == cluster && x.2.1.testBit a && x.2.1.testBit b &&
    (match x.2.2.2 with
     | some o => decide (o ≤ t)
     | none => false)

/-- Whether a team has retired: its cox and every gang (R47). -/
def Team.retired (t : Team) : Bool := t.cox.retired && t.gangs.all (·.retired)

/-- The breaches of a `snd` to a position of the cluster (R190, R331). -/
def LCtx.sndExtra (c : LCtx) (w : LaneWord) : List (Nat × Option (BitVec 32) × Nat × Nat) :=
  let core := 4 * clusterOf c.team.core + w.imm % 4
  let peers := c.heat.teams.filter fun t => t.core == core
  let there := peers.filter fun t => decide (t.sigma ≤ c.t) && !t.retired
  let open1 := peers.any fun t => c.heat.sessionOpen (clusterOf core) (crewIndex c.team) (crewIndex t) c.t
  (if there = [] then [(0x87, none, 0, 0)] else []) ++ (if open1 then [] else [(0x8E, none, 0, 0)])

/-- snd (R189): every real active lane's A lands 24 c later in the peer core's landing register. -/
def execSnd (w : LaneWord) (s : State) : Host.Outcome State Fault Refusal :=
  issueLane (.snd w) w s (fun _ => 24) (fun c => c.sndExtra w) fun c s =>
    let data := (List.range 32).map fun l =>
      if c.active.getLsbD l && c.real l then c.src w.a.toNat l else 0
    (s.push (s.now + 24) 10 (.sndLanding (4 * clusterOf c.team.core + w.imm % 4) c.ref data)).push (s.now + 24) 10
      (.laneResult c.ref (flagOnly (flagFor c.clause (.snd w))))

/-- The detection that names a gang which is not issuing (R317: check). -/
def State.gangBlame (s : State) (g : GangRef) (cause : Nat) : Detect :=
  match s.team? ⟨g.hid, g.team⟩, s.gang? g with
  | some t, some x =>
    let gr := x.groups.headD (Group.start 0 0 0 [])
    { Detect.blank g.hid (streamRank t.core t.tsel g.gang) cause 0 with
      team := g.team, gang := g.gang, core := t.core, qmask := x.present.toNat, fdix := x.dix, pc := gr.pc }
  | _, _ => Detect.blank g.hid 0 cause 0

/-- SND_LANDING (R189, R331): data lands in the core's register; a landing still there has not been received. -/
def execSndLanding (s : State) : Host.Outcome State Fault Refusal :=
  match s.arg with
  | .sndLanding core g data =>
    let s1 : State := match (s.core core).landing with
      | some old => (s.stopGang old.sender).detect (s.gangBlame old.sender 0x85)
      | none => s
    let stamp := s1.nextOp
    let s2 := ({ s1 with nextOp := stamp + 1 } : State).modCore core fun c =>
      { c with landing := some { at_ := s.now, stamp := stamp, sender := g, data := data } }
    .next (s2.push (s.now + 8) 48 (.landingNotReceived core stamp))
  | _ => .fault .noData

/-- LANDING_NOT_RECEIVED (R190, R331): 8 c after a landing that no `rcv` took. -/
def execLandingNotReceived (s : State) : Host.Outcome State Fault Refusal :=
  match s.arg with
  | .landingNotReceived core stamp =>
    match (s.core core).landing with
    | some l =>
      if l.stamp = stamp then
        match s.heat? l.sender.hid with
        | some h =>
          if !h.issuesAt core (s.now - h.anchor) then .next (s.park h.hid 48 (.landingNotReceived core stamp))
          else .next (((s.modCore core fun c => { c with landing := none }).stopGang l.sender).detect (s.gangBlame l.sender 0x85))
        | none => .next s
      else .next s
    | none => .next s
  | _ => .fault .noData

/-- The breaches of `rcv` (R190, R331): no session open for its own team, or nothing landed. -/
def LCtx.rcvExtra (c : LCtx) (s : State) : List (Nat × Option (BitVec 32) × Nat × Nat) :=
  let i := crewIndex c.team
  (if c.heat.sessionOpen (clusterOf c.team.core) i i c.t then [] else [(0x8E, none, 0, 0)]) ++
  (if (s.core c.team.core).landing = none then [(0x86, none, 0, 0)] else [])

/-- rcv (R190): the landing register to D at u + 4; it empties. -/
def execRcv (w : LaneWord) (s : State) : Host.Outcome State Fault Refusal :=
  issueLane (.rcv w) w s (fun _ => 4)
    (fun c => c.rcvExtra s)
    fun c s =>
      let data := ((s.core c.team.core).landing.map (·.data)).getD []
      (s.modCore c.team.core fun x => { x with landing := none }).push (s.now + 4) 10
        (.laneResult c.ref (c.landing w (.rcv w) ((lanesOf c.active).map fun l => (l, data.getD l 0))))

/-! ## Scratch (R177-R179) -/

/-- The scratch offset of a lane (R175). -/
def LCtx.scratchOff (c : LCtx) (w : LaneWord) (l : Nat) : Nat :=
  wrapN 32 (((c.src w.a.toNat l).toNat : Nat) + sextInt w.off 17)

/-- Offsets outside the allocation, and misaligned ones (R175, R331). -/
def LCtx.scratchExtra (c : LCtx) (w : LaneWord) : List (Nat × Option (BitVec 32) × Nat × Nat) :=
  let os := c.realLanes.map fun l => (l, c.scratchOff w l)
  laneExtra 0x40 (os.filter fun e => decide (e.2 ≥ c.team.scnt * 4096)) ++
  laneExtra 0x41 (os.filter fun e => e.2 % 2 ^ w.sz != 0)

/-- The access of a scratch instruction. -/
def LCtx.scratchAcc (c : LCtx) (w : LaneWord) (i : Instr) (kind : Nat) : ScratchAcc :=
  let base := 4096 * c.team.sbase
  let wide := w.sz == 3
  let gets := kind != 1
  { g := c.ref, core := c.team.core, base := base, kind := kind, aop := w.aop, size := 2 ^ w.sz, sx := w.sx, fmt := 0
    scale := 0
    lanes := c.realLanes.map fun l =>
      (l, base + c.scratchOff w l, if kind = 0 then 0 else c.datum w.c l wide,
       if w.aop = 12 then (c.src (w.c + 1) l).toNat else 0)
    dests := if gets then c.realLanes.map fun l => (l, c.resultKeys w wide l) else []
    zeros := if gets then (c.helperLanes.map (c.resultKeys w wide)).flatten else []
    latch := c.holdEntry w, flag := flagFor c.clause i, blame := c.blame 0 }

/-- lds (R177). -/
def execLds (w : LaneWord) (s : State) : Host.Outcome State Fault Refusal :=
  issueLane (.lds w) w s (fun _ => 14) (fun c => c.scratchExtra w) fun c s => s.startAcc (c.scratchAcc w (.lds w) 0)
/-- sts (R177). -/
def execSts (w : LaneWord) (s : State) : Host.Outcome State Fault Refusal :=
  issueLane (.sts w) w s (fun _ => 10) (fun c => c.scratchExtra w) fun c s => s.startAcc (c.scratchAcc w (.sts w) 1)
/-- ats (R178). -/
def execAts (w : LaneWord) (s : State) : Host.Outcome State Fault Refusal :=
  issueLane (.ats w) w s (fun _ => 14) (fun c => c.scratchExtra w) fun c s => s.startAcc (c.scratchAcc w (.ats w) 2)

/-- The entry that `ldt` names (R179). -/
def LCtx.ldtEntry (c : LCtx) (w : LaneWord) : Tensor := Store.get Tensor.init c.team.t (w.off % 64)

/-- The indices of a lane of `ldt` (R179). -/
def LCtx.ldtIndex (c : LCtx) (w : LaneWord) (l : Nat) : List Nat :=
  let a := (c.src w.a.toNat l).toNat
  let d := (c.src w.c l).toNat
  [a % 2 ^ 16, a / 2 ^ 16, d % 2 ^ 16, d / 2 ^ 16, 0, 0, 0, 0, 0, 0, 0, 0]

/-- Bytes that one lane of `ldt` reads (R179): offset and size of its element, and of its block's exponents. -/
def ldtRanges (e : Tensor) (idx : List Nat) : List (Int × Nat) :=
  let o := e.addr idx
  if isBlock e.fmt then
    let k := idx.getD e.baxis 0 % 32
    [(o, 2), (o + 2 + ((if e.fmt = 13 then k else k / 2) : Nat), 1)]
  else [(o, if e.fmt = 15 then 1 else elemBytes e.fmt)]

/-- Whether an index lies within the entry's extents. -/
def Tensor.holds (e : Tensor) (idx : List Nat) : Bool := (List.range 12).all fun d => decide (idx.getD d 0 < e.extent d)

/-- The breaches of `ldt` (R110, R175, R179, R331). -/
def LCtx.ldtExtra (c : LCtx) (w : LaneWord) : List (Nat × Option (BitVec 32) × Nat × Nat) :=
  let e := c.ldtEntry w
  let valid := e.valid && !e.loc && decide (e.fmt < 16)
  let size := if decide (e.fmt ≥ 13) then w.sz == 2 && !w.sx else elemBytes e.fmt == 2 ^ w.sz
  let lim : Int := (c.team.scnt * 4096 : Nat)
  (if valid then [] else [(0xA5, none, 0, 0)]) ++
  (if decide (e.fmt < 16) && !size then [(0x03, none, 0, 0)] else []) ++
  (if !valid then []
   else
     let is := c.realLanes.map fun l => (l, c.ldtIndex w l)
     let over' := is.filter fun x => !e.holds x.2
     let outside := (is.filter fun x => e.holds x.2).filterMap fun x =>
       ((ldtRanges e x.2).find? fun r => decide (r.1 < 0 ∨ r.1 + r.2 > lim)).map fun r => (x.1, wrapN 32 r.1)
     let odd := (is.filter fun x => e.holds x.2).filterMap fun x =>
       ((ldtRanges e x.2).find? fun r => r.1 % (r.2 : Int) != 0).map fun r => (x.1, wrapN 32 r.1)
     laneExtra 0xA6 (over'.map fun x => (x.1, 0)) ++ laneExtra 0x40 outside ++ laneExtra 0x41 odd)

/-- The access of `ldt`, its entry captured now (R81, R179). -/
def LCtx.ldtAcc (c : LCtx) (w : LaneWord) : ScratchAcc :=
  let e := c.ldtEntry w
  let base := 4096 * c.team.sbase
  { c.scratchAcc w (.ldt w) 3 with
    size := if e.fmt = 15 then 1 else elemBytes e.fmt
    fmt := e.fmt, scale := e.scale
    lanes := c.realLanes.map fun l =>
      let idx := c.ldtIndex w l
      let rs := ldtRanges e idx
      (l, base + (rs.getLast?.map (·.1.toNat)).getD 0,
       if isBlock e.fmt then idx.getD e.baxis 0 % 32 else idx.getD 0 0 % 5, base + (rs.head?.map (·.1.toNat)).getD 0) }

/-- ldt (R179). -/
def execLdt (w : LaneWord) (s : State) : Host.Outcome State Fault Refusal :=
  issueLane (.ldt w) w s (fun _ => 14) (fun c => c.ldtExtra w) fun c s => s.startAcc (c.ldtAcc w)

/-! ## Global memory (R180-R183) -/

/-- A global load or store (R180-R182). -/
def laneGlobal (i : Instr) (w : LaneWord) (s : State) (kind : GlobalKind) (order : Bool) :
    Host.Outcome State Fault Refusal :=
  issueLane i w s
    (fun c => kind.latency + (if c.realLanes.any fun l => dieOfCore c.team.core != dieOfStack (stackOf (c.va w l)) then 64 else 0))
    (fun c => c.globalExtra w) fun c s => c.issueGlobal s i w kind order

/-- ldg (R180). -/
def execLdg (w : LaneWord) (s : State) := laneGlobal (.ldg w) w s .load false
/-- stg (R180). -/
def execStg (w : LaneWord) (s : State) := laneGlobal (.stg w) w s .store false
/-- ldg.acq (R124, R180). -/
def execLdgAcq (w : LaneWord) (s : State) := laneGlobal (.ldgAcq w) w s .load true
/-- stg.rel (R124, R180). -/
def execStgRel (w : LaneWord) (s : State) := laneGlobal (.stgRel w) w s .store true
/-- atg (R181). -/
def execAtg (w : LaneWord) (s : State) := laneGlobal (.atg w) w s .atomic false
/-- casg (R181). -/
def execCasg (w : LaneWord) (s : State) := laneGlobal (.casg w) w s .cas false
/-- redg (R182). -/
def execRedg (w : LaneWord) (s : State) := laneGlobal (.redg w) w s .reduce false

/-- A fence (R126, R183): it only orders the gang's later accesses after its earlier ones. -/
def laneFence (i : Instr) (w : LaneWord) (s : State) (pkg : Bool) : Host.Outcome State Fault Refusal :=
  issueLane i w s (fun _ => 0) (fun _ => []) fun c s =>
    s.modGang c.ref fun g =>
      { g with ord := { g.ord with gng := g.ord.gng + 1, pkg := if pkg then g.ord.pkg + 1 else g.ord.pkg } }

/-- fen.gang (R126). -/
def execFenGang (w : LaneWord) (s : State) := laneFence (.fenGang w) w s false
/-- fen.pkg (R126). -/
def execFenPkg (w : LaneWord) (s : State) := laneFence (.fenPkg w) w s true

/-- The first granule that a lane `own` names, from the lowest active lane (R184). -/
def LCtx.ownFirst (c : LCtx) (w : LaneWord) : Option Nat :=
  (lowestBit c.active).map fun l => (c.src w.a.toNat l).toNat / 4096

/-- The breach of a lane `own` (R184, R331): a granule beyond the team's allocation. -/
def LCtx.ownExtra (c : LCtx) (w : LaneWord) : List (Nat × Option (BitVec 32) × Nat × Nat) :=
  match c.ownFirst w with
  | some g0 => if g0 + (bits w.imm 15 8 + 1) > c.team.scnt then [(0x46, none, 4096 * g0, 0)] else []
  | none => []

/-- own (R184): flips granules of the team's allocation. -/
def execLaneOwn (w : LaneWord) (s : State) : Host.Outcome State Fault Refusal :=
  let count := bits w.imm 15 8 + 1
  issueLane (.laneOwn w) w s (fun _ => 10)
    (fun c => c.ownExtra w)
    fun c s => match c.ownFirst w with
      | some g0 => s.flip c.team.core (c.team.sbase + g0) count (w.imm % 8)
      | none => s

/-! ## Control (R191-R199) -/

/-- Change the issuing group. -/
def LCtx.modGroup (c : LCtx) (s : State) (f : Group → Group) : State :=
  s.modGang c.ref fun g => g.modGroup c.quads f

/-- Send the issuing group to an address (R191, R192). -/
def LCtx.goto (c : LCtx) (s : State) (pc : Nat) : State :=
  c.modGroup s fun gr => { gr with clause := none, pc := pc % 2 ^ 56, branched := true, ready := c.t + 1 }

/-- The address of the instruction word. -/
def LCtx.pc (c : LCtx) : Nat := c.clause.addr + 4 + 4 * c.clause.idx

/-- The target of a branch (R191). -/
def LCtx.target (c : LCtx) (w : LaneWord) : Nat := wrapN 56 ((c.pc : Nat) + 4 * w.imm25)

/-- Whether a branch is taken (R191). -/
def LCtx.taken (c : LCtx) (w : LaneWord) : Bool :=
  w.a == 112 || (match lowestBit c.active with
    | some l => c.src w.a.toNat l != 0
    | none => false)

/-- bra (R191). -/
def execBra (w : LaneWord) (s : State) : Host.Outcome State Fault Refusal :=
  issueLane (.bra w) w s (fun _ => 0) (fun _ => []) fun c s => if c.taken w then c.goto s (c.target w) else s

/-- The breach of a lane `call` (R191, R330): a ninth return address. -/
def LCtx.callExtra (c : LCtx) (w : LaneWord) : List (Nat × Option (BitVec 32) × Nat × Nat) :=
  if c.taken w && decide (c.group.stack.length ≥ 8) then [(0x0B, none, 0, 0)] else []

/-- call (R191). -/
def execLaneCall (w : LaneWord) (s : State) : Host.Outcome State Fault Refusal :=
  issueLane (.laneCall w) w s (fun _ => 0)
    (fun c => c.callExtra w)
    fun c s =>
      if c.taken w then
        c.goto (c.modGroup s fun gr => { gr with stack := c.clause.nextAddr :: gr.stack }) (c.target w)
      else s

/-- The breach of a lane `ret` (R192, R330): no return address. -/
def LCtx.retExtra (c : LCtx) : List (Nat × Option (BitVec 32) × Nat × Nat) := if c.group.stack = [] then [(0x0B, none, 0, 0)] else []

/-- ret (R192). -/
def execLaneRet (w : LaneWord) (s : State) : Host.Outcome State Fault Refusal :=
  issueLane (.laneRet w) w s (fun _ => 0)
    (fun c => c.retExtra)
    fun c s =>
      c.goto (c.modGroup s fun gr => { gr with stack := gr.stack.drop 1 }) (c.group.stack.headD 0)

/-- The quads of a set that read a value, one entry for each value. -/
def splitQuads (q : BitVec 8) (val : Nat → Word) : List (BitVec 8) :=
  let qs := (List.range 8).filter fun i => q.getLsbD i
  (qs.foldl (fun (acc : List (Word × BitVec 8)) i =>
    let v := val i
    if acc.any (fun e => e.1 == v) then acc.map fun e => if e.1 = v then (e.1, e.2 ||| (1#8 <<< i)) else e
    else acc ++ [(v, 1#8 <<< i)]) []).map (·.2)

/-- The breach of `part` and lane `bwt` outside a span (R194, R197, R330). -/
def LCtx.spanExtra (c : LCtx) : List (Nat × Option (BitVec 32) × Nat × Nat) := if c.gang.spans = [] then [(0x0A, none, 0, 0)] else []

/-- part (R194): the group splits by the values of its quads' first lanes. -/
def execPart (w : LaneWord) (s : State) : Host.Outcome State Fault Refusal :=
  issueLane (.part w) w s (fun _ => 0) (fun c => c.spanExtra)
    fun c s => s.modGang c.ref fun g =>
      let parts := splitQuads c.quads fun q => c.src w.a.toNat (4 * q)
      { g with
        groups := (g.groups.map fun gr =>
          if gr.quads = c.quads then parts.map fun q => { gr with quads := q } else [gr]).flatten
        turn := if c.gang.groups.length = 1 then 8 else g.turn }

/-- Whether the gang's quads are together. -/
def LCtx.together (c : LCtx) : Bool := c.gang.groups.length == 1

/-- The other groups of the gang. -/
def LCtx.others (c : LCtx) : List Group := c.gang.groups.filter fun g => g.quads ≠ c.quads

/-- Whether all return stacks are equal (R192, R332). -/
def LCtx.stacksEqual (c : LCtx) : Bool := c.gang.groups.all fun g => g.stack == c.group.stack

/-- The gang's groups as one, at an address (R29, R195); a group that has stopped (R318) stops the whole. -/
def Gang.merge (g : Gang) (pc ready : Nat) : Gang :=
  { g with
    groups := [{ Group.start g.present pc ready ((g.groups.head?.map (·.stack)).getD []) with
                 stopped := g.groups.foldl (fun m x => leastSet m x.stopped) none }]
    turn := 8 }

/-- Whether a group waits at the `rejoin` whose word stands at an address. -/
def Group.atRejoin (g : Group) (word : Nat) : Bool :=
  match g.wait with
  | .rejoin w _ => w == word
  | _ => false

/-- Whether a group waits at `spe`. -/
def Group.atSpe (g : Group) : Bool :=
  match g.wait with
  | .spe _ => true
  | _ => false

/-- Whether the issuing group is the last to reach its `rejoin` (R195). -/
def LCtx.lastRejoin (c : LCtx) : Bool := !c.together && c.others.all fun g => g.atRejoin c.pc

/-- The breach of `rejoin` (R192, R332): the quads come together with different return stacks. -/
def LCtx.rejoinExtra (c : LCtx) : List (Nat × Option (BitVec 32) × Nat × Nat) :=
  if c.lastRejoin && !c.stacksEqual then [(0x0E, none, 0, 0)] else []

/-- rejoin (R195): waits for every present quad at the same `rejoin`; nothing when the gang is not parted. -/
def execRejoin (w : LaneWord) (s : State) : Host.Outcome State Fault Refusal :=
  issueLane (.rejoin w) w s (fun _ => 0)
    (fun c => c.rejoinExtra)
    fun c s =>
      if c.together then s
      else
        let s := c.modGroup s fun gr => { gr with wait := .rejoin c.pc c.clause.nextAddr }
        if c.lastRejoin then s.push s.now 55 (.rejoinMerge c.ref) else s

/-- REJOIN_MERGE (R195): every present quad has issued the same `rejoin`; the gang continues as one. -/
def execRejoinMerge (s : State) : Host.Outcome State Fault Refusal :=
  match s.arg with
  | .rejoinMerge g =>
    match s.gang? g with
    | none => .next s
    | some x =>
      let t := s.now - s.teamBase ⟨g.hid, g.team⟩
      match x.groups with
      | { wait := .rejoin word next, .. } :: _ =>
        if x.groups.all fun gr => gr.atRejoin word then .next (s.modGang g fun x => x.merge next (t + 1)) else .next s
      | _ => .next s
  | _ => .fault .noData

/-- The end of the span that `spn` opens (R27). -/
def LCtx.spanEnd (c : LCtx) (w : LaneWord) : Int := c.t + w.imm25

/-- The breaches of `spn` (R28, R193, R330): quads parted, a fifth span, a length out of range, an end beyond the enclosing
span's. -/
def LCtx.spnExtra (c : LCtx) (w : LaneWord) : List (Nat × Option (BitVec 32) × Nat × Nat) :=
  (if c.together then [] else [(0x0C, none, 0, 0)]) ++
  (if decide (c.gang.spans.length ≥ 4) || decide (w.imm25 < 1) || decide (w.imm25 > 1048575) ||
      (match c.gang.spans with
       | e :: _ => decide (c.spanEnd w > e)
       | [] => false) then [(0x0D, none, 0, 0)] else [])

/-- spn (R27, R28, R193): pushes the span's end, at which the span is checked. -/
def execSpn (w : LaneWord) (s : State) : Host.Outcome State Fault Refusal :=
  issueLane (.spn w) w s (fun _ => 0)
    (fun c => c.spnExtra w)
    fun c s =>
      let e := (c.spanEnd w).toNat
      (s.modGang c.ref fun g => { g with spans := e :: g.spans }).push (c.base + e) 48 (.spanEnd c.ref e)

/-- Whether the issuing group is the last to reach `spe` (R29). -/
def LCtx.lastSpe (c : LCtx) : Bool := c.others.all (·.atSpe)

/-- The breaches of `spe` (R193, R330, R332): no span open, or quads that come together with different return stacks. -/
def LCtx.speExtra (c : LCtx) : List (Nat × Option (BitVec 32) × Nat × Nat) :=
  (if c.gang.spans = [] then [(0x0D, none, 0, 0)] else []) ++
  (if c.lastSpe && !c.stacksEqual then [(0x0E, none, 0, 0)] else [])

/-- spe (R27, R29, R193): the group waits; once every quad has reached an `spe`, the innermost span closes and the gang
goes on, as one, in its first own slot at or after the span's end. -/
def execSpe (w : LaneWord) (s : State) : Host.Outcome State Fault Refusal :=
  issueLane (.spe w) w s (fun _ => 0)
    (fun c => c.speExtra)
    fun c s =>
      let s := c.modGroup s fun gr => { gr with wait := .spe c.clause.nextAddr }
      if !c.lastSpe then s
      else s.modGang c.ref fun g =>
        let low := g.groups.foldl (fun (m : Option Group) gr =>
          match m with
          | some x => if (lowestBit gr.quads).getD 8 < (lowestBit x.quads).getD 8 then some gr else m
          | none => some gr) none
        let next := match low with
          | some { wait := .spe n, .. } => n
          | _ => c.clause.nextAddr
        { g.merge next (g.spans.headD 0) with spans := g.spans.drop 1 }

/-- SPAN_END (R27, R337): a span still open at its end has overrun; the lowest group that has not reached `spe` is named.
A halted gang, or one whose late groups have all stopped, keeps the check for its resumption (R352). -/
def execSpanEnd (s : State) : Host.Outcome State Fault Refusal :=
  match s.arg with
  | .spanEnd g e =>
    match s.heat? g.hid, s.team? ⟨g.hid, g.team⟩, s.gang? g with
    | some h, some t, some x =>
      let late := x.groups.filter fun gr => !gr.atSpe && gr.stopped.isNone
      if !h.teamIssuesAt t e || (late = [] && x.groups.any (·.stopped.isSome)) then .next (s.park g.hid 48 (.spanEnd g e))
      else if x.spans.contains e then
        let low := late.foldl (fun (m : BitVec 8 × Nat) gr =>
          if (lowestBit gr.quads).getD 8 < (lowestBit m.1).getD 8 then (gr.quads, gr.pc) else m) (0, 0)
        .next ((s.stopGroups g low.1).detect { s.gangBlame g 0x81 with qmask := low.1.toNat, pc := low.2 })
      else .next s
    | _, _, _ => .next s
  | _ => .fault .noData

/-- The lowest present lane of the issuing group (R196). -/
def LCtx.lowLane (c : LCtx) : Nat := 4 * (lowestBit c.quads).getD 0

/-- The breach of a handle that a stream names (R342). -/
def State.handleExtra (s : State) (core : Nat) (h : Word) : List (Nat × Option (BitVec 32) × Nat × Nat) :=
  match s.handleBreach core h with
  | some cause => [(cause, none, 0, h.toNat)]
  | none => []

/-- The breach of `arv`: a handle that names no live object (R342). -/
def LCtx.arvExtra (c : LCtx) (s : State) (w : LaneWord) : List (Nat × Option (BitVec 32) × Nat × Nat) :=
  s.handleExtra c.team.core (c.src w.a.toNat c.lowLane)

/-- arv (R196): one gang arrival. -/
def execArv (w : LaneWord) (s : State) : Host.Outcome State Fault Refusal :=
  issueLane (.arv w) w s (fun _ => 6)
    (fun c => c.arvExtra s w)
    fun c s => s.barChange c.team.core (c.src w.a.toNat c.lowLane) 0 0 1 false (c.blame 0)

/-- The cycle from which an object's visible phase differs from P, as known now (R197). -/
def phaseLeft (b : Barrier) (now : Nat) (p : BitVec 16) : Option Nat :=
  if visiblePhase b now ≠ p then some now
  else
    let later := (b.hist.filter fun e => decide (e.1 + 6 > now)).map fun e => e.1 + 6
    leastOf (later.filter fun c => visiblePhase b c ≠ p)
where
  /-- The least of a list. -/
  leastOf : List Nat → Option Nat
    | [] => none
    | x :: r => some (r.foldl min x)

/-- bwt (R197): the group stops until the object's visible phase differs from P, watching the object under its handle also
while a change that is already made is not yet visible. -/
def execLaneBwt (w : LaneWord) (s : State) : Host.Outcome State Fault Refusal :=
  issueLane (.laneBwt w) w s (fun _ => 0)
    (fun c => c.spanExtra ++ c.arvExtra s w)
    fun c s =>
      let h := c.src w.a.toNat c.lowLane
      let p := (c.src (w.a.toNat + 1) c.lowLane).setWidth 16
      let b := (s.core c.team.core).bar (handleIdx h)
      let wait (s : State) : State := c.modGroup s fun gr => { gr with wait := .bwt h p }
      match phaseLeft b s.now p with
      | some x => if x ≤ s.now then s else (wait s).push x 48 (.bwtResume c.ref c.quads)
      | none => wait s

/-- BWT_RESUME (R197): the object has advanced; each group of the gang that waits on it under a live handle goes on when
the visible phase differs from its P. In a halted heat it may go on from its stop point. -/
def execBwtResume (s : State) : Host.Outcome State Fault Refusal :=
  match s.arg with
  | .bwtResume g _ =>
    match s.team? ⟨g.hid, g.team⟩ with
    | none => .next s
    | some t =>
      let now := s.now - s.teamBase ⟨g.hid, g.team⟩
      let stop := ((s.heat? g.hid).bind (·.halt)).map (·.2)
      let from' := min now (stop.getD now)
      let wake (gr : Group) : Group := match gr.wait with
        | .bwt h p =>
          let b := (s.core t.core).bar (handleIdx h)
          if b.alloc && b.gen == handleGen h && visiblePhase b s.now != p then { gr with wait := .none, ready := from' }
          else gr
        | _ => gr
      .next (s.modGang g fun x => { x with groups := x.groups.map wake })
  | _ => .fault .noData

/-- trap (R198): a software trap at the issue cycle; the stream stops before it, to go on at the header after its clause
(R322). -/
def execLaneTrap (w : LaneWord) (s : State) : Host.Outcome State Fault Refusal :=
  checkLane (.laneTrap w) w s (fun _ => []) fun c =>
    (c.stop s).detect
      { c.blame 0x10 with res := true, swcode := w.imm % 256, ret := c.clause.nextAddr }

/-- Follow a retirement (R47, R58, R211): the team's exchange sessions close when it has retired, and the heat closes when
all have. -/
def State.afterRetire (s : State) (r : TeamRef) : State :=
  let s := s.modHeat r.hid fun h =>
    let h : Heat := match h.teams[r.team]? with
      | some t =>
        if t.retired then
          { h with sessions := h.sessions.filter fun x => !(x.1 == clusterOf t.core && x.2.1.testBit (crewIndex t)) }
        else h
      | none => h
    if h.allRetired && h.status == .running then { h with status := .closing } else h
  s.afterCounter r.hid

/-- The breach of a lane `end` (R199, R330): quads parted or a span open. -/
def LCtx.endExtra (c : LCtx) : List (Nat × Option (BitVec 32) × Nat × Nat) :=
  if c.together && c.gang.spans == [] then [] else [(0x0C, none, 0, 0)]

/-- end (R47, R199): the gang retires. -/
def execLaneEnd (w : LaneWord) (s : State) : Host.Outcome State Fault Refusal :=
  issueLane (.laneEnd w) w s (fun _ => 0)
    (fun c => c.endExtra)
    fun c s => (s.modGang c.ref fun g => { g with retired := true }).afterRetire ⟨c.ref.hid, c.ref.team⟩

/-- nop (R199). -/
def execLaneNop (w : LaneWord) (s : State) : Host.Outcome State Fault Refusal :=
  issueLane (.laneNop w) w s (fun _ => 0) (fun _ => []) fun _ s => s

end Sys2Proof.Machine
end

