-- ==== Sys2Proof/Machine/Trans.lean ====
section
/-! DEFINITION. The transcendentals (R164, R165): the exact value of each function rounded once. Reciprocal and square
roots come from exact integer quotients with a sticky rest. The others come from integer enclosures of the exact value
that are refined until both ends round alike. -/
namespace Sys2Proof.Machine

/-- Integer square root by n binary digits, from the top: the greatest r with r^2 at most x, for x below 4^n. -/
def isqrtBits (x : Nat) : Nat → Nat → Nat
  | 0, r => r
  | n + 1, r => if (r + 2 ^ n) * (r + 2 ^ n) ≤ x then isqrtBits x n (r + 2 ^ n) else isqrtBits x n r

/-- Integer square root. -/
def isqrt (x : Nat) : Nat := isqrtBits x (Nat.log2 x / 2 + 1) 0

/-- rcp.f32 (R164, R165). -/
def rcpF32 (mode : RMode) (x : Nat) : Nat :=
  match f32.decode x with
  | .nan => f32.canonNaN
  | .inf s => f32.pack s 0 0
  | .fin s m e =>
    if m = 0 then f32.infBits s
    else
      let k := Nat.log2 m + 100
      f32.roundMag mode s (2 ^ k / m) (-e - k) (2 ^ k % m != 0)

/-- sqrt.f32 (R164, R165). -/
def sqrtF32 (mode : RMode) (x : Nat) : Nat :=
  match f32.decode x with
  | .nan => f32.canonNaN
  | .inf s => if s then f32.canonNaN else x
  | .fin s m e =>
    if m = 0 then x
    else if s then f32.canonNaN
    else
      let odd := e % 2 != 0
      let n := (if odd then 2 * m else m) * 4 ^ 80
      let e' := (if odd then e - 1 else e) / 2 - 80
      let r := isqrt n
      f32.roundMag mode false r e' (r * r != n)

/-- rsq.f32 (R164, R165). -/
def rsqF32 (x : Nat) : Nat :=
  match f32.decode x with
  | .nan => f32.canonNaN
  | .inf s => if s then f32.canonNaN else 0
  | .fin s m e =>
    if m = 0 then f32.infBits s
    else if s then f32.canonNaN
    else
      let odd := e % 2 != 0
      let m' := if odd then 2 * m else m
      let e' := if odd then e - 1 else e
      let k := Nat.log2 m' + 80
      let r := isqrt (4 ^ k / m')
      f32.roundMag .rn false r (-(e' / 2) - k) (r * r * m' != 4 ^ k)

/-- Terms t, t z^2 / 3, … of twice-odd power series at P fractional bits: sum of z^(2i+1) / (2i+1). -/
def atanhTerms (P zz : Nat) : Nat → Nat → Nat → Nat
  | 0, _, _ => 0
  | fuel + 1, pw, i => if pw = 0 then 0 else pw / (2 * i + 1) + atanhTerms P zz fuel ((pw * zz) >>> P) (i + 1)

/-- ln 2 at P fractional bits, too low by less than 2^12. -/
def ln2Fix (P : Nat) : Nat := 2 * atanhTerms P (2 ^ P / 9) P (2 ^ P / 3) 0

/-- atan(1/n) at P fractional bits by alternating terms. -/
def atanInv (n : Nat) : Nat → Nat → Nat → Int
  | 0, _, _ => 0
  | fuel + 1, pw, i =>
    if pw = 0 then 0
    else (if i % 2 = 0 then ((pw / (2 * i + 1) : Nat) : Int) else -((pw / (2 * i + 1) : Nat) : Int)) +
      atanInv n fuel (pw / (n * n)) (i + 1)

/-- pi at P fractional bits, within 2^14 units, by Machin's formula. -/
def piFix (P : Nat) : Nat := (16 * atanInv 5 P (2 ^ P / 5) 0 - 4 * atanInv 239 P (2 ^ P / 239) 0).toNat

/-- The exponential series at P fractional bits: sum of t^k / k! from term k on. -/
def expTerms (P t : Nat) : Nat → Nat → Nat → Nat
  | 0, _, _ => 0
  | fuel + 1, term, k => if term = 0 then 0 else term + expTerms P t fuel (((term * t) >>> P) / k) (k + 1)

/-- The sine and cosine series at P fractional bits: alternating terms a, a t2 / (k (k+1)), … -/
def trigTerms (P t2 : Nat) : Nat → Nat → Nat → Bool → Int
  | 0, _, _, _ => 0
  | fuel + 1, term, k, neg =>
    if term = 0 then 0
    else (if neg then -(term : Int) else term) +
      trigTerms P t2 fuel (((term * t2) >>> P) / (k * (k + 1))) (k + 2) (!neg)

/-- Refine until the two ends of an enclosure round alike: `approx P` answers a magnitude and its exponent, exact within
2^20 units. With P bits of relative precision each round is final for all but a vanishing part of the operands. -/
def refine (neg : Bool) (approx : Nat → Nat × Int) : Nat → Nat → Nat
  | 0, P =>
    let a := approx P
    f32.roundMag .rn neg a.1 a.2 true
  | fuel + 1, P =>
    let a := approx P
    let lo := f32.roundMag .rn neg (a.1 - 2 ^ 20) a.2 true
    let hi := f32.roundMag .rn neg (a.1 + 2 ^ 20) a.2 true
    if lo = hi then lo else refine neg approx fuel (2 * P)

/-- ex2.f32 (R164, R165). -/
def ex2F32 (x : Nat) : Nat :=
  match f32.decode x with
  | .nan => f32.canonNaN
  | .inf s => if s then 0 else x
  | .fin s m e =>
    if m = 0 then 0x3F800000
    else if decide ((Nat.log2 m : Int) + e ≥ 9) then
      (if s then f32.roundMag .rn false 1 (-300) false else f32.roundMag .rn false 1 300 false)
    else
      let sp := splitAt m e 0
      -- a = n + r / 2^sh with 0 <= r < 2^sh
      let nr : Int × Nat :=
        if s then (if sp.2.1 = 0 then (-(sp.1 : Int), 0) else (-(sp.1 : Int) - 1, 2 ^ sp.2.2 - sp.2.1))
        else ((sp.1 : Int), sp.2.1)
      if nr.2 = 0 then f32.roundMag .rn false 1 nr.1 false
      else
        refine false (fun P =>
          let f := (nr.2 * 2 ^ P) >>> sp.2.2
          let t := (f * ln2Fix P) >>> P
          (expTerms P t P (2 ^ P) 1, nr.1 - P)) 4 128

/-- lg2.f32 (R164, R165). -/
def lg2F32 (x : Nat) : Nat :=
  match f32.decode x with
  | .nan => f32.canonNaN
  | .inf s => if s then f32.canonNaN else x
  | .fin s m e =>
    if m = 0 then f32.infBits true
    else if s then f32.canonNaN
    else
      let L := Nat.log2 m
      let k0 : Int := (L : Int) + e
      if m = 2 ^ L then f32.rne (FVal.int k0)
      else
        -- y = m / 2^L in (1, 2); above 1.41 halve it
        let big := decide (m * 100 > 141 * 2 ^ L)
        let d := if big then 2 ^ (L + 1) else 2 ^ L
        let k : Int := if big then k0 + 1 else k0
        let less := decide (m < d)
        let num := if less then d - m else m - d
        let ln (P : Nat) : Nat :=
          let z := (num * 2 ^ P) / (m + d)
          ((2 * atanhTerms P ((z * z) >>> P) P z 0) * 2 ^ P) / ln2Fix P
        let total (P : Nat) : Int :=
          let v : Int := ln P
          k * (2 ^ P : Nat) + (if less then -v else v)
        let neg := decide (total 128 < 0)
        refine neg (fun P => ((total P).natAbs, -(P : Int))) 4 128

/-- sin or cos of 2 pi g / 2^sh, for g / 2^sh in (0, 1/8], as a magnitude and exponent at working precision P. -/
def trigAt (isSin : Bool) (g sh P : Nat) : Nat × Int :=
  let Q := P + (sh - Nat.log2 g)
  let th := (2 * piFix Q * g) >>> sh
  let t2 := (th * th) >>> Q
  ((if isSin then trigTerms Q t2 Q th 2 false else trigTerms Q t2 Q (2 ^ Q) 1 false).toNat, -(Q : Int))

/-- sint and cost (R164, R165): the argument in turns, reduced exactly to an octant. -/
def sincosT (wantCos : Bool) (x : Nat) : Nat :=
  match f32.decode x with
  | .nan => f32.canonNaN
  | .inf _ => f32.canonNaN
  | .fin s m e =>
    if m = 0 then (if wantCos then 0x3F800000 else x)
    else
      let sp := splitAt m e 0
      let sh := sp.2.2
      let r := sp.2.1                               -- fraction of |a|, over 2^sh
      let q := (4 * r) >>> sh
      let f := 4 * r - q * 2 ^ sh                   -- 4 x offset in the quadrant, over 2^sh
      let cosLike := (q % 2 == 1) != wantCos
      -- sign of the function of |a| in quadrant q
      let sgn := if wantCos then q == 1 || q == 2 else q == 2 || q == 3
      let neg := if wantCos then sgn else sgn != s
      if f = 0 then
        (if cosLike then (if neg then 0xBF800000 else 0x3F800000)
         else if wantCos then 0 else (if s then 0x80000000 else 0))
      else
        -- the angle is f / (4 x 2^sh) turns in (0, 1/4)
        let past := decide (2 * f > 2 ^ sh)
        let g := if past then 2 ^ sh - f else f
        let isSin := cosLike == past
        refine neg (fun P => trigAt isSin g (sh + 2) P) 4 128

/-- sint (R164). -/
def sintF32 (x : Nat) : Nat := sincosT false x
/-- cost (R164). -/
def costF32 (x : Nat) : Nat := sincosT true x

end Sys2Proof.Machine
end

