-- ==== Sys2Proof/Machine/LaneArith.lean ====
section
/-! DEFINITION. Lane set I (R153-R174): integer, bit, floating and packed arithmetic, transcendentals, compares,
conversions, dot products, ternary and mask instructions. -/
namespace Sys2Proof.Machine

/-- A signed 32-bit result, wrapped or saturated (R156). -/
def resI32 (st : Bool) (r : Int) : Word := wrap32 (if st then satI 32 r else r)

/-- Integer arithmetic on signed operands (R156). -/
def laneInt (i : Instr) (w : LaneWord) (s : State) (st : Bool) (f : Int → Int → Int → Int) :
    Host.Outcome State Fault Refusal :=
  laneCompute i w s 4 fun c l => resI32 st (f (sw (c.src w.a.toNat l)) (sw (c.srcB w l)) (sw (c.src w.c l)))

/-- Operations on plain 32-bit words A and B (R159). -/
def laneBits (i : Instr) (w : LaneWord) (s : State) (f : Nat → Nat → Nat) : Host.Outcome State Fault Refusal :=
  laneCompute i w s 4 fun c l => BitVec.ofNat 32 (f (c.src w.a.toNat l).toNat (c.srcB w l).toNat)

/-- add.i32 (R156). -/
def execAddI32 (w : LaneWord) (s : State) := laneInt (.addI32 w) w s w.sat fun a b _ => a + b
/-- sub.i32 (R156). -/
def execSubI32 (w : LaneWord) (s : State) := laneInt (.subI32 w) w s w.sat fun a b _ => a - b
/-- mul.i32 (R156). -/
def execMulI32 (w : LaneWord) (s : State) := laneInt (.mulI32 w) w s w.sat fun a b _ => a * b
/-- mad.i32 (R156). -/
def execMadI32 (w : LaneWord) (s : State) := laneInt (.madI32 w) w s w.sat fun a b c => a * b + c
/-- min.i32 (R156). -/
def execMinI32 (w : LaneWord) (s : State) := laneInt (.minI32 w) w s false fun a b _ => min a b
/-- max.i32 (R156). -/
def execMaxI32 (w : LaneWord) (s : State) := laneInt (.maxI32 w) w s false fun a b _ => max a b
/-- min.n32 (R156). -/
def execMinN32 (w : LaneWord) (s : State) := laneBits (.minN32 w) w s fun a b => min a b
/-- max.n32 (R156). -/
def execMaxN32 (w : LaneWord) (s : State) := laneBits (.maxN32 w) w s fun a b => max a b
/-- abs.i32 (R156). -/
def execAbsI32 (w : LaneWord) (s : State) := laneInt (.absI32 w) w s w.sat fun a _ _ => (a.natAbs : Int)
/-- neg.i32 (R156). -/
def execNegI32 (w : LaneWord) (s : State) := laneInt (.negI32 w) w s w.sat fun a _ _ => -a
/-- mulh.i32 (R156). -/
def execMulhI32 (w : LaneWord) (s : State) := laneInt (.mulhI32 w) w s false fun a b _ => (a * b) / 2 ^ 32
/-- mulh.n32 (R156). -/
def execMulhN32 (w : LaneWord) (s : State) := laneBits (.mulhN32 w) w s fun a b => (a * b) / 2 ^ 32
/-- add.sat.i32 (R156). -/
def execAddSatI32 (w : LaneWord) (s : State) := laneInt (.addSatI32 w) w s true fun a b _ => a + b
/-- sub.sat.i32 (R156). -/
def execSubSatI32 (w : LaneWord) (s : State) := laneInt (.subSatI32 w) w s true fun a b _ => a - b

/-- 64-bit sums on pairs (R157). -/
def lane64 (i : Instr) (w : LaneWord) (s : State) (f : Int → Int → Int) : Host.Outcome State Fault Refusal :=
  issueLane i w s (fun _ => 4) (fun _ => []) fun c s =>
    s.push (s.now + 4) 10 (.laneResult c.ref (c.landing64 w i ((lanesOf c.active).map fun l =>
      let b : Int := if w.imb then sextInt w.imm 16 else sextInt (c.pair w.b.toNat l) 64
      let r := f (sextInt (c.pair w.a.toNat l) 64) b
      (l, wrapN 64 (if w.sat then satI 64 r else r)))))

/-- add.i64 (R157). -/
def execAddI64 (w : LaneWord) (s : State) := lane64 (.addI64 w) w s fun a b => a + b
/-- sub.i64 (R157). -/
def execSubI64 (w : LaneWord) (s : State) := lane64 (.subI64 w) w s fun a b => a - b

/-- Logical shift left; 0 for 32 or more (R159). -/
def shlN (a b : Nat) : Nat := if b % 256 ≥ 32 then 0 else (a <<< (b % 256)) % 2 ^ 32
/-- Logical shift right; 0 for 32 or more (R159). -/
def shrN (a b : Nat) : Nat := if b % 256 ≥ 32 then 0 else a >>> (b % 256)
/-- Arithmetic shift right by at most 31 (R159). -/
def sarN (a b : Nat) : Nat := wrapN 32 (sextInt a 32 / (2 ^ min (b % 256) 31 : Nat))
/-- Rotate left by n mod 32 (R159). -/
def rotN (a b : Nat) : Nat := let n := b % 32; ((a <<< n) % 2 ^ 32) ||| (a >>> (32 - n))
/-- a and not b (R159). -/
def andnN (a b : Nat) : Nat := a &&& (b ^^^ 0xFFFFFFFF)
/-- Number of 1 bits (R159). -/
def popN (a : Nat) : Nat := ((List.range 32).filter fun i => a.testBit i).length
/-- Leading zero bits; 32 for 0 (R159). -/
def clzN (a : Nat) : Nat := if a = 0 then 32 else 31 - Nat.log2 a
/-- Bit reversal (R159). -/
def brevN (a : Nat) : Nat := (List.range 32).foldl (fun acc i => if a.testBit i then acc + 2 ^ (31 - i) else acc) 0
/-- Field length: 0 means 32 (R160). -/
def fieldLen (n : Nat) : Nat := if n = 0 then 32 else n
/-- Insert a field (R160): bits pos + len - 1 : pos of c replaced by a. -/
def bfiN (a c pos len : Nat) : Nat :=
  let m := ((2 ^ len - 1) <<< pos) % 2 ^ 32
  (c &&& (m ^^^ 0xFFFFFFFF)) ||| ((a <<< pos) % 2 ^ 32 &&& m)

/-- and (R159). -/
def execLaneAnd (w : LaneWord) (s : State) := laneBits (.laneAnd w) w s fun a b => a &&& b
/-- or (R159). -/
def execLaneOr (w : LaneWord) (s : State) := laneBits (.laneOr w) w s fun a b => a ||| b
/-- xor (R159). -/
def execLaneXor (w : LaneWord) (s : State) := laneBits (.laneXor w) w s fun a b => a ^^^ b
/-- andn (R159). -/
def execLaneAndn (w : LaneWord) (s : State) := laneBits (.laneAndn w) w s andnN
/-- shl (R159). -/
def execLaneShl (w : LaneWord) (s : State) := laneBits (.laneShl w) w s shlN
/-- shr (R159). -/
def execLaneShr (w : LaneWord) (s : State) := laneBits (.laneShr w) w s shrN
/-- sar (R159). -/
def execLaneSar (w : LaneWord) (s : State) := laneBits (.laneSar w) w s sarN
/-- rot (R159). -/
def execLaneRot (w : LaneWord) (s : State) := laneBits (.laneRot w) w s rotN
/-- pop (R159). -/
def execLanePop (w : LaneWord) (s : State) := laneBits (.lanePop w) w s fun a _ => popN a
/-- clz (R159). -/
def execLaneClz (w : LaneWord) (s : State) := laneBits (.laneClz w) w s fun a _ => clzN a
/-- brev (R159). -/
def execLaneBrev (w : LaneWord) (s : State) := laneBits (.laneBrev w) w s fun a _ => brevN a

/-- bfx and bfx.s (R160). -/
def execLaneBfx (w : LaneWord) (s : State) :=
  laneCompute (.laneBfx w) w s 4 fun c l =>
    let len := fieldLen (bits w.imm 4 0)
    let x := (c.src w.a.toNat l).toNat >>> bits w.imm 9 5
    if w.sub = 1 then wrap32 (sextInt x len) else BitVec.ofNat 32 (x % 2 ^ len)

/-- The breach of `bfi` (R160, R331): a field that reaches beyond 32 bits in a real active lane. -/
def LCtx.bfiExtra (c : LCtx) (w : LaneWord) : List (Nat × Option (BitVec 32) × Nat × Nat) :=
  let bad := (lanesOf c.active).filter fun l =>
    let b := (c.srcB w l).toNat
    c.real l && decide (bits b 9 5 + fieldLen (bits b 4 0) > 32)
  if bad = [] then [] else [(0x25, none, 0, 0)]

/-- bfi (R160): the field is named by b, so a field beyond 32 bits in any real active lane is a breach (R331). -/
def execLaneBfi (w : LaneWord) (s : State) : Host.Outcome State Fault Refusal :=
  issueLane (.laneBfi w) w s (fun _ => 4)
    (fun c => c.bfiExtra w)
    fun c s =>
      s.push (s.now + 4) 10 (.laneResult c.ref (c.landing w (.laneBfi w) ((lanesOf c.active).map fun l =>
        let b := (c.srcB w l).toNat
        (l, BitVec.ofNat 32 (bfiN (c.src w.a.toNat l).toNat (c.src w.c l).toNat (bits b 9 5) (fieldLen (bits b 4 0)))))))

/-- sel (R161). -/
def execSel (w : LaneWord) (s : State) :=
  laneCompute (.sel w) w s 4 fun c l => if c.src w.c l ≠ 0 then c.src w.a.toNat l else c.srcB w l
/-- mov (R161). -/
def execLaneMov (w : LaneWord) (s : State) := laneCompute (.laneMov w) w s 4 fun c l => c.srcB w l
/-- mov.hi (R161): IMM << 16, whether IMB is 1 or 0 (log 94). -/
def execMovHi (w : LaneWord) (s : State) :=
  laneCompute (.movHi w) w s 4 fun _ _ => BitVec.ofNat 32 (w.imm * 2 ^ 16)

/-- A floating sum, difference or product of bits of format F (R162, R163), rounded once. -/
def fpOp (F : Fmt) (op : Nat) (mode : RMode) (a b c : Nat) : Nat :=
  let x := F.decode a
  let y := F.decode b
  F.rnd mode (match op with
    | 0 => FVal.add mode.isRd x y
    | 1 => FVal.add mode.isRd x y.neg
    | 2 => FVal.mul x y
    | _ => FVal.add mode.isRd (FVal.mul x y) (F.decode c))

/-- f32 arithmetic (R162): 0 add, 1 sub, 2 mul, 3 fma. -/
def laneF32 (i : Instr) (w : LaneWord) (s : State) (op : Nat) : Host.Outcome State Fault Refusal :=
  laneCompute i w s 4 fun c l =>
    BitVec.ofNat 32 (fpOp f32 op (c.mode w l 0) (c.src w.a.toNat l).toNat (c.srcBF w l).toNat (c.src w.c l).toNat)

/-- add.f32 (R162). -/
def execAddF32 (w : LaneWord) (s : State) := laneF32 (.addF32 w) w s 0
/-- sub.f32 (R162). -/
def execSubF32 (w : LaneWord) (s : State) := laneF32 (.subF32 w) w s 1
/-- mul.f32 (R162). -/
def execMulF32 (w : LaneWord) (s : State) := laneF32 (.mulF32 w) w s 2
/-- fma.f32 (R162). -/
def execFmaF32 (w : LaneWord) (s : State) := laneF32 (.fmaF32 w) w s 3
/-- min.f32 (R162). -/
def execMinF32 (w : LaneWord) (s : State) :=
  laneCompute (.minF32 w) w s 4 fun c l =>
    BitVec.ofNat 32 (f32.minMax false (c.src w.a.toNat l).toNat (c.srcBF w l).toNat)
/-- max.f32 (R162). -/
def execMaxF32 (w : LaneWord) (s : State) :=
  laneCompute (.maxF32 w) w s 4 fun c l =>
    BitVec.ofNat 32 (f32.minMax true (c.src w.a.toNat l).toNat (c.srcBF w l).toNat)
/-- abs.f32 (R162): bits only. -/
def execAbsF32 (w : LaneWord) (s : State) :=
  laneCompute (.absF32 w) w s 4 fun c l => c.src w.a.toNat l &&& 0x7FFFFFFF
/-- neg.f32 (R162): bits only. -/
def execNegF32 (w : LaneWord) (s : State) :=
  laneCompute (.negF32 w) w s 4 fun c l => c.src w.a.toNat l ^^^ 0x80000000
/-- rint.f32 (R162). -/
def execRintF32 (w : LaneWord) (s : State) :=
  laneCompute (.rintF32 w) w s 4 fun c l => BitVec.ofNat 32 (rintF32 (c.mode w l 0) (c.src w.a.toNat l).toNat)

/-- Half e of a packed word. -/
def half (x e : Nat) : Nat := (x >>> (16 * e)) % 2 ^ 16

/-- Packed arithmetic on the two 16-bit halves (R158, R163). -/
def lanePacked (i : Instr) (w : LaneWord) (s : State) (f : LCtx → Nat → Nat → Nat → Nat → Nat → Nat) :
    Host.Outcome State Fault Refusal :=
  laneCompute i w s 4 fun c l =>
    let a := (c.src w.a.toNat l).toNat
    let b := (c.srcBP w l).toNat
    let d := (c.src w.c l).toNat
    BitVec.ofNat 32 (f c l 0 (half a 0) (half b 0) (half d 0) + 2 ^ 16 * f c l 1 (half a 1) (half b 1) (half d 1))

/-- A packed floating operation rounded per element (R163). -/
def packedF (F : Fmt) (op : Nat) (w : LaneWord) (c : LCtx) (l e a b d : Nat) : Nat := fpOp F op (c.mode w l e) a b d

/-- A packed i16 result, wrapped or saturated (R158). -/
def packedI (w : LaneWord) (r : Int) : Nat := wrapN 16 (if w.sat then satI 16 r else r)

/-- add.i16x2 (R158). -/
def execAddI16x2 (w : LaneWord) (s : State) :=
  lanePacked (.addI16x2 w) w s fun _ _ _ a b _ => packedI w (sextInt a 16 + sextInt b 16)
/-- sub.i16x2 (R158). -/
def execSubI16x2 (w : LaneWord) (s : State) :=
  lanePacked (.subI16x2 w) w s fun _ _ _ a b _ => packedI w (sextInt a 16 - sextInt b 16)
/-- add.bf16x2 (R163). -/
def execAddBf16x2 (w : LaneWord) (s : State) := lanePacked (.addBf16x2 w) w s (packedF bf16 0 w)
/-- sub.bf16x2 (R163). -/
def execSubBf16x2 (w : LaneWord) (s : State) := lanePacked (.subBf16x2 w) w s (packedF bf16 1 w)
/-- mul.bf16x2 (R163). -/
def execMulBf16x2 (w : LaneWord) (s : State) := lanePacked (.mulBf16x2 w) w s (packedF bf16 2 w)
/-- fma.bf16x2 (R163). -/
def execFmaBf16x2 (w : LaneWord) (s : State) := lanePacked (.fmaBf16x2 w) w s (packedF bf16 3 w)
/-- min.bf16x2 (R163). -/
def execMinBf16x2 (w : LaneWord) (s : State) :=
  lanePacked (.minBf16x2 w) w s fun _ _ _ a b _ => bf16.minMax false a b
/-- max.bf16x2 (R163). -/
def execMaxBf16x2 (w : LaneWord) (s : State) :=
  lanePacked (.maxBf16x2 w) w s fun _ _ _ a b _ => bf16.minMax true a b
/-- add.f16x2 (R163). -/
def execAddF16x2 (w : LaneWord) (s : State) := lanePacked (.addF16x2 w) w s (packedF f16 0 w)
/-- sub.f16x2 (R163). -/
def execSubF16x2 (w : LaneWord) (s : State) := lanePacked (.subF16x2 w) w s (packedF f16 1 w)
/-- mul.f16x2 (R163). -/
def execMulF16x2 (w : LaneWord) (s : State) := lanePacked (.mulF16x2 w) w s (packedF f16 2 w)
/-- fma.f16x2 (R163). -/
def execFmaF16x2 (w : LaneWord) (s : State) := lanePacked (.fmaF16x2 w) w s (packedF f16 3 w)
/-- min.f16x2 (R163). -/
def execMinF16x2 (w : LaneWord) (s : State) :=
  lanePacked (.minF16x2 w) w s fun _ _ _ a b _ => f16.minMax false a b
/-- max.f16x2 (R163). -/
def execMaxF16x2 (w : LaneWord) (s : State) :=
  lanePacked (.maxF16x2 w) w s fun _ _ _ a b _ => f16.minMax true a b

/-- A transcendental: 12 cycles (R164). -/
def laneTrans (i : Instr) (w : LaneWord) (s : State) (f : LCtx → Nat → Nat → Nat) : Host.Outcome State Fault Refusal :=
  laneCompute i w s 12 fun c l => BitVec.ofNat 32 (f c l (c.src w.a.toNat l).toNat)

/-- rcp.f32 (R164, R165). -/
def execRcpF32 (w : LaneWord) (s : State) := laneTrans (.rcpF32 w) w s fun c l x => rcpF32 (c.mode w l 0) x
/-- rsq.f32 (R164, R165). -/
def execRsqF32 (w : LaneWord) (s : State) := laneTrans (.rsqF32 w) w s fun _ _ x => rsqF32 x
/-- sqrt.f32 (R164, R165). -/
def execSqrtF32 (w : LaneWord) (s : State) := laneTrans (.sqrtF32 w) w s fun c l x => sqrtF32 (c.mode w l 0) x
/-- ex2.f32 (R164, R165). -/
def execEx2F32 (w : LaneWord) (s : State) := laneTrans (.ex2F32 w) w s fun _ _ x => ex2F32 x
/-- lg2.f32 (R164, R165). -/
def execLg2F32 (w : LaneWord) (s : State) := laneTrans (.lg2F32 w) w s fun _ _ x => lg2F32 x
/-- sint (R164, R165). -/
def execSint (w : LaneWord) (s : State) := laneTrans (.sint w) w s fun _ _ x => sintF32 x
/-- cost (R164, R165). -/
def execCost (w : LaneWord) (s : State) := laneTrans (.cost w) w s fun _ _ x => costF32 x

/-- A condition on an ordered comparison (R141, R166): `un` says that an operand is NaN. -/
def condHolds (cond : Nat) (un : Bool) (c : Int) : Bool :=
  match cond with
  | 0 => !un && decide (c = 0)
  | 1 => un || decide (c ≠ 0)
  | 2 => !un && decide (c < 0)
  | 3 => !un && decide (c ≤ 0)
  | 4 => !un && decide (c > 0)
  | 5 => !un && decide (c ≥ 0)
  | 6 => un
  | _ => !un

/-- f32 comparison (R166). -/
def cmpF32Holds (cond a b : Nat) : Bool :=
  let x := f32.decode a
  let y := f32.decode b
  condHolds cond (x == .nan || y == .nan) (x.cmp y)

/-- Sign of a - b. -/
def cmpInt (a b : Int) : Int := if a < b then -1 else if a = b then 0 else 1

/-- The lanes of a list for which f holds, as a word. -/
def maskOf (ls : List Nat) (f : Nat → Bool) : Word :=
  ls.foldl (fun m l => if f l then m ||| (1#32 <<< l) else m) 0

/-- A LANE INSTRUCTION THAT WRITES A MASK: bits of active lanes land at t + 4, m0 is not written (R75, R166, R173); with no
active lane nothing is written (R85). -/
def laneMask (i : Instr) (w : LaneWord) (s : State) (f : LCtx → Nat → Bool) : Host.Outcome State Fault Refusal :=
  issueLane i w s (fun _ => 4) (fun _ => []) fun c s =>
    let d := w.d.toNat % 8
    s.push (s.now + 4) 10 (.laneResult c.ref
      { vs := [], xs := [], wins := [], latch := none, flag := none,
        ms := if d = 0 ∨ c.active = 0 then [] else [(d, c.active, maskOf (lanesOf c.active) (f c))] })

/-- cmp.f32 (R166). -/
def execCmpF32 (w : LaneWord) (s : State) :=
  laneMask (.cmpF32 w) w s fun c l => cmpF32Holds w.sub (c.src w.a.toNat l).toNat (c.srcBF w l).toNat
/-- cmp.i32 (R166). -/
def execCmpI32 (w : LaneWord) (s : State) :=
  laneMask (.cmpI32 w) w s fun c l => condHolds w.sub false (cmpInt (sw (c.src w.a.toNat l)) (sw (c.srcB w l)))
/-- cmp.n32 (R166). -/
def execCmpN32 (w : LaneWord) (s : State) :=
  laneMask (.cmpN32 w) w s fun c l =>
    condHolds w.sub false (cmpInt ((c.src w.a.toNat l).toNat : Int) ((c.srcB w l).toNat : Int))

/-- A narrow scalar result in a register (R154): i8 and i16 sign-extended, others with zeros above. -/
def placeScalar (fmt x : Nat) : Nat :=
  match intFmt fmt with
  | some (true, n) => if n ≤ 16 then wrapN 32 (sextInt x n) else x
  | _ => x

/-- cvt (R167, R168). -/
def execCvt (w : LaneWord) (s : State) :=
  laneCompute (.cvt w) w s 4 fun c l =>
    let df := bits w.imm 4 0
    let sf := bits w.imm 9 5
    let ws := cvtWidth sf
    let wd := cvtWidth df
    let a := (c.src w.a.toNat l).toNat
    let el (e x : Nat) := convert df sf (c.mode w l e) x
    if !w.imm.testBit 10 then BitVec.ofNat 32 (placeScalar df (el 0 (a % 2 ^ ws)))
    else if ws = 32 then BitVec.ofNat 32 (el 0 a + 2 ^ wd * el 1 (c.src w.c l).toNat)
    else BitVec.ofNat 32 (el 0 (a % 2 ^ ws) + 2 ^ wd * el 1 ((a >>> ws) % 2 ^ ws))

/-- Byte k of a number. -/
def byteAt (x k : Nat) : Nat := (x >>> (8 * k)) % 256

/-- dp4.i8 (R169). -/
def execDp4I8 (w : LaneWord) (s : State) :=
  laneCompute (.dp4I8 w) w s 4 fun c l =>
    let a := (c.src w.a.toNat l).toNat
    let b := (c.srcB w l).toNat
    resI32 w.sat (sw (c.src w.c l) +
      ([0, 1, 2, 3].map fun k => sextInt (byteAt a k) 8 * sextInt (byteAt b k) 8).foldl (· + ·) 0)
/-- dp4.n8 (R169). -/
def execDp4N8 (w : LaneWord) (s : State) :=
  laneCompute (.dp4N8 w) w s 4 fun c l =>
    let a := (c.src w.a.toNat l).toNat
    let b := (c.srcB w l).toNat
    let r := (c.src w.c l).toNat + ([0, 1, 2, 3].map fun k => byteAt a k * byteAt b k).foldl (· + ·) 0
    BitVec.ofNat 32 (if w.sat then min r (2 ^ 32 - 1) else r)

/-- Plus and minus masks of a t5 byte in unpacked form (R170). -/
def unpack5 (v : Nat) : Nat :=
  (List.range 5).foldl (fun acc k =>
    match trit v k with
    | 1 => acc + 2 ^ k
    | -1 => acc + 2 ^ (8 + k)
    | _ => acc) 0

/-- unp5 (R170): the trits to D, the invalid-code bits to m[K]. -/
def execUnp5 (w : LaneWord) (s : State) : Host.Outcome State Fault Refusal :=
  issueLane (.unp5 w) w s (fun _ => 4) (fun _ => []) fun c s =>
    let v (l : Nat) := byteAt (c.src w.a.toNat l).toNat (bits w.imm 4 3)
    let k := bits w.imm 2 0
    let land := c.landing w (.unp5 w) ((lanesOf c.active).map fun l => (l, BitVec.ofNat 32 (unpack5 (v l))))
    s.push (s.now + 4) 10 (.laneResult c.ref
      { land with ms := if k = 0 ∨ c.active = 0 then [] else [(k, c.active, maskOf (lanesOf c.active) fun l => decide (v l ≥ 243))] })

/-- The t5 byte of an unpacked word (R171). -/
def pack5 (a : Nat) : Nat :=
  (List.range 5).foldl (fun acc k =>
    let p := a.testBit k
    let n := a.testBit (8 + k)
    acc + (if p && !n then 3 ^ k else if n && !p then 2 * 3 ^ k else 0)) 0

/-- pk5 (R171). -/
def execPk5 (w : LaneWord) (s : State) :=
  laneCompute (.pk5 w) w s 4 fun c l =>
    BitVec.ofNat 32 ((c.src w.b.toNat l).toNat * 256 % 2 ^ 32 + pack5 (c.src w.a.toNat l).toNat)

/-- tacc (R172). -/
def execTacc (w : LaneWord) (s : State) :=
  laneCompute (.tacc w) w s 4 fun c l =>
    let a := (c.src w.a.toNat l).toNat
    let act := c.pair w.b.toNat l
    let o := bits w.imm 1 0
    let term (k : Nat) : Int :=
      ((if a.testBit k then 1 else 0) - (if a.testBit (8 + k) then 1 else 0)) * sextInt (byteAt act (o + k)) 8
    resI32 w.sat (sw (c.src w.c l) + ([0, 1, 2, 3, 4].map term).foldl (· + ·) 0)

/-- mand (R173). -/
def execMand (w : LaneWord) (s : State) :=
  laneMask (.mand w) w s fun c l => (c.gang.mask w.a.toNat).getLsbD l && (c.gang.mask w.b.toNat).getLsbD l
/-- mor (R173). -/
def execMor (w : LaneWord) (s : State) :=
  laneMask (.mor w) w s fun c l => (c.gang.mask w.a.toNat).getLsbD l || (c.gang.mask w.b.toNat).getLsbD l
/-- mxor (R173). -/
def execMxor (w : LaneWord) (s : State) :=
  laneMask (.mxor w) w s fun c l => (c.gang.mask w.a.toNat).getLsbD l != (c.gang.mask w.b.toNat).getLsbD l
/-- mnot (R173). -/
def execMnot (w : LaneWord) (s : State) := laneMask (.mnot w) w s fun c l => !(c.gang.mask w.a.toNat).getLsbD l
/-- mpop (R174). -/
def execMpop (w : LaneWord) (s : State) :=
  laneCompute (.mpop w) w s 4 fun c l =>
    let m := (c.gang.mask w.a.toNat).toNat
    BitVec.ofNat 32 (popN m + 2 ^ 8 * popN (m % 2 ^ l) + (if m.testBit l then 2 ^ 16 else 0))

end Sys2Proof.Machine
end

