-- ==== Sys2Proof/Machine/Cox.lean ====
section
/-! DEFINITION. The uniform set (R200-R224, R229, R230): scalar arithmetic, predicates, control, time, crew
synchronisation, barriers, tables, generators, seeds, owner flips, traps and system registers. Engine commands and
messages stand in their own files. -/
namespace Sys2Proof.Machine

/-! ## The shared way a cox instruction issues -/

/-- A k register as the cox reads it (R73, R200). -/
def UCtx.k (c : UCtx) (n : Nat) : Word := Store.get 0 c.team.k n
/-- A k register as a number. -/
def UCtx.kn (c : UCtx) (n : Nat) : Nat := (c.k n).toNat
/-- A k pair, low word first (R200). -/
def UCtx.pair (c : UCtx) (n : Nat) : Nat := c.kn n + 2 ^ 32 * c.kn (n + 1)
/-- A predicate (R74): p0 reads 1. -/
def UCtx.p (c : UCtx) (n : Nat) : Bool := n == 0 || c.team.p.getLsbD n
/-- The k registers that an instruction reads (R200-R230). -/
def kSources (i : Instr) (len : Nat) : List Nat :=
  match Parts.of i with
  | some (.ua op w) =>
    let a := w.a.toNat
    let b := w.b.toNat
    if op = 0x41 ∨ op = 0x53 then [a, a + 1]
    else if op = 0x47 ∨ op = 0x3B ∨ op = 0x3C then [a, a + 1, b, b + 1]
    else if op = 0x0F then [a, b, w.d.toNat]
    else if op = 0x33 then [a, b, w.fn.toNat]
    else if op ≥ 0x1B ∧ op ≤ 0x1D then []
    else
      let sh := uaShape op
      (if sh.2.1 then [a] else []) ++ (if sh.2.2.1 then [b] else [])
  | some (.ui op w) => if op = 0x17 ∨ op = 0x18 ∨ op = 0x49 ∨ op = 0x4A ∨ op = 0x4D then [] else [w.a.toNat]
  | some (.ub op w) => if op = 0x22 then [48 + w.cond.toNat] else []
  | some (.ue op w) =>
    ((List.range len).map fun j => w.d.toNat + j) ++
      (if op = 0x45 ∨ op = 0x48 ∨ w.flags.getLsbD 11 then [w.a.toNat] else [])
  | _ => []

/-- The descriptor words of a UE command (R218). -/
def descLen (i : Instr) : Nat :=
  match Parts.of i with
  | some (.ue op w) => (ueShape op w.flags.toNat).1
  | _ => 0

/-- The places of the k registers that a cox instruction reads (R349). -/
def UCtx.reads (c : UCtx) (i : Instr) : List Nat :=
  (kSources i (descLen i)).map fun n => teamPlace c.ref (256 + n)

/-- Whether a k register that the instruction reads holds an error that cannot be corrected (R349). -/
def UCtx.registerError (c : UCtx) (s : State) (i : Instr) : Bool := s.uncorrectable 2 (c.reads i).contains

/-- Whether an instruction is one of those a handler may issue (R325). -/
def inHandler (i : Instr) : Bool :=
  match Parts.of i with
  | some (.ua op _) =>
    op ≤ 0x0F || (op ≥ 0x19 && op ≤ 0x1E) || (op ≥ 0x30 && op ≤ 0x3C) || op == 0x4C || op == 0x4E || op == 0x4F
  | some (.ui op _) => op != 0x4D
  | some (.ub _ _) => true
  | _ => false

/-- Whether an instruction is privileged (R230). -/
def isPrivileged (i : Instr) : Bool :=
  match Parts.of i with
  | some (.ua op _) => op == 0x4C
  | some (.ui op _) => op == 0x4A || op == 0x4B
  | _ => false

/-- The cox after its instruction: further in its clause, or before the next header (R135). -/
def Cox.advance (x : Cox) (cl : Clause) (i : Instr) (t completion : Nat) : Cox :=
  match cl.advance i 0 completion with
  | some cl' => { x with clause := some cl', ready := t + 1, resume := none }
  | none => { x with clause := none, pc := cl.nextAddr, branched := false, ready := t + 1, resume := none }

/-- COMMIT the issue of a cox instruction that completes L cycles later: its count advances, its flag is set, corrected errors
of what it reads are counted (R349), and the stream moves on (R218, R322). -/
def UCtx.commit (c : UCtx) (s : State) (i : Instr) (L : Nat) : State :=
  let done := c.base + c.t + L
  (s.corrected 2 (c.reads i).contains).modCox c.ref fun x =>
    { (x.setFlag (flagFor c.clause i) (flagHold c.clause done)).advance c.clause i c.t done with count := x.count + 1 }

/-- THE CAUSES OF EVERY BREACH of a cox instruction at its issue (R230, R328, R330-R332, R337, R349), `own` those of its own
rule. -/
def UCtx.causes (c : UCtx) (s : State) (i : Instr) (own : List (Nat × Nat × Nat)) : List Nat :=
  match c.clause.unread true c.cox.flags (!c.handling) with
  | [] => clauseBreaches true c.cox.flags c.clause i (!c.handling) ++ wordBreaches true c.clause i ++
      breach (c.registerError s i) 0xF3 ++ breach (isPrivileged i && !c.handling) 0x09 ++ own.map (·.1)
  | x => x

/-- CHECK A COX INSTRUCTION AT ITS ISSUE: with any breach it takes the issue fault of the lowest cause (R328), or in
handler mode aborts the heat (R325); otherwise it goes on as `go` says. `extra` lists the breaches of the instruction's
own rule with the address and INFO of each. -/
def checkUni (i : Instr) (s : State) (extra : UCtx → List (Nat × Nat × Nat)) (go : UCtx → State) :
    Host.Outcome State Fault Refusal :=
  match uniCtx s with
  | none => wrongSet s
  | some c =>
    let own := extra c
    match lowest (c.causes s i own) with
    | some cause =>
      if c.handling then .next (s.abortHandler c.ref.hid 0xF7)
      else match own.find? (fun e => e.1 == cause) with
        | some e => .next (c.issueFault s cause e.2.1 e.2.2)
        | none => .next (c.issueFault s cause (if cause = 0x66 then c.clause.missingAddr else 0) 0)
    | none => if c.handling && !inHandler i then .next (s.abortHandler c.ref.hid 0xF9) else .next (go c)

/-- ISSUE A COX INSTRUCTION that completes L cycles later: when it breaks nothing, its issue is committed and `act` gives
its effect. -/
def issueUni (i : Instr) (s : State) (L : Nat) (extra : UCtx → List (Nat × Nat × Nat)) (act : UCtx → State → State) :
    Host.Outcome State Fault Refusal :=
  checkUni i s extra fun c => act c (c.commit s i L)

/-- No result. -/
def CoxLanding.empty : CoxLanding := { ks := [], ps := [], ts := [], gs := [], nests := [], flag := none }

/-- A COX INSTRUCTION THAT WRITES k REGISTERS or predicates at t + 2 (R200). -/
def uniResult (i : Instr) (s : State) (extra : UCtx → List (Nat × Nat × Nat)) (f : UCtx → CoxLanding) :
    Host.Outcome State Fault Refusal :=
  issueUni i s 2 extra fun c s => s.push (s.now + 2) 10 (.coxResult c.ref (f c))

/-- A cox instruction that writes one k register. -/
def uniK (i : Instr) (s : State) (d : Nat) (f : UCtx → Word) : Host.Outcome State Fault Refusal :=
  uniResult i s (fun _ => []) fun c => { CoxLanding.empty with ks := [(d, f c)] }

/-- A cox instruction that writes one predicate. -/
def uniP (i : Instr) (s : State) (d : Nat) (f : UCtx → Bool) : Host.Outcome State Fault Refusal :=
  uniResult i s (fun _ => []) fun c => { CoxLanding.empty with ps := [(d, f c)] }

/-! ## Landing (R73, R85, R200, R220-R222) -/

/-- Write k registers, keeping what lanes still read in this cycle (R73). -/
def Team.writeK (t : Team) (now : Nat) (ks : List (Nat × Word)) : Team :=
  let old := ks.map fun e => (e.1, Store.get 0 t.k e.1)
  { t with
    k := Store.setAll 0 t.k ks
    kOld := if t.kOldAt = now then t.kOld ++ old else old
    kOldAt := now
    kdirty := ks.foldl (fun d e => d ||| (1#64 <<< e.1)) t.kdirty }

/-- Write predicates; a write to p0 has no effect (R74). -/
def Team.writeP (t : Team) (ps : List (Nat × Bool)) : Team :=
  { t with p := ps.foldl (fun p e =>
      if e.1 = 0 then p else if e.2 then p ||| (1#8 <<< e.1) else p &&& ~~~(1#8 <<< e.1)) t.p }

/-- The fields that `tset` writes (R220, Table 8). -/
def Tensor.setGroup (e : Tensor) (sel : Nat) (ws : List Word) : Tensor :=
  let w (j : Nat) : Nat := (ws.getD j 0).toNat
  let e := { e with valid := true }
  if sel = 0 then
    { e with fmt := bits (w 0) 21 17, rank := bits (w 0) 16 13, loc := (w 0).testBit 12, baxis := bits (w 0) 11 8
             scale := sextInt (w 0) 8, serial := ws.getD 1 0 }
  else if sel = 1 then { e with base := w 0 + 2 ^ 32 * bits (w 1) 23 0 }
  else
    let d := sel - 2
    { e with ext := Store.set 0 e.ext d (bits (w 0) 23 0)
             stride := Store.set 0 e.stride d (sextInt (w 1 + 2 ^ 32 * bits (w 2) 7 0) 40) }

/-- Write an entry of the tensor table (R79, R85). -/
def Team.writeT (t : Team) (n : Nat) (e : Tensor) : Team :=
  { t with t := Store.set Tensor.init t.t n e, tdirty := t.tdirty ||| (1#64 <<< n) }

/-- Write generator registers (R77, R85). -/
def Team.writeG (t : Team) (gs : List (Nat × BitVec 128)) : Team :=
  { t with g := Store.setAll 0 t.g gs, gdirty := gs.foldl (fun d e => d ||| (1#8 <<< e.1)) t.gdirty }

/-- LAND what a cox instruction writes. -/
def Team.land (t : Team) (now : Nat) (r : CoxLanding) : Team :=
  let t := if r.ks = [] then t else t.writeK now r.ks
  let t := t.writeP r.ps
  let t := r.ts.foldl (fun t e => t.writeT e.1 ((Store.get Tensor.init t.t e.1).setGroup e.2.1 e.2.2)) t
  let t := t.writeG r.gs
  let t : Team := { t with nest := Store.setAll { levels := [] } t.nest (r.nests.map fun e => (e.1, { levels := e.2 })) }
  match r.flag with
  | some f => { t with cox := t.cox.clearFlag f now }
  | none => t

/-- COX_RESULT (R200): a cox instruction's result lands; a `nest` leaves ENG (R60, R225). -/
def execCoxResult (s : State) : Host.Outcome State Fault Refusal :=
  match s.arg with
  | .coxResult r l =>
    let s := s.modTeam r fun t => t.land s.now l
    match l.nests, s.team? r with
    | _ :: _, some t => .next ((s.modCore t.core fun k => { k with eng := k.eng - 1 }).afterCounter r.hid)
    | _, _ => .next s
  | _ => .fault .noData

/-! ## Scalar arithmetic (R202) -/

/-- Register-form operations on the words A and B (R202). -/
def uniAB (i : Instr) (w : UA) (s : State) (f : Nat → Nat → Nat) : Host.Outcome State Fault Refusal :=
  uniK i s w.d.toNat fun c => BitVec.ofNat 32 (f (c.kn w.a.toNat) (c.kn w.b.toNat))

/-- add (R202). -/
def execCoxAdd (w : UA) (s : State) := uniAB (.coxAdd w) w s fun a b => a + b
/-- sub (R202). -/
def execCoxSub (w : UA) (s : State) := uniAB (.coxSub w) w s fun a b => a + (2 ^ 32 - b)
/-- mul (R202). -/
def execCoxMul (w : UA) (s : State) := uniAB (.coxMul w) w s fun a b => a * b
/-- mulh and mulh.n32 (R202). -/
def execCoxMulh (w : UA) (s : State) :=
  uniAB (.coxMulh w) w s fun a b =>
    if w.fn = 0 then wrapN 32 ((sextInt a 32 * sextInt b 32) / 2 ^ 32) else (a * b) / 2 ^ 32
/-- min and min.n32 (R202). -/
def execCoxMin (w : UA) (s : State) :=
  uniAB (.coxMin w) w s fun a b => if w.fn = 0 then (if sextInt a 32 ≤ sextInt b 32 then a else b) else min a b
/-- max and max.n32 (R202). -/
def execCoxMax (w : UA) (s : State) :=
  uniAB (.coxMax w) w s fun a b => if w.fn = 0 then (if sextInt a 32 ≥ sextInt b 32 then a else b) else max a b
/-- and (R202). -/
def execCoxAnd (w : UA) (s : State) := uniAB (.coxAnd w) w s fun a b => a &&& b
/-- or (R202). -/
def execCoxOr (w : UA) (s : State) := uniAB (.coxOr w) w s fun a b => a ||| b
/-- xor (R202). -/
def execCoxXor (w : UA) (s : State) := uniAB (.coxXor w) w s fun a b => a ^^^ b
/-- andn (R202). -/
def execCoxAndn (w : UA) (s : State) := uniAB (.coxAndn w) w s andnN
/-- shl (R202). -/
def execCoxShl (w : UA) (s : State) := uniAB (.coxShl w) w s shlN
/-- shr (R202). -/
def execCoxShr (w : UA) (s : State) := uniAB (.coxShr w) w s shrN
/-- sar (R202). -/
def execCoxSar (w : UA) (s : State) := uniAB (.coxSar w) w s sarN
/-- rot (R202). -/
def execCoxRot (w : UA) (s : State) := uniAB (.coxRot w) w s rotN

/-- A bit field named by B that reaches beyond 32 bits (R202, R331). -/
def UCtx.fieldExtra (c : UCtx) (w : UA) : List (Nat × Nat × Nat) :=
  let b := c.kn w.b.toNat
  if bits b 9 5 + fieldLen (bits b 4 0) > 32 then [(0x25, 0, 0)] else []

/-- bfx (R202). -/
def execCoxBfx (w : UA) (s : State) : Host.Outcome State Fault Refusal :=
  uniResult (.coxBfx w) s (fun c => c.fieldExtra w) fun c =>
    let b := c.kn w.b.toNat
    { CoxLanding.empty with
      ks := [(w.d.toNat, BitVec.ofNat 32 ((c.kn w.a.toNat >>> bits b 9 5) % 2 ^ fieldLen (bits b 4 0)))] }
/-- bfi (R202). -/
def execCoxBfi (w : UA) (s : State) : Host.Outcome State Fault Refusal :=
  uniResult (.coxBfi w) s (fun c => c.fieldExtra w) fun c =>
    let b := c.kn w.b.toNat
    { CoxLanding.empty with
      ks := [(w.d.toNat,
        BitVec.ofNat 32 (bfiN (c.kn w.a.toNat) (c.kn w.d.toNat) (bits b 9 5) (fieldLen (bits b 4 0))))] }

/-- pop (R202). -/
def execCoxPop (w : UA) (s : State) := uniAB (.coxPop w) w s fun a _ => popN a
/-- clz (R202). -/
def execCoxClz (w : UA) (s : State) := uniAB (.coxClz w) w s fun a _ => clzN a
/-- brev (R202). -/
def execCoxBrev (w : UA) (s : State) := uniAB (.coxBrev w) w s fun a _ => brevN a
/-- mov (R202). -/
def execCoxMov (w : UA) (s : State) := uniAB (.coxMov w) w s fun a _ => a

/-- A 64-bit result into kD:kD+1 (R202). -/
def pairLanding (d x : Nat) : CoxLanding :=
  { CoxLanding.empty with ks := [(d, BitVec.ofNat 32 x), (d + 1, BitVec.ofNat 32 (x / 2 ^ 32))] }

/-- add.i64 (R202). -/
def execCoxAddI64 (w : UA) (s : State) : Host.Outcome State Fault Refusal :=
  uniResult (.coxAddI64 w) s (fun _ => []) fun c => pairLanding w.d.toNat (c.pair w.a.toNat + c.pair w.b.toNat)
/-- sub.i64 (R202). -/
def execCoxSubI64 (w : UA) (s : State) : Host.Outcome State Fault Refusal :=
  uniResult (.coxSubI64 w) s (fun _ => []) fun c => pairLanding w.d.toNat (c.pair w.a.toNat + (2 ^ 64 - c.pair w.b.toNat))

/-! ## Immediate forms (R203) -/

/-- Immediate-form operations on the word A and IMM12 (R203). -/
def uniAI (i : Instr) (w : UI) (s : State) (f : Nat → Nat → Nat) : Host.Outcome State Fault Refusal :=
  uniK i s w.d.toNat fun c => BitVec.ofNat 32 (f (c.kn w.a.toNat) w.imm.toNat)

/-- addi (R203). -/
def execAddi (w : UI) (s : State) := uniAI (.addi w) w s fun a m => a + wrapN 32 (sextInt m 12)
/-- andi (R203). -/
def execAndi (w : UI) (s : State) := uniAI (.andi w) w s fun a m => a &&& m
/-- ori (R203). -/
def execOri (w : UI) (s : State) := uniAI (.ori w) w s fun a m => a ||| m
/-- xori (R203). -/
def execXori (w : UI) (s : State) := uniAI (.xori w) w s fun a m => a ^^^ m
/-- shli (R203). -/
def execShli (w : UI) (s : State) := uniAI (.shli w) w s fun a m => shlN a (m % 32)
/-- shri (R203). -/
def execShri (w : UI) (s : State) := uniAI (.shri w) w s fun a m => shrN a (m % 32)
/-- sari (R203). -/
def execSari (w : UI) (s : State) := uniAI (.sari w) w s fun a m => sarN a (m % 32)
/-- movi (R203). -/
def execMovi (w : UI) (s : State) := uniAI (.movi w) w s fun _ m => wrapN 32 (sextInt m 12)
/-- ldhi (R203). -/
def execLdhi (w : UI) (s : State) := uniAI (.ldhi w) w s fun _ m => m * 2 ^ 20
/-- ormi (R203). -/
def execOrmi (w : UI) (s : State) := uniAI (.ormi w) w s fun a m => a ||| (m * 2 ^ 8)

/-! ## f32 (R204) -/

/-- f32 arithmetic of the cox, rounded once by rne (R204): 0 add, 1 sub, 2 mul, 3 fma with C named by FN. -/
def uniF32 (i : Instr) (w : UA) (s : State) (op : Nat) : Host.Outcome State Fault Refusal :=
  uniK i s w.d.toNat fun c =>
    BitVec.ofNat 32 (fpOp f32 op .rn (c.kn w.a.toNat) (c.kn w.b.toNat) (c.kn w.fn.toNat))

/-- add.f32 (R204). -/
def execCoxAddF32 (w : UA) (s : State) := uniF32 (.coxAddF32 w) w s 0
/-- sub.f32 (R204). -/
def execCoxSubF32 (w : UA) (s : State) := uniF32 (.coxSubF32 w) w s 1
/-- mul.f32 (R204). -/
def execCoxMulF32 (w : UA) (s : State) := uniF32 (.coxMulF32 w) w s 2
/-- fma.f32 (R204). -/
def execCoxFmaF32 (w : UA) (s : State) := uniF32 (.coxFmaF32 w) w s 3
/-- min.f32 (R204). -/
def execCoxMinF32 (w : UA) (s : State) := uniAB (.coxMinF32 w) w s fun a b => f32.minMax false a b
/-- max.f32 (R204). -/
def execCoxMaxF32 (w : UA) (s : State) := uniAB (.coxMaxF32 w) w s fun a b => f32.minMax true a b

/-- The destination and source formats of a cox conversion (R204, Table 3). -/
def coxCvtFormats (sel : Nat) : Nat × Nat :=
  match sel with
  | 0 => (8, 2)
  | 1 => (8, 6)
  | 2 => (2, 8)
  | 3 => (6, 8)
  | 4 => (10, 8)
  | 5 => (9, 8)
  | 6 => (8, 10)
  | _ => (8, 9)

/-- A rounding mode code of the cox (R91, R204). -/
def coxMode (m : Nat) : RMode :=
  match m with
  | 0 => .rn
  | 1 => .rz
  | 2 => .rd
  | _ => .ru

/-- cvt (R204). -/
def execCoxCvt (w : UA) (s : State) : Host.Outcome State Fault Refusal :=
  let f := coxCvtFormats (w.fn.toNat / 8)
  uniAB (.coxCvt w) w s fun a _ => convert f.1 f.2 (coxMode (w.fn.toNat % 8)) (if w.fn.toNat / 8 ≥ 6 then a % 2 ^ 16 else a)

/-! ## Predicates (R205, R206) -/

/-- cmp (R205). -/
def execCoxCmp (w : UA) (s : State) : Host.Outcome State Fault Refusal :=
  uniP (.coxCmp w) s (w.d.toNat % 8) fun c =>
    let a := c.kn w.a.toNat
    let b := c.kn w.b.toNat
    let cond := w.fn.toNat % 16
    match w.fn.toNat / 16 with
    | 0 => condHolds cond false (cmpInt (sextInt a 32) (sextInt b 32))
    | 1 => condHolds cond false (cmpInt (a : Int) (b : Int))
    | _ => cmpF32Holds cond a b
/-- cmpi (R205). -/
def execCmpi (w : UI) (s : State) : Host.Outcome State Fault Refusal :=
  uniP (.cmpi w) s (w.d.toNat % 8) fun c =>
    condHolds (w.d.toNat / 8) false (cmpInt (sextInt (c.kn w.a.toNat) 32) (sextInt w.imm.toNat 12))
/-- pand (R206). -/
def execPand (w : UA) (s : State) := uniP (.pand w) s w.d.toNat fun c => c.p w.a.toNat && c.p w.b.toNat
/-- por (R206). -/
def execPor (w : UA) (s : State) := uniP (.por w) s w.d.toNat fun c => c.p w.a.toNat || c.p w.b.toNat
/-- pnot (R206). -/
def execPnot (w : UA) (s : State) := uniP (.pnot w) s w.d.toNat fun c => !c.p w.a.toNat
/-- csel (R206). -/
def execCsel (w : UA) (s : State) : Host.Outcome State Fault Refusal :=
  uniK (.csel w) s w.d.toNat fun c =>
    if c.p (w.fn.toNat % 8) != w.fn.getLsbD 3 then c.k w.a.toNat else c.k w.b.toNat

/-! ## Control (R207) -/

/-- Send the cox to an address (R207). -/
def UCtx.goto (c : UCtx) (s : State) (pc : Nat) : State :=
  s.modCox c.ref fun x => { x with clause := none, pc := pc % 2 ^ 56, branched := true, ready := c.t + 1 }

/-- The target of a branch (R207). -/
def UCtx.target (c : UCtx) (w : UB) : Nat := wrapN 56 ((c.pc : Nat) + 4 * sextInt w.off.toNat 20)

/-- jmp (R207). -/
def execJmp (w : UB) (s : State) : Host.Outcome State Fault Refusal :=
  issueUni (.jmp w) s 0 (fun _ => []) fun c s => c.goto s (c.target w)
/-- jp (R207). -/
def execJp (w : UB) (s : State) : Host.Outcome State Fault Refusal :=
  issueUni (.jp w) s 0 (fun _ => []) fun c s =>
    if c.p (w.cond.toNat % 8) != w.cond.getLsbD 3 then c.goto s (c.target w) else s
/-- loop (R207): the counter is written at t + 2. -/
def execLoop (w : UB) (s : State) : Host.Outcome State Fault Refusal :=
  issueUni (.loop w) s 0 (fun _ => []) fun c s =>
    let r := 48 + w.cond.toNat
    let v := c.k r - 1
    let s := s.push (s.now + 2) 10 (.coxResult c.ref { CoxLanding.empty with ks := [(r, v)] })
    if v ≠ 0 then c.goto s (c.target w) else s
/-- The breach of a cox `call` (R207, R330): a seventeenth return address. -/
def UCtx.callExtra (c : UCtx) : List (Nat × Nat × Nat) := if c.cox.stack.length ≥ 16 then [(0x0B, 0, 0)] else []

/-- call (R207): a return stack of 16. -/
def execCoxCall (w : UB) (s : State) : Host.Outcome State Fault Refusal :=
  issueUni (.coxCall w) s 0 (fun c => c.callExtra) fun c s =>
    c.goto (s.modCox c.ref fun x => { x with stack := c.clause.nextAddr :: x.stack }) (c.target w)
/-- The breach of a cox `ret` (R207, R330): no return address. -/
def UCtx.retExtra (c : UCtx) : List (Nat × Nat × Nat) := if c.cox.stack = [] then [(0x0B, 0, 0)] else []

/-- ret (R207). -/
def execCoxRet (w : UB) (s : State) : Host.Outcome State Fault Refusal :=
  issueUni (.coxRet w) s 0 (fun c => c.retExtra) fun c s =>
    c.goto (s.modCox c.ref fun x => { x with stack := x.stack.drop 1 }) (c.cox.stack.headD 0)

/-! ## Time and special registers (R208-R210) -/

/-- rdtime (R208): `sr.podtime` at t. -/
def execRdtime (w : UA) (s : State) : Host.Outcome State Fault Refusal :=
  uniResult (.rdtime w) s (fun _ => []) fun c => pairLanding w.d.toNat (c.base + c.t)

/-- The special register that a selector of `srd` names, at t (R209, Table 4). -/
def UCtx.special (c : UCtx) (s : State) (sel : Nat) : Nat :=
  let seed := (c.team.sseeds.head?.map (·.2.toNat)).getD 0
  match sel with
  | 0 => c.base
  | 1 => c.base / 2 ^ 32
  | 2 => c.t
  | 3 => c.t / 2 ^ 32
  | 4 => c.ref.team
  | 5 => c.team.core
  | 6 => clusterOf c.team.core
  | 7 => s.pkgNo.toNat
  | 8 => c.heat.heatid.toNat
  | 9 => seed
  | 10 => seed / 2 ^ 32
  | 11 => crewIndex c.team
  | _ => c.team.lanes

/-- srd (R209). A record of an unassigned selector names it (R322). -/
def execSrd (w : UI) (s : State) : Host.Outcome State Fault Refusal :=
  uniResult (.srd w) s (fun _ => if w.imm.toNat > 12 then [(0x08, 0, w.imm.toNat)] else []) fun c =>
    { CoxLanding.empty with ks := [(w.d.toNat, BitVec.ofNat 32 (c.special s w.imm.toNat))] }

/-- The breach of a deadline in kn:kn+1 that is not later than the issue cycle (R210, R216, R331). -/
def UCtx.deadlineExtra (c : UCtx) (n : Nat) : List (Nat × Nat × Nat) := if c.pair n < c.t + 1 then [(0x82, 0, 0)] else []

/-- twait (R210): nothing issues until the deadline. -/
def execTwait (w : UA) (s : State) : Host.Outcome State Fault Refusal :=
  issueUni (.twait w) s 0 (fun c => c.deadlineExtra w.a.toNat) fun c s =>
    let h := c.pair w.a.toNat
    (s.modCox c.ref fun x => { x with wait := .until h }).push (c.base + h) 48 (.twaitDeadline c.ref)

/-- The heat, the team and the team's pod cycle of heat cycle 0. -/
def State.teamInfo (s : State) (r : TeamRef) : Option (Heat × Team × Nat) :=
  match s.heat? r.hid, s.team? r with
  | some h, some t => some (h, t, h.base t)
  | _, _ => none

/-- TWAIT_DEADLINE (R30, R210): the cox goes on. A halted or stopped cox keeps the deadline for its resumption (R352). -/
def execTwaitDeadline (s : State) : Host.Outcome State Fault Refusal :=
  match s.arg with
  | .twaitDeadline r =>
    match s.teamInfo r with
    | none => .next s
    | some (h, t, base) =>
      if !h.teamIssuesAt t (s.now - base) || t.cox.stopped.isSome then .next (s.park r.hid 48 (.twaitDeadline r))
      else .next (s.modCox r fun x => { x with wait := .none, ready := s.now - base })
  | _ => .fault .noData

/-! ## Crew synchronisation (R211) -/

/-- The mask and tag of a `csync`. -/
def UCtx.csyncMask (c : UCtx) (w : UA) : Nat := c.kn w.a.toNat

/-- The breach of `csync` (R211, R330): a mask beyond the crew or without the team's own bit. -/
def UCtx.csyncExtra (c : UCtx) (w : UA) : List (Nat × Nat × Nat) :=
  let m := c.csyncMask w
  if m ≥ 256 ∨ !m.testBit (crewIndex c.team) then [(0x03, 0, 0)] else []

/-- csync (R211): ends the sessions that include the issuing team, and opens a new one 8 c after the last `csync` of its
teams. -/
def execCsync (w : UA) (s : State) : Host.Outcome State Fault Refusal :=
  issueUni (.csync w) s 0
    (fun c => c.csyncExtra w)
    fun c s =>
      let me := crewIndex c.team
      let cl := clusterOf c.team.core
      let m := c.csyncMask w
      let tag := w.fn.toNat
      let others := c.heat.csyncs.filter fun x => !(x.1 == cl && x.2.2.2.testBit me)
      let came := match others.find? (fun x => x.1 == cl && x.2.1 == m && x.2.2.1 == tag) with
        | some x => x.2.2.2 ||| 2 ^ me
        | none => 2 ^ me
      let rest := others.filter fun x => !(x.1 == cl && x.2.1 == m && x.2.2.1 == tag)
      let s := s.cancel fun e => match e with
        | .csyncSessionOpen hid cl' m' _ => hid == c.ref.hid && cl' == cl && m'.testBit me
        | _ => false
      let s := s.modHeat c.ref.hid fun h =>
        { h with
          sessions := h.sessions.filter fun x => !(x.1 == cl && x.2.1.testBit me)
          csyncs := if came = m then rest else rest ++ [(cl, m, tag, came)] }
      if came = m then s.push (s.now + 8) 15 (.csyncSessionOpen c.ref.hid cl m tag) else s

/-- CSYNC_SESSION_OPEN (R211): the teams of the mask may exchange from now on. -/
def execCsyncSessionOpen (s : State) : Host.Outcome State Fault Refusal :=
  match s.arg with
  | .csyncSessionOpen hid cl m tag =>
    match s.heat? hid with
    | none => .next s
    | some h =>
      if !h.issuesAt (4 * cl) (s.now - h.anchor) then .next (s.park hid 15 (.csyncSessionOpen hid cl m tag))
      else
        let gone := h.teams.any fun t => clusterOf t.core == cl && m.testBit (crewIndex t) && t.retired
        .next (if gone then s
          else s.modHeat hid fun h => { h with sessions := h.sessions ++ [(cl, m, tag, some (s.now - h.anchor))] })
  | _ => .fault .noData

/-! ## Barriers (R212-R217) -/

/-- The breach of a handle that a cox names (R342). -/
def UCtx.handleExtra (c : UCtx) (s : State) (h : Word) : List (Nat × Nat × Nat) :=
  match s.handleBreach c.team.core h with
  | some cause => [(cause, 0, h.toNat)]
  | none => []

/-- The breaches of `balloc` (R212, R330, R342). -/
def UCtx.ballocExtra (c : UCtx) (s : State) (w : UA) : List (Nat × Nat × Nat) :=
  let n := w.fn.toNat + 1
  let a := c.kn w.a.toNat
  let taken := (List.range n).any fun j => ((s.core c.team.core).bar (a % 1024 + j)).alloc
  (if a ≥ 1024 then [(0x03, 0, 0)] else []) ++ (if a % 1024 + n > 1024 ∨ taken then [(0xC2, 0, a)] else [])

/-- balloc (R212). -/
def execBalloc (w : UA) (s : State) : Host.Outcome State Fault Refusal :=
  let n := w.fn.toNat + 1
  issueUni (.balloc w) s 2
    (fun c => c.ballocExtra s w)
    fun c s =>
      let i0 := c.kn w.a.toNat % 1024
      let is := List.range n
      let handles := is.map fun j => (w.d.toNat + j, s.handleOf c.team.core (i0 + j))
      (s.modCore c.team.core fun x => is.foldl (fun x j =>
        x.modBar (i0 + j) fun b => { Barrier.init with gen := b.gen, alloc := true, team := c.ref.team }) x).push (s.now + 2) 10
          (.coxResult c.ref { CoxLanding.empty with ks := handles })

/-- bfree (R213). -/
def execBfree (w : UA) (s : State) : Host.Outcome State Fault Refusal :=
  issueUni (.bfree w) s 0 (fun c => c.handleExtra s (c.k w.a.toNat)) fun c s =>
    let i := handleIdx (c.k w.a.toNat)
    let s : State := { s with barPend := s.barPend.filter fun x => !(x.core == c.team.core && x.idx == i) }
    s.modCore c.team.core fun x => x.modBar i Barrier.free

/-- The breaches of `binit` (R214, R330, R342). -/
def UCtx.binitExtra (c : UCtx) (s : State) (w : UE) : List (Nat × Nat × Nat) :=
  let d := w.d.toNat
  let x := c.kn d
  let g := bits x 4 0
  let x' := bits x 6 5
  let e := bits x 10 7
  (if x ≥ 2 ^ 11 ∨ c.kn (d + 2) ≥ 256 then [(0x03, 0, 0)] else []) ++ c.handleExtra s (c.k w.a.toNat) ++
  (if g > 16 ∨ x' > 2 ∨ g + x' + e > 63 then [(0xC3, 0, c.kn w.a.toNat)] else [])

/-- binit (R214). -/
def execBinit (w : UE) (s : State) : Host.Outcome State Fault Refusal :=
  let d := w.d.toNat
  issueUni (.binit w) s 6
    (fun c => c.binitExtra s w)
    fun c s =>
      let x := c.kn d
      (s.modCore c.team.core fun k => k.modBar (handleIdx (c.k w.a.toNat)) fun b =>
        { b with expg := bits x 4 0, expc := bits x 6 5, expe := bits x 10 7, arrv := 0
                 pend := c.kn (d + 1) + 2 ^ 32 * (c.kn (d + 2) % 256) }).push (s.now + 6) 10
        (.coxResult c.ref { CoxLanding.empty with flag := flagFor c.clause (.binit w) })

/-- A declaration, with or without an arrival (R215). -/
def uniBarv (i : Instr) (w : UA) (s : State) (arrivals : Nat) : Host.Outcome State Fault Refusal :=
  issueUni i s 0 (fun c => c.handleExtra s (c.k w.a.toNat)) fun c s =>
    s.barChange c.team.core (c.k w.a.toNat) (c.kn w.b.toNat) 0 arrivals false (c.blame 0)

/-- barv (R215): one arrival and a declaration. -/
def execBarv (w : UA) (s : State) := uniBarv (.barv w) w s 1
/-- barv.decl (R215): a declaration only. -/
def execBarvDecl (w : UA) (s : State) := uniBarv (.barvDecl w) w s 0

/-- bwt (R216): nothing issues until the deadline, at which the phase is checked. -/
def execCoxBwt (w : UA) (s : State) : Host.Outcome State Fault Refusal :=
  issueUni (.coxBwt w) s 0
    (fun c => c.deadlineExtra w.b.toNat ++ c.handleExtra s (c.k w.a.toNat))
    fun c s =>
      let h := c.pair w.b.toNat
      (s.modCox c.ref fun x =>
        { x with wait := .phase h (c.k w.a.toNat) ((c.k (w.a.toNat + 1)).setWidth 16) }).push
          (c.base + h) 48 (.coxBwtDeadline c.ref)

/-- COX_BWT_DEADLINE (R30, R216): the object's visible phase must differ from P, and the cox goes on. A handle that no
longer names the object finds no such phase. A halted or stopped cox keeps the check for its resumption (R352). -/
def execCoxBwtDeadline (s : State) : Host.Outcome State Fault Refusal :=
  match s.arg with
  | .coxBwtDeadline r =>
    match s.teamInfo r with
    | none => .next s
    | some (h, t, base) =>
      if !h.teamIssuesAt t (s.now - base) || t.cox.stopped.isSome then .next (s.park r.hid 48 (.coxBwtDeadline r))
      else match t.cox.wait with
        | .phase _ handle p =>
          let b := (s.core t.core).bar (handleIdx handle)
          let go := fun (x : Cox) => { x with wait := .none, ready := s.now - base }
          if b.alloc && b.gen == handleGen handle && visiblePhase b s.now != p then .next (s.modCox r go)
          else
            .next (((s.modCox r go).stopCox r).detect
              { Detect.blank r.hid (streamRank t.core t.tsel 16) 0x8D 1 with
                team := r.team, core := t.core, fdix := t.cox.count - 1, pc := t.cox.pc - 4, info := handle.toNat })
        | _ => .next s
  | _ => .fault .noData

/-- The breaches of a `barm` descriptor (R217, Table 6). -/
def UCtx.barmExtra (c : UCtx) (s : State) (w : UE) : List (Nat × Nat × Nat) :=
  let d := w.d.toNat
  let x := c.kn (d + 1)
  let act := bits x 10 9
  let opa := c.kn (d + 2)
  let rsvd := decide (x ≥ 2 ^ 11) || (act == 0 && decide (opa ≥ 64)) || (act == 1 && decide (opa ≥ 2 ^ 26)) ||
    (act == 2 && (decide (opa ≥ 2 ^ 16) || c.kn (d + 3) != 0))
  let h := c.k w.a.toNat
  (if rsvd then [(0x03, 0, 0)] else []) ++ (if act = 3 then [(0x08, 0, 0)] else []) ++ c.handleExtra s h ++
  (if c.kn d + 2 ^ 32 * (x % 256) = 0 then [(0xC3, 0, h.toNat)] else []) ++
  (if ((s.core c.team.core).bar (handleIdx h)).arms.length ≥ 4 then [(0xC6, 0, h.toNat)] else [])

/-- barm (R217): arms a threshold, which counts from the cycle after t. -/
def execBarm (w : UE) (s : State) : Host.Outcome State Fault Refusal :=
  let d := w.d.toNat
  issueUni (.barm w) s 6 (fun c => c.barmExtra s w) fun c s =>
    let x := c.kn (d + 1)
    let th : Threshold :=
      { order := s.seq, watch := x.testBit 8, thr := c.kn d + 2 ^ 32 * (x % 256), count := 0
        act := { hid := c.ref.hid, heatid := c.heat.heatid, queue := c.heat.queue, team := c.ref.team, tsel := c.team.tsel
                 rel := c.heat.relCore c.team.core, act := bits x 10 9, opa := c.k (d + 2), opb := c.k (d + 3) }
        after := s.now }
    (s.modCore c.team.core fun k => k.modBar (handleIdx (c.k w.a.toNat)) fun b => { b with arms := b.arms ++ [th] }).push
      (s.now + 6) 10 (.coxResult c.ref { CoxLanding.empty with flag := flagFor c.clause (.barm w) })

/-! ## Tables, generators and seeds (R219-R223) -/

/-- The breach of `tset` (R220, R330): a reserved bit of its words. -/
def UCtx.tsetExtra (c : UCtx) (w : UE) : List (Nat × Nat × Nat) :=
  let d := w.d.toNat
  let sel := bits w.flags.toNat 9 6
  let bad := if sel = 0 then decide (c.kn d ≥ 2 ^ 22)
    else if sel = 1 then decide (c.kn (d + 1) ≥ 2 ^ 24)
    else decide (c.kn d ≥ 2 ^ 24) || decide (c.kn (d + 2) ≥ 2 ^ 8)
  if bad then [(0x03, 0, 0)] else []

/-- tset (R220): a field group of an entry at t + 4. -/
def execTset (w : UE) (s : State) : Host.Outcome State Fault Refusal :=
  let f := w.flags.toNat
  let d := w.d.toNat
  let sel := bits f 9 6
  issueUni (.tset w) s 4
    (fun c => c.tsetExtra w)
    fun c s => s.push (s.now + 4) 10 (.coxResult c.ref
      { CoxLanding.empty with ts := [(f % 64, sel, [c.k d, c.k (d + 1), c.k (d + 2)])] })

/-- Four k registers as one generator register (R222). -/
def UCtx.quad (c : UCtx) (d : Nat) : BitVec 128 := c.k (d + 3) ++ c.k (d + 2) ++ c.k (d + 1) ++ c.k d

/-- gset from k registers (R222): one or two generator registers at t + 4. -/
def execGset (w : UE) (s : State) : Host.Outcome State Fault Refusal :=
  let n := w.flags.toNat % 8
  let d := w.d.toNat
  issueUni (.gset w) s 4 (fun _ => []) fun c s => s.push (s.now + 4) 10 (.coxResult c.ref
    { CoxLanding.empty with
      gs := (n, c.quad d) :: (if w.flags.getLsbD 3 then [(n + 1, c.quad (d + 4))] else []) })

/-- sseed (R84, R223): the seed now; lanes round with it from t + 3. -/
def execSseed (w : UA) (s : State) : Host.Outcome State Fault Refusal :=
  issueUni (.sseed w) s 0 (fun _ => []) fun c s => s.modTeam c.ref fun t =>
    { t with sseeds := (s.now, c.k (w.a.toNat + 1) ++ c.k w.a.toNat) :: t.sseeds.take 4 }

/-- The virtual address of a record read (R219, R222). -/
def UCtx.recordVa (c : UCtx) (w : UE) : Nat := c.pair w.d.toNat % 2 ^ 56

/-- Whether the stack of an address lies on the other die than the team's core. -/
def UCtx.far (c : UCtx) (va : Nat) : Bool := dieOfCore c.team.core != dieOfStack (stackOf va)

/-- START THE READ OF A RECORD (R219, R222, R252): ENG counts it until its completion; the stack cycle is t + 320, or
t + 368 from the other die, and the completion 328 or 344 later. -/
def UCtx.readRecord (c : UCtx) (s : State) (i : Instr) (kind : GlobalKind) (va size n : Nat) (bar : Option Word)
    (eop : Nat) (ev : Nat → Ev) : State :=
  let far := c.far va
  let id := s.nextOp
  let st := c.t + 320 + (if far then 48 else 0)
  let o : GlobalOp :=
    { id := id, hid := c.ref.hid, team := c.ref.team, gang := 0, core := c.team.core, issue := c.t, kind := kind, sz := size
      sx := false, aop := 0, order := false
      lanes := [{ lane := 0, va := va, pa := 0, kind := 0, far := far, s := st, p := st, data := 0, cmp := 0, result := 0
                  ok := false, done := false, sq := 0 }]
      dests := [], zeros := [], latch := none, flag := flagFor c.clause i, blame := { c.blame 0 with eop := eop }
      hot := false, n := n, bar := bar, addr := va, bytes := [] }
  let s : State := { s with nextOp := id + 1, gops := s.gops ++ [o] }
  let s := s.modCore c.team.core fun k => { k with eng := k.eng + 1 }
  (s.push (c.base + st) 15 (.stackAccess (.record id))).push
    (c.base + c.t + 648 + (if far then 64 else 0)) 10 (ev id)

/-- The handle that a command's BAR arrival uses (R218). -/
def UCtx.barHandle (c : UCtx) (w : UE) : Option Word := if w.flags.getLsbD 11 then some (c.k w.a.toNat) else none

/-- Misalignment of a record's address (R331). -/
def UCtx.alignExtra (c : UCtx) (w : UE) (size : Nat) : List (Nat × Nat × Nat) :=
  let va := c.recordVa w
  if va % size ≠ 0 then [(0x64, va, 0)] else []

/-- The latency of a record read from its issue (R219). -/
def recordLatency (core va : Nat) : Nat := 648 + (if dieOfCore core != dieOfStack (stackOf va) then 64 else 0)

/-- A cox command that reads a record of `size` bytes. -/
def uniRecord (i : Instr) (w : UE) (s : State) (kind : GlobalKind) (size n eop : Nat) (ev : Nat → Ev) :
    Host.Outcome State Fault Refusal :=
  checkUni i s (fun c => c.alignExtra w size) fun c =>
    c.readRecord (c.commit s i (recordLatency c.team.core (c.recordVa w))) i kind (c.recordVa w) size n (c.barHandle w)
      eop ev

/-- tload (R219). -/
def execTload (w : UE) (s : State) : Host.Outcome State Fault Refusal :=
  uniRecord (.tload w) w s .tload 128 (w.flags.toNat % 64) 0x50 .tloadCompletion
/-- gset.mem (R222). -/
def execGsetMem (w : UE) (s : State) : Host.Outcome State Fault Refusal :=
  uniRecord (.gsetMem w) w s .gset (if w.flags.getLsbD 3 then 32 else 16) (w.flags.toNat % 8) 0x52 .gsetMemCompletion

/-- THE STACK CYCLE OF A RECORD READ (R219, R334-R338): translation, revocation, grant and errors. A breach stops the
cox; the operation leaves ENG now, and is kept as replay data (R318, R351). -/
def State.stackRecord (s : State) (id : Nat) : State :=
  match s.gop? id with
  | none => s
  | some o =>
    match s.heat? o.hid, s.team? o.teamRef, o.lanes with
    | some h, some t, l :: _ =>
      let tr := match translate t.wins l.va false with
        | .fail c => [(c, l.va)]
        | .ok .. => []
      let own := s.laneStack h t l
      let s := own.2
      match lowest ((tr ++ own.1).map (·.1)) with
      | none => s.push s.now 30 (.globalPerform id 1)
      | some cause =>
        let addr := (((tr ++ own.1).find? fun e => e.1 == cause).map (·.2)).getD l.va
        let s := (s.modGop id fun o => { o with hot := true }).modCore o.core fun k => { k with eng := k.eng - 1 }
        let s := s.cancel fun e => match e with
          | .tloadCompletion x => x == id
          | .gsetMemCompletion x => x == id
          | _ => false
        ((s.stopCox o.teamRef).detect { o.blame with cause := cause, addr := addr, info := stackOf l.va }).afterCounter o.hid
    | _, _, _ => s

/-- Doubleword q of a record. -/
def qword (bs : List Byte) (q : Nat) : Nat := ofLeBytes ((bs.drop (8 * q)).take 8)

/-- The fields of a tensor record (R79, Table 7). -/
def tensorOf (bs : List Byte) : Tensor :=
  let q0 := qword bs 0
  let dims := List.range 12
  { valid := true, fmt := bits q0 39 35, rank := bits q0 34 31, loc := q0.testBit 30, baxis := bits q0 29 26
    scale := sextInt (bits q0 25 18) 8, serial := BitVec.ofNat 32 (qword bs 1), base := bits (qword bs 2) 55 0
    ext := dims.foldl (fun e d => Store.set 0 e d (bits (qword bs (4 + d)) 63 40)) []
    stride := dims.foldl (fun e d => Store.set 0 e d (sextInt (bits (qword bs (4 + d)) 39 0) 40)) [] }

/-- The causes that a tensor record breaks (R340). -/
def tensorBreaches (bs : List Byte) : List Nat :=
  let q0 := qword bs 0
  breach (!sealOk bs 12) 0xA0 ++
  breach (bits q0 63 48 != 0x7E50 || bits q0 47 40 != 1 || bits q0 17 0 != 0 || bits (qword bs 2) 63 56 != 0 ||
    qword bs 3 != 0) 0xA1 ++
  breach (decide (bits q0 39 35 ≥ 16)) 0xA7

/-- Whether a reserved bit of a generator register is set, by its MODE. -/
def genReserved (g : BitVec 128) : Bool := g &&& ~~~ genFields (bits g.toNat 127 124) != 0

/-- The causes that a generator image breaks (R340): the odd register after a phase mode holds phase terms (R78). -/
def genBreaches (n : Nat) (before : BitVec 128) (gs : List (BitVec 128)) : List Nat :=
  let heads : List (BitVec 128) := match gs with
    | [a, b] => if genPhase a then [a] else [a, b]
    | [a] => if n % 2 = 1 && genPhase before then [] else [a]
    | _ => gs
  breach (heads.any fun g => decide (bits g.toNat 127 124 ≤ 8) && genReserved g) 0xA1 ++
  breach (heads.any fun g => decide (bits g.toNat 127 124 > 8) || decide (bits g.toNat 123 121 > 4)) 0xA7

/-- COMPLETE A RECORD READ (R219, R340): it leaves ENG; with a breach the target keeps its contents and the cox stops,
otherwise `land` writes it, the flag clears and the BAR arrival is applied. -/
def State.recordDone (s : State) (o : GlobalOp) (bad : List Nat) (land : Team → Team) : State :=
  let s := s.modCore o.core fun k => { k with eng := k.eng - 1 }
  match lowest bad with
  | some cause =>
    let s := s.modGop o.id fun o => { o with hot := true }
    ((s.stopCox o.teamRef).detect { o.blame with cause := cause, addr := o.addr, info := stackOf o.addr }).afterCounter o.hid
  | none =>
    let s := ((s.modTeam o.teamRef land).clearCoxFlag o.teamRef o.flag).dropGop o.id
    let s := match o.bar with
      | some h => s.barChange o.core h 0 0 1 true o.blame
      | none => s
    s.afterCounter o.hid

/-- TLOAD_COMPLETION (R219, R221, R340). -/
def execTloadCompletion (s : State) : Host.Outcome State Fault Refusal :=
  match s.arg with
  | .tloadCompletion id =>
    match s.gop? id with
    | none => .next s
    | some o => .next (s.recordDone o (tensorBreaches o.bytes) fun t => t.writeT o.n (tensorOf o.bytes))
  | _ => .fault .noData

/-- The generator registers of an image. -/
def genImage (bs : List Byte) : List (BitVec 128) :=
  (List.range (bs.length / 16)).map fun i => BitVec.ofNat 128 (ofLeBytes ((bs.drop (16 * i)).take 16))

/-- GSET_MEM_COMPLETION (R222, R340). -/
def execGsetMemCompletion (s : State) : Host.Outcome State Fault Refusal :=
  match s.arg with
  | .gsetMemCompletion id =>
    match s.gop? id, (s.gop? id).bind fun o => s.team? o.teamRef with
    | some o, some t =>
      let gs := genImage o.bytes
      .next (s.recordDone o (genBreaches o.n (Store.get 0 t.g (o.n - 1)) gs) fun t =>
        t.writeG (((List.range gs.length).zip gs).map fun e => (o.n + e.1, e.2)))
    | _, _ => .next s
  | _ => .fault .noData

/-! ## Owner flips (R224) -/

/-- The breach of a cox `own` (R224, R331): a granule beyond the team's allocation. -/
def UCtx.ownExtra (c : UCtx) (w : UE) : List (Nat × Nat × Nat) :=
  let first := c.kn w.d.toNat / 4096
  if first + (w.flags.toNat % 256 + 1) > c.team.scnt then [(0x46, 4096 * first, 0)] else []

/-- own (R224). -/
def execCoxOwn (w : UE) (s : State) : Host.Outcome State Fault Refusal :=
  let count := w.flags.toNat % 256 + 1
  let first (c : UCtx) : Nat := c.kn w.d.toNat / 4096
  issueUni (.coxOwn w) s 10
    (fun c => c.ownExtra w)
    fun c s => (s.flip c.team.core (c.team.sbase + first c) count (bits w.flags.toNat 10 8)).push (s.now + 10) 10
      (.coxResult c.ref { CoxLanding.empty with flag := flagFor c.clause (.coxOwn w) })

/-! ## Traps, ends and system registers (R229, R230, R326) -/

/-- trap (R229): a software trap; the stream stops before it, to go on at the header after its clause (R322). -/
def execCoxTrap (w : UI) (s : State) : Host.Outcome State Fault Refusal :=
  checkUni (.coxTrap w) s (fun _ => []) fun c =>
    (s.modCox c.ref fun x => { x with stopped := some c.t }).detect
      { c.blame 0x10 with res := true, swcode := w.imm.toNat % 256, ret := c.clause.nextAddr }

/-- end (R229): the cox retires with its exit code; in handler mode the heat is aborted and FN is the exit code (R325). -/
def execCoxEnd (w : UA) (s : State) : Host.Outcome State Fault Refusal :=
  checkUni (.coxEnd w) s (fun _ => []) fun c =>
    if c.handling then
      (s.modCox c.ref fun x => { x with exitCode := w.fn.toNat }).abortHandler c.ref.hid 0
    else
      ((c.commit s (.coxEnd w) 0).modCox c.ref fun x =>
        { x with retired := true, exitCode := w.fn.toNat }).afterRetire c.ref

/-- nop (R229). -/
def execCoxNop (w : UA) (s : State) : Host.Outcome State Fault Refusal :=
  issueUni (.coxNop w) s 0 (fun _ => []) fun _ s => s

/-- READY as its doubleword (R303, Table 6). -/
def Ready.word (r : Ready) : Nat :=
  (if r.pcie then 2 ^ 47 else 0) + (if r.fwok then 2 ^ 46 else 0) + (if r.ump then 2 ^ 45 else 0) +
  (if r.mar then 2 ^ 44 else 0) + r.stack.toNat * 2 ^ 36 + r.port.toNat * 2 ^ 20 + (if r.ptp then 2 ^ 19 else 0) +
  (if r.fe then 2 ^ 18 else 0)

/-- Read control doubleword n, for the doublewords that system registers reach (R298, Table 3). Table 3 gives doublewords 5 to 191 no
contents: they read 0, and a write changes nothing (log 104). -/
def State.controlWord (s : State) (n : Nat) : Nat :=
  match n with
  | 0 => 0x7B119120
  | 1 => s.ready.word
  | 2 => s.budget
  | 3 => s.temp.toNat
  | 4 => s.winbase.toNat
  | _ => 0

/-- WRITE BUDGET (R42, R298): the value last written by the host, and the one in force (R308), kept in 1,000-2,000. -/
def State.writeBudget (s : State) (v : Nat) : State :=
  if 1000 ≤ v ∧ v ≤ 2000 then { s with budget := v, budgetSet := v } else s

/-- Write bits 31:0 of a control doubleword (R298): read-only ones keep their value. -/
def State.writeControl (s : State) (n : Nat) (v : Word) : State :=
  match n with
  | 2 => s.writeBudget v.toNat
  | 4 => { s with winbase := s.winbase.extractLsb' 32 32 ++ v }
  | _ => s

/-- The breach of `sysr` and `sysw` in handler mode (R230, R330): a selector that names nothing. -/
def UCtx.selectorExtra (c : UCtx) (w : UI) : List (Nat × Nat × Nat) :=
  if c.handling && decide (w.imm.toNat ≥ 256) then [(0x08, 0, w.imm.toNat)] else []

/-- sysr (R230, R298, R326): a word of the trap record, or bits 31:0 of a control doubleword. -/
def execSysr (w : UI) (s : State) : Host.Outcome State Fault Refusal :=
  let n := w.imm.toNat
  uniResult (.sysr w) s (fun c => c.selectorExtra w) fun c =>
    { CoxLanding.empty with
      ks := [(w.d.toNat, if n < 64 then Store.get 0 c.heat.trap n else BitVec.ofNat 32 (s.controlWord (n - 64)))] }

/-- Write a word of the trap record: ACTION and RET only (R322, R326). -/
def writeTrap (t : Store Word) (n : Nat) (v : Word) : Store Word :=
  if n = 0 then Store.set 0 t 0 ((Store.get 0 t 0 &&& ~~~0x30000#32) ||| (v &&& 0x30000#32))
  else if n = 7 ∨ n = 8 then Store.set 0 t n v
  else t

/-- sysw (R230, R298, R326). -/
def execSysw (w : UI) (s : State) : Host.Outcome State Fault Refusal :=
  let n := w.imm.toNat
  issueUni (.sysw w) s 0 (fun c => c.selectorExtra w) fun c s =>
    let v := c.k w.a.toNat
    if n < 64 then s.modHeat c.ref.hid fun h => { h with trap := writeTrap h.trap n v } else s.writeControl (n - 64) v

end Sys2Proof.Machine
end

