-- ==== Sys2Proof/Machine/Engines.lean ====
section
/-! DEFINITION. What the engine commands share (R131, R218, R231-R233, R245, R318, R331, R336): the sides of a command and
the boxes they name, finding a run of granted quanta, starting, failing and completing; and the loop-nest slots. -/
namespace Sys2Proof.Machine

/-! ## Boxes -/

/-- The units that a side touches, in order, dimension 0 fastest: a base address, a count and a byte stride for each
dimension, and the bytes of one unit (an element, a block, or a t5 byte). -/
structure Box where
  base : Int
  dims : List (Nat × Int)
  bytes : Nat
deriving DecidableEq, Repr

/-- Number of units of some dimensions. -/
def countOf (dims : List (Nat × Int)) : Nat := dims.foldl (fun n d => n * d.1) 1

/-- Offset of unit u. -/
def offsetOf : List (Nat × Int) → Nat → Int
  | [], _ => 0
  | (n, st) :: r, u => (u % n : Nat) * st + offsetOf r (u / n)

/-- Address of unit u of a box. -/
def Box.addr (b : Box) (u : Nat) : Int := b.base + offsetOf b.dims u
/-- Units of a box. -/
def Box.units (b : Box) : Nat := countOf b.dims

/-- The least and one past the greatest byte address of a box. -/
def Box.range (b : Box) : Int × Int :=
  b.dims.foldl (fun lh d =>
    let e : Int := ((d.1 - 1 : Nat) : Int) * d.2
    (lh.1 + min 0 e, lh.2 + max 0 e)) (b.base, b.base + b.bytes)

/-- Bytes of a unit of an entry (R79, R80). -/
def Tensor.unit (t : Tensor) : Nat := if isBlock t.fmt then blockBytes t.fmt else if t.fmt = 15 then 1 else elemBytes t.fmt

/-- The dimensions of an entry in units: along the packed axis they are blocks or t5 bytes (R80). -/
def Tensor.unitDims (t : Tensor) : List (Nat × Int) :=
  (List.range t.rank).map fun d =>
    if t.packed = some d then
      (if isBlock t.fmt then (t.extent d / 32, (blockBytes t.fmt : Int)) else (t.extent d / 5, 1))
    else (t.extent d, t.pitch d)

/-- The whole box of an entry (R80, R249). A row is a run of its first dimension. For blocks along another axis a row holds
EXT0 / 32 of them, and rows are as many as the higher dimensions have elements; where EXT0 is no multiple of 32 the rule gives
no row, and it is the whole run of blocks along dimension 0 (log 44). -/
def Tensor.box (t : Tensor) : Box :=
  { base := t.base, bytes := t.unit
    dims := match t.unitDims with
      | (n, st) :: r =>
        if isBlock t.fmt ∧ t.baxis ≠ 0 ∧ n % 32 = 0 then (n / 32, st) :: (32, (n / 32 : Nat) * st) :: r else (n, st) :: r
      | [] => [] }

/-- A box repeated by the levels of a nest (R246), each an iteration count and an increment. -/
def Box.nest (b : Box) (levels : List (Nat × Int)) : Box := { b with dims := b.dims ++ levels }

/-- Whether an entry may be used at all (R79): VALID, with a rank, a format and extents that the record layout allows. -/
def Tensor.usable (t : Tensor) : Bool :=
  t.valid && decide (1 ≤ t.rank ∧ t.rank ≤ 12 ∧ t.fmt < 16) && (List.range t.rank).all fun d => t.extent d != 0

/-- The first offset of a box beyond a team's scratch allocation, in the order of its units, if any (R331). -/
def Team.beyond (t : Team) (b : Box) : Option Int :=
  let lim : Int := (4096 * t.scnt : Nat)
  let r := b.range
  if 0 ≤ r.1 ∧ r.2 ≤ lim then none
  else (List.range b.units).findSome? fun u =>
    let a := b.addr u
    if a < 0 ∨ lim ≤ a then some a else if lim < a + b.bytes then some lim else none

/-- The breach of a box that leaves the allocation (R331). -/
def Team.boxBreach (t : Team) (b : Box) : List (Nat × Nat × Nat) :=
  match t.beyond b with
  | some a => [(0x40, wrapN 64 a, 0)]
  | none => []

/-- The granules of the team's core that byte ranges touch, in order of first touch. -/
def granulesOf (sbase : Nat) (ranges : List (Nat × Nat)) : List Nat :=
  ranges.foldl (fun acc r =>
    let g0 := sbase + r.1 / 4096
    let g1 := sbase + (r.1 + r.2 - 1) / 4096
    let acc := if acc.contains g0 then acc else acc ++ [g0]
    if acc.contains g1 then acc else acc ++ [g1]) []

/-! ## Quanta (R53, R232) -/

/-- THE START OF A COMMAND (R232, R331): the first quantum at or after `earliest` from which n quanta are all granted to
the team, after the quanta of earlier commands, and that ends by END. -/
def startOf (h : Heat) (t : Team) (eng n earliest : Nat) : Option Nat :=
  let cl := clusterOf t.core
  match h.clusterIndex cl with
  | none => none
  | some j =>
    let free := Store.get 0 h.engFree (4 * cl + eng) - t.shift
    let q0 := (max earliest free + 63) / 64
    let granted (q : Nat) : Bool :=
      (List.range (min n 64)).all fun i => h.record.res.getD (256 * j + 64 * eng + (q + i) % 64) 0xF == crewIndex t
    match ((List.range 64).map fun i => q0 + i).find? granted with
    | some q => if 64 * (q + n) ≤ h.record.stop + 1 - t.shift then some (64 * q) else none
    | none => none

/-- What a command's own rule gives for its issue: quanta, earliest start, and the completion cycle of its rule for a
start. -/
structure EngPlan where
  eng : Nat
  n : Nat
  earliest : Nat
  finish : Nat → Nat

/-- Whether the plan finds its quanta (R331). -/
def UCtx.startBreach (c : UCtx) (p : EngPlan) : List (Nat × Nat × Nat) :=
  match startOf c.heat c.team p.eng p.n p.earliest with
  | some _ => []
  | none => [(0x8C, 0, 0)]

/-- The completion cycle that the plan and the command before it on the engine give (R233). -/
def UCtx.completion (c : UCtx) (p : EngPlan) : Nat :=
  let s := (startOf c.heat c.team p.eng p.n p.earliest).getD 0
  max (p.finish s) (Store.get 0 c.heat.engDone (4 * clusterOf c.team.core + p.eng) - c.team.shift)

/-- ISSUE AN ENGINE COMMAND (R60, R218, R231-R233): it counts in ENG, takes its quanta, and starts and completes at the
cycles found. -/
def UCtx.issueEngine (c : UCtx) (s : State) (i : Instr) (w : UE) (opcode : Nat) (p : EngPlan) (body : EngBody)
    (cr : Bool) (crh : Word) : State :=
  let cl := clusterOf c.team.core
  let key := 4 * cl + p.eng
  let st := (startOf c.heat c.team p.eng p.n p.earliest).getD 0
  let fin := c.completion p
  let id := s.nextOp
  let ek := 4 * c.ref.team + p.eng
  let eseq := Store.get 0 c.heat.eseqs ek
  let cmd : EngCmd :=
    { id := id, hid := c.ref.hid, team := c.ref.team, core := c.team.core, cluster := cl, eng := p.eng, eseq := eseq
      opcode := opcode, issue := c.t, start := st, quanta := p.n, completion := fin, body := body, cr := cr, crh := crh
      bar := c.barHandle w, flag := flagFor c.clause i, iter := 0, left := [], buf := [], result := [], image := []
      folds := 0, shape := none, failed := none, held := false, done := false
      blame := { c.blame 0 with rank := engineRank cl p.eng, src := 2 + p.eng, eop := opcode, eseq := eseq } }
  let s : State := { s with nextOp := id + 1, cmds := s.cmds ++ [cmd] }
  let s := s.modCore c.team.core fun k => { k with eng := k.eng + 1 }
  let s := s.modHeat c.ref.hid fun h =>
    { h with
      eseqs := Store.set 0 h.eseqs ek (eseq + 1)
      engFree := Store.set 0 h.engFree key (st + 64 * p.n + c.team.shift)
      engDone := Store.set 0 h.engDone key (fin + c.team.shift) }
  (s.push (c.base + st) 46 (.engineCommandStart id)).push (c.base + fin) 45 (.engineCompletion id)

/-- The breaches of an engine command: its descriptor's, and no quanta for the work it names, or no work (R331). -/
def UCtx.engineExtra (c : UCtx) (own : List (Nat × Nat × Nat)) (plan : Option EngPlan) : List (Nat × Nat × Nat) :=
  own ++ (match plan with
    | some p => c.startBreach p
    | none => if own = [] then [(0x8C, 0, 0)] else [])

/-- The places of the tensor entries and generator registers that selectors name (R349): an even generator register of a phase
mode with its partner. -/
def UCtx.selected (c : UCtx) (codes : List Nat) : List Nat :=
  (codes.map fun x =>
    if x < 64 then [teamPlace c.ref (448 + x)]
    else if 96 ≤ x ∧ x < 104 then
      teamPlace c.ref (288 + x) :: (if genPhase (Store.get 0 c.team.g (x - 96)) then [teamPlace c.ref (289 + x)] else [])
    else []).flatten

/-- The breach of an engine command whose entries or generator registers hold an error that cannot be corrected (R349). -/
def UCtx.selectedExtra (c : UCtx) (s : State) (codes : List Nat) : List (Nat × Nat × Nat) :=
  if s.uncorrectable 2 (c.selected codes).contains then [(0xF3, 0, 0)] else []

/-- AN ENGINE COMMAND at its issue: its breaches, with the search for its quanta where its work has a length; then its
issue. `codes` are the selectors of what it captures; `plan` answers none when the descriptor names no work that could be
planned. -/
def uniEngine (i : Instr) (w : UE) (s : State) (opcode : Nat) (codes : UCtx → List Nat)
    (extra : UCtx → List (Nat × Nat × Nat)) (plan : UCtx → Option EngPlan) (body : UCtx → EngBody) (cr : Bool) :
    Host.Outcome State Fault Refusal :=
  checkUni i s (fun c => c.engineExtra (extra c ++ c.selectedExtra s (codes c)) (plan c)) fun c => match plan c with
    | none => c.issueFault s 0x8C 0 0
    | some p =>
      c.issueEngine ((c.commit s i (c.completion p - c.t)).corrected 2 (c.selected (codes c)).contains) i w opcode p (body c)
        cr (if cr then c.k (w.d.toNat + 3) else 0)

/-! ## Failing and completing (R318, R336) -/

/-- The pod cycle of heat cycle 0 of a command's team. -/
def State.cmdBase (s : State) (c : EngCmd) : Nat := s.teamBase ⟨c.hid, c.team⟩

/-- Remove the steps of a command from a place on. -/
def State.cancelFrom (s : State) (id place : Nat) : State :=
  s.cancel fun e => match cmdPlace e with
    | some (c, p) => c == id && decide (place ≤ p)
    | none => false

/-- Hold a command behind a failed one (R318): it does not start, or does no more, and leaves ENG. -/
def State.holdCmd (s : State) (c : EngCmd) : State :=
  ((s.cancelFrom c.id 0).modCmd c.id fun x => { x with held := true }).modCore c.core fun k => { k with eng := k.eng - 1 }

/-- Whether an earlier command of the engine is still to complete (R131, R233). -/
def State.engBlocked (s : State) (c : EngCmd) : Bool :=
  s.cmds.any fun x => x.cluster == c.cluster && x.eng == c.eng && decide (x.id < c.id) && x.failed.isNone && !x.held

/-- Bytes of the destination box of one iteration of a copy (R251). -/
def destBytes : EngBody → Nat
  | .xcp b => match b.dst, b.src with
    | .entry t, _ => t.box.units * t.unit
    | .tile _, .entry t => t.extent 0 * t.extent 1 * 4
    | _, .entry t => t.box.units * t.unit
    | _, _ => 0
  | .xfer _ d _ => d.box.units * d.unit
  | _ => 0

/-- Apply the credits of finished iterations in their order (R251). Fuel bounds the iterations. -/
def applyCredits : Nat → State → Nat → State
  | 0, s, _ => s
  | n + 1, s, id =>
    match s.cmd? id with
    | none => s
    | some c =>
      if Store.get 0 c.left c.iter = 1 then
        let s := s.modCmd id fun x => { x with iter := x.iter + 1, left := Store.set 0 x.left c.iter 0 }
        let s := if c.cr then s.barChange c.core c.crh 0 (destBytes c.body) 0 true c.blame else s
        applyCredits n s id
      else s

/-- Apply the credits a command may apply now: none while an earlier command of its channel is still to complete (R251). -/
def State.creditCmd (s : State) (id : Nat) : State :=
  match s.cmd? id with
  | none => s
  | some c => if s.engBlocked c then s else applyCredits c.left.length s id

/-- Apply the credits of failed commands of an engine that waited for an earlier command (R251, R318). -/
def State.creditFailed (s : State) (cl eng : Nat) : State :=
  (s.cmds.filter fun x => x.cluster == cl && x.eng == eng && x.failed.isSome).foldl (fun s x => s.creditCmd x.id) s

/-- AN ENGINE COMMAND FAILS at a place (R318, R328, R336): that beat and every later one perform nothing; with the first
failure the command leaves ENG, the commanding cox stops, and the team's later commands on the engine are held: none of
them could complete before this one (R233). Credits of failed commands that waited for this one are applied (R251). -/
def State.failCmd (s : State) (c : EngCmd) (place cause addr info : Nat) (iter : List Nat) : State :=
  let s := s.cancelFrom c.id place
  let d := { c.blame with cause := cause, addr := addr, info := info, iter := iter }
  match c.failed with
  | some p => ((s.modCmd c.id fun x => { x with failed := some (min p place) }).detect d).afterCounter c.hid
  | none =>
    let s := (s.modCmd c.id fun x => { x with failed := some place }).modCore c.core fun k => { k with eng := k.eng - 1 }
    let later := s.cmds.filter fun x => x.hid == c.hid && x.team == c.team && x.eng == c.eng && decide (c.eseq < x.eseq) &&
      !x.held && x.failed.isNone
    let s := (later.foldl (fun s x => s.holdCmd x) s).creditFailed c.cluster c.eng
    ((s.stopCox ⟨c.hid, c.team⟩).detect d).afterCounter c.hid

/-- COMPLETE A COMMAND (R233): its credits are in; it leaves ENG, its flag clears and its arrival is applied. -/
def State.finishCmd (s : State) (c : EngCmd) : State :=
  let s := s.creditCmd c.id
  let s := (s.modCore c.core fun k => { k with eng := k.eng - 1 }).clearCoxFlag ⟨c.hid, c.team⟩ c.flag
  let s := match c.bar with
    | some h => s.barChange c.core h 0 0 1 true c.blame
    | none => s
  ({ s with cmds := s.cmds.filter fun x => x.id ≠ c.id } : State).afterCounter c.hid

/-- Complete, in issue order, every command of an engine whose own cycle has come, and apply the credits that waited. Fuel
bounds the commands. -/
def finishReady : Nat → State → Nat → Nat → State
  | 0, s, _, _ => s
  | n + 1, s, cl, eng =>
    match s.cmds.find? (fun x => x.cluster == cl && x.eng == eng && x.failed.isNone && !x.held) with
    | none => s
    | some c => if c.done then finishReady n ((s.finishCmd c).creditFailed cl eng) cl eng else s.creditCmd c.id

/-- ENGINE_COMPLETION (R233). A command whose predecessor on the engine is still to complete waits for it. -/
def execEngineCompletion (s : State) : Host.Outcome State Fault Refusal :=
  match s.arg with
  | .engineCompletion id =>
    match s.cmd? id with
    | none => .next s
    | some c =>
      if c.failed.isSome || c.held then .next s
      else
        let s := s.modCmd id fun x => { x with done := true }
        .next (finishReady (s.cmds.length + 1) s c.cluster c.eng)
  | _ => .fault .noData

/-- ENGINE_COMMAND_START (R232): the command's quanta begin, and its first work is put on the agenda. -/
def execEngineCommandStart (s : State) : Host.Outcome State Fault Refusal :=
  match s.arg with
  | .engineCommandStart id =>
    match s.cmd? id with
    | none => .next s
    | some c =>
      let base := s.cmdBase c
      .next (match c.body with
        | .mma _ =>
          (((s.tick 2 c.cluster c.quanta).push s.now 60 (.matrixRead id)).push (base + c.start + 96) 60
            (.matrixWrite id false)).push (base + c.completion) 40 (.matrixWrite id true)
        | .xcp _ => s.pushSub s.now 60 (4 + c.eng) (.copyBeat id 0)
        | .lay .. => s.push s.now 60 (.layoutBeat id 0)
        | .xfer .. => s)
  | _ => .fault .noData

/-! ## Loop nests (R245) -/

/-- The breaches of `nest` (R245, R330, R331). -/
def UCtx.nestExtra (c : UCtx) (w : UE) : List (Nat × Nat × Nat) :=
  let d := w.d.toNat
  (if c.kn d ≥ 8 then [(0x03, 0, 0)] else []) ++ (if d + 1 + 3 * (c.kn d % 8) > 64 then [(0x27, 0, 0)] else [])

/-- nest (R225, R245): a loop-nest slot at t + 4; the command counts in ENG until then. A descriptor that would pass k63 breaks
R331. -/
def execNest (w : UE) (s : State) : Host.Outcome State Fault Refusal :=
  let d := w.d.toNat
  let lv (c : UCtx) : Nat := c.kn d % 8
  issueUni (.nest w) s 4
    (fun c => c.nestExtra w)
    fun c s => (s.modCore c.team.core fun k => { k with eng := k.eng + 1 }).push (s.now + 4) 10 (.coxResult c.ref
      { CoxLanding.empty with
        nests := [(w.flags.toNat % 4, (List.range (lv c)).map fun l =>
          (c.kn (d + 1 + 3 * l), sextInt (c.kn (d + 2 + 3 * l)) 32, sextInt (c.kn (d + 3 + 3 * l)) 32))] })

end Sys2Proof.Machine
end

