-- ==== Sys2Proof/Machine/Matrix.lean ====
section
/-! DEFINITION. The matrix engine (R234-R238, R363): the checks of `mma` at issue, reading the operands, the pass, and
writing D. The model reads every operand at the pass's start and writes D in row order, at free cycles of its write interval, the
last element at the completion; owners are tested throughout both intervals (log 40). -/
namespace Sys2Proof.Machine

/-- Bits 31, 23, 15 and 7 of a selector word, which are reserved (R234, R246). -/
def selReserved (x : Nat) : Bool := x.testBit 31 || x.testBit 23 || x.testBit 15 || x.testBit 7

/-- The side that a selector names (R234, Table 3; R246). -/
def UCtx.side (c : UCtx) (code host : Nat) : Side :=
  if code < 64 then .entry (Store.get Tensor.init c.team.t code)
  else if code < 88 then .tile (code - 64)
  else if 96 ≤ code ∧ code < 104 then
    .gen (code - 96) (Store.get 0 c.team.g (code - 96)) (Store.get 0 c.team.g (code - 95))
  else if code = 126 then .host host
  else .none code

/-- The selectors of `mma` (R234): A, B, C, D. C is ignored with ZC = 1. -/
def UCtx.mmaCodes (c : UCtx) (w : UE) : List Nat :=
  let x := c.kn w.d.toNat
  [bits x 6 0, bits x 14 8] ++ (if w.flags.getLsbD 8 then [] else [bits x 22 16]) ++ [bits x 30 24]

/-- The captured descriptor of `mma` (R234, Table 2). -/
def UCtx.mma (c : UCtx) (w : UE) : MmaBody :=
  let d := w.d.toNat
  let x (j : Nat) : Nat := c.kn (d + j)
  let f := w.flags
  { na := f.getLsbD 10, nb := f.getLsbD 9, zc := f.getLsbD 8, ta := f.getLsbD 7, tb := f.getLsbD 6
    m := bits (x 1) 21 15 + 1, n := bits (x 1) 28 22 + 1, k := bits (x 1) 14 0
    arow := bits (x 2) 15 0, ak := bits (x 2) 31 16, bk := bits (x 3) 15 0, bcol := bits (x 3) 31 16
    crow := bits (x 4) 15 0, ccol := bits (x 4) 31 16, drow := bits (x 5) 15 0, dcol := bits (x 5) 31 16
    a := c.side (bits (x 0) 6 0) 0, b := c.side (bits (x 0) 14 8) 0
    c := if f.getLsbD 8 then .none 0 else c.side (bits (x 0) 22 16) 0, d := c.side (bits (x 0) 30 24) 0 }

/-! ## Formats (R236, Table 4) -/

/-- The format code of an operand, if it has one: a usable entry, or a generator of an assigned OTYPE. -/
def operandFmt (s : Side) : Option Nat :=
  match s with
  | .entry t => if t.usable then some t.fmt else none
  | .gen _ g _ => if genType g ≤ 4 then some (genFmt (genType g)) else none
  | _ => none

/-- What a pair of operand formats selects: the integer path or not, g, W and κ. -/
structure PassKind where
  int : Bool
  g : Nat
  W : Nat
  kappa : Nat

/-- The class of an operand format: 0 bf16 and f16, 1 e4m3 and e5m2, 2 db8, 3 db4, 4 t5, 5 i8. -/
def fmtClass (f : Nat) : Nat :=
  if f = 9 ∨ f = 10 then 0 else if f = 11 ∨ f = 12 then 1 else if f = 13 then 2 else if f = 14 then 3
  else if f = 15 then 4 else if f = 0 then 5 else 6

/-- Table 4 of R236, whichever operand comes first. -/
def passKind (fa fb : Nat) : Option PassKind :=
  let x := min (fmtClass fa) (fmtClass fb)
  let y := max (fmtClass fa) (fmtClass fb)
  match x, y with
  | 0, 0 => some ⟨false, 8, 28, 1⟩
  | 1, 1 => some ⟨false, 16, 25, 2⟩
  | 0, 1 => some ⟨false, 16, 25, 1⟩
  | 2, 2 => some ⟨false, 32, 24, 2⟩
  | 3, 3 => some ⟨false, 32, 24, 4⟩
  | 2, 3 => some ⟨false, 32, 24, 2⟩
  | 0, 4 => some ⟨false, 8, 28, 1⟩
  | 1, 4 => some ⟨false, 16, 25, 2⟩
  | 5, 5 => some ⟨true, 32, 0, 2⟩
  | 4, 5 => some ⟨true, 32, 0, 2⟩
  | 4, 4 => some ⟨true, 32, 0, 4⟩
  | _, _ => none

/-- The kind of a pass. -/
def MmaBody.kind (b : MmaBody) : Option PassKind :=
  match operandFmt b.a, operandFmt b.b with
  | some x, some y => passKind x y
  | _, _ => none

/-- Whether C or D has a format that the path allows (R236); a side that names no format is judged by its own check. -/
def outFmtOk (int : Bool) (s : Side) : Bool :=
  match s with
  | .entry t => !t.usable || (if int then t.fmt == 2 else t.fmt == 8 || t.fmt == 9 || t.fmt == 10)
  | _ => true

/-! ## Checks at issue (R330, R331) -/

/-- The logical position of an operand's element (u, v) (R235). -/
def logical (swap : Bool) (u v : Nat) : Nat × Nat := if swap then (v, u) else (u, v)

/-- An operand region: its side, whether it is read transposed, its origin and its shape in (u, v). -/
structure Region where
  side : Side
  swap : Bool
  u0 : Nat
  v0 : Nat
  nu : Nat
  nv : Nat

/-- The regions of a pass: A, B, C, D (R235). -/
def MmaBody.regions (b : MmaBody) : List Region :=
  [⟨b.a, b.ta, b.arow, b.ak, b.m, b.k⟩, ⟨b.b, b.tb, b.bk, b.bcol, b.k, b.n⟩, ⟨b.c, false, b.crow, b.ccol, b.m, b.n⟩,
   ⟨b.d, false, b.drow, b.dcol, b.m, b.n⟩]

/-- The first (row, col) of a region, and its rows and columns. -/
def Region.rect (r : Region) : (Nat × Nat) × (Nat × Nat) := (logical r.swap r.u0 r.v0, logical r.swap r.nu r.nv)

/-- The box of scratch units that a region of an entry covers (R80, R235). -/
def Region.box (r : Region) (t : Tensor) : Box :=
  let p := r.rect
  let along (d o n : Nat) : Nat × Int × Int :=
    if t.packed = some d then
      let step := if isBlock t.fmt then 32 else 5
      let size : Int := if isBlock t.fmt then (blockBytes t.fmt : Int) else 1
      ((o + n - 1) / step - o / step + 1, size, (o / step : Nat) * size)
    else (n, t.pitch d, (o : Nat) * t.pitch d)
  let x := along 0 p.1.2 p.2.2
  let y := along 1 p.1.1 p.2.1
  { base := t.base + x.2.2 + y.2.2, dims := [(x.1, x.2.1), (y.1, y.2.1)], bytes := t.unit }

/-- What a region of an entry or a tile breaks (R331). -/
def UCtx.regionBreach (c : UCtx) (r : Region) : List (Nat × Nat × Nat) :=
  let p := r.rect
  match r.side with
  | .entry t =>
    if !t.usable || t.rank != 2 || t.loc then [(0xA5, 0, 0)]
    else (if p.1.1 + p.2.1 > t.extent 1 ∨ p.1.2 + p.2.2 > t.extent 0 then [(0xA6, 0, 0)] else []) ++
      c.team.boxBreach (r.box t)
  | .tile n =>
    (if n < c.team.abase ∨ n ≥ c.team.abase + c.team.acnt then [(0x48, 0, n)] else []) ++
    (if p.1.1 + p.2.1 > 128 ∨ p.1.2 + p.2.2 > 128 then [(0xA6, 0, 0)] else [])
  | _ => []

/-- What an operand's selector or generator breaks (R330): A and B take entries and generators, C and D entries and tiles. INFO
names the selector (R322). -/
def operandBreach (s : Side) : List (Nat × Nat × Nat) :=
  match s with
  | .entry _ => []
  | .gen n g _ =>
    if genMode g > 8 ∨ genType g > 4 ∨ (genPhase g && n % 2 == 1) ∨ (genSplit g ≠ 0 ∧ genType g ≠ 0) then [(0xA7, 0, 96 + n)]
    else []
  | .tile n => [(0xA7, 0, 64 + n)]
  | .host _ => [(0xA7, 0, 126)]
  | .none n => [(0xA7, 0, n)]

/-- What a C or D selector breaks. -/
def outBreach (s : Side) : List (Nat × Nat × Nat) :=
  match s with
  | .entry _ => []
  | .tile _ => []
  | .gen n _ _ => [(0xA7, 0, 96 + n)]
  | .host _ => [(0xA7, 0, 126)]
  | .none n => [(0xA7, 0, n)]

/-- Whether two operands name a phase register and its partner (R78). -/
def partnerBreach (a b : Side) : Bool :=
  match a, b with
  | .gen n g _, .gen m _ _ => genPhase g && n % 2 == 0 && m == n + 1
  | _, _ => false

/-- Whether the reduction of an operand runs along the dimension that its packed format requires (R235). -/
def axisBreach (s : Side) (dim : Nat) : Bool :=
  match s with
  | .entry t => (isBlock t.fmt && t.baxis != dim) || (t.fmt == 15 && dim != 0)
  | _ => false

/-- Every breach of an `mma` at its issue (R330, R331). -/
def UCtx.mmaExtra (c : UCtx) (w : UE) : List (Nat × Nat × Nat) :=
  let d := w.d.toNat
  let b := c.mma w
  let one (p : Bool) (cause : Nat) : List (Nat × Nat × Nat) := if p then [(cause, 0, 0)] else []
  one (selReserved (c.kn d) || decide (c.kn (d + 1) ≥ 2 ^ 29)) 0x03 ++
  operandBreach b.a ++ operandBreach b.b ++ (if b.zc then [] else outBreach b.c) ++ outBreach b.d ++
  (b.regions.map fun r => c.regionBreach r).flatten ++
  one (partnerBreach b.a b.b || partnerBreach b.b b.a) 0xA4 ++
  one (axisBreach b.a (if b.ta then 1 else 0) || axisBreach b.b (if b.tb then 0 else 1)) 0xA3 ++
  (match b.kind with
   | none => one ((operandFmt b.a).isSome && (operandFmt b.b).isSome) 0xA4
   | some p =>
     one (!(b.zc || outFmtOk p.int b.c) || !outFmtOk p.int b.d) 0xA4 ++
     one (decide (b.k < 8 ∨ b.k > 16384) || b.k % p.g != 0) 0xAA)

/-- The plan of a pass (R238). -/
def UCtx.mmaPlan (c : UCtx) (w : UE) : Option EngPlan :=
  let b := c.mma w
  b.kind.map fun p =>
    { eng := 0, n := (96 + b.k / p.kappa + 63) / 64, earliest := c.t + 4, finish := fun s => s + 96 + b.k / p.kappa }

/-- mma (R234). -/
def execMma (w : UE) (s : State) : Host.Outcome State Fault Refusal :=
  uniEngine (.mma w) w s 0x55 (fun c => c.mmaCodes w) (fun c => c.mmaExtra w) (fun c => c.mmaPlan w) (fun c => .mma (c.mma w)) false

/-! ## Reading (R235, R363) -/

/-- A matrix element as a floating value, an integer taken exactly. -/
def Elem.asFlt : Elem → FVal
  | .flt v => v
  | .int x => FVal.int x

/-- A matrix element as an integer. -/
def Elem.asInt : Elem → Int
  | .int x => x
  | .flt _ => 0

/-- An element of an entry at (row, col) of its team's scratch (R80, R87, R98, R101, R363). -/
def State.entryElem (s : State) (core base : Nat) (t : Tensor) (row col : Nat) : Elem :=
  let a := base + (t.addr [col, row]).toNat
  if isBlock t.fmt then
    .flt (blockElem t.fmt t.scale ((s.readScratch core a (blockBytes t.fmt)).map (·.toNat))
      ((if t.baxis = 0 then col else row) % 32))
  else
    let x := ofLeBytes (s.readScratch core a (max 1 (elemBytes t.fmt)))
    if t.fmt = 15 then .int (trit x (col % 5))
    else match fmtOf t.fmt with
      | some F => .flt ((F.decode x).scale t.scale)
      | none => .int (sextInt x (8 * elemBytes t.fmt))

/-- The place of a team's scratch and what its generators need. -/
structure PassCtx where
  core : Nat
  base : Nat
  cluster : Nat
  heatid : Nat
  team : Nat

/-- An element of a region at (u, v) (R235): f32 bits of a tile on the floating path, i32 on the integer path. -/
def State.regionElem (s : State) (p : PassCtx) (int : Bool) (r : Region) (u v : Nat) : Elem :=
  let at' := logical r.swap (r.u0 + u) (r.v0 + v)
  match r.side with
  | .entry t => s.entryElem p.core p.base t at'.1 at'.2
  | .tile n =>
    let x := (Store.get 0 s.tiles (tileKey p.cluster n at'.1 at'.2)).toNat
    if int then .int (sextInt x 32) else .flt (f32.decode x)
  | .gen _ g odd => genElem g odd p.heatid p.team (logical r.swap r.u0 r.v0) at'.1 at'.2
  | _ => .int 0

/-- The negation of a value when asked. -/
def negIf (n : Bool) (v : FVal) : FVal := if n then v.neg else v

/-- The numbers 0 … n - 1 in groups of g (R104). -/
def groupsOf (g n : Nat) : List (List Nat) := (List.range (n / g)).map fun j => (List.range g).map fun i => g * j + i

/-- One element of the pass (R237): the f32 or i32 bits that D receives, from one row of A and one column of B. -/
def passElem (b : MmaBody) (k : PassKind) (a bb : List Elem) (c : Elem) : Nat :=
  if k.int then
    let sg : Int := if b.na != b.nb then -1 else 1
    let ps := groupsOf k.g b.k |>.map fun ks => ks.map fun i => sg * ((a.getD i (.int 0)).asInt * (bb.getD i (.int 0)).asInt)
    wrapN 32 (passInt ps (if b.zc then 0 else c.asInt))
  else
    let ps := groupsOf k.g b.k |>.map fun ks => ks.map fun i =>
      (negIf b.na (a.getD i (.int 0)).asFlt).mul (negIf b.nb (bb.getD i (.int 0)).asFlt)
    passFloat k.W ps (if b.zc then .fin false 0 0 else c.asFlt)

/-- THE PASS (R237): D's elements in row order, from the operands as they stand. -/
def State.pass (s : State) (p : PassCtx) (b : MmaBody) (k : PassKind) : List Nat :=
  match b.regions with
  | [ra, rb, rc, _] =>
    let rows := (List.range b.m).map fun i => (List.range b.k).map fun l => s.regionElem p k.int ra i l
    let cols := (List.range b.n).map fun j => (List.range b.k).map fun l => s.regionElem p k.int rb l j
    ((((List.range b.m).zip rows).map fun ia =>
      ((List.range b.n).zip cols).map fun jb =>
        passElem b k ia.2 jb.2 (if b.zc then .int 0 else s.regionElem p k.int rc ia.1 jb.1)).flatten)
  | _ => []

/-- The core-relative granules that regions of entries touch. -/
def regionGranules (sbase : Nat) (rs : List Region) : List Nat :=
  granulesOf sbase ((rs.map fun r => match r.side with
    | .entry t => (List.range (r.box t).units).map fun u => (((r.box t).addr u).toNat, (r.box t).bytes)
    | _ => []).flatten)

/-- What the granules break for an engine now (R113, R333): the lowest cause, and the granule's first offset in the
team's allocation. -/
def State.granuleBreach (s : State) (core sbase code : Nat) (gs : List Nat) : Option (Nat × Nat) :=
  let bad := gs.filterMap fun g => (s.ownerTest core g code).map fun closed => (ownerCause false closed, 4096 * (g - sbase))
  match lowest (bad.map (·.1)) with
  | none => none
  | some cause => bad.find? fun e => e.1 == cause

/-- The 64-bit words of scratch, and the elements of tiles, that the regions of a pass read. -/
def regionWords (p : PassCtx) (rs : List Region) (kind : Nat) (x : Nat) : Bool :=
  rs.any fun r => match r.side with
    | .entry t => kind == 0 && (List.range (r.box t).units).any fun u =>
        let a := scratchKey p.core (p.base + ((r.box t).addr u).toNat)
        decide (a / 8 ≤ x ∧ x ≤ (a + (r.box t).bytes - 1) / 8)
    | .tile n => kind == 1 && (List.range r.nu).any fun u => (List.range r.nv).any fun v =>
        x == tileKey p.cluster n (r.u0 + u) (r.v0 + v)
    | _ => false

/-- Errors that cannot be corrected in what a pass reads (R349). -/
def State.passEcc (s : State) (p : PassCtx) (rs : List Region) : Option Nat :=
  lowest (breach (s.uncorrectable 0 (regionWords p rs 0)) 0xF0 ++ breach (s.uncorrectable 1 (regionWords p rs 1)) 0xF1)

/-- The context of a command's pass. -/
def State.passCtx (s : State) (c : EngCmd) : PassCtx :=
  let t := s.team? ⟨c.hid, c.team⟩
  { core := c.core, base := 4096 * (t.map (·.sbase)).getD 0, cluster := c.cluster, heatid := (s.heatidOf c.hid).toNat
    team := c.team }

/-- The breach of owners that a pass meets in the current cycle: what it reads in its read interval, what it writes in its
write interval (R115, R238). -/
def State.passOwners (s : State) (c : EngCmd) (b : MmaBody) (k : PassKind) : Option (Nat × Nat) :=
  let p := s.passCtx c
  let now := s.now - s.cmdBase c
  let len := b.k / k.kappa
  let reads := if c.start ≤ now ∧ now ≤ c.start + len + 31 then b.regions.take (if b.zc then 2 else 3) else []
  let writes := if c.start + 96 ≤ now ∧ now ≤ c.start + 95 + len then b.regions.drop 3 else []
  s.granuleBreach p.core (p.base / 4096) 2 (regionGranules (p.base / 4096) (reads ++ writes))

/-- MATRIX_READ (R235, R237, R238): at the pass's start its operands are read; whenever a flip may cut the pass its
granules are tested again. -/
def execMatrixRead (s : State) : Host.Outcome State Fault Refusal :=
  match s.arg with
  | .matrixRead id =>
    match s.cmd? id with
    | none => .next s
    | some c =>
      match c.body with
      | .mma b =>
        match b.kind with
        | none => .next s
        | some k =>
          match s.passOwners c b k with
          | some e => .next (s.failCmd c 0 e.1 e.2 0 [])
          | none =>
            if s.now - s.cmdBase c = c.start then
              let p := s.passCtx c
              let rs := b.regions.take (if b.zc then 2 else 3)
              match s.passEcc p rs with
              | some cause => .next (s.failCmd c 0 cause 0 0 [])
              | none => .next (((s.corrected 0 (regionWords p rs 0)).corrected 1 (regionWords p rs 1)).modCmd id fun x =>
                  { x with result := s.pass p b k, folds := 0 })
            else .next s
      | _ => .next s
  | _ => .fault .noData

/-- Mark a tile written, by values of 32-bit integers or of f32 (R85, R248). -/
def Team.wroteTile (t : Team) (n : Nat) (int : Bool) : Team :=
  { t with
    adirty := t.adirty ||| (1#24 <<< n)
    aint := if int then t.aint ||| (1#24 <<< n) else t.aint &&& ~~~(1#24 <<< n) }

/-- The bytes that D receives for a result (R105, R363). -/
def outBytes (int : Bool) (t : Tensor) (x : Nat) : List Byte :=
  if int then leBytes 4 x
  else match fmtOf t.fmt with
    | some F => leBytes (elemBytes t.fmt) (F.rne ((f32.decode x).scale (-t.scale)))
    | none => []

/-- Write the elements of D from number `first` on, `n` of them (R237): only those of the M x N region. A tile then holds the
format of the path (R248). -/
def State.writeD (s : State) (c : EngCmd) (b : MmaBody) (k : PassKind) (first n : Nat) : State :=
  let p := s.passCtx c
  let es := (((List.range c.result.length).zip c.result).drop first).take n
  let s := s.modCmd c.id fun x => { x with folds := first + es.length }
  match b.d with
  | .tile n =>
    let s : State := { s with tiles := Store.setAll 0 s.tiles (es.map fun e =>
      (tileKey c.cluster n (b.drow + e.1 / b.n) (b.dcol + e.1 % b.n), BitVec.ofNat 32 e.2)) }
    s.modTeam ⟨c.hid, c.team⟩ fun t => t.wroteTile n k.int
  | .entry t =>
    es.foldl (fun s e =>
      let a := p.base + (t.addr [b.dcol + e.1 % b.n, b.drow + e.1 / b.n]).toNat
      let bs := outBytes k.int t e.2
      (s.writeScratch c.core a bs).modTeam ⟨c.hid, c.team⟩ fun t => t.markScratch a bs.length) s
  | _ => s

/-- WRITE PART OF D in the write interval (R238): a free number of its elements now, at least one being left for the completion,
and the next part at a free later cycle of the interval (log 40). -/
def State.writePart (s : State) (c : EngCmd) (b : MmaBody) (k : PassKind) : State :=
  let left := c.result.length - c.folds
  let n := s.choose 0 (left - 1)
  let s := n.2.writeD c b k c.folds n.1
  let stop := s.cmdBase c + c.start + 95 + b.k / k.kappa
  let x := s.choose (s.now + 1) (stop + 1)
  if x.1 ≤ stop then x.2.push x.1 60 (.matrixWrite c.id false) else x.2

/-- MATRIX_WRITE (R237, R238): a part of D performs in the write interval, or its last elements at the completion cycle. -/
def execMatrixWrite (s : State) : Host.Outcome State Fault Refusal :=
  match s.arg with
  | .matrixWrite id last =>
    match s.cmd? id with
    | none => .next s
    | some c =>
      match c.body with
      | .mma b =>
        match b.kind with
        | none => .next s
        | some k =>
          if last then .next (s.writeD c b k c.folds c.result.length)
          else match s.passOwners c b k with
            | some e => .next (s.failCmd c 0 e.1 e.2 0 [])
            | none => .next (s.writePart c b k)
      | _ => .next s
  | _ => .fault .noData

end Sys2Proof.Machine
end

