-- ==== Sys2Proof/Machine/Copy.lean ====
section
/-! DEFINITION. The copy engine (R246-R251, R336): the checks of `xcp` at issue, the beats of a row and the pieces they
read and write, and each beat's source read and destination write. A beat is named by its place: 2^28 x (row of the
command, counted over all iterations) + beat of the row. -/
namespace Sys2Proof.Machine

/-! ## Sides, boxes and formats (R246-R248) -/

/-- A side of an `xcp` (R246): generator codes are unassigned here. -/
def UCtx.copySide (c : UCtx) (code host : Nat) : Side := if 96 ≤ code ∧ code < 104 then .none code else c.side code host

/-- Whether a tile side of a copy counts as i32 (R248): a source by what it holds, a destination by the entry that it receives
(log 43). -/
def UCtx.tileInt (c : UCtx) (src dst : Side) : Bool :=
  match src, dst with
  | .tile n, _ => c.team.aint.getLsbD n
  | .entry t, .tile _ => t.fmt == 2
  | _, _ => false

/-- The selectors of `xcp` (R246). -/
def UCtx.xcpCodes (c : UCtx) (w : UE) : List Nat := [bits (c.kn w.d.toNat) 6 0, bits (c.kn w.d.toNat) 14 8]

/-- The captured descriptor of `xcp` (R246, Table 7). -/
def UCtx.xcp (c : UCtx) (w : UE) : XcpBody :=
  let d := w.d.toNat
  let x := c.kn d
  let host := c.kn (d + 1) + 2 ^ 32 * c.kn (d + 2)
  let slot := Store.get { levels := [] } c.team.nest (bits w.flags.toNat 7 6)
  let src := c.copySide (bits x 6 0) host
  let dst := c.copySide (bits x 14 8) host
  { src := src, dst := dst, tint := c.tileInt src dst, trow := bits x 22 16, tcol := bits x 30 24
    levels := if w.flags.getLsbD 8 then slot.levels else [] }

/-- The shaping entry (R247). -/
def XcpBody.shape (b : XcpBody) : Option Tensor :=
  match b.src, b.dst with
  | .entry t, _ => some t
  | _, .entry t => some t
  | _, _ => none

/-- The format of a side (R247, R248). -/
def XcpBody.fmt (b : XcpBody) (shape : Tensor) (s : Side) : Nat :=
  match s with
  | .entry t => t.fmt
  | .tile _ => if b.tint then 2 else 8
  | _ => shape.fmt

/-- Whether a conversion is one of Table 8 (R248). -/
def convOk (s d : Nat) : Bool :=
  s == d || (s == 8 && (9 ≤ d && d ≤ 12)) || ((s == 9 || s == 10) && (d == 8 || d == 11 || d == 12)) ||
  ((8 ≤ s && s ≤ 10) && (d == 13 || d == 14))

/-- Whether the conversion runs the block quantiser (R248). -/
def isQuant (s d : Nat) : Bool := s != d && (d == 13 || d == 14)

/-- Strides of a box with no gaps, dimension 0 fastest (R247). -/
def packedDims (bytes : Nat) : List (Nat × Int) → List (Nat × Int)
  | [] => []
  | (n, _) :: r => (n, (bytes : Int)) :: packedDims (bytes * n) r

/-- The box of one iteration of a side (R247). -/
def XcpBody.box (b : XcpBody) (shape : Tensor) (s : Side) : Box :=
  match s with
  | .entry t => t.box
  | .tile _ => { base := (512 * b.trow + 4 * b.tcol : Nat), dims := [(shape.extent 0, 4), (shape.extent 1, 512)], bytes := 4 }
  | .host a => { base := a, dims := packedDims shape.unit shape.box.dims, bytes := shape.unit }
  | _ => { base := 0, dims := [], bytes := 1 }

/-- The source's levels: counts and increments. -/
def XcpBody.srcInc (b : XcpBody) : List (Nat × Int) := b.levels.map fun l => (l.1, l.2.1)
/-- The destination's levels. -/
def XcpBody.dstInc (b : XcpBody) : List (Nat × Int) := b.levels.map fun l => (l.1, l.2.2)
/-- Iterations of the command (R246). -/
def XcpBody.iters (b : XcpBody) : Nat := countOf b.srcInc

/-! ## Rows and pieces (R249) -/

/-- One side of a row: where its run begins, the stride and bytes of its units, its bytes, and whether it is global. -/
structure RowSide where
  base : Int
  step : Int
  bytes : Nat
  len : Nat
  glob : Bool

/-- Address of byte p of the run. -/
def RowSide.addr (r : RowSide) (p : Nat) : Int :=
  let a := r.base + (p / r.bytes : Nat) * r.step + (p % r.bytes : Nat)
  if r.glob then (wrapN 56 a : Nat) else a

/-- Insert into a rising list without repeats. -/
def insertUp (x : Nat) : List Nat → List Nat
  | [] => [x]
  | y :: r => if x < y then x :: y :: r else if x = y then y :: r else y :: insertUp x r

/-- Whether the run has no gaps. -/
def RowSide.dense (r : RowSide) : Bool := decide (r.step = r.bytes)

/-- The aligned 256-byte blocks that a global run with gaps touches, rising. -/
def RowSide.blocks (r : RowSide) : List Nat :=
  (List.range r.len).foldl (fun acc p => insertUp ((r.addr p).toNat / 256) acc) []

/-- Number of pieces (R249). -/
def RowSide.count (r : RowSide) : Nat :=
  if !r.glob then (r.len + 255) / 256
  else if r.dense then ((r.addr 0).toNat % 256 + r.len + 255) / 256
  else r.blocks.length

/-- The piece that holds byte p. -/
def RowSide.pieceOf (r : RowSide) (p : Nat) : Nat :=
  if !r.glob then p / 256
  else if r.dense then ((r.addr 0).toNat % 256 + p) / 256
  else (r.blocks.findIdx? (· == (r.addr p).toNat / 256)).getD 0

/-- The bytes of piece j, in order. -/
def RowSide.piece (r : RowSide) (j : Nat) : List Nat :=
  let run (a b : Nat) : List Nat := (List.range (b - a)).map fun i => a + i
  if !r.glob then run (256 * j) (min r.len (256 * j + 256))
  else if r.dense then
    let o := (r.addr 0).toNat % 256
    run (256 * j - o) (min r.len (256 * j + 256 - o))
  else match r.blocks[j]? with
    | some blk => (List.range r.len).filter fun p => (r.addr p).toNat / 256 == blk
    | none => []

/-- Whether a side is global. -/
def Side.isGlobal (s : Side) : Bool :=
  match s with
  | .entry t => t.loc
  | _ => false

/-- One side of a row of an iteration. -/
def rowSide (s : Side) (b : Box) (inc : List (Nat × Int)) (it row : Nat) : RowSide :=
  let d0 := b.dims.headD (1, 0)
  { base := b.base + offsetOf inc it + offsetOf (b.dims.drop 1) row, step := d0.2, bytes := b.bytes, len := d0.1 * b.bytes
    glob := s.isGlobal }

/-- A row of a command (R249): its two sides, how many source units make one destination unit, and the formats. -/
structure CopyRow where
  s : RowSide
  d : RowSide
  ratio : Nat
  sf : Nat
  df : Nat

/-- Rows of one iteration. -/
def XcpBody.rows (b : XcpBody) : Nat :=
  match b.shape with
  | some t => countOf ((b.box t b.src).dims.drop 1)
  | none => 0

/-- A row of the command by its number over all iterations. -/
def XcpBody.row (b : XcpBody) (r : Nat) : Option CopyRow :=
  b.shape.map fun t =>
    let it := r / b.rows
    let k := r % b.rows
    let sf := b.fmt t b.src
    let df := b.fmt t b.dst
    { s := rowSide b.src (b.box t b.src) b.srcInc it k, d := rowSide b.dst (b.box t b.dst) b.dstInc it k
      ratio := if isQuant sf df then 32 else 1, sf := sf, df := df }

/-- The highest source piece that holds a byte from which destination piece q is made (R249): the same byte where bytes are
copied unchanged, else every byte of the elements that a destination unit takes. -/
def CopyRow.need (r : CopyRow) (q : Nat) : Nat :=
  (r.d.piece q).foldl (fun m p =>
    if r.sf = r.df then max m (r.s.pieceOf p)
    else (List.range r.ratio).foldl (fun m i =>
      let v := r.ratio * (p / r.d.bytes) + i
      max m (max (r.s.pieceOf (v * r.s.bytes)) (r.s.pieceOf (v * r.s.bytes + r.s.bytes - 1)))) m) 0

/-- Beats of the row. -/
def CopyRow.beats (r : CopyRow) : Nat := max r.s.count r.d.count

/-- The destination pieces that beat j writes. -/
def CopyRow.writes (r : CopyRow) (j : Nat) : List Nat := (List.range r.d.count).filter fun q => max q (r.need q) == j

/-! ## Timing (R250, Table 9) -/

/-- Delay from a beat to its source data: the stack of its source piece, or of the row's last one. -/
def arrival (cluster : Nat) (s : Side) (r : RowSide) (j : Nat) : Nat :=
  match s with
  | .host _ => 12288
  | .entry t =>
    if !t.loc then 16
    else
      let p := (r.piece (min j (r.count - 1))).headD 0
      if dieOfCluster cluster = dieOfStack (stackOf (r.addr p).toNat) then 640 else 704
  | _ => 16

/-- Delay from a write cycle to the performance of a destination piece. -/
def performDelay (cluster : Nat) (s : Side) (r : RowSide) (q : Nat) : Nat :=
  match s with
  | .host _ => 12288
  | .entry t =>
    if !t.loc then 0
    else if dieOfCluster cluster = dieOfStack (stackOf (r.addr ((r.piece q).headD 0)).toNat) then 320 else 368
  | _ => 0

/-- The quantise delay. -/
def CopyRow.quant (r : CopyRow) : Nat := if isQuant r.sf r.df then 32 else 0

/-- Delay from beat j to its write cycle. -/
def XcpBody.writeDelay (b : XcpBody) (cluster : Nat) (r : CopyRow) (j : Nat) : Nat := arrival cluster b.src r.s j + r.quant

/-- Beats before a row, and the latest performance so far, counted from the command's start, after one more row. -/
def XcpBody.walkRow (b : XcpBody) (cluster : Nat) (acc : Nat × Nat) (n : Nat) : Nat × Nat :=
  match b.row n with
  | none => acc
  | some r =>
    (acc.1 + r.beats, (List.range r.d.count).foldl (fun m q =>
      let j := max q (r.need q)
      max m (acc.1 + j + b.writeDelay cluster r j + performDelay cluster b.dst r.d q)) acc.2)

/-- The beats of the first n rows, and their latest performance. -/
def XcpBody.walk (b : XcpBody) (cluster n : Nat) : Nat × Nat := (List.range n).foldl (b.walkRow cluster) (0, 0)

/-! ## Checks at issue (R330, R331) -/

/-- Two lists of byte ranges that share a byte. -/
def rangesMeet (xs ys : List (Int × Int)) : Bool := xs.any fun x => ys.any fun y => decide (x.1 < y.2 ∧ y.1 < x.2)

/-- Whether two boxes share a byte: exactly, once their hulls meet. -/
def Box.meets (a b : Box) : Bool :=
  let ra := a.range
  let rb := b.range
  if ra.2 ≤ rb.1 ∨ rb.2 ≤ ra.1 then false
  else
    let us (x : Box) : List (Int × Int) := (List.range x.units).map fun u => (x.addr u, x.addr u + x.bytes)
    rangesMeet (us a) (us b)

/-- Whether the sides of a copy may be combined (R247). -/
def sidesOk (s d : Side) : Bool :=
  match s, d with
  | .entry _, .entry _ => true
  | .entry _, .tile _ => true
  | .entry _, .host _ => true
  | .tile _, .entry _ => true
  | .host _, .entry _ => true
  | _, _ => false

/-- Whether a side is an entry that may not be used. -/
def unusable (s : Side) : Bool :=
  match s with
  | .entry t => !t.usable
  | _ => false

/-- Whether a side is the host. -/
def Side.isHost (s : Side) : Bool :=
  match s with
  | .host _ => true
  | _ => false

/-- Whether two entries have equal RANK and EXT (R247). -/
def sameShape (a b : Tensor) : Bool := a.rank == b.rank && (List.range 12).all fun d => a.extent d == b.extent d

/-- Whether the formats of the sides may be converted (R247, R248). -/
def XcpBody.convOk (b : XcpBody) (t : Tensor) : Bool :=
  let sf := b.fmt t b.src
  let df := b.fmt t b.dst
  Machine.convOk sf df &&
  (match b.src, b.dst with
   | .entry x, .entry y => sameShape x y && (!(sf == df && isBlock sf) || x.baxis == y.baxis)
   | _, _ => true) &&
  (!isQuant sf df || (match b.dst with
    | .entry y => y.baxis == 0 && y.extent 0 % 32 == 0
    | _ => false))

/-- The shaping entry, where it can be used. -/
def XcpBody.usableShape (b : XcpBody) : Option Tensor := b.shape.filter (·.usable)

/-- What one side of a copy breaks by itself (R246, R247, R330, R331): an entry that cannot be used, a scratch box that leaves
the allocation, a tile out of the team's range or a box that leaves it, an unassigned selector. -/
def UCtx.sideBreach (c : UCtx) (b : XcpBody) (s : Side) (inc : List (Nat × Int)) : List (Nat × Nat × Nat) :=
  match s with
  | .entry e => if !e.usable then [(0xA5, 0, 0)] else if e.loc then [] else c.team.boxBreach (e.box.nest inc)
  | .tile n =>
    (if n < c.team.abase ∨ n ≥ c.team.abase + c.team.acnt then [(0x48, 0, n)] else []) ++
    (match b.usableShape with
     | some t =>
       let r := ((b.box t s).nest inc).range
       (if t.rank ≠ 2 then [(0xA5, 0, 0)] else []) ++
       (if b.trow + t.extent 1 > 128 ∨ b.tcol + t.extent 0 > 128 ∨ r.1 < 0 ∨ r.2 > 65536 then [(0xA6, 0, 0)] else [])
     | none => [])
  | .host _ => []
  | .gen n _ _ => [(0xA7, 0, 96 + n)]
  | .none n => [(0xA7, 0, n)]

/-- Whether a side is a selector that names something. -/
def Side.named (s : Side) : Bool :=
  match s with
  | .none _ => false
  | _ => true

/-- Whether both sides are scratch entries whose bytes overlap over all iterations (R247). -/
def XcpBody.overlaps (b : XcpBody) : Bool :=
  match b.src, b.dst with
  | .entry x, .entry y => x.usable && y.usable && !x.loc && !y.loc && (x.box.nest b.srcInc).meets (y.box.nest b.dstInc)
  | _, _ => false

/-- Whether the nest that a command names is empty or malformed (R245, R331). -/
def nestBad (w : UE) (levels : List (Nat × Int × Int)) : Bool :=
  w.flags.getLsbD 8 && (decide (levels.length < 1 ∨ levels.length > 5) || levels.any fun l => l.1 == 0)

/-- Whether the sides, where both are named and usable, may not be combined or converted (R247, R248). -/
def XcpBody.mixed (b : XcpBody) : Bool :=
  b.src.named && b.dst.named &&
    (!sidesOk b.src b.dst || (!unusable b.src && !unusable b.dst && (match b.usableShape with
      | some t => !b.convOk t
      | none => false)))

/-- Every breach of an `xcp` at its issue (R330, R331). -/
def UCtx.xcpExtra (c : UCtx) (w : UE) : List (Nat × Nat × Nat) :=
  let d := w.d.toNat
  let b := c.xcp w
  let one (p : Bool) (cause : Nat) : List (Nat × Nat × Nat) := if p then [(cause, 0, 0)] else []
  let host := b.src.isHost || b.dst.isHost
  one (selReserved (c.kn d) || (!w.flags.getLsbD 9 && c.kn (d + 3) != 0) ||
    (!host && (c.kn (d + 1) != 0 || c.kn (d + 2) != 0))) 0x03 ++
  c.sideBreach b b.src b.srcInc ++ c.sideBreach b b.dst b.dstInc ++ one b.overlaps 0x47 ++ one b.mixed 0xA4 ++
  one (nestBad w b.levels) 0xA8

/-- The channel of a copy command: engine 1 or 2. -/
def copyEngine (w : UE) : Nat := if w.flags.getLsbD 10 then 2 else 1

/-- The plan of a copy (R249, R250), where its sides and its nest give it rows: none when it has more rows than heat
cycles. -/
def UCtx.xcpPlan (c : UCtx) (w : UE) : Option EngPlan :=
  let b := c.xcp w
  let n := b.iters * b.rows
  if unusable b.src || unusable b.dst || !sidesOk b.src b.dst || nestBad w b.levels || decide (n = 0 ∨ n > 2 ^ 32) then none
  else
    let r := b.walk (clusterOf c.team.core) n
    some { eng := copyEngine w, n := (r.1 + 63) / 64, earliest := c.t + 4, finish := fun s => s + r.2 }

/-- xcp (R246). -/
def execXcp (w : UE) (s : State) : Host.Outcome State Fault Refusal :=
  uniEngine (.xcp w) w s 0x56 (fun c => c.xcpCodes w) (fun c => c.xcpExtra w) (fun c => c.xcpPlan w)
    (fun c => .xcp (c.xcp w)) (w.flags.getLsbD 9)

/-! ## Beats (R250) -/

/-- Row number and beat of a place. -/
def rowOf (place : Nat) : Nat := place / 2 ^ 28
/-- Beat of its row. -/
def beatOf (place : Nat) : Nat := place % 2 ^ 28

/-- The iteration vector n0-n4 of a row (R246, R251). -/
def XcpBody.vector (b : XcpBody) (row : Nat) : List Nat :=
  let it := row / b.rows
  ((b.levels.map (·.1)).foldl (fun acc n => (acc.1 ++ [acc.2 % n], acc.2 / n)) (([] : List Nat), it)).1

/-- A copy command fails at a place. -/
def State.failCopy (s : State) (c : EngCmd) (b : XcpBody) (place cause addr info : Nat) : State :=
  s.failCmd c place cause addr info (b.vector (rowOf place))

/-- The first scratch granule of a command's team. -/
def State.sbaseOf (s : State) (c : EngCmd) : Nat := ((s.team? ⟨c.hid, c.team⟩).map (·.sbase)).getD 0

/-- What an engine of an owner code breaks by touching bytes of its team's scratch now (R113, R333, R349): the lowest
cause and the first offset that has it. -/
def State.bytesBreach (s : State) (core sbase code : Nat) (read : Bool) (offs : List Nat) : Option (Nat × Nat) :=
  let bad := (offs.map fun o =>
    (match s.ownerTest core (sbase + o / 4096) code with
     | some closed => [(ownerCause false closed, o)]
     | none => []) ++
    (if read && s.uncorrectable 0 (· == scratchKey core (4096 * sbase + o) / 8) then [(0xF0, o)] else [])).flatten
  match lowest (bad.map (·.1)) with
  | none => none
  | some cause => bad.find? fun e => e.1 == cause

/-- Correct single-bit errors in the scratch bytes that an engine reads (R349). -/
def State.bytesCorrected (s : State) (core sbase : Nat) (offs : List Nat) : State :=
  s.corrected 0 fun x => offs.any fun o => x == scratchKey core (4096 * sbase + o) / 8

/-- Whether a word among the scratch bytes that an engine or a flow reads cannot be corrected (R349). -/
def State.bytesLost (s : State) (core sbase : Nat) (offs : List Nat) : Bool :=
  s.uncorrectable 0 fun x => offs.any fun o => x == scratchKey core (4096 * sbase + o) / 8

/-- A byte of an accumulator tile, by its address in the tile (R117). -/
def State.tileByte (s : State) (cluster n a : Nat) : Byte :=
  (Store.get 0 s.tiles (tileKey cluster n 0 (a / 4))).extractLsb' (8 * (a % 4)) 8

/-- Write a byte of an accumulator tile. -/
def State.setTileByte (s : State) (cluster n a : Nat) (v : Byte) : State :=
  let k := tileKey cluster n 0 (a / 4)
  let x := Store.get 0 s.tiles k
  let m : Word := 0xFF#32 <<< (8 * (a % 4))
  { s with tiles := Store.set 0 s.tiles k ((x &&& ~~~m) ||| (v.setWidth 32 <<< (8 * (a % 4)))) }

/-- The key in a command's buffer of byte p of a row's source run. -/
def bufKey (row p : Nat) : Nat := row * 2 ^ 32 + p

/-- Put source bytes into a command's buffer. -/
def State.fillBuf (s : State) (id row : Nat) (bs : List (Nat × Byte)) : State :=
  s.modCmd id fun c => { c with buf := Store.setAll 0 c.buf (bs.map fun e => (bufKey row e.1, e.2)) }

/-- Correct single-bit errors in a source piece that lies in scratch or a tile (R349). -/
def State.pieceCorrected (s : State) (c : EngCmd) (b : XcpBody) (r : RowSide) (j : Nat) : State :=
  match b.src with
  | .tile n => s.corrected 1 fun x => (r.piece j).any fun p => tileKey c.cluster n 0 ((r.addr p).toNat / 4) == x
  | _ => s.bytesCorrected c.core (s.sbaseOf c) ((r.piece j).map fun p => (r.addr p).toNat)

/-- Read a source piece that lies in scratch or a tile now (R250): the bytes, or the breach. -/
def State.readPiece (s : State) (c : EngCmd) (b : XcpBody) (r : RowSide) (j : Nat) : (Nat × Nat) ⊕ List (Nat × Byte) :=
  let ps := r.piece j
  match b.src with
  | .tile n =>
    if s.uncorrectable 1 fun x => ps.any fun p => tileKey c.cluster n 0 ((r.addr p).toNat / 4) == x
    then .inl (0xF1, (r.addr (ps.headD 0)).toNat)
    else .inr (ps.map fun p => (p, s.tileByte c.cluster n (r.addr p).toNat))
  | _ =>
    let sb := s.sbaseOf c
    match s.bytesBreach c.core sb 1 true (ps.map fun p => (r.addr p).toNat) with
    | some e => .inl e
    | none => .inr (ps.map fun p => (p, Store.get 0 s.scratch (scratchKey c.core (4096 * sb + (r.addr p).toNat))))

/-- The bytes of one destination unit (R248). -/
def CopyRow.unitBytes (r : CopyRow) (t : Tensor) (buf : Nat → Byte) (u : Nat) : List Byte :=
  let elem (v : Nat) : Nat := ofLeBytes ((List.range r.s.bytes).map fun i => buf (v * r.s.bytes + i))
  if r.sf = r.df then (List.range r.d.bytes).map fun i => buf (u * r.d.bytes + i)
  else if isQuant r.sf r.df then
    (quantise r.df ((List.range 32).map fun i => match fmtOf r.sf with
      | some F => (F.decode (elem (32 * u + i))).scale (-t.scale)
      | none => .nan)).map fun x => BitVec.ofNat 8 x
  else leBytes r.d.bytes (convert r.df r.sf .rn (elem u))

/-- The bytes of destination positions of a row. -/
def CopyRow.bytesAt (r : CopyRow) (t : Tensor) (buf : Nat → Byte) (ps : List Nat) : List (Nat × Byte) :=
  let us := ps.foldl (fun acc p => insertUp (p / r.d.bytes) acc) []
  let table := us.map fun u => (u, r.unitBytes t buf u)
  ps.map fun p => (p, ((table.find? fun e => e.1 == p / r.d.bytes).map fun e => e.2.getD (p % r.d.bytes) 0).getD 0)

/-- The destination entry of a copy, for its SCALE. -/
def XcpBody.dstEntry (b : XcpBody) : Tensor :=
  match b.dst with
  | .entry t => t
  | _ => Tensor.init

/-- The bytes that a destination piece receives. -/
def State.pieceBytes (c : EngCmd) (b : XcpBody) (row : Nat) (r : CopyRow) (q : Nat) : List (Nat × Byte) :=
  r.bytesAt b.dstEntry (fun p => Store.get 0 c.buf (bufKey row p)) (r.d.piece q)

/-- Destination pieces of an iteration. -/
def XcpBody.pieces (b : XcpBody) (it : Nat) : Nat :=
  (List.range b.rows).foldl (fun n k => n + ((b.row (it * b.rows + k)).map (·.d.count)).getD 0) 0

/-- Count n destination pieces of a row as performed, and apply the credits that this allows (R251). -/
def State.wrote (s : State) (id : Nat) (b : XcpBody) (row n : Nat) : State :=
  let it := row / b.rows
  let s := s.modCmd id fun c =>
    let l := Store.get 0 c.left it
    { c with left := Store.set 0 c.left it ((if l = 0 then 1 + b.pieces it else l) - n) }
  let s := s.creditCmd id
  match s.cmd? id with
  | some c => if c.failed.isSome then s.afterCounter c.hid else s
  | none => s

/-- Put the writes of a beat on the agenda (R249, R250): scratch and tiles at the write cycle, before the flips of a cycle
that is the command's completion and after those of any other (R115); each global piece at its stack cycle; the host at a
cycle of its choice up to the bound. -/
def State.pushWrites (s : State) (c : EngCmd) (b : XcpBody) (place : Nat) (r : CopyRow) (w : Nat) : State :=
  match r.writes (beatOf place) with
  | [] => s
  | qs =>
    match b.dst with
    | .host _ =>
      let x := s.choose w (w + 12287)
      (x.2.push x.1 60 (.hostBoundCheck c.id (2 * place) true)).push (w + 12288) 40 (.hostBoundCheck c.id (2 * place + 1) true)
    | d =>
      if d.isGlobal then
        qs.foldl (fun s q => s.pushSub (w + performDelay c.cluster b.dst r.d q) 21 (2 * c.cluster + (c.eng - 1))
          (.stackAccess (.beatWrite c.id place q []))) s
      else s.pushSub w (if w = s.cmdBase c + c.completion then 40 else 60) c.eng (.copyWrite c.id place)

/-- Put the beat after a place on the agenda. -/
def State.pushNext (s : State) (c : EngCmd) (b : XcpBody) (place : Nat) (r : CopyRow) : State :=
  let next := if beatOf place + 1 < r.beats then place + 1 else (rowOf place + 1) * 2 ^ 28
  if rowOf next < b.iters * b.rows then s.pushSub (s.now + 1) 60 (4 + c.eng) (.copyBeat c.id next) else s

/-- COPY_BEAT (R249, R250): the beat's source piece is read, or its read is put at its stack cycle or with the host; its
writes are put at their cycles; the next beat follows in the next cycle. A tile source is read in the beat's own cycle, also
while writes of an earlier command of the channel to that tile are still to perform (R250; log 98). -/
def execCopyBeat (s : State) : Host.Outcome State Fault Refusal :=
  match s.arg with
  | .copyBeat id place =>
    match s.cmd? id with
    | none => .next s
    | some c =>
      match c.body with
      | .xcp b =>
        match b.row (rowOf place) with
        | none => .next s
        | some r =>
          let j := beatOf place
          let s := s.tick 3 c.cluster 1
          let w := s.now + b.writeDelay c.cluster r j
          let go (s : State) : State := (s.pushWrites c b place r w).pushNext c b place r
          if j ≥ r.s.count then .next (go s)
          else match b.src with
            | .host _ =>
              let x := s.choose s.now (s.now + 12287)
              .next (go ((x.2.push x.1 60 (.hostBoundCheck id (2 * place) false)).push (s.now + 12288) 30
                (.hostBoundCheck id (2 * place + 1) false)))
            | d =>
              if d.isGlobal then
                .next (go (s.push (s.now + arrival c.cluster b.src r.s j - (if arrival c.cluster b.src r.s j = 704 then 336 else 320)) 30
                  (.stackAccess (.beatRead id place))))
              else match s.readPiece c b r.s j with
                | .inl e => .next (s.failCopy c b place e.1 e.2 0)
                | .inr bs => .next (go ((s.pieceCorrected c b r.s j).fillBuf id (rowOf place) bs))
      | _ => .next s
  | _ => .fault .noData

/-- The number of a byte that a copy writes, in one numbering of scratch and tiles. -/
def copyByte (c : EngCmd) (dst : Side) (sb a : Nat) : Nat :=
  match dst with
  | .tile n => 2 ^ 40 + 4 * tileKey c.cluster n 0 0 + a
  | _ => scratchKey c.core (sb + a)

/-- Write the destination pieces of a beat to scratch or a tile now, those bytes left out that a completing command of channel 1
has written in this cycle (R114). -/
def State.storePieces (s : State) (c : EngCmd) (b : XcpBody) (r : CopyRow) (row : Nat) (qs : List Nat) : State :=
  let sb := 4096 * s.sbaseOf c
  let taken := if s.copied.1 = s.now ∧ c.eng = 1 then s.copied.2 else []
  let bytes := ((qs.map fun q => State.pieceBytes c b row r q).flatten.map fun e => ((r.d.addr e.1).toNat, e.2)).filter fun e =>
    !taken.contains (copyByte c b.dst sb e.1)
  let s : State :=
    if c.eng = 2 ∧ s.now = s.cmdBase c + c.completion then
      { s with copied := (s.now, (if s.copied.1 = s.now then s.copied.2 else []) ++ bytes.map fun e => copyByte c b.dst sb e.1) }
    else s
  bytes.foldl (fun s e =>
    match b.dst with
    | .tile n => (s.setTileByte c.cluster n e.1 e.2).modTeam ⟨c.hid, c.team⟩ fun t => t.wroteTile n b.tint
    | _ => (s.writeScratch c.core (sb + e.1) [e.2]).modTeam ⟨c.hid, c.team⟩ fun t => t.markScratch (sb + e.1) 1) s

/-- COPY_WRITE (R113, R249, R250): the destination pieces of a beat that lie in scratch or a tile perform. -/
def execCopyWrite (s : State) : Host.Outcome State Fault Refusal :=
  match s.arg with
  | .copyWrite id place =>
    match s.cmd? id with
    | none => .next s
    | some c =>
      match c.body with
      | .xcp b =>
        match b.row (rowOf place) with
        | none => .next s
        | some r =>
          let qs := r.writes (beatOf place)
          let offs := (qs.map fun q => (r.d.piece q).map fun p => (r.d.addr p).toNat).flatten
          let bad := match b.dst with
            | .tile _ => none
            | _ => s.bytesBreach c.core (s.sbaseOf c) 1 false offs
          match bad with
          | some e => .next (s.failCopy c b place e.1 e.2 0)
          | none => .next ((s.storePieces c b r (rowOf place) qs).wrote id b (rowOf place) qs.length)
      | _ => .next s
  | _ => .fault .noData

/-- A lane access that stands for a beat at a stack. -/
def beatLane (va : Nat) : LaneAcc :=
  { lane := 0, va := va, pa := 0, kind := 0, far := false, s := 0, p := 0, data := 0, cmp := 0, result := 0, ok := false
    done := false, sq := 0 }

/-- EVERYTHING A BEAT'S STACK CYCLE CAN BREAK (R334-R338), lowest cause first found, and the physical address otherwise. -/
def State.beatStack (s : State) (r : TeamRef) (va : Nat) (write : Bool) : ((Nat × Nat) ⊕ Nat) × State :=
  match s.heat? r.hid, s.team? r with
  | some h, some t =>
    let own := s.laneStack h t (beatLane va)
    match translate t.wins va write with
    | .fail c => (match lowest (c :: own.1.map (·.1)) with
        | some x => (.inl (x, ((own.1.find? fun e => e.1 == x).map (·.2)).getD va), own.2)
        | none => (.inl (c, va), own.2))
    | .ok pa _ _ => (match lowest (own.1.map (·.1)) with
        | some x => (.inl (x, ((own.1.find? fun e => e.1 == x).map (·.2)).getD va), own.2)
        | none => (.inr pa, own.2))
  | _, _ => (.inl (0x60, va), s)

/-- A beat's source piece is read at its stack cycle. -/
def State.beatRead (s : State) (id place : Nat) : State :=
  match s.cmd? id with
  | none => s
  | some c =>
    match c.body with
    | .xcp b =>
      match b.row (rowOf place) with
      | none => s
      | some r =>
        let ps := r.s.piece (beatOf place)
        let va := (r.s.addr (ps.headD 0)).toNat
        let x := s.beatStack ⟨c.hid, c.team⟩ va false
        match x.1 with
        | .inl e => x.2.failCopy c b place e.1 e.2 (stackOf va)
        | .inr pa => x.2.fillBuf id (rowOf place) (ps.map fun p =>
            (p, Store.get 0 s.hbm (pa + (r.s.addr p).toNat - va)))
    | _ => s

/-- A destination piece performs at its stack cycle. -/
def State.beatWrite (s : State) (id place q : Nat) : State :=
  match s.cmd? id with
  | none => s
  | some c =>
    match c.body with
    | .xcp b =>
      match b.row (rowOf place) with
      | none => s
      | some r =>
        let va := (r.d.addr ((r.d.piece q).headD 0)).toNat
        let x := s.beatStack ⟨c.hid, c.team⟩ va true
        match x.1 with
        | .inl e => x.2.failCopy c b place e.1 e.2 (stackOf va)
        | .inr pa =>
          let s := (State.pieceBytes c b (rowOf place) r q).foldl (fun s e =>
            s.writeHbm (pa + (r.d.addr e.1).toNat - va) [e.2]) x.2
          s.wrote id b (rowOf place) 1
    | _ => s

/-- The address of a host piece's byte on the bus. -/
def busAddr (a : Int) : Nat := wrapN 64 a

/-- The bus address of the first host byte that a beat reads or writes. -/
def CopyRow.hostAddr (r : CopyRow) (place : Nat) (write : Bool) : Nat :=
  if write then busAddr (r.d.addr ((((r.writes (beatOf place)).map r.d.piece).flatten).headD 0))
  else busAddr (r.s.addr ((r.s.piece (beatOf place)).headD 0))

/-- The part of a host beat: its source piece read, or its destination pieces written, while the host link is up. -/
def State.hostPart (s : State) (c : EngCmd) (b : XcpBody) (r : CopyRow) (place : Nat) (write : Bool) : State :=
  let row := rowOf place
  let mark (s : State) : State :=
    s.modCmd c.id fun x => { x with image := Store.set 0 x.image (2 * place + (if write then 1 else 0)) 1 }
  if write then
    mark ((r.writes (beatOf place)).foldl (fun s q => (State.pieceBytes c b row r q).foldl (fun s e =>
      s.writeHost (busAddr (r.d.addr e.1)) [e.2]) s) s)
  else mark (s.fillBuf c.id row ((r.s.piece (beatOf place)).map fun p =>
      (p, Store.get 0 s.hostMem (busAddr (r.s.addr p)))))

/-- HOST_BOUND_CHECK (R250, R337): the host side of a beat performs at a cycle of its choice up to the bound; at the bound
it counts as done, or the beat faults with 0x89 when the host link is down, ADDR naming its first byte on the bus (R322). -/
def execHostBoundCheck (s : State) : Host.Outcome State Fault Refusal :=
  match s.arg with
  | .hostBoundCheck id code write =>
    match s.cmd? id with
    | none => .next s
    | some c =>
      match c.body with
      | .xcp b =>
        let place := code / 2
        match b.row (rowOf place) with
        | none => .next s
        | some r =>
          let done := Store.get 0 c.image (2 * place + (if write then 1 else 0)) != 0
          let s := if !done && s.ready.pcie then s.hostPart c b r place write else s
          let late := code % 2 == 1
          if !late then .next s
          else if !(done || s.ready.pcie) then .next (s.failCopy c b place 0x89 (r.hostAddr place write) 0)
          else if write then .next (s.wrote id b (rowOf place) (r.writes (beatOf place)).length)
          else .next s
      | _ => .next s
  | _ => .fault .noData

end Sys2Proof.Machine
end

