-- ==== Sys2Proof/Machine/Layout.lean ====
section
/-! DEFINITION. The layout engine (R257-R260): the checks of `lay` at issue, the dimension mapping, and its beats. Beat b
makes the 256 bytes from 256 b on of the destination, in the order of its units; a `lay` whose source has more bytes than
its destination has beats that write nothing (log 45). -/
namespace Sys2Proof.Machine

/-! ## The dimension-mapping word (R258, Table 11) -/

/-- NF. -/
def dmwN (w : BitVec 64) : Nat := bits w.toNat 63 60
/-- π_i. -/
def dmwPi (w : BitVec 64) (i : Nat) : Nat := bits w.toNat (15 + 4 * i) (12 + 4 * i)
/-- Whether destination factors i and i + 1 are merged. -/
def dmwMrg (w : BitVec 64) (i : Nat) : Bool := w.getLsbD (1 + i)
/-- REQ. -/
def dmwReq (w : BitVec 64) : Bool := w.getLsbD 0

/-- The destination factors in groups, one group for each destination dimension (R258). -/
def dmwGroups (w : BitVec 64) (n : Nat) : List (List Nat) :=
  (List.range n).foldl (fun (acc : List (List Nat)) i =>
    if i ≠ 0 ∧ dmwMrg w (i - 1) then acc.dropLast ++ [(acc.getLast?.getD []) ++ [i]] else acc ++ [[i]]) []

/-- Whether the word is one that R258 allows for the two entries. -/
def dmwOk (w : BitVec 64) (s d : Tensor) : Bool :=
  let n := dmwN w
  let pis := (List.range n).map (dmwPi w)
  let groups := dmwGroups w n
  decide (1 ≤ n ∧ n ≤ 12) && n == s.rank &&
  ((List.range n).all fun x => pis.contains x) && ((List.range 12).all fun i => decide (i < n) || dmwPi w i == 0) &&
  ((List.range 11).all fun i => decide (i + 1 < n) || !dmwMrg w i) &&
  d.rank == groups.length &&
  ((List.range groups.length).zip groups).all fun g =>
    d.extent g.1 == g.2.foldl (fun e i => e * s.extent (dmwPi w i)) 1

/-- The destination factor that is the source's dimension x. -/
def dmwFactor (w : BitVec 64) (x : Nat) : Nat := ((List.range (dmwN w)).find? fun i => dmwPi w i == x).getD 0

/-- Whether the entries' formats may be laid out with this REQ (R259). -/
def layFmtOk (w : BitVec 64) (s d : Tensor) : Bool :=
  if dmwReq w then
    ((8 ≤ s.fmt && s.fmt ≤ 10) || isBlock s.fmt) && isBlock d.fmt
  else s.fmt == d.fmt

/-- Whether the packed axes are as R259 requires. -/
def layAxisOk (w : BitVec 64) (s d : Tensor) : Bool :=
  if dmwReq w then !isBlock d.fmt || d.extent d.baxis % 32 == 0
  else if isBlock s.fmt then
    let f := dmwFactor w s.baxis
    (dmwGroups w (dmwN w))[d.baxis]? == some [f]
  else if s.fmt = 15 then dmwPi w 0 == 0 && !dmwMrg w 0
  else true

/-! ## The descriptor and its checks (R257, R331) -/

/-- The entries and the mapping word that a `lay` names. -/
def UCtx.lay (c : UCtx) (w : UE) : Tensor × Tensor × BitVec 64 :=
  let d := w.d.toNat
  let x := c.kn d
  (Store.get Tensor.init c.team.t (x % 64), Store.get Tensor.init c.team.t (bits x 13 8),
   c.k (d + 2) ++ c.k (d + 1))

/-- Bytes of a whole entry. -/
def Tensor.size (t : Tensor) : Nat := t.box.units * t.unit

/-- Beats of a `lay` (R260). -/
def layBeats (s d : Tensor) : Nat := (max s.size d.size + 255) / 256

/-- Delay of a `lay`'s writes (R260). -/
def layDelay (w : BitVec 64) : Nat := if dmwReq w then 72 else 40

/-- What one entry of a `lay` breaks by itself (R257, R331): an unassigned selector, named in INFO, an entry that cannot be used,
a box that leaves the allocation. -/
def UCtx.laySide (c : UCtx) (code : Nat) (t : Tensor) : List (Nat × Nat × Nat) :=
  if code ≥ 64 then [(0xA7, 0, code)]
  else if !t.usable || t.loc then [(0xA5, 0, 0)]
  else c.team.boxBreach t.box

/-- Whether both entries of a `lay` can be used. -/
def UCtx.layUsable (c : UCtx) (w : UE) : Bool :=
  let x := c.kn w.d.toNat
  let l := c.lay w
  !x.testBit 6 && !x.testBit 14 && l.1.usable && l.2.1.usable && !l.1.loc && !l.2.1.loc

/-- Every breach of a `lay` at its issue (R330, R331). -/
def UCtx.layExtra (c : UCtx) (w : UE) : List (Nat × Nat × Nat) :=
  let x := c.kn w.d.toNat
  let one (p : Bool) (cause : Nat) : List (Nat × Nat × Nat) := if p then [(cause, 0, 0)] else []
  let l := c.lay w
  let s := l.1
  let d := l.2.1
  let m := l.2.2
  one (x.testBit 7 || decide (x ≥ 2 ^ 15)) 0x03 ++ c.laySide (bits x 6 0) s ++ c.laySide (bits x 14 8) d ++
  (if !c.layUsable w then []
   else one (s.box.meets d.box) 0x47 ++ one (!dmwOk m s d) 0xA2 ++ one (!layFmtOk m s d) 0xA4 ++
     one (dmwOk m s d && !layAxisOk m s d) 0xA3)

/-- The selectors of `lay` (R257). -/
def UCtx.layCodes (c : UCtx) (w : UE) : List Nat := [bits (c.kn w.d.toNat) 6 0, bits (c.kn w.d.toNat) 14 8]

/-- The plan of a `lay` (R260), where its entries give it beats. -/
def UCtx.layPlan (c : UCtx) (w : UE) : Option EngPlan :=
  let l := c.lay w
  let b := layBeats l.1 l.2.1
  if c.layUsable w ∧ b ≠ 0 then
    some { eng := 3, n := (b + 63) / 64, earliest := c.t + 4, finish := fun s => s + b - 1 + layDelay l.2.2 }
  else none

/-- lay (R257). -/
def execLay (w : UE) (s : State) : Host.Outcome State Fault Refusal :=
  uniEngine (.lay w) w s 0x58 (fun c => c.layCodes w) (fun c => c.layExtra w) (fun c => c.layPlan w)
    (fun c => let l := c.lay w; .lay l.1 l.2.1 l.2.2) false

/-! ## The mapping of elements (R258, R259) -/

/-- The indices of unit u of an entry: along the packed axis, the first element of the unit. -/
def unitIndex (t : Tensor) (u : Nat) : List Nat :=
  ((List.range t.rank).foldl (fun acc d =>
    let step := if t.packed = some d then (if isBlock t.fmt then 32 else 5) else 1
    let n := t.extent d / step
    (acc.1 ++ [acc.2 % n * step], acc.2 / n)) (([] : List Nat), u)).1

/-- The source index of a destination index (R258). -/
def sourceIndex (w : BitVec 64) (s : Tensor) (idx : List Nat) : List Nat :=
  let fs : List (Nat × Nat) := (((List.range idx.length).zip (dmwGroups w (dmwN w))).map fun g =>
    (g.2.foldl (fun (acc : List (Nat × Nat) × Nat) i =>
      let e := s.extent (dmwPi w i)
      (acc.1 ++ [(dmwPi w i, acc.2 % e)], acc.2 / e)) (([] : List (Nat × Nat)), idx.getD g.1 0)).1).flatten
  (List.range s.rank).map fun x => ((fs.find? fun f => f.1 == x).map (·.2)).getD 0

/-- An index moved by i along a dimension. -/
def moveIndex (idx : List Nat) (d i : Nat) : List Nat := modifyNth idx d (fun x => x + i)

/-- The offsets in the team's allocation of the source bytes that destination unit u is made from. -/
def laySource (w : BitVec 64) (s d : Tensor) (u : Nat) : List Nat :=
  let idx := unitIndex d u
  let run (a n : Nat) : List Nat := (List.range n).map fun i => a + i
  if dmwReq w then
    ((List.range 32).map fun i => run (s.addr (sourceIndex w s (moveIndex idx d.baxis i))).toNat s.unit).flatten
  else run (s.addr (sourceIndex w s idx)).toNat s.unit

/-- An element of a source entry as a value, SCALE applied to blocks only (R259, R363). -/
def State.layElem (st : State) (core base : Nat) (s : Tensor) (idx : List Nat) : FVal :=
  let a := base + (s.addr idx).toNat
  if isBlock s.fmt then
    blockElem s.fmt s.scale ((st.readScratch core a (blockBytes s.fmt)).map (·.toNat)) (idx.getD s.baxis 0 % 32)
  else match fmtOf s.fmt with
    | some F => F.decode (ofLeBytes (st.readScratch core a (elemBytes s.fmt)))
    | none => .nan

/-- The bytes of destination unit u, from the source as it stands (R258, R259). -/
def State.layUnit (st : State) (core base : Nat) (w : BitVec 64) (s d : Tensor) (u : Nat) : List Byte :=
  let idx := unitIndex d u
  if dmwReq w then
    (quantise d.fmt ((List.range 32).map fun i =>
      (st.layElem core base s (sourceIndex w s (moveIndex idx d.baxis i))).scale (-d.scale))).map fun x => BitVec.ofNat 8 x
  else st.readScratch core (base + (s.addr (sourceIndex w s idx)).toNat) s.unit

/-- The destination units of which beat b makes bytes. -/
def layUnits (d : Tensor) (b : Nat) : List Nat :=
  let stop := min d.size (256 * b + 256)
  if stop ≤ 256 * b then []
  else
    let u0 := 256 * b / d.unit
    (List.range ((stop - 1) / d.unit - u0 + 1)).map fun i => u0 + i

/-- The positions of the destination that beat b writes. -/
def layPositions (d : Tensor) (b : Nat) : List Nat := (List.range (min d.size (256 * b + 256) - 256 * b)).map fun i => 256 * b + i

/-- The offset in the team's allocation of position p of an entry's units. -/
def layOffset (d : Tensor) (p : Nat) : Nat := (d.box.addr (p / d.unit)).toNat + p % d.unit

/-! ## Beats (R260) -/

/-- LAYOUT_BEAT (R113, R259, R260): the beat's source bytes are read; its write follows 40 c later, or 72 c with REQ. -/
def execLayoutBeat (s : State) : Host.Outcome State Fault Refusal :=
  match s.arg with
  | .layoutBeat id b =>
    match s.cmd? id with
    | none => .next s
    | some c =>
      match c.body with
      | .lay src dst w =>
        let sb := s.sbaseOf c
        let s := s.tick 4 c.cluster 1
        let us := layUnits dst b
        let offs := (us.map fun u => laySource w src dst u).flatten
        match s.bytesBreach c.core sb 3 true offs with
        | some e => .next (s.failCmd c b e.1 e.2 0 [])
        | none =>
          let s := s.bytesCorrected c.core sb offs
          let made := us.map fun u => (u, s.layUnit c.core (4096 * sb) w src dst u)
          let bytes := (layPositions dst b).map fun p =>
            (p, ((made.find? fun e => e.1 == p / dst.unit).map fun e => e.2.getD (p % dst.unit) 0).getD 0)
          let s := s.fillBuf id 0 bytes
          let wr := s.now + layDelay w
          let s := s.push wr (if wr = s.cmdBase c + c.completion then 40 else 60) (.layoutWrite id b)
          .next (if b + 1 < layBeats src dst then s.push (s.now + 1) 60 (.layoutBeat id (b + 1)) else s)
      | _ => .next s
  | _ => .fault .noData

/-- LAYOUT_WRITE (R113, R260): the beat's destination bytes perform. -/
def execLayoutWrite (s : State) : Host.Outcome State Fault Refusal :=
  match s.arg with
  | .layoutWrite id b =>
    match s.cmd? id with
    | none => .next s
    | some c =>
      match c.body with
      | .lay _ dst _ =>
        let sb := s.sbaseOf c
        let ps := layPositions dst b
        match s.bytesBreach c.core sb 3 false (ps.map (layOffset dst)) with
        | some e => .next (s.failCmd c b e.1 e.2 0 [])
        | none =>
          let s := ps.foldl (fun s p =>
            let a := 4096 * sb + layOffset dst p
            (s.writeScratch c.core a [Store.get 0 c.buf (bufKey 0 p)]).modTeam ⟨c.hid, c.team⟩ fun t => t.markScratch a 1) s
          .next (if c.failed.isSome then s.afterCounter c.hid else s)
      | _ => .next s
  | _ => .fault .noData

end Sys2Proof.Machine
end

