-- ==== Sys2Proof/Machine/Rings.lean ====
section
/-! DEFINITION. The host's side of the device (R60, R218, R228, R297-R301, R348): acknowledging messages, host rings,
interrupt coalescing, and a cycle in which a free grain of a stack comes. -/
namespace Sys2Proof.Machine

/-! ## Acknowledgements -/

/-- A MESSAGE HAS PERFORMED AT ITS DESTINATION (R60, R218, R269): MSG of the issuing core decreases and its BAR arrival is
applied. For a heat that is away both are kept for its return. -/
def State.performed (s : State) (d : AckTo) : State :=
  match s.heat? d.hid with
  | none => s
  | some h =>
    if h.status = .saved ∨ h.away then
      s.modHeat d.hid fun h =>
        { h with
          msgAway := Store.set 0 h.msgAway d.core (Store.get 0 h.msgAway d.core - 1)
          lateAcks := match d.bar with
            | some b => h.lateAcks ++ [(d.core, b)]
            | none => h.lateAcks }
    else match h.coreAt d.core with
      | none => s
      | some core =>
        let s := s.modCore core fun c => { c with msg := c.msg - 1 }
        let tsel := ((h.teams[d.team]?).map (·.tsel)).getD 0
        let s := match d.bar with
          | some b => s.barChange core b 0 0 1 true
              { Detect.blank d.hid (streamRank core tsel 16) 0 1 with core := core, team := d.team }
          | none => s
        s.afterCounter d.hid

/-! ## Interrupt coalescing (R301) -/

/-- A coalescing unit. -/
def State.unit (s : State) (u : Nat) : Coalesce := Store.get Coalesce.init s.coalesce u
/-- Change one. -/
def State.modUnit (s : State) (u : Nat) (f : Coalesce → Coalesce) : State :=
  { s with coalesce := Store.set Coalesce.init s.coalesce u (f (s.unit u)) }

/-- RAISE (R301): the MSI-X message of the unit's vector is written, unless its interrupts are disabled. -/
def State.raise (s : State) (u : Nat) : State :=
  if (s.unit u).en then ({ s with msix := s.msix ++ [(s.unit u).vec] } : State).modUnit u fun c => { c with pend := 0 }
  else s

/-- COUNT AN ENTRY (R301) and apply the count rule. -/
def State.countEntry (s : State) (u : Nat) : State :=
  let s := s.modUnit u fun c => { c with first := if c.pend = 0 then s.now else c.first, pend := c.pend + 1 }
  let c := s.unit u
  if c.ccnt > 0 ∧ c.pend ≥ c.ccnt then s.raise u else s

/-- The time rule of one unit (R301). -/
def State.timeRule (s : State) (u : Nat) : State :=
  let c := s.unit u
  if c.pend > 0 ∧ c.ctim > 0 ∧ s.now - c.first ≥ 64 * c.ctim then s.raise u else s

/-- COALESCE_TIMER (R301): every 64 c every unit tests its time rule. -/
def execCoalesceTimer (s : State) : Host.Outcome State Fault Refusal :=
  match s.arg with
  | .coalesceTimer =>
    .next (((s.coalesce.map (·.1)).foldl (fun s u => s.timeRule u) s).push (s.now + 64) 73 .coalesceTimer)
  | _ => .fault .noData

/-! ## Host rings (R299, R300, R348) -/

/-- A host ring. -/
def State.ring (s : State) (r : Nat) : Ring := Store.get Ring.init s.rings r
/-- Change one. -/
def State.modRing (s : State) (r : Nat) (f : Ring → Ring) : State :=
  { s with rings := Store.set Ring.init s.rings r (f (s.ring r)) }

/-- Free entries of a ring. -/
def Ring.room (r : Ring) : Nat := 2 ^ r.rlog - (r.pi - r.ci).toNat

/-- The stores and atomics of a core issued before a pod cycle that have not performed (R300). -/
def State.earlierOps (s : State) (core posted : Nat) : List Nat :=
  (s.gops.filter fun o => o.core == core && !o.isLoad && !o.isRecord &&
    decide (s.teamBase o.teamRef + o.issue < posted) && o.lanes.any fun l => !l.done).map (·.id)

/-- Whether an operation still has lanes to perform. -/
def State.unperformed (s : State) (id : Nat) : Bool :=
  match s.gop? id with
  | some o => o.lanes.any fun l => !l.done
  | none => false

/-- The first later cycle at which an operation's lanes may all have performed. -/
def State.performedBy (s : State) (id : Nat) : Nat :=
  match s.gop? id with
  | some o => o.lanes.foldl (fun m l => max m (s.teamBase o.teamRef + l.p)) 0
  | none => 0

/-- MAKE AN ENTRY VISIBLE (R299-R301): its bytes, then the producer index, then the interrupt rule. -/
def State.postEntry (s : State) (r : Nat) (bytes : List Byte) (d : AckTo) : State :=
  let x := s.ring r
  let n := 2 ^ x.rlog
  let s := s.writeHost (wrapN 64 (x.hbase.toNat + 32 * (x.pi.toNat % n) : Nat)) bytes
  let pi := x.pi + 1
  let s := s.writeHost (wrapN 64 (x.hbase.toNat + 32 * n : Nat)) (leBytes 8 pi.toNat)
  let s := s.modRing r fun x => { x with pi := pi, waiting := x.waiting.drop 1 }
  ((s.tick 11 0 1).countEntry r).performed d

/-- Order of posts (R300): cycle, core, TSEL. -/
def RingEntry.before (a b : RingEntry) : Bool :=
  decide (a.posted < b.posted) ||
    (a.posted == b.posted && (decide (a.core < b.core) || (a.core == b.core && decide (a.tsel < b.tsel))))

/-- Insert an entry at its place among the posts of a ring. -/
def insertEntry (e : RingEntry) : List RingEntry → List RingEntry
  | [] => [e]
  | x :: r => if e.before x then e :: x :: r else x :: insertEntry e r

/-- Make visible, in the order of their posts, every entry whose cycle has come and whose earlier operations have performed,
while there is room (R300). A post that is not yet ready keeps later ones back. Fuel bounds the entries. -/
def drainRing : Nat → State → Nat → State
  | 0, s, _ => s
  | n + 1, s, r =>
    match (s.ring r).waiting with
    | [] => s
    | e :: _ =>
      if !e.accepted || decide (s.now < e.from_) || (s.ring r).room == 0 then s
      else
        let left := e.ops.filter fun o => s.unperformed o
        if left = [] then drainRing n (s.postEntry r e.bytes e.done) r
        else
          let at' := left.foldl (fun m o => max m (s.performedBy o)) 0
          s.push (if at' > s.now then at' else s.now + 64) 62 (.hostRingEntryVisible r)

/-- POST AN ENTRY (R217, R228, R300): in its cycle it takes its place among the ring's posts, with the operations that its core
has issued before. -/
def State.post (s : State) (r : Nat) (e : RingEntry) : State :=
  s.modRing r fun x => { x with waiting := insertEntry { e with ops := s.earlierOps e.core e.posted } x.waiting }

/-- DISCARD A POSTED ENTRY (R348): it is counted in DROPPED or LOST, entered in the umpire's log, and has performed. -/
def State.discardEntry (s : State) (r : Nat) (lost : Bool) (e : RingEntry) : State :=
  let s := s.modRing r fun x =>
    { x with waiting := x.waiting.filter fun y => y.id ≠ e.id
             dropped := if lost then x.dropped else x.dropped + 1, lost := if lost then x.lost + 1 else x.lost }
  (s.logEvent (.discard e.heatid e.team r lost)).performed e.done

/-- THE READY CYCLE OF A POST (R300, R348): discarded when the ring is disabled or 64 entries are held beyond its room;
otherwise it becomes visible at a cycle that the device chooses, in the order of the posts (log 99). -/
def State.entryReady (s : State) (r id : Nat) : State :=
  match (s.ring r).waiting.find? (fun e => e.id == id) with
  | none => s
  | some e =>
    let x := s.ring r
    if !x.en then (s.discardEntry r false e).push s.now 62 (.hostRingEntryVisible r)
    else if (x.waiting.filter (·.accepted)).length ≥ x.room + 64 then
      (s.discardEntry r true e).push s.now 62 (.hostRingEntryVisible r)
    else
      let q := s.choose s.now (s.now + 256)
      (q.2.modRing r fun x =>
        { x with waiting := x.waiting.map fun y => if y.id = id then { y with accepted := true, from_ := q.1 } else y }).push
          q.1 62 (.hostRingEntryVisible r)

/-- HOST_RING_ENTRY_VISIBLE (R300). -/
def execHostRingEntryVisible (s : State) : Host.Outcome State Fault Refusal :=
  match s.arg with
  | .hostRingEntryVisible r => .next (drainRing ((s.ring r).waiting.length) s r)
  | _ => .fault .noData

/-- HOST_RING_CI_WRITE (R299, R300, R303): the host frees entries, and held ones become visible. The queue window takes effect
once READY.FE is set. -/
def execHostRingCiWrite (s : State) : Host.Outcome State Fault Refusal :=
  match s.arg with
  | .hostRingCiWrite r ci =>
    .next (if s.ready.fe then (s.modRing r fun x => { x with ci := ci }).push s.now 62 (.hostRingEntryVisible r) else s)
  | _ => .fault .noData

/-- HOST_RING_EN_WRITE (R299, R348): enabling clears DROPPED and LOST; disabling discards what is held. -/
def execHostRingEnWrite (s : State) : Host.Outcome State Fault Refusal :=
  match s.arg with
  | .hostRingEnWrite r en =>
    if en then
      .next (s.modRing r fun x =>
        { x with en := true, dropped := if x.en then x.dropped else 0, lost := if x.en then x.lost else 0 })
    else
      let held := (s.ring r).waiting.filter (·.accepted)
      .next (held.foldl (fun s e => s.discardEntry r false e) (s.modRing r fun x => { x with en := false }))
  | _ => .fault .noData

/-! ## Free grains (R129) -/

/-- The first cycle from c on that lies in a grain of a stack which no resident heat is granted; a frame without one is
passed over. -/
def State.freeGrain (s : State) (stack c : Nat) : Nat :=
  let g := c / 64
  match (c :: (List.range 64).map fun i => 64 * (g + 1 + i)).find? fun x => s.grainFree stack x with
  | some x => x
  | none => c + 4096

end Sys2Proof.Machine
end

