-- ==== Sys2Proof/Machine/Messages.lean ====
section
/-! DEFINITION. The unscheduled classes (R218, R226-R228, R267-R270, R344, R345): headers, outbound queues, reordering,
acknowledgement and repetition; launch writes, signals, host posts and the actions of fired thresholds. -/
namespace Sys2Proof.Machine

/-! ## Headers (R267) -/

/-- The 256 bytes of a message's flit (R267, Table 3). -/
def msgBytes (m : Msg) : List Byte :=
  let h0 := m.cls.toNat * 2 ^ 60 + m.plen.toNat * 2 ^ 52 + m.dpkg.toNat * 2 ^ 35 + m.spkg.toNat * 2 ^ 18 +
    (if m.ack then 2 ^ 17 else 0) + m.rsvd.toNat
  let h1 := m.fid.toNat * 2 ^ 48 + m.sq.toNat * 2 ^ 16 + m.ttl.toNat * 2 ^ 8 + m.rsvd1.toNat
  let bs := leBytes 8 h0 ++ leBytes 8 h1 ++ m.payload
  bs ++ List.replicate (256 - bs.length) 0

/-- The message that a flit's bytes hold. -/
def msgOf (bs : List Byte) : Msg :=
  let h0 := ofLeBytes (bs.take 8)
  let h1 := ofLeBytes ((bs.drop 8).take 8)
  let plen := bits h0 59 52
  { cls := BitVec.ofNat 4 (bits h0 63 60), plen := BitVec.ofNat 8 plen, dpkg := BitVec.ofNat 17 (bits h0 51 35)
    spkg := BitVec.ofNat 17 (bits h0 34 18), ack := h0.testBit 17, rsvd := BitVec.ofNat 17 (bits h0 16 0)
    fid := BitVec.ofNat 16 (bits h1 63 48), sq := BitVec.ofNat 32 (bits h1 47 16), ttl := BitVec.ofNat 8 (bits h1 15 8)
    rsvd1 := BitVec.ofNat 8 (bits h1 7 0), payload := (bs.drop 16).take plen }

/-- Whether a header is one that R267 and R262 allow. -/
def msgWf (m : Msg) : Bool :=
  let n := m.plen.toNat
  m.rsvd == 0 && m.rsvd1 == 0 && decide (1 ≤ n ∧ n ≤ 240) && decide (1 ≤ m.cls.toNat ∧ m.cls.toNat ≤ 4) &&
  (if m.ack then n == 1 && m.cls != 4
   else if m.cls = 1 then n == 48
   else if m.cls = 2 then n == 16
   else if m.cls = 3 then decide (17 ≤ n)
   else true)

/-- The flow of a message (R267). -/
def msgKey (m : Msg) : FlowKey := { spkg := m.spkg, dpkg := m.dpkg, cls := m.cls, fid := m.fid }

/-- The flow that an acknowledgement speaks of. -/
def ackKey (m : Msg) : FlowKey := { spkg := m.dpkg, dpkg := m.spkg, cls := m.cls, fid := m.fid }

/-- The port on which messages to a package leave (R268). An entry of the routing table holds 1 + the port + 16 x the hops
beyond the first. -/
def State.route (s : State) (dpkg : BitVec 17) : Option Nat :=
  let r := Store.get 0 s.routes dpkg.toNat
  if r = 0 then none else some ((r - 1) % 16)

/-- The hops to a package (R267: TTL; log 91), 1 to a neighbour. -/
def State.hops (s : State) (dpkg : BitVec 17) : BitVec 8 := BitVec.ofNat 8 ((Store.get 0 s.routes dpkg.toNat - 1) / 16 + 1)

/-- The acknowledgement of a message: cause 0, or the cause of a negative one (R269, R345). Its SPKG is the destination
of the message, so that it names the flow (log 55). -/
def State.msgReply (s : State) (m : Msg) (cause : Nat) : Msg :=
  { cls := m.cls, plen := 1, dpkg := m.spkg, spkg := m.dpkg, ack := true, rsvd := 0, fid := m.fid, sq := m.sq
    ttl := s.hops m.spkg, rsvd1 := 0, payload := [BitVec.ofNat 8 cause] }

/-- A new message of this package, its SEQ still to be given. -/
def State.newMsg (s : State) (cls : BitVec 4) (dpkg : BitVec 17) (fid : Nat) (payload : List Byte) : Msg :=
  { cls := cls, plen := BitVec.ofNat 8 payload.length, dpkg := dpkg, spkg := s.pkgNo, ack := false, rsvd := 0
    fid := BitVec.ofNat 16 fid, sq := 0, ttl := s.hops dpkg, rsvd1 := 0, payload := payload }

/-- No heat waits for this message. -/
def noAck : AckTo := { hid := 2 ^ 62, core := 0, bar := none }

/-! ## Slots of the unscheduled class (R35, R38, R268) -/

/-- The flow that a bank names for a slot (R35, R38). -/
def slotFlow (table : Store (BitVec 32)) (bank : Bool) (idx : Nat) : Option Nat :=
  let w := Store.get 0 table (4096 * bank.toNat + idx)
  if w.getLsbD 31 && idx % 16 != 15 then some (w.toNat % 4096) else none

/-- Slot index of a pod cycle (R34). -/
def slotIdx (c : Nat) : Nat := c / 2 % 4096

/-- The first unscheduled transmit slot of a port at or after a cycle that no earlier message has taken (R268). -/
def Port.nextUnscheduled (p : Port) (c : Nat) : Nat :=
  let c0 := roundUp 2 (max c (match p.lastUnsched with
    | some l => l + 2
    | none => 0))
  match ((List.range 17).map fun i => c0 + 2 * i).find? fun x => (slotFlow p.txTable p.txAct (slotIdx x)).isNone with
  | some x => x
  | none => c0

/-- See that the head of a port's queue gets its slot. -/
def State.wakePort (s : State) (p : Nat) : State :=
  match (s.port p).queue with
  | [] => s
  | (ready, _) :: _ =>
    let c := (s.port p).nextUnscheduled (max s.now ready)
    if s.agenda.any fun d => d.ev == .unscheduledSend p && decide (d.at_ ≤ c) then s
    else s.push c 49 (.unscheduledSend p)

/-- Order of entry into an outbound queue (R268): ready cycle, CLASS, FID. -/
def msgBefore (a b : Nat × Msg) : Bool :=
  decide (a.1 < b.1) || (a.1 == b.1 && (decide (a.2.cls < b.2.cls) || (a.2.cls == b.2.cls && decide (a.2.fid < b.2.fid))))

/-- Insert a message into an outbound queue. -/
def insertMsg (x : Nat × Msg) : List (Nat × Msg) → List (Nat × Msg)
  | [] => [x]
  | y :: r => if msgBefore x y then x :: y :: r else y :: insertMsg x r

/-- PUT A MESSAGE INTO A PORT'S QUEUE, ready at a cycle (R268). -/
def State.enqueue (s : State) (p ready : Nat) (m : Msg) : State :=
  (s.modPort p fun x => { x with queue := insertMsg (ready, m) x.queue }).wakePort p

/-- SEND A MESSAGE by the routing table (R268). One of this package that has no route is refused with 0xE6 at once
(R345), or with 0xE5 when it names this package and no core of it; any other is dropped. -/
def State.emit (s : State) (m : Msg) (ready : Nat) : State :=
  match s.route m.dpkg with
  | some p => s.enqueue p ready m
  | none =>
    if m.spkg = s.pkgNo ∧ !m.ack ∧ m.cls ≠ 4 then
      let cause := if m.dpkg = s.pkgNo then 0xE5 else 0xE6
      s.push (max s.now ready) 45 (.negativeAcknowledgement (s.msgReply m cause) cause)
    else s

/-- Acknowledge a message, ready now (R269, R345). -/
def State.reply (s : State) (m : Msg) (cause : Nat) : State := s.emit (s.msgReply m cause) s.now

/-- The next SEQ of a flow, which is then used (R267). -/
def State.takeSeq (s : State) (k : FlowKey) : BitVec 32 × State :=
  match s.flows.find? (fun e => e.1 == k) with
  | some e => (e.2, { s with flows := s.flows.map fun x => if x.1 = k then (k, x.2 + 1) else x })
  | none => (0, { s with flows := s.flows ++ [(k, 1)] })

/-- HAND A MESSAGE OF CLASS 1-3 TO THE FABRIC: it takes its SEQ and waits for its acknowledgement (R267-R269). -/
def State.sendMessage (s : State) (m : Msg) (done : AckTo) : State :=
  let q := s.takeSeq (msgKey m)
  let m : Msg := { m with sq := q.1 }
  ({ q.2 with unacked := q.2.unacked ++ [{ m := m, done := done, losses := 0, lastNeg := false }] } : State).emit m s.now

/-- Put a message of class 4 on a port (R267, R276, R355): it takes its SEQ and is not acknowledged. -/
def State.sendOn (s : State) (p : Nat) (m : Msg) : State :=
  let q := s.takeSeq (msgKey m)
  q.2.enqueue p s.now { m with sq := q.1 }

/-- Send a message of class 4 by the routing table (R267, R268). -/
def State.sendRouted (s : State) (m : Msg) : State :=
  let q := s.takeSeq (msgKey m)
  q.2.emit { m with sq := q.1 } s.now

/-- UNSCHEDULED_SEND (R268, R344): the head of the queue leaves when its slot has come and its flow has fewer than 64
messages unacknowledged before it. -/
def execUnscheduledSend (s : State) : Host.Outcome State Fault Refusal :=
  match s.arg with
  | .unscheduledSend p =>
    let x := s.port p
    match x.queue with
    | [] => .next s
    | (ready, m) :: rest =>
      let before := (s.unacked.filter fun u => (msgKey u.m) == (msgKey m) && decide ((m.sq - u.m.sq).toNat < 2 ^ 31) && u.m.sq != m.sq).length
      if !x.trained then .next s
      else if decide (s.now < ready) || x.nextUnscheduled s.now != s.now then .next (s.wakePort p)
      else if !m.ack && m.spkg == s.pkgNo && decide (before ≥ 64) then .next s
      else
        let s := s.modPort p fun x => { x with queue := rest, lastUnsched := some s.now, sent := some (s.now, .bytes (msgBytes m)) }
        let s := s.tick 8 p 1
        let s := match s.unacked.find? (fun u => u.m == m) with
          | some u => s.push (s.now + 65536) 45 (.messageRetransmit (msgKey m) m.sq u.losses)
          | none => s
        .next (s.wakePort p)
  | _ => .fault .noData

/-- Raise a cause of the fabric in the heat that issued a message, or enter it in the log when it is not resident (R344,
R345). -/
def State.raiseFor (s : State) (d : AckTo) (cause : Nat) : State :=
  match (s.heat? d.hid).bind fun h => if h.status = .saved then none else h.coreAt d.core with
  | some core => s.detect { Detect.blank d.hid (externalRank 0 cause) cause 6 with core := core }
  | none => s.logEvent (.message cause)

/-- Count a loss of an unacknowledged message (R344, R345): the eighth raises its cause and ends the message. -/
def State.loseMessage (s : State) (u : Unacked) (neg : Bool) : State :=
  if u.losses + 1 ≥ 8 then
    ({ s with unacked := s.unacked.filter (· ≠ u) } : State).raiseFor u.done (if neg then 0xE1 else 0xE0)
  else
    let v : Unacked := { u with losses := u.losses + 1, lastNeg := neg }
    let s : State := { s with unacked := s.unacked.map fun x => if x = u then v else x }
    if neg then s.push (s.now + 65536) 45 (.messageRetransmit (msgKey u.m) u.m.sq (100 + v.losses)) else s.emit u.m s.now

/-- The unacknowledged message that a flow and SEQ name. -/
def State.pending? (s : State) (k : FlowKey) (sq : BitVec 32) : Option Unacked :=
  s.unacked.find? fun u => (msgKey u.m) == k && u.m.sq == sq

/-- MESSAGE_RETRANSMIT (R344, R345): attempt n is the timeout of the n-th sending, and 100 + n the sending that follows
the n-th loss by refusal. -/
def execMessageRetransmit (s : State) : Host.Outcome State Fault Refusal :=
  match s.arg with
  | .messageRetransmit k sq n =>
    match s.pending? k sq with
    | none => .next s
    | some u =>
      if n = 100 + u.losses then .next (s.emit u.m s.now)
      else if n = u.losses ∧ !(s.agenda.any fun d => d.ev == .messageRetransmit k sq (100 + n)) then .next (s.loseMessage u false)
      else .next s
  | _ => .fault .noData

/-- Let every port that waits go on. -/
def State.wakePorts (s : State) : State := (List.range 16).foldl (fun s p => s.wakePort p) s

/-- ACKNOWLEDGEMENT (R269). -/
def execAcknowledgement (s : State) : Host.Outcome State Fault Refusal :=
  match s.arg with
  | .acknowledgement m =>
    match s.pending? (ackKey m) m.sq with
    | none => .next s
    | some u => .next ((({ s with unacked := s.unacked.filter (· ≠ u) } : State).performed u.done).wakePorts)
  | _ => .fault .noData

/-- NEGATIVE_ACKNOWLEDGEMENT (R345): 0xE1 counts as a loss; any other cause ends the message without its arrival and
raises the cause. -/
def execNegativeAcknowledgement (s : State) : Host.Outcome State Fault Refusal :=
  match s.arg with
  | .negativeAcknowledgement m cause =>
    match s.pending? (ackKey m) m.sq with
    | none => .next s
    | some u =>
      if cause = 0xE1 then .next ((s.loseMessage u true).wakePorts)
      else
        let s : State := { s with unacked := s.unacked.filter (· ≠ u) }
        .next (((s.raiseFor u.done cause).performed { u.done with bar := none }).wakePorts)
  | _ => .fault .noData

/-! ## Arrival (R267-R270, R276, R345) -/

/-- Doubleword j of a payload. -/
def msgDword (m : Msg) (j : Nat) : Nat := ofLeBytes ((m.payload.drop (8 * j)).take 8)

/-- The step that a management message makes (R17, R267, R276, R355): its subtype is its first byte; a PTP message has TTL 1
and names its domain in the next byte (log 57). -/
def State.mgmtEvent (s : State) (m : Msg) (port : Nat) : Option Ev :=
  let p0 := (msgDword m 0)
  let initiator := (msgDword m 3) % 2 ^ 17
  if m.fid = 0x7FFF then
    if m.ttl ≠ 1 ∨ bits p0 15 8 ≠ s.ptp.domain then none
    else match p0 % 256 with
      | 0x00 => some (.sync port false (65536 * msgDword m 1 + msgDword m 2 % 65536))
      | 0x02 => some (.pdelayReq port)
      | 0x03 => some (.pdelayResp port (msgDword m 1))
      | 0x0B => some (.announce port m.payload)
      | _ => none
  else if m.fid = 0x7FFE then match p0 % 256 with
    | 0x20 => some (.halt initiator (bits p0 15 8) (s.named (msgDword m 1)) (some port))
    | 0x21 => some (.halted m.spkg.toNat (bits p0 15 8) (s.named (msgDword m 2)) (s.named (msgDword m 1)) initiator)
    | 0x22 => some (.resume (msgDword m 2) (s.named (msgDword m 1)) initiator)
    | 0x23 => some (.resumed m.spkg.toNat)
    | 0x24 => some (.exclude ((msgDword m 2) % 2 ^ 17) (s.named (msgDword m 1)) initiator)
    | _ => none
  else none

/-- DELIVER A MESSAGE at a cycle (R269): it takes effect there, by ascending FID among those of one cycle. An unassigned
control subtype is entered in the umpire's log (R355). -/
def State.deliverMsg (s : State) (m : Msg) (port c : Nat) : State :=
  match m.cls.toNat with
  | 1 => s.pushSub c 44 m.fid.toNat (.launchMessage m noAck)
  | 2 => s.pushSub c 44 m.fid.toNat (.signalMessage m)
  | 3 => s.pushSub c 44 m.fid.toNat (.bulkMessage m)
  | _ => match s.mgmtEvent m port with
    | some e => s.pushSub c 44 m.fid.toNat e
    | none => if m.fid = 0x7FFF then s else s.logEvent (.control (msgDword m 0 % 256))

/-- What a flow's receiver keeps of an ordered flow (R269): the next SEQ expected, and the first cycle in which the flow's next
delivery may be made. -/
def State.inflowOf (s : State) (k : FlowKey) : BitVec 32 × Nat :=
  ((s.inflow.find? (fun x => x.1 == k)).map (·.2)).getD (0, 0)

/-- Set what a flow expects. -/
def State.expect (s : State) (k : FlowKey) (sq : BitVec 32) (from_ : Nat) : State :=
  { s with inflow := (k, sq, from_) :: s.inflow.filter fun e => e.1 ≠ k }

/-- Deliver the held messages of a flow that have become next, one cycle after the other (R269). Fuel bounds them. -/
def deliverHeld : Nat → State → FlowKey → BitVec 32 → Nat → State
  | 0, s, k, e, c => s.expect k e c
  | n + 1, s, k, e, c =>
    match s.reorder.find? (fun x => (msgKey x.1) == k && x.1.sq == e) with
    | none => s.expect k e c
    | some x => deliverHeld n (({ s with reorder := s.reorder.filter (· ≠ x) } : State).deliverMsg x.1 0 c) k (e + 1) (c + 1)

/-- The messages in the reorder buffer at a cycle: those held by SEQ, and those whose delivery is still to come (R269). -/
def State.buffered (s : State) (c : Nat) : Nat := s.reorder.length + (s.inflow.map fun e => e.2.2 - c).sum

/-- The SEQs of an unordered flow that have been delivered. -/
def State.seenOf (s : State) (k : FlowKey) : List (BitVec 32) :=
  ((s.seen.find? (fun e => e.1 == k)).map (·.2)).getD []

/-- Remember a delivered SEQ of an unordered flow. -/
def State.note (s : State) (k : FlowKey) (sq : BitVec 32) : State :=
  { s with seen := (k, sq :: s.seenOf k) :: s.seen.filter fun e => e.1 ≠ k }

/-- A MESSAGE FOR THIS PACKAGE enters the reorder buffer at a cycle (R269, R270, R344, R345). A message of class 4 is not
acknowledged and so not repeated: one ahead of its turn is delivered in its flow's next cycle, and one that comes after a
later one of its flow is discarded (log 100). -/
def State.arrive (s : State) (m : Msg) (port c : Nat) : State :=
  let k := msgKey m
  let x := s.inflowOf k
  let from_ := max c x.2
  if m.ack then
    let cause := (m.payload.headD 0).toNat
    s.pushSub c 44 m.fid.toNat (if cause = 0 then .acknowledgement m else .negativeAcknowledgement m cause)
  else if m.fid.getLsbD 15 then
    if (s.seenOf k).contains m.sq then s.emit (s.msgReply m 0) c
    else (s.note k m.sq).deliverMsg m port c
  else if m.cls = 4 then
    let behind := (x.1 - m.sq).toNat
    if 1 ≤ behind ∧ behind ≤ 2048 then s else (s.deliverMsg m port from_).expect k (m.sq + 1) (from_ + 1)
  else
    if m.sq = x.1 then deliverHeld 2048 (s.deliverMsg m port from_) k (x.1 + 1) (from_ + 1)
    else if (x.1 - m.sq).toNat < 2 ^ 31 then s.emit (s.msgReply m 0) c
    else if s.reorder.any (fun y => (msgKey y.1) == k && y.1.sq == m.sq) then s
    else if s.buffered c ≥ 2048 then s.emit (s.msgReply m 0xE1) c
    else { s with reorder := s.reorder ++ [(m, c)] }

/-- A MESSAGE IS RELEASED on a port (R267-R269, R345): it is taken 8 c later, or forwarded then with its TTL one lower. -/
def State.releaseMessage (s : State) (port : Nat) (bytes : List Byte) : State :=
  let m := msgOf bytes
  let broadcast := m.cls == 4 && m.dpkg == 0x1FFFF
  if !(s.port port).trained then s
  else if !(msgWf m) then (if m.ack || m.cls == 4 then s else s.emit (s.msgReply m 0xE5) (s.now + 8))
  else if m.dpkg = s.pkgNo ∨ broadcast then s.arrive m port (s.now + 8)
  else if m.ttl ≤ 1 ∨ (s.route m.dpkg).isNone then
    (if m.ack || m.cls == 4 then s else s.emit (s.msgReply m 0xE6) (s.now + 8))
  else s.emit { m with ttl := m.ttl - 1 } (s.now + 8)

/-- The heat that occupies a core now. -/
def State.heatOn (s : State) (core : Nat) : Option Heat :=
  s.heats.find? fun h => h.clusters.contains (clusterOf core) && h.status != .saved

/-- APPLY A SIGNAL to a barrier of a core (R227): its credit and its arrival in one cycle. -/
def State.applySignal (s : State) (core rank : Nat) (handle credit : Word) (arrive : Bool) : State :=
  let hid := ((s.heatOn core).map (·.hid)).getD (2 ^ 62)
  s.barChange core handle 0 credit.toNat arrive.toNat true { Detect.blank hid rank 0 6 with core := core }

/-- SIGNAL_MESSAGE (R227, R269). -/
def execSignalMessage (s : State) : Host.Outcome State Fault Refusal :=
  match s.arg with
  | .signalMessage m =>
    let x := (msgDword m 0)
    let core := x % 512
    if core ≥ 384 then .next (s.reply m 0xE5)
    else .next ((s.applySignal core (290000 + m.fid.toNat % 1024) (BitVec.ofNat 32 (x / 2 ^ 32)) (BitVec.ofNat 32 (msgDword m 1))
      (x.testBit 9)).reply m 0)
  | _ => .fault .noData

/-- BULK_MESSAGE (R129, R269): acknowledged at its delivery; its data performs in the next free grain of its stack, a part in
each stack that it touches, and its credit is applied when all of it has. While it waits, the reserved byte is 1 and SEQ holds
the bytes it came with. -/
def execBulkMessage (s : State) : Host.Outcome State Fault Refusal :=
  match s.arg with
  | .bulkMessage m =>
    let pa := (msgDword m 0) % 2 ^ 48
    let data := m.payload.drop 16
    let later (s : State) (pa : Nat) (m : Msg) : State := s.push (s.freeGrain (stackOf pa) (s.now + 1)) 23 (.bulkMessage m)
    if m.rsvd1 = 0 then
      let s := if m.spkg = s.pkgNo then s else s.reply m 0
      .next (later s pa { m with rsvd1 := 1, sq := BitVec.ofNat 32 data.length })
    else if !s.grainFree (stackOf pa) s.now then .next (later s pa m)
    else
      let x := (msgDword m 1)
      let n := 4096 - pa % 4096
      let s := (s.stackUse (stackOf pa)).2.writeHbm pa (data.take n)
      if n < data.length then
        .next (later s (pa + n) { m with payload := leBytes 8 (pa + n) ++ leBytes 8 x ++ data.drop n })
      else
        .next (if x.testBit 9 ∧ x % 512 < 384
          then s.applySignal (x % 512) (290000 + m.fid.toNat % 1024) (BitVec.ofNat 32 (x / 2 ^ 32)) m.sq false
          else s)
  | _ => .fault .noData

/-! ## Launch writes, signals and host posts (R226-R228) -/

/-- Whom the acknowledgement of a cox's message concerns (R218). -/
def UCtx.ackTo (c : UCtx) (w : UE) : AckTo :=
  { hid := c.ref.hid, core := c.heat.relCore c.team.core, bar := c.barHandle w, team := c.ref.team }

/-- SEND FROM A COX (R60, R218): MSG counts the message from t; it is accepted, and its flag clears, at t + 16. -/
def UCtx.postMessage (c : UCtx) (s : State) (i : Instr) (p : AckTo → Post) (w : UE) : State :=
  let done := c.ackTo w
  let s := s.modCore c.team.core fun k => { k with msg := k.msg + 1 }
  (s.push (s.now + 16) 10 (.coxResult c.ref { CoxLanding.empty with flag := flagFor c.clause i })).pushSub
    (s.now + 16) 46 (2 * c.team.core + c.team.tsel) (.messageAccepted (p done))

/-- k registers from n on, as bytes. -/
def UCtx.kBytes (c : UCtx) (n count : Nat) : List Byte := ((List.range count).map fun i => leBytes 4 (c.kn (n + i))).flatten

/-- Payload of a launch write (R226). -/
def UCtx.launchPayload (c : UCtx) (d : Nat) : List Byte :=
  let x := c.kn (d + 1)
  let narg := bits x 25 22
  leBytes 8 (c.kn (d + 2) + 2 ^ 32 * bits x 15 0 + 2 ^ 48 * bits x 21 16 + 2 ^ 54 * narg) ++ c.kBytes (d + 3) 2 ++
    ((List.range 8).map fun i => leBytes 4 (if i < narg then c.kn (d + 5 + i) else 0)).flatten

/-- The breach of `lwr` (R226, R330): a reserved bit of its words, or more than 8 arguments. -/
def UCtx.lwrExtra (c : UCtx) (w : UE) : List (Nat × Nat × Nat) :=
  let x := c.kn (w.d.toNat + 1)
  if c.kn w.d.toNat ≥ 2 ^ 17 ∨ x ≥ 2 ^ 26 ∨ bits x 25 22 > 8 then [(0x03, 0, 0)] else []

/-- lwr (R226): a launch write, delivered to this package's own front end without the fabric. -/
def execLwr (w : UE) (s : State) : Host.Outcome State Fault Refusal :=
  let d := w.d.toNat
  issueUni (.lwr w) s 16
    (fun c => c.lwrExtra w)
    fun c s =>
      let m := s.newMsg 1 (BitVec.ofNat 17 (c.kn d)) c.team.core (c.launchPayload d)
      c.postMessage s (.lwr w) (fun a => if m.dpkg = s.pkgNo then .localLaunch m a else .message m a) w

/-- Payload of a signal (R267, Table 4). -/
def signalPayload (core : Nat) (arrive : Bool) (handle credit : Word) : List Byte :=
  leBytes 4 (core + (if arrive then 512 else 0)) ++ leBytes 4 handle.toNat ++ leBytes 4 credit.toNat ++ leBytes 4 0

/-- What a signal hands to its path: the fabric, or this package's own core. -/
def State.signalPost (s : State) (dest : Nat) (fid : Nat) (handle credit : Word) (arrive : Bool) (a : AckTo) : Post :=
  let pkg := BitVec.ofNat 17 dest
  let core := bits dest 25 17
  if pkg = s.pkgNo ∧ core < 384 then .localSignal core handle credit arrive a
  else .message (s.newMsg 2 pkg fid (signalPayload core arrive handle credit)) a

/-- The breach of `sig` (R227, R330): a reserved bit of its words. -/
def UCtx.sigExtra (c : UCtx) (w : UE) : List (Nat × Nat × Nat) :=
  if c.kn w.d.toNat ≥ 2 ^ 26 ∨ c.kn (w.d.toNat + 3) ≥ 2 then [(0x03, 0, 0)] else []

/-- sig (R227). -/
def execSig (w : UE) (s : State) : Host.Outcome State Fault Refusal :=
  let d := w.d.toNat
  issueUni (.sig w) s 16 (fun c => c.sigExtra w)
    fun c s => c.postMessage s (.sig w)
      (s.signalPost (c.kn d) c.team.core (c.k (d + 1)) (c.k (d + 2)) (c.kn (d + 3) % 2 == 1)) w

/-- The bytes of a host-ring entry (R228). -/
def entryBytes (heatid : BitVec 32) (team : Nat) (ws : List Nat) : List Byte :=
  let b := leBytes 4 heatid.toNat ++ leBytes 2 team ++ leBytes 1 ws.length ++ leBytes 1 0 ++ (ws.map (leBytes 4)).flatten
  b ++ List.replicate (32 - b.length) 0

/-- The breaches of `hpost` (R228, R330, R331). -/
def UCtx.hpostExtra (c : UCtx) (w : UE) : List (Nat × Nat × Nat) :=
  let d := w.d.toNat
  let x := c.kn d
  let nw := bits x 10 8
  (if x ≥ 2 ^ 11 ∨ bits x 7 6 ≠ 0 ∨ nw = 0 ∨ nw = 7 then [(0x03, 0, 0)] else []) ++
  (if d + nw > 63 then [(0x27, 0, 0)] else [])

/-- hpost (R228, R300): the entry takes its place among its ring's posts at once. -/
def execHpost (w : UE) (s : State) : Host.Outcome State Fault Refusal :=
  let d := w.d.toNat
  issueUni (.hpost w) s 16
    (fun c => c.hpostExtra w)
    fun c s =>
      let nw := bits (c.kn d) 10 8
      let bytes := entryBytes c.heat.heatid c.ref.team ((List.range nw).map fun i => c.kn (d + 1 + i))
      let e : RingEntry :=
        { id := s.nextOp, posted := s.now, core := c.team.core, tsel := c.team.tsel, heatid := c.heat.heatid
          team := c.ref.team, bytes := bytes, ops := [], accepted := false, from_ := 0, done := c.ackTo w }
      let t : State := { s with nextOp := s.nextOp + 1 }
      c.postMessage (t.post (c.kn d % 64) e) (.hpost w) (fun _ => .hostEntry (c.kn d % 64) s.nextOp) w

/-- The pod cycle before which a local signal of a heat's core may not be applied: that of the core's signals still to be
applied (R270). -/
def State.signalsPending (s : State) (a : AckTo) : Nat :=
  s.agenda.foldl (fun m d => match d.ev with
    | .localSignalApply _ _ _ _ b => if b.hid = a.hid ∧ b.core = a.core then max m d.at_ else m
    | _ => m) s.now

/-- TAKE A POST into its outbound path (R218, R226-R228). A local signal is applied no later than 256 c from now, in the
order of its core's signals. -/
def State.accept (s : State) (p : Post) : State :=
  match p with
  | .message m a => s.sendMessage m a
  | .localLaunch m a => s.push s.now 47 (.launchMessage m a)
  | .localSignal core h cr ar a =>
    let x := s.choose (s.signalsPending a) (s.now + 256)
    x.2.push x.1 47 (.localSignalApply core h cr ar a)
  | .hostEntry r id => s.entryReady r id

/-- MESSAGE_ACCEPTED (R218). -/
def execMessageAccepted (s : State) : Host.Outcome State Fault Refusal :=
  match s.arg with
  | .messageAccepted p => .next (s.accept p)
  | _ => .fault .noData

/-- The core that issued a post, for its rank (R342). -/
def State.coreOf (s : State) (a : AckTo) : Nat := ((s.heat? a.hid).bind fun h => h.coreAt a.core).getD 0

/-- LOCAL_SIGNAL_APPLY (R227, R342). -/
def execLocalSignalApply (s : State) : Host.Outcome State Fault Refusal :=
  match s.arg with
  | .localSignalApply core h cr ar a => .next ((s.applySignal core (300000 + s.coreOf a) h cr ar).performed a)
  | _ => .fault .noData

/-- BARM_ACTION_LAUNCH (R217): the action of a fired threshold enters its path, whether or not its heat still runs. -/
def execBarmActionLaunch (s : State) : Host.Outcome State Fault Refusal :=
  match s.arg with
  | .barmActionLaunch core x =>
    let a : AckTo := { hid := x.hid, core := x.rel, bar := none, team := x.team }
    match x.act with
    | 0 =>
      let r := x.opa.toNat % 64
      let e : RingEntry :=
        { id := s.nextOp, posted := s.now, core := core, tsel := x.tsel, heatid := x.heatid, team := x.team
          bytes := entryBytes x.heatid x.team [x.opb.toNat], ops := [], accepted := false, from_ := 0, done := a }
      let t : State := { s with nextOp := s.nextOp + 1 }
      .next ((t.post r e).entryReady r s.nextOp)
    | 1 => .next (s.accept (s.signalPost x.opa.toNat core x.opb 0 true a))
    | _ =>
      let c := s.choose s.now (s.now + 256)
      .next (c.2.push c.1 47 (.graphRelease x.queue (x.opa.toNat % 65536) x.heatid.toNat x.hid x.rel))
  | _ => .fault .noData

end Sys2Proof.Machine
end

