-- ==== Sys2Proof/Machine/Links.lean ====
section
/-! DEFINITION. Scheduled flows on the Amton ports (R34-R39, R261-R266, R337, R343, R346, R354): which slots an entry owns
and where its cursor stands in each, reading and sending, release and landing, frame markers, training and bank
switches. A slot is named by its pod cycle divided by 2. -/
namespace Sys2Proof.Machine

/-! ## Slots and cursors (R263, R264) -/

/-- Whether an entry owns the slots of an index (R264). -/
def FlowEntry.owns (e : FlowEntry) (idx : Nat) : Bool :=
  decide (e.sfirst ≤ idx ∧ idx < e.sfirst + e.scnt ∧ idx < 4096) && idx % 16 != 15

/-- Slot indices below x that are not 15 mod 16. -/
def flowSlots (x : Nat) : Nat := x - x / 16

/-- Slots that an entry owns at indices below x. -/
def FlowEntry.slotsBelow (e : FlowEntry) (x : Nat) : Nat :=
  flowSlots (min x (min 4096 (e.sfirst + e.scnt))) - flowSlots (min x e.sfirst)

/-- Slots of an entry, counted from its first link frame, that come before index i of frame f of a port p (R263). -/
def FlowEntry.slotsBefore (e : FlowEntry) (f i p : Nat) : Nat :=
  if f < e.firstf then 0
  else (f - e.firstf) * e.slotsBelow 4096 + e.slotsBelow i + (if e.port < p ∧ e.owns i then 1 else 0)

/-- The pod cycle from which an entry's frames count (R263, R266). -/
def Heat.flowBase (h : Heat) (e : FlowEntry) : Nat := if e.role = 0 then h.anchor else h.rxBase

/-- Whether the slot at a pod cycle lies in the frames of an entry. -/
def Heat.flowBegun (h : Heat) (e : FlowEntry) (c : Nat) : Bool := decide (h.flowBase e + 8192 * e.firstf ≤ c)

/-- THE CURSOR of an entry's slot at a pod cycle (R263, R264): 256 for every slot of the flow and role that came before. -/
def Heat.cursorAt (h : Heat) (e : FlowEntry) (c : Nat) : Nat :=
  let d := c - h.flowBase e
  256 * ((h.record.flows.filter fun x => x.flow == e.flow && x.role == e.role).foldl
    (fun n x => n + x.slotsBefore (d / 8192) (slotIdx c) e.port) 0)

/-- The first slot of an entry at or after a pod cycle, its frames counted from `base`. -/
def FlowEntry.slotFrom (e : FlowEntry) (base c : Nat) : Option Nat :=
  let k0 := (max c (base + 8192 * e.firstf) + 1) / 2
  ((List.range 4096).map fun i => k0 + i).find? fun k => e.owns (k % 4096)

/-- The first slot of a heat's entry at or after a pod cycle. -/
def Heat.nextSlot (h : Heat) (e : FlowEntry) (c : Nat) : Option Nat := e.slotFrom (h.flowBase e) c

/-- The first slot at or after a pod cycle in which a relay entry's flow arrives: its own slots, in every frame (R264, R265). -/
def Heat.nextRelayed (h : Heat) (e : FlowEntry) (c : Nat) : Option Nat := { e with firstf := 0 }.slotFrom h.rxBase c

/-- Whether a heat's entry is stopped in the slot at a pod cycle (R351, R352, R354): from its stop point, or from the stop
point of the heat's streams on its port's die, until the heat has resumed that far. -/
def Heat.flowStopped (h : Heat) (i c : Nat) : Bool :=
  match h.stops.find? (fun x => x.1 == .flow i) with
  | some (_, x) => if h.status = .restoring ∨ h.status = .running then decide (c < h.anchor + x) else true
  | none => match (h.record.flows[i]?).bind fun e => h.stopOn (dieOfPort e.port) with
    | some x => decide (h.anchor + x ≤ c)
    | none => false

/-- A fabric detection in a heat, by a port and a flow (R317, R319). -/
def flowBlame (hid port cause flow : Nat) : Detect :=
  { Detect.blank hid (externalRank port cause) cause 6 with info := flow }

/-- The detection of a breach that a flow entry's own access of its team's memory meets: CORE is that team's core. -/
def State.flowAccessBlame (s : State) (hid : Nat) (e : FlowEntry) (cause addr : Nat) : Detect :=
  { flowBlame hid e.port cause e.flow with core := ((s.team? ⟨hid, e.team⟩).map (·.core)).getD 0, addr := addr }

/-! ## Where a flow's bytes lie (R265, R266, R273) -/

/-- A place of 256 bytes: in the team's scratch, by its offset and the owner code tested; in global memory; or nowhere. -/
inductive FlowPlace where
  | scratch (o code : Nat)
  | global (va : Nat)
  | nowhere
deriving DecidableEq, Repr

/-- The `xfer` that an entry of DEST 2 serves (R273): the one whose shape record covers its flow, or, while a record is
still being read, that of its team. -/
def State.xferOf (s : State) (hid : Nat) (e : FlowEntry) : Option EngCmd :=
  let mine := s.cmds.filter fun c => c.hid == hid && !c.done && c.failed.isNone && !c.held && (match c.body with
    | .xfer .. => true
    | _ => false)
  match mine.find? (fun c => match c.shape with
    | some r => decide (r.flowbase ≤ e.flow ∧ e.flow < r.flowbase + r.nflow)
    | none => false) with
  | some c => some c
  | none => mine.find? fun c => c.shape.isNone && c.team == e.team

/-- A byte offset into a tensor entry. -/
def Tensor.placeAt (t : Tensor) (o code : Nat) : FlowPlace :=
  if t.loc then .global (wrapN 56 (t.base + o : Nat)) else .scratch (t.base + o) code

/-- Where an entry reads or writes at a cursor. -/
def State.flowPlace (s : State) (hid : Nat) (e : FlowEntry) (cursor : Nat) : FlowPlace :=
  if e.dest = 0 then .scratch (e.base + cursor) 4
  else if e.dest = 1 then .global (wrapN 56 (e.base + cursor : Nat))
  else match s.xferOf hid e with
    | some c => (match c.body with
      | .xfer src dst _ => if e.op = 2 then src.placeAt (e.base + cursor) 1
        else dst.placeAt ((if e.role = 3 then 256 * e.doff else e.base) + cursor) 4
      | _ => .nowhere)
    | none => .nowhere

/-- Whether 256 bytes of a team's scratch may be touched under an owner code now (R113): inside its allocation, owned and
open. -/
def State.landable (s : State) (t : Team) (o code : Nat) : Bool :=
  decide (o + 256 ≤ 4096 * t.scnt) && (s.ownerTest t.core (t.sbase + o / 4096) code).isNone &&
    (s.ownerTest t.core (t.sbase + (o + 255) / 4096) code).isNone

/-! ## Transmission (R264, R265, R354) -/

/-- The entry i of a heat. -/
def Heat.flow? (h : Heat) (i : Nat) : Option FlowEntry := h.record.flows[i]?

/-- Cycles by which the reading step of an entry comes before its slot (R265): where an `xfer` names the source, early enough
for global memory. -/
def FlowEntry.lead (e : FlowEntry) : Nat := if e.dest = 0 then 16 else 368

/-- An entry that sends, with the pod cycle from which its frames count: that of a heat, or of one that has completed (R264). -/
def State.sender? (s : State) (hid i : Nat) : Option (FlowEntry × Nat) :=
  match s.heat? hid with
  | some h => (h.flow? i).map fun e => (e, h.flowBase e)
  | none => (s.gone.find? fun g => g.hid == hid && g.entry == i).map fun g => (g.e, g.base)

/-- Put the next slot of a transmit or relay entry, from a pod cycle on, on the agenda. -/
def State.pushTransmit (s : State) (hid i : Nat) (e : FlowEntry) (base c : Nat) : State :=
  match e.slotFrom base c with
  | some k => s.push (max s.now (2 * k - e.lead)) 60 (.transmitRead hid i k false)
  | none => s

/-- Put bytes into a port's transmit buffer for the slot k; no bytes stand for a read that failed. -/
def State.putTx (s : State) (port k : Nat) (bs : List Byte) : State :=
  s.modPort port fun p => { p with txBuf := (2 * k, bs) :: p.txBuf }

/-- Read the bytes of a slot now, or see that they are read in time (R265, R273, R349): scratch 16 c before the slot, global
memory at its stack cycle. An uncorrectable word is the heat's fault, and the slot then carries an idle flit. -/
def State.transmitFrom (s : State) (h : Heat) (i : Nat) (e : FlowEntry) (k : Nat) (late : Bool) : State :=
  let cursor := h.cursorAt e (2 * k)
  let again : Bool := !late && decide (s.now + 16 < 2 * k)
  if e.role ≠ 0 ∨ !h.flowBegun e (2 * k) ∨ h.flowStopped i (2 * k) ∨ cursor ≥ e.len then s
  else match s.flowPlace h.hid e cursor, s.team? ⟨h.hid, e.team⟩ with
    | .global va, _ =>
      let lead := if dieOfPort e.port = dieOfStack (stackOf va) then 320 else 368
      s.push (max s.now (2 * k - lead)) 30 (.stackAccess (.flowRead h.hid i k))
    | .scratch o code, some t =>
      if again then s.push (2 * k - 16) 60 (.transmitRead h.hid i k true)
      else if !s.landable t o code then s.putTx e.port k []
      else
        let offs := (List.range 256).map (o + ·)
        let s := s.bytesCorrected t.core t.sbase offs
        if s.bytesLost t.core t.sbase offs then s.detect (s.flowAccessBlame h.hid e 0xF0 o)
        else s.putTx e.port k (s.readScratch t.core (4096 * t.sbase + o) 256)
    | _, _ => if again then s.push (2 * k - 16) 60 (.transmitRead h.hid i k true) else s

/-- TRANSMIT_READ (R264, R265): the slot's send and the entry's next slot follow, and the bytes of this one are read. -/
def execTransmitRead (s : State) : Host.Outcome State Fault Refusal :=
  match s.arg with
  | .transmitRead hid i k late =>
    match s.sender? hid i with
    | none => .next s
    | some (e, base) =>
      let s := if late then s
        else (s.pushSub (max s.now (2 * k)) 60 (16 + e.port) (.scheduledFlitSend hid i k)).pushTransmit hid i e base (2 * k + 2)
      .next (match s.heat? hid with
        | some h => s.transmitFrom h i e k late
        | none => s)
  | _ => .fault .noData

/-- A flow's read at its stack cycle (R265, R335). A breach is the heat's fault; the slot then carries an idle flit. -/
def State.flowRead (s : State) (hid i k : Nat) : State :=
  match s.heat? hid, (s.heat? hid).bind fun h => h.flow? i with
  | some h, some e =>
    match s.flowPlace hid e (h.cursorAt e (2 * k)) with
    | .global va =>
      let x := s.beatStack ⟨hid, e.team⟩ va false
      (match x.1 with
       | .inl b => x.2.detect (s.flowAccessBlame hid e b.1 b.2)
       | .inr pa => x.2.putTx e.port k (x.2.readHbm pa 256))
    | _ => s
  | _, _ => s

/-- The flit that a relay entry sends in the slot of a cursor (R265): the one of that number released on its RPORT at least 2 c
ago, which the relay then no longer holds. -/
def State.relayed (s : State) (hid : Nat) (e : FlowEntry) (cursor : Nat) : Flit × State :=
  match (s.port e.rport).relay.find? fun r =>
      r.hid == hid && r.flow == e.flow && r.n == cursor / 256 && decide (r.at_ + 2 ≤ s.now) with
  | some r => (.bytes r.bytes, s.modPort e.rport fun p => { p with relay := p.relay.filter (· ≠ r) })
  | none => (.idle, s)

/-- What a slot of a transmit or relay entry sends now, and its heat and ports after it (R264, R265, R343, R354). -/
def State.flitNow (s : State) (h : Heat) (i : Nat) (e : FlowEntry) (k : Nat) : Flit × State :=
  let cursor := h.cursorAt e s.now
  if h.flowStopped i s.now then (.halt, s)
  else if !h.flowBegun e s.now ∨ cursor ≥ e.len then (.idle, s)
  else
    let s := s.modHeat h.hid fun h => { h with cursors := Store.set 0 h.cursors (4 * e.flow + e.role) (cursor + 256) }
    if e.role = 2 then s.relayed h.hid e cursor
    else match (s.port e.port).txBuf.find? (fun b => b.1 == 2 * k) with
      | some (_, []) => (.idle, s.detect (flowBlame h.hid e.port 0x8A e.flow))
      | some (_, bs) => (.bytes bs, s)
      | none => (.idle, s)

/-- SCHEDULED_FLIT_SEND (R35, R264, R265): a slot that the active transmit bank gives to the entry's flow sends, and carries an
idle flit once its heat has completed. -/
def execScheduledFlitSend (s : State) : Host.Outcome State Fault Refusal :=
  match s.arg with
  | .scheduledFlitSend hid i k =>
    match s.sender? hid i with
    | none => .next s
    | some (e, _) =>
      let p := s.port e.port
      if !p.trained ∨ slotFlow p.txTable p.txAct (slotIdx s.now) ≠ some e.flow then .next s
      else
        let x : Flit × State := match s.heat? hid with
          | some h => s.flitNow h i e k
          | none => (.idle, s)
        let t := match x.1 with
          | .bytes _ => x.2.tick 7 e.port 1
          | _ => x.2
        .next (t.modPort e.port fun p =>
          { p with sent := some (s.now, x.1), txBuf := p.txBuf.filter fun b => decide (s.now < b.1) })
  | _ => .fault .noData

/-- The entries of a heat, with their numbers. -/
def Heat.flowList (h : Heat) : List (Nat × FlowEntry) := (List.range h.record.flows.length).zip h.record.flows

/-- A HEAT'S FLOWS END WITH IT (R264): its transmit and relay entries read no memory from now, and their slots carry idle flits
until a switch takes them out of the bank; what its relays hold is dropped. -/
def State.retireFlows (s : State) (h : Heat) : State :=
  let mine := h.flowList.filter fun ie => ie.2.role == 0 || ie.2.role == 2
  let s : State :=
    { s with gone := s.gone ++ mine.map fun ie => { hid := h.hid, entry := ie.1, e := ie.2, base := h.flowBase ie.2 } }
  let s := mine.foldl (fun s ie =>
    let waits : Ev → Bool := fun
      | .transmitRead a b _ _ => a == h.hid && b == ie.1
      | .scheduledFlitSend a b _ => a == h.hid && b == ie.1
      | _ => false
    if s.agenda.any fun d => waits d.ev then s else s.pushTransmit h.hid ie.1 ie.2 (h.flowBase ie.2) s.now) s
  (List.range 16).foldl (fun s p =>
    if (s.port p).relay.any fun r => r.hid == h.hid then
      s.modPort p fun x => { x with relay := x.relay.filter fun r => r.hid ≠ h.hid } else s) s

/-! ## Release and landing (R36, R266, R343, R354) -/

/-- Whether the heat still receives flits: resident, armed or halted. -/
def Heat.receives (h : Heat) : Bool :=
  !(h.status == .saved || h.status == .restoring)

/-- The receive entries that a released slot of a port belongs to now (R266): heat, number and entry. -/
def State.receivers (s : State) (port flow : Nat) : List (Heat × Nat × FlowEntry) :=
  (s.heats.map fun h => (h.flowList.filter fun ie =>
    ie.2.role == 1 && ie.2.port == port && ie.2.owns (slotIdx s.now) && h.flowBegun ie.2 s.now && h.receives &&
    ie.2.flow == flow).map fun ie => (h, ie.1, ie.2)).flatten

/-- See that a port's release step comes at a pod cycle. -/
def State.pushRelease (s : State) (port c : Nat) : State :=
  if s.agenda.any fun d => d.ev == .flitRelease port && d.at_ == c then s else s.pushSub c 22 port (.flitRelease port)

/-- The next slot, from a pod cycle on, in which an entry receives on a port: its own as a receive entry, or the slots in which
a relay entry's flow arrives on its RPORT. -/
def Heat.nextRelease (h : Heat) (e : FlowEntry) (port c : Nat) : Option Nat :=
  if e.role = 1 ∧ e.port = port then h.nextSlot e c
  else if e.role = 2 ∧ e.rport = port then h.nextRelayed e c
  else none

/-- Put the next release of every receive or relay entry of a port, after a pod cycle, on the agenda. -/
def State.pushReleases (s : State) (port c : Nat) : State :=
  s.heats.foldl (fun s h => h.record.flows.foldl (fun s e =>
    match h.nextRelease e port c with
    | some k => s.pushRelease port (2 * k)
    | none => s) s) s

/-- Bring the stop of a die's streams forward to a heat cycle (R351). -/
def Heat.stopDie (h : Heat) (die c : Nat) : Heat :=
  { h with dieHalt := Store.set 0 h.dieHalt die (1 + (match h.flitStop die with
      | some x => min x c
      | none => c)) }

/-- A HALT FLIT stops a receive entry, and a relay entry with its heat's streams; it stops the streams of a running heat 8 c
after the release on the port's die and 56 c after it on the other, however the heat is already to halt (R351, R354). -/
def State.haltByFlit (s : State) (hid i port : Nat) : State :=
  match s.heat? hid with
  | none => s
  | some h =>
    let c := s.now - h.anchor
    let die := dieOfPort port
    let runs := h.status = .running ∨ h.status = .closing
    let relay := ((h.flow? i).map (·.role)) = some 2
    let s := if h.stops.any (fun x => x.1 == .flow i) ∨ (relay ∧ runs) then s
      else s.modHeat hid fun h => { h with stops := h.stops ++ [(.flow i, c)] }
    if runs then
      let s := s.modHeat hid fun h => (h.stopDie die (c + 8)).stopDie (1 - die) (c + 56)
      if h.halt.isNone then
        (s.modHeat hid fun h => { h with halt := some (.haltFlit die, c + 56) }).push (s.now + 56) 84 (.faultHalt hid)
      else s
    else s

/-- The delay from release to the die of a landing. -/
def crossing (a b near far : Nat) : Nat := if a = b then near else far

/-- The rank of a land, fold or image write of an `xfer` (R256, R275): its effects in the cycle of DONE come before DONE, and in
any other after the issue slots, whose owner flips they are tested against (R115). -/
def State.xferRank (s : State) (c : EngCmd) (cycle : Nat) : Nat :=
  match c.shape with
  | some r => if cycle = s.cmdBase c + r.done then 41 else 61
  | none => 61

/-- The rank of an entry's landing in scratch (R115, R275). -/
def State.landRank (s : State) (hid : Nat) (e : FlowEntry) (cycle : Nat) : Nat :=
  match if e.dest = 2 then s.xferOf hid e else none with
  | some c => s.xferRank c cycle
  | none => 61

/-- Send a released flit's bytes to where they land (R266, R273). -/
def State.landFlit (s : State) (h : Heat) (i : Nat) (e : FlowEntry) (cursor : Nat) (bs : List Byte) : State :=
  let pd := dieOfPort e.port
  let cd := dieOfCore (((h.teams[e.team]?).map (·.core)).getD 0)
  let fold := s.now + crossing pd cd 24 72
  let land := s.now + crossing pd cd 8 56
  if e.dest = 2 ∧ e.op = 1 then s.pushSub fold (s.landRank h.hid e fold) e.port (.collectiveFold h.hid i cursor bs)
  else match s.flowPlace h.hid e cursor with
    | .scratch .. => s.pushSub land (s.landRank h.hid e land) e.port (.flitLanding h.hid i cursor bs)
    | .global va => s.pushSub (s.now + crossing pd (dieOfStack (stackOf va)) 320 368) 22 e.port
        (.stackAccess (.flowLand h.hid i cursor bs))
    | .nowhere => s

/-- One receive entry takes the flit of its slot (R264, R266, R343, R354). -/
def State.receiveFlit (s : State) (port : Nat) (f : Flit) (x : Heat × Nat × FlowEntry) : State :=
  let cursor := x.1.cursorAt x.2.2 s.now
  match f with
  | .halt => s.haltByFlit x.1.hid x.2.1 port
  | .idle =>
    if x.1.flowStopped x.2.1 s.now ∧ (x.1.stops.any fun y => y.1 == .flow x.2.1) ∨ cursor ≥ x.2.2.len then s
    else s.detect (flowBlame x.1.hid port 0x8A x.2.2.flow)
  | .bytes bs =>
    if x.1.flowStopped x.2.1 s.now ∧ (x.1.stops.any fun y => y.1 == .flow x.2.1) ∨ cursor ≥ x.2.2.len then s
    else (s.modHeat x.1.hid fun h => { h with cursors := Store.set 0 h.cursors (4 * x.2.2.flow + 1) (cursor + 256) }).landFlit
      x.1 x.2.1 x.2.2 cursor bs

/-- The relay entries of a heat whose flow a slot of a port brings (R265). -/
def Heat.relays (h : Heat) (port flow : Nat) : List (Nat × FlowEntry) :=
  h.flowList.filter fun ie => ie.2.role == 2 && ie.2.rport == port && ie.2.flow == flow

/-- A HEAT'S RELAY TAKES A FLIT of its flow (R265): it is kept under its number among those released on the port, counted from
the first that carries data; at most 1,024 are held for a port. A halt flit stops its entries (R354). -/
def State.relayFor (s : State) (port flow : Nat) (f : Flit) (h : Heat) : State :=
  match h.relays port flow with
  | [] => s
  | es =>
    let key := 16 * flow + port
    let n := Store.get 0 h.relayed key
    let counted (s : State) : State := s.modHeat h.hid fun h => { h with relayed := Store.set 0 h.relayed key (n + 1) }
    match f with
    | .halt => es.foldl (fun s ie => s.haltByFlit h.hid ie.1 port) s
    | .idle => if n = 0 then s else counted s
    | .bytes bs =>
      let s := counted s
      if (s.port port).relay.length ≥ 1024 then s
      else s.modPort port fun p =>
        { p with relay := p.relay ++ [{ hid := h.hid, flow := flow, n := n, at_ := s.now, bytes := bs }] }

/-- A SLOT IS RELEASED on a port (R35, R36, R261, R266): the active receive bank says whether it is a flow's, which its receive
and relay entries take, or carries an unscheduled message. A port that has not completed training carries nothing. -/
def State.releaseSlot (s : State) (port : Nat) (f : Flit) : State :=
  let p := s.port port
  if !p.trained then s
  else match slotFlow p.rxTable p.rxAct (slotIdx s.now) with
    | some flow =>
      let s := (s.receivers port flow).foldl (fun s x => s.receiveFlit port f x) s
      (s.heats.filter (·.receives)).foldl (fun s h => s.relayFor port flow f h) s
    | none => match f with
      | .bytes bs => s.releaseMessage port bs
      | _ => s

/-- FLIT_RELEASE (R36, R266, R343): a flit that arrives waits in the deskew buffer for its release cycle; then it is released, and
a slot for which nothing came holds an idle flit. -/
def execFlitRelease (s : State) : Host.Outcome State Fault Refusal :=
  match s.arg with
  | .flitArrival port release f =>
    if !(s.port port).trained ∨ release < s.now then .next s
    else .next ((s.modPort port fun p => { p with incoming := p.incoming ++ [(release, f)] }).pushRelease port release)
  | .flitRelease port =>
    let p := s.port port
    if p.lastRelease = some s.now then .next s
    else
      let f : Flit := ((p.incoming.find? fun x => x.1 == s.now).map (·.2)).getD .idle
      let s := s.modPort port fun p => { p with lastRelease := some s.now, incoming := p.incoming.filter fun x => decide (s.now < x.1) }
      .next ((s.releaseSlot port f).pushReleases port (s.now + 2))
  | _ => .fault .noData

/-- MESSAGE_RELEASE (R266-R269, R345): a flit of bytes released in the current slot; in a slot of the unscheduled class it is a
message. -/
def execMessageRelease (s : State) : Host.Outcome State Fault Refusal :=
  match s.arg with
  | .messageRelease port bytes => .next (s.releaseSlot port (.bytes bytes))
  | _ => .fault .noData

/-- A LANDING HAS PERFORMED (R266, R275): its barrier is credited, with the arrival when the flow is complete, and an
`xfer` counts its bytes. -/
def State.landed (s : State) (hid : Nat) (e : FlowEntry) (cursor : Nat) : State :=
  let s := if e.dest = 2 then match s.xferOf hid e with
      | some c =>
        let key := 4 * e.flow + e.role
        s.modCmd c.id fun c => { c with left := Store.set 0 c.left key (Store.get 0 c.left key + 256) }
      | none => s
    else s
  let last := e.arr && decide (cursor + 256 ≥ e.len)
  match s.team? ⟨hid, e.team⟩ with
  | some t =>
    if (e.cred || last) && e.role == 1 then
      s.barChange t.core (s.handleOf t.core e.bidx) 0 (if e.cred then 256 else 0) last.toNat true
        { flowBlame hid e.port 0 e.flow with core := t.core }
    else s
  | none => s

/-- Write a landing's bytes into a team's scratch, or find the breach of R333. -/
def State.landScratch (s : State) (hid : Nat) (e : FlowEntry) (o cursor : Nat) (bs : List Byte) : State :=
  match s.team? ⟨hid, e.team⟩ with
  | none => s
  | some t =>
    if s.landable t o 4 then
      ((s.writeScratch t.core (4096 * t.sbase + o) bs).modTeam ⟨hid, e.team⟩ fun t =>
        t.markScratch (4096 * t.sbase + o) bs.length).landed hid e cursor
    else s.detect (s.flowAccessBlame hid e 0x44 o)

/-- FLIT_LANDING (R266, R333). -/
def execFlitLanding (s : State) : Host.Outcome State Fault Refusal :=
  match s.arg with
  | .flitLanding hid i cursor bs =>
    match (s.heat? hid).bind fun h => h.flow? i with
    | some e => (match s.flowPlace hid e cursor with
      | .scratch o _ => .next (s.landScratch hid e o cursor bs)
      | _ => .next s)
    | none => .next s
  | _ => .fault .noData

/-- A landing in global memory at its stack cycle (R129, R266, R335). -/
def State.flowLand (s : State) (hid i cursor : Nat) (bs : List Byte) : State :=
  match (s.heat? hid).bind fun h => h.flow? i with
  | some e => (match s.flowPlace hid e cursor with
    | .global va =>
      let x := s.beatStack ⟨hid, e.team⟩ va true
      (match x.1 with
       | .inl b => x.2.detect (s.flowAccessBlame hid e b.1 b.2)
       | .inr pa => (x.2.writeHbm pa bs).landed hid e cursor)
    | _ => s)
  | none => s

/-- START A HEAT'S FLOWS of the roles that `pick` names, from a pod cycle on (R264-R266): a transmit or relay entry's sends, and
the releases of a receive entry's slots and of those that bring a relay entry's flow. -/
def State.startFlows (s : State) (hid c : Nat) (pick : Nat → Bool) : State :=
  match s.heat? hid with
  | none => s
  | some h => (h.flowList.filter fun ie => pick ie.2.role).foldl (fun s ie =>
      let e := ie.2
      let port := if e.role = 2 then e.rport else e.port
      let s := if e.role = 0 ∨ e.role = 2 then s.pushTransmit hid ie.1 e (h.flowBase e) c else s
      match h.nextRelease e port c with
      | some k => s.pushRelease port (2 * k)
      | none => s) s

/-! ## Frame markers (R34, R37, R337) -/

/-- FRAME_MARKER_SEND (R34, R337): a marker at slot 0 of every link frame, and the check of the one expected. -/
def execFrameMarkerSend (s : State) : Host.Outcome State Fault Refusal :=
  match s.arg with
  | .frameMarkerSend =>
    let s := (List.range 16).foldl (fun s p =>
      let x := s.port p
      if !x.trained then s
      else
        let due := s.now + 1120 - x.deskew
        s.push (due + 13) 48 (.frameMarkerMiss p due)) s
    .next (s.push (s.now + 8192) 71 .frameMarkerSend)
  | _ => .fault .noData

/-- FRAME_MARKER_ARRIVAL (R37): accepted within 12 c of its expected cycle. -/
def execFrameMarkerArrival (s : State) : Host.Outcome State Fault Refusal :=
  match s.arg with
  | .frameMarkerArrival p due =>
    .next (if s.now ≤ due + 12 ∧ due ≤ s.now + 12 then s.modPort p fun x => { x with markerSeen := some due, syncAt := some (s.now, due) } else s)
  | _ => .fault .noData

/-- Raise a cause in every resident heat that names a port in a flow (R346). -/
def State.raisePort (s : State) (p cause : Nat) : State :=
  s.heats.foldl (fun s h =>
    if h.status ≠ .saved ∧ h.record.flows.any (fun e => e.role != 3 && (e.port == p || (e.role == 2 && e.rport == p)))
    then s.detect (Detect.blank h.hid (externalRank p cause) cause 6) else s) s

/-- FRAME_MARKER_MISS (R337): no marker came within the guard. -/
def execFrameMarkerMiss (s : State) : Host.Outcome State Fault Refusal :=
  match s.arg with
  | .frameMarkerMiss p due =>
    let x := s.port p
    .next (if !x.trained || x.markerSeen == some due then s else s.raisePort p 0x8F)
  | _ => .fault .noData

/-! ## The best master clock algorithm (R17, R276) -/

/-- Lexicographic order of equally long lists. -/
def lexBefore : List Nat → List Nat → Bool
  | a :: r, b :: q => decide (a < b) || (a == b && lexBefore r q)
  | _, _ => false

/-- What the default algorithm compares, in its order: the grandmaster's priority1, class, accuracy, variance, priority2 and
identity, then steps removed and the sending clock. -/
def Announce.key (a : Announce) : List Nat :=
  [a.prio1, a.cls, a.accuracy, a.variance, a.prio2, a.identity, a.steps, a.sender]

/-- This package's own clock, as it would announce itself (R17, log 57). -/
def State.ownClock (s : State) : Announce :=
  { prio1 := s.ptp.prio1, cls := 248, accuracy := 0xFE, variance := 0xFFFF, prio2 := s.ptp.prio2
    identity := s.pkgNo.toNat, steps := 0, sender := s.pkgNo.toNat, path := [] }

/-- The Announce of a port that counts: the port is trained, and its path does not lead back here (PATH_TRACE). -/
def State.heard (s : State) (p : Nat) : Option Announce :=
  if (s.port p).trained then (s.port p).announce.filter fun a => !a.path.contains s.pkgNo.toNat else none

/-- The best of the clocks that the ports hear, with its port. -/
def State.bestHeard (s : State) : Option (Nat × Announce) :=
  (List.range 16).foldl (fun best p =>
    match s.heard p, best with
    | some a, some b => if lexBefore a.key b.2.key then some (p, a) else best
    | some a, none => some (p, a)
    | none, _ => best) none

/-- RUN THE BEST MASTER CLOCK ALGORITHM (R17): the port that hears a better clock than this package's own leads to the master;
with none, the package is grandmaster, and its own time is the regatta's. -/
def State.bestMaster (s : State) : State :=
  match s.bestHeard with
  | some (p, a) =>
    if lexBefore a.key s.ownClock.key then { s with ptp := { s.ptp with slavePort := some p, decided := true } }
    else { s with ptp := { s.ptp with slavePort := none, decided := true }, ptpLock := true, ready := { s.ready with ptp := true } }
  | none => { s with ptp := { s.ptp with slavePort := none, decided := true }, ptpLock := true, ready := { s.ready with ptp := true } }

/-! ## Training and bank switches (R37, R39, R261, R264, R346) -/

/-- LINK_TRAINED (R37, R261, R276, R303): a port whose flight time is at most 1,096 c carries traffic from now on, PTP's with
it: its Sync at the next frame marker, its peer delay request and an Announce at cycles that the device chooses (log 57). -/
def execLinkTrained (s : State) : Host.Outcome State Fault Refusal :=
  match s.arg with
  | .linkTrained p deskew flight =>
    if flight > 1096 ∨ p ≥ 16 then .next s
    else
      let s := s.modPort p fun x => { x with trained := true, deskew := deskew }
      let s := ({ s with ready := { s.ready with port := s.ready.port ||| (1#16 <<< p) } } : State).wakePort p
      let has (s : State) (e : Ev) : Bool := s.agenda.any fun d => d.ev == e
      let s := if has s (.sync p true 0) then s else s.push (roundUp 8192 (s.now + 1)) 72 (.sync p true 0)
      let d := s.choose s.now (s.now + 1400000)
      let s := if has s (.pdelayReqSend p) then s else d.2.push d.1 72 (.pdelayReqSend p)
      let a := s.choose s.now (s.now + 1400000)
      .next (if has s .announceSend then s else a.2.push a.1 72 .announceSend)
  | _ => .fault .noData

/-- LINK_TRAINING_LOST (R17, R346): what the port has heard of other clocks is forgotten. -/
def execLinkTrainingLost (s : State) : Host.Outcome State Fault Refusal :=
  match s.arg with
  | .linkTrainingLost p =>
    let s := s.modPort p fun x => { x with trained := false, announce := none }
    let s : State := { s with ready := { s.ready with port := s.ready.port &&& ~~~(1#16 <<< p) } }
    .next ((if s.ptp.decided then s.bestMaster else s).raisePort p 0xE2)
  | _ => .fault .noData

/-- The bank-switch control of a port as it reads (R39, Table 4): ARM reads 0. -/
def Port.control (p : Port) : BitVec 64 :=
  BitVec.ofNat 64 (8192 * p.swcyc + (if p.pend then 4 else 0) + p.txAct.toNat)

/-- BANK_SWITCH_ARM (R39): a switch of both directions is scheduled, unless one is pending. One whose frame has already begun
takes effect at once, in the cycle of the write, and its receive side 1,120 c later (log 101). -/
def execBankSwitchArm (s : State) : Host.Outcome State Fault Refusal :=
  match s.arg with
  | .bankSwitchArm p swcyc =>
    if (s.port p).pend then .next s
    else
      let s := s.modPort p fun x => { x with swcyc := swcyc, pend := true, rxPend := some swcyc }
      let c := max s.now (s.named (8192 * swcyc))
      .next ((s.pushSub c 5 p (.bankSwitchTx p swcyc)).pushSub (c + 1120) 5 p (.bankSwitchRx p swcyc))
  | _ => .fault .noData

/-- BANK_SWITCH_CANCEL (R39): a write of ARM = 0 writes SWCYC, and takes back a switch that is still pending. -/
def execBankSwitchCancel (s : State) : Host.Outcome State Fault Refusal :=
  match s.arg with
  | .bankSwitchCancel p swcyc =>
    let x := s.port p
    if x.pend then
      .next ((s.modPort p fun x => { x with pend := false, rxPend := none, swcyc := swcyc }).cancel fun e => match e with
        | .bankSwitchTx q c => q == p && c == x.swcyc
        | .bankSwitchRx q c => q == p && c == x.swcyc
        | _ => false)
    else .next (s.modPort p fun x => { x with swcyc := swcyc })
  | _ => .fault .noData

/-- Whether the bank in use still carries the slots of a completed heat's entry, and no resident heat's entry owns them (R264). -/
def State.goneStays (s : State) (p : Port) (port : Nat) (g : GoneFlow) : Bool :=
  g.e.port != port || ((List.range 4096).any fun i => g.e.owns i && slotFlow p.txTable p.txAct i == some g.e.flow) &&
    !s.heats.any fun h => h.record.flows.any fun e =>
      (e.role == 0 || e.role == 2) && e.port == port && e.flow == g.e.flow &&
        (List.range 4096).any fun i => e.owns i && g.e.owns i

/-- BANK_SWITCH_TX (R39). -/
def execBankSwitchTx (s : State) : Host.Outcome State Fault Refusal :=
  match s.arg with
  | .bankSwitchTx p _ =>
    let s := s.modPort p fun x => { x with txAct := !x.txAct, pend := false }
    .next (({ s with gone := s.gone.filter fun g => s.goneStays (s.port p) p g } : State).wakePort p)
  | _ => .fault .noData

/-- BANK_SWITCH_RX (R39): 1,120 c after the transmit side, flits already sent having been received under the old bank. -/
def execBankSwitchRx (s : State) : Host.Outcome State Fault Refusal :=
  match s.arg with
  | .bankSwitchRx p c =>
    .next (s.modPort p fun x => { x with rxAct := !x.rxAct, rxPend := if x.rxPend = some c then none else x.rxPend })
  | _ => .fault .noData

end Sys2Proof.Machine
end

