-- ==== Sys2Proof/Machine/Collective.lean ====
section
/-! DEFINITION. Collective transfers (R252-R256, R273-R275, R331, R337): `xfer`, the reading and checking of its shape
record, folds, local moves, the f32 image of add.bf16 and DONE; and the one step that gives every access its stack
cycle (R32). -/
namespace Sys2Proof.Machine

/-! ## Issue (R252) -/

/-- Pieces that one row of a box makes as the source of a copy (R249). -/
def sourceBeats (t : Tensor) : Nat :=
  (List.range (countOf (t.box.dims.drop 1))).foldl (fun n k => n + (rowSide (.entry t) t.box [] 0 k).count) 0

/-- The source and destination entries of an `xfer`. -/
def UCtx.xferSides (c : UCtx) (w : UE) : Side × Side :=
  let x := c.kn (w.d.toNat + 2)
  let one (code : Nat) : Side := if code < 64 then .entry (Store.get Tensor.init c.team.t code) else .none code
  (one (bits x 6 0), one (bits x 14 8))

/-- The entry of a side, for a side that is one. -/
def sideEntry (x : Side) : Tensor :=
  match x with
  | .entry t => t
  | _ => Tensor.init

/-- The selectors of an `xfer` (R252). -/
def UCtx.xferCodes (c : UCtx) (w : UE) : List Nat :=
  let x := c.kn (w.d.toNat + 2)
  [bits x 6 0, bits x 14 8]

/-- What one side of an `xfer` breaks by itself (R252, R331). -/
def xferSide (x : Side) : List (Nat × Nat × Nat) :=
  match x with
  | .none code => [(0xA7, 0, code)]
  | x => if unusable x then [(0xA5, 0, 0)] else []

/-- Every breach of an `xfer` at its issue (R252, R331). -/
def UCtx.xferExtra (c : UCtx) (w : UE) : List (Nat × Nat × Nat) :=
  let x := c.kn (w.d.toNat + 2)
  let e := c.xferSides w
  (if x ≥ 2 ^ 15 ∨ x.testBit 7 then [(0x03, 0, 0)] else []) ++ c.alignExtra w 128 ++ xferSide e.1 ++ xferSide e.2

/-- The plan of an `xfer` whose source can be read (R252, Table 12): quanta for its source's read beats, from t + 704. -/
def UCtx.xferPlan (c : UCtx) (w : UE) : EngPlan :=
  { eng := copyEngine w, n := (sourceBeats (sideEntry (c.xferSides w).1) + 63) / 64, earliest := c.t + 704, finish := fun s => s }

/-- ISSUE AN xfer: its quanta, and the read of its shape record at t + 320 or t + 368. It completes at the record's DONE. -/
def UCtx.issueXfer (c : UCtx) (s : State) (w : UE) : State :=
  let id := s.nextOp
  let va := c.recordVa w
  let far := c.far va
  let st := c.t + 320 + (if far then 48 else 0)
  let e := c.xferSides w
  let s := c.issueEngine (c.commit s (.xfer w) 704) (.xfer w) w 0x57 (c.xferPlan w)
    (.xfer (sideEntry e.1) (sideEntry e.2) va) (w.flags.getLsbD 9) (c.k (w.d.toNat + 3))
  let s := s.cancel fun e => e == .engineCompletion id
  let o : GlobalOp :=
    { id := id + 1, hid := c.ref.hid, team := c.ref.team, gang := 0, core := c.team.core, issue := c.t, kind := .xferRec
      sz := 128, sx := false, aop := 0, order := false
      lanes := [{ lane := 0, va := va, pa := 0, kind := 0, far := far, s := st, p := st, data := 0, cmp := 0, result := 0
                  ok := false, done := false, sq := 0 }]
      dests := [], zeros := [], latch := none, flag := none, blame := c.blame 0, hot := false, n := id, bar := none
      addr := va, bytes := [] }
  let s : State := { s with nextOp := id + 2, gops := s.gops ++ [o] }
  (s.push (c.base + st) 15 (.stackAccess (.record (id + 1)))).push (c.base + c.t + 648 + (if far then 64 else 0)) 45
    (.xferRecordRead id)

/-- The breaches of `xfer`: its descriptor's, an uncorrectable error in its entries, and, where its source gives it work, a
search for its quanta that finds none (R331, R349). -/
def UCtx.xferOwn (c : UCtx) (s : State) (w : UE) : List (Nat × Nat × Nat) :=
  c.xferExtra w ++ c.selectedExtra s (c.xferCodes w) ++
    (if xferSide (c.xferSides w).1 = [] then c.startBreach (c.xferPlan w) else [])

/-- xfer (R252). -/
def execXfer (w : UE) (s : State) : Host.Outcome State Fault Refusal :=
  checkUni (.xfer w) s (fun c => c.xferOwn s w)
    fun c => c.issueXfer (s.corrected 2 (c.selected (c.xferCodes w)).contains) w

/-! ## The shape record (R253, R254, R331, R340) -/

/-- The stack cycle of a shape record's read: a breach fails the command. -/
def State.xferStack (s : State) (o : GlobalOp) : State :=
  match s.cmd? o.n with
  | none => s
  | some c =>
    let x := s.beatStack ⟨o.hid, o.team⟩ o.addr false
    match x.1 with
    | .inl b => (x.2.cancel fun e => e == .xferRecordRead c.id).failCmd c 0 b.1 b.2 (stackOf o.addr) []
    | .inr _ => x.2.push s.now 30 (.globalPerform o.id 1)

/-- A place in the list as a mixed-radix number over the grid's axes, axis 0 fastest (R254). -/
def gridCoords : List Nat → Nat → List Nat
  | [], _ => []
  | g :: r, p => p % g :: gridCoords r (p / g)

/-- The mixed-radix number of coordinates over some of the axes, in ascending order, and the product of their extents (R254). -/
def gridRank (grid coords axes : List Nat) : Nat × Nat :=
  axes.foldl (fun x a => (x.1 + x.2 * coords.getD a 0, x.2 * grid.getD a 1)) (0, 1)

/-- Where a package stands in a record: its coordinates, rank and partition (R254). -/
def ShapeRec.at_ (r : ShapeRec) (place : Nat) : ShapeRec :=
  let cs := gridCoords r.grid place
  let x := gridRank r.grid cs ((List.range 4).filter fun a => r.pax.testBit a)
  let q := gridRank r.grid cs ((List.range 4).filter fun a => r.pax.testBit a && !r.repl.testBit a)
  { r with place := place, coords := cs, rank := x.1, size := x.2, part := q.1, parts := q.2 }

/-- The group of the package: the places that agree with it on each axis outside PAX (R254). -/
def ShapeRec.group (r : ShapeRec) : List Nat :=
  (List.range r.npkg).filter fun p =>
    (List.range 4).all fun a => r.pax.testBit a || (gridCoords r.grid p).getD a 0 == r.coords.getD a 0

/-- Part q of n items over dp parts (R254): how many items it holds, and the first of them. -/
def partOf (n dp q : Nat) : Nat × Nat := (n / dp + (if q < n % dp then 1 else 0), q * (n / dp) + min q (n % dp))

/-- The fields of a shape record (R253, Table 10). -/
def shapeOf (bs : List Byte) : ShapeRec :=
  let q (j : Nat) : Nat := qword bs j
  { kind := bits (q 0) 39 36, rop := bits (q 0) 35 32, pax := bits (q 0) 31 28, repl := bits (q 0) 27 24
    splitdim := bits (q 0) 23 20, grid := [bits (q 2) 15 0, bits (q 2) 31 16, bits (q 2) 47 32, bits (q 2) 63 48]
    lgen := BitVec.ofNat 32 (bits (q 3) 63 32), nitem := bits (q 3) 23 0, done := bits (q 4) 63 32
    nflow := bits (q 4) 23 12, flowbase := bits (q 4) 11 0, npkg := bits (q 6) 12 0, place := 0
    coords := [], rank := 0, size := 1, part := 0, parts := 1 }

/-- The format that a ROP names (R255); others take any. -/
def ropFmt (rop : Nat) : Option Nat :=
  if 1 ≤ rop ∧ rop ≤ 3 then some 8 else if rop = 4 then some 2 else if rop = 5 then some 10 else none

/-- The causes that a shape record breaks by itself (R253, R331, R340). -/
def shapeBreaches (bs : List Byte) (src dst : Tensor) : List Nat :=
  let q (j : Nat) : Nat := qword bs j
  let r := shapeOf bs
  breach (!sealOk bs 12) 0xA0 ++
  breach (bits (q 0) 63 48 != 0xC011 || bits (q 0) 47 40 != 1 || bits (q 0) 19 0 != 0 || bits (q 3) 31 24 != 0 ||
    bits (q 4) 31 24 != 0 || bits (q 5) 63 56 != 0 || bits (q 6) 63 13 != 0 || (List.range 9).any fun j => q (7 + j) != 0) 0xA1 ++
  breach (decide (r.kind ≥ 4) || (if r.kind = 1 then decide (r.rop < 1 ∨ r.rop > 5) else r.rop != 0) ||
    (r.grid.any fun g => decide (g < 1 ∨ g > 4096)) || r.grid.foldl (· * ·) 1 != r.npkg || decide (r.npkg < 1 ∨ r.npkg > 4096) ||
    r.repl &&& r.pax != r.repl || r.nitem == 0 || r.nflow == 0 || decide (r.splitdim ≥ src.rank) ||
    (match ropFmt r.rop with
     | some f => src.fmt != f || dst.fmt != f
     | none => false)) 0xA9

/-- The place of this package in the record's list (R254), read through the team's windows. -/
def State.packagePlace (s : State) (t : Team) (list npkg : Nat) : Option Nat :=
  (List.range npkg).find? fun i => match s.fetchWord t (wrapN 56 (list + 4 * i : Nat)) with
    | some w => w.toNat == s.pkgNo.toNat
    | none => false

/-- The entries of a heat that serve a shape record (R273). -/
def Heat.collEntries (h : Heat) (r : ShapeRec) : List (Nat × FlowEntry) :=
  ((List.range h.record.flows.length).zip h.record.flows).filter fun ie =>
    ie.2.dest == 2 && decide (r.flowbase ≤ ie.2.flow ∧ ie.2.flow < r.flowbase + r.nflow)

/-- XFER_RECORD_READ (R252, R331, R340): the record is checked and captured; DONE and the local moves are put on the agenda. -/
def execXferRecordRead (s : State) : Host.Outcome State Fault Refusal :=
  match s.arg with
  | .xferRecordRead id =>
    match s.cmd? id, s.gops.find? (fun o => o.kind == .xferRec && o.n == id) with
    | some c, some o =>
      match c.body, s.heat? c.hid, s.team? ⟨c.hid, c.team⟩ with
      | .xfer src dst _, some h, some t =>
        let place := s.packagePlace t (bits (qword o.bytes 5) 55 0) (shapeOf o.bytes).npkg
        match lowest (shapeBreaches o.bytes src dst ++ breach place.isNone 0xA9) with
        | some cause => .next (s.failCmd c 0 cause o.addr 0 [])
        | none =>
          let r := (shapeOf o.bytes).at_ (place.getD 0)
          let base := s.cmdBase c
          let key := 4 * c.cluster + c.eng
          let s := (s.dropGop o.id).modCmd id fun c => { c with shape := some r, completion := r.done }
          let s := s.modHeat c.hid fun h =>
            { h with engDone := Store.set 0 h.engDone key (max (Store.get 0 h.engDone key) (r.done + t.shift)) }
          let s := match c.flag with
            | some f => s.modCox ⟨c.hid, c.team⟩ fun x =>
                { x with flagMin := Store.set 0 x.flagMin f (max (Store.get 0 x.flagMin f) (base + r.done)) }
            | none => s
          let s := s.push (max s.now (base + r.done)) 45 (.xferDone id)
          .next ((h.collEntries r).foldl (fun s ie =>
            if ie.2.role = 3 ∧ ie.2.len > 0 then s.push (max s.now (base + ie.2.firstf)) 60 (.localMove c.hid ie.1 0) else s) s)
      | _, _, _ => .next s
    | _, _ => .next s
  | _ => .fault .noData

/-! ## Folds (R255, R273, R274) -/

/-- One step of a reduction on two elements (R255). -/
def foldElem (rop a b : Nat) : Nat :=
  match rop with
  | 2 => f32.minMax true a b
  | 3 => f32.minMax false a b
  | 4 => (a + b) % 2 ^ 32
  | _ => fpOp f32 0 .rn a b 0

/-- The elements of a flit. -/
def elemsOf (n : Nat) (bs : List Byte) : List Nat :=
  (List.range (bs.length / n)).map fun i => ofLeBytes ((bs.drop (n * i)).take n)

/-- Fold a flit's bytes into DST's bytes (R255). -/
def foldBytes (rop : Nat) (old new : List Byte) : List Byte :=
  (((elemsOf 4 old).zip (elemsOf 4 new)).map fun e => leBytes 4 (foldElem rop e.1 e.2)).flatten

/-- Fold a flit of bf16 into a channel's f32 image (R274), whose element i stands for byte 2i of DST: an element that no
fold has reached begins as DST holds it. `buf` marks the elements that the image holds. -/
def imageFold (c : EngCmd) (off : Nat) (old new : List Byte) : EngCmd :=
  (((List.range (new.length / 2)).zip ((elemsOf 2 old).zip (elemsOf 2 new)))).foldl (fun c e =>
    let i := off / 2 + e.1
    let acc := if Store.get 0 c.buf i = 1 then (Store.get 0 c.image i).toNat else f32.rne (bf16.decode e.2.1)
    { c with
      image := Store.set 0 c.image i (BitVec.ofNat 32 (fpOp f32 0 .rn acc (f32.rne (bf16.decode e.2.2)) 0))
      buf := Store.set 0 c.buf i 1 }) c

/-- The 256 bytes of DST, or of SRC for a read alone, at a place now; or the breach. Global memory is touched in this cycle as its
stack cycle (R32, R54, R129). -/
def State.placeBytes (s : State) (hid : Nat) (e : FlowEntry) (p : FlowPlace) (write : Bool) : ((Nat × Nat) ⊕ List Byte) × State :=
  match p, s.team? ⟨hid, e.team⟩ with
  | .scratch o code, some t =>
    let offs := (List.range 256).map (o + ·)
    let s := s.bytesCorrected t.core t.sbase offs
    let closed := decide (s.now < Store.get 0 (s.core t.core).closed (t.sbase + o / 4096))
    if !s.landable t o code then (.inl (if code = 4 then 0x44 else ownerCause false closed, o), s)
    else if s.bytesLost t.core t.sbase offs then (.inl (0xF0, o), s)
    else (.inr (s.readScratch t.core (4096 * t.sbase + o) 256), s)
  | .global va, some _ =>
    let x := s.beatStack ⟨hid, e.team⟩ va write
    (match x.1 with
     | .inl b => (.inl b, x.2)
     | .inr pa => (.inr (x.2.readHbm pa 256), x.2))
  | _, _ => (.inl (0x44, 0), s)

/-- Write bytes at a place of a team. -/
def State.putPlace (s : State) (hid : Nat) (e : FlowEntry) (p : FlowPlace) (bs : List Byte) : State :=
  match s.team? ⟨hid, e.team⟩, p with
  | some t, .scratch o _ =>
    (s.writeScratch t.core (4096 * t.sbase + o) bs).modTeam ⟨hid, e.team⟩ fun t => t.markScratch (4096 * t.sbase + o) bs.length
  | some t, .global va => (match translate t.wins va true with
    | .ok pa _ _ => s.writeHbm pa bs
    | .fail _ => s)
  | _, _ => s

/-- Whether every fold entry of a collective has reached its LEN (R274). -/
def foldsDone (c : EngCmd) (es : List (Nat × FlowEntry)) : Bool :=
  es.all fun ie => ie.2.op != 1 || ie.2.role == 0 || decide (Store.get 0 c.left (4 * ie.2.flow + ie.2.role) ≥ ie.2.len)

/-- The offset of a landing in DST. -/
def dstOffset (e : FlowEntry) (cursor : Nat) : Nat := (if e.role = 3 then 256 * e.doff else e.base) + cursor

/-- Put an image write on the agenda (R274). -/
def State.pushImage (s : State) (c : EngCmd) (cycle off : Nat) : State :=
  s.push cycle (s.xferRank c cycle) (.bf16ImageWrite c.id off)

/-- COLLECTIVE_FOLD (R255, R273, R274). -/
def execCollectiveFold (s : State) : Host.Outcome State Fault Refusal :=
  match s.arg with
  | .collectiveFold hid i cursor bs =>
    match s.heat? hid, (s.heat? hid).bind fun h => h.flow? i with
    | some h, some e =>
      match s.xferOf hid e with
      | none => .next s
      | some c =>
        let place := s.flowPlace hid e cursor
        let x := s.placeBytes hid e place true
        let s := x.2
        match x.1, c.shape with
        | .inl b, _ => .next (s.detect (s.flowAccessBlame hid e b.1 b.2))
        | .inr old, some r =>
          let s : State := if r.rop = 5 then s.modCmd c.id fun c => imageFold c (dstOffset e cursor) old bs
            else s.putPlace hid e place (foldBytes r.rop old bs)
          let s := s.landed hid e cursor
          let all := match s.cmd? c.id with
            | some c => foldsDone c (h.collEntries r)
            | none => false
          .next (if r.rop = 5 && all then s.pushImage c (s.now + 1) 0 else s)
        | .inr _, none => .next s
    | _, _ => .next s
  | _ => .fault .noData

/-- An entry that stands for a place of DST itself. -/
def dstEntryOf (c : EngCmd) : FlowEntry :=
  { flow := 0, port := 0, role := 1, rport := 0, dest := 2, team := c.team, cred := false, arr := false, bidx := 0, op := 0
    base := 0, len := 0, firstf := 0, sfirst := 0, scnt := 1, doff := 0 }

/-- The bf16 bytes of 256 bytes of DST, those elements replaced that the image holds. -/
def imageBytes (c : EngCmd) (off : Nat) (old : List Byte) : List Byte :=
  (((List.range (old.length / 2)).zip (elemsOf 2 old)).map fun e =>
    let i := off / 2 + e.1
    leBytes 2 (if Store.get 0 c.buf i = 1 then bf16.rne (f32.decode (Store.get 0 c.image i).toNat) else e.2)).flatten

/-- BF16_IMAGE_WRITE (R274): 256 B of DST a cycle, rounded by rne_bf16. -/
def execBf16ImageWrite (s : State) : Host.Outcome State Fault Refusal :=
  match s.arg with
  | .bf16ImageWrite id off =>
    match s.cmd? id with
    | none => .next s
    | some c =>
      match c.body with
      | .xfer _ dst _ =>
        let e := dstEntryOf c
        let place := dst.placeAt off 4
        let x := s.placeBytes c.hid e place true
        let s := x.2
        match x.1 with
        | .inl b => .next (s.failCmd c 0 b.1 b.2 0 [])
        | .inr old =>
          let n := min 256 (dst.box.units * dst.unit - off)
          let s := s.putPlace c.hid e place ((imageBytes c off old).take n)
          .next (if off + 256 < dst.box.units * dst.unit then s.pushImage c (s.now + 1) (off + 256) else s)
      | _ => .next s
  | _ => .fault .noData

/-! ## Local moves and DONE (R256, R273, R275, R337) -/

/-- LOCAL_MOVE (R273): 256 B from SRC, taken like a flit released now; the next move follows 2 c later. -/
def execLocalMove (s : State) : Host.Outcome State Fault Refusal :=
  match s.arg with
  | .localMove hid i k =>
    match (s.heat? hid).bind fun h => h.flow? i with
    | none => .next s
    | some e =>
      match s.xferOf hid e with
      | none => .next s
      | some c =>
        match c.body, s.team? ⟨hid, e.team⟩ with
        | .xfer src _ _, some t =>
          let x := s.placeBytes hid e (src.placeAt (e.base + 256 * k) 1) false
          let s := x.2
          match x.1 with
          | .inl b => .next (s.failCmd c 0 b.1 b.2 0 [])
          | .inr bs =>
            let cursor := 256 * k
            let near := s.now + 8
            let s := if e.op = 1 then s.pushSub (s.now + 24) (s.xferRank c (s.now + 24)) 16 (.collectiveFold hid i cursor bs)
              else match s.flowPlace hid e cursor with
                | .scratch .. => s.pushSub near (s.xferRank c near) 16 (.flitLanding hid i cursor bs)
                | .global va => s.pushSub (s.now + crossing (dieOfCore t.core) (dieOfStack (stackOf va)) 320 368) 22 16
                    (.stackAccess (.flowLand hid i cursor bs))
                | .nowhere => s
            .next (if cursor + 256 < e.len then s.push (s.now + 2) 60 (.localMove hid i (k + 1)) else s)
        | _, _ => .next s
  | _ => .fault .noData

/-- XFER_DONE (R256, R275, R337): every receive and local entry must have reached LEN; then the DST bytes are credited and
the command completes. -/
def execXferDone (s : State) : Host.Outcome State Fault Refusal :=
  match s.arg with
  | .xferDone id =>
    match s.cmd? id with
    | none => .next s
    | some c =>
      match c.shape, s.heat? c.hid with
      | some r, some h =>
        let short := (h.collEntries r).any fun ie =>
          (ie.2.role == 1 || ie.2.role == 3) && decide (Store.get 0 c.left (4 * ie.2.flow + ie.2.role) < ie.2.len)
        if short then .next (s.failCmd c (2 ^ 200) 0x91 0 0 [])
        else
          let s := if c.cr then s.barChange c.core c.crh 0 (destBytes c.body) 0 true c.blame else s
          let s := s.modCmd id fun x => { x with done := true }
          .next (finishReady (s.cmds.length + 1) s c.cluster c.eng)
      | _, _ => .next s
  | _ => .fault .noData

/-- The cycle until which an `xfer` in flight holds back a change of the package's layout generation (R256): DONE, when its
record names the present generation; while its record is still being read, the cycle of that. -/
def State.pinnedBy (s : State) (c : EngCmd) : Option Nat :=
  match c.body with
  | .xfer .. =>
    if c.done ∨ c.failed.isSome then none
    else match c.shape with
      | some r => if r.lgen = s.layoutGen then some (s.cmdBase c + r.done) else none
      | none => (s.agenda.find? fun d => d.ev == .xferRecordRead c.id).map (·.at_)
  | _ => none

/-- LAYOUT_GENERATION_CHANGE (R256): a re-sharding waits for every `xfer` that pins the generation it changes. -/
def execLayoutGenerationChange (s : State) : Host.Outcome State Fault Refusal :=
  match s.arg with
  | .layoutGenerationChange gen =>
    match (s.cmds.filterMap s.pinnedBy).foldl (fun m c => leastSet (some c) m) none with
    | some c => .next (s.push (max c (s.now + 1)) 46 (.layoutGenerationChange gen))
    | none => .next { s with layoutGen := gen }
  | _ => .fault .noData

/-! ## The stack cycle of every access (R32) -/

/-- STACK_ACCESS (R32): an access occupies its stack in its stack cycle. -/
def execStackAccess (s : State) : Host.Outcome State Fault Refusal :=
  match s.arg with
  | .stackAccess (.lanes op mask first) => .next (s.stackLanes op mask first)
  | .stackAccess (.beatRead c b) => .next (s.beatRead c b)
  | .stackAccess (.beatWrite c b q _) => .next (s.beatWrite c b q)
  | .stackAccess (.record op) => (match s.gop? op with
    | some o => .next (if o.kind = .xferRec then s.xferStack o else s.stackRecord op)
    | none => .next s)
  | .stackAccess (.flowRead h e k) => .next (s.flowRead h e k)
  | .stackAccess (.flowLand h e c bs) => .next (s.flowLand h e c bs)
  | _ => .fault .noData

/-- An unassigned opcode (R330): an issue fault of the stream that reaches it. -/
def execUnassignedOpcode (w : BitVec 32) (s : State) : Host.Outcome State Fault Refusal :=
  match s.cur with
  | .cox _ => checkUni (.unassignedOpcode w) s (fun _ => []) fun c => c.issueFault s 0x01 0 0
  | _ => checkLane (.unassignedOpcode w) { d := 0, a := 0, b := 0, hold := 0, tail := none } s (fun _ => []) fun c =>
      c.issueFault s 0x01 none 0 0

end Sys2Proof.Machine
end

