-- ==== Sys2Proof/Machine/Issue.lean ====
section
/-! DEFINITION. What happens next: the issue slots of gangs and coxes (R21-R24, R29, R62), fetching a clause (R133-R135),
the agenda's next step, and placing one instruction where the machine fetches (log 12). -/
namespace Sys2Proof.Machine

/-- An issue slot: its pod cycle, its place among the streams of that cycle (coxes of a core before its gangs), the
stream, the address of the next header when the stream stands before one, and whether it came there by a branch. -/
structure Slot where
  cycle : Nat
  key : Nat
  who : Issuer
deriving DecidableEq, Repr

/-- GAP of the clause a stream stands before (R22): read from its header; 0 when the header cannot be read. -/
def State.gapAt (s : State) (t : Team) (clause : Option Clause) (pc : Nat) : Nat :=
  match clause with
  | some _ => 0
  | none => match s.fetchWord t pc with
    | some h => (headerOf h).gap
    | none => 0

/-- The first own slot at which a group may issue (R22, R29), in heat cycles; none while it waits or is stopped. After a
halt it is the slot it would have had, or the first own slot from its stop point (R352, log 93). -/
def State.groupSlot (s : State) (h : Heat) (t : Team) (gi : Nat) (gr : Group) : Option Nat :=
  let own (c : Nat) : Nat := alignSlot h.rho (h.position t gi) c
  let slot : Nat := own gr.ready + h.rho * s.gapAt t gr.clause gr.pc
  match gr.wait, gr.stopped, gr.resume with
  | .none, none, none => some slot
  | .none, none, some (c, false) => some (max slot (own c))
  | .none, none, some (c, true) => some (own (max c gr.ready))
  | _, _, _ => none

/-- The least number of a list. -/
def leastOf : List Nat → Option Nat
  | [] => none
  | x :: r => some (r.foldl min x)

/-- The group that a slot serves (R29): of those that may issue, the next in ascending order of lowest quad after the
one served last. -/
def nextGroup (turn : Nat) (gs : List Group) : Option Group :=
  let low (g : Group) : Nat := (lowestBit g.quads).getD 8
  let pick (p : Group → Bool) : Option Group :=
    gs.foldl (fun acc g => if p g then (match acc with
      | some a => if low g < low a then some g else some a
      | none => some g) else acc) none
  match pick (fun g => decide (low g > turn)) with
  | some g => some g
  | none => pick (fun _ => true)

/-- The next issue slot of a gang: heat cycle and group. -/
def State.gangSlot (s : State) (h : Heat) (t : Team) (gi : Nat) (g : Gang) : Option (Nat × Group) :=
  if g.retired then none
  else
    let cands := g.groups.filterMap fun gr => (s.groupSlot h t gi gr).map fun x => (x, gr)
    match leastOf (cands.map (·.1)) with
    | none => none
    | some m =>
      let after := match g.lastSlot with
        | some l => alignSlot h.rho (h.position t gi) (l + 1)
        | none => 0
      let slot := max (max m after) (alignSlot h.rho (h.position t gi) (s.now - h.base t))
      (nextGroup g.turn ((cands.filter fun c => decide (c.1 ≤ slot)).map (·.2))).map fun gr => (slot, gr)

/-- The next issue slot of a cox (R24), in heat cycles. -/
def State.coxSlot (s : State) (h : Heat) (t : Team) (c : Cox) : Option Nat :=
  if c.retired || c.stopped.isSome then none
  else match c.wait with
    | .none =>
      let first : Nat := match c.resume with
        | none => c.ready + s.gapAt t c.clause c.pc
        | some (x, false) => max (c.ready + s.gapAt t c.clause c.pc) x
        | some (x, true) => max c.ready x
      some (max first (s.now - h.base t))
    | _ => none

/-- The slots of one team. -/
def State.teamSlots (s : State) (h : Heat) (ti : Nat) (t : Team) : List Slot :=
  let cox : List Slot := match s.coxSlot h t t.cox with
    | some x =>
      if (if h.status = .handler then t.cox.handler.isSome else h.teamIssuesAt t x)
      then [{ cycle := h.base t + x, key := 64 * t.core + t.tsel, who := .cox ⟨h.hid, ti⟩ }] else []
    | none => []
  let gangs : List Slot := ((List.range t.gangs.length).zip t.gangs).filterMap fun ig =>
    match s.gangSlot h t ig.1 ig.2 with
    | some (x, gr) =>
      if h.teamIssuesAt t x then
        some { cycle := h.base t + x, key := 64 * t.core + 2 + h.position t ig.1,
               who := .gang ⟨h.hid, ti, ig.1⟩ gr.quads }
      else none
    | none => none
  cox ++ gangs

/-- Every next slot of every resident stream. -/
def State.slots (s : State) : List Slot :=
  (s.heats.map fun h =>
    if h.status = .running ∨ h.status = .closing ∨ h.status = .handler
    then (((List.range h.teams.length).zip h.teams).map fun it => s.teamSlots h it.1 it.2).flatten
    else []).flatten

/-- The earlier of two slots. -/
def Slot.first (a b : Slot) : Slot :=
  if a.cycle < b.cycle ∨ (a.cycle = b.cycle ∧ a.key ≤ b.key) then a else b

/-- The earliest slot of a list. -/
def firstSlot : List Slot → Option Slot
  | [] => none
  | x :: r => some (r.foldl Slot.first x)

/-- The clause at an address as fetched now (R133-R135, R334; log 21): the first of header and words that cannot be read is
`missing`. -/
def State.fetchClause (s : State) (t : Team) (pc : Nat) (branched : Bool) : Clause :=
  let hd := s.fetchWord t pc
  let h := headerOf (hd.getD 0)
  let ws := (List.range (h.nm1 + 1)).map fun i => s.fetchWord t (pc + 4 + 4 * i)
  { addr := pc, hdr := hd.getD 0
    words := if hd.isNone then [0] else ws.map fun w => w.getD 0
    missing := (hd :: ws).findIdx? (·.isNone)
    branched := branched, idx := 0, nth := 0, nlong := 0, held := [], long1 := 0 }

/-- The instruction at a clause's place. A tail that lies outside the clause is none of the instruction's words: its fields
name nothing, as in the default tail (R137, R330). -/
def Clause.instr (cl : Clause) : Instr := parse (cl.words.getD cl.idx 0) (cl.words.getD (cl.idx + 1) defaultTail)

/-- THE FETCH: the instruction that a stream issues in the current cycle, and the state in which it issues: `cur` names
the stream, and its clause is fetched if it stood before a header. -/
def State.fetch (s : State) (who : Issuer) : Option (Instr × State) :=
  match who with
  | .none => none
  | .cox r =>
    match s.team? r with
    | none => none
    | some t =>
      let cl := match t.cox.clause with
        | some c => c
        | none => s.fetchClause t t.cox.pc t.cox.branched
      some (cl.instr, { s.modCox r (fun c => { c with clause := some cl }) with cur := who })
  | .gang r q =>
    match s.team? ⟨r.hid, r.team⟩, s.gang? r with
    | some t, some g =>
      match g.groups.find? (fun x => x.quads == q) with
      | none => none
      | some gr =>
        let cl := match gr.clause with
          | some c => c
          | none => s.fetchClause t gr.pc gr.branched
        some (cl.instr, { s.modGang r (fun g => g.modGroup q fun x => { x with clause := some cl }) with cur := who })
    | _, _ => none

/-- Whether the agenda's first step comes before a slot: earlier, or in the same cycle with a rank below that of issue (log 12). -/
def dueFirst (d : Due) (x : Slot) : Bool := decide (d.at_ < x.cycle) || (d.at_ == x.cycle && decide (d.rank < dueRank 50 0))

/-- The cycle of what comes next. -/
def State.nextCycle (s : State) : Option Nat :=
  match s.agenda, firstSlot s.slots with
  | [], none => none
  | d :: _, none => some d.at_
  | [], some x => some x.cycle
  | d :: _, some x => some (min d.at_ x.cycle)

/-- Take the agenda's first step: the instruction it is, and the state in which it runs. -/
def State.takeDue (s : State) (d : Due) (rest : List Due) : Option (Instr × State) :=
  d.ev.instr.map fun i => (i, { s with now := max s.now d.at_, agenda := rest, arg := d.ev, cur := .none })

/-- Take an issue slot. -/
def State.takeSlot (s : State) (x : Slot) : Option (Instr × State) := ({ s with now := x.cycle } : State).fetch x.who

/-- What comes next in a state whose current cycle needs no end. -/
def State.takeNext (s : State) : Option (Instr × State) :=
  match s.agenda, firstSlot s.slots with
  | [], none => none
  | d :: rest, none => s.takeDue d rest
  | [], some x => s.takeSlot x
  | d :: rest, some x => if dueFirst d x then s.takeDue d rest else s.takeSlot x

/-- Whether the current cycle ends before what comes next and has changes to settle (R83, R319). -/
def State.cycleEnds (s : State) : Bool :=
  (!s.barPend.isEmpty || !s.detects.isEmpty) &&
    (match s.nextCycle with
     | some c => decide (s.now < c)
     | none => true)

/-- WHAT HAPPENS NEXT: the instruction or machine step, and the state in which it runs. The end of the current cycle is
settled first when the next thing lies in a later cycle. -/
def State.upNext (s : State) : Option (Instr × State) :=
  if s.clockOff then none else if s.cycleEnds then s.settle.takeNext else s.takeNext

/-! ## Placing one instruction where the machine fetches (log 12) -/

/-- A gang at heat start (R64): registers 0, masks all ones, windows with LEN = 0, one group at `pc`. -/
def Gang.start (quads : BitVec 8) (pc ready : Nat) : Gang :=
  { v := [], m := [], x := [], win := [], latch := [], flags := 0, flagMin := [], dix := 0, vdirty := 0, mxdirty := 0,
    groups := [Group.start quads pc ready []], turn := 8, lastSlot := none, spans := [], retired := false
    ord := { pkg := 0, gng := 0, accs := [] } }

/-- A cox at heat start (R64, R76). -/
def Cox.start (pc ready : Nat) : Cox :=
  { pc := pc, clause := none, branched := false, ready := ready, stack := [], flags := 0, flagMin := [], wait := .none,
    count := 0, retired := false, exitCode := 0, stopped := none, resume := none, handler := none }

/-- The quads present in gang g of a team of `lanes` lanes (R45). -/
def presentQuads (lanes g : Nat) : BitVec 8 :=
  let r := min 32 (lanes - 32 * g)
  BitVec.ofNat 8 (2 ^ ((r + 3) / 4) - 1)

/-- A team at heat start (R51, R64, R74): k56-k63 hold the arguments, p0 reads 1. -/
def Team.start (e : TeamEntry) (core : Nat) (wins : List Window) (args : List Word) : Team :=
  { core := core, tsel := e.tsel, lanes := e.lanes, sigma := e.stagger, restart := e.restart,
    sbase := e.sbase, scnt := e.scnt, abase := e.abase, acnt := e.acnt, gentry := e.gentry, centry := e.centry,
    wins := wins, k := Store.putRun 0 [] 56 args, kOld := [], kOldAt := 0, p := 1, g := [], t := [], nest := [],
    sseeds := [], atomSeq := 0, kdirty := 0, gdirty := 0, tdirty := 0, sdirty := 0, adirty := 0, aint := 0, shift := 0,
    cox := Cox.start e.centry e.stagger,
    gangs := (List.range e.ngang).map fun g => Gang.start (presentQuads e.lanes g) e.gentry e.stagger }

/-- A heat in a given state, from its captured record. -/
def Heat.make (hid : Nat) (heatid : BitVec 32) (queue : Nat) (origin : Origin) (r : Record) (clusters : List Nat)
    (teams : List Team) (args : List Word) (anchor admitted : Nat) (status : HeatState) : Heat :=
  { hid := hid, heatid := heatid, queue := queue, origin := origin, record := r, status := status, anchor := anchor,
    admitted := admitted, chargeFrom := anchor, charge := 0, prov := 0, args := args, clusters := clusters,
    teams := teams, cursors := [], stoppedFlows := [], sessions := [], csyncs := [], fault := none, faultAt := 0, nsec := 0,
    trap := [], halt := none, dieHalt := [], trigger := none, relayed := [], stops := [], hot := []
    resumeStop := 0, checkpoints := 0, image := none, imageLen := 0, saveCost := 0
    discards := [], eseqs := [], away := false, abortCause := 0, parked := [], engFree := [],
    engDone := [], rxBase := anchor, barsAway := [], landAway := [], msgAway := [], lateAcks := [] }

/-- The record of the placed heat: one team of one gang of 32 lanes on core 0, every quantum and grain granted to it. -/
def placedRecord : Record :=
  let e : TeamEntry :=
    { core := 0, tsel := 0, ngang := 1, lanes := 32, stagger := 0, restart := false, sbase := 0, scnt := 192,
      abase := 0, acnt := 24, nwin := 1, gentry := 0, centry := 0, winidx := 0 }
  { nteam := 1, place := false, exact := false, rho := 4, sched := false, armed := false, stop := 4294967295, nclus := 1,
    armTeam := 0, armIdx := 0, armMem := 0, armBytes := 0, armTo := 0, teams := [e], clusters := [0],
    res := List.replicate 256 0, mem := (List.replicate 8 (List.replicate 60 0 ++ List.replicate 4 0xFF)).flatten,
    phases := [], wins := [], pages := [], flows := [] }

/-- The window of the placed heat: one 2 MiB page at physical address 0, writable. -/
def placedWindow : Window :=
  { vbase := 0, size := 2097152, plist := 0, npage := 1,
    pages := [{ pres := true, kind := 0, wr := true, cow := false, pa := 0 }], revoked := none }

/-- PLACE ONE INSTRUCTION (log 12): the state in which the machine issues it next. One heat runs, whose heat cycle 0 is
the current cycle; the stream of the instruction's set stands before a clause that holds it and the other stream has
retired. Steps due before the slot are dropped. -/
def State.place (s : State) (first second : Word) : State :=
  let uni := bit first 31
  let two := !uni && bit first 0
  let hdr : Word := (if uni then 0x80000000#32 else 0#32) ||| (if two then 0x10000000#32 else 0#32)
  let t := Team.start (placedRecord.teams.headD ⟨0, 0, 0, 0, 0, false, 0, 0, 0, 0, 0, 0, 0, 0⟩) 0 [placedWindow] []
  let t : Team := { t with
    shift := s.now % 4096
    cox := { t.cox with retired := !uni }
    gangs := t.gangs.map fun g => { g with retired := uni } }
  let h := Heat.make s.nextHid s.nextHeatid 0 .launch placedRecord [0] [t] [] (s.now - s.now % 4096) s.now .running
  { s with
    hbm := Store.putRun 0 s.hbm 0 (leBytes 4 hdr.toNat ++ leBytes 4 first.toNat ++ (if two then leBytes 4 second.toNat else []))
    heats := [h], nextHid := s.nextHid + 1, barPend := [], detects := [], clockOff := false
    agenda := s.agenda.filter fun d => decide (s.now < d.at_) || (d.at_ == s.now && decide (dueRank 50 0 ≤ d.rank)) }

end Sys2Proof.Machine
end

