-- ==== Sys2Proof/Machine/FrontEnd.lean ====
section
/-! DEFINITION. Heat records and admission (R41, R42, R49-R57, R61, R112, R118-R120, R263, R264, R282, R329, R332, R334,
R340, R364): capturing a record with every check of the gate, resolving windows, the checks of admission, placing a heat,
building slot-table banks, and writing completion records. -/
namespace Sys2Proof.Machine

/-! ## The record's sections (R49-R54, R118, R263) -/

/-- A team table entry (R50, Table 3). -/
def teamEntryOf (bs : List Byte) : TeamEntry :=
  let e0 := qword bs 0
  { core := bits e0 63 55, tsel := bits e0 54 54, ngang := bits e0 53 50 + 1, lanes := bits e0 49 41 + 1
    stagger := bits e0 40 33, restart := e0.testBit 32, sbase := bits e0 31 24, scnt := bits e0 23 16
    abase := bits e0 15 11, acnt := bits e0 10 6, nwin := bits e0 5 1, gentry := bits (qword bs 1) 63 8
    centry := bits (qword bs 2) 63 8, winidx := bits (qword bs 3) 63 48 }

/-- Whether the reserved bits of a team entry are zero. -/
def teamRsvdOk (bs : List Byte) : Bool :=
  bits (qword bs 0) 0 0 == 0 && bits (qword bs 1) 7 0 == 0 && bits (qword bs 2) 7 0 == 0 && bits (qword bs 3) 47 0 == 0

/-- A window table entry (R118, Table 3). -/
def winEntryOf (bs : List Byte) : WinEntry :=
  { vbase := bits (qword bs 0) 63 8, psz := bits (qword bs 0) 1 0, npage := bits (qword bs 1) 63 55, plist := bits (qword bs 1) 47 0 }

/-- A flow table entry (R263, Table 2). -/
def flowEntryOf (bs : List Byte) : FlowEntry :=
  let f0 := qword bs 0
  let f1 := qword bs 1
  let f2 := qword bs 2
  let f3 := qword bs 3
  { flow := bits f0 63 52, port := bits f0 51 48, role := bits f0 47 46, rport := bits f0 45 42, dest := bits f0 41 40
    team := bits f0 39 30, cred := f0.testBit 29, arr := f0.testBit 28, bidx := bits f0 27 18, op := bits f1 63 62
    base := bits f1 55 0, len := bits f2 63 32, firstf := bits f2 31 0, sfirst := bits f3 63 52, scnt := bits f3 51 40 + 1
    doff := bits f3 63 40 }

/-- Whether a flow entry's fields are ones that R263 allows. -/
def flowOk (nteam : Nat) (bs : List Byte) : Bool :=
  let e := flowEntryOf bs
  bits (qword bs 0) 17 0 == 0 && bits (qword bs 1) 61 56 == 0 && bits (qword bs 3) 39 0 == 0 && e.dest != 3 && e.op != 3 &&
  (e.dest == 2 || e.op == 0) && (e.role != 3 || e.dest == 2) && (e.role == 2 || e.rport == 0) && e.len % 256 == 0 &&
  decide (e.team < nteam)

/-- A power phase (R41, Table 5). -/
def phaseOf (x : Nat) : PowerPhase :=
  { start := bits x 63 40, mxw := bits x 39 28, lnw := bits x 27 16, ptw := bits x 15 4 }

/-- n pieces of k bytes from an offset on. -/
def pieces (bs : List Byte) (off n k : Nat) : List (List Byte) := (List.range n).map fun i => (bs.drop (off + k * i)).take k

/-- THE CAPTURED FIELDS of a heat record's bytes (R49-R54, R118, R263). -/
def recordOf (bs : List Byte) : Record :=
  let q (j : Nat) : Nat := qword bs j
  let at' (x : Nat) : Nat := 64 * x
  let nteam := bits (q 0) 39 30
  let nclus := bits (q 2) 30 24
  let place := (q 0).testBit 29
  let teams := (pieces bs (at' (bits (q 3) 63 48)) nteam 32).map teamEntryOf
  let nwin := teams.foldl (fun n t => if t.nwin = 0 then n else max n (t.winidx + t.nwin)) 0
  { nteam := nteam, place := place, exact := (q 0).testBit 28, rho := 4 * (bits (q 0) 27 26 + 1), sched := (q 0).testBit 25
    armed := (q 0).testBit 24, stop := bits (q 2) 63 32, nclus := nclus, armTeam := bits (q 5) 63 54, armIdx := bits (q 5) 53 44
    armMem := bits (q 5) 43 40, armBytes := bits (q 5) 39 0, armTo := bits (q 6) 63 48, teams := teams
    clusters := if place then [] else ((bs.drop (at' (bits (q 3) 47 32))).take nclus).map (·.toNat)
    res := (((bs.drop (at' (bits (q 3) 31 16))).take (128 * nclus)).map fun b => [b.toNat % 16, b.toNat / 16]).flatten
    mem := ((bs.drop (at' (bits (q 3) 15 0))).take 512).map (·.toNat)
    phases := (pieces bs (at' (bits (q 4) 63 48)) (bits (q 2) 23 20) 8).map fun b => phaseOf (ofLeBytes b)
    wins := (pieces bs (at' (bits (q 4) 47 32)) nwin 16).map winEntryOf
    pages := []
    flows := (pieces bs (at' (bits (q 4) 31 16)) (bits (q 2) 19 8) 32).map flowEntryOf }

/-! ## The checks of the gate (R332, R334, R340) -/

/-- Whether intervals given by start and length overlap; an empty one overlaps none. -/
def spansMeet (a b : Nat × Nat) : Bool := decide (0 < a.2 ∧ 0 < b.2 ∧ a.1 < b.1 + b.2 ∧ b.1 < a.1 + a.2)

/-- Whether some two of a list stand in a relation, the earlier first. -/
def anyPair (r : α → α → Bool) : List α → Bool
  | [] => false
  | x :: xs => xs.any (r x) || anyPair r xs

/-- The cluster index of a team's core in the record, under PLACE (R50). -/
def Record.teamCluster (r : Record) (e : TeamEntry) : Option Nat :=
  if r.place then (if e.core / 4 < r.nclus then some (e.core / 4) else none)
  else r.clusters.findIdx? (· == e.core / 4)

/-- What breaks the header (R49, R340). -/
def headerBad (bs : List Byte) : Bool :=
  let q (j : Nat) : Nat := qword bs j
  let nteam := bits (q 0) 39 30
  let nclus := bits (q 2) 30 24
  let nphase := bits (q 2) 23 20
  let nflow := bits (q 2) 19 8
  let len := 64 * bits (q 0) 15 0
  let fits (off n : Nat) : Bool := decide (64 * off + n ≤ len)
  bits (q 0) 63 48 != 0xB1E7 || bits (q 0) 47 40 != 1 || bits (q 0) 23 16 != 0 || bits (q 2) 31 31 != 0 || bits (q 2) 7 0 != 0 ||
  bits (q 4) 15 0 != 0 || bits (q 6) 47 0 != 0 || q 7 != 0 || decide (len < 128) || decide (nteam < 1 ∨ nteam > 768) ||
  decide (nclus < 1 ∨ nclus > 96) || decide (nphase < 1 ∨ nphase > 8) || ((q 0).testBit 29 && bits (q 3) 47 32 != 0) ||
  (nflow == 0 && bits (q 4) 31 16 != 0) || ((q 0).testBit 29 && (q 0).testBit 25) ||
  ((q 0).testBit 24 && (decide (bits (q 5) 63 54 ≥ nteam) || bits (q 5) 43 40 == 0)) ||
  !(fits (bits (q 3) 63 48) (32 * nteam) && ((q 0).testBit 29 || fits (bits (q 3) 47 32) nclus) &&
    fits (bits (q 3) 31 16) (128 * nclus) && fits (bits (q 3) 15 0) 512 && fits (bits (q 4) 63 48) (8 * nphase) &&
    fits (bits (q 4) 31 16) (32 * nflow))

/-- What breaks one team entry (R44, R50). -/
def Record.teamBad (r : Record) (e : TeamEntry) : Bool :=
  e.ngang != (e.lanes + 31) / 32 || decide (e.scnt < 1 ∨ e.sbase + e.scnt > 192 ∨ e.abase > 23 ∨ e.abase + e.acnt > 24 ∨ e.nwin > 16) ||
  e.gentry % 4 != 0 || e.centry % 4 != 0 || decide (e.core ≥ 384) || (r.teamCluster e).isNone

/-- What breaks the teams together (R21, R44, R48, R50). -/
def Record.teamsBad (r : Record) : Bool :=
  let sameCore (a b : TeamEntry) : Bool := a.core == b.core
  let peers (e : TeamEntry) : List TeamEntry := r.teams.filter (sameCore e)
  r.teams.any r.teamBad ||
  anyPair (fun a b => sameCore a b && (a.tsel == b.tsel || spansMeet (a.sbase, a.scnt) (b.sbase, b.scnt))) r.teams ||
  anyPair (fun a b => a.core / 4 == b.core / 4 && spansMeet (a.abase, a.acnt) (b.abase, b.acnt)) r.teams ||
  r.teams.any fun e =>
    let n := (peers e).length
    decide (n > 2 ∨ (peers e).foldl (fun x t => x + t.lanes) 0 > 512) ||
    (if n = 2 then decide (r.rho < 8 ∨ e.ngang > r.rho / 2) else decide (e.ngang > r.rho))

/-- What breaks the cluster list, reservations and memory slots (R52-R54). -/
def Record.grantsBad (r : Record) : Bool :=
  (r.clusters.any fun c => decide (c ≥ 96)) || anyPair (· == ·) r.clusters ||
  (r.res.any fun x => decide (8 ≤ x ∧ x ≤ 14)) ||
  ((List.range 512).zip r.mem).any fun e => e.2 != 0xFF && (decide (e.2 ≥ r.nclus) || decide (e.1 % 64 ≥ 60))

/-- Whether phases do not begin at 0 or their starts do not strictly increase (R41, log 53). -/
def phasesBad : List PowerPhase → Bool
  | [] => true
  | p :: r => p.start != 0 || (((p :: r).zip r).any fun e => decide (e.2.start ≤ e.1.start))

/-- Bytes of a page (R118). -/
def pageBytes (psz : Nat) : Nat := match psz with
  | 0 => 2 ^ 16
  | 1 => 2 ^ 21
  | _ => 2 ^ 29

/-- The windows of a team entry. -/
def Record.winsOf (r : Record) (e : TeamEntry) : List WinEntry := (r.wins.drop e.winidx).take e.nwin

/-- What breaks the windows (R118, R120, R334). -/
def Record.windowsBad (r : Record) (rsvd : List Bool) : Bool :=
  (r.teams.any fun e => (r.winsOf e).length != e.nwin) || rsvd.any (!·) ||
  (r.wins.any fun w => w.psz == 3 || decide (w.npage < 1 ∨ w.npage > 384) || w.vbase % pageBytes w.psz != 0 || w.plist % 8 != 0) ||
  (r.teams.any fun e => anyPair (fun a b =>
    spansMeet (a.vbase, a.npage * pageBytes a.psz) (b.vbase, b.npage * pageBytes b.psz)) (r.winsOf e)) ||
  r.teams.any fun e => decide (((r.teams.filter fun t => t.core == e.core).map fun t =>
    ((r.winsOf t).map (·.npage)).sum).sum > 384)

/-- Whether entries of one flow and role give different LEN (R263). -/
def Record.lensDiffer (r : Record) : Bool :=
  anyPair (fun a b => a.flow == b.flow && a.role == b.role && a.len != b.len) r.flows

/-- One page list entry (R119, Table 4). -/
def pageOf (x : Nat) : Page :=
  { pres := x.testBit 63, kind := bits x 62 61, wr := x.testBit 60, cow := x.testBit 59, pa := 65536 * bits x 47 16 }

/-- What breaks a page list entry (R119, R334). -/
def pageBad (psz x : Nat) : Bool :=
  let p := pageOf x
  p.kind == 3 || bits x 58 48 != 0 || bits x 15 0 != 0 ||
  (p.pres && (decide (p.pa ≥ 0x6000000000) || p.pa % pageBytes psz != 0))

/-- Read the page list of a window (R120). -/
def State.pageList (s : State) (w : WinEntry) : List Nat := elemsOf 8 (s.readHbm w.plist (8 * w.npage))

/-- Pages of the teams of one core whose physical ranges overlap and whose kinds differ (R332). -/
def Record.aliasBad (r : Record) (pages : List (List Page)) : Bool :=
  let ofTeam (e : TeamEntry) : List (Nat × Nat × Nat) :=
    ((((r.wins.zip pages).drop e.winidx).take e.nwin).map fun wp =>
      (wp.2.filter (·.pres)).map fun p => (p.pa, pageBytes wp.1.psz, p.kind)).flatten
  r.teams.any fun e => anyPair (fun a b => spansMeet (a.1, a.2.1) (b.1, b.2.1) && a.2.2 != b.2.2)
    (((r.teams.filter fun t => t.core == e.core).map ofTeam).flatten)

/-- RESOLVE THE WINDOWS (R120, R332, R334): the page lists are read once; none when an entry is not allowed. -/
def State.resolvePages (s : State) (r : Record) : Option (List (List Page)) :=
  let raw := r.wins.map fun w => (w.psz, s.pageList w)
  let pages := raw.map fun e => e.2.map pageOf
  if (raw.any fun e => e.2.any (pageBad e.1)) || r.aliasBad pages then none else some pages

/-- CAPTURE A HEAT RECORD at the gate (R49, R340): its seal, then every check; windows are resolved unless it is armed. An
address that is no multiple of 64, named by a graph node or a launch write, is read as it stands (log 80). -/
def State.captureHeat (s : State) (pa : Nat) : Captured :=
  let hd := s.readHbm pa 64
  let len := max 1 (bits (qword hd 0) 15 0)
  let bs := s.readHbm pa (64 * len)
  if !sealOk bs 12 then .bad 0xA0
  else if headerBad bs then .bad 0xA1
  else
    let r := recordOf bs
    let q (j : Nat) : Nat := qword bs j
    let winRsvd := (pieces bs (64 * bits (q 4) 47 32) r.wins.length 16).map fun b =>
      b.length == 16 && bits (qword b 0) 7 2 == 0 && bits (qword b 1) 54 48 == 0
    let phRsvd := (pieces bs (64 * bits (q 4) 63 48) r.phases.length 8).any fun b => ofLeBytes b % 16 != 0
    let bad := (pieces bs (64 * bits (q 3) 63 48) r.nteam 32).any (fun b => !teamRsvdOk b) || r.teamsBad || r.grantsBad || phRsvd || phasesBad r.phases ||
      r.windowsBad winRsvd || r.lensDiffer ||
      (pieces bs (64 * bits (q 4) 31 16) r.flows.length 32).any fun b => !flowOk r.nteam b
    if bad then .bad 0xA1
    else if r.armed then .heat r
    else match s.resolvePages r with
      | none => .bad 0xA1
      | some ps => .heat { r with pages := ps }

/-! ## Reading records (R108, R129) -/

/-- The stacks that a run of physical bytes touches. -/
def stacksOf (pa n : Nat) : List Nat :=
  distinct ((List.range (min 8 ((pa % 4096 + n + 4095) / 4096))).map fun i => stackOf (pa + 4096 * i))

/-- The stacks that the capture of a heat record reads: those of the record, and of its page lists when they can be told. -/
def State.recordStacks (s : State) (pa : Nat) : List Nat :=
  let n := 64 * max 1 (bits (qword (s.readHbm pa 64) 0) 15 0)
  let bs := s.readHbm pa n
  let lists := if headerBad bs then [] else ((recordOf bs).wins.map fun w => stacksOf w.plist (8 * w.npage)).flatten
  distinct (stacksOf pa n ++ lists)

/-- The first cycle, from c on, in which the front end may read some stacks (R108): one that every resident heat's slot table leaves
at 0xFF on all of them, or, where the next frame has none, on the first of them (log 103). -/
def State.freeForAll (s : State) (ks : List Nat) (c : Nat) : Nat :=
  match (c :: (List.range 64).map fun i => 64 * (c / 64 + 1 + i)).find? fun x => ks.all fun k => s.grainFree k x with
  | some x => x
  | none => s.freeGrain (ks.headD 0) c

/-- Use some stacks in the current cycle (R32, R338): the lowest cause that their accesses meet. -/
def State.useStacks (s : State) (ks : List Nat) : Option Nat × State :=
  ks.foldl (fun x k =>
    let u := x.2.stackUse k
    (leastSet x.1 u.1, u.2)) (none, s)

/-! ## Admission (R42, R52, R55, R264) -/

/-- Whether a heat holds its clusters, grains and slots (R55, R291). -/
def Heat.resident (h : Heat) : Bool := h.status != .saved

/-- Clusters held by resident heats. -/
def State.heldClusters (s : State) : List Nat := ((s.heats.filter (·.resident)).map (·.clusters)).flatten

/-- THE CLUSTERS OF A PLACEMENT (R52): those named, or the lowest free ones; none when they are not free. -/
def State.place? (s : State) (r : Record) : Option (List Nat) :=
  let held := s.heldClusters
  if r.place then
    let free := (List.range 96).filter fun c => !held.contains c
    if free.length < r.nclus then none else some (free.take r.nclus)
  else if r.clusters.any held.contains then none else some r.clusters

/-- Whether a stack grain would be granted twice (R55). -/
def State.grainsMeet (s : State) (r : Record) : Bool :=
  (s.heats.filter (·.resident)).any fun h => (r.mem.zip h.record.mem).any fun e => e.1 != 0xFF && e.2 != 0xFF

/-- The ports and directions (true: receive) whose slots an entry names (R263, R264): a relay's flow arrives on its RPORT in the
slots of its own indices. -/
def FlowEntry.uses (e : FlowEntry) : List (Nat × Bool) :=
  match e.role with
  | 0 => [(e.port, false)]
  | 1 => [(e.port, true)]
  | 2 => [(e.port, false), (e.rport, true)]
  | _ => []

/-- Whether two entries name one slot-table entry of one port and direction (R55). -/
def slotsMeet (a b : FlowEntry) : Bool :=
  (a.uses.any b.uses.contains) && (List.range 4096).any fun i => a.owns i && b.owns i

/-- Whether a slot entry would be named by two resident heats (R55). -/
def State.flowsMeet (s : State) (r : Record) : Bool :=
  (s.heats.filter (·.resident)).any fun h => r.flows.any fun a => h.record.flows.any (slotsMeet a)

/-- Ports that a record's entries name. -/
def Record.ports (r : Record) : List Nat :=
  distinct ((r.flows.map fun e => e.uses.map (·.1)).flatten)

/-- Whether the bank switches of an admission can be armed (R264). -/
def State.switchFree (s : State) (r : Record) (swcyc : Nat) : Bool :=
  r.ports.all fun p =>
    let x := s.port p
    (!x.pend || x.swcyc == swcyc) && (match x.rxPend with
      | some c => c == swcyc
      | none => true)

/-- The phase of a profile in force at a cycle (R41). -/
def Record.phaseAt (r : Record) (h : Nat) : PowerPhase :=
  r.phases.foldl (fun (acc : PowerPhase) p => if 64 * p.start ≤ h then p else acc) (r.phases.headD ⟨0, 0, 0, 0⟩)

/-- The staggers of the teams that a test picks; a place with no team follows the profile unshifted. -/
def Record.staggers (r : Record) (pick : TeamEntry → Bool) : List Nat :=
  match r.teams.filter pick with
  | [] => [0]
  | ts => ts.map (·.stagger)

/-- The declared draw of a heat at a pod cycle in each domain of R43, in units of 0.25 W (R41, R42): the matrix draw for
each placed cluster, the lane draw for each core that hosts a team, the port draw for each port named. A team's stagger shifts
the profile; where teams of one core or cluster differ, the greater draw counts (log 61). -/
def drawIn (r : Record) (anchor c : Nat) (domain : Nat) : Nat :=
  if c < anchor ∨ c - anchor > r.stop then 0
  else
    let most (f : PowerPhase → Nat) (gs : List Nat) : Nat :=
      (gs.map fun g => if anchor + g ≤ c then f (r.phaseAt (c - anchor - g)) else 0).foldl max 0
    match domain with
    | 0 => ((List.range r.nclus).map fun j => most (·.mxw) (r.staggers fun e => r.teamCluster e == some j)).sum
    | 1 => ((distinct (r.teams.map (·.core))).map fun k => most (·.lnw) (r.staggers fun e => e.core == k)).sum
    | _ => (r.phaseAt (c - anchor)).ptw * r.ports.length

/-- A profile in force (R42, R43): a record at an anchor, and the first pod cycle in which it draws and the first in which it no
longer does. -/
structure Load where
  record : Record
  anchor : Nat
  from_ : Nat
  until_ : Nat
deriving DecidableEq, Repr

/-- What a load draws at a pod cycle in a domain. -/
def Load.draw (l : Load) (c domain : Nat) : Nat :=
  if l.from_ ≤ c ∧ c < l.until_ then drawIn l.record l.anchor c domain else 0

/-- What a load draws at a pod cycle in all (R41, R42). -/
def Load.total (l : Load) (c : Nat) : Nat := l.draw c 0 + l.draw c 1 + l.draw c 2

/-- The cycles at which a load's draw changes (R41). -/
def Load.turns (l : Load) : List Nat :=
  l.from_ :: l.until_ :: ((distinct (0 :: l.record.teams.map (·.stagger))).map fun g =>
    l.record.phases.map fun p => l.anchor + g + 64 * p.start).flatten

/-- The load of a record at an anchor, from heat cycle `begin` to its END. -/
def Record.load (r : Record) (anchor begin : Nat) : Load :=
  { record := r, anchor := anchor, from_ := anchor + begin, until_ := anchor + r.stop + 1 }

/-- The loads of the resident heats: an armed heat without an anchor has none (R57). -/
def State.loads (s : State) : List Load :=
  (s.heats.filter fun h => h.resident && h.status != .armed).map fun h => h.record.load h.anchor h.resumeStop

/-- WHETHER THE POWER BUDGET HOLDS with one load more, with every resident heat, from that load's anchor on (R42). -/
def State.powerOk (s : State) (l : Load) : Bool :=
  let all := l :: s.loads
  let turns := (all.map (·.turns)).flatten.filter fun c => decide (l.anchor ≤ c)
  turns.all fun c => decide ((all.map (·.total c)).sum + Config.fixedAllowance ≤ 4 * s.budget)

/-- THE FIRST MULTIPLE of G at or after `lo` at which the power budget holds (R42, R56). Past the last cycle in which a resident
heat draws, one multiple stands for all. -/
def State.anchorFrom (s : State) (r : Record) (lo begin : Nat) : Option Nat :=
  let g := r.grid
  let a := roundUp g lo
  let last := (s.loads.map (·.until_)).foldl max 0
  ((List.range ((last - a) / g + 2)).map fun i => a + g * i).find? fun x => s.powerOk (r.load x begin)

/-- THE ANCHOR a heat would take now (R20, R55, R56): the first multiple of G at or after `lo` and the one named at which the
power budget holds; for EXACT the one named. -/
def State.anchorFor (s : State) (r : Record) (lo named : Nat) : Option Nat :=
  if r.exact ∧ named ≠ 0 then
    (if lo ≤ named ∧ named % r.grid = 0 ∧ s.powerOk (r.load named 0) then some named else none)
  else s.anchorFrom r (max lo named) 0

/-- The pod cycle of the bank switch of an armed heat (R264). -/
def State.armedSwitch (s : State) : Nat := roundUp 8192 (s.now + 8192)

/-- WHETHER A HEAT CAN BE ADMITTED NOW (R55, R264, R355): its clusters and, unless it is armed, its anchor. -/
def State.admissible (s : State) (r : Record) (lo named : Nat) : Option (List Nat × Nat) :=
  if (r.sched && s.regatta.halted) || s.grainsMeet r || s.flowsMeet r then none
  else match s.place? r with
    | none => none
    | some cl =>
      if r.armed then
        (if r.flows == [] || s.switchFree r (s.armedSwitch / 8192) then some (cl, s.armedSwitch) else none)
      else match s.anchorFor r lo named with
        | none => none
        | some a => if r.flows == [] || s.switchFree r (a / 8192) then some (cl, a) else none

/-- Whether an EXACT heat can no longer take the anchor it is named (R337). -/
def anchorMissed (r : Record) (lo named : Nat) : Bool :=
  r.exact && named != 0 && !r.armed && (decide (named < lo) || named % r.grid != 0)

/-! ## Placing a heat (R51, R57, R62, R64, R112, R264) -/

/-- The absolute core of a team entry (R50). -/
def Record.absCore (r : Record) (clusters : List Nat) (e : TeamEntry) : Nat :=
  if r.place then 4 * clusters.getD (e.core / 4) 0 + e.core % 4 else e.core

/-- The resolved windows of a team entry. -/
def Record.windowsOf (r : Record) (e : TeamEntry) : List Window :=
  (((r.wins.zip r.pages).drop e.winidx).take e.nwin).map fun wp =>
    { vbase := wp.1.vbase, size := pageBytes wp.1.psz, plist := wp.1.plist, npage := wp.1.npage, pages := wp.2, revoked := none }

/-- CLEAR WHAT A TEAM IS GIVEN (R112, R292): its granules and tiles are zeroed and its granules owned by it, open. -/
def State.clearTeam (s : State) (t : Team) : State :=
  let s := s.modCore t.core fun c =>
    { c with
      owner := Store.clearRun c.owner t.sbase t.scnt
      closed := Store.clearRun c.closed t.sbase t.scnt }
  { s with
    scratch := Store.clearRun s.scratch (scratchKey t.core (4096 * t.sbase)) (4096 * t.scnt)
    tiles := Store.clearRun s.tiles (tileKey (clusterOf t.core) t.abase 0 0) (2 ^ 14 * t.acnt) }

/-- Give the landing areas of a heat's receive entries to fabric (R112). -/
def State.landingOwners (s : State) (h : Heat) : State :=
  (h.record.flows.filter fun e => e.role == 1 && e.dest == 0 && e.len != 0).foldl (fun s e => match h.teams[e.team]? with
    | none => s
    | some t =>
      let g0 := t.sbase + e.base / 4096
      let g1 := min (t.sbase + t.scnt - 1) (t.sbase + (e.base + e.len - 1) / 4096)
      s.modCore t.core fun c =>
        { c with owner := Store.setAll 0 c.owner ((List.range (g1 + 1 - g0)).map fun i => (g0 + i, 4#3)) }) s

/-- BUILD A BANK of a port (R264): the entries of every heat resident or armed on it. -/
def State.buildBank (s : State) (p : Nat) : State :=
  let es := ((s.heats.filter (·.resident)).map (·.record.flows)).flatten
  let bank := !(s.port p).txAct
  let word (rx : Bool) (i : Nat) : BitVec 32 := match es.find? (fun e => e.uses.contains (p, rx) && e.owns i) with
    | some e => 0x80000000#32 ||| BitVec.ofNat 32 e.flow
    | none => 0
  let fill (rx : Bool) (t : Store (BitVec 32)) : Store (BitVec 32) :=
    Store.putRun 0 t (4096 * bank.toNat) ((List.range 4096).map (word rx))
  s.modPort p fun x => { x with txTable := fill false x.txTable, rxTable := fill true x.rxTable }

/-- Build the banks of a heat's ports and arm their switches (R39, R264). -/
def State.armBanks (s : State) (r : Record) (swcyc : Nat) : State :=
  r.ports.foldl (fun s p =>
    let s := s.buildBank p
    if (s.port p).pend then s
    else
      let s := s.modPort p fun x => { x with swcyc := swcyc, pend := true, rxPend := some swcyc }
      (s.pushSub (8192 * swcyc) 5 p (.bankSwitchTx p swcyc)).pushSub (8192 * swcyc + 1120) 5 p (.bankSwitchRx p swcyc)) s

/-- The `sr.heatid` after one (R364). -/
def nextId (x : BitVec 32) : BitVec 32 := if x = 0xFFFFFFFF then 1 else x + 1

/-- The first `sr.heatid` from x on that no heat of the package holds (R364, log 102). Fuel bounds the heats. -/
def freshId (held : List (BitVec 32)) : Nat → BitVec 32 → BitVec 32
  | 0, x => x
  | n + 1, x => if held.contains x then freshId held n (nextId x) else x

/-- The `sr.heatid` that the next heat takes. -/
def State.newHeatid (s : State) : BitVec 32 := freshId (s.heats.map (·.heatid)) s.heats.length s.nextHeatid

/-- Argument words ARG0-ARG7, those at or above NARG zero (R51, R279). -/
def argWords (narg : Nat) (ws : List Nat) : List Word :=
  (List.range 8).map fun i => if i < narg then BitVec.ofNat 32 (ws.getD i 0) else 0

/-- Initialise the trigger barrier of an armed heat (R57). -/
def State.initTrigger (s : State) (h : Heat) : State :=
  match h.teams[h.record.armTeam]? with
  | none => s
  | some t => s.modCore t.core fun c => c.modBar h.record.armIdx fun b =>
      { b with alloc := true, expg := 0, expc := 0, expe := h.record.armMem, arrv := 0, pend := h.record.armBytes, phase := 0
               arms := [], hist := [], team := h.record.armTeam }

/-- ADMIT A HEAT (R51, R57, R112, R264, R285, R364): it takes its `sr.heatid`, clusters and state; its granules and tiles are
cleared and owned; its flows' banks are armed; and it starts at its anchor, or waits armed. -/
def State.admitHeat (s : State) (q : Nat) (origin : Origin) (r : Record) (clusters : List Nat) (a : Nat) (args : List Word) :
    State :=
  let teams := r.teams.map fun e => Team.start e (r.absCore clusters e) (r.windowsOf e) args
  let h0 := Heat.make s.nextHid s.newHeatid q origin r clusters teams args a s.now (if r.armed then .armed else .scheduled)
  let prov : Int := (r.nclus * r.stop : Nat)
  let h : Heat := { h0 with prov := prov, chargeFrom := if r.armed then s.now else a }
  let s : State := { s with nextHid := s.nextHid + 1, nextHeatid := nextId s.newHeatid, heats := s.heats ++ [h] }
  let s := teams.foldl (fun s t => s.clearTeam t) s
  let s := ((s.landingOwners h).modQueue q fun x => { x with deficit := x.deficit - prov }).tick 9 0 1
  let s := if r.flows = [] then s else s.armBanks r (a / 8192)
  if r.armed then
    let s := (s.startFlows h.hid a fun role => role == 1 || role == 2).initTrigger h
    if r.armTo = 0 then s else s.push (s.now + 65536 * r.armTo) 87 (.armedTimeout h.hid)
  else ((s.push a 46 (.heatStart h.hid)).push (a + r.stop) 62 (.endCheck h.hid)).startFlows h.hid a fun _ => true

/-- THE ANCHOR OF A TRIGGERED HEAT (R42, R56, R57): the first multiple of G, no earlier than the advance + 256, at which the power
budget holds; its start, END check and transmit entries follow. With none, and while the regatta halts one with SCHED = 1
(R355), the search is made again later (log 61). -/
def State.fixAnchor (s : State) (h : Heat) (advance : Nat) : State :=
  match if h.record.sched ∧ s.regatta.halted then none else s.anchorFrom h.record (max s.now (advance + 256)) 0 with
  | none => s.push (s.now + 4096) 3 (.heatStart h.hid)
  | some a =>
    let s := s.modHeat h.hid fun h => { h with status := .scheduled, anchor := a, trigger := none }
    ((s.push a 46 (.heatStart h.hid)).push (a + h.record.stop) 62 (.endCheck h.hid)).startFlows h.hid a (· == 0)

/-- HEAT_START (R57, R62): at its anchor the heat runs; of an armed heat that has been triggered, the anchor is fixed. -/
def execHeatStart (s : State) : Host.Outcome State Fault Refusal :=
  match s.arg with
  | .heatStart hid =>
    match s.heat? hid with
    | none => .next s
    | some h =>
      match h.status, h.trigger with
      | .armed, some x => .next (s.fixAnchor h x)
      | .scheduled, _ => .next (s.modHeat hid fun h => { h with status := .running })
      | _, _ => .next s
  | _ => .fault .noData

/-- ARMED_TIMEOUT (R57, R329): an armed heat whose trigger has not advanced by the end of this cycle is released with 0x92, which
the umpire logs. -/
def execArmedTimeout (s : State) : Host.Outcome State Fault Refusal :=
  match s.arg with
  | .armedTimeout hid =>
    let s := s.settle
    match s.heat? hid with
    | none => .next s
    | some h =>
      if h.status ≠ .armed ∨ h.trigger.isSome then .next s
      else .next (((s.modHeat hid fun h => { h with abortCause := 0x92, status := .quiesced, anchor := 0 }).logEvent
        (.heat h.heatid 0x92)).push s.now 80 (.heatCompletion hid))
  | _ => .fault .noData

/-- The streams of a team that have not retired, as detections of 0x90 (R337). -/
def unretired (hid ti : Nat) (t : Team) : List Detect :=
  let d (k src gang qmask : Nat) (n : BitVec 64) : Detect :=
    { Detect.blank hid (streamRank t.core t.tsel k) 0x90 src with
      team := ti, core := t.core, gang := gang, qmask := qmask, fdix := n }
  (((List.range t.gangs.length).zip t.gangs).filterMap fun ig =>
    if ig.2.retired then none else some (d ig.1 0 ig.1 (ig.2.groups.foldl (fun m g => m ||| g.quads.toNat) 0) ig.2.dix)) ++
  (if t.cox.retired then [] else [d 16 1 0 0 t.cox.count])

/-- END_CHECK (R59, R337): at END every gang and cox has retired, in that cycle at the latest; one that has not stops there. -/
def execEndCheck (s : State) : Host.Outcome State Fault Refusal :=
  match s.arg with
  | .endCheck hid =>
    match s.heat? hid with
    | none => .next s
    | some h =>
      if !(h.status == .running || h.status == .closing) then .next (s.park hid 62 (.endCheck hid))
      else
        let ds := (((List.range h.teams.length).zip h.teams).map fun it => unretired hid it.1 it.2).flatten
        .next (ds.foldl (fun s d =>
          let s := if d.src = 1 then s.stopCox ⟨hid, d.team⟩ else s.stopGang ⟨hid, d.team, d.gang⟩
          s.detect d) s)
  | _ => .fault .noData

/-! ## Completion records (R282, R329) -/

/-- Write bytes for a queue, to host or device memory. -/
def State.writeLoc (s : State) (dev : Bool) (a : Nat) (bs : List Byte) : State :=
  if dev then s.writeHbm (a % 2 ^ 48) bs else s.writeHost (wrapN 64 a) bs

/-- What a completion record says (R282, Table 3). -/
structure Completion where
  tag : Nat
  heatid : Nat
  anchor : Nat
  charge : Nat
  cause : Nat
  kind : Nat
  exit0 : Nat
  exitMax : Nat
  xteam : Nat
deriving DecidableEq, Repr

/-- Its 32 bytes. -/
def Completion.bytes (c : Completion) : List Byte :=
  leBytes 8 (c.tag % 2 ^ 32 * 2 ^ 32 + c.heatid % 2 ^ 32) ++ leBytes 8 c.anchor ++ leBytes 8 c.charge ++
    leBytes 8 (c.cause * 2 ^ 56 + c.kind * 2 ^ 54 + c.exit0 * 2 ^ 48 + c.exitMax * 2 ^ 42 + c.xteam * 2 ^ 32)

/-- WRITE A COMPLETION RECORD into its entry of the ring, and count it for interrupts (R282, R301). -/
def State.writeCompletion (s : State) (q entry : Nat) (irq : Bool) (c : Completion) : State :=
  let d := (s.queue q).desc
  let s := s.writeLoc d.cloc (d.cbase.toNat + 32 * (entry % 2 ^ d.rlog)) c.bytes
  if irq then s.countEntry (64 + q) else s

/-- WRITE A SAVE NOTICE into the queue's area of 16 (R282). -/
def State.writeNotice (s : State) (q : Nat) (irq : Bool) (c : Completion) : State :=
  let x := s.queue q
  let s := s.writeLoc x.desc.cloc (x.desc.cbase.toNat + 32 * 2 ^ x.desc.rlog + 32 * (x.nsave % 16)) c.bytes
  let s := s.modQueue q fun x => { x with nsave := x.nsave + 1 }
  if irq then s.countEntry (64 + q) else s

/-- The exit codes of a heat (R229, R282): team 0's, the greatest, and the lowest team that has it. -/
def Heat.exits (h : Heat) : Nat × Nat × Nat :=
  let es := h.teams.map (·.cox.exitCode)
  let m := es.foldl max 0
  (es.headD 0, m, (es.findIdx? (· == m)).getD 0)

/-- Whether the command that carried a heat asks for interrupts. -/
def Origin.irq (o : Origin) : Bool :=
  match o with
  | .ring _ _ i => i
  | .indirect _ _ i => i
  | .node _ i => i
  | .launch => true

/-- The tag of the command or node that carried a heat (R282). -/
def State.tagOf (s : State) (h : Heat) : Nat :=
  match h.origin with
  | .ring _ t _ => t.toNat
  | .indirect e _ _ => (((s.queue h.queue).commands.find? fun c => c.entry == e && c.sub.isNone).map (·.tag.toNat)).getD 0
  | .node n _ => match (s.queue h.queue).graph with
    | some g => ((g.nodes[n]?).map fun x => bits (x.node.x.getD 0 0).toNat 63 32).getD 0
    | none => 0
  | .launch => 0

/-- END A PERIOD OF RESIDENCE (R285): the queue gets back what was not used, and the heat's charge grows. -/
def State.settleCharge (s : State) (hid : Nat) : State :=
  match s.heat? hid with
  | none => s
  | some h =>
    let actual := h.clusters.length * (s.now - h.chargeFrom)
    (s.modHeat hid fun h => { h with charge := h.charge + actual }).modQueue h.queue fun q =>
      { q with deficit := min (q.deficit + h.prov - (actual : Nat)) ((64 * q.desc.qw : Nat) : Int) }

/-- FREE THE CORES OF A HEAT (R61, R291): every barrier object is freed and its generation advances; counters read zero. -/
def State.freeCores (s : State) (h : Heat) : State :=
  h.clusters.foldl (fun s cl => [0, 1, 2, 3].foldl (fun s p => s.modCore (4 * cl + p) fun c =>
    { Core.init with bars := Store.putRun Barrier.init [] 0 ((List.range 1024).map fun i => (c.bar i).free) }) s) s

end Sys2Proof.Machine
end

