-- ==== Sys2Proof/Machine/Image.lean ====
section
/-! DEFINITION. The save image (R85, R290, R292, R293, R340, R349): coding granules and tiles, the image's sections and
header, writing it and reading it back. Where R292 names what a part holds and gives no layout, its bytes are free (log 70). -/
namespace Sys2Proof.Machine

/-! ## Coding words (R293) -/

/-- How many words at the head of a list equal a word. -/
def runOf (w : Word) : List Word → Nat
  | [] => 0
  | x :: r => if x = w then runOf w r + 1 else 0

/-- The literal token for some words, nothing for none. -/
def literalToken (ws : List Word) : List Byte :=
  if ws = [] then [] else BitVec.ofNat 8 (0x80 + (ws.length - 1)) :: (ws.map fun w => leBytes 4 w.toNat).flatten

/-- THE CODER (R293): runs of zeros and of the previous word as long as possible, at most 64 a token; other words as
literals. `lits` are the literals not yet written. Fuel is the number of words. -/
def encodeWords : Nat → Word → List Word → List Word → List Byte
  | 0, _, lits, _ => literalToken lits
  | _ + 1, _, lits, [] => literalToken lits
  | n + 1, prev, lits, w :: r =>
    if w = 0 ∨ w = prev then
      let k := min 64 (1 + runOf w r)
      literalToken lits ++ [BitVec.ofNat 8 ((if w = 0 then 0 else 0x40) + (k - 1))] ++ encodeWords n w [] (r.drop (k - 1))
    else if lits.length = 63 then literalToken (lits ++ [w]) ++ encodeWords n w [] r
    else encodeWords n w (lits ++ [w]) r

/-- Zero bytes up to a multiple of 8. -/
def padTo8 (bs : List Byte) : List Byte := bs ++ List.replicate (roundUp 8 bs.length - bs.length) 0

/-- The code of a granule or tile (R293), padded. -/
def codeOf (ws : List Word) : List Byte := padTo8 (encodeWords ws.length 0 [] ws)

/-- Words of four bytes each. -/
def wordsOf (bs : List Byte) : List Word := (elemsOf 4 bs).map (BitVec.ofNat 32)

/-- THE DECODER (R293): the words that a stream produces, at most `left` of them; an unassigned token ends it. -/
def decodeWords : Nat → Word → Nat → List Byte → List Word
  | 0, _, _, _ => []
  | _ + 1, _, _, [] => []
  | n + 1, prev, left, b :: r =>
    if left = 0 then []
    else
      let k := b.toNat % 64 + 1
      match b.toNat / 64 with
      | 0 => List.replicate (min k left) 0 ++ decodeWords n 0 (left - k) r
      | 1 => List.replicate (min k left) prev ++ decodeWords n prev (left - k) r
      | 2 =>
        let ws := wordsOf (r.take (4 * k))
        ws.take left ++ decodeWords n (ws.getLastD 0) (left - k) (r.drop (4 * k))
      | _ => []

/-! ## The estimator (R290) -/

/-- Bits set among the low n of a set. -/
def countBits (n : Nat) (x : BitVec w) : Nat := ((List.range n).filter fun i => x.getLsbD i).length

/-- B of a team (R290). -/
def Team.saveBytes (t : Team) : Nat :=
  128 * (t.gangs.map fun g => countBits 96 g.vdirty).sum + 4096 * countBits 192 t.sdirty + 65536 * countBits 24 t.adirty + 16384

/-- S of a team (R290). -/
def Team.saveTime (t : Team) : Nat := (t.saveBytes + 511) / 512

/-- The largest sum of S over the teams of one cluster (R291, R294). -/
def Heat.saveSum (h : Heat) : Nat :=
  (h.clusters.map fun cl => ((h.teams.filter fun t => clusterOf t.core == cl).map (·.saveTime)).sum).foldl max 0

/-! ## The register section (R292) -/

/-- Free bytes for a part whose layout R292 leaves open. -/
def freeBytes (tag n : Nat) : List Byte := (List.range n).map fun i => Config.freeByte (1024 * tag + i)

/-- A tensor entry as its 128-byte record with SEAL zero (R79, Table 7). -/
def Tensor.bytes (t : Tensor) : List Byte :=
  let q0 := 0x7E50 * 2 ^ 48 + 2 ^ 40 + t.fmt * 2 ^ 35 + t.rank * 2 ^ 31 + (if t.loc then 2 ^ 30 else 0) + t.baxis * 2 ^ 26 +
    wrapN 8 t.scale * 2 ^ 18
  leBytes 8 q0 ++ leBytes 4 t.serial.toNat ++ leBytes 4 0 ++ leBytes 8 t.base ++ leBytes 8 0 ++
    ((List.range 12).map fun d =>
      leBytes 8 (Store.get 0 t.ext d * 2 ^ 40 + wrapN 40 (Store.get 0 t.stride d))).flatten

/-- Bytes of a team's block: k, p, seed, g, t, nest slots (4 of 88) and control state (256). -/
def teamBlock : Nat := 256 + 8 + 8 + 128 + 8192 + 352 + 256

/-- A loop-nest slot: LEVELS and seven levels of three words. -/
def nestBytes (n : NestSlot) : List Byte :=
  leBytes 4 n.levels.length ++ ((List.range 7).map fun l =>
    let v := n.levels.getD l (0, 0, 0)
    leBytes 4 v.1 ++ leBytes 4 (wrapN 32 v.2.1) ++ leBytes 4 (wrapN 32 v.2.2)).flatten

/-- What a save writes of a team's block: dirty registers, and what every save writes (R85, R292). -/
def Team.blockWrites (t : Team) (tag off : Nat) : List (Nat × List Byte) :=
  let dirty (d : Bool) (o : Nat) (bs : List Byte) : List (Nat × List Byte) := if d then [(off + o, bs)] else []
  ((List.range 64).map fun n => dirty (t.kdirty.getLsbD n) (4 * n) (leBytes 4 (Store.get 0 t.k n).toNat)).flatten ++
  [(off + 256, leBytes 8 t.p.toNat), (off + 264, leBytes 8 (((t.sseeds.head?).map (·.2.toNat)).getD 0))] ++
  ((List.range 8).map fun n => dirty (t.gdirty.getLsbD n) (272 + 16 * n) (leBytes 16 (t.genRead n).toNat)).flatten ++
  ((List.range 64).map fun n => dirty (t.tdirty.getLsbD n) (400 + 128 * n) (Store.get Tensor.init t.t n).bytes).flatten ++
  [(off + 8592, ((List.range 4).map fun n => nestBytes (Store.get { levels := [] } t.nest n)).flatten),
   (off + 8944, freeBytes tag 256)]

/-- What a save writes of a gang's block of 16,384 bytes (R292). -/
def Gang.blockWrites (g : Gang) (tag off : Nat) : List (Nat × List Byte) :=
  let dirty (d : Bool) (o : Nat) (bs : List Byte) : List (Nat × List Byte) := if d then [(off + o, bs)] else []
  let latch (e : Nat) : List Byte :=
    ((List.range 32).map fun l => leBytes 4 ((Store.get ⟨0, 0, []⟩ g.latch (8 * e + l / 4)).vals.getD l 0).toNat).flatten
  ((List.range 96).map fun r => dirty (g.vdirty.getLsbD r) (128 * r)
    ((List.range 32).map fun l => leBytes 4 (Store.get 0 g.v (32 * r + l)).toNat).flatten).flatten ++
  [(off + 12288, latch 0 ++ latch 1 ++ latch 2)] ++
  ((List.range 4).map fun n => dirty (g.mxdirty.getLsbD (7 + n)) (12672 + 32 * n)
    ((List.range 32).map fun l => Store.get 0 g.x (32 * n + l))).flatten ++
  ((List.range 7).map fun n => dirty (g.mxdirty.getLsbD n) (12800 + 4 * n)
    (leBytes 4 (Store.get 0xFFFFFFFF g.m (n + 1)).toNat)).flatten ++
  dirty (g.mxdirty.getLsbD 11) 12832 (((List.range 4).map fun n => leBytes 2 (Store.get 0 g.win n).toNat).flatten) ++
  [(off + 12840, leBytes 8 g.dix.toNat), (off + 12848, freeBytes tag 3536)]

/-- The gangs of a heat, by team. -/
def Heat.allGangs (h : Heat) : List Gang := (h.teams.map (·.gangs)).flatten

/-- Offset of the owner block. -/
def Heat.ownerOff (h : Heat) : Nat := 64 + teamBlock * h.teams.length + 16384 * h.allGangs.length

/-- The granules of a heat's allocations: core and granule, teams in order. -/
def Heat.granules (h : Heat) : List (Nat × Nat) :=
  (h.teams.map fun t => (List.range t.scnt).map fun i => (t.core, t.sbase + i)).flatten

/-- Everything a save writes of the register section. -/
def State.registerWrites (s : State) (h : Heat) : List (Nat × List Byte) :=
  let gangs0 := 64 + teamBlock * h.teams.length
  (((List.range h.teams.length).zip h.teams).map fun it => it.2.blockWrites (2 * it.1) (64 + teamBlock * it.1)).flatten ++
  (((List.range h.allGangs.length).zip h.allGangs).map fun ig => ig.2.blockWrites (2 * ig.1 + 1) (gangs0 + 16384 * ig.1)).flatten ++
  [(h.ownerOff, h.granules.map fun g => (Store.get 0 (s.core g.1).owner g.2).setWidth 8)]

/-! ## The other sections (R292) -/

/-- Entries with their codes, one after the other: each entry's low bits, and the words coded. -/
def coded (es : List (Nat × List Word)) : List Byte :=
  es.foldl (fun acc e =>
    let c := codeOf e.2
    acc ++ leBytes 8 ((acc.length + 8) * 2 ^ 32 + c.length / 8 * 2 ^ 18 + e.1) ++ c) []

/-- The dirty granules of a heat: team, core and granule. -/
def Heat.dirtyGranules (h : Heat) : List (Nat × Nat × Nat) :=
  (((List.range h.teams.length).zip h.teams).map fun it =>
    ((List.range 192).filter fun g => it.2.sdirty.getLsbD g).map fun g => (it.1, it.2.core, g)).flatten

/-- The dirty tiles of a heat: team, cluster and tile. -/
def Heat.dirtyTiles (h : Heat) : List (Nat × Nat × Nat) :=
  (((List.range h.teams.length).zip h.teams).map fun it =>
    ((List.range 24).filter fun n => it.2.adirty.getLsbD n).map fun n => (it.1, clusterOf it.2.core, n)).flatten

/-- The scratch section. -/
def State.scratchSection (s : State) (h : Heat) : List Byte :=
  coded (h.dirtyGranules.map fun g => (g.1 * 2 ^ 8 + g.2.2, wordsOf (s.readScratch g.2.1 (4096 * g.2.2) 4096)))

/-- The accumulator section. -/
def State.tileSection (s : State) (h : Heat) : List Byte :=
  coded (h.dirtyTiles.map fun g => (g.1 * 2 ^ 8 + g.2.2, Store.getRun 0 16384 s.tiles (tileKey g.2.1 g.2.2 0 0)))

/-- The allocated barrier objects of a heat's cores, by crew-relative core. -/
def State.heatBarriers (s : State) (h : Heat) : List (Nat × Store Barrier) :=
  (((List.range h.clusters.length).zip h.clusters).map fun ic => [0, 1, 2, 3].map fun p =>
    (4 * ic.1 + p, (s.core (4 * ic.2 + p)).bars.filter fun b => b.2.alloc)).flatten

/-- Whether a save reads the word at a place of the announcements of R349: 0 scratch, 1 tiles, 2 registers and tables, 3 barrier
objects. -/
def Heat.saves (h : Heat) (kind place : Nat) : Bool :=
  match kind with
  | 0 => h.dirtyGranules.any fun g =>
      decide (scratchKey g.2.1 (4096 * g.2.2) / 8 ≤ place ∧ place < scratchKey g.2.1 (4096 * g.2.2) / 8 + 512)
  | 1 => h.dirtyTiles.any fun g => decide (tileKey g.2.1 g.2.2 0 0 ≤ place ∧ place < tileKey g.2.1 g.2.2 0 0 + 16384)
  | 2 => place / 8192 / 1024 == h.hid
  | _ => h.clusters.contains (clusterOf (place / 1024))

/-- What a save cannot read (R349): the lowest cause of the words that cannot be corrected. -/
def State.saveError (s : State) (h : Heat) : Option Nat :=
  lowest ([(0, 0xF0), (1, 0xF1), (2, 0xF3), (3, 0xF3)].filterMap fun e =>
    if s.uncorrectable e.1 (h.saves e.1) then some e.2 else none)

/-- The single-bit errors that a save corrects (R349). -/
def State.saveCorrected (s : State) (h : Heat) : State := [0, 1, 2, 3].foldl (fun s k => s.corrected k (h.saves k)) s

/-! ## Writing and reading the image (R292, R294, R340) -/

/-- The pages of the windows of a captured record. -/
def Record.named (r : Record) : List (Nat × Nat) :=
  ((r.wins.zip r.pages).map fun wp => (wp.2.filter (·.pres)).map fun p => (p.pa, pageBytes wp.1.psz)).flatten

/-- The records that a command has captured. -/
def CmdBody.records : CmdBody → List Record
  | .heat r _ _ => [r]
  | .graph ns => ns.filterMap (·.heat)
  | _ => []

/-- The physical memory that a window of some heat names (R291): of the heats of the package and of the records captured for
others. -/
def State.namedPages (s : State) : List (Nat × Nat) :=
  let gated := (s.queues.map fun q => (q.2.commands.map (·.body.records)).flatten ++ q.2.launches.map (·.record) ++
    (match q.2.graph with
     | some g => g.nodes.filterMap (·.node.heat)
     | none => [])).flatten
  let mine (h : Heat) : List (Nat × Nat) :=
    (h.teams.map fun t => (t.wins.map fun w => (w.pages.filter (·.pres)).map fun p => (p.pa, w.size)).flatten).flatten
  (s.heats.map mine).flatten ++ (gated.map Record.named).flatten

/-- Where the umpire places the image of a heat (R291, R292): it keeps its place from save to save; a first one goes to one of the
768 pieces of 512 MiB of device memory that no window of a heat names and no other image holds, from a free place on (log 71). -/
def State.imageBase (s : State) (h : Heat) : Nat :=
  match h.image with
  | some base => base
  | none =>
    let taken := s.namedPages ++ s.heats.filterMap fun x => x.image.map fun a => (a, 2 ^ 29)
    let first := Config.imagePlace h.hid % 768
    let places := (List.range 768).map fun i => 2 ^ 29 * ((first + i) % 768)
    (places.find? fun a => !taken.any fun t => spansMeet t (a, 2 ^ 29)).getD (2 ^ 29 * first)

/-- The header of Table 5, SEAL zero. -/
def imageHeader (h : Heat) (halt len scr acc bar : Nat) : List Byte :=
  leBytes 8 (0x5A7E * 2 ^ 48 + 2 ^ 40 + h.teams.length * 2 ^ 30) ++ leBytes 8 (h.heatid.toNat * 2 ^ 32 + (h.checkpoints + 1)) ++
    leBytes 8 halt ++ leBytes 8 len ++ leBytes 8 (64 * 2 ^ 32 + scr) ++ leBytes 8 (acc * 2 ^ 32 + bar) ++ leBytes 8 0 ++ leBytes 8 0

/-- WRITE THE SAVE IMAGE of a heat (R292): what the dirty bits name, every section, the header, and the seal over it
all. -/
def State.writeImage (s : State) (h : Heat) : State × Nat :=
  let base := s.imageBase h
  let bars := (s.heatBarriers h).foldl (fun n b => n + b.2.length) 0
  let scr := roundUp 8 (h.ownerOff + h.granules.length)
  let sec := s.scratchSection h
  let acc := scr + sec.length
  let til := s.tileSection h
  let bar := acc + til.length
  let len := bar + 64 * bars
  let halt := ((h.halt.map (·.2)).getD 0)
  let s1 := (s.registerWrites h).foldl (fun (s : State) w => s.writeHbm (base + w.1) w.2) s
  let s1 := ((s1.writeHbm (base + scr) sec).writeHbm (base + acc) til).writeHbm (base + bar) (freeBytes 4095 (64 * bars))
  let s1 := s1.writeHbm base (imageHeader h halt len scr acc bar)
  (s1.writeHbm (base + 52) (leBytes 4 (crc32c (s1.readHbm base len))), len)

/-- The entries of a coded section: their low bits and codes. Fuel is the section's length. -/
def sectionEntries : Nat → List Byte → List (Nat × List Byte)
  | 0, _ => []
  | n + 1, bs =>
    if bs.length < 8 then []
    else
      let e := qword bs 0
      let len := 8 * bits e 31 18
      (bits e 17 0, (bs.drop 8).take len) :: sectionEntries n (bs.drop (8 + len))

/-- WHAT BREAKS AN IMAGE at its restore (R292, R340): its seal, or its MAGIC, VER or reserved fields. -/
def State.imageBreach (s : State) (h : Heat) : Option Nat :=
  match h.image with
  | none => some 0xA0
  | some base =>
    let bs := s.readHbm base h.imageLen
    let q (j : Nat) : Nat := qword bs j
    if !sealOk bs 52 then some 0xA0
    else if bits (q 0) 63 48 ≠ 0x5A7E ∨ bits (q 0) 47 40 ≠ 1 ∨ bits (q 0) 29 0 ≠ 0 ∨ bits (q 6) 31 0 ≠ 0 ∨ q 7 ≠ 0 then some 0xA1
    else none

/-- READ AN IMAGE'S MEMORIES BACK (R292, R294): granules and tiles as it holds them, zero where it has no entry, and every
owner as at the halt. -/
def State.restoreMemory (s : State) (h : Heat) : State :=
  match h.image with
  | none => s
  | some base =>
    let bs := s.readHbm base h.imageLen
    let q (j : Nat) : Nat := qword bs j
    let part (a b : Nat) : List Byte := (bs.drop a).take (b - a)
    let s := h.teams.foldl (fun s t => s.clearTeam t) s
    let owners := bs.drop h.ownerOff
    let s := ((List.range h.granules.length).zip h.granules).foldl (fun s ig =>
      s.modCore ig.2.1 fun c => { c with owner := Store.set 0 c.owner ig.2.2 ((owners.getD ig.1 0).setWidth 3) }) s
    let scr := bits (q 4) 31 0
    let acc := bits (q 5) 63 32
    let bar := bits (q 5) 31 0
    let s := (sectionEntries bs.length (part scr acc)).foldl (fun (s : State) e => match h.teams[e.1 / 256]? with
      | some t => s.writeScratch t.core (4096 * (e.1 % 256))
          ((decodeWords e.2.length 0 1024 e.2).map fun w => leBytes 4 w.toNat).flatten
      | none => s) s
    (sectionEntries bs.length (part acc bar)).foldl (fun (s : State) e => match h.teams[e.1 / 256]? with
      | some t =>
        let ws := decodeWords e.2.length 0 16384 e.2
        { s with tiles := Store.putRun 0 s.tiles (tileKey (clusterOf t.core) (e.1 % 256) 0 0) ws }
      | none => s) s

/-- The dirty bits after a checkpoint (R85): only those of scratch and tiles stay. -/
def Team.checkpointed (t : Team) : Team :=
  { t with kdirty := 0, gdirty := 0, tdirty := 0, gangs := t.gangs.map fun g => { g with vdirty := 0, mxdirty := 0 } }

end Sys2Proof.Machine
end

