-- ==== Sys2Proof/Machine/Recovery.lean ====
section
/-! DEFINITION. Halting, saving and resuming heats (R289-R295, R320-R327, R335, R336, R350-R353): pre-emption, halts, the quiesce
with its policies, the save, the restore and the resumption of every agent, handler mode, revocation, and the fatal dump. -/
namespace Sys2Proof.Machine

/-! ## Ending a heat early -/

/-- RELEASE A HEAT with a cause (R323, R329): it completes in the current cycle, what it did stands. One that was still armed
never had an anchor. -/
def State.abortHeat (s : State) (hid cause : Nat) : State :=
  (s.modHeat hid fun h =>
    { h with abortCause := cause, status := .quiesced, anchor := if h.status = .armed then 0 else h.anchor }).push s.now 80 (.heatCompletion hid)

/-- Put a step on the agenda under a rank that is already scaled. -/
def State.pushRaw (s : State) (cycle rank : Nat) (ev : Ev) : State :=
  { s with agenda := insertDue { at_ := cycle, rank := rank, seq := s.seq, ev := ev } s.agenda, seq := s.seq + 1 }

/-! ## Pre-emption (R289-R291, R347) -/

/-- Put a code into the mailbox status word (R291, R347; log 72): 1 unknown HEATID, 2 unassigned MODE, 3 a queue's indices. -/
def State.mailStatus (s : State) (code : Nat) : State :=
  { s with mailbox := { s.mailbox with status := Config.statusCode code } }

/-- The heat cycle H at which a pre-empted heat halts (R291): 0 for one that has not started. -/
def Heat.preemptAt (h : Heat) (now : Nat) : Nat := if now + 64 ≤ h.anchor then 0 else roundUp h.rho (now + 64 - h.anchor)

/-- The teams that a MODE 0 request discards (R290). -/
def Heat.discardSet (h : Heat) (H : Nat) : List Nat :=
  let hd := roundUp 8192 H
  (List.range h.teams.length).filter fun i => match h.teams[i]? with
    | some t => t.restart && decide ((H : Int) - t.sigma ≤ 2 * t.saveTime) && decide (hd ≤ h.record.stop / 2)
    | none => false

/-- HALT A HEAT FOR PRE-EMPTION (R290, R291, R320): at H, or earlier where a halt is already pending. What saving it will cost
is told from its progress now. -/
def State.preemptHeat (s : State) (h : Heat) (discards : List Nat) : State :=
  let H := h.preemptAt s.now
  let s := s.modHeat h.hid fun h =>
    { h with
      discards := discards, saveCost := h.saveSum
      halt := match h.halt with
        | some (.haltFlit _, _) => some (.preempt, H)
        | some (k, x) => some (k, min x H)
        | none => some (.preempt, H) }
  s.push (h.anchor + H) 84 (.preemptionHalt h.hid)

/-- Whether the restore of a resuming heat is still to be made. -/
def State.restorePending (s : State) (hid : Nat) : Bool := s.agenda.any fun d => d.ev == .restore hid

/-- A PRE-EMPTION REQUEST (R289, R347): `save` answers the teams to discard, or none to drain. A heat with SCHED = 1 and an
armed heat are drained; a heat that has halted or completed is left alone; one that is resuming is asked again when it runs (log
72); an unknown HEATID sets the mailbox status. -/
def State.preempt (s : State) (heatid : BitVec 32) (save : Heat → Option (List Nat)) : State :=
  match s.heats.find? (fun h => h.heatid == heatid) with
  | none => if heatid = 0 ∨ heatid ≥ s.nextHeatid then s.mailStatus 1 else s
  | some h =>
    if h.status = .restoring ∧ !h.record.sched then s.push (max (s.now + 1) (h.anchor + h.resumeStop)) 84 s.arg
    else if h.record.sched ∨ !(h.status == .scheduled || h.status == .running || h.status == .closing) then s
    else match save h with
      | none => s
      | some ds => s.preemptHeat h ds

/-- PREEMPT_ESTIMATE (R290): the heat drains when that fits the deadline; otherwise its teams are discarded or saved. -/
def execPreemptEstimate (s : State) : Host.Outcome State Fault Refusal :=
  match s.arg with
  | .preemptEstimate heatid deadline =>
    .next (s.preempt heatid fun h =>
      if h.anchor + h.record.stop + 1024 ≤ s.named deadline.toNat then none else some (h.discardSet (h.preemptAt s.now)))
  | _ => .fault .noData

/-- PREEMPT_SAVE (R289): every team is saved. -/
def execPreemptSave (s : State) : Host.Outcome State Fault Refusal :=
  match s.arg with
  | .preemptSave heatid _ => .next (s.preempt heatid fun _ => some [])
  | _ => .fault .noData

/-- PREEMPT_DRAIN (R289): the heat runs on. -/
def execPreemptDrain (s : State) : Host.Outcome State Fault Refusal :=
  match s.arg with
  | .preemptDrain heatid _ => .next (s.preempt heatid fun _ => none)
  | _ => .fault .noData

/-- PREEMPTION_REQUEST_UNASSIGNED (R347): ignored; the mailbox status is set. -/
def execPreemptionRequestUnassigned (s : State) : Host.Outcome State Fault Refusal :=
  match s.arg with
  | .preemptionRequestUnassigned _ _ => .next (s.mailStatus 2)
  | _ => .fault .noData

/-! ## Policies (R323, R327 Table 3) -/

/-- The default policy of a cause: 0 H, 1 A, 2 S, 3 F. -/
def defaultPolicy (cause : Nat) : Nat :=
  if cause = 0x10 then 0
  else if [0x61, 0x63, 0x65, 0x84, 0x88, 0x89, 0x8A, 0x8F, 0x91, 0xE0, 0xE1, 0xE2, 0xE3, 0xF0, 0xF1, 0xF2, 0xF3, 0xFA].contains cause
    then 2
  else if [0xF4, 0xF5, 0xF6, 0xFF].contains cause then 3
  else 1

/-- THE POLICY of a fault (R323): the queue's, or the default; causes from 0xE0 on always take their default; H without a
handler, or for SRC 6-8, acts as A. -/
def State.policyOf (s : State) (h : Heat) (d : Detect) : Nat :=
  let x := Store.get 0 (s.queue h.queue).policies d.cause
  let p := if d.cause ≥ 0xE0 ∨ x = 0 then defaultPolicy d.cause else x - 1
  if p = 0 ∧ ((s.queue h.queue).hentry = 0 ∨ (6 ≤ d.src ∧ d.src ≤ 8)) then 1 else p

/-- POLICY_SET (R323): the driver sets a policy, and the handler entry where it gives one. -/
def execPolicySet (s : State) : Host.Outcome State Fault Refusal :=
  match s.arg with
  | .policySet q cause pol hentry =>
    .next (s.modQueue q fun x =>
      { x with
        policies := if 1 ≤ cause ∧ cause ≤ 0xDF then Store.set 0 x.policies cause (1 + pol.toNat) else x.policies
        hentry := hentry.getD x.hentry })
  | _ => .fault .noData

/-! ## Halts (R291, R320, R351, R355) -/

/-- STOP ISSUING at the halt cycle (R291, R320): from here the heat is halted. One that is resuming halts once it is restored
(R355). -/
def State.beginHalt (s : State) (hid : Nat) : State :=
  match s.heat? hid with
  | none => s
  | some h =>
    let due : Bool := match h.halt with
      | some (.regatta, _) => true
      | some (_, x) => decide (h.anchor + x ≤ s.now)
      | none => false
    let going := h.status = .running ∨ h.status = .closing ∨ h.status = .scheduled ∨
      (h.status = .restoring ∧ !s.restorePending hid)
    if going ∧ due then
      (s.modHeat hid fun h => { h with status := .halting }).afterCounter hid
    else s

/-- PREEMPTION_HALT (R291). -/
def execPreemptionHalt (s : State) : Host.Outcome State Fault Refusal :=
  match s.arg with
  | .preemptionHalt hid => .next (s.beginHalt hid)
  | _ => .fault .noData

/-- The 32 bytes of a regatta control message (R355, Table 2). -/
def regattaPayload (sub cause ph arg ini : Nat) : List Byte :=
  leBytes 8 (sub + 256 * cause) ++ leBytes 8 ph ++ leBytes 8 arg ++ leBytes 8 (ini % 2 ^ 17)

/-- Send a management message on every trained port but one, with TTL 255 (R355). -/
def State.flood (s : State) (payload : List Byte) (notOn : Option Nat) : State :=
  (List.range 16).foldl (fun (s : State) p =>
    if (s.port p).trained ∧ notOn ≠ some p then s.sendOn p { s.newMsg 4 0x1FFFF 0x7FFE payload with ttl := 255 } else s) s

/-- Send a regatta control message to a package (R355, R356). -/
def State.sendControl (s : State) (pkg : Nat) (payload : List Byte) : State :=
  s.sendRouted (s.newMsg 4 (BitVec.ofNat 17 pkg) 0x7FFE payload)

/-- FAULT_HALT (R320, R324, R355): the heat stops; a SCHED = 1 heat whose fault takes policy H or S begins a regatta halt. -/
def execFaultHalt (s : State) : Host.Outcome State Fault Refusal :=
  match s.arg with
  | .faultHalt hid =>
    match s.heat? hid with
    | none => .next s
    | some h =>
      let s := match h.fault with
        | some d =>
          let p := s.policyOf h d
          if h.record.sched ∧ s.regatta.member ∧ (p = 0 ∨ p = 2) then
            s.push s.now 44 (.halt s.pkgNo.toNat d.cause (roundUp 8192 (h.anchor + h.faultAt + s.regatta.haltLead)) none)
          else s
        | none => s
      .next (s.beginHalt hid)
  | _ => .fault .noData

/-! ## Stop points (R351) -/

/-- The stack cycle at which a faulted global access is replayed: the earliest of the lanes that did not pass. -/
def GlobalOp.replayAt (o : GlobalOp) : Nat :=
  if o.isRecord then (o.lanes.headD (beatLane 0)).s
  else match (o.lanes.filter fun l => !l.ok).map (·.s) with
    | [] => o.issue
    | x :: r => r.foldl min x

/-- The record read of an `xfer` that is still to come. -/
def State.recordOp (s : State) (id : Nat) : Option GlobalOp := s.gops.find? fun o => o.kind == .xferRec && o.n == id

/-- The heat cycle from which a faulted or held command is repeated (R336, R351): the first beat of its first incomplete
iteration, its start, the stack cycle of its record, or its DONE. -/
def State.cmdReplayAt (s : State) (c : EngCmd) : Nat :=
  match c.body with
  | .xcp b => if c.held then c.start else c.start + (b.walk c.cluster (c.iter * b.rows)).1
  | .xfer .. => (match c.shape with
    | some r => r.done
    | none => ((s.recordOp c.id).map (·.replayAt)).getD c.start)
  | _ => c.start

/-- Whether a heat's fault names some quads of a gang. -/
def Heat.namesGroup (h : Heat) (ti gi : Nat) (quads : BitVec 8) : Bool :=
  match h.fault with
  | some d => d.src == 0 && d.team == ti && d.gang == gi && BitVec.ofNat 8 d.qmask &&& quads != 0
  | none => false
/-- Whether it names a team's cox (R317: an engine's fault names the commanding cox). -/
def Heat.namesCox (h : Heat) (ti : Nat) : Bool :=
  match h.fault with
  | some d => decide (1 ≤ d.src ∧ d.src ≤ 5) && d.team == ti
  | none => false

/-- The heat cycle at which the heat halts as a whole: its H, Hf or PH. -/
def Heat.haltCyc (h : Heat) : Nat := (h.halt.map (·.2)).getD 0

/-- THE STOP POINT OF A STREAM (R351, Table 1): f for the one named; for another that of the halt on its core, or the stop point
that it has yet to resume from. A secondary detection moves none. -/
def Heat.streamStop (h : Heat) (t : Team) (named : Bool) (resume : Option (Nat × Bool)) : Nat :=
  if named then h.faultAt
  else max ((h.stopAt t.core).getD h.haltCyc) ((resume.map fun x => x.1 + t.shift).getD 0)

/-- The stop points of a team's streams. -/
def Heat.teamStops (h : Heat) (ti : Nat) (t : Team) : List (StopAgent × Nat) :=
  (((List.range t.gangs.length).zip t.gangs).map fun ig => if ig.2.retired then [] else ig.2.groups.map fun gr =>
    (StopAgent.gang ti ig.1 gr.quads, h.streamStop t (h.namesGroup ti ig.1 gr.quads) gr.resume)).flatten ++
  (if t.cox.retired then [] else [(StopAgent.cox ti, h.streamStop t (h.namesCox ti) t.cox.resume)])

/-- Whether a stop point is a flow entry's. -/
def flowStop (x : StopAgent × Nat) : Bool :=
  match x.1 with
  | .flow _ => true
  | _ => false

/-- THE STOP POINTS of a halted heat (R351, Table 1), in heat cycles. Discarded teams have none (R295). -/
def State.stopPoints (s : State) (h : Heat) : List (StopAgent × Nat) :=
  let shift (ti : Nat) : Nat := ((h.teams[ti]?).map (·.shift)).getD 0
  let its := ((List.range h.teams.length).zip h.teams).filter fun it => !h.discards.contains it.1
  let streams := its.map fun it => h.teamStops it.1 it.2
  let accs := (s.gops.filter fun o => o.hid == h.hid && o.hot).map fun o => (StopAgent.access o.id, o.replayAt + shift o.team)
  let scr := ((List.range h.hot.length).zip h.hot).filterMap fun nx =>
    if nx.2.2.lanes = [] then none else some (StopAgent.scratch nx.1, nx.2.1 + shift nx.2.2.g.team)
  let cmds := (s.cmds.filter fun c => c.hid == h.hid && (c.failed.isSome || c.held)).map fun c =>
    (StopAgent.command c.id, s.cmdReplayAt c + shift c.team)
  let kept := h.stops.filter flowStop
  let flows := h.flowList.filterMap fun ie =>
    if (ie.2.role = 0 ∨ ie.2.role = 2) ∧ !(kept.any fun x => x.1 == .flow ie.1)
    then some (StopAgent.flow ie.1, (h.stopOn (dieOfPort ie.2.port)).getD h.haltCyc) else none
  streams.flatten ++ accs ++ scr ++ cmds ++ kept ++ flows

/-- Smin (R294): the least stop point. -/
def leastStop (h : Heat) (ps : List (StopAgent × Nat)) : Nat :=
  match ps.map (·.2) with
  | [] => h.haltCyc
  | x :: r => r.foldl min x

/-- Whether a step of the agenda belongs to the schedule of a heat and waits with it while it is halted (R352). -/
def Heat.waits (h : Heat) (e : Ev) : Bool :=
  match e with
  | .spanEnd g _ => g.hid == h.hid
  | .rejoinMerge g => g.hid == h.hid
  | .twaitDeadline r => r.hid == h.hid
  | .coxBwtDeadline r => r.hid == h.hid
  | .csyncSessionOpen hid _ _ _ => hid == h.hid
  | .landingNotReceived core _ => h.clusters.contains (clusterOf core)
  | .endCheck hid => hid == h.hid
  | _ => false

/-- Whether a step resumes an agent of a heat. -/
def resumesOf (hid : Nat) (e : Ev) : Bool :=
  match e with
  | .agentResume x _ => x == hid
  | _ => false

/-- Whether a step of the schedule belongs to a team that is discarded (R295): it never comes. -/
def Heat.discarded (h : Heat) (e : Ev) : Bool :=
  match e with
  | .spanEnd g _ => h.discards.contains g.team
  | .rejoinMerge g => h.discards.contains g.team
  | .twaitDeadline r => h.discards.contains r.team
  | .coxBwtDeadline r => h.discards.contains r.team
  | _ => false

/-- TAKE A HALTED HEAT'S SCHEDULE OFF THE AGENDA and record its stop points (R351, R352). A discarded team is to start again
shifted by Hd, the first multiple of 8,192 at or after H (R290, R295). -/
def State.freezeHeat (s : State) (h : Heat) : State :=
  let mine := s.agenda.filter fun d => h.waits d.ev && !h.discarded d.ev
  let ps := s.stopPoints h
  let s : State := s.cancel fun e => h.waits e || resumesOf h.hid e
  let s := s.modHeat h.hid fun h =>
    { h with
      status := .quiesced, stops := ps, resumeStop := leastStop h ps
      parked := (h.parked.filter fun d => !h.discarded d.ev) ++ mine.map fun d => { d with at_ := d.at_ - h.anchor } }
  h.discards.foldl (fun s ti => s.modTeam ⟨h.hid, ti⟩ fun t => { t with shift := roundUp 8192 h.haltCyc }) s

/-- The first iteration of a copy whose destination writes have not all performed (R336): those credited, and those that only wait
for their credit. -/
def EngCmd.firstOpen (c : EngCmd) : Nat :=
  c.iter + (((List.range c.left.length).map fun i => Store.get 0 c.left (c.iter + i)).takeWhile (· == 1)).length

/-- The iteration vector of a faulted copy as it stands at Q (R336). -/
def State.finalIter (s : State) (h : Heat) (d : Detect) : Detect :=
  match s.cmds.find? (fun c => c.hid == h.hid && c.team == d.team && 2 + c.eng == d.src && c.eseq == d.eseq && c.failed.isSome) with
  | some c => (match c.body with
    | .xcp b => { d with iter := b.vector (c.firstOpen * b.rows) }
    | _ => d)
  | none => d

/-- APPEND A TRAP RECORD to the fault log, in the umpire's memory and where the driver asked for it (R322). -/
def State.logTrap (s : State) (h : Heat) : State :=
  let ws := (List.range 64).map fun i => Store.get 0 h.trap i
  let n := s.faultLog.length
  let s : State := { s with faultLog := s.faultLog ++ [ws] }
  match s.mailbox.logBase with
  | some a => s.writeHbm (a.toNat + 256 * n) (ws.map fun w => leBytes 4 w.toNat).flatten
  | none => s

/-- Fill in the trap record by Q (R322), and note a fault of a revocation in the mailbox (R335). -/
def State.closeTrap (s : State) (hid : Nat) : State :=
  match s.heat? hid with
  | none => s
  | some h =>
    match h.fault with
    | none => s
    | some d0 =>
      let d := s.finalIter h d0
      let tr := trapWords d h h.nsec h.faultAt h.haltCyc
      let s := s.modHeat hid fun h => { h with trap := tr }
      let s : State := if d.cause = 0x65 then { s with mailbox := { s.mailbox with revokeFault := true } } else s
      s.logTrap { h with trap := tr }

/-! ## The fatal dump (R350) -/

/-- The bytes of the fatal dump (R350, Table 6), SEAL zero. The cluster blocks have no layout in the spec: free bytes
(log 70). -/
def State.dumpBytes (s : State) (cause : Nat) : List Byte :=
  let traps := (s.heats.filter fun h => h.trap ≠ []).map fun h =>
    ((List.range 64).map fun i => leBytes 4 (Store.get 0 h.trap i).toNat).flatten
  let clus := 64 + 256 * traps.length
  let cnt := clus + 4096 * 96
  let len := cnt + 128
  leBytes 8 (0xF4D1 * 2 ^ 48 + 2 ^ 40 + cause * 2 ^ 32 + traps.length * 2 ^ 10) ++ leBytes 8 s.now ++ leBytes 8 s.ready.word ++
    leBytes 8 clus ++ leBytes 8 cnt ++ leBytes 8 0 ++ leBytes 8 0 ++ leBytes 8 len ++ traps.flatten ++
    freeBytes 4096 (4096 * 96) ++
    ((List.range 16).map fun i => leBytes 8 (s.readCounter i).toNat).flatten

/-- The coordinator (R356): the initiator with the lowest package number. -/
def Regatta.coordinator (r : Regatta) : Option Nat :=
  match r.initiators with
  | [] => none
  | x :: xs => some (xs.foldl min x)

/-- TELL THE COORDINATOR (R355, R356) that the package is halted: ready from a pod cycle on, or leaving. -/
def State.tellHalted (s : State) (cause arg : Nat) : State :=
  match s.regatta.ph, s.regatta.coordinator with
  | some ph, some c =>
    if c = s.pkgNo.toNat then s.push s.now 44 (.halted s.pkgNo.toNat cause arg ph c)
    else s.sendControl c (regattaPayload 0x21 cause ph arg c)
  | _, _ => s

/-- THE FATAL DUMP (R350, R356): every heat is aborted in this cycle, FE clears, the dump is written, the package leaves its
regatta and says so to a coordinator that waits; cause 0xF5 then removes core clocks. -/
def State.fatalDump (s : State) (cause : Nat) : State :=
  let a := ((s.mailbox.dumpBase.map (·.toNat)).getD 0x005FFF000000)
  let bs := s.dumpBytes cause
  let bs := bs.take 60 ++ leBytes 4 (crc32c bs) ++ bs.drop 64
  let s := s.heats.foldl (fun (s : State) h => s.abortHeat h.hid cause) s
  let s : State := (s.writeHbm a bs).tellHalted 1 0
  { s with
    ready := { s.ready with fe := false }, fatal := some cause, clockOff := s.clockOff || cause == 0xF5
    regatta := { s.regatta with member := false } }

/-- A FATAL CAUSE (R327): detected in every heat that runs, whose policy F then acts; with none running the dump is taken
at once. -/
def State.raiseFatal (s : State) (cause : Nat) : State :=
  match s.heats.filter (·.live) with
  | [] => s.fatalDump cause
  | hs => hs.foldl (fun (s : State) h => s.detect (Detect.blank h.hid (externalRank 0 cause) cause 8)) s

/-- DIE_OVERTEMP (R308, R327). -/
def execDieOvertemp (s : State) : Host.Outcome State Fault Refusal :=
  match s.arg with
  | .dieOvertemp _ => .next (s.raiseFatal 0xF5)
  | _ => .fault .noData
/-- DIE_BRIDGE_ERROR (R9, R327). -/
def execDieBridgeError (s : State) : Host.Outcome State Fault Refusal :=
  match s.arg with
  | .dieBridgeError => .next (s.raiseFatal 0xF4)
  | _ => .fault .noData
/-- FIRMWARE_WATCHDOG (R327). -/
def execFirmwareWatchdog (s : State) : Host.Outcome State Fault Refusal :=
  match s.arg with
  | .firmwareWatchdog => .next (s.raiseFatal 0xF6)
  | _ => .fault .noData
/-- MACHINE_CHECK (R327). -/
def execMachineCheck (s : State) : Host.Outcome State Fault Refusal :=
  match s.arg with
  | .machineCheck => .next (s.raiseFatal 0xFF)
  | _ => .fault .noData

/-! ## The regatta's reports (R355, R356) -/

/-- Whether a step of the agenda still moves a halted heat: its policy, its handler or its completion. -/
def actsOn (hid : Nat) (e : Ev) : Bool :=
  e == .heatCompletion hid || e == .quiesce hid || e == .handlerEntry hid

/-- Whether every SCHED = 1 heat of the package has come to rest (R356): saves, handlers and dumps have finished. -/
def State.regattaSettled (s : State) : Bool :=
  s.heats.all fun h => !h.record.sched || h.status == .saved || h.status == .armed ||
    (h.status == .quiesced && !s.agenda.any fun d => actsOn h.hid d.ev)

/-- The pod cycle from which every halted heat can be restored when all resume by one shift (R356). -/
def State.restorableFrom (s : State) (ph : Nat) : Nat :=
  (s.heats.filter fun h => h.record.sched && (h.status == .saved || h.status == .quiesced)).foldl
    (fun m h => max m (s.now + 2800 + h.saveCost + (ph - (h.anchor + h.resumeStop)))) s.now

/-- REPORT TO THE COORDINATOR once every save, handler and dump has finished (R356). -/
def State.reportHalted (s : State) : State :=
  match s.regatta.ph with
  | some ph =>
    if s.regatta.halted ∧ s.regattaSettled ∧ !(s.regatta.reported.any fun r => r.1 == s.pkgNo.toNat) then
      let arg := s.restorableFrom ph
      ({ s with regatta := { s.regatta with reported := s.regatta.reported ++ [(s.pkgNo.toNat, false, arg)] } } : State).tellHalted 0
        arg
    else s
  | none => s

/-! ## The quiesce and its policies (R291, R321, R323-R325) -/

/-- Whether a step lands a result of an operation of the heat that was issued before the halt (R291, R321). -/
def State.landsFor (s : State) (hid : Nat) (e : Ev) : Bool :=
  let ofOp (op : Nat) : Bool := match s.gop? op with
    | some o => o.hid == hid
    | none => false
  match e with
  | .laneResult g _ => g.hid == hid
  | .scratchLoadDelivery g _ => g.hid == hid
  | .sndLanding _ g _ => g.hid == hid
  | .coxResult t _ => t.hid == hid
  | .globalLoadDelivery op _ => ofOp op
  | .globalStoreCompletion op => ofOp op
  | .atomicResult op _ => ofOp op
  | .tloadCompletion op => ofOp op
  | .gsetMemCompletion op => ofOp op
  | .flitLanding x _ _ _ => x == hid
  | .collectiveFold x _ _ _ => x == hid
  | _ => false

/-- The cycle of the last such landing: every operation issued before the halt completes at its architected cycle (R291,
R321), so the image holds its result. -/
def State.lastLanding (s : State) (hid : Nat) : Nat :=
  (s.agenda.filter fun d => s.landsFor hid d.ev).foldl (fun m d => max m d.at_) s.now

/-- SAVE A HEAT from now (R291, R349): its image performs at a cycle of the device's choice within the bound, once the
operations issued before the halt have completed; a word that cannot be corrected aborts the heat instead. What it costs was told
when its pre-emption was accepted (R290), or is told now. -/
def State.startSave (s : State) (h : Heat) : State :=
  match s.saveError h with
  | some cause => s.abortHeat h.hid cause
  | none =>
    let cost := match h.halt with
      | some (.preempt, _) => h.saveCost
      | _ => h.saveSum
    let x := (s.saveCorrected h).choose (s.lastLanding h.hid + 1) (s.now + cost + 4096)
    (x.2.modHeat h.hid fun h => { h with status := .saving, saveCost := cost }).push x.1 46 (.saveComplete h.hid)

/-- Whether a heat halted for pre-emption has meanwhile become complete (R61). -/
def State.completeAtHalt (s : State) (h : Heat) : Bool := h.allRetired && s.quiet h && s.msgQuiet h

/-- THE POLICY ACTS on a quiesced heat (R291, R323-R325, R355). A heat halted by the regatta, or with SCHED = 1 by a halt flit,
waits for RESUME. -/
def State.actPolicy (s : State) (h : Heat) : State :=
  match h.fault with
  | some d =>
    (match s.policyOf h d with
     | 0 => s.push (s.now + 256) 46 (.handlerEntry h.hid)
     | 2 => s.startSave h
     | 3 => s.fatalDump d.cause
     | _ => s.abortHeat h.hid d.cause)
  | none => match h.halt with
    | some (.preempt, _) =>
      if s.completeAtHalt h then (s.modHeat h.hid fun h => { h with status := .closing }).push s.now 80 (.heatCompletion h.hid)
      else s.startSave h
    | some (.haltFlit _, _) => if h.record.sched then s.reportHalted else s.startSave h
    | _ => s.reportHalted

/-- The cycle before which a fault's policy may not act (R324): the halt of the regatta, for H and S with SCHED = 1. -/
def State.policyFrom (s : State) (h : Heat) : Nat :=
  match h.fault with
  | some d =>
    let p := s.policyOf h d
    if h.record.sched ∧ (p = 0 ∨ p = 2) then s.regatta.ph.getD s.now else s.now
  | none => s.now

/-- QUIESCE (R319, R321): the cycle's detections are taken first; at Q the heat's schedule is frozen, its trap record is complete
and logged, and the policy acts, or waits for the regatta's halt. A fault's policy saves every team (R320). -/
def execQuiesce (s : State) : Host.Outcome State Fault Refusal :=
  match s.arg with
  | .quiesce hid =>
    let s := s.settle
    match s.heat? hid with
    | none => .next s
    | some h =>
      if h.status = .quiesced ∧ h.abortCause = 0 then .next (s.actPolicy h)
      else if h.status ≠ .halting ∨ !s.quiet h then .next s
      else
        let s := (s.closeTrap hid).modHeat hid fun h => { h with discards := if h.fault.isSome then [] else h.discards }
        match s.heat? hid with
        | none => .next s
        | some h =>
          let s := s.freezeHeat h
          match s.heat? hid with
          | none => .next s
          | some h =>
            let from' := s.policyFrom h
            if from' > s.now then .next (s.push from' 85 (.quiesce hid)) else .next (s.actPolicy h)
  | _ => .fault .noData

/-! ## Saving (R282, R285, R291, R292) -/

/-- The completion or notice of a heat (R282). -/
def State.heatRecord (s : State) (h : Heat) (cause kind : Nat) : Completion :=
  let x := h.exits
  { tag := s.tagOf h, heatid := h.heatid.toNat, anchor := h.anchor, charge := h.charge, cause := cause, kind := kind
    exit0 := x.1, exitMax := x.2.1, xteam := x.2.2 }

/-- A heat that leaves its clusters, as the governor still sees it (R43). One released before it had an anchor drew nothing. -/
def State.leaves (s : State) (h : Heat) : State :=
  if h.anchor = 0 then s else { s with spent := s.spent ++ [{ record := h.record, anchor := h.anchor, ended := s.now }] }

/-- SAVE_COMPLETE (R85, R282, R285, R291, R292): the image has performed; barrier objects, landing registers and counts go
with it, the cores are freed, the notice is written, and the heat waits at the head of its queue. -/
def execSaveComplete (s : State) : Host.Outcome State Fault Refusal :=
  match s.arg with
  | .saveComplete hid =>
    match s.heat? hid with
    | none => .next s
    | some h =>
      if h.status ≠ .saving then .next s
      else
        let w := s.writeImage h
        let base := s.imageBase h
        let cores := (((List.range h.clusters.length).zip h.clusters).map fun ic => [0, 1, 2, 3].map fun p =>
          (4 * ic.1 + p, 4 * ic.2 + p)).flatten
        let lands := cores.filterMap fun c => (s.core c.2).landing.map fun l => (c.1, l)
        let msgs := cores.foldl (fun m c => Store.set 0 m c.1 (s.core c.2).msg) ([] : Store Nat)
        let s1 := ((w.1.settleCharge hid).freeCores h).leaves h
        let s1 := s1.modHeat hid fun x =>
          { x with
            status := .saved, away := true, barsAway := s.heatBarriers h, landAway := lands, msgAway := msgs
            checkpoints := h.checkpoints + 1, image := some base, imageLen := w.2, prov := 0
            teams := h.teams.map (·.checkpointed) }
        let s1 : State :=
          { s1 with mailbox := { s1.mailbox with imageAt := BitVec.ofNat 48 base, imageHeat := h.heatid } }
        let s1 := (s1.modQueue h.queue fun q => { q with saves := q.saves ++ [hid] }).tick 10 0 1
        match s1.heat? hid with
        | some x => .next ((s1.writeNotice h.queue h.origin.irq (s1.heatRecord x ((h.fault.map (·.cause)).getD 0) 1)).reportHalted)
        | none => .next s1
  | _ => .fault .noData

/-! ## Resuming (R294, R295, R352) -/

/-- Change a core number for a heat that moves from some clusters to others (R294). -/
def moveCore (old new : List Nat) (core : Nat) : Nat :=
  match old.findIdx? (· == clusterOf core) with
  | some i => 4 * new.getD i (clusterOf core) + core % 4
  | none => core

/-- The same for a cluster. -/
def moveCluster (old new : List Nat) (cl : Nat) : Nat := clusterOf (moveCore old new (4 * cl))

/-- The same for what a detection names. -/
def moveDetect (mv : Nat → Nat) (d : Detect) : Detect :=
  if d.src ≤ 1 then { d with core := mv d.core, rank := d.rank - 34 * d.core + 34 * mv d.core }
  else { d with core := mv d.core, rank := if d.src ≤ 5 then engineRank (clusterOf (mv d.core)) (d.src - 2) else d.rank }

/-- MOVE A HEAT to equal clusters (R294): its teams keep their positions within the cluster. -/
def State.moveHeat (s : State) (h : Heat) (new : List Nat) : State :=
  let mv := moveCore h.clusters new
  let mc := moveCluster h.clusters new
  let key (st : Store Nat) : Store Nat := st.foldl (fun acc e => Store.set 0 acc (4 * mc (e.1 / 4) + e.1 % 4) e.2) []
  let ev (e : Ev) : Ev := match e with
    | .csyncSessionOpen x cl m t => .csyncSessionOpen x (mc cl) m t
    | .landingNotReceived c st => .landingNotReceived (mv c) st
    | e => e
  let s := s.modHeat h.hid fun h =>
    { h with
      clusters := new
      teams := h.teams.map fun t => { t with core := mv t.core }
      sessions := h.sessions.map fun x => (mc x.1, x.2)
      csyncs := h.csyncs.map fun x => (mc x.1, x.2)
      engFree := key h.engFree, engDone := key h.engDone
      hot := h.hot.map fun x => (x.1, { x.2 with core := mv x.2.core, blame := moveDetect mv x.2.blame })
      parked := h.parked.map fun d => { d with ev := ev d.ev } }
  { s with
    gops := s.gops.map fun o => if o.hid = h.hid then { o with core := mv o.core, blame := moveDetect mv o.blame } else o
    cmds := s.cmds.map fun c =>
      if c.hid = h.hid then { c with core := mv c.core, cluster := mc c.cluster, blame := moveDetect mv c.blame } else c }

/-- BEGIN TO RESUME A HEAT at a new anchor (R285, R294, R352, R356): it holds its clusters again, its queue is charged for END -
Smin, and the marshals restore it at a cycle of their choice before its first stop point, or at once where that has passed. -/
def State.beginRestore (s : State) (h : Heat) (clusters : List Nat) (a : Nat) : State :=
  let s := if clusters = h.clusters then s else s.moveHeat h clusters
  let prov : Int := (h.record.nclus : Int) * ((h.record.stop : Int) - h.resumeStop)
  let s := s.modHeat h.hid fun x =>
    { x with
      status := .restoring, anchor := a, rxBase := x.rxBase + a - h.anchor, halt := none, dieHalt := []
      chargeFrom := if h.away then a + h.resumeStop else x.chargeFrom
      prov := if h.away then prov else x.prov }
  let s := if h.away then s.modQueue h.queue fun q =>
      { q with deficit := q.deficit - prov, saves := q.saves.filter (· ≠ h.hid) } else s
  let s := if h.away ∧ h.record.flows ≠ [] then s.armBanks h.record (a / 8192) else s
  let x := s.choose s.now (a + h.resumeStop - 1)
  x.2.push x.1 46 (.restore h.hid)

/-- The anchor at which a halted heat could resume on its own, and its clusters (R42, R294): where it is saved, with admission's
other checks. -/
def State.resumeAnchor (s : State) (h : Heat) : Option (List Nat × Nat) :=
  let lo := s.now + 2800 + h.saveCost - h.resumeStop
  let others : State := { s with heats := s.heats.filter fun x => x.hid ≠ h.hid }
  let r : Record := if h.record.place then h.record else { h.record with clusters := h.clusters }
  if h.away then
    if (r.sched && s.regatta.halted) || s.grainsMeet r || s.flowsMeet r then none
    else match s.place? r, others.anchorFrom r lo h.resumeStop with
      | some cl, some a => if r.flows == [] || s.switchFree r (a / 8192) then some (cl, a) else none
      | _, _ => none
  else (others.anchorFrom r lo h.resumeStop).map fun a => (h.clusters, a)

/-- PUT A HEAT'S STREAMS BEFORE THEIR STOP POINTS (R352): none issues until it resumes, and then not before its stop point. The
one named by the fault goes on at RET where it stopped before an instruction. -/
def Heat.holdStreams (h : Heat) : Heat :=
  let atRet : Bool := match h.fault with
    | some d => d.res
    | none => false
  let point (a : StopAgent) (t : Team) (named : Bool) (was : Option (Nat × Bool)) : Option (Nat × Bool) :=
    (h.stops.find? fun x => x.1 == a).map fun x => (x.2 - t.shift, (named && atRet) || (was.map (·.2)).getD false)
  { h with teams := ((List.range h.teams.length).zip h.teams).map fun it =>
      { it.2 with
        gangs := ((List.range it.2.gangs.length).zip it.2.gangs).map fun ig =>
          { ig.2 with groups := ig.2.groups.map fun gr =>
              let p := point (.gang it.1 ig.1 gr.quads) it.2 (h.namesGroup it.1 ig.1 gr.quads) gr.resume
              { gr with stopped := p.map (·.1), resume := p } }
        cox :=
          let p := point (.cox it.1) it.2 (h.namesCox it.1) it.2.cox.resume
          { it.2.cox with stopped := p.map (·.1), resume := p } } }

/-- Send the stream that stopped before an instruction, or at a trap, to RET (R322, R326, R352). -/
def Heat.applyRet (h : Heat) : Heat :=
  match h.fault with
  | none => h
  | some d =>
    let ret := (Store.get 0 h.trap 7).toNat + 2 ^ 32 * (Store.get 0 h.trap 8).toNat
    if !d.res then h
    else if d.src = 0 then h.modTeam d.team fun t =>
      { t with gangs := modifyNth t.gangs d.gang fun g =>
          { g with groups := g.groups.map fun gr =>
              if gr.quads.toNat = d.qmask then { gr with clause := none, pc := ret % 2 ^ 56, branched := true } else gr } }
    else h.modTeam d.team fun t =>
      { t with cox := { t.cox with clause := none, pc := ret % 2 ^ 56, branched := true } }

/-- START A DISCARDED TEAM AGAIN (R295): as at heat start, under its windows as they now stand, its memory zeroed and the landing
areas of its flows given back to fabric (R112), its barriers freed, shifted by Hd. Its atomics and engine commands count on (R125,
R322). -/
def State.restartTeam (s : State) (h : Heat) (ti : Nat) : State :=
  match s.team? ⟨h.hid, ti⟩, h.record.teams[ti]? with
  | some t, some e =>
    let fresh : Team := { Team.start e t.core t.wins h.args with shift := t.shift, atomSeq := t.atomSeq }
    let s := (s.modHeat h.hid fun h => h.modTeam ti fun _ => fresh).clearTeam fresh
    let s := s.landingOwners { h with record := { h.record with flows := h.record.flows.filter fun e => e.team == ti } }
    s.modCore t.core fun c =>
      { c with bars := c.bars.foldl (fun acc b =>
          Store.set Barrier.init acc b.1 (if b.2.alloc ∧ b.2.team = ti then b.2.free else b.2)) [] }
  | _, _ => s

/-- BRING BACK what a saved heat left with its image (R292): barrier objects with their GEN, landing registers, MSG, and the
arrivals that came meanwhile. -/
def State.bringBack (s : State) (h : Heat) : State :=
  let core (rel : Nat) : Nat := (h.coreAt rel).getD 0
  let s := h.barsAway.foldl (fun (s : State) e => s.modCore (core e.1) fun c =>
    { c with bars := Store.setAll Barrier.init c.bars e.2 }) s
  let s := h.landAway.foldl (fun (s : State) e => s.modCore (core e.1) fun c => { c with landing := some e.2 }) s
  let s := h.msgAway.foldl (fun (s : State) e => s.modCore (core e.1) fun c => { c with msg := e.2 }) s
  h.lateAcks.foldl (fun (s : State) e => s.barChange (core e.1) e.2 0 0 1 true
    { Detect.blank h.hid (streamRank (core e.1) 0 16) 0 1 with core := core e.1 }) s

/-- Put every agent's resumption and the schedule's own steps back on the agenda (R352). The first step, at A′ + Smin, names
no entry (a record has at most 4,095): with it the heat itself runs again. -/
def State.thawHeat (s : State) (h : Heat) : State :=
  let s := s.push (max s.now (h.anchor + h.resumeStop)) 9 (.agentResume h.hid (.flow 4096))
  let s := h.stops.foldl (fun (s : State) x => s.push (max s.now (h.anchor + x.2)) 9 (.agentResume h.hid x.1)) s
  h.parked.foldl (fun (s : State) d => s.pushRaw (max s.now (h.anchor + d.at_)) d.rank d.ev) s

/-- A RESUMED HEAT MISSES ITS ANCHOR (R337): by its queue's policy for 0x88 it goes back to waiting with its image, or is saved where
it stands; it is aborted; or the dump is taken. One with SCHED = 1 begins a regatta halt before it is saved (R324, log 66). -/
def State.missAnchor (s : State) (h : Heat) : State :=
  match s.policyOf h { Detect.blank h.hid (externalRank 0 0x88) 0x88 8 with core := 0 } with
  | 2 =>
    let s := if h.record.sched ∧ s.regatta.member then
        s.push s.now 44 (.halt s.pkgNo.toNat 0x88 (roundUp 8192 (s.now + s.regatta.haltLead)) none)
      else s
    if h.status = .saved then s
    else if h.away then
      let s := (((s.settleCharge h.hid).leaves h).modHeat h.hid fun x => { x with status := .saved, prov := 0 }).modQueue h.queue
        fun q => { q with saves := q.saves ++ [h.hid] }
      s.writeNotice h.queue h.origin.irq (s.heatRecord h 0x88 1)
    else s.startSave h
  | 3 => s.fatalDump 0x88
  | _ => s.abortHeat h.hid 0x88

/-- PUT A HEAT BACK (R292, R294, R295, R352): memories and objects return, its streams stand before their stop points, discarded
teams start again, and its schedule goes on; a halt that has come meanwhile takes it at once. -/
def State.restoreHeat (s : State) (h : Heat) (pages : List (List Page)) : State :=
  let r : Record := { h.record with pages := pages }
  let s := if h.away then (s.restoreMemory h).bringBack h else s
  let s := s.modHeat h.hid fun h =>
    let h : Heat := { h with
      record := r
      teams := ((h.teams.zip r.teams).map fun te => { te.1 with wins := r.windowsOf te.2 }) }
    h.applyRet.holdStreams
  let s := h.discards.foldl (fun (s : State) ti => s.restartTeam h ti) s
  let s := s.modHeat h.hid fun h =>
    { h with
      away := false, barsAway := [], landAway := [], msgAway := [], lateAcks := [], discards := []
      fault := none, nsec := 0, parked := [], stops := h.stops.filter flowStop }
  (s.thawHeat h).beginHalt h.hid

/-- RESTORE (R292, R294, R295, R337, R340, R352): made before the heat's first stop point, or its anchor is missed; the image and
the windows are checked. -/
def execRestore (s : State) : Host.Outcome State Fault Refusal :=
  match s.arg with
  | .restore hid =>
    match s.heat? hid with
    | none => .next s
    | some h =>
      if h.status ≠ .restoring then .next s
      else if h.anchor + h.resumeStop ≤ s.now then .next (s.missAnchor h)
      else match if h.away then s.imageBreach h else none, s.resolvePages h.record with
        | some cause, _ => .next (s.abortHeat hid cause)
        | none, none => .next (s.abortHeat hid 0xA1)
        | none, some ps => .next (s.restoreHeat h ps)
  | _ => .fault .noData

/-! ### The agents (R352) -/

/-- A group of a resumed gang that waits at a barrier whose phase has moved on goes on (R197, R352). -/
def State.wakeResumed (s : State) (g : GangRef) : State :=
  match s.team? ⟨g.hid, g.team⟩, s.gang? g with
  | some t, some x => x.groups.foldl (fun (s : State) gr => match gr.wait with
      | .bwt hd p =>
        let b := (s.core t.core).bar (handleIdx hd)
        if b.alloc && b.gen == handleGen hd then (match phaseLeft b s.now p with
          | some c => s.push (max s.now c) 48 (.bwtResume g gr.quads)
          | none => s)
        else s
      | _ => s) s
  | _, _ => s

/-- A quad group of a gang resumes (R352). -/
def State.resumeGang (s : State) (g : GangRef) (quads : BitVec 8) : State :=
  (s.modGang g fun x =>
    { x with groups := x.groups.map fun gr => if gr.quads &&& quads = 0 then gr else { gr with stopped := none } }).wakeResumed g

/-- A cox resumes (R352). -/
def State.resumeCox (s : State) (r : TeamRef) : State := s.modCox r fun x => { x with stopped := none }

/-- A faulted global access is performed again from its replay data (R352), without the lanes that stand (R318). -/
def State.replayAccess (s : State) (id : Nat) : State :=
  match s.gop? id with
  | none => s
  | some o =>
    if o.isRecord then
      let base := s.teamBase o.teamRef
      let done := base + o.issue + 648 + (if o.anyFar then 64 else 0)
      let ev : Ev := if o.kind = .tload then .tloadCompletion id else .gsetMemCompletion id
      let s := (s.modGop id fun o => { o with hot := false }).modCore o.core fun c => { c with eng := c.eng + 1 }
      (s.push (base + o.replayAt) 15 (.stackAccess (.record id))).push done 10 ev
    else
      let f := o.replayAt
      let o' : GlobalOp :=
        { o with
          hot := false
          lanes := o.lanes.map fun l => if l.ok then l else { l with s := max l.s f, p := max l.p (max l.s f) } }
      let s := (s.modGop id fun _ => o').countOp o' true
      ((s.pushStacks o').pushPerforms { o' with lanes := o'.lanes.filter fun l => !l.done }).pushDeliveries o'

/-- A faulted scratch access is performed again (R352). -/
def State.replayScratch (s : State) (hid n : Nat) : State :=
  match (s.heat? hid).bind fun h => h.hot[n]? with
  | none => s
  | some (_, op) =>
    let s := s.modHeat hid fun h => { h with hot := modifyNth h.hot n fun x => (x.1, { x.2 with lanes := [] }) }
    let bad := (s.accFail op).map fun f => { op.blame with cause := f.1, lanes := f.2.1, addr := f.2.2 }
    if op.kind = 1 then s.push s.now 10 (.scratchStorePerform op bad)
    else if op.kind = 2 then s.push s.now 10 (.scratchAtomicPerform op bad)
    else s.startAcc op

/-- A faulted or held command runs again, from its first iteration that is not complete (R336, R352). -/
def State.replayCmd (s : State) (id : Nat) : State :=
  match s.cmd? id with
  | none => s
  | some c =>
    let base := s.cmdBase c
    let held := c.held
    let s := s.modCmd id fun c =>
      { c with
        failed := none, held := false, done := false, buf := [], image := (match c.body with
          | .xfer .. => c.image
          | _ => [])
        result := []
        folds := (match c.body with
          | .xfer .. => c.folds
          | _ => 0)
        left := (match c.body with
          | .xfer .. => c.left
          | _ => c.left.filter fun e => decide (e.1 < c.iter)) }
    let s := s.modCore c.core fun k => { k with eng := k.eng + 1 }
    match c.body with
    | .xfer .. =>
      if c.shape.isSome then s.push (max s.now (base + c.completion)) 45 (.xferDone id)
      else match s.recordOp id with
        | some o => (s.push (base + o.replayAt) 15 (.stackAccess (.record o.id))).push
            (base + o.issue + 648 + (if o.anyFar then 64 else 0)) 10 (.xferRecordRead id)
        | none => s
    | .xcp b =>
      let s := s.push (max s.now (base + c.completion)) 45 (.engineCompletion id)
      if held then s.push s.now 46 (.engineCommandStart id)
      else s.pushSub s.now 60 (4 + c.eng) (.copyBeat id (c.iter * b.rows * 2 ^ 28))
    | _ => (s.push s.now 46 (.engineCommandStart id)).push (max s.now (base + c.completion)) 45 (.engineCompletion id)

/-- AGENT_RESUME (R352): the agent goes on at A′ plus its stop point. -/
def execAgentResume (s : State) : Host.Outcome State Fault Refusal :=
  match s.arg with
  | .agentResume hid ag =>
    match s.heat? hid with
    | none => .next s
    | some h =>
      let going : Bool := h.status == .restoring || ((h.status == .running || h.status == .closing) && (match h.halt with
        | some (_, x) => decide (s.now < h.anchor + x)
        | none => true))
      if !going then .next s
      else
        let s := if h.status = .restoring then
            s.modHeat hid fun h => { h with status := if h.allRetired then .closing else .running } else s
        .next (match ag with
          | .gang t g quads => s.resumeGang ⟨hid, t, g⟩ quads
          | .cox t => s.resumeCox ⟨hid, t⟩
          | .access op => s.replayAccess op
          | .scratch n => s.replayScratch hid n
          | .command c => s.replayCmd c
          | .flow i => (s.modHeat hid fun h => { h with stops := h.stops.filter fun x => x.1 ≠ .flow i }).afterCounter hid)
  | _ => .fault .noData

/-! ## Handler mode (R325, R326) -/

/-- HANDLER_ENTRY (R325): the named team's cox sets aside its return stack, flags, p1-p7 and place, and issues from HENTRY.
What p1-p7 read until the handler writes them is free (log 73). -/
def execHandlerEntry (s : State) : Host.Outcome State Fault Refusal :=
  match s.arg with
  | .handlerEntry hid =>
    match s.heat? hid with
    | none => .next s
    | some h =>
      match h.fault, h.fault.bind fun d => h.teams[d.team]? with
      | some d, some t =>
        if h.status ≠ .quiesced ∨ h.abortCause ≠ 0 then .next s
        else
          let x := t.cox
          let kept : Handler :=
            { stack := x.stack, flags := x.flags, p := t.p, pc := x.pc, clause := x.clause, branched := x.branched
              ready := x.ready, wait := x.wait, retired := x.retired, stopped := x.stopped, resume := x.resume, entered := s.now }
          let w := s.freeWords 1
          let p : BitVec 8 := ((w.1.headD 0).setWidth 8) ||| 1#8
          let s := w.2.modHeat hid fun h => { h with status := .handler }
          let s := s.modTeam ⟨hid, d.team⟩ fun t =>
            { t with
              p := p
              cox := { t.cox with
                stack := [], flags := 0, pc := (s.queue h.queue).hentry.toNat, clause := none, branched := true
                ready := s.now - h.base t, wait := .none, retired := false, stopped := none, resume := none
                handler := some kept } }
          .next (s.push (s.now + 65536) 48 (.handlerTimeout hid))
      | _, _ => .next s
  | _ => .fault .noData

/-- HANDLER_TIMEOUT (R325): a handler still running 65,536 c after its entry aborts the heat with 0xF8. -/
def execHandlerTimeout (s : State) : Host.Outcome State Fault Refusal :=
  match s.arg with
  | .handlerTimeout hid =>
    match s.heat? hid with
    | none => .next s
    | some h =>
      let since := h.teams.any fun t => match t.cox.handler with
        | some k => decide (k.entered + 65536 ≤ s.now)
        | none => false
      .next (if h.status = .handler ∧ since then s.abortHeat hid 0xF8 else s)
  | _ => .fault .noData

/-- LEAVE HANDLER MODE (R326): what entry set aside is restored. -/
def State.leaveHandler (s : State) (r : TeamRef) : State :=
  (s.modHeat r.hid fun h => { h with status := .quiesced }).modTeam r fun t => match t.cox.handler with
    | none => t
    | some k =>
      { t with
        p := k.p
        cox := { t.cox with
          stack := k.stack, flags := k.flags, pc := k.pc, clause := k.clause, branched := k.branched, ready := k.ready
          wait := k.wait, retired := k.retired, stopped := k.stopped, resume := k.resume, handler := none } }

/-- RESUME A HEAT THAT STAYED RESIDENT (R326, R352): at an anchor of its own, or with its regatta. Where the power budget leaves
it no anchor it is saved, to wait for one (log 61). -/
def State.resumeResident (s : State) (hid : Nat) : State :=
  match s.heat? hid with
  | none => s
  | some h =>
    if h.record.sched ∧ s.regatta.ph.isSome then s.reportHalted
    else match s.resumeAnchor h with
      | some (cl, a) => s.beginRestore h cl a
      | none => s.startSave h

/-- eret (R326): handler mode ends, and ACTION decides: 0 resumes the heat, when the trap record's RES allows it, 2 saves it;
otherwise it is aborted. -/
def execEret (w : UA) (s : State) : Host.Outcome State Fault Refusal :=
  checkUni (.eret w) s (fun _ => []) fun c =>
    let w0 := (Store.get 0 c.heat.trap 0).toNat
    let action := bits w0 17 16
    let cause := bits w0 31 24
    let s := s.leaveHandler c.ref
    match s.heat? c.ref.hid with
    | none => s
    | some h =>
      if action = 2 then s.startSave h
      else if action = 0 ∧ w0.testBit 19 then s.resumeResident c.ref.hid
      else s.abortHeat c.ref.hid cause

/-! ## Revocation, log and dump locations (R322, R335, R350) -/

/-- REVOKE (R335): Rv is fixed, the same on every core, and reported. -/
def execRevoke (s : State) : Host.Outcome State Fault Refusal :=
  match s.arg with
  | .revoke heatid team window =>
    match s.heats.find? (fun h => h.heatid == heatid) with
    | none => .next (s.mailStatus 1)
    | some h =>
      let rv := roundUp 64 (s.now + 4096)
      .next (({ s with mailbox := { s.mailbox with revokeAt := BitVec.ofNat 64 rv, revokeFault := false } } : State).push rv 5
        (.revocation h.hid team window))
  | _ => .fault .noData

/-- REVOCATION (R335): from Rv accesses to the window fault. -/
def execRevocation (s : State) : Host.Outcome State Fault Refusal :=
  match s.arg with
  | .revocation hid team window =>
    .next (s.modTeam ⟨hid, team⟩ fun t => { t with wins := modifyNth t.wins window fun w => { w with revoked := some s.now } })
  | _ => .fault .noData

/-- FAULT_LOG_LOCATION (R322). -/
def execFaultLogLocation (s : State) : Host.Outcome State Fault Refusal :=
  match s.arg with
  | .faultLogLocation a => .next { s with mailbox := { s.mailbox with logBase := some a } }
  | _ => .fault .noData

/-- DUMP_AREA (R350). -/
def execDumpArea (s : State) : Host.Outcome State Fault Refusal :=
  match s.arg with
  | .dumpArea a => .next { s with mailbox := { s.mailbox with dumpBase := some a } }
  | _ => .fault .noData

end Sys2Proof.Machine
end

