-- ==== Sys2Proof/Machine/Regatta.lean ====
section
/-! DEFINITION. The regatta halt and resumption (R355, R356, R358). -/
namespace Sys2Proof.Machine

/-- Whether a heat of the regatta can still be halted at PH: it has not halted, or is resuming. -/
def Heat.haltable (h : Heat) : Bool :=
  h.record.sched && (h.status == .scheduled || h.status == .running || h.status == .closing || h.status == .restoring)

/-- Insert a package number once, ascending. -/
def addPackage (p : Nat) (l : List Nat) : List Nat := if l.contains p then l else insertUp p l

/-- HALT (R355): the first time a package sees it, it forwards it on every other trained port and halts at the least PH it
has received. -/
def execHalt (s : State) : Host.Outcome State Fault Refusal :=
  match s.arg with
  | .halt ini cause ph fromPort =>
    if s.regatta.forwarded.contains (ini, ph) then .next s
    else
      let s := s.flood (regattaPayload 0x20 cause ph 0 ini) fromPort
      let least := match s.regatta.ph with
        | some x => min x ph
        | none => ph
      let s : State :=
        { s with regatta := { s.regatta with
            forwarded := s.regatta.forwarded ++ [(ini, ph)], ph := some least, initiators := addPackage ini s.regatta.initiators } }
      .next ((s.push (max s.now least) 84 (.regattaHalt least)).push (max s.now least + 14000000000) 84 (.haltedTimeout least))
  | _ => .fault .noData

/-- The halt of a heat at PH (R320, R355): PH, or an earlier halt that a fault gives it. -/
def Heat.regattaStop (h : Heat) (ph : Nat) : HaltKind × Nat :=
  match h.halt with
  | some (k, x) => if h.fault.isSome then (k, min x (ph - h.anchor)) else (.regatta, ph - h.anchor)
  | none => (.regatta, ph - h.anchor)

/-- REGATTA_HALT (R355, R358): at PH every SCHED = 1 heat that has not halted halts, one that is resuming once it is restored, and
none is admitted until RESUME. -/
def execRegattaHalt (s : State) : Host.Outcome State Fault Refusal :=
  match s.arg with
  | .regattaHalt ph =>
    if s.regatta.ph ≠ some ph ∨ s.regatta.halted then .next s
    else
      let s : State :=
        { s with
          regatta := { s.regatta with halted := true }
          mailbox := { s.mailbox with regattaHalted := true, regattaPh := ph } }
      let hs := s.heats.filter (·.haltable)
      .next ((hs.foldl (fun (s : State) h =>
        (s.modHeat h.hid fun h => { h with halt := some (h.regattaStop ph) }).beginHalt h.hid) s).reportHalted)
  | _ => .fault .noData

/-- The least multiple of 8,192 that takes PH to every reported cycle and leaves time for RESUME to arrive (R356). -/
def resumeShift (ph now haltLead : Nat) (args : List Nat) : Nat := roundUp 8192 (args.foldl max (now + haltLead) - ph)

/-- Send a control message to every other package of the regatta. -/
def State.tellAll (s : State) (payload : List Byte) : State :=
  (s.regatta.packages.filter (· ≠ s.pkgNo.toNat)).foldl (fun (s : State) p =>
    s.sendControl p payload) s

/-- THE COORDINATOR CONCLUDES (R356): the silent and the leaving are excluded, the others resume by one shift. -/
def State.conclude (s : State) (ph : Nat) : State :=
  let me := s.pkgNo.toNat
  let out := s.regatta.packages.filter fun p => match s.regatta.reported.find? (fun r => r.1 == p) with
    | some r => r.2.1
    | none => true
  let s := out.foldl (fun (s : State) p =>
    (s.tellAll (regattaPayload 0x24 0 ph p me)).push s.now 44 (.exclude p ph me)) s
  let d := resumeShift ph s.now s.regatta.haltLead ((s.regatta.reported.filter fun r => !r.2.1).map (·.2.2))
  (s.tellAll (regattaPayload 0x22 0 ph d me)).push s.now 45 (.resume d ph me)

/-- HALTED (R356): a package reports to the coordinator; with the last report the coordinator concludes. -/
def execHalted (s : State) : Host.Outcome State Fault Refusal :=
  match s.arg with
  | .halted pkg leaving arg ph _ =>
    if s.regatta.ph ≠ some ph then .next s
    else
      let s : State := { s with regatta := { s.regatta with
        reported := s.regatta.reported.filter (fun r => r.1 ≠ pkg) ++ [(pkg, leaving == 1, arg)] } }
      let all := s.regatta.packages.all fun p => s.regatta.reported.any fun r => r.1 == p
      .next (if all ∧ s.regatta.coordinator = some s.pkgNo.toNat then s.conclude ph else s)
  | _ => .fault .noData

/-- HALTED_TIMEOUT (R356): 10 s after PH the coordinator concludes without the silent. -/
def execHaltedTimeout (s : State) : Host.Outcome State Fault Refusal :=
  match s.arg with
  | .haltedTimeout ph =>
    .next (if s.regatta.ph = some ph ∧ s.regatta.halted ∧ s.regatta.coordinator = some s.pkgNo.toNat then s.conclude ph else s)
  | _ => .fault .noData

/-- Shift the pending bank switch of a port (R356). -/
def State.shiftSwitch (s : State) (p d : Nat) : State :=
  let x := s.port p
  let s : State := s.cancel fun e => match e with
    | .bankSwitchTx q _ => q == p
    | .bankSwitchRx q _ => q == p
    | _ => false
  let sw := x.swcyc + d / 8192
  let s := if x.pend then (s.modPort p fun y => { y with swcyc := sw }).pushSub (8192 * sw) 5 p (.bankSwitchTx p sw) else s
  match x.rxPend with
  | some c => (s.modPort p fun y => { y with rxPend := some (c + d / 8192) }).pushSub (8192 * (c + d / 8192) + 1120) 5 p
      (.bankSwitchRx p (c + d / 8192))
  | none => s

/-- Resume one SCHED = 1 heat by the regatta's shift (R352, R356). One whose clusters, grains or slots are taken, or for which the
power budget does not hold, misses its anchor (R42, R55, R337). -/
def State.resumeShifted (s : State) (h : Heat) (d : Nat) : State :=
  let a := h.anchor + d
  let others : State := { s with heats := s.heats.filter fun x => x.hid ≠ h.hid }
  let fits := others.powerOk (h.record.load a h.resumeStop)
  let free := (s.place? { h.record with place := false, clusters := h.clusters }).isSome && !s.grainsMeet h.record &&
    !s.flowsMeet h.record
  if fits && (h.status == .quiesced || free) then s.beginRestore h h.clusters a else s.missAnchor h

/-- An armed heat of the regatta goes on receiving (R354, R356): its receive and relay entries count from a cycle moved by the
shift, and the stops that halt flits gave them end. -/
def Heat.shiftArmed (h : Heat) (d : Nat) : Heat :=
  if h.record.sched ∧ h.status = .armed then { h with rxBase := h.rxBase + d, stops := [] } else h

/-- RESUME (R356, R358): anchors of halted SCHED = 1 heats and pending switches move by the shift, every heat resumes, armed ones
receive on, and the package answers RESUMED. -/
def execResume (s : State) : Host.Outcome State Fault Refusal :=
  match s.arg with
  | .resume d ph ini =>
    if s.regatta.ph ≠ some ph ∨ !s.regatta.halted then .next s
    else
      let hs := s.heats.filter fun h => h.record.sched && h.abortCause == 0 && (h.status == .saved || h.status == .quiesced)
      let s : State :=
        { s with
          regatta := { s.regatta with ph := none, initiators := [], reported := [], forwarded := [], halted := false }
          mailbox := { s.mailbox with regattaHalted := false, regattaDelta := d }
          heats := s.heats.map (·.shiftArmed d) }
      let s := (List.range 16).foldl (fun (s : State) p => s.shiftSwitch p d) s
      let s := hs.foldl (fun (s : State) h => s.resumeShifted h d) s
      .next (if ini = s.pkgNo.toNat then s
        else s.sendControl ini (regattaPayload 0x23 0 ph 0 ini))
  | _ => .fault .noData

/-- RESUMED (R356): the coordinator enters it in its log. -/
def execResumed (s : State) : Host.Outcome State Fault Refusal :=
  match s.arg with
  | .resumed pkg => .next (s.logEvent (.resumed pkg))
  | _ => .fault .noData

/-- Whether a heat names a flow to a package: an entry on the port on which messages to it leave. -/
def State.flowsTo (s : State) (h : Heat) (pkg : Nat) : Bool :=
  match s.route (BitVec.ofNat 17 pkg) with
  | some p => h.record.ports.contains p
  | none => false

/-- EXCLUDE (R356): heats with a flow to the excluded package are aborted with 0xE2. -/
def execExclude (s : State) : Host.Outcome State Fault Refusal :=
  match s.arg with
  | .exclude pkg _ _ =>
    let hs := s.heats.filter fun h => h.abortCause == 0 && s.flowsTo h pkg
    let s : State := { s with regatta := { s.regatta with packages := s.regatta.packages.filter (· ≠ pkg) } }
    .next (hs.foldl (fun (s : State) h => s.abortHeat h.hid 0xE2) s)
  | _ => .fault .noData

end Sys2Proof.Machine
end

