-- ==== Sys2Proof/Machine/Queues.lean ====
section
/-! DEFINITION. Queues, commands, the arbiter and dependence graphs (R20, R56, R61, R271, R277-R288, R329, R340, R347). -/
namespace Sys2Proof.Machine

/-! ## Graph records (R286, R340) -/

/-- A node's fields (R286, Table 4). -/
def nodeOf (bs : List Byte) : Node :=
  let n0 := qword bs 0
  { kind := bits n0 63 60, init := bits n0 59 52, pred := bits n0 51 44, addr := bits (qword bs 1) 47 0
    succ := (List.range 4).map fun i => bits (qword bs 2) (16 * i + 15) (16 * i)
    x := (List.range 5).map fun i => BitVec.ofNat 64 (qword bs (3 + i)), heat := none }

/-- X3 + i of a node. -/
def Node.xn (n : Node) (i : Nat) : Nat := (n.x.getD i 0).toNat

/-- Whether a word's four successor indices name nodes of a graph of n nodes (R286; log 51). -/
def succOk (n x : Nat) : Bool :=
  (List.range 4).all fun i => bits x (16 * i + 15) (16 * i) == 0xFFFF || decide (bits x (16 * i + 15) (16 * i) < n)

/-- What breaks a node of a graph of `nnode` nodes (R286, R340). -/
def nodeBad (nnode : Nat) (bs : List Byte) : Bool :=
  let n := nodeOf bs
  !succOk nnode (qword bs 2) ||
  (n.kind == 2 && (!succOk nnode (n.xn 0) || decide (bits (n.xn 2) 47 32 + bits (n.xn 2) 63 48 > nnode))) || decide (n.kind ≥ 4) || bits (qword bs 0) 43 0 != 0 || bits (qword bs 1) 63 48 != 0 ||
  (n.kind == 0 && (bits (n.xn 0) 31 4 != 0 || decide (bits (n.xn 0) 3 0 > 8))) ||
  (n.kind == 1 && (bits (n.xn 0) 63 48 != 0 || bits (n.xn 1) 31 19 != 0 || bits (n.xn 2) 31 10 != 0)) ||
  (n.kind == 2 && (n.addr % 8 != 0 || decide (bits (n.xn 2) 3 0 > 5) || bits (n.xn 2) 31 6 != 0)) ||
  (n.kind == 3 && n.addr != 0) || (n.kind != 0 && (n.xn 3 != 0 || n.xn 4 != 0))

/-- CAPTURE A GRAPH RECORD at prefetch (R278, R286, R340) with every heat record of it: its nodes, or a cause. -/
def State.captureGraph (s : State) (pa : Nat) : List Node ⊕ Nat :=
  let hd := s.readHbm pa 64
  let n := bits (qword hd 0) 39 31
  let bs := s.readHbm pa (64 + 64 * min n 256)
  let parts := (List.range n).map fun i => (bs.drop (64 + 64 * i)).take 64
  if !sealOk bs 12 then .inr 0xA0
  else if bits (qword hd 0) 63 48 ≠ 0x6A7F ∨ bits (qword hd 0) 47 40 ≠ 1 ∨ n < 1 ∨ n > 256 ∨ bits (qword hd 0) 30 0 ≠ 0 ∨
      (List.range 6).any (fun j => qword hd (2 + j) != 0) ∨ parts.any (nodeBad n) then .inr 0xA1
  else
    let caps := parts.map fun b =>
      let nd := nodeOf b
      if nd.kind = 0 then (match s.captureHeat nd.addr with
        | .heat r => (({ nd with heat := some r } : Node), 0)
        | .bad c => (nd, c)) else (nd, 0)
    match lowest ((caps.map (·.2)).filter (· ≠ 0)) with
    | some c => .inr c
    | none => .inl (caps.map (·.1))

/-! ## Command records (R278-R280, R347) -/

/-- The KIND of the completion record of a command's TYPE (R282, R347). -/
def kindOfType (ty : Nat) : Nat := if ty = 1 then 0 else if ty = 2 then 2 else 3

/-- What breaks a command record by itself (R279, R347). -/
def commandBad (bs : List Byte) (nested : Bool) : Bool :=
  let c0 := qword bs 0
  let c2 := qword bs 2
  let ty := bits c0 63 56
  decide (ty ≥ 4) || (nested && ty == 3) || bits c0 52 48 != 0 || bits c2 15 0 != 0 || qword bs 3 != 0 ||
  (ty != 3 && (c0.testBit 55 || bits c2 27 16 != 0)) || (ty == 3 && bits c2 27 16 == 0) ||
  (ty != 1 && (qword bs 1 != 0 || bits c2 31 28 != 0)) || (ty == 1 && decide (bits c2 31 28 > 8)) ||
  (ty != 0 && bits c0 47 0 % 64 != 0)

/-- CAPTURE A COMMAND (R278, R279): its body, with the heat record or graph record that it names. -/
def State.captureCommand (s : State) (bs : List Byte) (nested : Bool) : CmdBody :=
  let c0 := qword bs 0
  let c2 := qword bs 2
  let ty := bits c0 63 56
  let addr := bits c0 47 0
  if commandBad bs nested then .bad 0xA1 (kindOfType ty)
  else match ty with
    | 0 => .nop
    | 1 => (match s.captureHeat addr with
      | .heat r => .heat r (qword bs 1) (argWords (bits c2 31 28) (elemsOf 4 (bs.drop 32)))
      | .bad c => .bad c 0)
    | 2 => (match s.captureGraph addr with
      | .inl ns => .graph ns
      | .inr c => .bad c 2)
    | _ => .indirect (c0.testBit 55) addr (bits c2 27 16)

/-- A prefetched command. -/
def Command.make (bs : List Byte) (entry : Nat) (sub : Option Nat) (body : CmdBody) (now : Nat) : Command :=
  let c0 := qword bs 0
  { entry := entry, sub := sub, ser := c0.testBit 54, irq := c0.testBit 53, tag := BitVec.ofNat 32 (bits (qword bs 2) 63 32)
    body := body, readAt := now, admitted := false, completed := false, charge := 0, cause := 0, ready := false
    expanded := false }

/-- The records of an indirect buffer (R280). -/
def State.bufferRecords (s : State) (addr nrec : Nat) : List (List Byte) :=
  (List.range nrec).map fun i => s.readHbm (addr + 64 * i) 64

/-- The cause for which no record of an indirect buffer runs (R280): the first breach of its records, captured or not. -/
def bufferCause (bodies : List CmdBody) : Option Nat :=
  bodies.findSome? fun b => match b with
    | .bad c _ => some c
    | _ => none

/-- READ AN INDIRECT COMMAND'S BUFFER (R280, R281): with VOL = 0 its records are captured now, with VOL = 1 only checked. They stand
before their command; the first waits as the command's SER says, and the command itself no longer. -/
def State.expand (s : State) (c : Command) (vol : Bool) (addr nrec : Nat) : List Command × Command :=
  let recs := s.bufferRecords addr nrec
  let bodies := recs.map fun b =>
    if vol then (if commandBad b true then CmdBody.bad 0xA1 3 else .raw b) else s.captureCommand b true
  match bufferCause bodies with
  | some cause => ([], { c with body := .bad cause 3 })
  | none =>
    let kids := ((List.range recs.length).zip (recs.zip bodies)).map fun e =>
      let k := Command.make e.2.1 c.entry (some e.1) e.2.2 s.now
      if e.1 = 0 then { k with ser := k.ser || c.ser } else k
    (kids, { c with expanded := true, ready := false, ser := false })

/-! ## What a prefetch reads (R108, R129) -/

/-- The stacks that the capture of a graph record reads, with every heat record of it. -/
def State.graphStacks (s : State) (pa : Nat) : List Nat :=
  let n := min 256 (bits (qword (s.readHbm pa 64) 0) 39 31)
  let nodes := (List.range n).map fun i => nodeOf (s.readHbm (pa + 64 + 64 * i) 64)
  distinct (stacksOf pa (64 + 64 * n) ++ ((nodes.filter fun nd => nd.kind == 0).map fun nd => s.recordStacks nd.addr).flatten)

/-- The stacks that the capture of a command reads, without an indirect command's buffer. -/
def State.plainStacks (s : State) (bs : List Byte) : List Nat :=
  match bits (qword bs 0) 63 56 with
  | 1 => s.recordStacks (bits (qword bs 0) 47 0)
  | 2 => s.graphStacks (bits (qword bs 0) 47 0)
  | _ => []

/-- The stacks that reading an indirect buffer touches, with what its records name where they are captured with it. -/
def State.bufferStacks (s : State) (vol : Bool) (addr nrec : Nat) : List Nat :=
  distinct (stacksOf addr (64 * nrec) ++ (if vol then [] else ((s.bufferRecords addr nrec).map s.plainStacks).flatten))

/-- The stacks that a command's prefetch touches. -/
def State.commandStacks (s : State) (bs : List Byte) (nested : Bool) : List Nat :=
  let c0 := qword bs 0
  if commandBad bs nested then []
  else if bits c0 63 56 = 3 ∧ !c0.testBit 55 then s.bufferStacks false (bits c0 47 0) (bits (qword bs 2) 27 16)
  else s.plainStacks bs

/-- Where an entry of a queue's ring lies. -/
def QueueDesc.entryAt (d : QueueDesc) (e : Nat) : Nat := d.rbase.toNat + 64 * (e % 2 ^ d.rlog)

/-- An entry of a queue's ring as it stands now. -/
def State.ringEntry (s : State) (d : QueueDesc) (e : Nat) : List Byte :=
  if d.rloc then s.readHbm (d.entryAt e % 2 ^ 48) 64 else s.readHost (d.entryAt e % 2 ^ 64) 64

/-- The stacks that the prefetch of a ring entry touches. -/
def State.entryStacks (s : State) (d : QueueDesc) (e : Nat) : List Nat :=
  distinct ((if d.rloc then stacksOf (d.entryAt e % 2 ^ 48) 64 else []) ++ s.commandStacks (s.ringEntry d e) false)

/-! ## Prefetch (R278) -/

/-- The entry that is first not admitted: one prefetched, or the first still to be prefetched. -/
def State.firstOpen (s : State) (q : Nat) : Nat :=
  match (s.queue q).commands.find? fun c => !c.admitted with
  | some c => c.entry
  | none => s.agenda.foldl (fun m d => match d.ev with
      | .prefetch x e => if x = q ∧ e < 2 ^ 64 then min m e else m
      | _ => m) (s.queue q).next

/-- A number that names record `sub` of entry `e` to a prefetch step. -/
def prefetchCode (e : Nat) (sub : Option Nat) : Nat :=
  match sub with
  | none => e
  | some i => e + 2 ^ 64 * (i + 1)

/-- The latest prefetch of a queue already on the agenda. -/
def State.lastPrefetch (s : State) (q : Nat) : Nat :=
  s.agenda.foldl (fun m d => match d.ev with
    | .prefetch x _ => if x = q then max m d.at_ else m
    | _ => m) s.now

/-- Records of indirect buffers within 16 of the first command not admitted that no prefetch step names yet. -/
def State.rawDue (s : State) (q : Nat) : List Command :=
  let cs := ((s.queue q).commands.filter fun c => !c.admitted).take 16
  cs.filter fun c => match c.body with
    | .raw _ => !(s.agenda.any fun d => d.ev == .prefetch q (prefetchCode c.entry c.sub))
    | _ => false

/-- A CYCLE FOR A PREFETCH that touches some stacks (R108, R278): from a cycle on, within 4,096 c from now, at the device's choice,
in grains that no heat is granted (log 103). -/
def State.prefetchTurn (s : State) (ks : List Nat) (from_ : Nat) : Nat × State :=
  let c := s.choose from_ (s.now + 4096)
  let x := s.freeForAll ks c.1
  (if x ≤ s.now + 4096 then x else s.freeForAll ks from_, c.2)

/-- Put a prefetch on the agenda, none before the last of its queue. -/
def State.pushPrefetch (s : State) (q code : Nat) (ks : List Nat) : State :=
  let t := s.prefetchTurn ks (s.lastPrefetch q)
  t.2.push t.1 70 (.prefetch q code)

/-- Put the prefetch of everything that has come within reach on the agenda (R278): entries below PI, and records of a
volatile buffer, fewer than 16 beyond the first not admitted, at a cycle of the device's choice within 4,096 c. -/
def State.schedulePrefetch (s : State) (q : Nat) : State :=
  let x := s.queue q
  if !x.desc.en ∨ !s.ready.fe then s
  else
    let avail := (x.desc.pi - BitVec.ofNat 32 x.next).toNat
    let n := min avail (s.firstOpen q + 16 - x.next)
    let s := (s.rawDue q).foldl (fun (s : State) k => match k.body with
      | .raw bs => s.pushPrefetch q (prefetchCode k.entry k.sub) (s.commandStacks bs true)
      | _ => s) s
    let s := (List.range n).foldl (fun (s : State) i => s.pushPrefetch q (x.next + i) (s.entryStacks x.desc (x.next + i))) s
    s.modQueue q fun x => { x with next := x.next + n }

/-! ## Heads and completions (R281, R282) -/

/-- The step that a command makes when it becomes the head. -/
def headEvent (q : Nat) (b : CmdBody) : Ev :=
  match b with
  | .nop => .commandNop q
  | .heat .. => .commandHeat q
  | .graph _ => .commandGraph q
  | .indirect .. => .commandIndirect q
  | .bad _ kind => if kind = 0 then .commandHeat q else if kind = 2 then .commandGraph q else .commandNop q
  | .raw _ => .commandNop q

/-- Whether a command is still to be captured. -/
def CmdBody.isRaw (b : CmdBody) : Bool :=
  match b with
  | .raw _ => true
  | _ => false

/-- CI passes every command that, with all before it, has completed (R282). -/
def Queue.advanceCi (q : Queue) : Queue :=
  let done := q.commands.takeWhile (·.completed)
  let n := (done.filter fun c => c.sub.isNone).length
  { q with commands := q.commands.drop done.length, desc := { q.desc with ci := q.desc.ci + BitVec.ofNat 32 n } }

/-- Whether an indirect command's buffer is still to be read as it becomes the first command not admitted (R280). -/
def Command.unread (c : Command) : Bool :=
  match c.body with
  | .indirect .. => !c.expanded
  | _ => false

/-- LOOK FOR THE QUEUE'S READY HEAD (R281, R350): the first command not admitted, when no graph is active and, with SER, everything
before it has completed. A volatile buffer is read as soon as its command is the first not admitted (R280). -/
def State.advanceQueue (s : State) (q : Nat) : State :=
  let s := (s.modQueue q (·.advanceCi)).schedulePrefetch q
  let x := s.queue q
  if !x.desc.en ∨ !s.ready.fe then s
  else match x.commands.findIdx? (fun c => !c.admitted) with
    | none => s
    | some i =>
      match x.commands[i]? with
      | none => s
      | some c =>
        if c.ready || c.body.isRaw ||
            (!c.unread && (x.graph.isSome || (c.ser && (x.commands.take i).any fun k => !k.completed))) then s
        else
          let s := s.modQueue q fun x => { x with commands := modifyNth x.commands i fun c => { c with ready := true } }
          s.push s.now 74 (headEvent q c.body)

/-- Change a command of a queue. -/
def State.modCommand (s : State) (q entry : Nat) (sub : Option Nat) (f : Command → Command) : State :=
  s.modQueue q fun x =>
    { x with commands := x.commands.map fun c => if c.entry = entry ∧ c.sub = sub then f c else c }

/-- The records of an indirect command that have not completed. -/
def Queue.openKids (q : Queue) (entry : Nat) : Nat :=
  (q.commands.filter fun c => c.entry == entry && c.sub.isSome && !c.completed).length

/-- A completion record of a command that carries no heat (R282). -/
def plainCompletion (c : Command) (cause kind charge : Nat) : Completion :=
  { tag := c.tag.toNat, heatid := 0, anchor := 0, charge := charge, cause := cause, kind := kind, exit0 := 0, exitMax := 0, xteam := 0 }

/-- COMPLETE AN INDIRECT COMMAND when its last record has completed (R280). -/
def State.closeIndirect (s : State) (q entry : Nat) : State :=
  let x := s.queue q
  match x.commands.find? (fun c => c.entry == entry && c.sub.isNone) with
  | none => s
  | some c =>
    if c.expanded && c.admitted && !c.completed && x.openKids entry == 0 then
      (s.modCommand q entry none fun c => { c with completed := true }).writeCompletion q entry c.irq (plainCompletion c c.cause 3 c.charge)
    else s

/-- COMPLETE A COMMAND (R280, R282): its record is written, or its charge goes to the indirect command whose record it
is. -/
def State.completeCommand (s : State) (q entry : Nat) (sub : Option Nat) (r : Completion) : State :=
  let irq := (((s.queue q).commands.find? fun c => c.entry == entry && c.sub == sub).map (·.irq)).getD false
  let s := s.modCommand q entry sub fun c => { c with admitted := true, completed := true }
  let s := match sub with
    | none => s.writeCompletion q entry irq r
    | some _ => (s.modCommand q entry none fun c =>
        { c with charge := c.charge + r.charge, cause := if c.cause = 0 then r.cause else c.cause }).closeIndirect q entry
  s.advanceQueue q

/-- The ready head command of a queue. -/
def Queue.head (q : Queue) : Option Command :=
  match q.commands.find? (fun c => !c.admitted) with
  | some c => if c.ready then some c else none
  | none => none

/-- AN INDIRECT BUFFER STOPS at a record (R280): it and every later record are dropped. -/
def State.stopBuffer (s : State) (q : Nat) (c : Command) (cause : Nat) : State :=
  let i := c.sub.getD 0
  let s := s.modQueue q fun x =>
    { x with commands := x.commands.filter fun k => !(k.entry == c.entry && (match k.sub with
        | some j => decide (i ≤ j)
        | none => false)) }
  (s.modCommand q c.entry none fun k => { k with cause := if k.cause = 0 then cause else k.cause }).advanceQueue q

/-- A COMMAND WITH A BREACH completes when it becomes the head (R329, R347), or stops its buffer (R280). -/
def State.badCommand (s : State) (q : Nat) (c : Command) (cause kind : Nat) : State :=
  let s := s.logEvent (.command q cause)
  match c.sub with
  | some _ => s.stopBuffer q c cause
  | none => s.completeCommand q c.entry none (plainCompletion c cause kind 0)

/-- QUEUE_PI_WRITE (R278, R303, R347): the window is ignored before FE; indices out of range disable the queue. -/
def execQueuePiWrite (s : State) : Host.Outcome State Fault Refusal :=
  match s.arg with
  | .queuePiWrite q pi =>
    if !s.ready.fe then .next s
    else
      let d := (s.queue q).desc
      if d.rlog < 4 ∨ d.rlog > 16 ∨ (pi - d.ci).toNat > 2 ^ d.rlog - 16 then
        .next ((s.modQueue q fun x => { x with desc := { x.desc with en := false } }).mailStatus 3)
      else .next ((s.modQueue q fun x => { x with desc := { x.desc with pi := pi } }).advanceQueue q)
  | _ => .fault .noData

/-- Write a queue's EN (R277, R282): from 0 to 1 its save notices count again from 0. -/
def State.writeEn (s : State) (q : Nat) (en : Bool) : State :=
  (s.modQueue q fun x =>
    { x with desc := { x.desc with en := en }, nsave := if en && !x.desc.en then 0 else x.nsave }).advanceQueue q

/-- QUEUE_EN_WRITE (R277, R282). -/
def execQueueEnWrite (s : State) : Host.Outcome State Fault Refusal :=
  match s.arg with
  | .queueEnWrite q en => .next (s.writeEn q en)
  | _ => .fault .noData

/-- Whether an earlier prefetch of a queue than that of entry `e` is still to come. -/
def State.prefetchBefore (s : State) (q e : Nat) : Bool :=
  s.agenda.any fun d => match d.ev with
    | .prefetch x e' => x == q && decide (e' < e)
    | _ => false

/-- READ AN ENTRY OF THE RING (R278): the command with everything it reaches, captured. `bad` is what its reads of device memory
met. -/
def State.readEntry (s : State) (q e : Nat) (bad : Option Nat) : List Command :=
  let bs := s.ringEntry (s.queue q).desc e
  let c := Command.make bs e none (match bad with
    | some cause => .bad cause (kindOfType (bits (qword bs 0) 63 56))
    | none => s.captureCommand bs false) s.now
  match c.body with
  | .indirect false addr n => let r := s.expand c false addr n; r.1 ++ [r.2]
  | _ => [c]

/-- TAKE BACK the prefetches of a queue's entries from one on (R277, R350): they are made again when the queue is read again. -/
def State.dropPrefetches (s : State) (q e : Nat) : State :=
  (s.cancel fun ev => match ev with
    | .prefetch x c => x == q && decide (c < 2 ^ 64)
    | _ => false).modQueue q fun x => { x with next := min x.next e }

/-- PREFETCH (R108, R278, R280, R347, R350): an entry of the ring is read and everything it reaches is captured; or a record of a
volatile buffer is captured. Entries come in their order, in grains that no heat is granted, and none once FE is clear. -/
def execPrefetch (s : State) : Host.Outcome State Fault Refusal :=
  match s.arg with
  | .prefetch q code =>
    let x := s.queue q
    let e := code % 2 ^ 64
    let sub := if code ≥ 2 ^ 64 then some (code / 2 ^ 64 - 1) else none
    if !x.desc.en ∨ !s.ready.fe then .next (if sub.isSome then s else s.dropPrefetches q e)
    else
      let raw := x.commands.findSome? fun c => if c.entry = e ∧ c.sub = sub then (match c.body with
        | .raw bs => some bs
        | _ => none) else none
      let ks := match raw with
        | some bs => s.commandStacks bs true
        | none => s.entryStacks x.desc e
      let turn := if sub.isNone ∧ s.prefetchBefore q e then s.now + 1 else s.freeForAll ks s.now
      if s.now < turn then .next (s.push turn 70 (.prefetch q code))
      else
        let u := s.useStacks ks
        match sub, raw with
        | some _, some bs =>
          let body := match u.1 with
            | some cause => .bad cause (kindOfType (bits (qword bs 0) 63 56))
            | none => s.captureCommand bs true
          .next ((u.2.modCommand q e sub fun c => { c with body := body, readAt := s.now }).advanceQueue q)
        | some _, none => .next s
        | none, _ =>
          let cs := u.2.readEntry q e u.1
          .next ((u.2.modQueue q fun x => { x with commands := x.commands ++ cs }).advanceQueue q)
  | _ => .fault .noData

/-- COMMAND_NOP (R281): a nop completes as the head; so does a command without a meaning. -/
def execCommandNop (s : State) : Host.Outcome State Fault Refusal :=
  match s.arg with
  | .commandNop q =>
    match (s.queue q).head with
    | none => .next s
    | some c => .next (match c.body with
      | .nop => s.completeCommand q c.entry c.sub (plainCompletion c 0 3 0)
      | .bad cause kind => s.badCommand q c cause kind
      | _ => s)
  | _ => .fault .noData

/-- COMMAND_HEAT (R20, R281): the command waits as the queue's head for the arbiter; one whose record is not good
completes. -/
def execCommandHeat (s : State) : Host.Outcome State Fault Refusal :=
  match s.arg with
  | .commandHeat q =>
    match (s.queue q).head with
    | none => .next s
    | some c => .next (match c.body with
      | .bad cause kind => s.badCommand q c cause kind
      | _ => s)
  | _ => .fault .noData

/-- COMMAND_INDIRECT (R280): the buffer of a volatile command is read as it becomes the first command not admitted, in the next cycle
whose grains no heat is granted; a command whose records have all been admitted is admitted. -/
def execCommandIndirect (s : State) : Host.Outcome State Fault Refusal :=
  match s.arg with
  | .commandIndirect q =>
    match (s.queue q).head with
    | none => .next s
    | some c =>
      match c.body with
      | .indirect _ addr n =>
        if c.expanded then
          .next (((s.modCommand q c.entry none fun c => { c with admitted := true }).closeIndirect q c.entry).advanceQueue q)
        else
          let ks := s.bufferStacks true addr n
          let x := s.freeForAll ks s.now
          if s.now < x then .next (s.push x 74 (.commandIndirect q))
          else
            let u := s.useStacks ks
            let r := match u.1 with
              | some cause => ([], { c with body := .bad cause 3 })
              | none => u.2.expand c true addr n
            let put (k : Command) : List Command :=
              if k.entry = c.entry ∧ k.sub.isNone then r.1 ++ [{ r.2 with ready := false }] else [k]
            .next ((u.2.modQueue q fun x => { x with commands := (x.commands.map put).flatten }).advanceQueue q)
      | _ => .next s
  | _ => .fault .noData

/-! ## Graphs (R286-R288) -/

/-- Change a node of the active graph. -/
def State.modNode (s : State) (q i : Nat) (f : NodeRun → NodeRun) : State :=
  s.modQueue q fun x => { x with graph := x.graph.map fun g => { g with nodes := modifyNth g.nodes i f } }

/-- Change the active graph. -/
def State.modGraph (s : State) (q : Nat) (f : Graph → Graph) : State :=
  s.modQueue q fun x => { x with graph := x.graph.map f }

/-- A node of the active graph. -/
def State.node? (s : State) (q i : Nat) : Option NodeRun := (s.queue q).graph.bind fun g => g.nodes[i]?

/-- The step of a node that has become ready. A heat node waits for the arbiter (R283). -/
def nodeEvent (q i : Nat) (n : Node) : Option Ev :=
  match n.kind with
  | 1 => some (.copyNode q i)
  | 2 => some (.conditionalNode q i)
  | 3 => some (.graphEnd q)
  | _ => none

/-- Whether a node is ready (R287): its count is 0 and it has neither run nor started. -/
def NodeRun.isReady (n : NodeRun) : Bool := n.count == 0 && !n.ran && !n.running

/-- END THE GRAPH with its record (R280, R282, R287). -/
def State.finishGraph (s : State) (q : Nat) (g : Graph) : State :=
  let c := (s.queue q).commands.find? fun c => c.entry == g.entry && c.sub == g.sub
  let tag := ((c.map (·.tag.toNat)).getD 0)
  let s := s.modQueue q fun x => { x with graph := none }
  s.completeCommand q g.entry g.sub
    { tag := tag, heatid := 0, anchor := 0, charge := g.charge, cause := g.cause, kind := 2, exit0 := 0, exitMax := 0, xteam := 0 }

/-- The rank of a node's step: after every decrement of its cycle (R287). -/
def nodeRank : Nat := 88

/-- FOLLOW THE COUNTS of the active graph (R287): nodes that have become ready start or wait; a graph that has stopped ends
when nothing of it runs. -/
def State.walkGraph (s : State) (q : Nat) : State :=
  match (s.queue q).graph with
  | none => s
  | some g =>
    if g.stopped then (if g.nodes.any (·.running) then s else s.finishGraph q g)
    else ((List.range g.nodes.length).zip g.nodes).foldl (fun (s : State) e =>
      if e.2.isReady ∧ e.2.readyAt = 0 then
        let s := s.modNode q e.1 fun n => { n with readyAt := s.now }
        match nodeEvent q e.1 e.2.node with
        | some ev => s.push s.now nodeRank ev
        | none => s
      else if e.2.isReady ∧ e.2.node.kind = 3 ∧ !(s.agenda.any fun d => d.ev == .graphEnd q) then s.push s.now nodeRank (.graphEnd q)
      else s) s

/-- Stop a graph from admitting more (R347). -/
def State.stopGraph (s : State) (q cause : Nat) : State :=
  (s.modGraph q fun g => { g with stopped := true, cause := if g.cause = 0 then cause else g.cause }).walkGraph q

/-- A graph breaks a rule of its own (R329, R347): it stops, and the umpire logs it. -/
def State.graphFault (s : State) (q cause : Nat) : State := (s.logEvent (.graph q cause)).stopGraph q cause

/-- Decrease the counts of nodes (R287). -/
def State.decrement (s : State) (q : Nat) (ns : List Nat) : State :=
  ns.foldl (fun (s : State) i => if i = 0xFFFF then s else s.modNode q i fun n => { n with count := n.count - 1 }) s

/-- A NODE COMPLETES (R287): its successors' counts decrease. -/
def State.nodeDone (s : State) (q i : Nat) : State :=
  match s.node? q i with
  | none => s
  | some n =>
    ((s.modNode q i fun n => { n with running := false, ran := true, readyAt := 0 }).decrement q n.node.succ).walkGraph q

/-- COMMAND_GRAPH (R281, R287): the graph becomes active as its command becomes the head; one that is not good completes. -/
def execCommandGraph (s : State) : Host.Outcome State Fault Refusal :=
  match s.arg with
  | .commandGraph q =>
    match (s.queue q).head with
    | none => .next s
    | some c => .next (match c.body with
      | .graph ns =>
        let runs := ns.map fun n => ({ node := n, count := n.init, ran := false, running := false, readyAt := 0, moved := 0, held := [] } : NodeRun)
        let s := s.modCommand q c.entry c.sub fun c => { c with admitted := true }
        (s.modQueue q fun x =>
          { x with graph := some { entry := c.entry, sub := c.sub, nodes := runs, charge := 0, cause := 0, stopped := false } }).walkGraph q
      | .bad cause kind => s.badCommand q c cause kind
      | _ => s)
  | _ => .fault .noData

/-- First byte past the device's memory (R109). -/
def hbmEnd : Nat := 0x6000000000

/-- The model's number under which a copy node's messages report. -/
def copyHid (q i : Nat) : Nat := 2 ^ 61 + 65536 * q + i

/-- The FID of a copy node's bulk messages (R267): its source cluster, with UNORD unless the node asks for order. -/
def copyFid (q i : Nat) (n : Node) : Nat :=
  (if (n.xn 1).testBit 18 then 0 else 0x8000) + Config.copyCluster (256 * q + i) % 96

/-- The bulk message that carries bytes of a copy node to another package (R267), from offset o on. -/
def State.copyMessage (s : State) (q i : Nat) (n : Node) (o : Nat) (data : List Byte) : Msg :=
  s.newMsg 3 (BitVec.ofNat 17 (bits (n.xn 1) 16 0)) (copyFid q i n)
    (leBytes 8 (bits (n.xn 0) 47 0 + o) ++ leBytes 4 (bits (n.xn 2) 9 0) ++ leBytes 4 (bits (n.xn 2) 63 32) ++ data)

/-- MOVE ONE PIECE of a copy node's bytes at a stack (R108, R129, R287): it is read in a grain of its source that no heat is granted,
up to a stack's boundary or the bytes of a message, and written in such a grain of its destination, or sent. -/
def State.copyPiece (s : State) (q i : Nat) (r : NodeRun) : State :=
  let n := r.node
  let len := bits (n.xn 1) 63 32
  let dst := bits (n.xn 0) 47 0 + r.moved
  let a := n.addr + r.moved
  let peer := (n.xn 1).testBit 17
  let stack := if r.held = [] then stackOf a else stackOf dst
  let again (s : State) (stack : Nat) : State := s.push (s.freeGrain stack (s.now + 1)) 24 (.copyNode q i)
  if !s.grainFree stack s.now then again s stack
  else
    let u := s.stackUse stack
    match u.1 with
    | some cause => (u.2.modNode q i fun n => { n with running := false, ran := true, moved := 0, held := [] }).graphFault q cause
    | none =>
      if r.held = [] then
        let m := min (len - r.moved) (min (4096 - a % 4096) (if peer then 224 else 4096 - dst % 4096))
        let data := u.2.readHbm a m
        if peer then
          again ((u.2.sendMessage (s.copyMessage q i n r.moved data) { hid := copyHid q i, core := 0, bar := none }).modNode q i fun n =>
            { n with moved := r.moved + m }) (stackOf (a + m))
        else again (u.2.modNode q i fun n => { n with held := data }) (stackOf dst)
      else
        again ((u.2.writeHbm dst r.held).modNode q i fun n => { n with moved := r.moved + r.held.length, held := [] })
          (stackOf (a + r.held.length))

/-- COPY_NODE (R287, R347, R350): a ready copy starts while FE is set; its bytes move piece by piece until all have. -/
def execCopyNode (s : State) : Host.Outcome State Fault Refusal :=
  match s.arg with
  | .copyNode q i =>
    match s.node? q i with
    | none => .next s
    | some r =>
      let n := r.node
      let len := bits (n.xn 1) 63 32
      let dst := bits (n.xn 0) 47 0
      let peer := (n.xn 1).testBit 17
      if !r.running ∧ !s.ready.fe then .next s
      else if !r.running ∧ (n.addr + len > hbmEnd ∨ (!peer ∧ dst + len > hbmEnd)) then .next (s.graphFault q 0x61)
      else
        let s := s.modNode q i fun n => { n with running := true }
        .next (if r.moved ≥ len then s.push s.now 74 (.copyNodeCompletion q i) else s.copyPiece q i r)
  | _ => .fault .noData

/-- COPY_NODE_COMPLETION (R287): once the last byte has performed, the credit is applied and the node is done. -/
def execCopyNodeCompletion (s : State) : Host.Outcome State Fault Refusal :=
  match s.arg with
  | .copyNodeCompletion q i =>
    match s.node? q i with
    | none => .next s
    | some r =>
      let n := r.node
      if s.unacked.any fun u => u.done.hid == copyHid q i then .next (s.push (s.now + 64) 46 (.copyNodeCompletion q i))
      else
        let core := bits (n.xn 2) 8 0
        let s := if !(n.xn 1).testBit 17 ∧ (n.xn 2).testBit 9 ∧ core < 384 then
            s.applySignal core 309999 (BitVec.ofNat 32 (bits (n.xn 2) 63 32)) (BitVec.ofNat 32 (bits (n.xn 1) 63 32)) false
          else s
        .next ((s.modNode q i fun n => { n with moved := 0 }).nodeDone q i)
  | _ => .fault .noData

/-- A conditional's comparison (R286). -/
def nodeCompare (cop a b : Nat) : Bool :=
  match cop with
  | 0 => a == b
  | 1 => a != b
  | 2 => decide (a < b)
  | 3 => decide (b ≤ a)
  | 4 => decide (sextInt a 64 < sextInt b 64)
  | _ => decide (sextInt b 64 ≤ sextInt a 64)

/-- CONDITIONAL_NODE (R287, R347, R350): once every decrement of its cycle is in, and while FE is set, its word is tested, nodes are
re-armed, and the arm's counts decrease. -/
def execConditionalNode (s : State) : Host.Outcome State Fault Refusal :=
  match s.arg with
  | .conditionalNode q i =>
    match s.node? q i with
    | none => .next s
    | some r =>
      let n := r.node
      if !s.ready.fe then .next s
      else if n.addr + 8 > hbmEnd then .next (s.graphFault q 0x61)
      else
        let x5 := n.xn 2
        let holds := nodeCompare (bits x5 3 0) (ofLeBytes (s.readHbm n.addr 8)) (n.xn 1)
        let arm := if holds then n.succ else (List.range 4).map fun j => bits (n.xn 0) (16 * j + 15) (16 * j)
        let rearm := if holds then x5.testBit 4 else x5.testBit 5
        let named := if rearm then (List.range (bits x5 63 48)).map (bits x5 47 32 + ·) else []
        let s := s.modNode q i fun n => { n with ran := true, readyAt := 0 }
        let busy := named.any fun k => match s.node? q k with
          | some m => m.running || m.isReady
          | none => false
        if busy then .next (s.graphFault q 0xC7)
        else
          let s := named.foldl (fun (s : State) k => s.modNode q k fun m =>
            { m with count := m.node.pred, ran := false, readyAt := 0 }) s
          .next ((s.decrement q arm).walkGraph q)
  | _ => .fault .noData

/-- GRAPH_END (R287): the graph completes when its end node is ready and no node of it runs. -/
def execGraphEnd (s : State) : Host.Outcome State Fault Refusal :=
  match s.arg with
  | .graphEnd q =>
    match (s.queue q).graph with
    | none => .next s
    | some g =>
      if (g.nodes.any fun n => n.node.kind == 3 && n.isReady) && !(g.nodes.any (·.running)) then .next (s.finishGraph q g)
      else .next s
  | _ => .fault .noData

/-- GRAPH_RELEASE (R217, R287): a release from a heat decreases a node's count; one that finds no such node is dropped and
logged. It counts as performed. -/
def execGraphRelease (s : State) : Host.Outcome State Fault Refusal :=
  match s.arg with
  | .graphRelease q node heatid mh mc =>
    let s := match s.node? q node with
      | some _ => (s.decrement q [node]).walkGraph q
      | none => s.logEvent (.release (BitVec.ofNat 32 heatid) q node)
    .next (s.performed { hid := mh, core := mc, bar := none })
  | _ => .fault .noData

/-! ## Launch writes (R226, R271) -/

/-- ANSWER A LAUNCH WRITE (R226, R271, R345), ready at its delivery cycle. -/
def State.answerLaunch (s : State) (m : Msg) (done : AckTo) (delivered cause : Nat) : State :=
  if m.spkg ≠ s.pkgNo ∨ done = noAck then s.emit (s.msgReply m cause) delivered
  else if cause = 0 then s.performed done
  else (s.raiseFor done cause).performed { done with bar := none }

/-- The record that a launch write names, as it stands (R226, R271): none is admitted before FE or with NARG over 8 (log 80). -/
def State.launchRecord (s : State) (m : Msg) : Captured :=
  if s.ready.fe ∧ bits (msgDword m 0) 57 54 ≤ 8 then s.captureHeat (bits (msgDword m 0) 47 0) else .bad 0xE4

/-- A launch write's record is good as it stands. -/
def State.launchGood (s : State) (m : Msg) : Bool :=
  match s.launchRecord m with
  | .heat _ => true
  | .bad _ => false

/-- LAUNCH_MESSAGE (R108, R226, R271): a record that is good at delivery is acknowledged in that cycle. The record is read and
checked at a cycle of the device's choice within 2,048 c whose grains no heat is granted (log 103); the heat is then a head of its
queue. A record that is not good is refused with 0xE4, and the umpire logs it (R329). While the message waits, its reserved byte
is 1, or 2 once it is acknowledged, and its reserved bits count the cycles since delivery. -/
def execLaunchMessage (s : State) : Host.Outcome State Fault Refusal :=
  match s.arg with
  | .launchMessage m done =>
    let x := msgDword m 0
    let narg := bits x 57 54
    let delivered := s.now - m.rsvd.toNat
    let ks := s.recordStacks (bits x 47 0)
    let first := m.rsvd1 = 0
    let c := if first then s.choose s.now (s.now + 2048) else (s.now, s)
    let late := s.freeForAll ks c.1
    let turn := if late ≤ delivered + 2048 then late else s.freeForAll ks s.now
    let told := m.rsvd1 = 2
    let m0 : Msg := { m with rsvd1 := 0, rsvd := 0 }
    if s.now < turn then
      let good := first ∧ s.launchGood m0
      let t := c.2.push turn 47 (.launchMessage
        { m with rsvd1 := if good ∨ told then 2 else 1, rsvd := BitVec.ofNat 17 (turn - delivered) } done)
      .next (if good then t.answerLaunch m0 done delivered 0 else t)
    else
      let u := c.2.useStacks ks
      match u.1, s.launchRecord m0 with
      | none, .heat r =>
        let z := u.2.choose s.now (delivered + 2048)
        let l : LaunchReq :=
          { id := s.nextOp, readyAt := z.1, delivered := delivered, record := r, anchor := msgDword m 1
            args := argWords narg (elemsOf 4 (m.payload.drop 16)) }
        let t : State := { z.2 with nextOp := s.nextOp + 1 }
        let t := t.modQueue (bits x 53 48) fun q => { q with launches := q.launches ++ [l] }
        .next (if told then t else t.answerLaunch m0 done delivered 0)
      | _, _ =>
        let t := u.2.logEvent (.launch 0xE4)
        .next (if told then t else t.answerLaunch m0 done delivered 0xE4)
  | _ => .fault .noData

/-! ## The arbiter (R283-R285) -/

/-- A queue's ready head (R283). -/
inductive Head where
  | saved (h : Heat)
  | launch (l : LaunchReq)
  | node (i : Nat) (n : NodeRun) (r : Record)
  | ring (c : Command) (r : Record) (anchor : Nat) (args : List Word)
deriving DecidableEq, Repr

/-- The first ready heat node of a graph. -/
def Graph.readyHeat (g : Graph) : Option (Nat × NodeRun × Record) :=
  if g.stopped then none
  else ((List.range g.nodes.length).zip g.nodes).findSome? fun e =>
    if e.2.node.kind = 0 ∧ e.2.isReady then e.2.node.heat.map fun r => (e.1, e.2, r) else none

/-- THE READY HEAD of a queue (R283): a saved heat, a launch-write heat, a graph node, the ring's head. -/
def State.headOf (s : State) (q : Nat) : Option Head :=
  let x := s.queue q
  match x.saves.findSome? s.heat? with
  | some h => some (.saved h)
  | none =>
    let l := match x.launches with
      | l :: _ => if l.readyAt ≤ s.now then some l else none
      | [] => none
    match l with
    | some l => some (.launch l)
    | none => match x.graph.bind (·.readyHeat) with
      | some (i, n, r) => some (.node i n r)
      | none => match x.head with
        | some c => (match c.body with
          | .heat r a args => some (.ring c r a args)
          | _ => none)
        | none => none

/-- The cycle of an anchor that a command names (R14, R56): 0 names none. -/
def anchorNamed (now a : Nat) : Nat := if a = 0 then 0 else turnBase now + a

/-- The least anchor of a head (R20, R56, R288), and the anchor it is named. -/
def Head.earliest (h : Head) (now : Nat) : Nat × Nat :=
  match h with
  | .saved _ => (0, 0)
  | .launch l => (max (l.delivered + 2800) (now + 1024), anchorNamed now l.anchor)
  | .node _ n _ => (max (n.readyAt + 1024) (now + 1024), 0)
  | .ring c _ a _ => (max (c.readAt + 2800) (now + 1024), anchorNamed now a)

/-- The record of a head. -/
def Head.record (h : Head) : Record :=
  match h with
  | .saved h => h.record
  | .launch l => l.record
  | .node _ _ r => r
  | .ring _ r _ _ => r

/-- Whether a head can be admitted now (R55): its clusters and anchor. -/
def State.canAdmit (s : State) (h : Head) : Option (List Nat × Nat) :=
  match h with
  | .saved x => s.resumeAnchor x
  | h => s.admissible h.record (h.earliest s.now).1 (h.earliest s.now).2

/-- Take a launch write off its queue (R271). -/
def State.dropLaunch (s : State) (q id : Nat) : State :=
  s.modQueue q fun x => { x with launches := x.launches.filter fun l => l.id ≠ id }

/-- RELEASE A HEAD WITH A CAUSE before it runs (R280, R329): the umpire logs it; a record of an indirect buffer stops its buffer. -/
def State.rejectHead (s : State) (q : Nat) (h : Head) (cause : Nat) : State :=
  match h with
  | .saved x => (s.logEvent (.heat x.heatid cause)).abortHeat x.hid cause
  | .launch l => (s.logEvent (.launch cause)).dropLaunch q l.id
  | .node i _ _ => (s.modNode q i fun n => { n with ran := true }).graphFault q cause
  | .ring c _ _ _ => s.badCommand q c cause 0

/-- ADMIT A HEAD (R57, R120, R284): an armed heat's windows are resolved now. -/
def State.admitHead (s : State) (q : Nat) (h : Head) (cl : List Nat) (a : Nat) : State :=
  let resolved : Option Record := if h.record.armed then (s.resolvePages h.record).map fun ps => { h.record with pages := ps }
    else some h.record
  match h, resolved with
  | .saved x, _ => s.beginRestore x cl a
  | h, none => s.rejectHead q h 0xA1
  | .launch l, some r =>
    (s.dropLaunch q l.id).admitHeat q .launch r cl a l.args
  | .node i n _, some r =>
    let words := (elemsOf 4 ((List.range 4).map fun j => leBytes 8 (n.node.xn (1 + j))).flatten)
    let irq := match (s.queue q).graph with
      | some g => (((s.queue q).commands.find? fun c => c.entry == g.entry && c.sub == g.sub).map (·.irq)).getD false
      | none => false
    (s.modNode q i fun n => { n with running := true }).admitHeat q (.node i irq) r cl a (argWords (bits (n.node.xn 0) 3 0) words)
  | .ring c _ _ args, some r =>
    let o : Origin := match c.sub with
      | none => .ring c.entry c.tag c.irq
      | some j => .indirect c.entry j c.irq
    ((s.modCommand q c.entry c.sub fun c => { c with admitted := true }).admitHeat q o r cl a args).advanceQueue q

/-- The queues that the front end serves, with their heads. -/
def State.heads (s : State) : List (Nat × Head) :=
  if !s.ready.fe then []
  else (s.queues.filter fun q => q.2.desc.en).filterMap fun q => (s.headOf q.1).map fun h => (q.1, h)

/-- Heads whose EXACT anchor can no longer be taken are released with 0x88 (R337). -/
def State.dropMissed (s : State) : State :=
  s.heads.foldl (fun (s : State) e => match e.2 with
    | .saved _ => s
    | h => if anchorMissed h.record (h.earliest s.now).1 (h.earliest s.now).2 then s.rejectHead e.1 h 0x88 else s) s

/-- ONE STEP OF THE ARBITER (R284). -/
def State.arbitrate (s : State) : State :=
  let s := s.dropMissed
  let b := s.heads
  let fresh := b ≠ [] ∧ b.all fun e => decide ((s.queue e.1).deficit ≤ 0)
  let s := if fresh then b.foldl (fun (s : State) e => s.modQueue e.1 fun q =>
      { q with deficit := q.deficit + ((64 * q.desc.qw : Nat) : Int) }) s else s
  let order := (b.filter fun e => decide (s.pointer ≤ e.1)) ++ b.filter fun e => decide (e.1 < s.pointer)
  let pick := order.findSome? fun e =>
    if (s.queue e.1).deficit > 0 then (s.canAdmit e.2).map fun r => (e.1, e.2, r.1, r.2) else none
  let s := match pick with
    | some (q, h, cl, a) => { s.admitHead q h cl a with pointer := q }
    | none => s
  let idle (q : Nat) : Bool := (s.headOf q).isNone && !(s.heats.any fun h => h.queue == q)
  s.queues.foldl (fun (s : State) e => if idle e.1 then s.modQueue e.1 fun q => { q with deficit := min q.deficit 0 } else s) s

/-- ARBITER_STEP (R284): every 64 c. -/
def execArbiterStep (s : State) : Host.Outcome State Fault Refusal :=
  match s.arg with
  | .arbiterStep => .next (s.arbitrate.push (s.now + 64) 90 .arbiterStep)
  | _ => .fault .noData

/-! ## Completion (R61, R282, R287, R329) -/

/-- Whether a heat completes now: it has been released with a cause, or it is closing and quiet and has not faulted (R61,
R320). -/
def State.completes (s : State) (h : Heat) : Bool :=
  (h.abortCause != 0) ||
    ((h.status == .closing || h.status == .running) && h.fault.isNone && h.allRetired && s.quiet h && s.msgQuiet h)

/-- REMOVE A HEAT with everything it holds (R61). -/
def State.removeHeat (s : State) (h : Heat) : State :=
  let s := if h.away then s else s.freeCores h
  let s := s.modQueue h.queue fun q => { q with saves := q.saves.filter (· ≠ h.hid) }
  { s with
    heats := s.heats.filter fun x => x.hid ≠ h.hid
    gops := s.gops.filter fun o => o.hid ≠ h.hid
    cmds := s.cmds.filter fun c => c.hid ≠ h.hid
    detects := s.detects.filter fun d => d.hid ≠ h.hid }

/-- HEAT_COMPLETION (R61, R282, R285, R287, R329): the cycle's barrier changes and detections are settled, since one that
names the heat halts it instead (R320); then everything of the heat is released and its record is written, its graph goes on,
or its buffer. A saved heat that is not resuming holds no clusters and is charged nothing more. -/
def execHeatCompletion (s : State) : Host.Outcome State Fault Refusal :=
  match s.arg with
  | .heatCompletion hid =>
    let s := s.settle
    match s.heat? hid with
    | none => .next s
    | some h0 =>
      if !s.completes h0 then .next s
      else
        let held := !(h0.away && h0.prov == 0)
        let s := if held then s.settleCharge hid else s
        let h := (s.heat? hid).getD h0
        let r := s.heatRecord h h.abortCause 0
        let s := if held then s.leaves h else s
        let s := (s.removeHeat h).retireFlows h
        .next ((match h.origin with
          | .ring e _ _ => s.completeCommand h.queue e none r
          | .indirect e i _ => s.completeCommand h.queue e (some i) r
          | .launch => s
          | .node i _ =>
            let s := s.modGraph h.queue fun g => { g with charge := g.charge + r.charge }
            if h.abortCause = 0 then s.nodeDone h.queue i
            else (s.modNode h.queue i fun n => { n with running := false, ran := true }).stopGraph h.queue h.abortCause).reportHalted)

  | _ => .fault .noData

end Sys2Proof.Machine
end

