-- ==== Sys2Proof/Machine/Xmss.lean ====
section
/-! DEFINITION. The signatures of R304 and R305: SHAKE256 (FIPS 202) and XMSS in the parameter set XMSS-SHAKE256_20_256
(RFC 8391, NIST SP 800-208): n = 32, w = 16, 67 chains, height 20. -/
namespace Sys2Proof.Machine

/-! ## SHAKE256 -/

/-- Rotation offsets of Keccak-f[1600], lane x + 5y. -/
def keccakRot : List Nat :=
  [0, 1, 62, 28, 27, 36, 44, 6, 55, 20, 3, 10, 43, 25, 39, 41, 45, 15, 21, 8, 18, 2, 61, 56, 14]

/-- Round constants of Keccak-f[1600]. -/
def keccakRc : List (BitVec 64) :=
  [0x0000000000000001, 0x0000000000008082, 0x800000000000808A, 0x8000000080008000, 0x000000000000808B, 0x0000000080000001,
   0x8000000080008081, 0x8000000000008009, 0x000000000000008A, 0x0000000000000088, 0x0000000080008009, 0x000000008000000A,
   0x000000008000808B, 0x800000000000008B, 0x8000000000008089, 0x8000000000008003, 0x8000000000008002, 0x8000000000000080,
   0x000000000000800A, 0x800000008000000A, 0x8000000080008081, 0x8000000000008080, 0x0000000080000001, 0x8000000080008008]

/-- One round on the 25 lanes. -/
def keccakRound (a : List (BitVec 64)) (rc : BitVec 64) : List (BitVec 64) :=
  let at' (l : List (BitVec 64)) (i : Nat) : BitVec 64 := l.getD i 0
  let c := (List.range 5).map fun x => (List.range 5).foldl (fun acc y => acc ^^^ at' a (x + 5 * y)) 0
  let d := (List.range 5).map fun x => at' c ((x + 4) % 5) ^^^ (at' c ((x + 1) % 5)).rotateLeft 1
  let t := (List.range 25).map fun i => (at' a i ^^^ at' d (i % 5)).rotateLeft (keccakRot.getD i 0)
  let b := (List.range 25).map fun i =>
    let x := i % 5
    let y := i / 5
    at' t ((x + 3 * y) % 5 + 5 * x)
  let chi := (List.range 25).map fun i =>
    let y := i / 5
    at' b i ^^^ (~~~(at' b ((i + 1) % 5 + 5 * y)) &&& at' b ((i + 2) % 5 + 5 * y))
  (at' chi 0 ^^^ rc) :: chi.drop 1

/-- Keccak-f[1600]. -/
def keccakF (a : List (BitVec 64)) : List (BitVec 64) := keccakRc.foldl keccakRound a

/-- XOR a block of 136 bytes into the state. -/
def absorbBlock (a : List (BitVec 64)) (bs : List Byte) : List (BitVec 64) :=
  ((List.range 25).zip a).map fun e =>
    if e.1 < 17 then e.2 ^^^ BitVec.ofNat 64 (ofLeBytes ((bs.drop (8 * e.1)).take 8)) else e.2

/-- SHAKE256 of bytes, 32 bytes long: rate 136, padding 0x1F … 0x80. -/
def shake256 (m : List Byte) : List Byte :=
  let gap := 136 - m.length % 136
  let p : List Byte := m ++ (if gap = 1 then [0x9F] else 0x1F :: (List.replicate (gap - 2) 0 ++ [0x80]))
  let a := (List.range (p.length / 136)).foldl (fun a i => keccakF (absorbBlock a ((p.drop (136 * i)).take 136)))
    (List.replicate 25 0)
  ((a.take 4).map fun x => leBytes 8 x.toNat).flatten

/-! ## XMSS (RFC 8391) -/

/-- A number as big-endian bytes. -/
def beBytes (n x : Nat) : List Byte := (leBytes n x).reverse

/-- XOR of two byte strings. -/
def xorBytes (a b : List Byte) : List Byte := (a.zip b).map fun e => e.1 ^^^ e.2

/-- The keyed hashes F (0), H (1), H_msg (2) and PRF (3), by their number, which stands first. -/
def xmssHash (kind : Nat) (key m : List Byte) : List Byte := shake256 (beBytes 32 kind ++ key ++ m)

/-- A hash address: type, its three words, and keyAndMask; one tree in one layer. -/
def hashAddr (kind a b c mask : Nat) : List Byte :=
  List.replicate 12 0 ++ beBytes 4 kind ++ beBytes 4 a ++ beBytes 4 b ++ beBytes 4 c ++ beBytes 4 mask

/-- n steps of chain j of a leaf's one-time key, from step i on. -/
def wotsChain (seed : List Byte) (leaf j : Nat) : Nat → Nat → List Byte → List Byte
  | 0, _, x => x
  | n + 1, i, x =>
    let key := xmssHash 3 seed (hashAddr 0 leaf j i 0)
    let mask := xmssHash 3 seed (hashAddr 0 leaf j i 1)
    wotsChain seed leaf j n (i + 1) (xmssHash 0 key (xorBytes x mask))

/-- The 67 digits of a 32-byte message: its 64 hexadecimal digits and the three of their checksum. -/
def wotsDigits (m : List Byte) : List Nat :=
  let ds := (m.map fun b => [b.toNat / 16, b.toNat % 16]).flatten
  let c := (ds.map fun d => 15 - d).sum
  ds ++ [c / 256 % 16, c / 16 % 16, c % 16]

/-- The keyed hash of two nodes. -/
def randHash (seed : List Byte) (kind a b c : Nat) (l r : List Byte) : List Byte :=
  let key := xmssHash 3 seed (hashAddr kind a b c 0)
  let m0 := xmssHash 3 seed (hashAddr kind a b c 1)
  let m1 := xmssHash 3 seed (hashAddr kind a b c 2)
  xmssHash 1 key (xorBytes l m0 ++ xorBytes r m1)

/-- One level of the L-tree of a leaf. -/
def lTreeLevel (seed : List Byte) (leaf height : Nat) : Nat → List (List Byte) → List (List Byte)
  | i, l :: r :: rest => randHash seed 1 leaf height i l r :: lTreeLevel seed leaf height (i + 1) rest
  | _, one => one

/-- The L-tree of a leaf: its 67 values become one in 7 levels. -/
def lTree (seed : List Byte) (leaf : Nat) (vs : List (List Byte)) : List Byte :=
  ((List.range 7).foldl (fun vs h => lTreeLevel seed leaf h 0 vs) vs).headD []

/-- The root that a signature leads to, from leaf number, one-time signature and authentication path. -/
def xmssRoot (seed digest : List Byte) (leaf : Nat) (ots path : List (List Byte)) : List Byte :=
  let ends := ((List.range 67).zip (ots.zip (wotsDigits digest))).map fun e =>
    wotsChain seed leaf e.1 (15 - e.2.2) e.2.2 e.2.1
  ((List.range 20).zip path).foldl (fun node e =>
    if leaf / 2 ^ e.1 % 2 = 0 then randHash seed 2 0 e.1 (leaf / 2 ^ (e.1 + 1)) node e.2
    else randHash seed 2 0 e.1 (leaf / 2 ^ (e.1 + 1)) e.2 node) (lTree seed leaf ends)

/-- Bytes in pieces of 32. -/
def pieces32 (n : Nat) (bs : List Byte) : List (List Byte) := (List.range n).map fun i => (bs.drop (32 * i)).take 32

/-- WHETHER A SIGNATURE VERIFIES (R304): a public key of 68 bytes (OID, root, SEED) and a signature of 2,820. -/
def xmssVerifies (key m sig : List Byte) : Bool :=
  let root := (key.drop 4).take 32
  let leaf := ofLeBytes (sig.take 4).reverse
  let r := (sig.drop 4).take 32
  let digest := xmssHash 2 (r ++ root ++ beBytes 32 leaf) m
  key.length == 68 && sig.length == 2820 && ofLeBytes (key.take 4).reverse == 0x12 && decide (leaf < 2 ^ 20) &&
    xmssRoot ((key.drop 36).take 32) digest leaf (pieces32 67 (sig.drop 36)) (pieces32 20 (sig.drop (36 + 2144))) == root

/-! ## The device's own signatures (R305) -/

/-- A leaf of the device identity key: the ends of its chains, through its L-tree. -/
def identityLeaf (leaf : Nat) : List Byte :=
  lTree Config.identitySeed leaf ((List.range 67).map fun j =>
    wotsChain Config.identitySeed leaf j 15 0 (Config.identityChain leaf j))

/-- A node of the tree of the identity key. -/
def identityNode : Nat → Nat → List Byte
  | 0, i => identityLeaf i
  | h + 1, i => randHash Config.identitySeed 2 0 h i (identityNode h (2 * i)) (identityNode h (2 * i + 1))

/-- THE SIGNATURE of a message under a leaf of the device identity key (R305). -/
def xmssSign (leaf : Nat) (m : List Byte) : List Byte :=
  let r := xmssHash 3 Config.identityPrf (beBytes 32 leaf)
  let digest := xmssHash 2 (r ++ identityNode 20 0 ++ beBytes 32 leaf) m
  beBytes 4 leaf ++ r ++
    (((List.range 67).zip (wotsDigits digest)).map fun e =>
      wotsChain Config.identitySeed leaf e.1 e.2 0 (Config.identityChain leaf e.1)).flatten ++
    ((List.range 20).map fun k => identityNode k (Nat.xor (leaf / 2 ^ k) 1)).flatten

end Sys2Proof.Machine
end

