-- ==== Sys2Proof/Machine/System.lean ====
section
/-! DEFINITION. Time, power, bring-up, the host's registers and the firmware's own work (R15-R18, R33, R43, R262, R276,
R297, R298, R302-R308, R346, R349, R350). -/
namespace Sys2Proof.Machine

/-- A later cycle that the spec does not bound: a free value. -/
def State.someday (s : State) : Nat × State :=
  (s.now + 1 + Config.freeChoice s.freeCtr, { s with freeCtr := s.freeCtr + 1 })

/-! ## IEEE 1588 (R17, R18, R276, R346) -/

/-- A PTP message of this package: its messageType, its domain, and what follows as doublewords (R17, R267, R276, log 57). -/
def State.ptpMsg (s : State) (subtype : Nat) (body : List Nat) : Msg :=
  { s.newMsg 4 0x1FFFF 0x7FFF (((subtype + 256 * s.ptp.domain) :: body).map (leBytes 8)).flatten with ttl := 1 }

/-- The PTP time of a pod cycle, in units of 2^-16 ns (R18): E + P x 5/7 ns. -/
def State.ptpTime (s : State) (c : Nat) : Nat := 65536 * s.regatta.epoch + 65536 * 5 * c / 7

/-- Whether the last frame marker of a port, and the PTP time that its Sync gives it, agree with this package's counter within 4 ns
(R17, R18): the marker left when it was seen, less the link's part of the 1,120 c. Times are compared in units of 2^-16/7 ns. -/
def Port.inStep (p : Port) (epoch origin : Nat) : Bool :=
  match p.syncAt with
  | some (seen, _) =>
    let theirs := 7 * origin + 65536 * 5 * 1120
    let ours := 65536 * (7 * epoch + 5 * (seen + p.deskew))
    decide (theirs ≤ ours + 4 * 7 * 65536 ∧ ours ≤ theirs + 4 * 7 * 65536)
  | none => false

/-- SYNC (R17, R18, R276): sent at a frame marker, 128 times a second, on the ports that do not lead to the master; in a regatta one
that comes from the master's port sets or ends the lock. -/
def execSync (s : State) : Host.Outcome State Fault Refusal :=
  match s.arg with
  | .sync p sent origin =>
    if sent then
      let t := s.ptpTime s.now
      let s' := if s.ptp.decided ∧ s.ptp.slavePort ≠ some p then s.sendOn p (s.ptpMsg 0 [t / 65536, t % 65536]) else s
      .next (if (s.port p).trained then s'.push (roundUp 8192 (s.now + 10937500)) 72 (.sync p true 0) else s)
    else if s.ptp.slavePort ≠ some p ∨ !s.regatta.member then .next s
    else if (s.port p).inStep s.regatta.epoch origin then
      .next { s with ptpLock := true, ready := { s.ready with ptp := true } }
    else .next (if s.ptpLock then s.push s.now 48 .ptpLockLost else s)
  | _ => .fault .noData

/-- PDELAY_REQ (R276): answered with the time to the answer's own slot. -/
def execPdelayReq (s : State) : Host.Outcome State Fault Refusal :=
  match s.arg with
  | .pdelayReq p => .next (s.sendOn p (s.ptpMsg 3 [(s.port p).nextUnscheduled s.now - s.now]))
  | _ => .fault .noData

/-- PDELAY_RESP (R17, R276): half of what the round trip took beyond the turnaround is the link's delay. -/
def execPdelayResp (s : State) : Host.Outcome State Fault Refusal :=
  match s.arg with
  | .pdelayResp p turn =>
    .next (s.modPort p fun x => { x with pdelay := x.pdelay.map fun d => (d.1, (s.now - d.1 - turn) / 2) })
  | _ => .fault .noData

/-- PDELAY_REQ_SEND (R276): on a trained port, and again at a cycle that the device chooses (log 57). -/
def execPdelayReqSend (s : State) : Host.Outcome State Fault Refusal :=
  match s.arg with
  | .pdelayReqSend p =>
    if !(s.port p).trained then .next s
    else
      let c := (s.port p).nextUnscheduled s.now
      let s := s.modPort p fun x => { x with pdelay := some (c, (x.pdelay.map (·.2)).getD 0) }
      let n := (s.sendOn p (s.ptpMsg 2 [])).someday
      .next (n.2.push n.1 72 (.pdelayReqSend p))
  | _ => .fault .noData

/-- The clock that a package's Announce tells of (R17, R276): its own where it is grandmaster, otherwise its master's, one step
further; the path names every package on the way. -/
def State.announced (s : State) : Announce :=
  let a := match s.ptp.slavePort.bind s.heard with
    | some a => { a with steps := a.steps + 1, sender := s.pkgNo.toNat }
    | none => s.ownClock
  { a with path := a.path ++ [s.pkgNo.toNat] }

/-- The doublewords of an Announce (log 57): what the algorithm compares, the identity, the sender, and the path. -/
def Announce.body (a : Announce) : List Nat :=
  [a.prio1 % 256 * 2 ^ 56 + a.cls % 256 * 2 ^ 48 + a.accuracy % 256 * 2 ^ 40 + a.variance % 65536 * 2 ^ 24 +
    a.prio2 % 256 * 2 ^ 16 + a.steps % 65536, a.identity, a.sender] ++ (a.path.take 26).map (· + 1)

/-- The Announce that a message's payload holds. -/
def announceOf (body : List Byte) : Announce :=
  let w (i : Nat) : Nat := ofLeBytes ((body.drop (8 * i)).take 8)
  let x := w 1
  { prio1 := bits x 63 56, cls := bits x 55 48, accuracy := bits x 47 40, variance := bits x 39 24, prio2 := bits x 23 16
    steps := bits x 15 0, identity := w 2, sender := w 3
    path := (((List.range 26).map fun i => w (4 + i)).takeWhile (· ≠ 0)).map (· - 1) }

/-- ANNOUNCE (R17, R276): kept for its port, and the best master clock algorithm runs. -/
def execAnnounce (s : State) : Host.Outcome State Fault Refusal :=
  match s.arg with
  | .announce p body => .next (s.modPort p fun x => { x with announce := some (announceOf body) }).bestMaster
  | _ => .fault .noData

/-- ANNOUNCE_SEND (R17, R276): the algorithm runs, and an Announce goes out on every trained port that does not lead to the master;
and again at a cycle that the device chooses (log 57). -/
def execAnnounceSend (s : State) : Host.Outcome State Fault Refusal :=
  match s.arg with
  | .announceSend =>
    let s := s.bestMaster
    let ps := (List.range 16).filter fun p => (s.port p).trained
    if ps = [] then .next s
    else
      let m := s.ptpMsg 0x0B s.announced.body
      let n := ((ps.filter fun p => s.ptp.slavePort ≠ some p).foldl (fun (s : State) p => s.sendOn p m) s).someday
      .next (n.2.push n.1 72 .announceSend)
  | _ => .fault .noData

/-- PTP_LOCK_LOST (R346): READY clears PTP, and every resident heat with SCHED = 1 faults with 0xE3. -/
def execPtpLockLost (s : State) : Host.Outcome State Fault Refusal :=
  match s.arg with
  | .ptpLockLost =>
    let s : State := { s with ptpLock := false, ready := { s.ready with ptp := false } }
    .next (s.heats.foldl (fun (s : State) h =>
      if h.record.sched && h.resident then s.detect (Detect.blank h.hid (externalRank 0 0xE3) 0xE3 6) else s) s)
  | _ => .fault .noData

/-! ## The pod counter (R14-R16) -/

/-- Whether a bank of a port is active (R15): the bank in use of either direction names a flow. -/
def Port.bankActive (p : Port) : Bool :=
  let names (t : Store (BitVec 32)) (b : Bool) : Bool := t.any fun e => e.1 / 4096 == b.toNat && e.2.getLsbD 31
  names p.txTable p.txAct || names p.rxTable p.rxAct

/-- The unit whose multiples a periodic step keeps, with its place in it (R33, R34, R43, R284, R301). -/
def periodOf (e : Ev) : Option (Nat × Nat) :=
  match e with
  | .frameMarkerSend => some (8192, 0)
  | .sync _ true _ => some (8192, 0)
  | .governorStep => some (1400, 0)
  | .coalesceTimer => some (64, 0)
  | .arbiterStep => some (64, 0)
  | .refresh => some (4096, 3936)
  | .thermalBudgetStep => some (1400000, 0)
  | _ => none

/-- Where a cycle c of the old count lies in the new one. -/
def shiftCycle (old new c : Nat) : Nat := c + new - old

/-- The cycle that a pending bank switch names (R39). -/
def switchCycle (e : Ev) : Option Nat :=
  match e with
  | .bankSwitchTx _ c => some (8192 * c)
  | .bankSwitchRx _ c => some (8192 * c + 1120)
  | _ => none

/-- A step's cycle in the new count: a periodic one takes its next place, and a bank switch comes at the frame it names, or at once
where that has begun (log 101). -/
def Due.rebase (d : Due) (old new : Nat) : Due :=
  match periodOf d.ev, switchCycle d.ev with
  | some (u, k), _ => { d with at_ := roundUp u (new + 1 + (u - k) % u) - (u - k) % u }
  | none, some c => { d with at_ := max new (turnBase new + c) }
  | none, none => { d with at_ := shiftCycle old new d.at_ }

/-- A port with the cycles it keeps in the new count. -/
def Port.rebase (p : Port) (old new : Nat) : Port :=
  let f := shiftCycle old new
  { p with
    queue := p.queue.map fun e => (f e.1, e.2), lastUnsched := none, relay := p.relay.map fun r => { r with at_ := f r.at_ }
    incoming := p.incoming.map fun e => (f e.1, e.2), txBuf := [], sent := none, markerSeen := none, lastRelease := none
    syncAt := none, pdelay := none }

/-- A host ring with the cycles it keeps in the new count. -/
def Ring.rebase (r : Ring) (old new : Nat) : Ring :=
  { r with waiting := r.waiting.map fun e => { e with posted := shiftCycle old new e.posted, from_ := shiftCycle old new e.from_ } }

/-- A queue with the cycles it keeps in the new count. -/
def Queue.rebase (q : Queue) (old new : Nat) : Queue :=
  { q with
    commands := q.commands.map fun c => { c with readAt := shiftCycle old new c.readAt }
    launches := q.launches.map fun l => { l with readyAt := shiftCycle old new l.readyAt, delivered := shiftCycle old new l.delivered } }

/-- POD_COUNTER_LOAD (R15, R18, R267): the counter takes the value at once when the package joins a regatta, whose epoch is then E;
while a heat is resident or a bank active the load has no effect. What lies ahead keeps its distance, periodic steps their multiples
and bank switches the frames they name. The unscheduled flows start at SEQ 0. -/
def execPodCounterLoad (s : State) : Host.Outcome State Fault Refusal :=
  match s.arg with
  | .podCounterLoad v epoch =>
    if s.heats.any (·.resident) || s.ports.any (fun p => p.2.bankActive) then .next s
    else
      let old := s.now
      let new := v.toNat
      let due := (s.agenda.map fun d => d.rebase old new).foldl (fun acc d => insertDue d acc) []
      let cs := (List.range 16).foldl (fun (cs : Store Counter) i =>
        let c := Store.get Counter.init cs i
        if c.source = 0 then Store.set Counter.init cs i { c with value := c.value + BitVec.ofNat 64 old - v } else cs) s.counters
      .next { s with
        now := new, agenda := due, counters := cs, hbmLog := [], stackFrames := [], gone := [], spent := []
        ports := s.ports.map fun p => (p.1, p.2.rebase old new)
        rings := s.rings.map fun r => (r.1, r.2.rebase old new)
        queues := s.queues.map fun q => (q.1, q.2.rebase old new)
        coalesce := s.coalesce.map fun c => (c.1, { c.2 with first := shiftCycle old new c.2.first })
        trimAt := s.trimAt.map (shiftCycle old new)
        flows := [], inflow := [], seen := [], reorder := [], unacked := []
        regatta := { s.regatta with
          member := true, epoch := epoch, haltLead := 8192 * Config.haltLeadFrames, packages := Config.regattaPackages } }
  | _ => .fault .noData

/-- FREQUENCY_TRIM (R16): steps of 2^-40, at most once in 131,072 c, at most 0.02 ppm at a time and 100 ppm in all. -/
def execFrequencyTrim (s : State) : Host.Outcome State Fault Refusal :=
  match s.arg with
  | .frequencyTrim n =>
    let soon : Bool := match s.trimAt with
      | some c => decide (s.now < c + 131072)
      | none => false
    .next (if soon || decide (n.natAbs > 21990 ∨ (s.trim + n).natAbs > 109951162) then s
      else { s with trim := s.trim + n, trimAt := some s.now })
  | _ => .fault .noData

/-- A stack's refresh of a frame begins (R33, R338): at its place, or 96 c late after a second retry. -/
def StackFrame.refresh (x : StackFrame) (now : Nat) : StackFrame :=
  { x with refreshed := if x.lateRefresh = some (now / 4096 + 1) then now + 96 else now }

/-- REFRESH (R33, R338): every stack is refreshed in cycles 3,936-4,095 of every frame, one that took a second retry up to cycle 95
of the next. It keeps what the stacks hold. -/
def execRefresh (s : State) : Host.Outcome State Fault Refusal :=
  match s.arg with
  | .refresh =>
    let put (l : Store StackFrame) (k : Nat) : Store StackFrame :=
      Store.set StackFrame.init l k ((Store.get StackFrame.init l k).refresh s.now)
    .next (({ s with stackFrames := (List.range 8).foldl put s.stackFrames } : State).push (s.now + 4096) 70 .refresh)
  | _ => .fault .noData

/-! ## Power (R42, R43, R308) -/

/-- A heat that has left the package, as a load that ended with it. -/
def SpentHeat.load (x : SpentHeat) : Load :=
  { record := x.record, anchor := x.anchor, from_ := x.anchor, until_ := min x.ended (x.anchor + x.record.stop + 1) }

/-- What the governor sees (R43): the resident heats, and those that have left in the last interval. -/
def State.drawing (s : State) : List Load := s.loads ++ s.spent.map (·.load)

/-- The greatest declared draw in a domain over the cycles [a, b), in units of 0.25 W (R43). -/
def State.drawOver (s : State) (domain a b : Nat) : Nat :=
  let ls := s.drawing
  let cs := a :: (ls.map (·.turns)).flatten.filter fun c => decide (a ≤ c ∧ c < b)
  (cs.map fun c => (ls.map fun l => l.draw c domain).sum).foldl max 0

/-- GOVERNOR_STEP (R43): tokens of 0.5 W for the matrix engines, the lane pipes and the link transceivers: each domain's
declared draw for the next two intervals, the rest spread evenly. A limit keeps the draw of the interval that has ended. -/
def execGovernorStep (s : State) : Host.Outcome State Fault Refusal :=
  match s.arg with
  | .governorStep =>
    let half (x : Nat) : Nat := (x + 1) / 2
    let need := (List.range 3).map fun d => half (s.drawOver d s.now (s.now + 2800))
    let left := 2 * s.budget - half Config.fixedAllowance - need.sum
    let share (d : Nat) : Nat := left / 3 + (if d < left % 3 then 1 else 0)
    let tok := (List.range 3).map fun d => (d, need.getD d 0 + share d)
    let lim := (List.range 3).map fun d => (d, half (s.drawOver d (s.now - 1400) (s.now + 2800)) + share d)
    .next (({ s with
      tokens := Store.setAll 0 [] tok, limits := Store.setAll 0 [] lim
      spent := s.spent.filter fun x => decide (s.now ≤ x.ended + 2800) } : State).push (nextMultiple 1400 s.now) 72 .governorStep)
  | _ => .fault .noData

/-- THERMAL_BUDGET_STEP (R307, R308): each millisecond the umpire reads the hotter die (a free value below 105 °C; log 7) and lowers
or raises BUDGET by 50 W; the package power that the SMBus port shows is a free value up to 2,000 W. -/
def execThermalBudgetStep (s : State) : Host.Outcome State Fault Refusal :=
  match s.arg with
  | .thermalBudgetStep =>
    let x := s.choose 0 1679
    let y := x.2.choose 0 1679
    let z := y.2.choose 0 2000
    let s := z.2
    .next (({ s with
      power := z.1
      temp := BitVec.ofNat 32 (y.1 * 2 ^ 16 + x.1)
      budget := if max x.1 y.1 > 1520 then max 1000 (s.budget - 50) else min s.budgetSet (s.budget + 50) } : State).push
        (s.now + 1400000) 72 .thermalBudgetStep)
  | _ => .fault .noData

/-! ## Bring-up, firmware and attestation (R302-R305) -/

/-- Whether the stages before FE have come (R303): every cabled port trained, and with one the PTP lock held. -/
def State.portsReady (s : State) : Bool :=
  s.ready.port &&& Config.cabledPorts == Config.cabledPorts && (Config.cabledPorts == 0 || s.ready.ptp)

/-- POWER_ON_RESET (R303, R350): one stage of the bring-up sets its READY bit, and the next follows. Ports train on their own; the
front end reads queues once they have, and not after policy F. -/
def execPowerOnReset (s : State) : Host.Outcome State Fault Refusal :=
  match s.arg with
  | .powerOnReset stage =>
    let go (s : State) (e : Ev) : State := let c := s.someday; c.2.push c.1 70 e
    .next (match stage with
      | 0 => go { s with ready := { s.ready with pcie := true } } (.powerOnReset 1)
      | 1 => go s (.firmwareVerify Config.flashImage false)
      | 2 => go { s with ready := { s.ready with ump := true } } (.powerOnReset 3)
      | 3 => go { s with ready := { s.ready with mar := true } } (.powerOnReset 4)
      | 4 => go { s with ready := { s.ready with stack := 0xFF } } (.powerOnReset 5)
      | _ =>
        if s.fatal.isSome then s
        else if s.portsReady then { s with ready := { s.ready with fe := true } }
        else go s (.powerOnReset 5))
  | _ => .fault .noData

/-- The security version of a firmware image (R304; layout of the header, log 75). -/
def imageSvn (image : List Byte) : Nat := ofLeBytes ((image.drop 4).take 4)

/-- The public key that an image carries: the 68 bytes before its 2,820-byte signature (R304, log 75). -/
def imageKey (image : List Byte) : List Byte := (image.drop (image.length - 2820 - 68)).take 68

/-- The length that an image's header gives its body (R304, log 75). -/
def imageBody (image : List Byte) : Nat := ofLeBytes ((image.drop 8).take 4)

/-- Whether the boot ROM accepts an image (R304): its MAGIC and length, the vendor's key, the signature over header and body, and the
security version. -/
def imageAccepted (image : List Byte) : Bool :=
  let signed := image.take (image.length - 2820)
  decide (68 ≤ imageBody image) && image.length == 64 + imageBody image + 2820 && ofLeBytes (image.take 4) == 0x4F424657 &&
  shake256 (imageKey image) == Config.fusedKeyHash && xmssVerifies (imageKey image) signed (image.drop signed.length) &&
  decide (Config.fusedMinSvn ≤ imageSvn image)

/-- FIRMWARE_VERIFY (R304): an accepted image runs, and the umpire starts. The ROM takes one from the mailbox only when that of the
flash has failed. -/
def execFirmwareVerify (s : State) : Host.Outcome State Fault Refusal :=
  match s.arg with
  | .firmwareVerify image fromMailbox =>
    if s.ready.fwok ∨ (fromMailbox ∧ !s.flashFailed) then .next s
    else if !imageAccepted image then .next { s with flashFailed := s.flashFailed || !fromMailbox }
    else
      let c := s.someday
      .next (({ c.2 with image := image, ready := { c.2.ready with fwok := true } } : State).push c.1 70 (.powerOnReset 2))
  | _ => .fault .noData

/-- FUNCTION_LEVEL_RESET (R350): a device that took policy F takes work again. -/
def execFunctionLevelReset (s : State) : Host.Outcome State Fault Refusal :=
  match s.arg with
  | .functionLevelReset =>
    .next (if s.fatal.isSome then ({ s with fatal := none } : State).push s.now 70 (.powerOnReset 5) else s)
  | _ => .fault .noData

/-- The leaf after the monotonic counter has advanced (R305): the first is 0. -/
def nextLeaf (l : Option Nat) : Nat :=
  match l with
  | none => 0
  | some n => n + 1

/-- The part of an attestation report that is signed (R305, log 74). -/
def State.reportBody (s : State) (nonce : List Byte) (leaf : Nat) : List Byte :=
  nonce ++ shake256 s.image ++ leBytes 4 (imageSvn s.image) ++ leBytes 8 Config.deviceSerial.toNat ++ leBytes 4 leaf

/-- ATTESTATION (R305): the leaf counter advances, and a report over the nonce is signed under that leaf of the identity key, while
one is left. -/
def execAttestation (s : State) : Host.Outcome State Fault Refusal :=
  match s.arg with
  | .attestation nonce =>
    let leaf := nextLeaf s.leafIndex
    if nonce.length ≠ 32 ∨ leaf ≥ 2 ^ 20 ∨ !s.ready.ump then .next s
    else
      let body := s.reportBody nonce leaf
      .next { s with leafIndex := some leaf, mailbox := { s.mailbox with attestation := body ++ xmssSign leaf body } }
  | _ => .fault .noData

/-- A command link. -/
def State.link (s : State) (m : Nat) : CmdLink := Store.get CmdLink.init s.links m
/-- Change one. -/
def State.modLink (s : State) (m : Nat) (f : CmdLink → CmdLink) : State :=
  { s with links := Store.set CmdLink.init s.links m (f (s.link m)) }

/-- The messages a link holds for want of a permit, in one direction. -/
def CmdLink.held (l : CmdLink) (toUmpire : Bool) : List (List Byte) := if toUmpire then l.marHeld else l.umpHeld
/-- The permits of a sender. -/
def CmdLink.permits (l : CmdLink) (toUmpire : Bool) : Nat := if toUmpire then l.marPermits else l.umpPermits
/-- Set both. -/
def CmdLink.setSide (l : CmdLink) (toUmpire : Bool) (n : Nat) (h : List (List Byte)) : CmdLink :=
  if toUmpire then { l with marPermits := n, marHeld := h } else { l with umpPermits := n, umpHeld := h }

/-- The messages on their way to a receiver, oldest first. -/
def CmdLink.sent (l : CmdLink) (toUmpire : Bool) : List (List Byte) := if toUmpire then l.marSent else l.umpSent

/-- A message leaves (R302). -/
def CmdLink.launch (l : CmdLink) (toUmpire : Bool) (bs : List Byte) : CmdLink :=
  if toUmpire then { l with marSent := l.marSent ++ [bs] } else { l with umpSent := l.umpSent ++ [bs] }

/-- The receiver consumes the oldest message on its way (R302). -/
def CmdLink.consume (l : CmdLink) (toUmpire : Bool) : CmdLink :=
  match l.sent toUmpire with
  | [] => l
  | bs :: r => if toUmpire then { l with marSent := r, umpTook := bs } else { l with umpSent := r, marTook := bs }

/-- Send one message of a command link: its consumption follows at a cycle of the receiver's own (R302). -/
def State.sendLink (s : State) (m : Nat) (toUmpire : Bool) (bs : List Byte) : State :=
  let c := (s.modLink m fun l => l.launch toUmpire bs).someday
  c.2.push c.1 70 (.commandLinkMessage m toUmpire [])

/-- COMMAND_LINK_MESSAGE (R302): a 32-byte message spends a permit or is held; no bytes stand for the consumption of the oldest one
on its way, which returns its permit and lets the next held message go. -/
def execCommandLinkMessage (s : State) : Host.Outcome State Fault Refusal :=
  match s.arg with
  | .commandLinkMessage m up bs =>
    let l := s.link m
    let n := l.permits up
    if m ≥ 96 then .next s
    else if bs.length = 32 then
      .next (if n > 0 then (s.modLink m fun l => l.setSide up (n - 1) (l.held up)).sendLink m up bs
        else s.modLink m fun l => l.setSide up 0 (l.held up ++ [bs]))
    else if bs = [] ∧ l.sent up ≠ [] then
      let s := s.modLink m fun l => l.consume up
      .next (match l.held up with
        | [] => s.modLink m fun l => l.setSide up (min 8 (n + 1)) []
        | x :: r => (s.modLink m fun l => l.setSide up n r).sendLink m up x)
    else .next s
  | _ => .fault .noData

/-! ## The host's accesses (R297-R301, R306) -/

/-- HOST_MEMORY_ACCESS (R32, R129, R297): bytes written or read through BAR4 perform in free stack grains, up to a stack's boundary at
a time; what is read goes to the host under its offset. As many bytes are read as `data` has. -/
def execHostMemoryAccess (s : State) : Host.Outcome State Fault Refusal :=
  match s.arg with
  | .hostMemoryAccess write off data =>
    let pa := s.winbase.toNat / 2 ^ 36 * 2 ^ 36 + off
    if !s.ready.pcie ∨ data = [] ∨ off + data.length > 2 ^ 36 ∨ pa + data.length > hbmEnd then .next s
    else if !s.grainFree (stackOf pa) s.now then .next (s.push (s.freeGrain (stackOf pa) (s.now + 1)) 24 s.arg)
    else
      let n := min data.length (4096 - pa % 4096)
      let u := s.stackUse (stackOf pa)
      let s := if write then u.2.writeHbm pa (data.take n)
        else { u.2 with hostReads := u.2.hostReads ++ [(off, u.2.readHbm pa n)] }
      .next (if n < data.length
        then s.push (s.freeGrain (stackOf (pa + n)) (s.now + 1)) 24 (.hostMemoryAccess write (off + n) (data.drop n)) else s)
  | _ => .fault .noData

/-- COUNTER_LATCH (R306): all 16 counters in one cycle. -/
def execCounterLatch (s : State) : Host.Outcome State Fault Refusal :=
  match s.arg with
  | .counterLatch =>
    let cs := (List.range 16).foldl (fun (cs : Store Counter) i =>
      let c : Counter := { Store.get Counter.init cs i with copy := s.readCounter i }
      Store.set Counter.init cs i c) s.counters
    .next { s with counters := cs }
  | _ => .fault .noData

/-- Write a doubleword of a queue descriptor (R277, Table 1). -/
def State.writeQueue (s : State) (q j : Nat) (v : BitVec 64) : State :=
  match j with
  | 0 => s.modQueue q fun x => { x with desc := { x.desc with rbase := v } }
  | 1 => s.modQueue q fun x => { x with desc := { x.desc with cbase := v } }
  | 2 =>
    (s.modQueue q fun x => { x with desc := { x.desc with
      rlog := bits v.toNat 63 59, rloc := v.getLsbD 58, cloc := v.getLsbD 57, qw := bits v.toNat 55 32 } }).push s.now 70
        (.queueEnWrite q (v.getLsbD 56))
  | _ => s.push s.now 70 (.queuePiWrite q (BitVec.ofNat 32 (v.toNat / 2 ^ 32)))

/-- Write a doubleword of a host ring descriptor (R299, Table 4). -/
def State.writeRing (s : State) (r j : Nat) (v : BitVec 64) : State :=
  match j with
  | 0 => s.modRing r fun x => { x with hbase := v }
  | 1 => (s.modRing r fun x => { x with rlog := bits v.toNat 63 59 }).push s.now 70 (.hostRingEnWrite r (v.getLsbD 58))
  | _ => s

/-- Submit the pre-emption request that P0 completes (R289, R298). -/
def State.submitPreempt (s : State) (v : BitVec 64) : State :=
  let s : State := { s with preempt0 := v }
  let hid := v.truncate 32
  let mode := v.toNat / 2 ^ 32
  s.push s.now 70 (match mode with
    | 0 => .preemptEstimate hid s.preempt1
    | 1 => .preemptSave hid s.preempt1
    | 2 => .preemptDrain hid s.preempt1
    | _ => .preemptionRequestUnassigned hid (BitVec.ofNat 32 mode))

/-- WRITE A DOUBLEWORD OF THE CONTROL WINDOW (R5, R298): its RW fields take the value, and a register with a behaviour of
its own makes its step; the mailbox keeps it. A write to an event counter itself, for which R306 gives no access code, changes
nothing (log 82). -/
def State.writeRegister (s : State) (off : Nat) (v : BitVec 64) : State :=
  let i := off / 8
  if off = 0x10 then s.writeBudget v.toNat
  else if off = 0x20 then { s with winbase := v }
  else if 0x1000 ≤ off ∧ off < 0x1800 then s.writeQueue ((off - 0x1000) / 32) (i % 4) v
  else if 0x2000 ≤ off ∧ off < 0x2800 then s.writeRing ((off - 0x2000) / 32) (i % 4) v
  else if 0x2800 ≤ off ∧ off < 0x2C00 then
    s.modUnit ((off - 0x2800) / 8) fun c =>
      { c with vec := bits v.toNat 63 57, en := v.getLsbD 56, ccnt := bits v.toNat 55 40, ctim := bits v.toNat 39 8 }
  else if off = 0x3000 then s.submitPreempt v
  else if off = 0x3008 then { s with preempt1 := v }
  else if 0x4080 ≤ off ∧ off < 0x4100 then
    let n := (off - 0x4080) / 8
    let c := Store.get Counter.init s.counters n
    let src : BitVec 8 := v.truncate 8
    let held := s.readCounter n
    let c : Counter := { c with source := src, field := v.extractLsb' 8 8, value := if src = 0 then held - BitVec.ofNat 64 s.now else held }
    { s with counters := Store.set Counter.init s.counters n c }
  else if off = 0x4100 then (if v = 1 then s.push s.now 70 .counterLatch else s)
  else if 0x10000 ≤ off ∧ off < 0x11000 then
    { s with mailbox := { s.mailbox with area := Store.set 0 s.mailbox.area ((off - 0x10000) / 8) v } }
  else s

/-- A doubleword of a queue descriptor as it reads (R277, Table 1). -/
def QueueDesc.word (d : QueueDesc) (j : Nat) : Nat :=
  match j with
  | 0 => d.rbase.toNat
  | 1 => d.cbase.toNat
  | 2 => d.rlog * 2 ^ 59 + d.rloc.toNat * 2 ^ 58 + d.cloc.toNat * 2 ^ 57 + d.en.toNat * 2 ^ 56 + d.qw * 2 ^ 32
  | _ => d.pi.toNat * 2 ^ 32 + d.ci.toNat

/-- A doubleword of a host ring descriptor as it reads (R299, Table 4). -/
def Ring.word (r : Ring) (j : Nat) : Nat :=
  match j with
  | 0 => r.hbase.toNat
  | 1 => r.rlog * 2 ^ 59 + r.en.toNat * 2 ^ 58
  | 2 => r.pi.toNat * 2 ^ 32 + r.ci.toNat
  | _ => r.dropped.toNat * 2 ^ 32 + r.lost.toNat

/-- A coalescing register as it reads (R301, Table 5). -/
def Coalesce.word (c : Coalesce) : Nat := c.vec * 2 ^ 57 + c.en.toNat * 2 ^ 56 + c.ccnt * 2 ^ 40 + c.ctim * 2 ^ 8

/-- READ A DOUBLEWORD OF THE CONTROL WINDOW (R5, R298, Table 3): what Table 3 names nothing for reads 0 (log 104). -/
def State.readRegister (s : State) (off : Nat) : BitVec 64 :=
  let i := off / 8
  BitVec.ofNat 64 (
    if off < 0x1000 then s.controlWord i
    else if off < 0x1800 then (s.queue ((off - 0x1000) / 32)).desc.word (i % 4)
    else if 0x2000 ≤ off ∧ off < 0x2800 then (s.ring ((off - 0x2000) / 32)).word (i % 4)
    else if 0x2800 ≤ off ∧ off < 0x2C00 then (s.unit ((off - 0x2800) / 8)).word
    else if off = 0x3000 then s.preempt0.toNat
    else if off = 0x3008 then s.preempt1.toNat
    else if 0x4000 ≤ off ∧ off < 0x4080 then (s.readCounter ((off - 0x4000) / 8)).toNat
    else if 0x4080 ≤ off ∧ off < 0x4100 then
      let c := Store.get Counter.init s.counters ((off - 0x4080) / 8)
      c.field.toNat * 256 + c.source.toNat
    else if 0x4200 ≤ off ∧ off < 0x4280 then (Store.get Counter.init s.counters ((off - 0x4200) / 8)).copy.toNat
    else if 0x10000 ≤ off ∧ off < 0x11000 then (Store.get 0 s.mailbox.area ((off - 0x10000) / 8)).toNat
    else 0)

/-- What the SMBus port reads (R307): READY, TEMP, BUDGET and the package power in W. -/
def State.smbusRead (s : State) : List Nat := [s.ready.word, s.temp.toNat, s.budget, s.power]

/-- WRITE A SLOT TABLE ENTRY (R38, R39): firmware writes the bank that is not in use; in entries 15 mod 16 SCH stays 0. -/
def Port.writeSlot (p : Port) (rx bank : Bool) (idx : Nat) (v : BitVec 32) : Port :=
  let w := v &&& (if idx % 16 = 15 then 0x00000FFF#32 else 0x80000FFF#32)
  let put (t : Store (BitVec 32)) : Store (BitVec 32) := Store.set 0 t (4096 * bank.toNat + idx) w
  if idx ≥ 4096 ∨ bank = (if rx then p.rxAct else p.txAct) then p
  else if rx then { p with rxTable := put p.rxTable } else { p with txTable := put p.txTable }

/-- REGISTER_WRITE (R5, R38, R298): a doubleword of the control window by the host, or a slot table entry by firmware. -/
def execRegisterWrite (s : State) : Host.Outcome State Fault Refusal :=
  match s.arg with
  | .registerWrite off v => .next (s.writeRegister off v)
  | .slotTableWrite p rx bank idx v => .next (s.modPort p fun x => x.writeSlot rx bank idx v)
  | _ => .fault .noData

/-- HOST_LINK_LOST (R303): the PCIE bit clears. -/
def execHostLinkLost (s : State) : Host.Outcome State Fault Refusal :=
  match s.arg with
  | .hostLinkLost => .next { s with ready := { s.ready with pcie := false } }
  | _ => .fault .noData

/-- BOUNDARY_SCAN (R307): the balls take the scanned values, until the production fuse is set. -/
def execBoundaryScan (s : State) : Host.Outcome State Fault Refusal :=
  match s.arg with
  | .boundaryScan pins => .next (if Config.productionFuse then s else { s with pins := pins })
  | _ => .fault .noData

/-! ## The marshals' own work (R262, R349) -/

/-- SCRUB (R306, R349): single-bit errors of an idle cluster are corrected and counted. -/
def execScrub (s : State) : Host.Outcome State Fault Refusal :=
  match s.arg with
  | .scrub cl n => .next (if s.heats.any fun h => h.resident && h.clusters.contains cl then s else s.tick 12 0 n)
  | _ => .fault .noData

/-- CHECKPOINT_MOVE (R108, R262, R267): a saved heat's image goes to another package as bulk messages, read in grains that no heat is
granted. -/
def execCheckpointMove (s : State) : Host.Outcome State Fault Refusal :=
  match s.arg with
  | .checkpointMove heatid pkg dest =>
    match s.heats.find? fun h => h.heatid == heatid && h.status == .saved with
    | none => .next s
    | some h => match h.image with
      | none => .next s
      | some a =>
        let fid := 0x8000 + h.clusters.headD 0
        let ks := stacksOf a h.imageLen
        let x := s.freeForAll ks s.now
        if s.now < x then .next (s.push x 70 s.arg)
        else .next ((List.range ((h.imageLen + 223) / 224)).foldl (fun (s : State) j =>
          let data := s.readHbm (a + 224 * j) (min 224 (h.imageLen - 224 * j))
          s.sendMessage (s.newMsg 3 (BitVec.ofNat 17 pkg) fid (leBytes 8 (dest.toNat + 224 * j) ++ leBytes 8 0 ++ data)) noAck) (s.useStacks ks).2)
  | _ => .fault .noData

end Sys2Proof.Machine
end

