-- ==== Sys2Proof/Machine/Dispatch.lean ====
section
/-! DEFINITION. One arm per instruction: a direct call of its meaning. -/
namespace Sys2Proof.Machine

/-- Execute one instruction. -/
def exec (i : Instr) (s : State) : Host.Outcome State Fault Refusal :=
  match i with
  | .addI32 w => Sys2Proof.Machine.execAddI32 w s
  | .subI32 w => Sys2Proof.Machine.execSubI32 w s
  | .mulI32 w => Sys2Proof.Machine.execMulI32 w s
  | .madI32 w => Sys2Proof.Machine.execMadI32 w s
  | .minI32 w => Sys2Proof.Machine.execMinI32 w s
  | .maxI32 w => Sys2Proof.Machine.execMaxI32 w s
  | .minN32 w => Sys2Proof.Machine.execMinN32 w s
  | .maxN32 w => Sys2Proof.Machine.execMaxN32 w s
  | .absI32 w => Sys2Proof.Machine.execAbsI32 w s
  | .negI32 w => Sys2Proof.Machine.execNegI32 w s
  | .mulhI32 w => Sys2Proof.Machine.execMulhI32 w s
  | .mulhN32 w => Sys2Proof.Machine.execMulhN32 w s
  | .addSatI32 w => Sys2Proof.Machine.execAddSatI32 w s
  | .subSatI32 w => Sys2Proof.Machine.execSubSatI32 w s
  | .addI64 w => Sys2Proof.Machine.execAddI64 w s
  | .subI64 w => Sys2Proof.Machine.execSubI64 w s
  | .laneAnd w => Sys2Proof.Machine.execLaneAnd w s
  | .laneOr w => Sys2Proof.Machine.execLaneOr w s
  | .laneXor w => Sys2Proof.Machine.execLaneXor w s
  | .laneAndn w => Sys2Proof.Machine.execLaneAndn w s
  | .laneShl w => Sys2Proof.Machine.execLaneShl w s
  | .laneShr w => Sys2Proof.Machine.execLaneShr w s
  | .laneSar w => Sys2Proof.Machine.execLaneSar w s
  | .laneRot w => Sys2Proof.Machine.execLaneRot w s
  | .laneBfx w => Sys2Proof.Machine.execLaneBfx w s
  | .laneBfi w => Sys2Proof.Machine.execLaneBfi w s
  | .lanePop w => Sys2Proof.Machine.execLanePop w s
  | .laneClz w => Sys2Proof.Machine.execLaneClz w s
  | .laneBrev w => Sys2Proof.Machine.execLaneBrev w s
  | .sel w => Sys2Proof.Machine.execSel w s
  | .laneMov w => Sys2Proof.Machine.execLaneMov w s
  | .movHi w => Sys2Proof.Machine.execMovHi w s
  | .addF32 w => Sys2Proof.Machine.execAddF32 w s
  | .subF32 w => Sys2Proof.Machine.execSubF32 w s
  | .mulF32 w => Sys2Proof.Machine.execMulF32 w s
  | .fmaF32 w => Sys2Proof.Machine.execFmaF32 w s
  | .minF32 w => Sys2Proof.Machine.execMinF32 w s
  | .maxF32 w => Sys2Proof.Machine.execMaxF32 w s
  | .absF32 w => Sys2Proof.Machine.execAbsF32 w s
  | .negF32 w => Sys2Proof.Machine.execNegF32 w s
  | .rintF32 w => Sys2Proof.Machine.execRintF32 w s
  | .cmpF32 w => Sys2Proof.Machine.execCmpF32 w s
  | .cmpI32 w => Sys2Proof.Machine.execCmpI32 w s
  | .cmpN32 w => Sys2Proof.Machine.execCmpN32 w s
  | .addI16x2 w => Sys2Proof.Machine.execAddI16x2 w s
  | .subI16x2 w => Sys2Proof.Machine.execSubI16x2 w s
  | .addBf16x2 w => Sys2Proof.Machine.execAddBf16x2 w s
  | .subBf16x2 w => Sys2Proof.Machine.execSubBf16x2 w s
  | .mulBf16x2 w => Sys2Proof.Machine.execMulBf16x2 w s
  | .fmaBf16x2 w => Sys2Proof.Machine.execFmaBf16x2 w s
  | .minBf16x2 w => Sys2Proof.Machine.execMinBf16x2 w s
  | .maxBf16x2 w => Sys2Proof.Machine.execMaxBf16x2 w s
  | .addF16x2 w => Sys2Proof.Machine.execAddF16x2 w s
  | .subF16x2 w => Sys2Proof.Machine.execSubF16x2 w s
  | .mulF16x2 w => Sys2Proof.Machine.execMulF16x2 w s
  | .fmaF16x2 w => Sys2Proof.Machine.execFmaF16x2 w s
  | .minF16x2 w => Sys2Proof.Machine.execMinF16x2 w s
  | .maxF16x2 w => Sys2Proof.Machine.execMaxF16x2 w s
  | .rcpF32 w => Sys2Proof.Machine.execRcpF32 w s
  | .rsqF32 w => Sys2Proof.Machine.execRsqF32 w s
  | .sqrtF32 w => Sys2Proof.Machine.execSqrtF32 w s
  | .ex2F32 w => Sys2Proof.Machine.execEx2F32 w s
  | .lg2F32 w => Sys2Proof.Machine.execLg2F32 w s
  | .sint w => Sys2Proof.Machine.execSint w s
  | .cost w => Sys2Proof.Machine.execCost w s
  | .cvt w => Sys2Proof.Machine.execCvt w s
  | .dp4I8 w => Sys2Proof.Machine.execDp4I8 w s
  | .dp4N8 w => Sys2Proof.Machine.execDp4N8 w s
  | .unp5 w => Sys2Proof.Machine.execUnp5 w s
  | .pk5 w => Sys2Proof.Machine.execPk5 w s
  | .tacc w => Sys2Proof.Machine.execTacc w s
  | .mand w => Sys2Proof.Machine.execMand w s
  | .mor w => Sys2Proof.Machine.execMor w s
  | .mxor w => Sys2Proof.Machine.execMxor w s
  | .mnot w => Sys2Proof.Machine.execMnot w s
  | .mpop w => Sys2Proof.Machine.execMpop w s
  | .shfl w => Sys2Proof.Machine.execShfl w s
  | .qswz w => Sys2Proof.Machine.execQswz w s
  | .qbc w => Sys2Proof.Machine.execQbc w s
  | .qred w => Sys2Proof.Machine.execQred w s
  | .xset w => Sys2Proof.Machine.execXset w s
  | .xwin w => Sys2Proof.Machine.execXwin w s
  | .snd w => Sys2Proof.Machine.execSnd w s
  | .rcv w => Sys2Proof.Machine.execRcv w s
  | .lds w => Sys2Proof.Machine.execLds w s
  | .sts w => Sys2Proof.Machine.execSts w s
  | .ldt w => Sys2Proof.Machine.execLdt w s
  | .ats w => Sys2Proof.Machine.execAts w s
  | .ldg w => Sys2Proof.Machine.execLdg w s
  | .stg w => Sys2Proof.Machine.execStg w s
  | .ldgAcq w => Sys2Proof.Machine.execLdgAcq w s
  | .stgRel w => Sys2Proof.Machine.execStgRel w s
  | .atg w => Sys2Proof.Machine.execAtg w s
  | .casg w => Sys2Proof.Machine.execCasg w s
  | .redg w => Sys2Proof.Machine.execRedg w s
  | .fenGang w => Sys2Proof.Machine.execFenGang w s
  | .fenPkg w => Sys2Proof.Machine.execFenPkg w s
  | .laneOwn w => Sys2Proof.Machine.execLaneOwn w s
  | .bra w => Sys2Proof.Machine.execBra w s
  | .laneCall w => Sys2Proof.Machine.execLaneCall w s
  | .laneRet w => Sys2Proof.Machine.execLaneRet w s
  | .part w => Sys2Proof.Machine.execPart w s
  | .rejoin w => Sys2Proof.Machine.execRejoin w s
  | .spn w => Sys2Proof.Machine.execSpn w s
  | .spe w => Sys2Proof.Machine.execSpe w s
  | .arv w => Sys2Proof.Machine.execArv w s
  | .laneBwt w => Sys2Proof.Machine.execLaneBwt w s
  | .laneTrap w => Sys2Proof.Machine.execLaneTrap w s
  | .laneEnd w => Sys2Proof.Machine.execLaneEnd w s
  | .laneNop w => Sys2Proof.Machine.execLaneNop w s
  | .coxAdd w => Sys2Proof.Machine.execCoxAdd w s
  | .coxSub w => Sys2Proof.Machine.execCoxSub w s
  | .coxMul w => Sys2Proof.Machine.execCoxMul w s
  | .coxMulh w => Sys2Proof.Machine.execCoxMulh w s
  | .coxMin w => Sys2Proof.Machine.execCoxMin w s
  | .coxMax w => Sys2Proof.Machine.execCoxMax w s
  | .coxAnd w => Sys2Proof.Machine.execCoxAnd w s
  | .coxOr w => Sys2Proof.Machine.execCoxOr w s
  | .coxXor w => Sys2Proof.Machine.execCoxXor w s
  | .coxAndn w => Sys2Proof.Machine.execCoxAndn w s
  | .coxShl w => Sys2Proof.Machine.execCoxShl w s
  | .coxShr w => Sys2Proof.Machine.execCoxShr w s
  | .coxSar w => Sys2Proof.Machine.execCoxSar w s
  | .coxRot w => Sys2Proof.Machine.execCoxRot w s
  | .coxBfx w => Sys2Proof.Machine.execCoxBfx w s
  | .coxBfi w => Sys2Proof.Machine.execCoxBfi w s
  | .addi w => Sys2Proof.Machine.execAddi w s
  | .andi w => Sys2Proof.Machine.execAndi w s
  | .ori w => Sys2Proof.Machine.execOri w s
  | .xori w => Sys2Proof.Machine.execXori w s
  | .shli w => Sys2Proof.Machine.execShli w s
  | .shri w => Sys2Proof.Machine.execShri w s
  | .sari w => Sys2Proof.Machine.execSari w s
  | .movi w => Sys2Proof.Machine.execMovi w s
  | .ldhi w => Sys2Proof.Machine.execLdhi w s
  | .coxCmp w => Sys2Proof.Machine.execCoxCmp w s
  | .cmpi w => Sys2Proof.Machine.execCmpi w s
  | .pand w => Sys2Proof.Machine.execPand w s
  | .por w => Sys2Proof.Machine.execPor w s
  | .pnot w => Sys2Proof.Machine.execPnot w s
  | .csel w => Sys2Proof.Machine.execCsel w s
  | .ormi w => Sys2Proof.Machine.execOrmi w s
  | .jmp w => Sys2Proof.Machine.execJmp w s
  | .jp w => Sys2Proof.Machine.execJp w s
  | .loop w => Sys2Proof.Machine.execLoop w s
  | .coxCall w => Sys2Proof.Machine.execCoxCall w s
  | .coxRet w => Sys2Proof.Machine.execCoxRet w s
  | .coxAddF32 w => Sys2Proof.Machine.execCoxAddF32 w s
  | .coxSubF32 w => Sys2Proof.Machine.execCoxSubF32 w s
  | .coxMulF32 w => Sys2Proof.Machine.execCoxMulF32 w s
  | .coxFmaF32 w => Sys2Proof.Machine.execCoxFmaF32 w s
  | .coxMinF32 w => Sys2Proof.Machine.execCoxMinF32 w s
  | .coxMaxF32 w => Sys2Proof.Machine.execCoxMaxF32 w s
  | .coxCvt w => Sys2Proof.Machine.execCoxCvt w s
  | .coxPop w => Sys2Proof.Machine.execCoxPop w s
  | .coxClz w => Sys2Proof.Machine.execCoxClz w s
  | .coxBrev w => Sys2Proof.Machine.execCoxBrev w s
  | .coxMov w => Sys2Proof.Machine.execCoxMov w s
  | .coxAddI64 w => Sys2Proof.Machine.execCoxAddI64 w s
  | .coxSubI64 w => Sys2Proof.Machine.execCoxSubI64 w s
  | .rdtime w => Sys2Proof.Machine.execRdtime w s
  | .twait w => Sys2Proof.Machine.execTwait w s
  | .csync w => Sys2Proof.Machine.execCsync w s
  | .balloc w => Sys2Proof.Machine.execBalloc w s
  | .bfree w => Sys2Proof.Machine.execBfree w s
  | .binit w => Sys2Proof.Machine.execBinit w s
  | .barv w => Sys2Proof.Machine.execBarv w s
  | .barvDecl w => Sys2Proof.Machine.execBarvDecl w s
  | .coxBwt w => Sys2Proof.Machine.execCoxBwt w s
  | .barm w => Sys2Proof.Machine.execBarm w s
  | .srd w => Sys2Proof.Machine.execSrd w s
  | .sysr w => Sys2Proof.Machine.execSysr w s
  | .sysw w => Sys2Proof.Machine.execSysw w s
  | .eret w => Sys2Proof.Machine.execEret w s
  | .coxTrap w => Sys2Proof.Machine.execCoxTrap w s
  | .coxEnd w => Sys2Proof.Machine.execCoxEnd w s
  | .coxNop w => Sys2Proof.Machine.execCoxNop w s
  | .tload w => Sys2Proof.Machine.execTload w s
  | .tset w => Sys2Proof.Machine.execTset w s
  | .gset w => Sys2Proof.Machine.execGset w s
  | .gsetMem w => Sys2Proof.Machine.execGsetMem w s
  | .sseed w => Sys2Proof.Machine.execSseed w s
  | .nest w => Sys2Proof.Machine.execNest w s
  | .mma w => Sys2Proof.Machine.execMma w s
  | .xcp w => Sys2Proof.Machine.execXcp w s
  | .xfer w => Sys2Proof.Machine.execXfer w s
  | .lay w => Sys2Proof.Machine.execLay w s
  | .coxOwn w => Sys2Proof.Machine.execCoxOwn w s
  | .lwr w => Sys2Proof.Machine.execLwr w s
  | .sig w => Sys2Proof.Machine.execSig w s
  | .hpost w => Sys2Proof.Machine.execHpost w s
  | .unassignedOpcode w => Sys2Proof.Machine.execUnassignedOpcode w s
  | .laneResult => Sys2Proof.Machine.execLaneResult s
  | .coxResult => Sys2Proof.Machine.execCoxResult s
  | .scratchStorePerform => Sys2Proof.Machine.execScratchStorePerform s
  | .scratchAtomicPerform => Sys2Proof.Machine.execScratchAtomicPerform s
  | .scratchLoadDelivery => Sys2Proof.Machine.execScratchLoadDelivery s
  | .ownerFlipOpen => Sys2Proof.Machine.execOwnerFlipOpen s
  | .stackAccess => Sys2Proof.Machine.execStackAccess s
  | .globalPerform => Sys2Proof.Machine.execGlobalPerform s
  | .globalLoadDelivery => Sys2Proof.Machine.execGlobalLoadDelivery s
  | .globalStoreCompletion => Sys2Proof.Machine.execGlobalStoreCompletion s
  | .atomicResult => Sys2Proof.Machine.execAtomicResult s
  | .atomicRepeat => Sys2Proof.Machine.execAtomicRepeat s
  | .sndLanding => Sys2Proof.Machine.execSndLanding s
  | .landingNotReceived => Sys2Proof.Machine.execLandingNotReceived s
  | .csyncSessionOpen => Sys2Proof.Machine.execCsyncSessionOpen s
  | .spanEnd => Sys2Proof.Machine.execSpanEnd s
  | .bwtResume => Sys2Proof.Machine.execBwtResume s
  | .rejoinMerge => Sys2Proof.Machine.execRejoinMerge s
  | .twaitDeadline => Sys2Proof.Machine.execTwaitDeadline s
  | .coxBwtDeadline => Sys2Proof.Machine.execCoxBwtDeadline s
  | .barmActionLaunch => Sys2Proof.Machine.execBarmActionLaunch s
  | .graphRelease => Sys2Proof.Machine.execGraphRelease s
  | .messageAccepted => Sys2Proof.Machine.execMessageAccepted s
  | .localSignalApply => Sys2Proof.Machine.execLocalSignalApply s
  | .hostRingEntryVisible => Sys2Proof.Machine.execHostRingEntryVisible s
  | .coalesceTimer => Sys2Proof.Machine.execCoalesceTimer s
  | .hostRingCiWrite => Sys2Proof.Machine.execHostRingCiWrite s
  | .hostRingEnWrite => Sys2Proof.Machine.execHostRingEnWrite s
  | .engineCommandStart => Sys2Proof.Machine.execEngineCommandStart s
  | .matrixRead => Sys2Proof.Machine.execMatrixRead s
  | .matrixWrite => Sys2Proof.Machine.execMatrixWrite s
  | .copyBeat => Sys2Proof.Machine.execCopyBeat s
  | .copyWrite => Sys2Proof.Machine.execCopyWrite s
  | .layoutBeat => Sys2Proof.Machine.execLayoutBeat s
  | .layoutWrite => Sys2Proof.Machine.execLayoutWrite s
  | .engineCompletion => Sys2Proof.Machine.execEngineCompletion s
  | .tloadCompletion => Sys2Proof.Machine.execTloadCompletion s
  | .gsetMemCompletion => Sys2Proof.Machine.execGsetMemCompletion s
  | .xferRecordRead => Sys2Proof.Machine.execXferRecordRead s
  | .collectiveFold => Sys2Proof.Machine.execCollectiveFold s
  | .localMove => Sys2Proof.Machine.execLocalMove s
  | .bf16ImageWrite => Sys2Proof.Machine.execBf16ImageWrite s
  | .xferDone => Sys2Proof.Machine.execXferDone s
  | .hostBoundCheck => Sys2Proof.Machine.execHostBoundCheck s
  | .transmitRead => Sys2Proof.Machine.execTransmitRead s
  | .scheduledFlitSend => Sys2Proof.Machine.execScheduledFlitSend s
  | .flitRelease => Sys2Proof.Machine.execFlitRelease s
  | .flitLanding => Sys2Proof.Machine.execFlitLanding s
  | .frameMarkerSend => Sys2Proof.Machine.execFrameMarkerSend s
  | .frameMarkerArrival => Sys2Proof.Machine.execFrameMarkerArrival s
  | .frameMarkerMiss => Sys2Proof.Machine.execFrameMarkerMiss s
  | .unscheduledSend => Sys2Proof.Machine.execUnscheduledSend s
  | .messageRelease => Sys2Proof.Machine.execMessageRelease s
  | .launchMessage => Sys2Proof.Machine.execLaunchMessage s
  | .signalMessage => Sys2Proof.Machine.execSignalMessage s
  | .bulkMessage => Sys2Proof.Machine.execBulkMessage s
  | .acknowledgement => Sys2Proof.Machine.execAcknowledgement s
  | .negativeAcknowledgement => Sys2Proof.Machine.execNegativeAcknowledgement s
  | .messageRetransmit => Sys2Proof.Machine.execMessageRetransmit s
  | .sync => Sys2Proof.Machine.execSync s
  | .pdelayReq => Sys2Proof.Machine.execPdelayReq s
  | .pdelayResp => Sys2Proof.Machine.execPdelayResp s
  | .announce => Sys2Proof.Machine.execAnnounce s
  | .halt => Sys2Proof.Machine.execHalt s
  | .halted => Sys2Proof.Machine.execHalted s
  | .resume => Sys2Proof.Machine.execResume s
  | .resumed => Sys2Proof.Machine.execResumed s
  | .exclude => Sys2Proof.Machine.execExclude s
  | .regattaHalt => Sys2Proof.Machine.execRegattaHalt s
  | .haltedTimeout => Sys2Proof.Machine.execHaltedTimeout s
  | .linkTrained => Sys2Proof.Machine.execLinkTrained s
  | .linkTrainingLost => Sys2Proof.Machine.execLinkTrainingLost s
  | .ptpLockLost => Sys2Proof.Machine.execPtpLockLost s
  | .podCounterLoad => Sys2Proof.Machine.execPodCounterLoad s
  | .frequencyTrim => Sys2Proof.Machine.execFrequencyTrim s
  | .refresh => Sys2Proof.Machine.execRefresh s
  | .bankSwitchArm => Sys2Proof.Machine.execBankSwitchArm s
  | .bankSwitchCancel => Sys2Proof.Machine.execBankSwitchCancel s
  | .bankSwitchTx => Sys2Proof.Machine.execBankSwitchTx s
  | .bankSwitchRx => Sys2Proof.Machine.execBankSwitchRx s
  | .governorStep => Sys2Proof.Machine.execGovernorStep s
  | .thermalBudgetStep => Sys2Proof.Machine.execThermalBudgetStep s
  | .queuePiWrite => Sys2Proof.Machine.execQueuePiWrite s
  | .queueEnWrite => Sys2Proof.Machine.execQueueEnWrite s
  | .prefetch => Sys2Proof.Machine.execPrefetch s
  | .commandNop => Sys2Proof.Machine.execCommandNop s
  | .commandHeat => Sys2Proof.Machine.execCommandHeat s
  | .commandGraph => Sys2Proof.Machine.execCommandGraph s
  | .commandIndirect => Sys2Proof.Machine.execCommandIndirect s
  | .arbiterStep => Sys2Proof.Machine.execArbiterStep s
  | .heatStart => Sys2Proof.Machine.execHeatStart s
  | .armedTimeout => Sys2Proof.Machine.execArmedTimeout s
  | .endCheck => Sys2Proof.Machine.execEndCheck s
  | .heatCompletion => Sys2Proof.Machine.execHeatCompletion s
  | .copyNode => Sys2Proof.Machine.execCopyNode s
  | .copyNodeCompletion => Sys2Proof.Machine.execCopyNodeCompletion s
  | .conditionalNode => Sys2Proof.Machine.execConditionalNode s
  | .graphEnd => Sys2Proof.Machine.execGraphEnd s
  | .preemptEstimate => Sys2Proof.Machine.execPreemptEstimate s
  | .preemptSave => Sys2Proof.Machine.execPreemptSave s
  | .preemptDrain => Sys2Proof.Machine.execPreemptDrain s
  | .preemptionHalt => Sys2Proof.Machine.execPreemptionHalt s
  | .faultHalt => Sys2Proof.Machine.execFaultHalt s
  | .quiesce => Sys2Proof.Machine.execQuiesce s
  | .saveComplete => Sys2Proof.Machine.execSaveComplete s
  | .handlerEntry => Sys2Proof.Machine.execHandlerEntry s
  | .handlerTimeout => Sys2Proof.Machine.execHandlerTimeout s
  | .restore => Sys2Proof.Machine.execRestore s
  | .agentResume => Sys2Proof.Machine.execAgentResume s
  | .revoke => Sys2Proof.Machine.execRevoke s
  | .revocation => Sys2Proof.Machine.execRevocation s
  | .policySet => Sys2Proof.Machine.execPolicySet s
  | .attestation => Sys2Proof.Machine.execAttestation s
  | .commandLinkMessage => Sys2Proof.Machine.execCommandLinkMessage s
  | .powerOnReset => Sys2Proof.Machine.execPowerOnReset s
  | .firmwareVerify => Sys2Proof.Machine.execFirmwareVerify s
  | .functionLevelReset => Sys2Proof.Machine.execFunctionLevelReset s
  | .hostMemoryAccess => Sys2Proof.Machine.execHostMemoryAccess s
  | .counterLatch => Sys2Proof.Machine.execCounterLatch s
  | .dieOvertemp => Sys2Proof.Machine.execDieOvertemp s
  | .dieBridgeError => Sys2Proof.Machine.execDieBridgeError s
  | .firmwareWatchdog => Sys2Proof.Machine.execFirmwareWatchdog s
  | .machineCheck => Sys2Proof.Machine.execMachineCheck s
  | .registerWrite => Sys2Proof.Machine.execRegisterWrite s
  | .preemptionRequestUnassigned => Sys2Proof.Machine.execPreemptionRequestUnassigned s
  | .scrub => Sys2Proof.Machine.execScrub s
  | .hostLinkLost => Sys2Proof.Machine.execHostLinkLost s
  | .boundaryScan => Sys2Proof.Machine.execBoundaryScan s
  | .faultLogLocation => Sys2Proof.Machine.execFaultLogLocation s
  | .dumpArea => Sys2Proof.Machine.execDumpArea s
  | .pdelayReqSend => Sys2Proof.Machine.execPdelayReqSend s
  | .announceSend => Sys2Proof.Machine.execAnnounceSend s
  | .layoutGenerationChange => Sys2Proof.Machine.execLayoutGenerationChange s
  | .checkpointMove => Sys2Proof.Machine.execCheckpointMove s

end Sys2Proof.Machine
end

