-- ==== Sys2Proof/Machine/Step.lean ====
section
/-! DEFINITION. One step: what happens next (an instruction at its issue slot, or a step of the machine at its cycle) is
executed. -/
namespace Sys2Proof.Machine

/-- ONE STEP. When core clocks have been removed or nothing is left to happen the machine stops (R350). -/
def step (s : State) : Host.Outcome State Fault Refusal :=
  match s.upNext with
  | none => .fault .clockStopped
  | some (i, t) => exec i t

/-- The state with an instruction of the opcode table stored where `step` fetches next (log 12). -/
def State.withFetchWord (s : State) (_nbits w : Nat) : State :=
  s.place (BitVec.ofNat 32 w) (BitVec.ofNat 32 (w / 2 ^ 32))

end Sys2Proof.Machine
end

