-- ==== Sys2Proof/WellFormed.lean ====
section
/-! DEFINITION. Well-formed program instructions: those whose words break no rule of R136-R144 and R331, and that are the
ones their words name where two instructions share an opcode. -/
namespace Sys2Proof

/-- Whether an instruction is the one that its words name, where an opcode holds two (R161, R183, R215, R222). -/
def namedByWords (i : Instr) : Bool :=
  match i with
  | .laneMov w => w.sub != 1
  | .movHi w => w.sub == 1
  | .fenGang w => w.sub != 1
  | .fenPkg w => w.sub == 1
  | .barv w => !w.d.getLsbD 0
  | .barvDecl w => w.d.getLsbD 0
  | .gset w => !w.flags.getLsbD 4
  | .gsetMem w => w.flags.getLsbD 4
  | _ => true

/-- The words of the instruction break no encoding rule (R144, R330, R331), and name it. -/
def wellFormed (i : Instr) : Bool := (Parts.of i).isSome && (staticBreaches i).isEmpty && namedByWords i

end Sys2Proof
end

