-- ==== Sys2Proof/Safety.lean ====
section
/-! DEFINITION. The terms in which statements about the machine are made: reading one cell of a memory and one register,
which instructions write which memory, when a program instruction breaks nothing at its issue, and the invariant of the
state. -/
namespace Sys2Proof.Machine

/-! ## Words -/

/-- The assigned opcodes of the lane set (R139, R140, Table 4). -/
def laneOpcodes : List Nat :=
  List.range' 0x00 31 ++ List.range' 0x20 14 ++ List.range' 0x30 12 ++ List.range' 0x40 7 ++ List.range' 0x48 6 ++
    List.range' 0x50 13 ++ List.range' 0x60 13 ++ List.range' 0x70 12

/-- The assigned opcodes of the uniform set (R143, Table 7). -/
def uniformOpcodes : List Nat :=
  List.range' 0x00 37 ++ List.range' 0x30 13 ++ List.range' 0x40 16 ++ List.range' 0x50 10 ++ List.range' 0x60 3

/-- The bytes of words in memory order (R133). -/
def wordBytes (ws : List Word) : List Byte := ws.flatMap fun w => leBytes 4 w.toNat

/-- Words written out by hand from the encodings of R136, R137 and R142, with the instructions that they stand for. -/
def specWords : List (List Word × Instr) :=
  [-- add.i32 v3, v1, v2: OP 0x00, D 3, A 1, B 2
   ([0x00060410], .addI32 ⟨3, 1, 2, 0, none⟩),
   -- add.i32 v3, v1, 5: X = 1 and TA with C zero, IMB, IMM 5; B zero
   ([0x00060781, 0xE1000005], .addI32 ⟨3, 1, 112, 0, some 0xE1000005⟩),
   -- cmp.f32.lt m3, v4, immediate: OP 0x29, D 3, A 4, B zero, SUB 2, IMM 0x3F00
   ([0x29061381, 0xE1023F00], .cmpF32 ⟨3, 4, 112, 0, some 0xE1023F00⟩),
   -- cvt from f32 (8) to bf16 (10): OP 0x48, D 4, A 7, IMM 10 + 32 * 8
   ([0x48081F81, 0xE000010A], .cvt ⟨4, 7, 112, 0, some 0xE000010A⟩),
   -- unp5 v20, v8, byte 1, m2: OP 0x4B, IMM K 2, B 1
   ([0x4B282381, 0xE000000A], .unp5 ⟨20, 8, 112, 0, some 0xE000000A⟩),
   -- tacc v31, v20, v41:v42, v31: C 31, SAT, O 1
   ([0x4D3E5149, 0x3E100001], .tacc ⟨31, 20, 41, 0, some 0x3E100001⟩),
   -- bra -2 words, always: OP 0x70, A zero, TB with C zero and IMM25 -2
   ([0x70E1C381, 0xE1FFFFFE], .bra ⟨112, 112, 112, 0, some 0xE1FFFFFE⟩),
   -- add k3, k1, k2: OP 0x00, D 3, A 1, B 2
   ([0x800C1080], .coxAdd ⟨3, 1, 2, 0⟩),
   -- addi k32, k32, 1
   ([0x90820001], .addi ⟨32, 32, 1⟩),
   -- movi k30, 64
   ([0x97780040], .movi ⟨30, 0, 64⟩),
   -- loop k49, -5 words: COND 1
   ([0xA21FFFFB], .loop ⟨1, 0xFFFFB⟩),
   -- twait k30
   ([0xC101E000], .twait ⟨0, 30, 0, 0⟩),
   -- barv.decl k5, k6: D<0> = 1
   ([0xC6045180], .barvDecl ⟨1, 5, 6, 0⟩),
   -- end 7
   ([0xCE000007], .coxEnd ⟨0, 0, 0, 7⟩)]

/-- The words of a clause before its first instruction (R133, R134). -/
def freshClause (pc : Nat) (hd : Word) (ws : List Word) (branched : Bool) : Clause :=
  { addr := pc, hdr := hd, words := ws, missing := none, branched := branched, idx := 0, nth := 0, nlong := 0, held := []
    long1 := 0 }

/-- A clause can be read at an address: its header, and the N words that follow (R120, R134). -/
def State.readsClause (s : State) (t : Team) (pc : Nat) (hd : Word) (ws : List Word) : Prop :=
  s.fetchWord t pc = some hd ∧ ws.length = (headerOf hd).nm1 + 1 ∧
    ∀ i, i < ws.length → s.fetchWord t (pc + 4 + 4 * i) = ws[i]?

/-! ## Memories and registers, one cell at a time -/

/-- The memories (R108): stack memory, host memory, the scratch of all cores, the accumulator tiles of all clusters. -/
inductive Space where
  | hbm
  | host
  | scratch
  | tiles
deriving DecidableEq, Repr

/-- One cell: a byte of stack memory, host memory or scratch (key 2^20 x core + offset), or a word of the tiles. -/
def State.look (s : State) (p : Space) (a : Nat) : Nat :=
  match p with
  | .hbm => (Store.get 0 s.hbm a).toNat
  | .host => (Store.get 0 s.hostMem a).toNat
  | .scratch => (Store.get 0 s.scratch a).toNat
  | .tiles => (Store.get 0 s.tiles a).toNat

/-- Whether every cell of a memory is the same in two states. -/
def State.sameIn (s t : State) (p : Space) : Prop := ∀ a, t.look p a = s.look p a

/-- A register that a program reads (R64, Table 1): of a gang, v in a lane, mask, index register in a lane, window; of a
team, k, predicate, generator register. -/
inductive Reg where
  | v (g : GangRef) (r lane : Nat)
  | mask (g : GangRef) (n : Nat)
  | index (g : GangRef) (n lane : Nat)
  | window (g : GangRef) (n : Nat)
  | k (t : TeamRef) (n : Nat)
  | pred (t : TeamRef) (n : Nat)
  | gen (t : TeamRef) (n : Nat)
deriving DecidableEq, Repr

/-- What a register of a resident heat reads. -/
def State.reg (s : State) : Reg → Option Nat
  | .v g r lane => (s.gang? g).map fun x => (x.vreg r lane).toNat
  | .mask g n => (s.gang? g).map fun x => (x.mask n).toNat
  | .index g n lane => (s.gang? g).map fun x => (Store.get 0 x.x (32 * n + lane)).toNat
  | .window g n => (s.gang? g).map fun x => (Store.get 0 x.win n).toNat
  | .k t n => (s.team? t).map fun x => (Store.get 0 x.k n).toNat
  | .pred t n => (s.team? t).map fun x => (decide (n = 0) || x.p.getLsbD n).toNat
  | .gen t n => (s.team? t).map fun x => (Store.get 0 x.g n).toNat

/-- The registers of a gang: v, masks, index registers, windows. -/
def Gang.file (g : Gang) : Store Word × Store Word × Store (BitVec 8) × Store (BitVec 16) := (g.v, g.m, g.x, g.win)

/-- The registers of a team and its gangs: k, predicates, generators, tensor entries, nest slots, seeds. -/
def Team.file (t : Team) : Store Word × BitVec 8 × Store (BitVec 128) × Store Tensor × Store NestSlot ×
    List (Nat × BitVec 64) × List (Store Word × Store Word × Store (BitVec 8) × Store (BitVec 16)) :=
  (t.k, t.p, t.g, t.t, t.nest, t.sseeds, t.gangs.map Gang.file)

/-- THE REGISTERS OF EVERY HEAT, with its trap record. -/
def State.files (s : State) := s.heats.map fun h => (h.hid, h.trap, h.teams.map Team.file)

/-- What no instruction changes but the few that `mayWrite` names for a memory, and the pod counter's load for the count. -/
structure State.keeps (s t : State) (writes : List Space) : Prop where
  clock : t.now = s.now
  package : t.pkgNo = s.pkgNo
  memory : ∀ p, p ∉ writes → s.sameIn t p

/-- THE NUMBERS OF THE HEATS: no two heats have one, and each is below the next to be given. -/
def State.hidsWf (s : State) : Prop := (s.heats.map (·.hid)).Nodup ∧ ∀ h ∈ s.heats, h.hid < s.nextHid

/-- The state whose next step counts: the current cycle is settled when the next thing lies in a later one (R83, R319). -/
def State.settled (s : State) : State := if s.cycleEnds then s.settle else s

/-- THE MEMORIES THAT AN INSTRUCTION MAY WRITE in the cycle in which it is executed. No program instruction writes memory
at its issue: its stores perform in later steps (R114, R122, R130). -/
def mayWrite (i : Instr) : List Space :=
  match i with
  | .scratchStorePerform => [.scratch]
  | .scratchAtomicPerform => [.scratch]
  | .layoutWrite => [.scratch]
  | .flitLanding => [.scratch]
  | .copyWrite => [.scratch, .tiles]
  | .matrixWrite => [.scratch, .tiles]
  | .restore => [.hbm, .host, .scratch, .tiles]
  | .resume => [.hbm, .host]
  | .bf16ImageWrite => [.hbm, .scratch]
  | .collectiveFold => [.hbm, .scratch]
  | .globalPerform => [.hbm]
  | .atomicRepeat => [.hbm]
  | .stackAccess => [.hbm]
  | .bulkMessage => [.hbm]
  | .hostMemoryAccess => [.hbm]
  | .dieBridgeError => [.hbm]
  | .dieOvertemp => [.hbm]
  | .firmwareWatchdog => [.hbm]
  | .machineCheck => [.hbm]
  | .quiesce => [.hbm]
  | .hostBoundCheck => [.host]
  | .hostRingEntryVisible => [.host]
  | .commandGraph => [.hbm, .host]
  | .commandHeat => [.hbm, .host]
  | .commandIndirect => [.hbm, .host]
  | .commandNop => [.hbm, .host]
  | .conditionalNode => [.hbm, .host]
  | .copyNode => [.hbm, .host]
  | .copyNodeCompletion => [.hbm, .host]
  | .graphEnd => [.hbm, .host]
  | .graphRelease => [.hbm, .host]
  | .heatCompletion => [.hbm, .host]
  | .saveComplete => [.hbm, .host]
  | .arbiterStep => [.hbm, .host, .scratch, .tiles]
  | _ => []

/-! ## Program instructions that break nothing -/

/-- The lane word of a lane instruction. -/
def laneWord? (i : Instr) : Option LaneWord :=
  match Parts.of i with
  | some (.lane _ w) => some w
  | _ => none

/-- Whether the instruction is of the uniform set and of no other word. -/
def isCox (i : Instr) : Bool :=
  match Parts.of i with
  | some (.ua ..) => true
  | some (.ui ..) => true
  | some (.ub ..) => true
  | some (.ue ..) => true
  | _ => false

/-- THE BREACHES OF ITS OWN RULE that a lane instruction has at its issue (R331, Table 2; R192-R199, R342). -/
def laneOwn (i : Instr) (s : State) (c : LCtx) : List (Nat × Option (BitVec 32) × Nat × Nat) :=
  match i with
  | .laneBfi w => c.bfiExtra w
  | .snd w => c.sndExtra w
  | .rcv _ => c.rcvExtra s
  | .lds w => c.scratchExtra w
  | .sts w => c.scratchExtra w
  | .ats w => c.scratchExtra w
  | .ldt w => c.ldtExtra w
  | .ldg w => c.globalExtra w
  | .stg w => c.globalExtra w
  | .ldgAcq w => c.globalExtra w
  | .stgRel w => c.globalExtra w
  | .atg w => c.globalExtra w
  | .casg w => c.globalExtra w
  | .redg w => c.globalExtra w
  | .laneOwn w => c.ownExtra w
  | .laneCall w => c.callExtra w
  | .laneRet _ => c.retExtra
  | .part _ => c.spanExtra
  | .rejoin _ => c.rejoinExtra
  | .spn w => c.spnExtra w
  | .spe _ => c.speExtra
  | .arv w => c.arvExtra s w
  | .laneBwt w => c.spanExtra ++ c.arvExtra s w
  | .laneEnd _ => c.endExtra
  | _ => []

/-- THE BREACHES OF ITS OWN RULE that a cox instruction has at its issue (R331, Table 2; R207-R229, R342). -/
def coxOwn (i : Instr) (s : State) (c : UCtx) : List (Nat × Nat × Nat) :=
  match i with
  | .coxBfx w => c.fieldExtra w
  | .coxBfi w => c.fieldExtra w
  | .coxCall _ => c.callExtra
  | .coxRet _ => c.retExtra
  | .twait w => c.deadlineExtra w.a.toNat
  | .csync w => c.csyncExtra w
  | .balloc w => c.ballocExtra s w
  | .bfree w => c.handleExtra s (c.k w.a.toNat)
  | .binit w => c.binitExtra s w
  | .barv w => c.handleExtra s (c.k w.a.toNat)
  | .barvDecl w => c.handleExtra s (c.k w.a.toNat)
  | .coxBwt w => c.deadlineExtra w.b.toNat ++ c.handleExtra s (c.k w.a.toNat)
  | .barm w => c.barmExtra s w
  | .sysr w => c.selectorExtra w
  | .sysw w => c.selectorExtra w
  | .tload w => c.alignExtra w 128
  | .tset w => c.tsetExtra w
  | .gsetMem w => c.alignExtra w (if w.flags.getLsbD 3 then 32 else 16)
  | .nest w => c.nestExtra w
  | .mma w => c.engineExtra (c.mmaExtra w ++ c.selectedExtra s (c.mmaCodes w)) (c.mmaPlan w)
  | .xcp w => c.engineExtra (c.xcpExtra w ++ c.selectedExtra s (c.xcpCodes w)) (c.xcpPlan w)
  | .xfer w => c.xferOwn s w
  | .lay w => c.engineExtra (c.layExtra w ++ c.selectedExtra s (c.layCodes w)) (c.layPlan w)
  | .coxOwn w => c.ownExtra w
  | .lwr w => c.lwrExtra w
  | .sig w => c.sigExtra w
  | .hpost w => c.hpostExtra w
  | _ => []

/-- A lane instruction stands at its issue and breaks nothing: no encoding, clause, operand, latch, WAIT or register rule
(R328, R330-R332, R337, R349), and no rule of its own. -/
def LaneClear (i : Instr) (w : LaneWord) (s : State) (c : LCtx) : Prop :=
  laneWord? i = some w ∧ laneCtx s = some c ∧ c.causes s i w (laneOwn i s c) = []

/-- A cox instruction stands at its issue and breaks nothing; in handler mode it is one of those that R325 allows. -/
def CoxClear (i : Instr) (s : State) (c : UCtx) : Prop :=
  isCox i = true ∧ laneCtx s = none ∧ uniCtx s = some c ∧ c.causes s i (coxOwn i s c) = [] ∧
    (c.handling = true → inHandler i = true)

/-- THE LATENCY OF A LANE INSTRUCTION WHOSE RESULT LANDS IN REGISTERS (R25, Table 2; R153, R164, R174, R187, R190): 12 c for
the transcendentals, 6 c for the cross-lane moves, 4 c for the others. -/
def laneLatency (i : Instr) : Option Nat :=
  match i with
  | .rcpF32 _ => some 12
  | .rsqF32 _ => some 12
  | .sqrtF32 _ => some 12
  | .ex2F32 _ => some 12
  | .lg2F32 _ => some 12
  | .sint _ => some 12
  | .cost _ => some 12
  | .shfl _ => some 6
  | .qswz _ => some 6
  | .qbc _ => some 6
  | .qred _ => some 6
  | .addI32 _ | .subI32 _ | .mulI32 _ | .madI32 _ | .minI32 _ | .maxI32 _ | .minN32 _ | .maxN32 _ | .absI32 _ | .negI32 _ => some 4
  | .mulhI32 _ | .mulhN32 _ | .addSatI32 _ | .subSatI32 _ | .addI64 _ | .subI64 _ => some 4
  | .laneAnd _ | .laneOr _ | .laneXor _ | .laneAndn _ | .laneShl _ | .laneShr _ | .laneSar _ | .laneRot _ => some 4
  | .laneBfx _ | .laneBfi _ | .lanePop _ | .laneClz _ | .laneBrev _ | .sel _ | .laneMov _ | .movHi _ => some 4
  | .addF32 _ | .subF32 _ | .mulF32 _ | .fmaF32 _ | .minF32 _ | .maxF32 _ | .absF32 _ | .negF32 _ | .rintF32 _ => some 4
  | .cmpF32 _ | .cmpI32 _ | .cmpN32 _ | .addI16x2 _ | .subI16x2 _ => some 4
  | .addBf16x2 _ | .subBf16x2 _ | .mulBf16x2 _ | .fmaBf16x2 _ | .minBf16x2 _ | .maxBf16x2 _ => some 4
  | .addF16x2 _ | .subF16x2 _ | .mulF16x2 _ | .fmaF16x2 _ | .minF16x2 _ | .maxF16x2 _ => some 4
  | .cvt _ | .dp4I8 _ | .dp4N8 _ | .unp5 _ | .pk5 _ | .tacc _ | .mand _ | .mor _ | .mxor _ | .mnot _ | .mpop _ => some 4
  | .xset _ | .xwin _ => some 4
  | _ => none

/-- THE COX INSTRUCTIONS WHOSE RESULT LANDS IN REGISTERS, with their latency (R200, R220, R222, R245). -/
def coxLatency (i : Instr) : Option Nat :=
  match i with
  | .coxAdd _ | .coxSub _ | .coxMul _ | .coxMulh _ | .coxMin _ | .coxMax _ | .coxAnd _ | .coxOr _ | .coxXor _ | .coxAndn _ => some 2
  | .coxShl _ | .coxShr _ | .coxSar _ | .coxRot _ | .coxBfx _ | .coxBfi _ | .coxPop _ | .coxClz _ | .coxBrev _ | .coxMov _ => some 2
  | .addi _ | .andi _ | .ori _ | .xori _ | .shli _ | .shri _ | .sari _ | .movi _ | .ldhi _ | .ormi _ => some 2
  | .coxCmp _ | .cmpi _ | .pand _ | .por _ | .pnot _ | .csel _ => some 2
  | .coxAddF32 _ | .coxSubF32 _ | .coxMulF32 _ | .coxFmaF32 _ | .coxMinF32 _ | .coxMaxF32 _ | .coxCvt _ => some 2
  | .coxAddI64 _ | .coxSubI64 _ | .rdtime _ | .srd _ | .sysr _ => some 2
  | .tset _ | .gset _ | .nest _ => some 4
  | _ => none

/-! ## What an issue leaves -/

/-- A step waits on the agenda for a cycle. -/
def State.awaits (s : State) (cycle : Nat) (e : Ev) : Prop := ∃ d ∈ s.agenda, d.at_ = cycle ∧ d.ev = e

/-- The count of a gang (`sr.dix`, R84). -/
def State.dix? (s : State) (r : GangRef) : Option (BitVec 64) := (s.gang? r).map (·.dix)

/-- The count of a cox (FDIX of a cox, R322). -/
def State.count? (s : State) (r : TeamRef) : Option (BitVec 64) := (s.team? r).map (·.cox.count)

/-- WHAT THE ISSUE OF A LANE INSTRUCTION LEAVES in every case: its gang's count one higher, every other count as it was,
memory and every register as they were. -/
structure LaneIssued (s : State) (c : LCtx) (t : State) : Prop where
  own : t.dix? c.ref = some (c.gang.dix + 1)
  gangs : ∀ r, r ≠ c.ref → t.dix? r = s.dix? r
  coxes : ∀ r, t.count? r = s.count? r
  memory : s.keeps t []
  registers : t.files = s.files

/-- WHAT THE ISSUE OF A COX INSTRUCTION LEAVES in every case: its count one higher, every other count and memory as they
were. -/
structure CoxIssued (s : State) (c : UCtx) (t : State) : Prop where
  own : t.count? c.ref = some (c.cox.count + 1)
  gangs : ∀ r, t.dix? r = s.dix? r
  coxes : ∀ r, r ≠ c.ref → t.count? r = s.count? r
  memory : s.keeps t []

/-- The registers of the cox's own heat, its trap record and every other heat's are as they were. -/
def sameFiles (s t : State) : Prop := t.files = s.files

/-- WHAT A 32-BIT RESULT WRITES (R65, R66, R68, R71): in each active lane the register that D names, and with hold result
the latch entry of the instruction. -/
structure LandsWord (l : LaneLanding) (c : LCtx) (w : LaneWord) (f : Nat → Word) : Prop where
  regs : l.vs = (lanesOf c.active).flatMap fun i => (c.destKeys w.d.toNat i).map fun k => (k, f i)
  others : l.ms = [] ∧ l.xs = [] ∧ l.wins = []
  latch : l.latch = if w.hold = 3 then
      some (c.clause.nth % 3, c.gang.dix, (List.range 32).map fun i => if c.active.getLsbD i then f i else 0)
    else none

/-- A mask result writes (R75, R85, R166): the bits of the active lanes of mask n, none for m0 and none without an active lane. -/
structure LandsMask (l : LaneLanding) (c : LCtx) (n : Nat) (f : Nat → Bool) : Prop where
  others : l.vs = [] ∧ l.xs = [] ∧ l.wins = []
  mask : if n = 0 ∨ c.active = 0 then l.ms = [] else
    ∃ v, l.ms = [(n, c.active, v)] ∧ ∀ i, i < 32 → v.getLsbD i = (c.active.getLsbD i && f i)

/-! ## What the lane instructions compute -/

/-- A number as an i32, saturated (R86). -/
def clamp32 (x : Int) : Word :=
  if x < -2147483648 then 0x80000000#32 else if x > 2147483647 then 0x7FFFFFFF#32 else BitVec.ofInt 32 x

/-- A number as an i16, saturated (R86). -/
def clamp16 (x : Int) : BitVec 16 :=
  if x < -32768 then 0x8000#16 else if x > 32767 then 0x7FFF#16 else BitVec.ofInt 16 x

/-- A number as an i64, saturated (R86). -/
def clamp64 (x : Int) : BitVec 64 :=
  if x < -9223372036854775808 then 0x8000000000000000#64
  else if x > 9223372036854775807 then 0x7FFFFFFFFFFFFFFF#64 else BitVec.ofInt 64 x

/-- Operand A. -/
def LCtx.opA (c : LCtx) (w : LaneWord) (l : Nat) : Word := c.src w.a.toNat l
/-- Operand B of an integer instruction, or its immediate, sign-extended (R137, R156). -/
def LCtx.opB (c : LCtx) (w : LaneWord) (l : Nat) : Word :=
  if w.imb then (BitVec.ofNat 16 w.imm).signExtend 32 else c.src w.b.toNat l
/-- Operand B of an f32 instruction, or its immediate as the upper half (R137, R162). -/
def LCtx.opF (c : LCtx) (w : LaneWord) (l : Nat) : Word :=
  if w.imb then BitVec.ofNat 16 w.imm ++ 0#16 else c.src w.b.toNat l
/-- Operand B of a packed instruction, or its immediate in both halves (R137, R158). -/
def LCtx.opP (c : LCtx) (w : LaneWord) (l : Nat) : Word :=
  if w.imb then BitVec.ofNat 16 w.imm ++ BitVec.ofNat 16 w.imm else c.src w.b.toNat l
/-- Operand C. -/
def LCtx.opC (c : LCtx) (w : LaneWord) (l : Nat) : Word := c.src w.c l

/-- The instructions that leave one 32-bit result, each with the value of an active lane. -/
abbrev LaneTable := List ((LaneWord → Instr) × (LCtx → LaneWord → Nat → Word))

/-- Integer arithmetic (R156, Table 2): exact, then saturated or taken mod 2^32. -/
def laneIntegers : LaneTable :=
  [(.addI32, fun c w l => if w.sat then clamp32 ((c.opA w l).toInt + (c.opB w l).toInt) else c.opA w l + c.opB w l),
   (.subI32, fun c w l => if w.sat then clamp32 ((c.opA w l).toInt - (c.opB w l).toInt) else c.opA w l - c.opB w l),
   (.mulI32, fun c w l => if w.sat then clamp32 ((c.opA w l).toInt * (c.opB w l).toInt) else c.opA w l * c.opB w l),
   (.madI32, fun c w l =>
     if w.sat then clamp32 ((c.opA w l).toInt * (c.opB w l).toInt + (c.opC w l).toInt) else c.opA w l * c.opB w l + c.opC w l),
   (.minI32, fun c w l => if (c.opA w l).toInt ≤ (c.opB w l).toInt then c.opA w l else c.opB w l),
   (.maxI32, fun c w l => if (c.opA w l).toInt ≤ (c.opB w l).toInt then c.opB w l else c.opA w l),
   (.minN32, fun c w l => if (c.opA w l).toNat ≤ (c.opB w l).toNat then c.opA w l else c.opB w l),
   (.maxN32, fun c w l => if (c.opA w l).toNat ≤ (c.opB w l).toNat then c.opB w l else c.opA w l),
   (.absI32, fun c w l => if w.sat then clamp32 |(c.opA w l).toInt| else (if (c.opA w l).toInt < 0 then -c.opA w l else c.opA w l)),
   (.negI32, fun c w l => if w.sat then clamp32 (-(c.opA w l).toInt) else -c.opA w l),
   (.mulhI32, fun c w l => ((c.opA w l).signExtend 64 * (c.opB w l).signExtend 64).extractLsb' 32 32),
   (.mulhN32, fun c w l => ((c.opA w l).setWidth 64 * (c.opB w l).setWidth 64).extractLsb' 32 32),
   (.addSatI32, fun c w l => clamp32 ((c.opA w l).toInt + (c.opB w l).toInt)),
   (.subSatI32, fun c w l => clamp32 ((c.opA w l).toInt - (c.opB w l).toInt))]

/-- Bit operations (R159, Table 3): n is b<7:0>. -/
def laneBitOps : LaneTable :=
  [(.laneAnd, fun c w l => c.opA w l &&& c.opB w l),
   (.laneOr, fun c w l => c.opA w l ||| c.opB w l),
   (.laneXor, fun c w l => c.opA w l ^^^ c.opB w l),
   (.laneAndn, fun c w l => c.opA w l &&& ~~~c.opB w l),
   (.laneShl, fun c w l => c.opA w l <<< ((c.opB w l).toNat % 256)),
   (.laneShr, fun c w l => c.opA w l >>> ((c.opB w l).toNat % 256)),
   (.laneSar, fun c w l => (c.opA w l).sshiftRight (min ((c.opB w l).toNat % 256) 31)),
   (.laneRot, fun c w l => (c.opA w l).rotateLeft ((c.opB w l).toNat % 32)),
   (.lanePop, fun c w l => BitVec.ofNat 32 ((List.range 32).countP fun i => (c.opA w l).getLsbD i)),
   (.laneClz, fun c w l => (c.opA w l).clz),
   (.laneBrev, fun c w l => (c.opA w l).reverse)]

/-- A field of a word (R160): len bits from pos on, with zeros or copies of the sign above. -/
def fieldOf (x : Word) (pos len : Nat) (signed : Bool) : Word :=
  let f := x.extractLsb' pos len
  if signed then f.signExtend 32 else f.setWidth 32

/-- A word with a field replaced (R160). -/
def withField (x a : Word) (pos len : Nat) : Word :=
  let m : Word := (BitVec.allOnes len).setWidth 32 <<< pos
  (x &&& ~~~m) ||| ((a <<< pos) &&& m)

/-- A length field of 0 means 32 (R160). -/
def lengthOf (n : Nat) : Nat := if n = 0 then 32 else n

/-- Bit fields, selection and moves (R160, R161). -/
def laneMoves : LaneTable :=
  [(.laneBfx, fun c w l => fieldOf (c.opA w l) (bits w.imm 9 5) (lengthOf (bits w.imm 4 0)) (decide (w.sub = 1))),
   (.laneBfi, fun c w l =>
     withField (c.opC w l) (c.opA w l) (bits (c.opB w l).toNat 9 5) (lengthOf (bits (c.opB w l).toNat 4 0))),
   (.sel, fun c w l => if c.opC w l ≠ 0 then c.opA w l else c.opB w l),
   (.laneMov, fun c w l => c.opB w l),
   (.movHi, fun _ w _ => BitVec.ofNat 16 w.imm ++ 0#16)]

/-- A word from a floating value rounded once (R91). -/
def rounded (F : Fmt) (m : RMode) (x : FVal) : Word := BitVec.ofNat 32 (F.rnd m x)

/-- f32 arithmetic (R162, Table 4): the exact value, rounded once. -/
def laneFloats : LaneTable :=
  [(.addF32, fun c w l => rounded f32 (c.mode w l 0)
      (FVal.add (c.mode w l 0).isRd (f32.decode (c.opA w l).toNat) (f32.decode (c.opF w l).toNat))),
   (.subF32, fun c w l => rounded f32 (c.mode w l 0)
      (FVal.add (c.mode w l 0).isRd (f32.decode (c.opA w l).toNat) (f32.decode (c.opF w l).toNat).neg)),
   (.mulF32, fun c w l => rounded f32 (c.mode w l 0)
      (FVal.mul (f32.decode (c.opA w l).toNat) (f32.decode (c.opF w l).toNat))),
   (.fmaF32, fun c w l => rounded f32 (c.mode w l 0)
      (FVal.add (c.mode w l 0).isRd (FVal.mul (f32.decode (c.opA w l).toNat) (f32.decode (c.opF w l).toNat))
        (f32.decode (c.opC w l).toNat))),
   (.minF32, fun c w l => BitVec.ofNat 32 (f32.minMax false (c.opA w l).toNat (c.opF w l).toNat)),
   (.maxF32, fun c w l => BitVec.ofNat 32 (f32.minMax true (c.opA w l).toNat (c.opF w l).toNat)),
   (.absF32, fun c w l => c.opA w l &&& 0x7FFFFFFF#32),
   (.negF32, fun c w l => c.opA w l ^^^ 0x80000000#32),
   (.rintF32, fun c w l => BitVec.ofNat 32 (rintF32 (c.mode w l 0) (c.opA w l).toNat))]

/-- Transcendentals (R164): the exact value of the function, rounded once. -/
def laneTranscendentals : LaneTable :=
  [(.rcpF32, fun c w l => BitVec.ofNat 32 (rcpF32 (c.mode w l 0) (c.opA w l).toNat)),
   (.rsqF32, fun c w l => BitVec.ofNat 32 (rsqF32 (c.opA w l).toNat)),
   (.sqrtF32, fun c w l => BitVec.ofNat 32 (sqrtF32 (c.mode w l 0) (c.opA w l).toNat)),
   (.ex2F32, fun c w l => BitVec.ofNat 32 (ex2F32 (c.opA w l).toNat)),
   (.lg2F32, fun c w l => BitVec.ofNat 32 (lg2F32 (c.opA w l).toNat)),
   (.sint, fun c w l => BitVec.ofNat 32 (sintF32 (c.opA w l).toNat)),
   (.cost, fun c w l => BitVec.ofNat 32 (costF32 (c.opA w l).toNat))]

/-- A packed result from the halves of the operands (R154, R158). -/
def packedResult (f : Nat → BitVec 16 → BitVec 16 → BitVec 16 → BitVec 16) (a b d : Word) : Word :=
  f 1 (a.extractLsb' 16 16) (b.extractLsb' 16 16) (d.extractLsb' 16 16) ++ f 0 (a.setWidth 16) (b.setWidth 16) (d.setWidth 16)

/-- Packed i16 arithmetic (R158). -/
def lanePackedIntegers : LaneTable :=
  [(.addI16x2, fun c w l => packedResult
      (fun _ a b _ => if w.sat then clamp16 (a.toInt + b.toInt) else a + b) (c.opA w l) (c.opP w l) (c.opC w l)),
   (.subI16x2, fun c w l => packedResult
      (fun _ a b _ => if w.sat then clamp16 (a.toInt - b.toInt) else a - b) (c.opA w l) (c.opP w l) (c.opC w l))]

/-- One packed floating operation (R163, Table 5): each half rounded once, with its own element number. -/
def packedFloat (F : Fmt) (op : RMode → FVal → FVal → FVal → FVal) (c : LCtx) (w : LaneWord) (l : Nat) : Word :=
  packedResult (fun e a b d => BitVec.ofNat 16 (F.rnd (c.mode w l e)
    (op (c.mode w l e) (F.decode a.toNat) (F.decode b.toNat) (F.decode d.toNat)))) (c.opA w l) (c.opP w l) (c.opC w l)

/-- The lesser or the greater of each half (R163). -/
def packedMinMax (F : Fmt) (greater : Bool) (c : LCtx) (w : LaneWord) (l : Nat) : Word :=
  packedResult (fun _ a b _ => BitVec.ofNat 16 (F.minMax greater a.toNat b.toNat)) (c.opA w l) (c.opP w l) (c.opC w l)

/-- Packed floating arithmetic (R163, Table 5). -/
def lanePackedFloats : LaneTable :=
  [(.addBf16x2, packedFloat bf16 fun m a b _ => FVal.add m.isRd a b),
   (.subBf16x2, packedFloat bf16 fun m a b _ => FVal.add m.isRd a b.neg),
   (.mulBf16x2, packedFloat bf16 fun _ a b _ => FVal.mul a b),
   (.fmaBf16x2, packedFloat bf16 fun m a b d => FVal.add m.isRd (FVal.mul a b) d),
   (.minBf16x2, packedMinMax bf16 false),
   (.maxBf16x2, packedMinMax bf16 true),
   (.addF16x2, packedFloat f16 fun m a b _ => FVal.add m.isRd a b),
   (.subF16x2, packedFloat f16 fun m a b _ => FVal.add m.isRd a b.neg),
   (.mulF16x2, packedFloat f16 fun _ a b _ => FVal.mul a b),
   (.fmaF16x2, packedFloat f16 fun m a b d => FVal.add m.isRd (FVal.mul a b) d),
   (.minF16x2, packedMinMax f16 false),
   (.maxF16x2, packedMinMax f16 true)]

/-- Byte k of a word. -/
def byteOf (x : Word) (k : Nat) : BitVec 8 := x.extractLsb' (8 * k) 8

/-- Plus bits less minus bits of trit k of an unpacked word (R172). -/
def tritOf (x : Word) (k : Nat) : Int := (x.getLsbD k).toInt - (x.getLsbD (8 + k)).toInt

/-- The trits of a t5 byte in unpacked form (R101, R170): plus bits 4:0, minus bits 12:8; none for 243 to 255. -/
def unpacked (v : BitVec 8) : Word :=
  if v.toNat ≥ 243 then 0
  else ([0, 1, 2, 3, 4].map fun k =>
    if v.toNat / 3 ^ k % 3 = 1 then 1#32 <<< k else if v.toNat / 3 ^ k % 3 = 2 then 1#32 <<< (8 + k) else 0).sum

/-- The t5 code of an unpacked word (R171). -/
def packCode (x : Word) : Nat :=
  ([0, 1, 2, 3, 4].map fun k => (if tritOf x k = 1 then 1 else if tritOf x k = -1 then 2 else 0) * 3 ^ k).sum

/-- Dot products and ternary accumulation (R169, R171, R172). -/
def laneDots : LaneTable :=
  [(.dp4I8, fun c w l =>
     let r : Int := (c.opC w l).toInt + ([0, 1, 2, 3].map fun k => (byteOf (c.opA w l) k).toInt * (byteOf (c.opB w l) k).toInt).sum
     if w.sat then clamp32 r else BitVec.ofInt 32 r),
   (.dp4N8, fun c w l =>
     let r : Nat := (c.opC w l).toNat + ([0, 1, 2, 3].map fun k => (byteOf (c.opA w l) k).toNat * (byteOf (c.opB w l) k).toNat).sum
     BitVec.ofNat 32 (if w.sat then min r 4294967295 else r)),
   (.pk5, fun c w l => (c.src w.b.toNat l <<< 8) + BitVec.ofNat 32 (packCode (c.opA w l))),
   (.tacc, fun c w l =>
     let act : BitVec 64 := BitVec.ofNat 64 (c.pair w.b.toNat l)
     let o := bits w.imm 1 0
     let r : Int := (c.opC w l).toInt +
       ([0, 1, 2, 3, 4].map fun k => tritOf (c.opA w l) k * (act.extractLsb' (8 * (o + k)) 8).toInt).sum
     if w.sat then clamp32 r else BitVec.ofInt 32 r),
   (.mpop, fun c w l =>
     let m := c.gang.mask (w.a.toNat)
     BitVec.ofNat 32 ((List.range 32).countP (m.getLsbD ·) + 2 ^ 8 * (List.range l).countP (m.getLsbD ·) +
       2 ^ 16 * (m.getLsbD l).toNat))]

/-- What a lane gives to an exchange (R187): its A, or 0 in a quad that is absent. -/
def LCtx.gives (c : LCtx) (w : LaneWord) (l : Nat) : Word :=
  if c.gang.groups.any fun g => g.quads.getLsbD (l / 4) then c.opA w l else 0

/-- Exchange among lanes (R187, R188): 6 cycles. -/
def laneExchanges : LaneTable :=
  [(.shfl, fun c w l =>
     let n := (c.opB w l).toNat % 32
     c.gives w (match w.sub with
       | 0 => n
       | 1 => l ^^^ n
       | 2 => if l < n then l else l - n
       | _ => if l + n > 31 then l else l + n)),
   (.qswz, fun c w l => c.gives w (4 * (l / 4) + ((c.opB w l).toNat >>> (2 * (l % 4))) % 4)),
   (.qbc, fun c w l => c.gives w (4 * (l / 4) + (c.opB w l).toNat % 4)),
   (.qred, fun c w l =>
     let a (k : Nat) := (c.gives w (4 * (l / 4) + k)).toNat
     BitVec.ofNat 32 (qredOp w.sub (qredOp w.sub (a 0) (a 1)) (qredOp w.sub (a 2) (a 3))))]

/-- A condition on numbers (R141): 0 eq, 1 ne, 2 lt, 3 le, 4 gt, 5 ge, 6 unordered, 7 ordered. -/
def intHolds (cond : Nat) (a b : Int) : Bool :=
  match cond with
  | 0 => decide (a = b)
  | 1 => decide (a ≠ b)
  | 2 => decide (a < b)
  | 3 => decide (a ≤ b)
  | 4 => decide (a > b)
  | 5 => decide (a ≥ b)
  | 6 => false
  | _ => true

/-- The instructions that write a mask, each with the bit of an active lane. -/
abbrev MaskTable := List ((LaneWord → Instr) × (LCtx → LaneWord → Nat → Bool))

/-- Compares and mask logic (R166, R173). -/
def laneMasks : MaskTable :=
  [(.cmpI32, fun c w l => intHolds w.sub (c.opA w l).toInt (c.opB w l).toInt),
   (.cmpN32, fun c w l => intHolds w.sub (c.opA w l).toNat (c.opB w l).toNat),
   (.cmpF32, fun c w l => cmpF32Holds w.sub (c.opA w l).toNat (c.opF w l).toNat),
   (.mand, fun c w l => (c.gang.mask w.a.toNat).getLsbD l && (c.gang.mask w.b.toNat).getLsbD l),
   (.mor, fun c w l => (c.gang.mask w.a.toNat).getLsbD l || (c.gang.mask w.b.toNat).getLsbD l),
   (.mxor, fun c w l => xor ((c.gang.mask w.a.toNat).getLsbD l) ((c.gang.mask w.b.toNat).getLsbD l)),
   (.mnot, fun c w l => !(c.gang.mask w.a.toNat).getLsbD l)]

/-! ## What the cox instructions compute -/

/-- The register-form cox instructions that write one k register, each with its value. -/
abbrev CoxTable := List ((UA → Instr) × (UCtx → UA → Word))

/-- Operands A and B of a cox instruction. -/
def UCtx.opA (c : UCtx) (w : UA) : Word := c.k w.a.toNat
/-- Operand B. -/
def UCtx.opB (c : UCtx) (w : UA) : Word := c.k w.b.toNat

/-- Scalar arithmetic (R202, Table 1). -/
def coxIntegers : CoxTable :=
  [(.coxAdd, fun c w => c.opA w + c.opB w),
   (.coxSub, fun c w => c.opA w - c.opB w),
   (.coxMul, fun c w => c.opA w * c.opB w),
   (.coxMulh, fun c w =>
     if w.fn = 0 then ((c.opA w).signExtend 64 * (c.opB w).signExtend 64).extractLsb' 32 32
     else ((c.opA w).setWidth 64 * (c.opB w).setWidth 64).extractLsb' 32 32),
   (.coxMin, fun c w =>
     if w.fn = 0 then (if (c.opA w).toInt ≤ (c.opB w).toInt then c.opA w else c.opB w)
     else if (c.opA w).toNat ≤ (c.opB w).toNat then c.opA w else c.opB w),
   (.coxMax, fun c w =>
     if w.fn = 0 then (if (c.opA w).toInt ≤ (c.opB w).toInt then c.opB w else c.opA w)
     else if (c.opA w).toNat ≤ (c.opB w).toNat then c.opB w else c.opA w),
   (.coxAnd, fun c w => c.opA w &&& c.opB w),
   (.coxOr, fun c w => c.opA w ||| c.opB w),
   (.coxXor, fun c w => c.opA w ^^^ c.opB w),
   (.coxAndn, fun c w => c.opA w &&& ~~~c.opB w),
   (.coxShl, fun c w => c.opA w <<< ((c.opB w).toNat % 256)),
   (.coxShr, fun c w => c.opA w >>> ((c.opB w).toNat % 256)),
   (.coxSar, fun c w => (c.opA w).sshiftRight (min ((c.opB w).toNat % 256) 31)),
   (.coxRot, fun c w => (c.opA w).rotateLeft ((c.opB w).toNat % 32)),
   (.coxBfx, fun c w => fieldOf (c.opA w) (bits (c.opB w).toNat 9 5) (lengthOf (bits (c.opB w).toNat 4 0)) false),
   (.coxBfi, fun c w =>
     withField (c.k w.d.toNat) (c.opA w) (bits (c.opB w).toNat 9 5) (lengthOf (bits (c.opB w).toNat 4 0))),
   (.coxPop, fun c w => BitVec.ofNat 32 ((List.range 32).countP fun i => (c.opA w).getLsbD i)),
   (.coxClz, fun c w => (c.opA w).clz),
   (.coxBrev, fun c w => (c.opA w).reverse),
   (.coxMov, fun c w => c.opA w),
   (.csel, fun c w => if c.p (w.fn.toNat % 8) != w.fn.getLsbD 3 then c.opA w else c.opB w)]

/-- Floating arithmetic of the cox (R204), rounded once to nearest even. -/
def coxFloats : CoxTable :=
  [(.coxAddF32, fun c w => rounded f32 .rn (FVal.add false (f32.decode (c.opA w).toNat) (f32.decode (c.opB w).toNat))),
   (.coxSubF32, fun c w => rounded f32 .rn (FVal.add false (f32.decode (c.opA w).toNat) (f32.decode (c.opB w).toNat).neg)),
   (.coxMulF32, fun c w => rounded f32 .rn (FVal.mul (f32.decode (c.opA w).toNat) (f32.decode (c.opB w).toNat))),
   (.coxFmaF32, fun c w => rounded f32 .rn
     (FVal.add false (FVal.mul (f32.decode (c.opA w).toNat) (f32.decode (c.opB w).toNat)) (f32.decode (c.k w.fn.toNat).toNat))),
   (.coxMinF32, fun c w => BitVec.ofNat 32 (f32.minMax false (c.opA w).toNat (c.opB w).toNat)),
   (.coxMaxF32, fun c w => BitVec.ofNat 32 (f32.minMax true (c.opA w).toNat (c.opB w).toNat)),
   (.coxCvt, fun c w =>
     let f := coxCvtFormats (w.fn.toNat / 8)
     BitVec.ofNat 32 (convert f.1 f.2 (coxMode (w.fn.toNat % 8))
       (if w.fn.toNat / 8 ≥ 6 then (c.opA w).toNat % 2 ^ 16 else (c.opA w).toNat)))]

/-- The immediate forms (R203, Table 2). -/
def coxImmediates : List ((UI → Instr) × (UCtx → UI → Word)) :=
  [(.addi, fun c w => c.k w.a.toNat + w.imm.signExtend 32),
   (.andi, fun c w => c.k w.a.toNat &&& w.imm.setWidth 32),
   (.ori, fun c w => c.k w.a.toNat ||| w.imm.setWidth 32),
   (.xori, fun c w => c.k w.a.toNat ^^^ w.imm.setWidth 32),
   (.shli, fun c w => c.k w.a.toNat <<< (w.imm.toNat % 32)),
   (.shri, fun c w => c.k w.a.toNat >>> (w.imm.toNat % 32)),
   (.sari, fun c w => (c.k w.a.toNat).sshiftRight (w.imm.toNat % 32)),
   (.movi, fun _ w => w.imm.signExtend 32),
   (.ldhi, fun _ w => w.imm ++ 0#20),
   (.ormi, fun c w => c.k w.a.toNat ||| (w.imm.setWidth 32 <<< 8))]

/-- The instructions that write one predicate (R205, R206): the number of the predicate and its value. -/
def coxPredicates : List ((UA → Instr) × (UA → Nat) × (UCtx → UA → Bool)) :=
  [(.coxCmp, fun w => w.d.toNat % 8, fun c w =>
     match w.fn.toNat / 16 with
     | 0 => intHolds (w.fn.toNat % 16) (c.opA w).toInt (c.opB w).toInt
     | 1 => intHolds (w.fn.toNat % 16) (c.opA w).toNat (c.opB w).toNat
     | _ => cmpF32Holds (w.fn.toNat % 16) (c.opA w).toNat (c.opB w).toNat),
   (.pand, fun w => w.d.toNat, fun c w => c.p w.a.toNat && c.p w.b.toNat),
   (.por, fun w => w.d.toNat, fun c w => c.p w.a.toNat || c.p w.b.toNat),
   (.pnot, fun w => w.d.toNat, fun c w => !c.p w.a.toNat)]

/-! ## The forms in which results are stated -/

/-- A lane instruction that breaks nothing completes: it issues, and L cycles later 32-bit results land (R153), with the
completion flag that the clause gives it (R26). -/
def LaneGives (i : Instr) (w : LaneWord) (s : State) (c : LCtx) (L : Nat) (f : Nat → Word) : Prop :=
  ∃ t l, exec i s = .next t ∧ LaneIssued s c t ∧ t.awaits (s.now + L) (.laneResult c.ref l) ∧ LandsWord l c w f ∧
    l.flag = flagFor c.clause i

/-- A lane instruction that breaks nothing completes: it issues, and 4 cycles later mask n lands (R153, R166, R173). -/
def LaneGivesMask (i : Instr) (s : State) (c : LCtx) (n : Nat) (f : Nat → Bool) : Prop :=
  ∃ t l, exec i s = .next t ∧ LaneIssued s c t ∧ t.awaits (s.now + 4) (.laneResult c.ref l) ∧ LandsMask l c n f

/-- A cox instruction that breaks nothing completes: it issues, no register changes yet, and L cycles later `l` lands
(R200). -/
def CoxGives (i : Instr) (s : State) (c : UCtx) (L : Nat) (l : CoxLanding) : Prop :=
  ∃ t, exec i s = .next t ∧ CoxIssued s c t ∧ sameFiles s t ∧ t.awaits (s.now + L) (.coxResult c.ref l)

/-- A landing of k registers alone. -/
def kLanding (ks : List (Nat × Word)) : CoxLanding := { CoxLanding.empty with ks := ks }

/-- A 64-bit value in a pair of k registers (R64). -/
def kPair (d : Nat) (x : BitVec 64) : CoxLanding := kLanding [(d, x.setWidth 32), (d + 1, x.extractLsb' 32 32)]

/-- A pair of registers that a lane reads, the low word first (R157); 112 is 0. -/
def LCtx.op64 (c : LCtx) (code l : Nat) : BitVec 64 :=
  if code = 112 then 0 else c.src (code + 1) l ++ c.src code l

/-- Operand B of a 64-bit instruction, or its immediate, sign-extended (R157). -/
def LCtx.opB64 (c : LCtx) (w : LaneWord) (l : Nat) : BitVec 64 :=
  if w.imb then (BitVec.ofNat 16 w.imm).signExtend 64 else c.op64 w.b.toNat l

/-- A pair of k registers. -/
def UCtx.op64 (c : UCtx) (n : Nat) : BitVec 64 := c.k (n + 1) ++ c.k n

/-- The special register that a selector of `srd` names, at the issue (R209, Table 4). -/
def UCtx.specialReg (c : UCtx) (s : State) (n : Nat) : Word :=
  let anchor : BitVec 64 := BitVec.ofNat 64 c.base
  let cycle : BitVec 64 := BitVec.ofNat 64 c.t
  let seed : BitVec 64 := match c.team.sseeds with
    | e :: _ => e.2
    | [] => 0
  match n with
  | 0 => anchor.setWidth 32
  | 1 => anchor.extractLsb' 32 32
  | 2 => cycle.setWidth 32
  | 3 => cycle.extractLsb' 32 32
  | 4 => BitVec.ofNat 32 c.ref.team
  | 5 => BitVec.ofNat 32 c.team.core
  | 6 => BitVec.ofNat 32 (c.team.core / 4)
  | 7 => s.pkgNo.setWidth 32
  | 8 => c.heat.heatid
  | 9 => seed.setWidth 32
  | 10 => seed.extractLsb' 32 32
  | 11 => BitVec.ofNat 32 (2 * (c.team.core % 4) + c.team.tsel)
  | _ => BitVec.ofNat 32 c.team.lanes

/-- A conversion of one or two elements (R167, R168): the formats that IMM names, each element rounded with its own number;
narrow signed integers are sign-extended, packed results stand side by side. -/
def cvtResult (c : LCtx) (w : LaneWord) (l : Nat) : Word :=
  let d := bits w.imm 4 0
  let f := bits w.imm 9 5
  let n := cvtWidth f
  let a := (c.opA w l).toNat
  let el (e x : Nat) : Nat := convert d f (c.mode w l e) x
  if w.imm.testBit 10 = false then BitVec.ofNat 32 (placeScalar d (el 0 (a % 2 ^ n)))
  else BitVec.ofNat 32 (el 0 (a % 2 ^ n) + 2 ^ cvtWidth d *
    el 1 (if n = 32 then (c.opC w l).toNat else a / 2 ^ n % 2 ^ n))

/-! ## What control, accesses and barriers leave -/

/-- A group of a gang, by its quads (R29). -/
def State.group? (s : State) (r : GangRef) (q : BitVec 8) : Option Group :=
  (s.gang? r).bind fun g => g.groups.find? fun x => x.quads == q

/-- The cox of a team. -/
def State.cox? (s : State) (r : TeamRef) : Option Cox := (s.team? r).map (·.cox)

/-- The issuing group after an instruction of no latency (R135): further in its clause, or before the next header. -/
def LCtx.followed (c : LCtx) (i : Instr) (w : LaneWord) : Group :=
  c.group.advance c.clause i c.t w.hold.toNat (c.base + c.t)

/-- The issuing group sent to the header at an address, with a return stack (R191, R192). -/
def LCtx.sent (c : LCtx) (pc : Nat) (stack : List Nat) : Group :=
  { c.group with
    clause := none, pc := pc % 2 ^ 56, branched := true, ready := c.t + 1, stack := stack, resume := none }

/-- The address of the instruction's word plus four times the offset, mod 2^56 (R191). -/
def LCtx.branchTo (c : LCtx) (w : LaneWord) : Nat :=
  (((c.clause.addr + 4 + 4 * c.clause.idx : Nat) + 4 * w.imm25 : Int) % 2 ^ 56).toNat

/-- Whether a branch is taken (R191): A is 112, or the lowest active lane's A is not zero. -/
def LCtx.branches (c : LCtx) (w : LaneWord) : Prop :=
  w.a = 112 ∨ ∃ l, lowestBit c.active = some l ∧ c.opA w l ≠ 0

/-- A lane instruction issues and leaves its group so. -/
def LaneLeaves (i : Instr) (s : State) (c : LCtx) (g : Group) : Prop :=
  ∃ t, exec i s = .next t ∧ LaneIssued s c t ∧ t.group? c.ref c.quads = some g

/-- The cox after an instruction of no latency (R135). -/
def UCtx.followed (c : UCtx) (i : Instr) : Cox :=
  { (c.cox.setFlag (flagFor c.clause i) (flagHold c.clause (c.base + c.t))).advance c.clause i c.t (c.base + c.t) with
    count := c.cox.count + 1 }

/-- The cox sent to the header at an address, with a return stack (R207). -/
def UCtx.sent (c : UCtx) (i : Instr) (pc : Nat) (stack : List Nat) : Cox :=
  { c.followed i with clause := none, pc := pc % 2 ^ 56, branched := true, ready := c.t + 1, stack := stack }

/-- The address of the instruction's word plus four times the offset, mod 2^56 (R207). -/
def UCtx.branchTo (c : UCtx) (w : UB) : Nat :=
  (((c.clause.addr + 4 + 4 * c.clause.idx : Nat) + 4 * w.off.toInt : Int) % 2 ^ 56).toNat

/-- A cox instruction issues, changes no register, and leaves its cox so. -/
def CoxLeaves (i : Instr) (s : State) (c : UCtx) (x : Cox) : Prop :=
  ∃ t, exec i s = .next t ∧ CoxIssued s c t ∧ sameFiles s t ∧ t.cox? c.ref = some x

/-- The scratch offset of a lane within its team's allocation (R175). -/
def LCtx.offset (c : LCtx) (w : LaneWord) (l : Nat) : Nat :=
  (c.opA w l + (BitVec.ofNat 17 w.off).signExtend 32).toNat

/-- A value read from memory as a register word (R175, R177): narrow values extended by SX. -/
def loadedWord (sx : Bool) (bs : List Byte) : Word :=
  if sx = true ∧ bs.length < 4 then (BitVec.ofNat (8 * bs.length) (ofLeBytes bs)).signExtend 32 else BitVec.ofNat 32 (ofLeBytes bs)

/-- What a lane stores or combines (R177, R178): C, or the pair that C names when 8 bytes wide. -/
def LCtx.stored (c : LCtx) (w : LaneWord) (l : Nat) : Nat :=
  if w.sz = 3 then c.pair w.c l else (c.opC w l).toNat

/-- The virtual address of a lane (R175). -/
def LCtx.address (c : LCtx) (w : LaneWord) (l : Nat) : Nat :=
  (BitVec.ofNat 56 (c.pair w.a.toNat l) + (BitVec.ofNat 17 w.off).signExtend 56).toNat

/-- What a lane compares with in a `casg` (R181): the register after C, or the pair after the pair that C names. -/
def LCtx.compared (c : LCtx) (w : LaneWord) (l : Nat) : Nat :=
  if w.sz = 3 then c.pair (w.c + 2) l else (c.src (w.c + 1) l).toNat

/-- The lanes of an operation that reach stacks of the core's own die, or of the other die, as a mask. -/
def GlobalOp.dieMask (o : GlobalOp) (far : Bool) : BitVec 32 := laneSet ((o.lanes.filter fun l => l.far == far).map (·.lane))

/-- The lanes that a delivery of an operation serves (R45, R180, R181): those of the core's own die first, 64 cycles later those
of the other die; helper lanes get their zeros with the first delivery there is. -/
def GlobalOp.delivered (o : GlobalOp) (far : Bool) : BitVec 32 :=
  let first := if o.lanes.any (fun l => !l.far) || !o.lanes.any (·.far) then false else true
  o.dieMask far ||| (if far = first then laneSet (o.zeros.map (· % 32)) else 0)

/-- A pair of k registers as a number. -/
def UCtx.number (c : UCtx) (n : Nat) : Nat := (c.op64 n).toNat

/-- A cox instruction issues: no register changes at its issue, memory never. -/
def CoxIssues (i : Instr) (s : State) (c : UCtx) (t : State) : Prop :=
  exec i s = .next t ∧ CoxIssued s c t ∧ sameFiles s t

/-- A read of a record starts (R219, R222, R252): an operation of the cox with the record's address, its stack cycle 320
cycles after the issue, or 368 on the other die, counted in ENG. -/
def RecordStarts (s : State) (c : UCtx) (t : State) (id va bytes : Nat) (kind : GlobalKind) : Prop :=
  ∃ o, o ∈ t.gops ∧ o.id = id ∧ o.kind = kind ∧ o.addr = va ∧ o.sz = bytes ∧ o.teamRef = c.ref ∧
    t.awaits (c.base + c.t + 320 + if c.far va then 48 else 0) (.stackAccess (.record id)) ∧
    (t.core c.team.core).eng = (s.core c.team.core).eng + 1

/-- Quantum q of an engine of the cox's cluster is granted to its team (R53). -/
def UCtx.granted (c : UCtx) (eng q : Nat) : Prop :=
  ∃ j, c.heat.clusterIndex (c.team.core / 4) = some j ∧
    c.heat.record.res.getD (256 * j + 64 * eng + q % 64) 0xF = crewIndex c.team

/-- The heat cycle at which the quanta of an engine's earlier commands end. -/
def UCtx.engineFree (c : UCtx) (eng : Nat) : Nat := Store.get 0 c.heat.engFree (4 * (c.team.core / 4) + eng) - c.team.shift

/-- An engine command is taken (R60, R218, R231-R233): it counts in ENG, its n quanta are the first run granted to its team from
`earliest` on and after those of the engine's earlier commands, and end by END (R232); its start waits on the agenda. -/
structure EngineTakes (s : State) (c : UCtx) (t : State) (cmd : EngCmd) (eng n earliest : Nat) : Prop where
  taken : cmd ∈ t.cmds
  names : cmd.id = s.nextOp ∧ cmd.hid = c.ref.hid ∧ cmd.team = c.ref.team ∧ cmd.eng = eng ∧ cmd.core = c.team.core ∧
    cmd.issue = c.t ∧ cmd.quanta = n
  start : startOf c.heat c.team eng n earliest = some cmd.start
  late : 64 ∣ cmd.start ∧ earliest ≤ cmd.start ∧ c.engineFree eng ≤ cmd.start
  run : ∀ q, q < n → c.granted eng (cmd.start / 64 + q)
  first : ∀ x, earliest ≤ 64 * x → c.engineFree eng ≤ 64 * x → 64 * x < cmd.start → ∃ q, q < n ∧ ¬c.granted eng (x + q)
  ends : cmd.start + 64 * n ≤ c.heat.record.stop + 1 - c.team.shift
  later : (t.heat? c.ref.hid).map (fun h => Store.get 0 h.engFree (4 * (c.team.core / 4) + eng)) =
    some (cmd.start + 64 * n + c.team.shift)
  waits : t.awaits (c.base + cmd.start) (.engineCommandStart cmd.id)
  counted : (t.core c.team.core).eng = (s.core c.team.core).eng + 1

/-- An engine command completes at the cycle of its own rule, or with the engine's command before it (R233). -/
def EngineCompletes (c : UCtx) (t : State) (cmd : EngCmd) (finish : Nat) : Prop :=
  cmd.completion = max finish (Store.get 0 c.heat.engDone (4 * (c.team.core / 4) + cmd.eng) - c.team.shift) ∧
    t.awaits (c.base + cmd.completion) (.engineCompletion cmd.id)

/-- A message is posted (R60, R218): MSG counts it at once, and it is taken 16 cycles after its issue. -/
def MessagePosted (i : Instr) (s : State) (c : UCtx) (p : Post) : Prop :=
  ∃ t, CoxIssues i s c t ∧ t.awaits (s.now + 16) (.messageAccepted p) ∧
    (t.core c.team.core).msg = (s.core c.team.core).msg + 1

/-- Who waits for a message's acknowledgement, and the arrival it then makes (R218). -/
def UCtx.waits (c : UCtx) (w : UE) : AckTo :=
  { hid := c.ref.hid, core := c.heat.relCore c.team.core, bar := if w.flags.getLsbD 11 then some (c.k w.a.toNat) else none
    team := c.ref.team }

/-- The beats of a copy's rows, all iterations together (R249, R250). -/
def XcpBody.beatsOf (b : XcpBody) : Nat :=
  ((List.range (b.iters * b.rows)).map fun k => ((b.row k).map (·.beats)).getD 0).sum

/-! ## What the machine's own steps leave -/

/-- The gang whose register it is. -/
def Reg.gang? : Reg → Option GangRef
  | .v g _ _ => some g
  | .mask g _ => some g
  | .index g _ _ => some g
  | .window g _ => some g
  | _ => none

/-- The team whose register it is. -/
def Reg.team? : Reg → Option TeamRef
  | .k t _ => some t
  | .pred t _ => some t
  | .gen t _ => some t
  | _ => none

/-- A result that names no register twice. -/
def apartLanding (r : LaneLanding) : Prop :=
  (r.vs.map (·.1)).Nodup ∧ (r.ms.map (·.1)).Nodup ∧ (r.xs.map (·.1)).Nodup ∧ (r.wins.map (·.1)).Nodup

/-- THE REGISTERS AFTER A GANG'S RESULT HAS LANDED (R153, R75): those that it names hold its values, of a mask the bits of
its lanes, m0 never; every other register is as it was. -/
structure Landed (s t : State) (g : GangRef) (r : LaneLanding) : Prop where
  vs : ∀ e ∈ r.vs, t.reg (.v g (e.1 / 32) (e.1 % 32)) = some e.2.toNat
  xs : ∀ e ∈ r.xs, t.reg (.index g (e.1 / 32) (e.1 % 32)) = some e.2.toNat
  wins : ∀ e ∈ r.wins, t.reg (.window g e.1) = some e.2.toNat
  ms : ∀ e ∈ r.ms, e.1 ≠ 0 → t.reg (.mask g e.1) =
    (s.gang? g).map fun x => ((x.mask e.1 &&& ~~~e.2.1) ||| (e.2.2 &&& e.2.1)).toNat
  otherV : ∀ n l, l < 32 → (∀ e ∈ r.vs, e.1 ≠ 32 * n + l) → t.reg (.v g n l) = s.reg (.v g n l)
  otherX : ∀ n l, l < 32 → (∀ e ∈ r.xs, e.1 ≠ 32 * n + l) → t.reg (.index g n l) = s.reg (.index g n l)
  otherM : ∀ n, (n = 0 ∨ ∀ e ∈ r.ms, e.1 ≠ n) → t.reg (.mask g n) = s.reg (.mask g n)
  otherW : ∀ n, (∀ e ∈ r.wins, e.1 ≠ n) → t.reg (.window g n) = s.reg (.window g n)
  others : ∀ q, q.gang? ≠ some g → t.reg q = s.reg q

/-- A completion flag of a gang reads clear, when no later completion of its clause holds it (R26). -/
def flagCleared (s t : State) (g : GangRef) (flag : Option Nat) : Prop :=
  ∀ f x, flag = some f → s.gang? g = some x → Store.get 0 x.flagMin f ≤ s.now →
    (t.gang? g).map (·.flags.getLsbD f) = some false

/-- The quad groups of a gang that hold some of the quads have stopped (R318). -/
def State.quadsStopped (s : State) (g : GangRef) (quads : BitVec 8) : Prop :=
  ∃ x, s.gang? g = some x ∧ ∀ gr ∈ x.groups, gr.quads &&& quads ≠ 0 → gr.stopped.isSome = true

/-- A detection names quad groups of a gang (R318, R322). -/
def namesGang (d : Detect) (g : GangRef) : Prop := d.src = 0 ∧ d.hid = g.hid ∧ d.team = g.team ∧ d.gang = g.gang

/-- Every quad group of a gang has stopped (R318). -/
def State.gangStopped (s : State) (g : GangRef) : Prop := s.quadsStopped g 0xFF

/-- Bytes of a memory as they read after ranges have been written in order: the last range that holds the byte gives it. -/
def afterWrites (old : Nat) (ranges : List (Nat × Nat × Nat)) (a : Nat) : Nat :=
  match ranges.reverse.find? fun e => decide (e.1 ≤ a ∧ a < e.1 + e.2.1) with
  | some e => e.2.2 / 256 ^ (a - e.1) % 256
  | none => old

/-- The word that lanes of an atomic leave at a word of the scratch, in their order (R178). -/
def scratchWordAfter (op : ScratchAcc) (o old : Nat) (ls : List (Nat × Nat × Nat × Nat)) : Nat :=
  (ls.filter fun l => l.2.1 == o).foldl
    (fun x l => aopNew op.aop op.size x (l.2.2.1 % 2 ^ (8 * op.size)) (l.2.2.2 % 2 ^ (8 * op.size)) % 2 ^ (8 * op.size)) old

/-- A stack that takes an access now without error or late refresh (R33, R338). -/
def State.stackFine (s : State) (stack : Nat) : Prop :=
  let f := Store.get StackFrame.init s.stackFrames stack
  (f.frame = s.now / 4096 → f.retries < 2) ∧ s.lateRefresh stack s.now = false ∧
    ∀ e ∈ s.env.hbmErrors, ¬(e.1 = stack ∧ e.2.1 = s.now)

/-- The stack cycle of a lane breaks no rule of its own (R335, R337, R338). -/
def State.stackClear (s : State) (h : Heat) (t : Team) (va : Nat) : Prop :=
  revokedAt t.wins va s.now = none ∧ stackBreach h (clusterOf t.core) (stackOf va) s.now = none ∧ s.stackFine (stackOf va)

/-- A global operation whose destinations are all different registers, one list for each lane. -/
def GlobalOp.apart (o : GlobalOp) : Prop :=
  ((o.dests.map (·.2)).flatten ++ o.zeros).Nodup ∧ (o.dests.map (·.1)).Nodup ∧ (o.lanes.map (·.lane)).Nodup

/-- Whether a delivery is the operation's last (R180, R181): the other die's, if some lane reaches it. -/
def GlobalOp.lastFor (o : GlobalOp) (mask : BitVec 32) : Bool :=
  !o.anyFar || o.lanes.any fun l => l.far && mask.getLsbD l.lane

/-- What a delivery lands: the result of every performed lane of the mask in its registers, low word first, and zeros in
those of helper lanes. -/
structure Delivers (o : GlobalOp) (mask : BitVec 32) (r : LaneLanding) : Prop where
  one : ∀ l ∈ o.lanes, mask.getLsbD l.lane = true → l.done = true → ∀ k, (l.lane, [k]) ∈ o.dests →
    (k, BitVec.ofNat 32 l.result) ∈ r.vs
  two : ∀ l ∈ o.lanes, mask.getLsbD l.lane = true → l.done = true → ∀ k k', (l.lane, [k, k']) ∈ o.dests →
    (k, BitVec.ofNat 32 l.result) ∈ r.vs ∧ (k', BitVec.ofNat 32 (l.result / 2 ^ 32)) ∈ r.vs
  zero : ∀ k ∈ o.zeros, mask.getLsbD (k % 32) = true → (k, 0) ∈ r.vs
  rest : r.ms = [] ∧ r.xs = [] ∧ r.wins = [] ∧ r.flag = if o.lastFor mask then o.flag else none

/-- The lanes of an operation that perform now. -/
def State.dueLanes (s : State) (o : GlobalOp) : List LaneAcc :=
  o.lanes.filter fun l => l.ok && !l.done && s.teamBase o.teamRef + l.p == s.now

/-- AN ENGINE COMMAND FAILS (R318, R336): the violation is recorded with its cause and address, the commanding cox stops, and
neither memory nor a register changes. -/
def CmdFails (s t : State) (c : EngCmd) (cause addr : Nat) : Prop :=
  (∃ ds d, t.detects = s.detects ++ ds ++ [d] ∧ d.cause = cause ∧ d.addr = addr ∧ d.hid = c.blame.hid ∧
    ∀ x ∈ ds, x.cause = 0xC0 ∨ x.cause = 0xC1 ∨ x.cause = 0xF3) ∧
  (t.cmd? c.id).map (·.failed.isSome) = some true ∧
  (s.cox? ⟨c.hid, c.team⟩ ≠ none → (t.cox? ⟨c.hid, c.team⟩).map (·.stopped.isSome) = some true) ∧
  s.keeps t [] ∧ sameFiles s t

/-- The elements of a pass's result, each with its place. -/
def resultCells (b : MmaBody) (r : List Nat) : List (Nat × Nat × Nat) :=
  ((List.range r.length).zip r).map fun e => (e.1 / b.n, e.1 % b.n, e.2)

/-- A part of a pass's result has been written (R237, R238): x elements after those already written, all that are left at the
completion; before it at least one is left, and the next part waits within the write interval or for the completion. -/
structure PartWritten (s t : State) (c : EngCmd) (last : Bool) (x : Nat) : Prop where
  all : last = true → x = c.result.length - c.folds
  some_ : last = false → x ≤ c.result.length - c.folds - 1
  count : (t.cmd? c.id).map (·.folds) = some (c.folds + x)
  kept : (t.cmd? c.id).map (·.result) = some c.result
  detects : t.detects = s.detects
  agenda : t.agenda = s.agenda ∨ ∃ w, last = false ∧ s.now < w ∧ t.awaits w (.matrixWrite c.id false)

/-- A row of A and a column of B of a pass (R235). -/
def State.passRow (s : State) (c : EngCmd) (int : Bool) (r : Region) (k i : Nat) (row : Bool) : List Elem :=
  (List.range k).map fun l => if row then s.regionElem (s.passCtx c) int r i l else s.regionElem (s.passCtx c) int r l i

/-- The bytes that the destination pieces of a beat receive, each with its byte of the row. -/
def beatBytes (c : EngCmd) (b : XcpBody) (r : CopyRow) (place : Nat) : List (Nat × Byte) :=
  (r.writes (beatOf place)).flatMap fun q => State.pieceBytes c b (rowOf place) r q

/-- The bytes that a beat writes in the current cycle (R114, R250): of channel 0, none that a completing command of channel 1 has
written in this cycle. -/
def State.beatWrites (s : State) (c : EngCmd) (b : XcpBody) (r : CopyRow) (place : Nat) : List (Nat × Byte) :=
  (beatBytes c b r place).filter fun y => !(decide (c.eng = 1 ∧ s.copied.1 = s.now) &&
    s.copied.2.contains (copyByte c b.dst (4096 * s.sbaseOf c) (r.d.addr y.1).toNat))

/-- What a completing command of channel 1 has written is kept to the end of its cycle (R114). -/
def keepsCopied (s t : State) (c : EngCmd) (b : XcpBody) (r : CopyRow) (place : Nat) : Prop :=
  c.eng = 2 → s.now = s.cmdBase c + c.completion → t.copied.1 = s.now ∧
    ∀ y ∈ beatBytes c b r place, copyByte c b.dst (4096 * s.sbaseOf c) (r.d.addr y.1).toNat ∈ t.copied.2

/-- The offsets that a beat writes in its team's allocation or tile. -/
def beatOffsets (r : CopyRow) (place : Nat) : List Nat :=
  ((r.writes (beatOf place)).map fun q => (r.d.piece q).map fun p => (r.d.addr p).toNat).flatten

/-- A barrier change of a core waits for the end of the cycle (R83): arrivals and credit on the object of a handle. -/
def State.changes (s : State) (core : Nat) (handle : Word) (arrivals credit : Nat) : Prop :=
  ∃ x ∈ s.barPend, x.core = core ∧ x.idx = handleIdx handle ∧ x.arrivals = arrivals ∧ x.credit = credit

/-- A record read completes (R219, R222, R340): it leaves ENG, and its arrival waits. -/
structure RecordCompletes (s t : State) (o : GlobalOp) : Prop where
  counted : (t.core o.core).eng = (s.core o.core).eng - 1
  gone : t.gop? o.id = none
  detects : (∀ h, o.bar = some h → s.handleBreach o.core h = none) → t.detects = s.detects
  arrival : ∀ h, o.bar = some h → s.handleBreach o.core h = none → t.changes o.core h 1 0

/-- A record read breaks a rule of its record (R318, R340): the target keeps its contents and the cox stops. -/
structure RecordFails (s t : State) (o : GlobalOp) (causes : List Nat) : Prop where
  counted : (t.core o.core).eng = (s.core o.core).eng - 1
  detected : ∃ d, t.detects = s.detects ++ [d] ∧ d.cause ∈ causes ∧ (∀ x ∈ causes, d.cause ≤ x) ∧ d.addr = o.addr
  stopped : (t.cox? o.teamRef).map (·.stopped.isSome) = some true
  files : sameFiles s t

/-- The issuing core counts a message as performed (R60): MSG of the core that a heat-relative number names is one lower,
for a heat that is here. -/
def MsgPerformed (s t : State) (a : AckTo) : Prop :=
  ∀ h core, s.heat? a.hid = some h → h.status ≠ .saved → h.away = false → h.coreAt a.core = some core →
    (t.core core).msg = (s.core core).msg - 1

/-- A message waits in the queue of the port that its destination is routed to, ready at a cycle (R268). -/
def State.queued (s : State) (m : Msg) (ready : Nat) : Prop :=
  ∀ p, s.route m.dpkg = some p → (ready, m) ∈ (s.port p).queue

/-- The SEQ that the next message of a flow takes (R267). -/
def State.nextSeq (s : State) (k : FlowKey) : Word := ((s.flows.find? fun e => e.1 == k).map (·.2)).getD 0

/-- The SEQ expected of an incoming flow (R269). -/
def State.expected (s : State) (k : FlowKey) : Word := (s.inflowOf k).1

/-- The step in which a message of class 1 to 3 takes effect (R269). -/
def deliveryOf (m : Msg) : Ev :=
  if m.cls = 1 then .launchMessage m noAck else if m.cls = 2 then .signalMessage m else .bulkMessage m

/-- A COMPLETION RECORD stands in its place of the queue's ring, and nothing else of memory changed (R282). -/
def State.recorded (s t : State) (q entry : Nat) (c : Completion) : Prop :=
  let d := (s.queue q).desc
  let a := d.cbase.toNat + 32 * (entry % 2 ^ d.rlog)
  if d.cloc then
    t.readHbm (a % 2 ^ 48) 32 = c.bytes ∧ (∀ x, (x < a % 2 ^ 48 ∨ a % 2 ^ 48 + 32 ≤ x) → t.look .hbm x = s.look .hbm x) ∧
      s.keeps t [.hbm]
  else
    t.readHost (a % 2 ^ 64) 32 = c.bytes ∧ (∀ x, (x < a % 2 ^ 64 ∨ a % 2 ^ 64 + 32 ≤ x) → t.look .host x = s.look .host x) ∧
      s.keeps t [.host]

/-- What a queue still holds of a command says that it has completed (R282). -/
def State.commandDone (t : State) (q entry : Nat) (sub : Option Nat) : Prop :=
  ∀ k ∈ (t.queue q).commands, k.entry = entry → k.sub = sub → k.completed = true ∧ k.admitted = true

/-- A COMMAND WITH A BREACH (R280, R329): its record names the cause, or its buffer stops there. -/
structure CommandFails (s t : State) (q : Nat) (c : Command) (cause kind : Nat) : Prop where
  log : t.logEvents = s.logEvents ++ [(s.now, .command q cause)]
  files : sameFiles s t
  alone : c.sub = none → s.recorded t q c.entry (plainCompletion c cause kind 0) ∧ t.commandDone q c.entry none
  buffer : ∀ i, c.sub = some i → s.keeps t [] ∧
    (∀ k ∈ (t.queue q).commands, ∀ j, k.entry = c.entry → k.sub = some j → j < i) ∧
    ∀ k ∈ (t.queue q).commands, k.entry = c.entry → k.sub = none → cause ≠ 0 → k.cause ≠ 0

/-- A heat is released with a cause (R329): it completes in this cycle. -/
def State.released (s t : State) (hid cause : Nat) : Prop :=
  (t.heat? hid).map (·.abortCause) = some cause ∧ t.awaits s.now (.heatCompletion hid)

/-- No two heats have one of the model's numbers. -/
def State.hidsApart (s : State) : Prop := (s.heats.map (·.hid)).Nodup

/-- The changes that a cycle makes to barrier objects are all to one object, and nothing else was detected in it (R83). -/
def State.cycleOf (s : State) (core i : Nat) (cs : List BarChange) : Prop :=
  s.barPend = cs ∧ cs ≠ [] ∧ (∀ x ∈ cs, x.core = core ∧ x.idx = i) ∧ s.detects = []

/-- A threshold after the changes of a cycle (R217): it counts the bytes that engines and signals credited, or the advance, from
the cycle after its arming. -/
def Threshold.counted (t : Threshold) (now credited : Nat) (advance : Bool) : Threshold :=
  if t.after < now then { t with count := t.count + (if t.watch then advance.toNat else credited) } else t

/-- Whether a threshold fires no later than another of its cycle (R217): bytes before phases, then by THR, then by arming. -/
def Threshold.notAfter (t u : Threshold) : Prop :=
  (t.watch = false ∧ u.watch = true) ∨ (t.watch = u.watch ∧ (t.thr < u.thr ∨ (t.thr = u.thr ∧ t.order ≤ u.order)))

/-- THE END OF A CYCLE IN WHICH ALL CHANGES TO AN OBJECT FIT (R83, R217): what the object holds and what follows. -/
structure BarSettled (s t : State) (core i : Nat) (cs : List BarChange) (advance : Bool) : Prop where
  object : (t.core core).bar i =
    let b := (s.core core).bar i
    { b with
      arrv := if advance then 0 else b.arrv + (cs.map (·.arrivals)).sum
      pend := b.pend + (cs.map (·.declare)).sum - (cs.map (·.credit)).sum
      phase := if advance then b.phase + 1 else b.phase
      arms := ((t.core core).bar i).arms, hist := ((t.core core).bar i).hist }
  seen : ∀ c, s.now ≤ c → c < s.now + 6 → visiblePhase ((t.core core).bar i) c = visiblePhase ((s.core core).bar i) c
  visible : (∀ e ∈ ((s.core core).bar i).hist, e.1 ≤ s.now) →
    visiblePhase ((t.core core).bar i) (s.now + 6) = ((t.core core).bar i).phase
  thresholds : ∃ fired : List Threshold,
    let counted := ((s.core core).bar i).arms.map fun a =>
      a.counted s.now ((cs.filter (·.engine)).map (·.credit)).sum advance
    (∀ a, a ∈ fired ↔ a ∈ counted ∧ a.thr ≤ a.count) ∧ fired.length = counted.countP (fun a => decide (a.thr ≤ a.count)) ∧
      ((t.core core).bar i).arms = counted.filter (fun a => decide (a.count < a.thr)) ∧
      fired.Pairwise Threshold.notAfter ∧
      (fired.map fun a => (s.now + 6, Ev.barmActionLaunch core a.act)).Sublist (t.agenda.map fun d => (d.at_, d.ev)) ∧
      (t.core core).msg = (s.core core).msg + fired.length
  waiters : advance = true → ∀ h ∈ s.heats, ∀ ti x gi g gr hd p, h.teams[ti]? = some x → x.core = core →
    x.gangs[gi]? = some g → gr ∈ g.groups → gr.wait = .bwt hd p → handleIdx hd = i → handleGen hd = ((s.core core).bar i).gen →
      t.awaits (s.now + 6) (.bwtResume ⟨h.hid, ti, gi⟩ gr.quads)
  armed : advance = true → s.hidsApart → ∀ h ∈ s.heats, ∀ x, h.teams[h.record.armTeam]? = some x → h.status = .armed →
    h.trigger = none → x.core = core → h.record.armIdx = i →
      (t.heat? h.hid).map (·.trigger) = some (some s.now) ∧ t.awaits s.now (.heatStart h.hid)
  others : ∀ c j, ¬(c = core ∧ j = i) → (t.core c).bar j = (s.core c).bar j
  rest : t.barPend = [] ∧ t.detects = [] ∧ sameFiles s t ∧ s.keeps t []

/-- A CHANGE IS A BARRIER BREACH (R342): its agent's heat takes the fault, the stream that the agent names stops. -/
structure BarBlamed (s t : State) (x : BarChange) (cause : Nat) : Prop where
  fault : ∀ h, s.heat? x.agent.hid = some h → h.status = .running → h.fault = none →
    (t.heat? x.agent.hid).map (·.fault) = some (some { x.agent with cause := cause })
  gang : ∀ g y, namesGang x.agent g → s.gang? g = some y → t.quadsStopped g (BitVec.ofNat 8 x.agent.qmask)
  cox : 1 ≤ x.agent.src → x.agent.src ≤ 5 → ∀ c, s.cox? ⟨x.agent.hid, x.agent.team⟩ = some c →
    (t.cox? ⟨x.agent.hid, x.agent.team⟩).map (·.stopped.isSome) = some true

/-- The nodes that lose a count are those of a list, each as often as it stands there (R287). -/
def State.countsDown (s t : State) (q : Nat) (ns : List Nat) : Prop :=
  ∀ j m, j ≠ 0xFFFF → s.node? q j = some m → (t.node? q j).map (·.count) = some (m.count - ns.count j)

/-- A graph stops: it admits nothing more, or is over (R287, R347). -/
def State.graphStops (t : State) (q : Nat) : Prop := ∀ g, (t.queue q).graph = some g → g.stopped = true

/-- A message with a payload waits in a port's queue, ready now (R268, R276, R355). -/
def State.sends (s t : State) (port cls : Nat) (payload : List Byte) : Prop :=
  ∃ e ∈ (t.port port).queue, e.1 = s.now ∧ e.2.cls = cls ∧ e.2.payload = payload

/-- A PTP message's payload: its type with the package's domain, and doublewords (R17, R276, log 57). -/
def State.ptpPayload (s : State) (subtype : Nat) (body : List Nat) : List Byte :=
  (((subtype + 256 * s.ptp.domain) :: body).map (leBytes 8)).flatten

/-- THE COORDINATOR CONCLUDES (R356): every package that reported and stays resumes by one shift, a multiple of 8,192 that
reaches every reported cycle and leaves time for the message; the others are excluded. -/
def Concludes (s t : State) (ph : Nat) : Prop :=
  (∃ d, t.awaits s.now (.resume d ph s.pkgNo.toNat) ∧ d % 8192 = 0 ∧ s.now + s.regatta.haltLead ≤ ph + d ∧
    ∀ r ∈ t.regatta.reported, r.2.1 = false → r.2.2 ≤ ph + d) ∧
  ∀ p ∈ s.regatta.packages, (∀ r ∈ t.regatta.reported, r.1 ≠ p) → t.awaits s.now (.exclude p ph s.pkgNo.toNat)

/-- A FATAL CAUSE while no heat runs (R327, R350): the dump with its seal, FE clear, every heat aborted, the regatta left. -/
structure FatalDump (s t : State) (cause : Nat) : Prop where
  fatal : t.fatal = some cause
  fe : t.ready.fe = false
  heats : ∀ h ∈ s.heats, ∃ x ∈ t.heats, x.hid = h.hid ∧ x.abortCause = cause
  regatta : t.regatta.member = false
  clocks : t.clockOff = (s.clockOff || cause == 0xF5)
  dump : Store.wf 0 s.hbm = true →
    let bs := s.dumpBytes cause
    t.readHbm ((s.mailbox.dumpBase.map (·.toNat)).getD 0x005FFF000000) bs.length =
      bs.take 60 ++ leBytes 4 (crc32c (bs.take 60 ++ leBytes 4 0 ++ bs.drop 64)) ++ bs.drop 64

/-! ## The invariant -/

/-- A memory in its canonical form: addresses strictly rising, no entry equal to what an unlisted address reads as. -/
def Memory.wf (m : Store Byte) : Bool := Store.wf 0 m

/-- Every memory is in its canonical form. -/
def State.memoryWf (s : State) : Prop :=
  Memory.wf s.hbm = true ∧ Memory.wf s.hostMem = true ∧ Memory.wf s.scratch = true ∧ Store.wf (0 : Word) s.tiles = true

end Sys2Proof.Machine
end

