-- ==== Sys2Proof/Certificates/Slice0/Obligations.lean ====
section
/-! DEFINITION. The statements. -/
open Sys2Proof Sys2Proof.Machine

/-! ## The encoding (R133-R144) -/

/-- Words written out from the encodings of the spec decode to the instructions they stand for (R136, R137, R142). -/
def Obligations.SpecWordsDecode : Prop :=
  ∀ e ∈ specWords, decode (wordBytes e.1) = .ok (e.2, [])

/-- DECODE OF ENCODE: for every well-formed program instruction, with every operand at every value that the encoding admits,
and whatever bytes follow (R133, R136, R137, R142). -/
def Obligations.DecodeEncode : Prop :=
  ∀ (i : Instr) (rest : List Byte), wellFormed i = true → decode (encodeBytes i ++ rest) = .ok (i, rest)

/-- ENCODE OF DECODE: an assigned first word is the first word of the instruction read from it, and the word after it is the
second exactly when the first is a lane word with X = 1 (R136): no bit of either is dropped. -/
def Obligations.ParsedWordsEncodeBack : Prop :=
  ∀ w next : Word, parse w next ≠ .unassignedOpcode w →
    encode (parse w next) = if !bit w 31 && bit w 0 then [w, next] else [w]

/-- THE OPCODE MAPS (R139, R143): a word is an instruction exactly when its OP is assigned in the map of its set, and is then
of the uniform set exactly when bit 31 is 1 (R133). -/
def Obligations.OpcodeMaps : Prop :=
  ∀ w next : Word,
    (parse w next = .unassignedOpcode w ↔
      bits w.toNat 30 24 ∉ (if bit w 31 then uniformOpcodes else laneOpcodes)) ∧
    isUniform (parse w next) = bit w 31

/-! ## The step -/

/-- A STEP RUNS THE DECODED INSTRUCTION. When the next thing to happen is the issue slot of a stream that stands before a
clause whose header and words can be read through its team's windows (R120, R133, R134), and the bytes of those words
decode to i, the step is `exec` of i, in the slot's cycle, with the stream named and the clause in its place. Inside a clause
the step runs the instruction that the bytes at the stream's place in the clause decode to (R134, R135). A cycle that ends
first is settled first (R83, R319). -/
def Obligations.StepRunsDecoded : Prop :=
  ∀ (s u : State) (x : Slot) (i : Instr) (rest : List Byte),
    s.clockOff = false → u = s.settled → firstSlot u.slots = some x → (∀ d ∈ u.agenda.head?, dueFirst d x = false) →
    (∀ (r : TeamRef) (t : Team) (cl : Clause), x.who = .cox r → u.team? r = some t →
      ((∃ hd ws, t.cox.clause = none ∧ u.readsClause t t.cox.pc hd ws ∧ cl = freshClause t.cox.pc hd ws t.cox.branched) ∨
        t.cox.clause = some cl) → decode (wordBytes (cl.words.drop cl.idx)) = .ok (i, rest) →
      step s = exec i { ({ u with now := x.cycle } : State).modCox r (fun c => { c with clause := some cl }) with
        cur := x.who }) ∧
    (∀ (r : GangRef) (q : BitVec 8) (t : Team) (g : Gang) (gr : Group) (cl : Clause), x.who = .gang r q →
      u.team? ⟨r.hid, r.team⟩ = some t → u.gang? r = some g → g.groups.find? (fun y => y.quads == q) = some gr →
      ((∃ hd ws, gr.clause = none ∧ u.readsClause t gr.pc hd ws ∧ cl = freshClause gr.pc hd ws gr.branched) ∨
        gr.clause = some cl) → decode (wordBytes (cl.words.drop cl.idx)) = .ok (i, rest) →
      step s = exec i { ({ u with now := x.cycle } : State).modGang r (fun g => g.modGroup q fun y =>
        { y with clause := some cl }) with cur := x.who })

/-- THE MACHINE ALWAYS GOES ON: when no two heats have one of the model's numbers, a step faults exactly when core clocks have
been removed (R350), or when, at the end of the cycle, no stream has an issue slot left and the agenda is empty; it is refused
never. -/
def Obligations.StepAnswers : Prop :=
  ∀ s : State, s.settled.hidsApart → (∀ d ∈ s.settled.agenda.head?, d.ev ≠ .idle) →
    let stops := s.clockOff = true ∨ (firstSlot s.settled.slots = none ∧ s.settled.agenda = [])
    (stops → step s = .fault .clockStopped) ∧ (¬stops → ∃ t, step s = .next t)

/-- AN AGENDA STEP comes when its cycle and rank say: no slot before it, it runs as its own instruction with its data, at its
cycle (log 12). -/
def Obligations.StepRunsAgenda : Prop :=
  ∀ (s : State) (d : Due) (rest : List Due) (i : Instr), s.clockOff = false → s.cycleEnds = false → s.agenda = d :: rest →
    d.ev.instr = some i → s.now ≤ d.at_ → (∀ x, firstSlot s.slots = some x → dueFirst d x = true) →
    step s = exec i { s with now := d.at_, agenda := rest, arg := d.ev, cur := .none }

/-- A PLACED INSTRUCTION IS THE NEXT TO RUN, in the current cycle, whatever the state, its memories canonical (log 12). -/
def Obligations.PlacedWordIssues : Prop :=
  ∀ (s : State) (nbits w : Nat), s.memoryWf →
    let first : Word := BitVec.ofNat 32 w
    let second : Word := if !bit first 31 && bit first 0 then BitVec.ofNat 32 (w / 2 ^ 32) else 0
    ∃ t, (s.withFetchWord nbits w).upNext = some (parse first second, t) ∧ t.now = s.now

/-- THE END OF A CYCLE FOR A BARRIER OBJECT (R83, R217, R342). All changes of the cycle are applied together, then the advance
is tested: the phase goes on when every expected member has arrived and no byte is pending, and is visible 6 cycles later;
thresholds count and fire in their order, their actions launch 6 cycles later and count in MSG; waiting groups are woken, armed
heats triggered. An arrival too many is 0xC4, a change that takes PEND out of range 0xC5: its agent is named and its changes are
not applied, those of other agents are, byte changes of lower rank first. -/
def Obligations.BarrierCycleEnds : Prop :=
  (∀ (s : State) (core i : Nat) (cs : List BarChange), s.cycleOf core i cs →
    let b := (s.core core).bar i
    let arrived := b.arrv + (cs.map (·.arrivals)).sum
    let limit := b.expg + b.expc + b.expe
    let declared := (cs.map (·.declare)).sum
    let credited := (cs.map (·.credit)).sum
    (∃ x ∈ cs, 0 < x.arrivals + x.declare + x.credit) → arrived ≤ limit → credited ≤ b.pend + declared →
    b.pend + declared - credited < 2 ^ 40 →
      BarSettled s s.settle core i cs (decide (arrived = limit ∧ b.pend + declared = credited))) ∧
  (∀ (s : State) (core i : Nat) (x : BarChange), s.cycleOf core i [x] →
    let b := (s.core core).bar i
    (∀ a ∈ b.arms, a.count < a.thr) → b.pend < 2 ^ 40 →
    (0 < x.arrivals → b.expg + b.expc + b.expe < b.arrv + x.arrivals →
      BarBlamed s s.settle x 0xC4 ∧ (s.settle.core core).bar i = b) ∧
    (x.arrivals = 0 → b.pend + x.declare < x.credit ∨ 2 ^ 40 + x.credit ≤ b.pend + x.declare →
      x.declare = 0 ∨ x.credit = 0 → BarBlamed s s.settle x 0xC5 ∧ (s.settle.core core).bar i = b)) ∧
  (∀ (s : State) (core i : Nat) (x y : BarChange), s.cycleOf core i [x, y] ∨ s.cycleOf core i [y, x] →
    x.agent.rank < y.agent.rank →
    let b := (s.core core).bar i
    let z := (s.settle.core core).bar i
    (x.arrivals = 1 → y.arrivals = 1 → b.expg + b.expc + b.expe = b.arrv + 1 →
      x.declare = 0 → x.credit = 0 → y.declare = 0 → y.credit = 0 →
      BarBlamed s s.settle y 0xC4 ∧ z.pend = b.pend ∧
        (b.pend = 0 → z.arrv = 0 ∧ z.phase = b.phase + 1) ∧ (b.pend ≠ 0 → z.arrv = b.arrv + 1 ∧ z.phase = b.phase)) ∧
    (x.declare = 0 → y.declare = 0 → x.credit ≤ b.pend → b.pend < x.credit + y.credit → 0 < x.credit →
      b.arrv + x.arrivals + y.arrivals < b.expg + b.expc + b.expe →
      BarBlamed s s.settle y 0xC5 ∧ z.pend = b.pend - x.credit ∧ z.arrv = b.arrv + x.arrivals ∧ z.phase = b.phase))

/-- WHAT RESET LEAVES (R303, R277, R299, R301, R261, R82, R28): counts and registers whose reset value the spec gives. -/
def Obligations.ResetState : Prop :=
  let s := State.reset
  s.now = 0 ∧ s.heats = [] ∧ s.fatal = none ∧ s.faultLog = [] ∧
  s.ready = { pcie := false, fwok := false, ump := false, mar := false, stack := 0, port := 0, ptp := false, fe := false } ∧
  s.budget = 2000 ∧
  (∀ q, (s.queue q).desc = QueueDesc.init ∧ (s.queue q).deficit = 0 ∧ (s.queue q).hentry = 0 ∧ (s.queue q).policies = []) ∧
  (∀ r, let g := Store.get Ring.init s.rings r
    g.hbase = 0 ∧ g.rlog = 0 ∧ g.en = false ∧ g.pi = 0 ∧ g.ci = 0 ∧ g.dropped = 0 ∧ g.lost = 0 ∧ g.waiting = []) ∧
  (∀ c, let k := s.core c
    k.sto = 0 ∧ k.atm = 0 ∧ k.eng = 0 ∧ k.msg = 0 ∧ (∀ g, Store.get 0 k.owner g = 0) ∧ k.landing = none ∧
      ∀ i, (k.bar i).alloc = false ∧ (k.bar i).gen = 0 ∧ (k.bar i).phase = 0) ∧
  (∀ p, (s.port p).trained = false ∧ (s.port p).queue = [])

/-! ## What every step keeps -/

/-- EVERY STEP KEEPS EVERY MEMORY IN ITS CANONICAL FORM. -/
def Obligations.StepKeepsMemoryCanonical : Prop :=
  ∀ s t : State, s.memoryWf → step s = .next t → t.memoryWf

/-- The invariants hold at reset: every memory is canonical, and the heats' numbers are apart. -/
def Obligations.ResetMemoryCanonical : Prop := State.reset.memoryWf ∧ State.reset.hidsWf

/-- EVERY STEP KEEPS THE HEATS' NUMBERS APART: no two heats ever have one of the model's numbers, and none has one that is still
to be given. -/
def Obligations.StepKeepsHeatNumbers : Prop :=
  ∀ s t : State, s.hidsWf → step s = .next t → t.hidsWf

/-- THE FRAME OF EVERY INSTRUCTION: no instruction changes a memory but those that `mayWrite` names for it, nor the package
number, nor (but for the load of the pod counter) the cycle. No program instruction changes any memory at its issue (R114,
R122, R130). -/
def Obligations.InstructionsKeepFrame : Prop :=
  ∀ (i : Instr) (s t : State), exec i s = .next t →
    (∀ p, p ∉ mayWrite i → s.sameIn t p) ∧ t.pkgNo = s.pkgNo ∧ (i ≠ .podCounterLoad → t.now = s.now)

/-- TIME NEVER GOES BACK, but by a load of the pod counter (R16). -/
def Obligations.TimeNeverGoesBack : Prop :=
  ∀ (s t u : State) (i : Instr), step s = .next t → s.upNext = some (i, u) → i ≠ .podCounterLoad → s.now ≤ t.now
/-! ## Results of the lane set (R153-R174, R185-R190) -/

/-- INTEGER ARITHMETIC (R156), wrapped mod 2^32 or saturated with SAT, and BIT OPERATIONS (R159, Table 3). -/
def Obligations.LaneIntegerResults : Prop :=
  ∀ e ∈ laneIntegers ++ laneBitOps, ∀ w s c, LaneClear (e.1 w) w s c → LaneGives (e.1 w) w s c 4 (e.2 c w)

/-- BIT FIELDS, SELECTION AND MOVES (R160, R161). -/
def Obligations.LaneMoveResults : Prop :=
  ∀ e ∈ laneMoves, ∀ w s c, LaneClear (e.1 w) w s c → LaneGives (e.1 w) w s c 4 (e.2 c w)

/-- f32 ARITHMETIC (R162, Table 4), conversions (R167, R168), and TRANSCENDENTALS (R164): 12 cycles, with a completion flag. -/
def Obligations.LaneFloatResults : Prop :=
  (∀ e ∈ laneFloats, ∀ w s c, LaneClear (e.1 w) w s c → LaneGives (e.1 w) w s c 4 (e.2 c w)) ∧
  (∀ w s c, LaneClear (.cvt w) w s c → LaneGives (.cvt w) w s c 4 (cvtResult c w)) ∧
  ∀ e ∈ laneTranscendentals, ∀ w s c, LaneClear (e.1 w) w s c → LaneGives (e.1 w) w s c 12 (e.2 c w)

/-- PACKED ARITHMETIC: i16, each half wrapped or saturated with SAT (R158), and floating (R163, Table 5). -/
def Obligations.LanePackedResults : Prop :=
  ∀ e ∈ lanePackedIntegers ++ lanePackedFloats, ∀ w s c, LaneClear (e.1 w) w s c → LaneGives (e.1 w) w s c 4 (e.2 c w)

/-- DOT PRODUCTS, TERNARY ACCUMULATION AND MASK COUNTS (R169, R171, R172, R174), and the unpacking of trits with its mask of
invalid codes (R170). -/
def Obligations.LaneDots : Prop :=
  (∀ e ∈ laneDots, ∀ w s c, LaneClear (e.1 w) w s c → LaneGives (e.1 w) w s c 4 (e.2 c w)) ∧
  ∀ w s c, LaneClear (.unp5 w) w s c →
    let v (l : Nat) : BitVec 8 := byteOf (c.opA w l) (bits w.imm 4 3)
    let k := bits w.imm 2 0
    ∃ t l m, exec (.unp5 w) s = .next t ∧ LaneIssued s c t ∧ t.awaits (s.now + 4) (.laneResult c.ref { l with ms := m }) ∧
      LandsWord l c w (fun j => unpacked (v j)) ∧
      LandsMask { l with vs := [], ms := m } c k (fun j => decide ((v j).toNat ≥ 243))

/-- EXCHANGE AMONG LANES (R187, R188): 6 cycles, from the values the lanes hold at the issue; absent quads give 0. -/
def Obligations.LaneExchanges : Prop :=
  ∀ e ∈ laneExchanges, ∀ w s c, LaneClear (e.1 w) w s c → LaneGives (e.1 w) w s c 6 (e.2 c w)

/-- COMPARES AND MASK LOGIC (R166, R173): the bits of active lanes of the mask that D names, m0 never. -/
def Obligations.LaneMasks : Prop :=
  ∀ e ∈ laneMasks, ∀ w s c, LaneClear (e.1 w) w s c → LaneGivesMask (e.1 w) s c (w.d.toNat % 8) (e.2 c w)

/-- 64-BIT ARITHMETIC (R157) into the pair that D names, and index registers and windows (R185, R186): the landings. -/
def Obligations.LanePairsAndWindows : Prop :=
  (∀ e ∈ [((.addI64 : LaneWord → Instr), (fun a b : Int => a + b), (fun a b : BitVec 64 => a + b)),
      (.subI64, (fun a b => a - b), (fun a b => a - b))], ∀ w s c, LaneClear (e.1 w) w s c →
    let v (l : Nat) : BitVec 64 :=
      if w.sat then clamp64 (e.2.1 (c.op64 w.a.toNat l).toInt (c.opB64 w l).toInt)
      else e.2.2 (c.op64 w.a.toNat l) (c.opB64 w l)
    ∃ t l, exec (e.1 w) s = .next t ∧ LaneIssued s c t ∧ t.awaits (s.now + 4) (.laneResult c.ref l) ∧
      l.vs = ((lanesOf c.active).flatMap fun j =>
        [(32 * w.d.toNat + j, (v j).setWidth 32), (32 * (w.d.toNat + 1) + j, (v j).extractLsb' 32 32)]) ∧
      l.ms = [] ∧ l.xs = [] ∧ l.wins = []) ∧
  (∀ w s c, LaneClear (.xset w) w s c → ∃ t, exec (.xset w) s = .next t ∧ LaneIssued s c t ∧
    t.awaits (s.now + 4) (.laneResult c.ref { vs := [], ms := [], wins := [], latch := none, flag := none, xs :=
      ((lanesOf c.active).map fun j => (32 * w.d.toNat + j, (c.opA w j).setWidth 8)) })) ∧
  (∀ w s c, LaneClear (.xwin w) w s c → ∃ t, exec (.xwin w) s = .next t ∧ LaneIssued s c t ∧
    t.awaits (s.now + 4) (.laneResult c.ref { vs := [], ms := [], xs := [], latch := none, flag := none, wins :=
      [(w.d.toNat, BitVec.ofNat 16 w.imm)] }))

/-! ## Results of the uniform set (R202-R206) -/

/-- SCALAR ARITHMETIC AND SELECTION (R202, R206), floating arithmetic and conversions (R204), immediate forms (R203). -/
def Obligations.CoxResults : Prop :=
  (∀ e ∈ coxIntegers ++ coxFloats, ∀ w s c, CoxClear (e.1 w) s c → CoxGives (e.1 w) s c 2 (kLanding [(w.d.toNat, e.2 c w)])) ∧
  ∀ e ∈ coxImmediates, ∀ w s c, CoxClear (e.1 w) s c → CoxGives (e.1 w) s c 2 (kLanding [(w.d.toNat, e.2 c w)])

/-- PREDICATES (R205, R206). -/
def Obligations.CoxPredicates : Prop :=
  (∀ e ∈ coxPredicates, ∀ w s c, CoxClear (e.1 w) s c →
    CoxGives (e.1 w) s c 2 { CoxLanding.empty with ps := [(e.2.1 w, e.2.2 c w)] }) ∧
  ∀ w s c, CoxClear (.cmpi w) s c → CoxGives (.cmpi w) s c 2 { CoxLanding.empty with
    ps := [(w.d.toNat % 8, intHolds (w.d.toNat / 8) (c.k w.a.toNat).toInt (w.imm.signExtend 32).toInt)] }

/-- 64-BIT SUMS, TIME AND SPECIAL REGISTERS (R202, R208, R209): the pod cycle of the issue is `sr.podtime`. -/
def Obligations.CoxPairsAndTime : Prop :=
  (∀ w s c, CoxClear (.coxAddI64 w) s c →
    CoxGives (.coxAddI64 w) s c 2 (kPair w.d.toNat (c.op64 w.a.toNat + c.op64 w.b.toNat))) ∧
  (∀ w s c, CoxClear (.coxSubI64 w) s c →
    CoxGives (.coxSubI64 w) s c 2 (kPair w.d.toNat (c.op64 w.a.toNat - c.op64 w.b.toNat))) ∧
  (∀ w s c, CoxClear (.rdtime w) s c → c.base ≤ s.now →
    CoxGives (.rdtime w) s c 2 (kPair w.d.toNat (BitVec.ofNat 64 s.now))) ∧
  (∀ w s c, CoxClear (.srd w) s c → CoxGives (.srd w) s c 2 (kLanding [(w.d.toNat, c.specialReg s w.imm.toNat)]))

/-! ## Accesses and control of the lane set (R175-R199) -/

/-- SCRATCH LOADS (R177): the bytes of each real active lane, read at the issue, land 14 cycles later, extended by SX;
helper lanes get 0 (R45). With an owner that forbids the read (R333) or an error (R349) the access faults instead, and the
stream stops. -/
def Obligations.LaneScratchLoads : Prop :=
  ∀ w s c, LaneClear (.lds w) w s c →
    let op := c.scratchAcc w (.lds w) 0
    let bytes (j : Nat) : List Byte := s.readScratch c.team.core (4096 * c.team.sbase + c.offset w j) (2 ^ w.sz)
    (s.accFail op = none → ∃ t l, exec (.lds w) s = .next t ∧ LaneIssued s c t ∧
      t.awaits (s.now + 14) (.scratchLoadDelivery c.ref l) ∧ l.ms = [] ∧ l.xs = [] ∧ l.wins = [] ∧
      (w.sz ≤ 2 → l.vs = (c.realLanes.flatMap fun j =>
          (c.destKeys w.d.toNat j).map fun k => (k, loadedWord w.sx (bytes j))) ++
        c.helperLanes.flatMap fun j => (c.destKeys w.d.toNat j).map fun k => (k, 0)) ∧
      (w.sz = 3 → w.d.toNat < 96 → l.vs = (c.realLanes.flatMap fun j =>
          [(32 * w.d.toNat + j, loadedWord false ((bytes j).take 4)),
           (32 * (w.d.toNat + 1) + j, loadedWord false ((bytes j).drop 4))]) ++
        c.helperLanes.flatMap fun j => [(32 * w.d.toNat + j, 0), (32 * (w.d.toNat + 1) + j, 0)])) ∧
    (∀ cause lanes addr, s.accFail op = some (cause, lanes, addr) → ∃ t d, exec (.lds w) s = .next t ∧ LaneIssued s c t ∧
      t.detects = s.detects ++ [d] ∧ d.cause = cause ∧ d.lanes = lanes ∧ d.addr = addr ∧
      t.quadsStopped c.ref c.quads)

/-- SCRATCH STORES AND ATOMICS (R114, R177, R178): tested at the issue, they perform 10 cycles later, each real active lane
at its own address with its own data; nothing is written before. -/
def Obligations.LaneScratchStores : Prop :=
  ∀ e ∈ [((.sts : LaneWord → Instr), 1, Ev.scratchStorePerform), (.ats, 2, .scratchAtomicPerform)],
    ∀ w s c, LaneClear (e.1 w) w s c →
      ∃ t op, exec (e.1 w) s = .next t ∧ LaneIssued s c t ∧ op.g = c.ref ∧ op.core = c.team.core ∧ op.size = 2 ^ w.sz ∧
        op.aop = w.aop ∧
        (op.lanes.map fun l => (l.1, l.2.1, l.2.2.1)) =
          (c.realLanes.map fun j => (j, 4096 * c.team.sbase + c.offset w j, c.stored w j)) ∧
        (s.accFail (c.scratchAcc w (e.1 w) e.2.1) = none → t.awaits (s.now + 10) (e.2.2 op none)) ∧
        (∀ f, s.accFail (c.scratchAcc w (e.1 w) e.2.1) = some f →
          ∃ d, t.awaits (s.now + 10) (e.2.2 op (some d)) ∧ d.cause = f.1 ∧ d.lanes = f.2.1 ∧ d.addr = f.2.2)

/-- LOADS THROUGH A TENSOR ENTRY (R79, R80, R179): the element at the lane's index, 14 cycles later. -/
def Obligations.LaneTensorLoads : Prop :=
  ∀ w s c, LaneClear (.ldt w) w s c → s.accFail (c.ldtAcc w) = none →
    ∃ t l, exec (.ldt w) s = .next t ∧ LaneIssued s c t ∧ t.awaits (s.now + 14) (.scratchLoadDelivery c.ref l) ∧
      l.ms = [] ∧ l.xs = [] ∧ l.wins = [] ∧
      ((c.ldtEntry w).fmt < 13 → w.sz ≤ 2 → l.vs = (c.realLanes.flatMap fun j => (c.destKeys w.d.toNat j).map fun k =>
          (k, loadedWord w.sx (s.readScratch c.team.core
            (4096 * c.team.sbase + ((c.ldtEntry w).addr (c.ldtIndex w j)).toNat) (2 ^ w.sz)))) ++
        c.helperLanes.flatMap fun j => (c.destKeys w.d.toNat j).map fun k => (k, 0))

/-- GLOBAL ACCESSES (R32, R175, R180-R182): each real active lane takes its address, its stack cycle, 320 cycles after the
issue or 368 to the other die, and its data; a page that is not shared performs at the stack cycle, and so do `atg` and `casg`
(R125), where no other lane touches the same doubleword. The stack cycles wait, those of the core's own die and those of the
other. Results come, or the operation completes, 640 or 760 cycles after the issue, 64 later from the other die, each delivery
with the lanes of its die, helper lanes with the first; and STO or ATM counts it till then. -/
def Obligations.LaneGlobalAccesses : Prop :=
  ∀ e ∈ [((.ldg : LaneWord → Instr), GlobalKind.load, 640), (.ldgAcq, .load, 640), (.stg, .store, 640), (.stgRel, .store, 640),
      (.atg, .atomic, 760), (.casg, .cas, 760), (.redg, .reduce, 760)],
    ∀ w s c, LaneClear (e.1 w) w s c →
      ∃ t o, exec (e.1 w) s = .next t ∧ LaneIssued s c t ∧ o ∈ t.gops ∧ o.id = s.nextOp ∧ o.kind = e.2.1 ∧
        o.gangRef = c.ref ∧ o.sz = w.sz ∧ o.aop = w.aop ∧
        o.lanes.map (·.lane) = c.realLanes ∧
        (∀ a ∈ o.lanes, a.va = c.address w a.lane ∧ a.far = (dieOfCore c.team.core != dieOfStack (stackOf a.va)) ∧
          a.s = c.t + 320 + (if a.far then 48 else 0) ∧
          (a.kind = 0 ∨ e.2.1 = .atomic ∨ e.2.1 = .cas →
            (e.2.1 = .load ∨ ∀ b ∈ o.lanes, b.pa / 8 = a.pa / 8 → b.lane = a.lane) → a.p = a.s) ∧
          (e.2.1 = .store ∨ e.2.1 = .atomic ∨ e.2.1 = .reduce → a.data = c.stored w a.lane % 2 ^ (8 * 2 ^ w.sz)) ∧
          (e.2.1 = .cas → a.data = c.stored w a.lane ∧ a.cmp = c.compared w a.lane)) ∧
        (e.2.1 = .load ∨ e.2.1 = .atomic ∨ e.2.1 = .cas →
          o.dests = (c.realLanes.map fun l => (l, c.resultKeys w (w.sz == 3) l)) ∧
          o.zeros = c.helperLanes.flatMap (c.resultKeys w (w.sz == 3))) ∧
        (let far := o.lanes.any (·.far)
         let near := o.lanes.any fun l => !l.far
         let issue := s.teamBase ⟨c.ref.hid, c.ref.team⟩ + c.t
         let at0 := issue + e.2.2
         (near = true → t.awaits (issue + 320) (.stackAccess (.lanes o.id (o.dieMask false) true))) ∧
         (far = true → t.awaits (issue + 368) (.stackAccess (.lanes o.id (o.dieMask true) (!near)))) ∧
         (e.2.1 = .load → (near = true ∨ far = false → t.awaits at0 (.globalLoadDelivery o.id (o.delivered false))) ∧
           (far = true → t.awaits (at0 + 64) (.globalLoadDelivery o.id (o.delivered true)))) ∧
         (e.2.1 = .atomic ∨ e.2.1 = .cas → (near = true ∨ far = false → t.awaits at0 (.atomicResult o.id (o.delivered false))) ∧
           (far = true → t.awaits (at0 + 64) (.atomicResult o.id (o.delivered true)))) ∧
         (e.2.1 = .store ∨ e.2.1 = .reduce →
           t.awaits (at0 + if far then 64 else 0) (.globalStoreCompletion o.id))) ∧
        (t.core c.team.core).sto = (s.core c.team.core).sto + (if e.2.1 = .store ∨ e.2.1 = .reduce then 1 else 0) ∧
        (t.core c.team.core).atm = (s.core c.team.core).atm + (if e.2.1 = .atomic ∨ e.2.1 = .cas then 1 else 0)

/-- FENCES, OWNER FLIPS AND NOP (R115, R126, R183, R184, R199): a fence only raises its gang's fence counts; a flip gives
each granule its owner at once and closes it for 10 cycles. -/
def Obligations.LaneFencesAndOwners : Prop :=
  (∀ e ∈ [((.fenGang : LaneWord → Instr), 0), (.fenPkg, 1)], ∀ w s c, LaneClear (e.1 w) w s c →
    ∃ t, exec (e.1 w) s = .next t ∧ LaneIssued s c t ∧
      (t.gang? c.ref).map (fun g => (g.ord.gng, g.ord.pkg, g.ord.accs)) =
        some (c.gang.ord.gng + 1, c.gang.ord.pkg + e.2, c.gang.ord.accs)) ∧
  (∀ w s c, LaneClear (.laneOwn w) w s c → ∀ l, lowestBit c.active = some l →
    ∃ t, exec (.laneOwn w) s = .next t ∧ LaneIssued s c t ∧ ∀ j, j ≤ bits w.imm 15 8 →
      let g := c.team.sbase + (c.opA w l).toNat / 4096 + j
      Store.get 0 (t.core c.team.core).owner g = BitVec.ofNat 3 (w.imm % 8) ∧
      Store.get 0 (t.core c.team.core).closed g = s.now + 10 ∧
      t.awaits (s.now + 10) (.ownerFlipOpen c.team.core g)) ∧
  (∀ w s c, LaneClear (.laneNop w) w s c → LaneLeaves (.laneNop w) s c (c.followed (.laneNop w) w))

/-- BRANCHES, CALLS AND RETURNS OF A GANG (R191, R192): to the word's address plus four times the offset; a call pushes the
address of the header after its clause; a return pops it. -/
def Obligations.LaneBranches : Prop :=
  (∀ w s c, LaneClear (.bra w) w s c →
    (c.branches w → LaneLeaves (.bra w) s c (c.sent (c.branchTo w) c.group.stack)) ∧
    (¬c.branches w → LaneLeaves (.bra w) s c (c.followed (.bra w) w))) ∧
  (∀ w s c, LaneClear (.laneCall w) w s c →
    (c.branches w → LaneLeaves (.laneCall w) s c (c.sent (c.branchTo w) (c.clause.nextAddr :: c.group.stack))) ∧
    (¬c.branches w → LaneLeaves (.laneCall w) s c (c.followed (.laneCall w) w))) ∧
  (∀ w s c, LaneClear (.laneRet w) w s c → ∃ pc rest, c.group.stack = pc :: rest ∧
    LaneLeaves (.laneRet w) s c (c.sent pc rest))

/-- PARTING (R194): the quads of the group go on in groups, two of them together exactly when their first lanes read the
same value. -/
def Obligations.LaneParting : Prop :=
  ∀ w s c, LaneClear (.part w) w s c →
    ∃ (t : State) (parts : List (BitVec 8)), exec (.part w) s = .next t ∧ LaneIssued s c t ∧
      (t.gang? c.ref).map (·.groups) = some (c.gang.groups.flatMap fun g =>
        if g.quads = c.quads then parts.map fun q =>
          { g.advance c.clause (.part w) c.t w.hold.toNat (c.base + c.t) with quads := q } else [g]) ∧
      ∀ i j, i < 8 → j < 8 → ((∃ q ∈ parts, q.getLsbD i = true ∧ q.getLsbD j = true) ↔
        c.quads.getLsbD i = true ∧ c.quads.getLsbD j = true ∧ c.opA w (4 * i) = c.opA w (4 * j))

/-- COMING TOGETHER AND SPANS (R27, R29, R193, R195): `rejoin` does nothing in a gang that is not parted, else its group
waits, and the last group to reach it has the gang go on as one from the next cycle; `spn` pushes the span's end, at which the
span is checked; the last group to reach `spe` closes the span, and the gang goes on as one at the span's end, at the header
after the clause of the group that holds the lowest quad. -/
def Obligations.LaneSpans : Prop :=
  (∀ w s c, LaneClear (.rejoin w) w s c →
    (c.gang.groups.length = 1 → LaneLeaves (.rejoin w) s c (c.followed (.rejoin w) w)) ∧
    (c.gang.groups.length ≠ 1 → ∃ t, exec (.rejoin w) s = .next t ∧ LaneIssued s c t ∧
      t.group? c.ref c.quads = some { c.followed (.rejoin w) w with wait := .rejoin c.pc c.clause.nextAddr } ∧
      ((∀ g ∈ c.gang.groups, g.quads ≠ c.quads → ∃ n, g.wait = .rejoin c.pc n) →
        t.awaits s.now (.rejoinMerge c.ref)))) ∧
  (∀ w s c, LaneClear (.spn w) w s c → ∃ t, exec (.spn w) s = .next t ∧ LaneIssued s c t ∧
    (t.gang? c.ref).map (·.spans) = some ((c.t + w.imm25.toNat) :: c.gang.spans) ∧
    t.awaits (c.base + c.t + w.imm25.toNat) (.spanEnd c.ref (c.t + w.imm25.toNat))) ∧
  (∀ w s c, LaneClear (.spe w) w s c →
    ((∃ g ∈ c.gang.groups, g.quads ≠ c.quads ∧ ∀ n, g.wait ≠ .spe n) → ∃ t, exec (.spe w) s = .next t ∧ LaneIssued s c t ∧
      t.group? c.ref c.quads = some { c.followed (.spe w) w with wait := .spe c.clause.nextAddr } ∧
      (t.gang? c.ref).map (·.spans) = some c.gang.spans) ∧
    ((∀ g ∈ c.gang.groups, g.quads ≠ c.quads → ∃ n, g.wait = .spe n) →
      c.gang.groups.Pairwise (fun a b => a.quads &&& b.quads = 0) →
      ∃ t e m, exec (.spe w) s = .next t ∧ LaneIssued s c t ∧ c.gang.spans.head? = some e ∧
        (t.gang? c.ref).map (fun g => (g.spans, g.groups)) = some (c.gang.spans.tail, [m]) ∧ m.quads = c.gang.present ∧
        m.ready = e ∧ m.stack = c.group.stack ∧ m.clause = none ∧ m.branched = false ∧ m.wait = .none ∧ m.resume = none ∧
        ((∀ g ∈ c.gang.groups, g.stopped = none) → m.stopped = none) ∧
        ∀ q, lowestBit c.gang.present = some q →
          (c.quads.getLsbD q = true → m.pc = c.clause.nextAddr) ∧
          ∀ g ∈ c.gang.groups, ∀ n, g.quads ≠ c.quads → g.quads.getLsbD q = true → g.wait = .spe n → m.pc = n))

/-- BARRIERS, TRAPS AND ENDS OF A GANG (R196-R199): an arrival is applied at the end of its cycle; `bwt` waits until the
visible phase differs from P; a trap stops the stream with cause 0x10 and the return address after its clause; `end`
retires the gang. -/
def Obligations.LaneBarriersAndEnds : Prop :=
  (∀ w s c, LaneClear (.arv w) w s c →
    let h := c.opA w c.lowLane
    ∃ t x, exec (.arv w) s = .next t ∧ LaneIssued s c t ∧ t.barPend = s.barPend ++ [x] ∧ x.core = c.team.core ∧
      x.idx = h.toNat % 1024 ∧ x.arrivals = 1 ∧ x.declare = 0 ∧ x.credit = 0) ∧
  (∀ w s c, LaneClear (.laneBwt w) w s c →
    let h := c.opA w c.lowLane
    let p : BitVec 16 := (c.src (w.a.toNat + 1) c.lowLane).setWidth 16
    let b := (s.core c.team.core).bar (h.toNat % 1024)
    (visiblePhase b s.now ≠ p → LaneLeaves (.laneBwt w) s c (c.followed (.laneBwt w) w)) ∧
    (visiblePhase b s.now = p →
      LaneLeaves (.laneBwt w) s c { c.followed (.laneBwt w) w with wait := .bwt h p })) ∧
  (∀ w s c, LaneClear (.laneTrap w) w s c → ∃ t d, exec (.laneTrap w) s = .next t ∧ t.detects = s.detects ++ [d] ∧
    d.cause = 0x10 ∧ d.swcode = w.imm % 256 ∧ d.res = true ∧ d.ret = c.clause.nextAddr ∧ d.fdix = c.gang.dix ∧
    d.pc = c.pc ∧ (t.group? c.ref c.quads).bind (·.stopped) = some c.t ∧ t.dix? c.ref = some c.gang.dix ∧ t.files = s.files ∧
    s.keeps t []) ∧
  (∀ w s c, LaneClear (.laneEnd w) w s c → ∃ t, exec (.laneEnd w) s = .next t ∧ LaneIssued s c t ∧
    (t.gang? c.ref).map (·.retired) = some true)

/-- CLUSTER EXCHANGE (R189, R190): `snd` lands its real active lanes' words in the peer core 24 cycles later, other lanes as
0; `rcv` takes what landed 4 cycles later and empties the register. -/
def Obligations.LaneClusterExchange : Prop :=
  (∀ w s c, LaneClear (.snd w) w s c → ∃ t data, exec (.snd w) s = .next t ∧ LaneIssued s c t ∧
    t.awaits (s.now + 24) (.sndLanding (4 * (c.team.core / 4) + w.imm % 4) c.ref data) ∧
    ∀ l, l < 32 → data.getD l 0 = if l ∈ c.realLanes then c.opA w l else 0) ∧
  (∀ w s c, LaneClear (.rcv w) w s c → ∃ t l x, exec (.rcv w) s = .next t ∧ LaneIssued s c t ∧
    (s.core c.team.core).landing = some x ∧ (t.core c.team.core).landing = none ∧
    t.awaits (s.now + 4) (.laneResult c.ref l) ∧ LandsWord l c w fun j => x.data.getD j 0)

/-! ## Control, waits, barriers, tables, engines and messages of a cox (R207-R230, R245, R325, R326) -/

/-- CONTROL OF A COX (R207, R229): branches go to the word's address plus four times the offset; `jp` by its predicate; `loop`
counts its register down and goes on when it reaches 0; calls push and returns pop the address of the header after the clause;
`end` retires the cox with its exit code; a trap stops it with cause 0x10. -/
def Obligations.CoxControl : Prop :=
  (∀ w s c, CoxClear (.jmp w) s c → CoxLeaves (.jmp w) s c (c.sent (.jmp w) (c.branchTo w) c.cox.stack)) ∧
  (∀ w s c, CoxClear (.jp w) s c →
    (c.p (w.cond.toNat % 8) ≠ w.cond.getLsbD 3 → CoxLeaves (.jp w) s c (c.sent (.jp w) (c.branchTo w) c.cox.stack)) ∧
    (c.p (w.cond.toNat % 8) = w.cond.getLsbD 3 → CoxLeaves (.jp w) s c (c.followed (.jp w)))) ∧
  (∀ w s c, CoxClear (.loop w) s c →
    let r := 48 + w.cond.toNat
    ∃ t, CoxIssues (.loop w) s c t ∧ t.awaits (s.now + 2) (.coxResult c.ref (kLanding [(r, c.k r - 1)])) ∧
      t.cox? c.ref = some (if c.k r = 1 then c.followed (.loop w) else c.sent (.loop w) (c.branchTo w) c.cox.stack)) ∧
  (∀ w s c, CoxClear (.coxCall w) s c →
    CoxLeaves (.coxCall w) s c (c.sent (.coxCall w) (c.branchTo w) (c.clause.nextAddr :: c.cox.stack))) ∧
  (∀ w s c, CoxClear (.coxRet w) s c → ∃ pc rest, c.cox.stack = pc :: rest ∧
    CoxLeaves (.coxRet w) s c (c.sent (.coxRet w) pc rest)) ∧
  (∀ w s c, CoxClear (.coxNop w) s c → CoxLeaves (.coxNop w) s c (c.followed (.coxNop w))) ∧
  (∀ w s c, CoxClear (.coxEnd w) s c → c.handling = false →
    CoxLeaves (.coxEnd w) s c { c.followed (.coxEnd w) with retired := true, exitCode := w.fn.toNat }) ∧
  (∀ w s c, CoxClear (.coxTrap w) s c → ∃ t d, exec (.coxTrap w) s = .next t ∧ t.detects = s.detects ++ [d] ∧
    d.cause = 0x10 ∧ d.swcode = w.imm.toNat % 256 ∧ d.res = true ∧ d.ret = c.clause.nextAddr ∧ d.fdix = c.cox.count ∧
    d.pc = c.pc ∧ t.cox? c.ref = some { c.cox with stopped := some c.t } ∧ t.files = s.files ∧ s.keeps t [])

/-- WAITS OF A COX (R210, R211, R216): `twait` and `bwt` hold it until the heat cycle in their pair, at which `bwt` has its
phase checked; `csync` closes the team's sessions and opens one 8 cycles after the last of its teams has come. -/
def Obligations.CoxWaits : Prop :=
  (∀ w s c, CoxClear (.twait w) s c →
    let h := c.number w.a.toNat
    ∃ t, CoxIssues (.twait w) s c t ∧ t.cox? c.ref = some { c.followed (.twait w) with wait := .until h } ∧
      t.awaits (c.base + h) (.twaitDeadline c.ref)) ∧
  (∀ w s c, CoxClear (.coxBwt w) s c →
    let h := c.number w.b.toNat
    ∃ t, CoxIssues (.coxBwt w) s c t ∧
      t.cox? c.ref = some { c.followed (.coxBwt w) with
        wait := .phase h (c.k w.a.toNat) ((c.k (w.a.toNat + 1)).setWidth 16) } ∧
      t.awaits (c.base + h) (.coxBwtDeadline c.ref)) ∧
  (∀ w s c, CoxClear (.csync w) s c →
    let me := crewIndex c.team
    let m := (c.opA w).toNat
    let cl := c.team.core / 4
    ∃ t, CoxIssues (.csync w) s c t ∧ t.cox? c.ref = some (c.followed (.csync w)) ∧
      (t.heat? c.ref.hid).map (·.sessions) =
        some (c.heat.sessions.filter fun x => !(x.1 == cl && x.2.1.testBit me)) ∧
      (c.heat.csyncs = [] →
        if m = 2 ^ me then t.awaits (s.now + 8) (.csyncSessionOpen c.ref.hid cl m w.fn.toNat)
        else (t.heat? c.ref.hid).map (·.csyncs) = some [(cl, m, w.fn.toNat, 2 ^ me)]) ∧
      (∀ came, c.heat.csyncs = [(cl, m, w.fn.toNat, came)] → came.testBit me = false → came ||| 2 ^ me = m →
        t.awaits (s.now + 8) (.csyncSessionOpen c.ref.hid cl m w.fn.toNat) ∧
          (t.heat? c.ref.hid).map (·.csyncs) = some []))

/-- BARRIERS OF A COX (R212-R215, R217): `balloc` allocates FN + 1 objects and gives their handles 2 cycles later; `bfree`
frees one, its generation one higher and its thresholds dropped; `binit` writes the expected arrivals and PEND; a
declaration is applied at the end of its cycle; `barm` adds a threshold. -/
def Obligations.CoxBarriers : Prop :=
  (∀ w s c, CoxClear (.balloc w) s c →
    let i0 := (c.opA w).toNat
    ∃ t, CoxIssues (.balloc w) s c t ∧
      (∀ j, j ≤ w.fn.toNat → (t.core c.team.core).bar (i0 + j) =
        { Barrier.init with gen := ((s.core c.team.core).bar (i0 + j)).gen, alloc := true, team := c.ref.team }) ∧
      t.awaits (s.now + 2) (.coxResult c.ref (kLanding ((List.range (w.fn.toNat + 1)).map fun j =>
        (w.d.toNat + j, ((s.core c.team.core).bar (i0 + j)).gen ++ BitVec.ofNat 10 (i0 + j)))))) ∧
  (∀ w s c, CoxClear (.bfree w) s c →
    let i := (c.opA w).toNat % 1024
    let b := (s.core c.team.core).bar i
    ∃ t, CoxIssues (.bfree w) s c t ∧ (t.core c.team.core).bar i = { Barrier.init with gen := b.gen + 1 } ∧
      ∀ x ∈ t.barPend, ¬(x.core = c.team.core ∧ x.idx = i)) ∧
  (∀ w s c, CoxClear (.binit w) s c →
    let d := w.d.toNat
    let x := (c.k d).toNat
    let i := (c.k w.a.toNat).toNat % 1024
    let b := (s.core c.team.core).bar i
    ∃ t, CoxIssues (.binit w) s c t ∧ (t.core c.team.core).bar i = { b with
      expg := x % 32, expc := x / 32 % 4, expe := x / 128 % 16, arrv := 0
      pend := (c.k (d + 1)).toNat + 2 ^ 32 * (c.k (d + 2)).toNat }) ∧
  (∀ e ∈ [((.barv : UA → Instr), 1), (.barvDecl, 0)], ∀ w s c, CoxClear (e.1 w) s c →
    ∃ t x, CoxIssues (e.1 w) s c t ∧ t.barPend = s.barPend ++ [x] ∧ x.core = c.team.core ∧
      x.idx = (c.opA w).toNat % 1024 ∧ x.arrivals = e.2 ∧ x.declare = (c.opB w).toNat ∧ x.credit = 0) ∧
  (∀ w s c, CoxClear (.barm w) s c →
    let d := w.d.toNat
    let x := (c.k (d + 1)).toNat
    let i := (c.k w.a.toNat).toNat % 1024
    ∃ t th, CoxIssues (.barm w) s c t ∧
      ((t.core c.team.core).bar i).arms = ((s.core c.team.core).bar i).arms ++ [th] ∧
      th.thr = (c.k d).toNat + 2 ^ 32 * (x % 256) ∧ th.watch = x.testBit 8 ∧ th.count = 0 ∧ th.after = s.now ∧
      th.act = { hid := c.ref.hid, heatid := c.heat.heatid, queue := c.heat.queue, team := c.ref.team, tsel := c.team.tsel
                 rel := c.heat.relCore c.team.core, act := x / 512 % 4, opa := c.k (d + 2), opb := c.k (d + 3) })

/-- TABLES, GENERATORS, NESTS AND SEEDS (R84, R219, R220, R222, R223, R225, R245): field groups, generator registers and nest
slots land 4 cycles after the issue, a nest counted in ENG till then; a record is read through the team's windows and lands 648 cycles after it, 64 later from the
other die; the seed is written at once. -/
def Obligations.CoxTables : Prop :=
  (∀ w s c, CoxClear (.tset w) s c →
    let d := w.d.toNat
    CoxGives (.tset w) s c 4 { CoxLanding.empty with
      ts := [(w.flags.toNat % 64, w.flags.toNat / 64 % 16, [c.k d, c.k (d + 1), c.k (d + 2)])] }) ∧
  (∀ w s c, CoxClear (.gset w) s c →
    let g (d : Nat) : BitVec 128 := c.k (d + 3) ++ c.k (d + 2) ++ c.k (d + 1) ++ c.k d
    let n := w.flags.toNat % 8
    CoxGives (.gset w) s c 4 { CoxLanding.empty with
      gs := (n, g w.d.toNat) :: if w.flags.getLsbD 3 then [(n + 1, g (w.d.toNat + 4))] else [] }) ∧
  (∀ w s c, CoxClear (.nest w) s c →
    let d := w.d.toNat
    ∃ t, CoxIssues (.nest w) s c t ∧ (t.core c.team.core).eng = (s.core c.team.core).eng + 1 ∧
      t.awaits (s.now + 4) (.coxResult c.ref { CoxLanding.empty with
        nests := [(w.flags.toNat % 4, (List.range (c.k d).toNat).map fun l =>
          ((c.k (d + 1 + 3 * l)).toNat, (c.k (d + 2 + 3 * l)).toInt, (c.k (d + 3 + 3 * l)).toInt))] })) ∧
  (∀ w s c, CoxClear (.sseed w) s c →
    ∃ t, exec (.sseed w) s = .next t ∧ CoxIssued s c t ∧ (∀ r, t.reg r = s.reg r) ∧
      ((t.team? c.ref).bind (·.sseeds.head?)) = some (s.now, c.op64 w.a.toNat)) ∧
  (∀ w s c, CoxClear (.tload w) s c →
    let va := c.number w.d.toNat % 2 ^ 56
    ∃ t, CoxIssues (.tload w) s c t ∧ RecordStarts s c t s.nextOp va 128 .tload ∧
      t.awaits (c.base + c.t + 648 + if c.far va then 64 else 0) (.tloadCompletion s.nextOp)) ∧
  (∀ w s c, CoxClear (.gsetMem w) s c →
    let va := c.number w.d.toNat % 2 ^ 56
    ∃ t, CoxIssues (.gsetMem w) s c t ∧ RecordStarts s c t s.nextOp va (if w.flags.getLsbD 3 then 32 else 16) .gset ∧
      t.awaits (c.base + c.t + 648 + if c.far va then 64 else 0) (.gsetMemCompletion s.nextOp))

/-- ENGINE COMMANDS AND OWNER FLIPS (R60, R218, R224, R231-R234, R238, R246, R250, R252, R257, R260): a command takes the first
run of quanta granted to its team at or after t + 4, or t + 704 for `xfer`, behind the quanta of the engine's earlier commands,
that is long enough for its pass, for the beats of its rows or of its elements; it waits for its start, and for its completion,
which is no earlier than that of the command before it; `xfer` also reads its shape record. -/
def Obligations.CoxEngines : Prop :=
  (∀ w s c, CoxClear (.mma w) s c → ∃ t cmd p, CoxIssues (.mma w) s c t ∧ (c.mma w).kind = some p ∧
    EngineTakes s c t cmd 0 ((96 + (c.mma w).k / p.kappa + 63) / 64) (c.t + 4) ∧ cmd.body = .mma (c.mma w) ∧
    EngineCompletes c t cmd (cmd.start + 96 + (c.mma w).k / p.kappa)) ∧
  (∀ w s c, CoxClear (.xcp w) s c → ∃ t cmd, CoxIssues (.xcp w) s c t ∧
    EngineTakes s c t cmd (copyEngine w) (((c.xcp w).beatsOf + 63) / 64) (c.t + 4) ∧ cmd.body = .xcp (c.xcp w) ∧
    EngineCompletes c t cmd
      (cmd.start + ((c.xcp w).walk (c.team.core / 4) ((c.xcp w).iters * (c.xcp w).rows)).2)) ∧
  (∀ w s c, CoxClear (.lay w) s c →
    let b := layBeats (c.lay w).1 (c.lay w).2.1
    ∃ t cmd, CoxIssues (.lay w) s c t ∧ EngineTakes s c t cmd 3 ((b + 63) / 64) (c.t + 4) ∧
      cmd.body = .lay (c.lay w).1 (c.lay w).2.1 (c.lay w).2.2 ∧
      EngineCompletes c t cmd (cmd.start + b - 1 + if dmwReq (c.lay w).2.2 then 72 else 40)) ∧
  (∀ w s c, CoxClear (.xfer w) s c →
    let va := c.number w.d.toNat % 2 ^ 56
    ∃ t cmd, CoxIssues (.xfer w) s c t ∧
      EngineTakes s c t cmd (copyEngine w) ((sourceBeats (sideEntry (c.xferSides w).1) + 63) / 64) (c.t + 704) ∧
      cmd.body = .xfer (sideEntry (c.xferSides w).1) (sideEntry (c.xferSides w).2) va ∧
      RecordStarts s c t (s.nextOp + 1) va 128 .xferRec ∧
      t.awaits (c.base + c.t + 648 + if c.far va then 64 else 0) (.xferRecordRead s.nextOp)) ∧
  (∀ w s c, CoxClear (.coxOwn w) s c → ∃ t, CoxIssues (.coxOwn w) s c t ∧ ∀ j, j ≤ w.flags.toNat % 256 →
    let g := c.team.sbase + (c.k w.d.toNat).toNat / 4096 + j
    Store.get 0 (t.core c.team.core).owner g = BitVec.ofNat 3 (w.flags.toNat / 256) ∧
    Store.get 0 (t.core c.team.core).closed g = s.now + 10 ∧
    t.awaits (s.now + 10) (.ownerFlipOpen c.team.core g))

/-- MESSAGES OF A COX (R60, R218, R226-R228): MSG counts from the issue; 16 cycles later a launch goes to its package's
front end, a signal to its core; an entry has its place among the posts of its host ring from its issue (R300), with the stores
and atomics that its core issued before it. -/
def Obligations.CoxMessages : Prop :=
  (∀ w s c, CoxClear (.lwr w) s c → ∃ m, m.cls = 1 ∧ m.dpkg = BitVec.ofNat 17 (c.k w.d.toNat).toNat ∧ m.payload.length = 48 ∧
    m.spkg = s.pkgNo ∧ m.ack = false ∧
    MessagePosted (.lwr w) s c (if m.dpkg = s.pkgNo then .localLaunch m (c.waits w) else .message m (c.waits w))) ∧
  (∀ w s c, CoxClear (.sig w) s c →
    let d := w.d.toNat
    let core := (c.k d).toNat / 2 ^ 17
    if BitVec.ofNat 17 (c.k d).toNat = s.pkgNo ∧ core < 384 then
      MessagePosted (.sig w) s c (.localSignal core (c.k (d + 1)) (c.k (d + 2)) (decide (c.k (d + 3) = 1)) (c.waits w))
    else ∃ m, m.cls = 2 ∧ m.dpkg = BitVec.ofNat 17 (c.k d).toNat ∧ m.payload.length = 16 ∧
      MessagePosted (.sig w) s c (.message m (c.waits w))) ∧
  (∀ w s c, CoxClear (.hpost w) s c →
    let x := (c.k w.d.toNat).toNat
    ∃ t e, CoxIssues (.hpost w) s c t ∧ (t.core c.team.core).msg = (s.core c.team.core).msg + 1 ∧
      t.awaits (s.now + 16) (.messageAccepted (.hostEntry (x % 64) s.nextOp)) ∧ e ∈ (t.ring (x % 64)).waiting ∧
      e.id = s.nextOp ∧ e.posted = s.now ∧ e.core = c.team.core ∧ e.tsel = c.team.tsel ∧ e.heatid = c.heat.heatid ∧
      e.team = c.ref.team ∧ e.done = c.waits w ∧ e.ops = s.earlierOps c.team.core s.now ∧ e.accepted = false ∧
      e.bytes.length = 32 ∧ e.bytes.take 4 = leBytes 4 c.heat.heatid.toNat ∧
      ∀ j, j < x / 256 % 8 → (e.bytes.drop (8 + 4 * j)).take 4 = leBytes 4 (c.k (w.d.toNat + 1 + j)).toNat)

/-- SYSTEM REGISTERS AND THE RETURN FROM A HANDLER (R230, R298, R322, R326): outside handler mode they are privileged and take
cause 0x09 unless a lower cause stands; inside, `sysr` reads a word of the trap record or of a control register, `sysw` writes
only ACTION, RET and the writable control registers, and `eret` restores what the entry set aside and lets ACTION decide. -/
def Obligations.CoxSystem : Prop :=
  (∀ i s c, isPrivileged i = true → laneCtx s = none → uniCtx s = some c → c.handling = false →
    (∀ x ∈ c.causes s i (coxOwn i s c), 0x09 ≤ x) →
    ∃ t d, exec i s = .next t ∧ t.detects = s.detects ++ [d] ∧ d.cause = 0x09 ∧ t.files = s.files ∧ s.keeps t []) ∧
  (∀ w s c, CoxClear (.sysr w) s c →
    (w.imm.toNat < 64 →
      CoxGives (.sysr w) s c 2 (kLanding [(w.d.toNat, Store.get 0 c.heat.trap w.imm.toNat)])) ∧
    (w.imm = 64 → CoxGives (.sysr w) s c 2 (kLanding [(w.d.toNat, 0x7B119120)])) ∧
    (w.imm = 66 → CoxGives (.sysr w) s c 2 (kLanding [(w.d.toNat, BitVec.ofNat 32 s.budget)]))) ∧
  (∀ w s c, CoxClear (.sysw w) s c → ∃ t, exec (.sysw w) s = .next t ∧ CoxIssued s c t ∧ (∀ r, t.reg r = s.reg r) ∧
    (∀ n, let old : Word := Store.get 0 c.heat.trap n
      (t.heat? c.ref.hid).map (fun h => Store.get 0 h.trap n) = some
        (if n = w.imm.toNat then
          (if n = 0 then (old &&& 0xFFFCFFFF#32) ||| (c.k w.a.toNat &&& 0x30000#32)
           else if n = 7 ∨ n = 8 then c.k w.a.toNat else old)
         else old)) ∧
    t.budget = (if w.imm = 66 ∧ 1000 ≤ (c.k w.a.toNat).toNat ∧ (c.k w.a.toNat).toNat ≤ 2000 then (c.k w.a.toNat).toNat
      else s.budget)) ∧
  (∀ w s c k, CoxClear (.eret w) s c → c.cox.handler = some k →
    let w0 : Word := Store.get 0 c.heat.trap 0
    let action := w0.toNat / 2 ^ 16 % 4
    ∃ t, exec (.eret w) s = .next t ∧
      ((action = 1 ∨ action = 3 ∨ (action = 0 ∧ w0.getLsbD 19 = false)) →
        (t.heat? c.ref.hid).map (fun h => (h.status, h.abortCause)) = some (.quiesced, w0.toNat / 2 ^ 24) ∧
        t.awaits s.now (.heatCompletion c.ref.hid) ∧
        (t.team? c.ref).map (fun x => (x.p, x.cox)) = some (k.p, { c.cox with
          stack := k.stack, flags := k.flags, pc := k.pc, clause := k.clause, branched := k.branched, ready := k.ready
          wait := k.wait, retired := k.retired, stopped := k.stopped, resume := k.resume, handler := none })) ∧
      (∀ h, (s.leaveHandler c.ref).heat? c.ref.hid = some h →
        (action = 2 → t = (s.leaveHandler c.ref).startSave h) ∧
        (action = 0 → w0.getLsbD 19 = true → (c.heat.record.sched = true → s.regatta.ph = none) → c.heat.away = false →
          match (s.leaveHandler c.ref).resumeAnchor h with
          | some x => (t.heat? c.ref.hid).map (fun y => (y.status, y.anchor)) = some (.restoring, x.2) ∧
              c.heat.record.grid ∣ x.2 ∧ s.now + 2800 + c.heat.saveCost ≤ x.2 + c.heat.resumeStop
          | none => t = (s.leaveHandler c.ref).startSave h)))

/-! ## Breaches and the taking of a fault (R317-R330) -/

/-- THE LOWEST CAUSE IS REPORTED (R317, R318, R322, R328): an instruction with any breach at its issue has no effect; its
stream stops in that cycle, and one violation is recorded, with the lowest of its causes, the place of the word and the header
of its clause as the return address. In handler mode the heat is aborted with 0xF7, and a word that a handler may not issue
aborts it with 0xF9 (R325). -/
def Obligations.BreachesStopTheStream : Prop :=
  (∀ (i : Instr) (w : LaneWord) (s : State) (c : LCtx), laneWord? i = some w → laneCtx s = some c → c.causes s i w (laneOwn i s c) ≠ [] →
    ∃ (t : State) (d : Detect), exec i s = .next t ∧ t.detects = s.detects ++ [d] ∧
      d.cause ∈ c.causes s i w (laneOwn i s c) ∧ (∀ x ∈ c.causes s i w (laneOwn i s c), d.cause ≤ x) ∧
      d.hid = c.ref.hid ∧ d.res = true ∧ d.ret = c.clause.addr ∧ d.pc = c.clause.addr + 4 + 4 * c.clause.idx ∧
      d.fdix = c.gang.dix ∧ (t.group? c.ref c.quads).bind (·.stopped) = some c.t ∧ t.files = s.files ∧ s.keeps t [] ∧
      t.agenda = s.agenda) ∧
  (∀ (i : Instr) (s : State) (c : UCtx), isCox i = true → laneCtx s = none → uniCtx s = some c → c.handling = false →
    c.causes s i (coxOwn i s c) ≠ [] →
    ∃ (t : State) (d : Detect), exec i s = .next t ∧ t.detects = s.detects ++ [d] ∧
      d.cause ∈ c.causes s i (coxOwn i s c) ∧ (∀ x ∈ c.causes s i (coxOwn i s c), d.cause ≤ x) ∧
      d.hid = c.ref.hid ∧ d.res = true ∧ d.ret = c.clause.addr ∧ d.pc = c.clause.addr + 4 + 4 * c.clause.idx ∧
      d.fdix = c.cox.count ∧ (t.cox? c.ref).bind (·.stopped) = some c.t ∧ t.files = s.files ∧ s.keeps t [] ∧
      t.agenda = s.agenda) ∧
  (∀ (i : Instr) (s : State) (c : UCtx), isCox i = true → laneCtx s = none → uniCtx s = some c → c.handling = true →
    (c.causes s i (coxOwn i s c) ≠ [] ∨ inHandler i = false) →
    ∃ (t : State), exec i s = .next t ∧ t.awaits s.now (.heatCompletion c.ref.hid) ∧
      (t.heat? c.ref.hid).map (fun h => (h.status, h.abortCause)) =
        some (.quiesced, if c.causes s i (coxOwn i s c) = [] then 0xF9 else 0xF7))

/-- WORDS OF NO INSTRUCTION AND OF THE OTHER SET (R139, R143, R330): an unassigned opcode is cause 0x01; a word whose bit 31
names the other set is cause 0x02; in a clause none of whose instructions can be read, the lowest cause of that (R332, R334). -/
def Obligations.WrongWordsFault : Prop :=
  let is (unread : List Nat) (d : Detect) (cause : Nat) : Prop :=
    if unread = [] then d.cause = cause else d.cause ∈ unread ∧ ∀ x ∈ unread, d.cause ≤ x
  (∀ (w : BitVec 32) (s : State) (c : LCtx), laneCtx s = some c → ∃ (t : State) (d : Detect),
    exec (.unassignedOpcode w) s = .next t ∧ t.detects = s.detects ++ [d] ∧
    is (c.clause.unread false c.gang.flags true) d (if bit w 31 then 0x02 else 0x01) ∧
    (t.group? c.ref c.quads).bind (·.stopped) = some c.t ∧ t.files = s.files ∧ s.keeps t []) ∧
  (∀ (w : BitVec 32) (s : State) (c : UCtx), laneCtx s = none → uniCtx s = some c → c.handling = false →
    ∃ (t : State) (d : Detect), exec (.unassignedOpcode w) s = .next t ∧ t.detects = s.detects ++ [d] ∧
      is (c.clause.unread true c.cox.flags true) d (if bit w 31 then 0x01 else 0x02) ∧
      (t.cox? c.ref).bind (·.stopped) = some c.t ∧ t.files = s.files ∧ s.keeps t []) ∧
  (∀ (i : Instr) (w : LaneWord) (s : State) (c : UCtx), laneWord? i = some w → laneCtx s = none → uniCtx s = some c →
    c.handling = false → ∃ (t : State) (d : Detect), exec i s = .next t ∧ t.detects = s.detects ++ [d] ∧
      is (c.clause.unread true c.cox.flags true) d 0x02) ∧
  (∀ (i : Instr) (s : State) (c : LCtx), isCox i = true → laneCtx s = some c → ∃ (t : State) (d : Detect),
    exec i s = .next t ∧ t.detects = s.detects ++ [d] ∧ is (c.clause.unread false c.gang.flags true) d 0x02)

/-- TAKING A FAULT (R319, R320, R322): at the end of the cycle the violation of lowest rank becomes the heat's fault, every
later one only counts; the trap record is written, and the heat halts at the first multiple of rho at or after f + 48, or at the
earlier cycle of a halt that it already awaits. -/
def Obligations.TakingAFault : Prop :=
  (∀ (s : State) (d : Detect) (h : Heat), s.barPend = [] → s.detects = [d] → s.heat? d.hid = some h →
    (h.status = .running ∨ h.status = .closing ∨ h.status = .halting) → h.fault = none → 0 < h.record.rho →
    let f := s.now - h.anchor
    ∃ (h' : Heat) (H : Nat), s.settle.heat? d.hid = some h' ∧ h'.fault = some d ∧ h'.faultAt = f ∧ h'.nsec = 0 ∧
      h'.halt = some (.fault, H) ∧ s.settle.awaits (h.anchor + H) (.faultHalt d.hid) ∧
      (∃ H0, h.record.rho ∣ H0 ∧ f + 48 ≤ H0 ∧ H0 < f + 48 + h.record.rho ∧
        (h.halt = none → H = H0) ∧ (∀ p x, h.halt = some (.haltFlit p, x) → H = H0) ∧
        ∀ k x, h.halt = some (k, x) → (∀ p, k ≠ .haltFlit p) → H = min x H0) ∧
      (let w (n : Nat) : Word := Store.get 0 h'.trap n
       let lo (x : Nat) : Word := BitVec.ofNat 32 x
       let hi (x : Nat) : Word := BitVec.ofNat 32 (x / 2 ^ 32)
       w 0 = lo (d.cause * 2 ^ 24 + d.src * 2 ^ 20 + d.res.toNat * 2 ^ 19 + d.swcode % 256 * 256) ∧
       w 1 = lo (d.team * 2 ^ 22 + d.gang * 2 ^ 18 + d.qmask * 2 ^ 10 + d.core * 2) ∧ w 2 = d.lanes ∧
       w 3 = lo d.fdix.toNat ∧ w 4 = hi d.fdix.toNat ∧ w 5 = lo d.pc ∧ w 6 = hi d.pc ∧ w 7 = lo d.ret ∧ w 8 = hi d.ret ∧
       w 9 = lo f ∧ w 10 = hi f ∧ w 11 = lo H ∧ w 12 = hi H ∧ w 13 = lo d.addr ∧ w 14 = hi d.addr ∧ w 15 = lo d.info ∧
       w 16 = lo (d.eop * 2 ^ 24 + d.eseq % 2 ^ 24) ∧ w 22 = lo h.anchor ∧ w 23 = hi h.anchor ∧ w 24 = h.heatid)) ∧
  (∀ (s : State) (d : Detect) (h : Heat) (p : Detect), s.barPend = [] → s.detects = [d] → s.heat? d.hid = some h →
    (h.status = .running ∨ h.status = .closing ∨ h.status = .halting) → h.fault = some p →
    ∃ (h' : Heat), s.settle.heat? d.hid = some h' ∧ h'.fault = some p ∧ h'.nsec = h.nsec + 1 ∧ h'.halt = h.halt ∧
      h'.faultAt = h.faultAt) ∧
  (∀ (s : State) (d e : Detect) (h : Heat), s.barPend = [] → s.detects = [d, e] → e.rank < d.rank → e.hid = d.hid → s.heat? d.hid = some h →
    (h.status = .running ∨ h.status = .closing ∨ h.status = .halting) → h.fault = none →
    ∃ (h' : Heat), s.settle.heat? d.hid = some h' ∧ h'.fault = some e ∧ h'.nsec = 1)

/-! ## The machine's own steps -/

/-- RESULTS LAND, AND SCRATCH ACCESSES PERFORM (R68, R114, R153, R177, R178, R200, R220-R222): a landing writes the registers
that it names and no other; a store's lanes are written in ascending order; an atomic's lanes each read the result of the one
before; an access that broke a rule has no effect but to stop its stream; a flipped granule opens. -/
def Obligations.ResultsLand : Prop :=
  (∀ e ∈ [((Instr.laneResult), Ev.laneResult), (Instr.scratchLoadDelivery, Ev.scratchLoadDelivery)],
    ∀ (s : State) (g : GangRef) (r : LaneLanding) (x : Gang), s.arg = e.2 g r → s.gang? g = some x → apartLanding r →
      ∃ (t : State), exec e.1 s = .next t ∧ Landed s t g r ∧ flagCleared s t g r.flag ∧ t.agenda = s.agenda ∧
        ∀ i stamp vals q, r.latch = some (i, stamp, vals) → q < 8 →
          let old := Store.get ⟨0, 0, []⟩ x.latch (8 * i + q)
          (t.gang? g).map (fun y => Store.get ⟨0, 0, []⟩ y.latch (8 * i + q)) =
            some (if old.stamp = stamp ∧ old.vals ≠ [] then { old with vals := vals } else old)) ∧
  (∀ (s : State) (r : TeamRef) (l : CoxLanding) (x : Team), s.arg = .coxResult r l → s.team? r = some x →
    (l.ks.map (·.1)).Nodup → (l.ps.map (·.1)).Nodup → (l.gs.map (·.1)).Nodup → (l.ts.map (·.1)).Nodup →
    (l.nests.map (·.1)).Nodup →
    ∃ (t : State) (y : Team), exec .coxResult s = .next t ∧ t.team? r = some y ∧
      (∀ e ∈ l.ks, t.reg (.k r e.1) = some e.2.toNat) ∧
      (∀ e ∈ l.ps, e.1 < 8 → e.1 ≠ 0 → t.reg (.pred r e.1) = some e.2.toNat) ∧
      (∀ e ∈ l.gs, t.reg (.gen r e.1) = some e.2.toNat) ∧
      (∀ e ∈ l.ts, Store.get Tensor.init y.t e.1 = (Store.get Tensor.init x.t e.1).setGroup e.2.1 e.2.2) ∧
      (∀ e ∈ l.nests, (Store.get { levels := [] } y.nest e.1).levels = e.2) ∧
      (t.core x.core).eng = (s.core x.core).eng - (if l.nests = [] then 0 else 1) ∧
      (∀ n, (∀ e ∈ l.ks, e.1 ≠ n) → t.reg (.k r n) = s.reg (.k r n)) ∧
      (∀ n, (n = 0 ∨ ∀ e ∈ l.ps, e.1 ≠ n) → t.reg (.pred r n) = s.reg (.pred r n)) ∧
      (∀ n, (∀ e ∈ l.gs, e.1 ≠ n) → t.reg (.gen r n) = s.reg (.gen r n)) ∧
      (∀ q, q.team? ≠ some r → t.reg q = s.reg q)) ∧
  (∀ (s : State) (op : ScratchAcc), s.arg = .scratchStorePerform op none → s.memoryWf →
    ∃ (t : State), exec .scratchStorePerform s = .next t ∧ sameFiles s t ∧ t.detects = s.detects ∧
      flagCleared s t op.g op.flag ∧
      ∀ a, t.look .scratch a = afterWrites (s.look .scratch a)
        (op.lanes.map fun l => (scratchKey op.core l.2.1, op.size, l.2.2.1)) a) ∧
  (∀ (s : State) (op : ScratchAcc), s.arg = .scratchAtomicPerform op none → s.memoryWf → (op.size = 4 ∨ op.size = 8) →
    (∀ l ∈ op.lanes, op.size ∣ l.2.1) → (op.dests.map (·.1)).Nodup →
    let old (o : Nat) : Nat := ofLeBytes (s.readScratch op.core o op.size)
    ∃ (t : State) (r : LaneLanding), exec .scratchAtomicPerform s = .next t ∧ sameFiles s t ∧ t.detects = s.detects ∧
      (∀ o, op.size ∣ o → ofLeBytes (t.readScratch op.core o op.size) = scratchWordAfter op o (old o) op.lanes) ∧
      t.awaits (s.now + 4) (.scratchLoadDelivery op.g r) ∧ r.flag = op.flag ∧
      ∀ before l after k, op.lanes = before ++ l :: after → (l.1, [k]) ∈ op.dests →
        (k, BitVec.ofNat 32 (scratchWordAfter op l.2.1 (old l.2.1) before)) ∈ r.vs) ∧
  (∀ e ∈ [((Instr.scratchStorePerform), Ev.scratchStorePerform), (Instr.scratchAtomicPerform, Ev.scratchAtomicPerform)],
    ∀ (s : State) (op : ScratchAcc) (d : Detect) (x : Gang), s.arg = e.2 op (some d) → s.gang? op.g = some x →
      namesGang d op.g →
      ∃ (t : State), exec e.1 s = .next t ∧ t.detects = s.detects ++ [d] ∧
        t.quadsStopped op.g (BitVec.ofNat 8 d.qmask) ∧ s.keeps t [] ∧ sameFiles s t) ∧
  (∀ (s : State) (core granule : Nat), s.arg = .ownerFlipOpen core granule →
    ∃ (t : State), exec .ownerFlipOpen s = .next t ∧ sameFiles s t ∧
      ∀ g, (Store.get 0 (t.core core).owner g = Store.get 0 (s.core core).owner g) ∧
        Store.get 0 (t.core core).closed g =
          if g = granule ∧ Store.get 0 (s.core core).closed g ≤ s.now then 0 else Store.get 0 (s.core core).closed g)

/-- GLOBAL ACCESSES AT THEIR STACK CYCLE, AT P AND AT THEIR END (R32, R60, R122, R125, R180-R182, R318, R334, R339): lanes
that break nothing pass with their physical addresses, and a window's refusal stops the stream with the lowest cause; stores and atomics of a
core perform in ascending lane order, and loads read memory as it stood at P; results are delivered, and the operation leaves
its counter; an atomic that lost a message is sent again and applied once. -/
def Obligations.GlobalSteps : Prop :=
  (∀ (s : State) (id : Nat) (mask : BitVec 32) (first : Bool) (o : GlobalOp) (h : Heat) (x : Team),
    s.arg = .stackAccess (.lanes id mask first) → s.gop? id = some o → s.heat? o.hid = some h →
    s.team? o.teamRef = some x → o.hot = false →
    ((first = true → ∀ l ∈ o.lanes, ∀ c, translate x.wins l.va (!o.isLoad) ≠ .fail c) →
      (∀ l ∈ o.lanes, mask.getLsbD l.lane = true → s.stackClear h x l.va) →
      ∃ (t : State), exec .stackAccess s = .next t ∧ t.detects = s.detects ∧ sameFiles s t ∧ s.keeps t [] ∧
        (t.gop? id).map (·.lanes) = some (o.lanes.map fun l =>
          if l.ok || !mask.getLsbD l.lane then l
          else match translate x.wins l.va (!o.isLoad) with
            | .ok pa _ _ => { l with ok := true, pa := pa }
            | .fail _ => { l with ok := true })) ∧
    (∀ l ∈ o.lanes, ∀ c, first = true → translate x.wins l.va (!o.isLoad) = .fail c → s.gang? o.gangRef ≠ none →
      namesGang o.blame o.gangRef →
      ∃ (t : State) (d : Detect), exec .stackAccess s = .next t ∧ t.detects = s.detects ++ [d] ∧ d.cause ≤ c ∧
        (∃ l' ∈ o.lanes, translate x.wins l'.va (!o.isLoad) = .fail d.cause) ∧
        t.quadsStopped o.gangRef (BitVec.ofNat 8 o.blame.qmask) ∧
        (t.gop? id).map (·.hot) = some true ∧ s.keeps t [])) ∧
  (∀ (s : State) (id : Nat) (mask : BitVec 32) (o : GlobalOp), s.arg = .globalPerform id mask → s.memoryWf →
    s.gop? id = some o → o.kind = .store →
    (s.gops.filter fun p => p.core == o.core && !p.isLoad) = [o] → o.lanes.Pairwise (fun a b => a.lane < b.lane) →
    ∃ (t : State), exec .globalPerform s = .next t ∧ sameFiles s t ∧
      (∀ a, t.look .hbm a = afterWrites (s.look .hbm a) ((s.dueLanes o).map fun l => (l.pa, 2 ^ o.sz, l.data)) a) ∧
      (t.gop? id).map (·.lanes) = some (o.lanes.map fun l => if l ∈ s.dueLanes o then { l with done := true } else l)) ∧
  (∀ (s : State) (id : Nat) (mask : BitVec 32) (o : GlobalOp) (l : LaneAcc), s.arg = .globalPerform id mask → s.memoryWf →
    s.gop? id = some o → (o.kind = .reduce ∨ o.kind = .atomic ∨ o.kind = .cas) →
    (s.gops.filter fun p => p.core == o.core && !p.isLoad) = [o] → s.dueLanes o = [l] → s.env.lostAtomics = [] →
    s.atomWindows = [] →
    let old := ofLeBytes (s.readHbm l.pa (2 ^ o.sz))
    ∃ (t : State), exec .globalPerform s = .next t ∧ sameFiles s t ∧
      ofLeBytes (t.readHbm l.pa (2 ^ o.sz)) =
        aopNew (if o.kind = .cas then 12 else o.aop) (2 ^ o.sz) old l.data l.cmp % 2 ^ (8 * 2 ^ o.sz) ∧
      (∀ a, (a < l.pa ∨ l.pa + 2 ^ o.sz ≤ a) → t.look .hbm a = s.look .hbm a) ∧
      (o.kind ≠ .reduce → ∃ p ∈ t.gops, p.id = id ∧ ∀ m ∈ p.lanes, m.lane = l.lane → m.done = true ∧ m.result = old)) ∧
  (∀ (s : State) (id : Nat) (mask : BitVec 32) (o : GlobalOp), s.arg = .globalPerform id mask → s.gop? id = some o →
    o.kind = .load →
    ∃ (t : State), exec .globalPerform s = .next t ∧ sameFiles s t ∧ s.keeps t [] ∧
      (t.gop? id).map (·.lanes) = some (o.lanes.map fun l =>
        if mask.getLsbD l.lane && l.ok && !l.done then
          { l with
            done := true
            result := extendTo o.sx (2 ^ o.sz) (ofLeBytes (s.readHbmAt l.pa (2 ^ o.sz) (s.teamBase o.teamRef + l.p))) }
        else l)) ∧
  (∀ (s : State) (id : Nat) (mask : BitVec 32) (o : GlobalOp) (x : Gang), s.arg = .globalLoadDelivery id mask →
    s.gop? id = some o → s.gang? o.gangRef = some x → o.hot = false → o.apart →
    ∃ (t : State) (r : LaneLanding), exec .globalLoadDelivery s = .next t ∧ Delivers o mask r ∧ Landed s t o.gangRef r ∧
      flagCleared s t o.gangRef r.flag ∧ (o.lastFor mask = true → t.gop? id = none)) ∧
  (∀ (s : State) (id : Nat) (mask : BitVec 32) (o : GlobalOp) (x : Gang), s.arg = .atomicResult id mask →
    s.gop? id = some o → s.gang? o.gangRef = some x → o.isAtomic = true → o.hot = false → o.apart →
    ∃ (t : State) (r : LaneLanding), exec .atomicResult s = .next t ∧ Delivers o mask r ∧ Landed s t o.gangRef r ∧
      flagCleared s t o.gangRef r.flag ∧ (o.lastFor mask = true → t.gop? id = none) ∧
      (t.core o.core).atm = if o.lastFor mask then (s.core o.core).atm - 1 else (s.core o.core).atm) ∧
  (∀ (s : State) (id : Nat) (o : GlobalOp), s.arg = .globalStoreCompletion id → s.gop? id = some o →
    (o.kind = .store ∨ o.kind = .reduce) →
    ∃ (t : State), exec .globalStoreCompletion s = .next t ∧ (t.core o.core).sto = (s.core o.core).sto - 1 ∧
      flagCleared s t o.gangRef o.flag ∧ sameFiles s t ∧ (o.hot = false → t.gop? id = none)) ∧
  (∀ (s : State) (id lane : Nat) (o : GlobalOp) (l : LaneAcc), s.arg = .atomicRepeat id lane → s.memoryWf →
    s.gop? id = some o → o.lanes.find? (fun l => l.lane == lane) = some l → s.env.lostAtomics = [] →
    ∃ (t : State) (old : Nat), exec .atomicRepeat s = .next t ∧ sameFiles s t ∧
      (∃ p ∈ t.gops, p.id = id ∧ ∀ m ∈ p.lanes, m.lane = lane → m.done = true ∧ m.result = old) ∧
      match (s.windowOf (s.heatidOf o.hid) o.team (stackOf l.va)).bind fun w => w.results.find? (fun r => r.1 == l.sq) with
      | some r => old = r.2 ∧ ∀ a, t.look .hbm a = s.look .hbm a
      | none => old = ofLeBytes (s.readHbm l.pa (2 ^ o.sz)) ∧
        ofLeBytes (t.readHbm l.pa (2 ^ o.sz)) =
          aopNew (if o.kind = .cas then 12 else o.aop) (2 ^ o.sz) old l.data l.cmp % 2 ^ (8 * 2 ^ o.sz)) ∧
  (∀ (s : State) (id lane : Nat) (o : GlobalOp) (l : LaneAcc), s.arg = .atomicRepeat id lane →
    s.gop? id = some o → o.lanes.find? (fun l => l.lane == lane) = some l → (0, l.sq) ∈ s.env.lostAtomics →
    ∃ (t : State) (d : Detect), exec .atomicRepeat s = .next t ∧ t.detects = s.detects ++ [d] ∧ d.cause = 0xFA ∧
      d.addr = l.va ∧ sameFiles s t ∧ s.keeps t [])

/-- LANDINGS, SESSIONS, SPANS, WAITS AND FIRED THRESHOLDS (R27, R28, R30, R189-R197, R210, R211, R216, R217, R331, R337). -/
def Obligations.StreamSteps : Prop :=
  (∀ (s : State) (core : Nat) (g : GangRef) (data : List Word), s.arg = .sndLanding core g data →
    ∃ (t : State), exec .sndLanding s = .next t ∧ sameFiles s t ∧ s.keeps t [] ∧
      (∃ l, (t.core core).landing = some l ∧ l.data = data ∧ l.sender = g ∧
        t.awaits (s.now + 8) (.landingNotReceived core l.stamp)) ∧
      match (s.core core).landing with
      | none => t.detects = s.detects
      | some old => ∃ d, t.detects = s.detects ++ [d] ∧ d.cause = 0x85 ∧ (s.gang? old.sender ≠ none → t.gangStopped old.sender)) ∧
  (∀ (s : State) (core stamp : Nat) (l : Landing) (h : Heat), s.arg = .landingNotReceived core stamp →
    (s.core core).landing = some l → s.heat? l.sender.hid = some h →
    (l.stamp ≠ stamp → exec .landingNotReceived s = .next s) ∧
    (l.stamp = stamp → h.issuesAt core (s.now - h.anchor) = true → s.gang? l.sender ≠ none →
      ∃ (t : State) (d : Detect), exec .landingNotReceived s = .next t ∧ (t.core core).landing = none ∧
        t.detects = s.detects ++ [d] ∧ d.cause = 0x85 ∧ t.gangStopped l.sender ∧ sameFiles s t ∧ s.keeps t [])) ∧
  (∀ (s : State) (hid cl m tag : Nat) (h : Heat), s.arg = .csyncSessionOpen hid cl m tag → s.heat? hid = some h →
    h.issuesAt (4 * cl) (s.now - h.anchor) = true →
    (∀ x ∈ h.teams, clusterOf x.core = cl → m.testBit (crewIndex x) = true → x.retired = false) →
    ∃ (t : State), exec .csyncSessionOpen s = .next t ∧ sameFiles s t ∧
      (t.heat? hid).map (·.sessions) = some (h.sessions ++ [(cl, m, tag, some (s.now - h.anchor))])) ∧
  (∀ (s : State) (g : GangRef) (e : Nat) (h : Heat) (x : Team) (y : Gang), s.arg = .spanEnd g e → s.heat? g.hid = some h →
    s.team? ⟨g.hid, g.team⟩ = some x → s.gang? g = some y →
    (h.teamIssuesAt x e = true → (∀ gr ∈ y.groups, gr.stopped = none ∧ gr.quads ≠ 0) →
      (e ∉ y.spans → exec .spanEnd s = .next s) ∧
      (e ∈ y.spans → (∃ gr ∈ y.groups, gr.atSpe = false) →
        ∃ (t : State) (d : Detect), exec .spanEnd s = .next t ∧ t.detects = s.detects ++ [d] ∧ d.cause = 0x81 ∧
          d.team = g.team ∧ d.gang = g.gang ∧ sameFiles s t ∧ s.keeps t [] ∧
          ∃ gr ∈ y.groups, gr.atSpe = false ∧ d.qmask = gr.quads.toNat ∧ d.pc = gr.pc ∧ t.quadsStopped g gr.quads ∧
            ∀ z ∈ y.groups, z.atSpe = false → (lowestBit gr.quads).getD 8 ≤ (lowestBit z.quads).getD 8)) ∧
    (h.teamIssuesAt x e = false → ∃ (t : State), exec .spanEnd s = .next t ∧ t.detects = s.detects ∧ sameFiles s t ∧
      (t.heat? g.hid).map (fun k => k.parked.map (·.ev)) = some (h.parked.map (·.ev) ++ [.spanEnd g e]))) ∧
  (∀ (s : State) (g : GangRef) (q q0 : BitVec 8) (h : Heat) (x : Team) (gr : Group) (hd : Word) (p : BitVec 16),
    s.arg = .bwtResume g q0 → s.heat? g.hid = some h → h.halt = none → s.team? ⟨g.hid, g.team⟩ = some x →
    s.group? g q = some gr → gr.wait = .bwt hd p →
    let b := (s.core x.core).bar (handleIdx hd)
    ∃ (t : State), exec .bwtResume s = .next t ∧ sameFiles s t ∧
      t.group? g q = some (if b.alloc = true ∧ b.gen = handleGen hd ∧ visiblePhase b s.now ≠ p
        then { gr with wait := .none, ready := s.now - h.base x } else gr)) ∧
  (∀ (s : State) (g : GangRef) (h : Heat) (x : Team) (y : Gang) (gr : Group) (rest : List Group) (word next : Nat),
    s.arg = .rejoinMerge g → s.heat? g.hid = some h → s.team? ⟨g.hid, g.team⟩ = some x → s.gang? g = some y →
    y.groups = gr :: rest → gr.wait = .rejoin word next → (∀ z ∈ rest, ∃ n, z.wait = .rejoin word n) →
    ∃ (t : State) (m : Group), exec .rejoinMerge s = .next t ∧ sameFiles s t ∧ (t.gang? g).map (·.groups) = some [m] ∧
      m.quads = y.present ∧ m.pc = next ∧ m.wait = .none ∧ m.ready = s.now - h.base x + 1 ∧ m.stack = gr.stack ∧
      m.resume = none) ∧
  (∀ (s : State) (r : TeamRef) (h : Heat) (x : Team), s.arg = .twaitDeadline r → s.heat? r.hid = some h →
    s.team? r = some x →
    (h.teamIssuesAt x (s.now - h.base x) = true → x.cox.stopped = none →
      ∃ (t : State), exec .twaitDeadline s = .next t ∧ sameFiles s t ∧
        t.cox? r = some { x.cox with wait := .none, ready := s.now - h.base x }) ∧
    (h.teamIssuesAt x (s.now - h.base x) = false ∨ x.cox.stopped ≠ none →
      ∃ (t : State), exec .twaitDeadline s = .next t ∧ sameFiles s t ∧ t.cox? r = some x.cox ∧
        (t.heat? r.hid).map (fun k => k.parked.map (·.ev)) = some (h.parked.map (·.ev) ++ [.twaitDeadline r]))) ∧
  (∀ (s : State) (r : TeamRef) (h : Heat) (x : Team) (dl : Nat) (hd : Word) (p : BitVec 16), s.arg = .coxBwtDeadline r →
    s.heat? r.hid = some h → s.team? r = some x → h.teamIssuesAt x (s.now - h.base x) = true → x.cox.stopped = none →
    x.cox.wait = .phase dl hd p →
    let b := (s.core x.core).bar (handleIdx hd)
    if b.alloc = true ∧ b.gen = handleGen hd ∧ visiblePhase b s.now ≠ p then
      ∃ (t : State), exec .coxBwtDeadline s = .next t ∧ sameFiles s t ∧ t.detects = s.detects ∧
        t.cox? r = some { x.cox with wait := .none, ready := s.now - h.base x }
    else
      ∃ (t : State) (d : Detect), exec .coxBwtDeadline s = .next t ∧ sameFiles s t ∧ t.detects = s.detects ++ [d] ∧
        d.cause = 0x8D ∧ d.info = hd.toNat ∧ (t.cox? r).map (·.stopped.isSome) = some true) ∧
  (∀ (s : State) (core : Nat) (x : BarmAct), s.arg = .barmActionLaunch core x →
    (x.act = 0 → let r := x.opa.toNat % 64
      (s.ring r).en = true → (s.ring r).waiting = [] →
      ∃ (t : State) (e : RingEntry), exec .barmActionLaunch s = .next t ∧ sameFiles s t ∧ (t.ring r).waiting = [e] ∧
        e.id = s.nextOp ∧ e.posted = s.now ∧ e.core = core ∧ e.tsel = x.tsel ∧ e.heatid = x.heatid ∧ e.team = x.team ∧
        e.accepted = true ∧ e.ops = s.earlierOps core s.now ∧
        e.done = { hid := x.hid, core := x.rel, bar := none, team := x.team } ∧
        e.bytes.length = 32 ∧ e.bytes.take 4 = leBytes 4 x.heatid.toNat ∧ (e.bytes.drop 8).take 4 = leBytes 4 x.opb.toNat ∧
        s.now ≤ e.from_ ∧ e.from_ ≤ s.now + 256 ∧ t.awaits e.from_ (.hostRingEntryVisible r)) ∧
    (x.act = 1 → BitVec.ofNat 17 x.opa.toNat = s.pkgNo → bits x.opa.toNat 25 17 < 384 →
      ∃ (t : State) (c : Nat), exec .barmActionLaunch s = .next t ∧ sameFiles s t ∧ s.now ≤ c ∧
        t.awaits c (.localSignalApply (bits x.opa.toNat 25 17) x.opb 0 true
          { hid := x.hid, core := x.rel, bar := none, team := x.team })) ∧
    (x.act = 2 → ∃ (t : State) (c : Nat), exec .barmActionLaunch s = .next t ∧ sameFiles s t ∧ s.now ≤ c ∧ c ≤ s.now + 256 ∧
      t.awaits c (.graphRelease x.queue (x.opa.toNat % 65536) x.heatid.toNat x.hid x.rel)))

/-- THE ENGINES' STEPS (R83, R113, R218-R222, R232-R238, R248-R251, R258-R260, R318, R336, R337, R340): a command's work begins at its
start; a pass gives each element of D from its row and column; copy and layout beats read, and write later, exactly the bytes
of their pieces; an owner's refusal fails the command; completion takes the command out of ENG with its arrival; record reads
write their targets. -/
def Obligations.EngineSteps : Prop :=
  (∀ (s : State) (id : Nat) (c : EngCmd), s.arg = .engineCommandStart id → s.cmd? id = some c →
    let base := s.cmdBase c
    ∃ (t : State), exec .engineCommandStart s = .next t ∧ sameFiles s t ∧
      match c.body with
      | .mma _ => t.awaits s.now (.matrixRead id) ∧ t.awaits (base + c.start + 96) (.matrixWrite id false) ∧
          t.awaits (base + c.completion) (.matrixWrite id true)
      | .xcp _ => t.awaits s.now (.copyBeat id 0)
      | .lay .. => t.awaits s.now (.layoutBeat id 0)
      | .xfer .. => t.agenda = s.agenda) ∧
  (∀ (s : State) (id : Nat) (c : EngCmd) (b : MmaBody) (k : PassKind) (ra rb rc rd : Region), s.arg = .matrixRead id →
    s.cmd? id = some c → c.body = .mma b → b.kind = some k → b.regions = [ra, rb, rc, rd] → c.failed = none →
    match s.passOwners c b k with
    | some e => ∃ (t : State), exec .matrixRead s = .next t ∧ CmdFails s t c e.1 e.2
    | none => s.now - s.cmdBase c = c.start → s.passEcc (s.passCtx c) (b.regions.take (if b.zc then 2 else 3)) = none →
      ∃ (t : State) (r : List Nat), exec .matrixRead s = .next t ∧ sameFiles s t ∧ (t.cmd? id).map (·.result) = some r ∧
        r.length = b.m * b.n ∧ ∀ i j, i < b.m → j < b.n →
          r.getD (i * b.n + j) 0 = passElem b k (s.passRow c k.int ra b.k i true) (s.passRow c k.int rb b.k j false)
            (if b.zc then .int 0 else s.regionElem (s.passCtx c) k.int rc i j)) ∧
  (∀ (s : State) (id : Nat) (c : EngCmd) (b : MmaBody) (k : PassKind) (e : Nat × Nat), s.arg = .matrixWrite id false →
    s.cmd? id = some c → c.body = .mma b → b.kind = some k → c.failed = none → s.passOwners c b k = some e →
    ∃ (t : State), exec .matrixWrite s = .next t ∧ CmdFails s t c e.1 e.2) ∧
  (∀ (s : State) (id : Nat) (last : Bool) (c : EngCmd) (b : MmaBody) (k : PassKind) (n : Nat), s.arg = .matrixWrite id last →
    s.cmd? id = some c → c.body = .mma b → b.kind = some k → (last = false → s.passOwners c b k = none) →
    b.d = .tile n → c.result.length = b.m * b.n → b.drow + b.m ≤ 128 → b.dcol + b.n ≤ 128 →
    ∃ (t : State) (x : Nat), exec .matrixWrite s = .next t ∧ sameFiles s t ∧ s.keeps t [.tiles] ∧ PartWritten s t c last x ∧
      (∀ i j, i < b.m → j < b.n → t.look .tiles (tileKey c.cluster n (b.drow + i) (b.dcol + j)) =
        if c.folds ≤ i * b.n + j ∧ i * b.n + j < c.folds + x then c.result.getD (i * b.n + j) 0 % 2 ^ 32
        else s.look .tiles (tileKey c.cluster n (b.drow + i) (b.dcol + j))) ∧
      ∀ a, (∀ i j, i < b.m → j < b.n → a ≠ tileKey c.cluster n (b.drow + i) (b.dcol + j)) →
        t.look .tiles a = s.look .tiles a) ∧
  (∀ (s : State) (id : Nat) (last : Bool) (c : EngCmd) (b : MmaBody) (k : PassKind) (d : Tensor), s.arg = .matrixWrite id last →
    s.cmd? id = some c → c.body = .mma b → b.kind = some k → (last = false → s.passOwners c b k = none) →
    b.d = .entry d → s.memoryWf →
    ∃ (t : State) (x : Nat), exec .matrixWrite s = .next t ∧ sameFiles s t ∧ s.keeps t [.scratch] ∧ PartWritten s t c last x ∧
      ∀ a, t.look .scratch a = afterWrites (s.look .scratch a) ((((resultCells b c.result).drop c.folds).take x).map fun e =>
        (scratchKey c.core ((s.passCtx c).base + (d.addr [b.dcol + e.2.1, b.drow + e.1]).toNat),
          (outBytes k.int d e.2.2).length, ofLeBytes (outBytes k.int d e.2.2))) a) ∧
  (∀ (s : State) (id place : Nat) (c : EngCmd) (b : XcpBody) (r : CopyRow) (e : Tensor), s.arg = .copyBeat id place →
    s.cmd? id = some c → c.body = .xcp b → b.row (rowOf place) = some r → b.src = .entry e → e.loc = false →
    beatOf place < r.s.count → c.failed = none →
    match s.readPiece c b r.s (beatOf place) with
    | .inl bad => ∃ (t : State), exec .copyBeat s = .next t ∧ CmdFails s t c bad.1 bad.2
    | .inr _ => ∃ (t : State), exec .copyBeat s = .next t ∧ sameFiles s t ∧ s.keeps t [] ∧
      (∀ p ∈ r.s.piece (beatOf place), (t.cmd? id).map (fun x => (Store.get 0 x.buf (bufKey (rowOf place) p)).toNat) =
        some (s.look .scratch (scratchKey c.core (4096 * s.sbaseOf c + (r.s.addr p).toNat)))) ∧
      (∀ y, b.dst = .entry y → y.loc = false → r.writes (beatOf place) ≠ [] →
        t.awaits (s.now + 16 + r.quant) (.copyWrite id place)) ∧
      (beatOf place + 1 < r.beats → rowOf (place + 1) = rowOf place → rowOf place < b.iters * b.rows →
        t.awaits (s.now + 1) (.copyBeat id (place + 1)))) ∧
  (∀ (s : State) (id place : Nat) (c : EngCmd) (b : XcpBody) (r : CopyRow) (e : Tensor), s.arg = .copyBeat id place →
    s.cmd? id = some c → c.body = .xcp b → b.row (rowOf place) = some r → b.src = .entry e → e.loc = true →
    beatOf place < r.s.count →
    let va := (r.s.addr ((r.s.piece (min (beatOf place) (r.s.count - 1))).headD 0)).toNat
    ∃ (t : State), exec .copyBeat s = .next t ∧ sameFiles s t ∧ s.keeps t [] ∧
      t.awaits (s.now + if dieOfCluster c.cluster = dieOfStack (stackOf va) then 320 else 368)
        (.stackAccess (.beatRead id place))) ∧
  (∀ (s : State) (id place : Nat) (c : EngCmd) (b : XcpBody) (r : CopyRow) (e : Tensor), s.arg = .copyWrite id place →
    s.cmd? id = some c → c.body = .xcp b → b.row (rowOf place) = some r → b.dst = .entry e → c.failed = none → s.memoryWf →
    match s.bytesBreach c.core (s.sbaseOf c) 1 false (beatOffsets r place) with
    | some bad => ∃ (t : State), exec .copyWrite s = .next t ∧ CmdFails s t c bad.1 bad.2
    | none => ∃ (t : State), exec .copyWrite s = .next t ∧ sameFiles s t ∧ s.keeps t [.scratch] ∧
      keepsCopied s t c b r place ∧
      ∀ x, t.look .scratch x = afterWrites (s.look .scratch x) ((s.beatWrites c b r place).map fun y =>
        (scratchKey c.core (4096 * s.sbaseOf c + (r.d.addr y.1).toNat), 1, y.2.toNat)) x) ∧
  (∀ (s : State) (id place n : Nat) (c : EngCmd) (b : XcpBody) (r : CopyRow), s.arg = .copyWrite id place →
    s.cmd? id = some c → c.body = .xcp b → b.row (rowOf place) = some r → b.dst = .tile n →
    ∃ (t : State), exec .copyWrite s = .next t ∧ sameFiles s t ∧ s.keeps t [.tiles] ∧ keepsCopied s t c b r place ∧
      ∀ a, (t.tileByte c.cluster n a).toNat = afterWrites (s.tileByte c.cluster n a).toNat
        ((s.beatWrites c b r place).map fun y => ((r.d.addr y.1).toNat, 1, y.2.toNat)) a) ∧
  (∀ (s : State) (id n : Nat) (c : EngCmd) (src dst : Tensor) (w : BitVec 64), s.arg = .layoutBeat id n →
    s.cmd? id = some c → c.body = .lay src dst w → c.failed = none → 0 < dst.unit →
    match s.bytesBreach c.core (s.sbaseOf c) 3 true (((layUnits dst n).map fun u => laySource w src dst u).flatten) with
    | some bad => ∃ (t : State), exec .layoutBeat s = .next t ∧ CmdFails s t c bad.1 bad.2
    | none => ∃ (t : State), exec .layoutBeat s = .next t ∧ sameFiles s t ∧ s.keeps t [] ∧
      (∀ p ∈ layPositions dst n, (t.cmd? id).map (fun x => Store.get 0 x.buf (bufKey 0 p)) =
        some ((s.layUnit c.core (4096 * s.sbaseOf c) w src dst (p / dst.unit)).getD (p % dst.unit) 0)) ∧
      t.awaits (s.now + if dmwReq w then 72 else 40) (.layoutWrite id n) ∧
      (n + 1 < layBeats src dst → t.awaits (s.now + 1) (.layoutBeat id (n + 1)))) ∧
  (∀ (s : State) (id n : Nat) (c : EngCmd) (src dst : Tensor) (w : BitVec 64), s.arg = .layoutWrite id n →
    s.cmd? id = some c → c.body = .lay src dst w → c.failed = none → s.memoryWf →
    match s.bytesBreach c.core (s.sbaseOf c) 3 false ((layPositions dst n).map (layOffset dst)) with
    | some bad => ∃ (t : State), exec .layoutWrite s = .next t ∧ CmdFails s t c bad.1 bad.2
    | none => ∃ (t : State), exec .layoutWrite s = .next t ∧ sameFiles s t ∧ s.keeps t [.scratch] ∧
      ∀ x, t.look .scratch x = afterWrites (s.look .scratch x) ((layPositions dst n).map fun p =>
        (scratchKey c.core (4096 * s.sbaseOf c + layOffset dst p), 1, (Store.get 0 c.buf (bufKey 0 p)).toNat)) x) ∧
  (∀ (s : State) (id : Nat) (c : EngCmd), s.arg = .engineCompletion id → s.cmd? id = some c → c.failed = none →
    c.held = false →
    s.cmds.find? (fun x => x.cluster == c.cluster && x.eng == c.eng && x.failed.isNone && !x.held) = some c →
    (∀ x ∈ s.cmds, x.cluster = c.cluster → x.eng = c.eng → x.id ≠ id → x.done = false) →
    ∃ (t : State), exec .engineCompletion s = .next t ∧ sameFiles s t ∧ s.keeps t [] ∧ t.cmd? id = none ∧
      (t.core c.core).eng = (s.core c.core).eng - 1 ∧
      (∀ h, c.bar = some h → s.handleBreach c.core h = none → t.changes c.core h 1 0) ∧
      (∀ f x, c.flag = some f → s.cox? ⟨c.hid, c.team⟩ = some x → Store.get 0 x.flagMin f ≤ s.now →
        (t.cox? ⟨c.hid, c.team⟩).map (·.flags.getLsbD f) = some false)) ∧
  (∀ (s : State) (id : Nat) (c d : EngCmd), s.arg = .engineCompletion id → s.cmd? id = some c → c.failed = none →
    c.held = false → d.id ≠ id → d.done = false →
    s.cmds.find? (fun x => x.cluster == c.cluster && x.eng == c.eng && x.failed.isNone && !x.held) = some d →
    ∃ (t : State), exec .engineCompletion s = .next t ∧ sameFiles s t ∧ s.keeps t [] ∧
      (t.cmd? id).map (·.done) = some true ∧ (t.core c.core).eng = (s.core c.core).eng) ∧
  (∀ (s : State) (id : Nat) (o : GlobalOp) (x : Team), s.arg = .tloadCompletion id → s.gop? id = some o →
    s.team? o.teamRef = some x →
    (tensorBreaches o.bytes = [] → ∃ (t : State), exec .tloadCompletion s = .next t ∧ RecordCompletes s t o ∧
      (t.team? o.teamRef).map (fun y => Store.get Tensor.init y.t o.n) = some (tensorOf o.bytes) ∧
      ∀ n, n ≠ o.n → (t.team? o.teamRef).map (fun y => Store.get Tensor.init y.t n) = some (Store.get Tensor.init x.t n)) ∧
    (tensorBreaches o.bytes ≠ [] → ∃ (t : State), exec .tloadCompletion s = .next t ∧
      RecordFails s t o (tensorBreaches o.bytes))) ∧
  (∀ (s : State) (id : Nat) (o : GlobalOp) (x : Team), s.arg = .gsetMemCompletion id → s.gop? id = some o →
    s.team? o.teamRef = some x →
    let bad := genBreaches o.n (Store.get 0 x.g (o.n - 1)) (genImage o.bytes)
    (bad = [] → ∃ (t : State), exec .gsetMemCompletion s = .next t ∧ RecordCompletes s t o ∧
      ∀ j, j < o.bytes.length / 16 → t.reg (.gen o.teamRef (o.n + j)) = some (ofLeBytes ((o.bytes.drop (16 * j)).take 16))) ∧
    (bad ≠ [] → ∃ (t : State), exec .gsetMemCompletion s = .next t ∧ RecordFails s t o bad)) ∧
  (∀ (s : State) (id place : Nat) (write : Bool) (c : EngCmd) (b : XcpBody) (r : CopyRow),
    s.arg = .hostBoundCheck id (2 * place) write → s.cmd? id = some c → c.body = .xcp b → b.row (rowOf place) = some r →
    Store.get 0 c.image (2 * place + write.toNat) = 0 → s.ready.pcie = true → s.memoryWf →
    ∃ (t : State), exec .hostBoundCheck s = .next t ∧ sameFiles s t ∧
      (write = true → ∀ a, t.look .host a = afterWrites (s.look .host a) ((beatBytes c b r place).map fun y =>
        (busAddr (r.d.addr y.1), 1, y.2.toNat)) a) ∧
      (write = false → s.keeps t [] ∧ ∀ p ∈ r.s.piece (beatOf place),
        (t.cmd? id).map (fun x => (Store.get 0 x.buf (bufKey (rowOf place) p)).toNat) =
          some (s.look .host (busAddr (r.s.addr p))))) ∧
  (∀ (s : State) (id place : Nat) (write : Bool) (c : EngCmd) (b : XcpBody) (r : CopyRow),
    s.arg = .hostBoundCheck id (2 * place + 1) write → s.cmd? id = some c → c.body = .xcp b →
    b.row (rowOf place) = some r → Store.get 0 c.image (2 * place + write.toNat) = 0 → s.ready.pcie = false →
    c.failed = none →
    ∃ (t : State), exec .hostBoundCheck s = .next t ∧ CmdFails s t c 0x89 (r.hostAddr place write))

/-- COLLECTIVE TRANSFERS (R252-R256, R273-R275, R331, R337, R340): a shape record is checked and captured with this package's
place; folds combine element by element; local moves take the path of a released flit; add.bf16 rounds its f32 image once;
DONE finds every entry complete, credits DST's bytes and completes the command; a re-sharding waits for the transfers in
flight. -/
def Obligations.CollectiveSteps : Prop :=
  (∀ (s : State) (id : Nat) (c : EngCmd) (o : GlobalOp) (src dst : Tensor) (va : Nat) (h : Heat) (x : Team),
    s.arg = .xferRecordRead id → s.cmd? id = some c → s.gops.find? (fun o => o.kind == .xferRec && o.n == id) = some o →
    c.body = .xfer src dst va → s.heat? c.hid = some h → s.team? ⟨c.hid, c.team⟩ = some x → c.failed = none →
    match s.packagePlace x (bits (qword o.bytes 5) 55 0) (shapeOf o.bytes).npkg, shapeBreaches o.bytes src dst with
    | some n, [] =>
      let r : ShapeRec := (shapeOf o.bytes).at_ n
      ∃ (t : State), exec .xferRecordRead s = .next t ∧ sameFiles s t ∧ s.keeps t [] ∧
        (t.cmd? id).map (fun k => (k.shape, k.completion)) = some (some r, r.done) ∧ t.gop? o.id = none ∧
        t.awaits (max s.now (s.cmdBase c + r.done)) (.xferDone id) ∧
        ∀ ie ∈ h.collEntries r, ie.2.role = 3 → 0 < ie.2.len →
          t.awaits (max s.now (s.cmdBase c + ie.2.firstf)) (.localMove c.hid ie.1 0)
    | some _, causes => ∃ (t : State) (cause : Nat), exec .xferRecordRead s = .next t ∧ cause ∈ causes ∧
        (∀ y ∈ causes, cause ≤ y) ∧ CmdFails s t c cause o.addr
    | none, _ => ∃ (t : State) (cause : Nat), exec .xferRecordRead s = .next t ∧ cause ≤ 0xA9 ∧ CmdFails s t c cause o.addr) ∧
  (∀ (s : State) (hid i cursor o code : Nat) (bs old : List Byte) (h : Heat) (e : FlowEntry) (c : EngCmd) (r : ShapeRec)
    (x : Team), s.arg = .collectiveFold hid i cursor bs → s.heat? hid = some h → h.flow? i = some e →
    s.xferOf hid e = some c → s.team? ⟨hid, e.team⟩ = some x → s.flowPlace hid e cursor = .scratch o code →
    (s.placeBytes hid e (.scratch o code) true).1 = .inr old → s.cmd? c.id = some c → c.shape = some r →
    bs.length = 256 → e.dest = 2 → s.memoryWf →
    (r.rop ≠ 5 →
      ∃ (t : State), exec .collectiveFold s = .next t ∧ sameFiles s t ∧ s.keeps t [.scratch] ∧
        (∀ j, j < 64 → ofLeBytes (t.readScratch x.core (4096 * x.sbase + o + 4 * j) 4) =
          foldElem r.rop (ofLeBytes (s.readScratch x.core (4096 * x.sbase + o + 4 * j) 4))
            (ofLeBytes ((bs.drop (4 * j)).take 4)) % 2 ^ 32) ∧
        (∀ a, (a < scratchKey x.core (4096 * x.sbase + o) ∨ scratchKey x.core (4096 * x.sbase + o) + 256 ≤ a) →
          t.look .scratch a = s.look .scratch a) ∧
        (t.cmd? c.id).map (fun k => Store.get 0 k.left (4 * e.flow + e.role)) =
          some (Store.get 0 c.left (4 * e.flow + e.role) + 256)) ∧
    (r.rop = 5 →
      ∃ (t : State), exec .collectiveFold s = .next t ∧ sameFiles s t ∧ s.keeps t [] ∧
        (∀ k, t.cmd? c.id = some k → foldsDone k (h.collEntries r) = true → t.awaits (s.now + 1) (.bf16ImageWrite c.id 0)) ∧
        ∀ j, j < 128 →
          let n := dstOffset e cursor / 2 + j
          let held : Nat := if Store.get 0 c.buf n = 1 then (Store.get 0 c.image n).toNat
            else f32.rne (bf16.decode (ofLeBytes ((old.drop (2 * j)).take 2)))
          (t.cmd? c.id).map (fun k => Store.get 0 k.image n) = some (BitVec.ofNat 32
            (fpOp f32 0 .rn held (f32.rne (bf16.decode (ofLeBytes ((bs.drop (2 * j)).take 2)))) 0)))) ∧
  (∀ (s : State) (hid i k : Nat) (e : FlowEntry) (c : EngCmd) (src dst : Tensor) (va : Nat) (x : Team),
    s.arg = .localMove hid i k → (s.heat? hid).bind (fun h => h.flow? i) = some e → s.xferOf hid e = some c →
    c.body = .xfer src dst va → s.team? ⟨hid, e.team⟩ = some x → ∀ bs : List Byte,
    (s.placeBytes hid e (src.placeAt (e.base + 256 * k) 1) false).1 = .inr bs →
    ∃ (t : State), exec .localMove s = .next t ∧ sameFiles s t ∧ s.keeps t [] ∧
      (src.loc = false → bs = s.readScratch x.core (4096 * x.sbase + (src.base + (e.base + 256 * k))) 256) ∧
      (e.op = 1 → t.awaits (s.now + 24) (.collectiveFold hid i (256 * k) bs)) ∧
      (e.op ≠ 1 → ∀ o code, s.flowPlace hid e (256 * k) = .scratch o code →
        t.awaits (s.now + 8) (.flitLanding hid i (256 * k) bs)) ∧
      (e.op ≠ 1 → ∀ a, s.flowPlace hid e (256 * k) = .global a →
        t.awaits (s.now + if dieOfCore x.core = dieOfStack (stackOf a) then 320 else 368)
          (.stackAccess (.flowLand hid i (256 * k) bs))) ∧
      (256 * k + 256 < e.len → t.awaits (s.now + 2) (.localMove hid i (k + 1)))) ∧
  (∀ (s : State) (id off : Nat) (c : EngCmd) (src dst : Tensor) (va : Nat) (x : Team) (old : List Byte),
    s.arg = .bf16ImageWrite id off → s.cmd? id = some c → c.body = .xfer src dst va → dst.loc = false →
    s.team? ⟨c.hid, c.team⟩ = some x → (s.placeBytes c.hid (dstEntryOf c) (.scratch (dst.base + off) 4) true).1 = .inr old →
    s.memoryWf →
    let size := dst.box.units * dst.unit
    let bs := (imageBytes c off old).take (min 256 (size - off))
    ∃ (t : State), exec .bf16ImageWrite s = .next t ∧ sameFiles s t ∧ s.keeps t [.scratch] ∧
      (∀ a, t.look .scratch a = afterWrites (s.look .scratch a)
        [(scratchKey x.core (4096 * x.sbase + (dst.base + off)), bs.length, ofLeBytes bs)] a) ∧
      (off + 256 < size → t.awaits (s.now + 1) (.bf16ImageWrite id (off + 256)))) ∧
  (∀ (s : State) (id : Nat) (c : EngCmd) (r : ShapeRec) (h : Heat), s.arg = .xferDone id → s.cmd? id = some c →
    c.shape = some r → s.heat? c.hid = some h → c.failed = none → c.held = false →
    let complete := ∀ ie ∈ h.collEntries r, (ie.2.role = 1 ∨ ie.2.role = 3) →
      ie.2.len ≤ Store.get 0 c.left (4 * ie.2.flow + ie.2.role)
    (¬complete → ∃ (t : State), exec .xferDone s = .next t ∧ CmdFails s t c 0x91 0) ∧
    (complete →
      s.cmds.find? (fun x => x.cluster == c.cluster && x.eng == c.eng && x.failed.isNone && !x.held) = some c →
      (∀ x ∈ s.cmds, x.cluster = c.cluster → x.eng = c.eng → x.id ≠ id → x.done = false) →
      ∃ (t : State), exec .xferDone s = .next t ∧ sameFiles s t ∧ s.keeps t [] ∧ t.cmd? id = none ∧
        (t.core c.core).eng = (s.core c.core).eng - 1 ∧
        (c.cr = true → s.handleBreach c.core c.crh = none → t.changes c.core c.crh 0 (destBytes c.body)))) ∧
  (∀ (s : State) (gen : Word), s.arg = .layoutGenerationChange gen →
    ∃ (t : State), exec .layoutGenerationChange s = .next t ∧ sameFiles s t ∧ s.keeps t [] ∧
      let pins := s.cmds.filterMap s.pinnedBy
      (pins = [] → t.layoutGen = gen) ∧
      (pins ≠ [] → t.layoutGen = s.layoutGen ∧ ∃ c ∈ pins, (∀ x ∈ pins, c ≤ x) ∧
        t.awaits (max c (s.now + 1)) (.layoutGenerationChange gen)))

/-- SCHEDULED FLITS AND THE PORTS (R34-R39, R261-R266, R337, R343, R346, R354): a transmit slot reads its 256 bytes ahead and
sends them when the active bank gives it the slot, a halt mark from its stop point on; a release hands its flit to the entry
that owns the slot, or faults with 0x8A for an idle one; a landing writes its bytes and credits its barrier; frame markers,
training and bank switches. -/
def Obligations.LinkSteps : Prop :=
  (∀ (s : State) (hid i k : Nat) (late : Bool) (e : FlowEntry) (base : Nat), s.arg = .transmitRead hid i k late →
    s.sender? hid i = some (e, base) →
    ∃ (t : State), exec .transmitRead s = .next t ∧ sameFiles s t ∧ s.keeps t [] ∧
      (late = false → t.awaits (max s.now (2 * k)) (.scheduledFlitSend hid i k) ∧
        ∀ n, e.slotFrom base (2 * k + 2) = some n → t.awaits (max s.now (2 * n - e.lead)) (.transmitRead hid i n false)) ∧
      ∀ h x, s.heat? hid = some h → e.role = 0 → h.flowBegun e (2 * k) = true → h.flowStopped i (2 * k) = false →
        h.cursorAt e (2 * k) < e.len → s.team? ⟨hid, e.team⟩ = some x →
          match s.flowPlace hid e (h.cursorAt e (2 * k)) with
          | .scratch o code =>
            if late = false ∧ s.now + 16 < 2 * k then t.awaits (2 * k - 16) (.transmitRead hid i k true)
            else if s.landable x o code = true ∧ s.bytesLost x.core x.sbase ((List.range 256).map (o + ·)) = true then
              ∃ d, t.detects = s.detects ++ [d] ∧ d.cause = 0xF0 ∧ d.hid = hid ∧ d.addr = o
            else t.detects = s.detects ∧ (t.port e.port).txBuf.find? (fun b => b.1 == 2 * k) = some (2 * k,
              if s.landable x o code then s.readScratch x.core (4096 * x.sbase + o) 256 else [])
          | .global va => t.awaits (max s.now (2 * k - if dieOfPort e.port = dieOfStack (stackOf va) then 320 else 368))
              (.stackAccess (.flowRead hid i k))
          | .nowhere => True) ∧
  (∀ (s : State) (hid i k : Nat) (e : FlowEntry) (base : Nat), s.arg = .scheduledFlitSend hid i k →
    s.sender? hid i = some (e, base) →
    let mine := slotFlow (s.port e.port).txTable (s.port e.port).txAct (slotIdx s.now) = some e.flow
    (((s.port e.port).trained = false ∨ ¬mine) → exec .scheduledFlitSend s = .next s) ∧
    ((s.port e.port).trained = true → mine → s.heat? hid = none →
      ∃ (t : State), exec .scheduledFlitSend s = .next t ∧ sameFiles s t ∧ s.keeps t [] ∧ t.detects = s.detects ∧
        (t.port e.port).sent = some (s.now, .idle)) ∧
    (∀ h, (s.port e.port).trained = true → mine → s.heat? hid = some h →
      ∃ (t : State), exec .scheduledFlitSend s = .next t ∧ sameFiles s t ∧ s.keeps t [] ∧
        (h.flowStopped i s.now = true → (t.port e.port).sent = some (s.now, .halt)) ∧
        (h.flowStopped i s.now = false → (h.flowBegun e s.now = false ∨ e.len ≤ h.cursorAt e s.now) →
          (t.port e.port).sent = some (s.now, .idle) ∧ t.detects = s.detects) ∧
        (h.flowStopped i s.now = false → h.flowBegun e s.now = true → h.cursorAt e s.now < e.len →
          (t.heat? hid).map (fun y => Store.get 0 y.cursors (4 * e.flow + e.role)) = some (h.cursorAt e s.now + 256) ∧
          (e.role = 2 → t.detects = s.detects ∧ (t.port e.port).sent = some (s.now,
            match (s.port e.rport).relay.find? fun r => r.hid == hid && r.flow == e.flow &&
                r.n == h.cursorAt e s.now / 256 && decide (r.at_ + 2 ≤ s.now) with
            | some r => .bytes r.bytes
            | none => .idle)) ∧
          (e.role ≠ 2 → ∀ bs, (s.port e.port).txBuf.find? (fun b => b.1 == 2 * k) = some (2 * k, bs) →
            (bs ≠ [] → (t.port e.port).sent = some (s.now, .bytes bs) ∧ t.detects = s.detects) ∧
            (bs = [] → (t.port e.port).sent = some (s.now, .idle) ∧
              ∃ d, t.detects = s.detects ++ [d] ∧ d.cause = 0x8A ∧ d.info = e.flow))))) ∧
  (∀ (s : State) (port release : Nat) (f : Flit), s.arg = .flitArrival port release f →
    (((s.port port).trained = false ∨ release < s.now) → exec .flitRelease s = .next s) ∧
    ((s.port port).trained = true → s.now ≤ release → ∃ (t : State), exec .flitRelease s = .next t ∧ sameFiles s t ∧
      s.keeps t [] ∧ t.detects = s.detects ∧ t.awaits release (.flitRelease port) ∧
      (t.port port).incoming = (s.port port).incoming ++ [(release, f)])) ∧
  (∀ (s : State) (port : Nat), s.arg = .flitRelease port → (s.port port).lastRelease ≠ some s.now →
    let f : Flit := (((s.port port).incoming.find? fun x => x.1 == s.now).map (·.2)).getD .idle
    ((s.port port).trained = false → ∃ (t : State), exec .flitRelease s = .next t ∧ sameFiles s t ∧ s.keeps t [] ∧
      t.detects = s.detects ∧ t.heats = s.heats) ∧
    (∀ flow h i e, (s.port port).trained = true →
      slotFlow (s.port port).rxTable (s.port port).rxAct (slotIdx s.now) = some flow →
      s.receivers port flow = [(h, i, e)] → s.heat? h.hid = some h → (∀ z ∈ s.heats, z.relays port flow = []) →
      (∀ y ∈ h.stops, y.1 ≠ .flow i) → h.cursorAt e s.now < e.len →
      ∃ (t : State), exec .flitRelease s = .next t ∧ sameFiles s t ∧ s.keeps t [] ∧
        match f with
        | .bytes bs => t.detects = s.detects ∧
            (t.heat? h.hid).map (fun y => Store.get 0 y.cursors (4 * e.flow + 1)) = some (h.cursorAt e s.now + 256) ∧
            (e.dest = 0 →
              t.awaits (s.now + if dieOfPort e.port = dieOfCore (((h.teams[e.team]?).map (·.core)).getD 0) then 8 else 56)
                (.flitLanding h.hid i (h.cursorAt e s.now) bs))
        | .idle => ∃ d, t.detects = s.detects ++ [d] ∧ d.cause = 0x8A ∧ d.hid = h.hid ∧ d.info = e.flow
        | .halt => t.detects = s.detects ∧
            (t.heat? h.hid).map (·.stops) = some (h.stops ++ [(.flow i, s.now - h.anchor)]) ∧
            ((h.status = .running ∨ h.status = .closing) → h.halt = none → h.dieHalt = [] →
              (t.heat? h.hid).map (fun y => (y.flitStop (dieOfPort port), y.flitStop (1 - dieOfPort port))) =
                some (some (s.now - h.anchor + 8), some (s.now - h.anchor + 56)) ∧
              t.awaits (s.now + 56) (.faultHalt h.hid))) ∧
    (∀ flow h i e bs, (s.port port).trained = true →
      slotFlow (s.port port).rxTable (s.port port).rxAct (slotIdx s.now) = some flow → s.receivers port flow = [] →
      s.heats.filter (·.receives) = [h] → s.heat? h.hid = some h → h.relays port flow = [(i, e)] → f = .bytes bs →
      (s.port port).relay.length < 1024 →
      ∃ (t : State), exec .flitRelease s = .next t ∧ sameFiles s t ∧ s.keeps t [] ∧ t.detects = s.detects ∧
        (t.port port).relay = (s.port port).relay ++
          [{ hid := h.hid, flow := flow, n := Store.get 0 h.relayed (16 * flow + port), at_ := s.now, bytes := bs }] ∧
        (t.heat? h.hid).map (fun y => Store.get 0 y.relayed (16 * flow + port)) =
          some (Store.get 0 h.relayed (16 * flow + port) + 1))) ∧
  (∀ (s : State) (hid i cursor : Nat) (bs : List Byte) (e : FlowEntry) (x : Team) (o code : Nat),
    s.arg = .flitLanding hid i cursor bs → (s.heat? hid).bind (fun h => h.flow? i) = some e →
    s.flowPlace hid e cursor = .scratch o code → s.team? ⟨hid, e.team⟩ = some x → s.memoryWf →
    (s.landable x o 4 = true → ∃ (t : State), exec .flitLanding s = .next t ∧ sameFiles s t ∧
      (∀ a, t.look .scratch a = afterWrites (s.look .scratch a)
        [(scratchKey x.core (4096 * x.sbase + o), bs.length, ofLeBytes bs)] a) ∧
      let last := e.arr && decide (e.len ≤ cursor + 256)
      ((e.cred || last) = true → e.role = 1 → s.handleBreach x.core (s.handleOf x.core e.bidx) = none →
        t.changes x.core (s.handleOf x.core e.bidx) last.toNat (if e.cred then 256 else 0))) ∧
    (s.landable x o 4 = false → ∃ (t : State) (d : Detect), exec .flitLanding s = .next t ∧ sameFiles s t ∧ s.keeps t [] ∧
      t.detects = s.detects ++ [d] ∧ d.cause = 0x44 ∧ d.addr = o ∧ d.core = x.core)) ∧
  (∀ s : State, s.arg = .frameMarkerSend → ∃ (t : State), exec .frameMarkerSend s = .next t ∧ sameFiles s t ∧ s.keeps t [] ∧
    t.awaits (s.now + 8192) .frameMarkerSend ∧ ∀ p, p < 16 → (s.port p).trained = true →
      t.awaits (s.now + 1120 - (s.port p).deskew + 13) (.frameMarkerMiss p (s.now + 1120 - (s.port p).deskew))) ∧
  (∀ (s : State) (p due : Nat), s.arg = .frameMarkerArrival p due →
    ∃ (t : State), exec .frameMarkerArrival s = .next t ∧ sameFiles s t ∧ s.keeps t [] ∧
      (t.port p).markerSeen = if s.now ≤ due + 12 ∧ due ≤ s.now + 12 then some due else (s.port p).markerSeen) ∧
  (∀ (s : State) (p due : Nat), s.arg = .frameMarkerMiss p due →
    ∃ (t : State), exec .frameMarkerMiss s = .next t ∧ sameFiles s t ∧ s.keeps t [] ∧
      (((s.port p).trained = false ∨ (s.port p).markerSeen = some due) → t = s) ∧
      ((s.port p).trained = true → (s.port p).markerSeen ≠ some due → ∀ h ∈ s.heats, h.status ≠ .saved →
        (∃ e ∈ h.record.flows, e.role ≠ 3 ∧ e.port = p) → ∃ d ∈ t.detects, d.hid = h.hid ∧ d.cause = 0x8F)) ∧
  (∀ (s : State) (p deskew flight : Nat), s.arg = .linkTrained p deskew flight →
    ∃ (t : State), exec .linkTrained s = .next t ∧ sameFiles s t ∧ s.keeps t [] ∧
      if flight ≤ 1096 ∧ p < 16 then
        (t.port p).trained = true ∧ (t.port p).deskew = deskew ∧ t.ready.port.getLsbD p = true ∧
          (∃ c, t.awaits c (.sync p true 0)) ∧ (∃ c, t.awaits c (.pdelayReqSend p)) ∧ ∃ c, t.awaits c .announceSend
      else t = s) ∧
  (∀ (s : State) (p : Nat), s.arg = .linkTrainingLost p → p < 16 →
    ∃ (t : State), exec .linkTrainingLost s = .next t ∧ sameFiles s t ∧ s.keeps t [] ∧ (t.port p).trained = false ∧
      t.ready.port.getLsbD p = false ∧ (∀ q, q < 16 → q ≠ p → t.ready.port.getLsbD q = s.ready.port.getLsbD q) ∧
      ∀ h ∈ s.heats, h.status ≠ .saved → (∃ e ∈ h.record.flows, e.role ≠ 3 ∧ e.port = p) →
        ∃ d ∈ t.detects, d.hid = h.hid ∧ d.cause = 0xE2) ∧
  (∀ (s : State) (p c : Nat), s.arg = .bankSwitchArm p c →
    ∃ (t : State), exec .bankSwitchArm s = .next t ∧ sameFiles s t ∧ s.keeps t [] ∧
      ((s.port p).pend = true → t = s) ∧
      ((s.port p).pend = false → (t.port p).pend = true ∧ (t.port p).swcyc = c ∧
        t.awaits (max s.now (s.named (8192 * c))) (.bankSwitchTx p c) ∧
        t.awaits (max s.now (s.named (8192 * c)) + 1120) (.bankSwitchRx p c))) ∧
  (∀ (s : State) (p c : Nat), s.arg = .bankSwitchCancel p c →
    ∃ (t : State), exec .bankSwitchCancel s = .next t ∧ sameFiles s t ∧ s.keeps t [] ∧ (t.port p).pend = false ∧
      (t.port p).swcyc = c ∧
      (t.port p).txAct = (s.port p).txAct ∧ (t.port p).rxAct = (s.port p).rxAct ∧
      ((s.port p).pend = true → ∀ d ∈ t.agenda, d.ev ≠ .bankSwitchTx p (s.port p).swcyc ∧
        d.ev ≠ .bankSwitchRx p (s.port p).swcyc)) ∧
  (∀ (s : State) (p c : Nat), s.arg = .bankSwitchTx p c →
    ∃ (t : State), exec .bankSwitchTx s = .next t ∧ sameFiles s t ∧ s.keeps t [] ∧ (t.port p).pend = false ∧
      (t.port p).txAct = !(s.port p).txAct ∧ (t.port p).rxAct = (s.port p).rxAct ∧
      ∀ g ∈ s.gone, g.e.port = p → (∀ i, g.e.owns i = true → slotFlow (s.port p).txTable (!(s.port p).txAct) i ≠ some g.e.flow) →
        g ∉ t.gone) ∧
  (∀ (s : State) (p c : Nat), s.arg = .bankSwitchRx p c →
    ∃ (t : State), exec .bankSwitchRx s = .next t ∧ sameFiles s t ∧ s.keeps t [] ∧
      (t.port p).rxAct = (!(s.port p).rxAct) ∧ (t.port p).txAct = (s.port p).txAct)

/-- MESSAGES (R60, R129, R218, R226, R227, R267-R271, R287, R344, R345): a post takes its SEQ and waits for its
acknowledgement; a queue's head leaves in its slot with its timer; arrivals take effect in SEQ order 8 cycles after their release,
or travel on with a lower TTL; signals, launches and bulk writes perform at their destination; acknowledgements, refusals and
losses end as those rules say. -/
def Obligations.MessageSteps : Prop :=
  (∀ (s : State) (p : Post), s.arg = .messageAccepted p →
    ∃ (t : State), exec .messageAccepted s = .next t ∧ sameFiles s t ∧ s.keeps t [] ∧
      match p with
      | .message m a =>
        let m' : Msg := { m with sq := s.nextSeq (msgKey m) }
        (∃ u ∈ t.unacked, u.m = m' ∧ u.done = a ∧ u.losses = 0) ∧ t.nextSeq (msgKey m) = m'.sq + 1 ∧ t.queued m' s.now
      | .localLaunch m a => t.awaits s.now (.launchMessage m a)
      | .localSignal core h cr ar a => ∃ c, s.now ≤ c ∧ t.awaits c (.localSignalApply core h cr ar a)
      | .hostEntry r id => match (s.ring r).waiting.find? (fun e => e.id == id) with
        | none => t = s
        | some e =>
          let full := (s.ring r).room + 64 ≤ ((s.ring r).waiting.filter (·.accepted)).length
          if (s.ring r).en = false ∨ full then
            (t.ring r).waiting = (s.ring r).waiting.filter (fun y => y.id ≠ e.id) ∧ MsgPerformed s t e.done ∧
            (s.now, LogEvent.discard e.heatid e.team r (s.ring r).en) ∈ t.logEvents ∧
            (if (s.ring r).en then (t.ring r).lost = (s.ring r).lost + 1 ∧ (t.ring r).dropped = (s.ring r).dropped
              else (t.ring r).dropped = (s.ring r).dropped + 1 ∧ (t.ring r).lost = (s.ring r).lost)
          else ∃ c, s.now ≤ c ∧ c ≤ s.now + 256 ∧ t.awaits c (.hostRingEntryVisible r) ∧
            t.ring r = { s.ring r with waiting := (s.ring r).waiting.map fun y =>
              if y.id = id then { y with accepted := true, from_ := c } else y }) ∧
  (∀ (s : State) (core : Nat) (hd cr : Word) (ar : Bool) (a : AckTo), s.arg = .localSignalApply core hd cr ar a →
    ∃ (t : State), exec .localSignalApply s = .next t ∧ sameFiles s t ∧ s.keeps t [] ∧ MsgPerformed s t a ∧
      (s.handleBreach core hd = none → t.changes core hd ar.toNat cr.toNat)) ∧
  (∀ (s : State) (p : Nat) (ready : Nat) (m : Msg) (rest : List (Nat × Msg)), s.arg = .unscheduledSend p →
    (s.port p).queue = (ready, m) :: rest → (s.port p).trained = true → ready ≤ s.now →
    (s.port p).nextUnscheduled s.now = s.now → (m.ack = true ∨ m.spkg ≠ s.pkgNo ∨ s.unacked.length < 64) →
    ∃ (t : State), exec .unscheduledSend s = .next t ∧ sameFiles s t ∧ s.keeps t [] ∧ (t.port p).queue = rest ∧
      (t.port p).sent = some (s.now, .bytes (msgBytes m)) ∧
      ∀ u, s.unacked.find? (fun u => u.m == m) = some u →
        t.awaits (s.now + 65536) (.messageRetransmit (msgKey m) m.sq u.losses)) ∧
  (∀ (s : State) (port : Nat) (bytes : List Byte), s.arg = .messageRelease port bytes →
    let m := msgOf bytes
    let free := (s.port port).trained = true ∧
      slotFlow (s.port port).rxTable (s.port port).rxAct (slotIdx s.now) = none
    ∃ (t : State), exec .messageRelease s = .next t ∧ sameFiles s t ∧ s.keeps t [] ∧
      ((s.port port).trained = false → t = s) ∧
      (free → msgWf m = false → m.ack = false → m.cls ≠ 4 →
        ∀ p, s.route m.spkg = some p → (s.now + 8, s.msgReply m 0xE5) ∈ (t.port p).queue) ∧
      (free → msgWf m = true → m.dpkg = s.pkgNo → m.ack = false → m.cls ≠ 4 → m.fid.getLsbD 15 = false →
        let x := s.inflowOf (msgKey m)
        (m.sq = x.1 → s.reorder = [] → t.awaits (max (s.now + 8) x.2) (deliveryOf m) ∧
          t.inflowOf (msgKey m) = (m.sq + 1, max (s.now + 8) x.2 + 1)) ∧
        (m.sq ≠ x.1 → (x.1 - m.sq).toNat < 2 ^ 31 → t.inflow = s.inflow ∧
          ∀ p, s.route m.spkg = some p → (s.now + 8, s.msgReply m 0) ∈ (t.port p).queue) ∧
        (2 ^ 31 ≤ (x.1 - m.sq).toNat → (∀ y ∈ s.reorder, msgKey y.1 ≠ msgKey m) → s.buffered (s.now + 8) < 2048 →
          t.reorder = s.reorder ++ [(m, s.now + 8)] ∧ t.agenda = s.agenda ∧ t.inflow = s.inflow)) ∧
      (free → msgWf m = true → m.dpkg = s.pkgNo → m.ack = false → m.cls ≠ 4 → m.fid.getLsbD 15 = true →
        if m.sq ∈ s.seenOf (msgKey m) then
          ∀ p, s.route m.spkg = some p → (s.now + 8, s.msgReply m 0) ∈ (t.port p).queue
        else t.awaits (s.now + 8) (deliveryOf m) ∧ m.sq ∈ t.seenOf (msgKey m)) ∧
      (free → msgWf m = true → (m.dpkg = s.pkgNo ∨ m.dpkg = 0x1FFFF) → m.cls = 4 → m.fid.getLsbD 15 = false →
        let x := s.inflowOf (msgKey m)
        if 1 ≤ (x.1 - m.sq).toNat ∧ (x.1 - m.sq).toNat ≤ 2048 then t = s
        else t.inflowOf (msgKey m) = (m.sq + 1, max (s.now + 8) x.2 + 1) ∧
          ∀ e, s.mgmtEvent m port = some e → t.awaits (max (s.now + 8) x.2) e) ∧
      (free → msgWf m = true → m.dpkg = s.pkgNo → m.ack = true →
        t.awaits (s.now + 8) (if m.payload.headD 0 = 0 then .acknowledgement m
          else .negativeAcknowledgement m (m.payload.headD 0).toNat)) ∧
      (free → msgWf m = true → m.dpkg ≠ s.pkgNo → ¬(m.cls = 4 ∧ m.dpkg = 0x1FFFF) → 1 < m.ttl.toNat →
        ∀ p, s.route m.dpkg = some p → (s.now + 8, { m with ttl := m.ttl - 1 }) ∈ (t.port p).queue)) ∧
  (∀ (s : State) (m : Msg) (done : AckTo), s.arg = .launchMessage m done →
    let q := bits (msgDword m 0) 53 48
    let narg := bits (msgDword m 0) 57 54
    let a := bits (msgDword m 0) 47 0
    let ks := s.recordStacks a
    let delivered := s.now - m.rsvd.toNat
    let good : Prop := s.ready.fe = true ∧ narg ≤ 8 ∧ ∃ r, s.captureHeat a = .heat r
    let remote : Prop := m.spkg ≠ s.pkgNo
    let told (t : State) : Prop := (m.spkg = s.pkgNo → done ≠ noAck → MsgPerformed s t done) ∧
      (remote → ∀ p, s.route m.spkg = some p → (delivered, s.msgReply m 0) ∈ (t.port p).queue)
    (m.rsvd1 = 0 → m.rsvd = 0 → ∃ (t : State), exec .launchMessage s = .next t ∧ sameFiles s t ∧ s.keeps t [] ∧
      ((∃ c, s.now < c ∧ (t.queue q).launches = (s.queue q).launches ∧
          (good → t.awaits c (.launchMessage { m with rsvd1 := 2, rsvd := BitVec.ofNat 17 (c - s.now) } done) ∧ told t) ∧
          (¬good → t.awaits c (.launchMessage { m with rsvd1 := 1, rsvd := BitVec.ofNat 17 (c - s.now) } done))) ∨
        (s.freeForAll ks s.now = s.now ∧
          ((∃ l, (t.queue q).launches = (s.queue q).launches ++ [l] ∧ l.delivered = s.now ∧ told t) ∨
            (s.now, LogEvent.launch 0xE4) ∈ t.logEvents)))) ∧
    (∀ r, m.rsvd1 ≠ 0 → s.freeForAll ks s.now = s.now → (s.useStacks ks).1 = none → s.captureHeat a = .heat r →
      s.ready.fe = true → narg ≤ 8 →
      ∃ (t : State) (l : LaunchReq), exec .launchMessage s = .next t ∧ sameFiles s t ∧ s.keeps t [] ∧
        (t.queue q).launches = (s.queue q).launches ++ [l] ∧ l.id = s.nextOp ∧ l.record = r ∧ l.anchor = msgDword m 1 ∧
        l.delivered = delivered ∧ s.now ≤ l.readyAt ∧ l.readyAt ≤ max s.now (delivered + 2048) ∧ l.args.length = 8 ∧
        (m.rsvd1 = 1 → told t) ∧
        (m.rsvd1 = 2 → ∀ p, (t.port p).queue = (s.port p).queue)) ∧
    (m.rsvd1 ≠ 0 → s.freeForAll ks s.now = s.now → ((s.useStacks ks).1 ≠ none ∨ ¬good) →
      ∃ (t : State), exec .launchMessage s = .next t ∧ sameFiles s t ∧ s.keeps t [] ∧
        (t.queue q).launches = (s.queue q).launches ∧ (s.now, LogEvent.launch 0xE4) ∈ t.logEvents ∧
        (m.rsvd1 = 1 → remote → ∀ p, s.route m.spkg = some p → (delivered, s.msgReply m 0xE4) ∈ (t.port p).queue))) ∧
  (∀ (s : State) (m : Msg), s.arg = .signalMessage m →
    let core := msgDword m 0 % 512
    let hd := BitVec.ofNat 32 (msgDword m 0 / 2 ^ 32)
    ∃ (t : State), exec .signalMessage s = .next t ∧ sameFiles s t ∧ s.keeps t [] ∧
      (core < 384 → s.handleBreach core hd = none →
        t.changes core hd ((msgDword m 0).testBit 9).toNat (BitVec.ofNat 32 (msgDword m 1)).toNat) ∧
      (384 ≤ core → t.barPend = s.barPend) ∧
      ∀ p, s.route m.spkg = some p → (s.now, s.msgReply m (if core < 384 then 0 else 0xE5)) ∈ (t.port p).queue) ∧
  (∀ (s : State) (m : Msg), s.arg = .bulkMessage m → s.memoryWf →
    let pa := msgDword m 0 % 2 ^ 48
    let data := m.payload.drop 16
    let n := 4096 - pa % 4096
    (m.rsvd1 = 0 → ∃ (t : State), exec .bulkMessage s = .next t ∧ sameFiles s t ∧ s.keeps t [] ∧
      t.awaits (s.freeGrain (stackOf pa) (s.now + 1)) (.bulkMessage { m with rsvd1 := 1, sq := BitVec.ofNat 32 data.length }) ∧
      (m.spkg ≠ s.pkgNo → ∀ p, s.route m.spkg = some p → (s.now, s.msgReply m 0) ∈ (t.port p).queue)) ∧
    (m.rsvd1 ≠ 0 → s.grainFree (stackOf pa) s.now = false →
      ∃ (t : State), exec .bulkMessage s = .next t ∧ sameFiles s t ∧ s.keeps t [] ∧
        t.awaits (s.freeGrain (stackOf pa) (s.now + 1)) (.bulkMessage m)) ∧
    (m.rsvd1 ≠ 0 → s.grainFree (stackOf pa) s.now = true →
      ∃ (t : State), exec .bulkMessage s = .next t ∧ sameFiles s t ∧
        (∀ a, t.look .hbm a = afterWrites (s.look .hbm a) [(pa, (data.take n).length, ofLeBytes (data.take n))] a) ∧
        (n < data.length → t.barPend = s.barPend ∧ ∃ c, s.now < c ∧ t.awaits c (.bulkMessage
          { m with payload := leBytes 8 (pa + n) ++ leBytes 8 (msgDword m 1) ++ data.drop n })) ∧
        (data.length ≤ n → (msgDword m 1).testBit 9 = true → msgDword m 1 % 512 < 384 →
          s.handleBreach (msgDword m 1 % 512) (BitVec.ofNat 32 (msgDword m 1 / 2 ^ 32)) = none →
          t.changes (msgDword m 1 % 512) (BitVec.ofNat 32 (msgDword m 1 / 2 ^ 32)) 0 m.sq.toNat))) ∧
  (∀ (s : State) (m : Msg) (u : Unacked), s.arg = .acknowledgement m → s.pending? (ackKey m) m.sq = some u →
    ∃ (t : State), exec .acknowledgement s = .next t ∧ sameFiles s t ∧ s.keeps t [] ∧
      t.unacked = s.unacked.filter (· ≠ u) ∧ MsgPerformed s t u.done ∧
      ∀ h core b, s.heat? u.done.hid = some h → h.status ≠ .saved → h.away = false → h.coreAt u.done.core = some core →
        u.done.bar = some b →
        s.handleBreach core b = none → t.changes core b 1 0) ∧
  (∀ (s : State) (m : Msg) (cause : Nat) (u : Unacked), s.arg = .negativeAcknowledgement m cause →
    s.pending? (ackKey m) m.sq = some u →
    (cause ≠ 0xE1 → ∃ (t : State), exec .negativeAcknowledgement s = .next t ∧ sameFiles s t ∧ s.keeps t [] ∧
      t.unacked = s.unacked.filter (· ≠ u) ∧ t.barPend = s.barPend ∧ MsgPerformed s t u.done ∧
      ∀ h core, s.heat? u.done.hid = some h → h.status ≠ .saved → h.coreAt u.done.core = some core →
        ∃ d, t.detects = s.detects ++ [d] ∧ d.cause = cause ∧ d.hid = u.done.hid ∧ d.core = core) ∧
    (cause = 0xE1 → u.losses + 1 < 8 → ∃ (t : State), exec .negativeAcknowledgement s = .next t ∧ sameFiles s t ∧
      s.keeps t [] ∧ { u with losses := u.losses + 1, lastNeg := true } ∈ t.unacked ∧
      t.awaits (s.now + 65536) (.messageRetransmit (msgKey u.m) u.m.sq (101 + u.losses)))) ∧
  (∀ (s : State) (k : FlowKey) (sq : Word) (n : Nat) (u : Unacked), s.arg = .messageRetransmit k sq n →
    s.pending? k sq = some u →
    (n = 100 + u.losses → ∃ (t : State), exec .messageRetransmit s = .next t ∧ sameFiles s t ∧ s.keeps t [] ∧
      t.queued u.m s.now ∧ t.unacked = s.unacked) ∧
    (n = u.losses → (∀ d ∈ s.agenda, d.ev ≠ .messageRetransmit k sq (100 + n)) → u.losses + 1 < 8 →
      ∃ (t : State), exec .messageRetransmit s = .next t ∧ sameFiles s t ∧ s.keeps t [] ∧ t.queued u.m s.now ∧
        { u with losses := u.losses + 1, lastNeg := false } ∈ t.unacked) ∧
    (n = u.losses → (∀ d ∈ s.agenda, d.ev ≠ .messageRetransmit k sq (100 + n)) → 8 ≤ u.losses + 1 →
      ∃ (t : State), exec .messageRetransmit s = .next t ∧ sameFiles s t ∧ s.keeps t [] ∧
        t.unacked = s.unacked.filter (· ≠ u) ∧
        ∀ h core, s.heat? u.done.hid = some h → h.status ≠ .saved → h.coreAt u.done.core = some core →
          ∃ d, t.detects = s.detects ++ [d] ∧ d.cause = 0xE0 ∧ d.hid = u.done.hid)) ∧
  (∀ (s : State) (q node hid mh mc : Nat), s.arg = .graphRelease q node hid mh mc →
    ∃ (t : State), exec .graphRelease s = .next t ∧ sameFiles s t ∧ s.keeps t [] ∧
      MsgPerformed s t { hid := mh, core := mc, bar := none } ∧
      (s.node? q node = none → (s.now, LogEvent.release (BitVec.ofNat 32 hid) q node) ∈ t.logEvents) ∧
      ∀ g n, (s.queue q).graph = some g → g.stopped = false → g.nodes[node]? = some n → node ≠ 0xFFFF →
        (t.node? q node).map (·.count) = some (n.count - 1) ∧
        (n.count = 1 → n.ran = false → n.running = false → n.readyAt = 0 → ∀ e, nodeEvent q node n.node = some e →
          t.awaits s.now e))

/-- HOST RINGS AND INTERRUPTS (R299-R301, R348): an entry becomes visible with its index behind it, when what its core issued
before has performed and the ring has room; freeing entries and enabling; the time rule. -/
def Obligations.HostRingSteps : Prop :=
  (∀ (s : State) (r : Nat) (e : RingEntry), s.arg = .hostRingEntryVisible r →
    (s.ring r).waiting = [e] → s.memoryWf → e.bytes.length = 32 →
    let x := s.ring r
    (e.accepted = true → e.from_ ≤ s.now → x.room ≠ 0 → (∀ o ∈ e.ops, s.unperformed o = false) →
      x.hbase.toNat + 32 * 2 ^ x.rlog + 8 ≤ 2 ^ 64 →
      ∃ (t : State), exec .hostRingEntryVisible s = .next t ∧ sameFiles s t ∧
        t.readHost (x.hbase.toNat + 32 * (x.pi.toNat % 2 ^ x.rlog)) 32 = e.bytes ∧
        t.readHost (x.hbase.toNat + 32 * 2 ^ x.rlog) 8 = leBytes 8 (x.pi + 1).toNat ∧
        (t.ring r).pi = x.pi + 1 ∧ (t.ring r).waiting = [] ∧ MsgPerformed s t e.done ∧
        (if (s.unit r).ccnt > 0 ∧ (s.unit r).ccnt ≤ (s.unit r).pend + 1 ∧ (s.unit r).en = true
          then (t.unit r).pend = 0 ∧ t.msix = s.msix ++ [(s.unit r).vec]
          else (t.unit r).pend = (s.unit r).pend + 1 ∧ t.msix = s.msix)) ∧
    ((e.accepted = false ∨ s.now < e.from_ ∨ x.room = 0) → exec .hostRingEntryVisible s = .next s) ∧
    (e.accepted = true → e.from_ ≤ s.now → x.room ≠ 0 → (∃ o ∈ e.ops, s.unperformed o = true) →
      ∃ (t : State) (c : Nat), exec .hostRingEntryVisible s = .next t ∧
        sameFiles s t ∧ s.keeps t [] ∧ t.ring r = x ∧ s.now < c ∧ t.awaits c (.hostRingEntryVisible r))) ∧
  (∀ (s : State) (r : Nat) (ci : Word), s.arg = .hostRingCiWrite r ci →
    (s.ready.fe = false → exec .hostRingCiWrite s = .next s) ∧
    (s.ready.fe = true →
      ∃ (t : State), exec .hostRingCiWrite s = .next t ∧ sameFiles s t ∧ s.keeps t [] ∧ t.ring r = { s.ring r with ci := ci } ∧
        t.awaits s.now (.hostRingEntryVisible r))) ∧
  (∀ (s : State) (r : Nat) (en : Bool), s.arg = .hostRingEnWrite r en → ((s.ring r).waiting.map (·.id)).Nodup →
    let held := (s.ring r).waiting.filter (·.accepted)
    ∃ (t : State), exec .hostRingEnWrite s = .next t ∧ sameFiles s t ∧ s.keeps t [] ∧
      (en = false → ∀ e ∈ held, (s.now, LogEvent.discard e.heatid e.team r false) ∈ t.logEvents) ∧
      t.ring r = if en then
          { s.ring r with
            en := true
            dropped := if (s.ring r).en then (s.ring r).dropped else 0
            lost := if (s.ring r).en then (s.ring r).lost else 0 }
        else { s.ring r with
               en := false
               waiting := (s.ring r).waiting.filter fun e => !e.accepted
               dropped := (s.ring r).dropped + BitVec.ofNat 32 held.length }) ∧
  (∀ s : State, s.arg = .coalesceTimer → (s.coalesce.map (·.1)).Nodup →
    ∃ (t : State), exec .coalesceTimer s = .next t ∧ sameFiles s t ∧ s.keeps t [] ∧ t.awaits (s.now + 64) .coalesceTimer ∧
      ∀ e ∈ s.coalesce,
        let due := (s.unit e.1).pend > 0 ∧ (s.unit e.1).ctim > 0 ∧ 64 * (s.unit e.1).ctim ≤ s.now - (s.unit e.1).first ∧
          (s.unit e.1).en = true
        (due → (t.unit e.1).pend = 0 ∧ (s.unit e.1).vec ∈ t.msix) ∧ (¬due → t.unit e.1 = s.unit e.1))

/-- QUEUES, COMMANDS, THE ARBITER AND GRAPHS (R55, R277-R288, R329, R347): what a write of PI or EN does, what a prefetch
captures, how each command goes on as the head, an admission, and each kind of node. -/
def Obligations.QueueSteps : Prop :=
  (∀ (s : State) (q : Nat) (pi : Word), s.arg = .queuePiWrite q pi →
    let d := (s.queue q).desc
    let bad := d.rlog < 4 ∨ 16 < d.rlog ∨ 2 ^ d.rlog - 16 < (pi - d.ci).toNat
    ∃ (t : State), exec .queuePiWrite s = .next t ∧ sameFiles s t ∧ s.keeps t [] ∧
      (s.ready.fe = false → t = s) ∧
      (s.ready.fe = true → bad → (t.queue q).desc = { d with en := false } ∧ t.mailbox.status = Config.statusCode 3) ∧
      (s.ready.fe = true → ¬bad → (t.queue q).desc.pi = pi ∧ (t.queue q).desc.en = d.en)) ∧
  (∀ (s : State) (q : Nat) (en : Bool), s.arg = .queueEnWrite q en →
    ∃ (t : State), exec .queueEnWrite s = .next t ∧ sameFiles s t ∧ s.keeps t [] ∧ (t.queue q).desc.en = en ∧
      (t.queue q).nsave = if en && !(s.queue q).desc.en then 0 else (s.queue q).nsave) ∧
  (∀ (s : State) (q e : Nat), s.arg = .prefetch q e → e < 2 ^ 64 →
    let d := (s.queue q).desc
    let bs := s.ringEntry d e
    let body := s.captureCommand bs false
    let ks := s.entryStacks d e
    let turn := s.prefetchBefore q e = false ∧ s.freeForAll ks s.now = s.now
    ((d.en = false ∨ s.ready.fe = false) → ∃ (t : State), exec .prefetch s = .next t ∧ sameFiles s t ∧ s.keeps t [] ∧
      (t.queue q).next = min (s.queue q).next e ∧ (t.queue q).commands = (s.queue q).commands ∧
      ∀ x ∈ t.agenda, ∀ n, n < 2 ^ 64 → x.ev ≠ .prefetch q n) ∧
    (d.en = true → s.ready.fe = true → (∀ k ∈ (s.queue q).commands, k.entry = e → k.sub = none → k.body.isRaw = false) →
      (¬turn → ∃ (t : State) (c : Nat), exec .prefetch s = .next t ∧ sameFiles s t ∧ s.keeps t [] ∧ s.now < c ∧
        t.awaits c (.prefetch q e) ∧ t.queues = s.queues) ∧
      (turn → ∃ (t : State), exec .prefetch s = .next t ∧ sameFiles s t ∧ s.keeps t [] ∧
        ((s.useStacks ks).1 = none → (∀ p n, body ≠ .indirect false p n) →
          ∃ c ∈ (t.queue q).commands, c.entry = e ∧ c.sub = none ∧ c.body = body ∧ c.readAt = s.now ∧ c.completed = false) ∧
        (∀ cause, (s.useStacks ks).1 = some cause →
          ∃ c ∈ (t.queue q).commands, c.entry = e ∧ c.sub = none ∧ c.body = .bad cause (kindOfType (bits (qword bs 0) 63 56))) ∧
        ((s.useStacks ks).1 = none → ∀ p n, body = .indirect false p n →
          (∀ i, i < n → ∀ c k, s.captureCommand (s.readHbm (p + 64 * i) 64) true ≠ .bad c k) →
          ∀ i, i < n → ∃ c ∈ (t.queue q).commands, c.entry = e ∧ c.sub = some i ∧
            c.body = s.captureCommand (s.readHbm (p + 64 * i) 64) true)))) ∧
  (∀ (s : State) (q e i : Nat) (raw : List Byte), s.arg = .prefetch q (e + 2 ^ 64 * (i + 1)) → e < 2 ^ 64 →
    (s.queue q).desc.en = true → s.ready.fe = true →
    (∀ k ∈ (s.queue q).commands, k.entry = e → k.sub = some i → k.body = .raw raw) →
    s.freeForAll (s.commandStacks raw true) s.now = s.now → (s.useStacks (s.commandStacks raw true)).1 = none →
    ∃ (t : State), exec .prefetch s = .next t ∧ sameFiles s t ∧ s.keeps t [] ∧
      ∀ c ∈ (s.queue q).commands, c.entry = e → c.sub = some i → c.completed = false →
        ∃ c' ∈ (t.queue q).commands, c'.entry = e ∧ c'.sub = some i ∧ c'.body = s.captureCommand raw true ∧ c'.readAt = s.now) ∧
  (∀ (s : State) (q : Nat) (c : Command), (s.queue q).head = some c → s.memoryWf →
    let read (p n : Nat) : Prop := s.freeForAll (s.bufferStacks true p n) s.now = s.now ∧
      (s.useStacks (s.bufferStacks true p n)).1 = none
    (s.arg = .commandNop q → c.body = .nop →
      ∃ (t : State), exec .commandNop s = .next t ∧ sameFiles s t ∧ t.commandDone q c.entry c.sub ∧
        (c.sub = none → s.recorded t q c.entry (plainCompletion c 0 3 0)) ∧
        ∀ rest, c.sub = none → (s.queue q).commands = c :: rest → (∀ k ∈ rest, k.entry ≠ c.entry ∧ k.completed = false) →
          (t.queue q).desc.ci = (s.queue q).desc.ci + 1 ∧ (t.queue q).commands.length = rest.length) ∧
    (∀ cause kind, c.body = .bad cause kind →
      (s.arg = .commandNop q → ∃ (t : State), exec .commandNop s = .next t ∧ CommandFails s t q c cause kind) ∧
      (s.arg = .commandHeat q → ∃ (t : State), exec .commandHeat s = .next t ∧ CommandFails s t q c cause kind) ∧
      (s.arg = .commandGraph q → ∃ (t : State), exec .commandGraph s = .next t ∧ CommandFails s t q c cause kind)) ∧
    (s.arg = .commandHeat q → (∃ r a args, c.body = .heat r a args) → exec .commandHeat s = .next s) ∧
    (s.arg = .commandGraph q → ∀ ns, c.body = .graph ns →
      ∃ (t : State) (g : Graph), exec .commandGraph s = .next t ∧ sameFiles s t ∧ s.keeps t [] ∧ (t.queue q).graph = some g ∧
        g.entry = c.entry ∧ g.sub = c.sub ∧ g.stopped = false ∧ g.nodes.map (·.node) = ns ∧
        g.nodes.map (·.count) = ns.map (·.init) ∧
        ∀ i n e, ns[i]? = some n → n.init = 0 → nodeEvent q i n = some e → t.awaits s.now e) ∧
    (s.arg = .commandIndirect q → ∀ vol p n, c.body = .indirect vol p n → c.sub = none →
      (c.expanded = true → ∃ (t : State), exec .commandIndirect s = .next t ∧ sameFiles s t ∧
        (∀ k ∈ (t.queue q).commands, k.entry = c.entry → k.sub = none → k.admitted = true) ∧
        ((∃ k ∈ (s.queue q).commands, k.entry = c.entry ∧ k.sub.isSome ∧ k.completed = false) → s.keeps t [])) ∧
      (c.expanded = false → s.now < s.freeForAll (s.bufferStacks true p n) s.now →
        ∃ (t : State), exec .commandIndirect s = .next t ∧ sameFiles s t ∧ s.keeps t [] ∧ t.queues = s.queues ∧
          t.awaits (s.freeForAll (s.bufferStacks true p n) s.now) (.commandIndirect q)) ∧
      (c.expanded = false → read p n → (∀ i, i < n → commandBad (s.readHbm (p + 64 * i) 64) true = false) →
        ∃ (t : State), exec .commandIndirect s = .next t ∧ sameFiles s t ∧ s.keeps t [] ∧
          ∀ i, i < n → ∃ k ∈ (t.queue q).commands, k.entry = c.entry ∧ k.sub = some i ∧ k.body = .raw (s.readHbm (p + 64 * i) 64)) ∧
      (c.expanded = false → read p n → c.completed = false → (∃ i, i < n ∧ commandBad (s.readHbm (p + 64 * i) 64) true = true) →
        ∃ (t : State), exec .commandIndirect s = .next t ∧ sameFiles s t ∧ s.keeps t [] ∧
          ∃ k ∈ (t.queue q).commands, k.entry = c.entry ∧ k.sub = none ∧ k.body = .bad 0xA1 3))) ∧
  (∀ s : State, s.arg = .arbiterStep →
    (∃ (t : State), exec .arbiterStep s = .next t ∧ t.now = s.now ∧ t.awaits (s.now + 64) .arbiterStep) ∧
    (s.heads = [] → ∃ (t : State), exec .arbiterStep s = .next t ∧ sameFiles s t ∧ s.keeps t [] ∧
      ∀ e ∈ s.queues, s.headOf e.1 = none → (∀ h ∈ s.heats, h.queue ≠ e.1) →
        (t.queue e.1).deficit = min (s.queue e.1).deficit 0) ∧
    ∀ q c r named args cl a, s.heads = [(q, .ring c r named args)] → r.armed = false →
      let lo := max (c.readAt + 2800) (s.now + 1024)
      anchorMissed r lo (anchorNamed s.now named) = false → 0 < (s.queue q).deficit →
      s.admissible r lo (anchorNamed s.now named) = some (cl, a) → s.memoryWf →
      ∃ (t : State) (x : Heat), exec .arbiterStep s = .next t ∧ x ∈ t.heats ∧ (∀ h ∈ s.heats, h ∈ t.heats) ∧
        x.hid = s.nextHid ∧ x.heatid = s.newHeatid ∧ x.queue = q ∧ x.clusters = cl ∧ x.anchor = a ∧ x.status = .scheduled ∧
        x.teams = (r.teams.map fun e => Team.start e (r.absCore cl e) (r.windowsOf e) args) ∧
        t.awaits a (.heatStart s.nextHid) ∧ t.awaits (a + r.stop) (.endCheck s.nextHid) ∧ t.pointer = q ∧
        (t.queue q).deficit = (s.queue q).deficit - ((r.nclus * r.stop : Nat) : Int) ∧
        s.keeps t [.scratch, .tiles] ∧
        ∀ y ∈ x.teams, (∀ o, o < 4096 * y.scnt → t.look .scratch (scratchKey y.core (4096 * y.sbase) + o) = 0) ∧
          ∀ o, o < 2 ^ 14 * y.acnt → t.look .tiles (tileKey (clusterOf y.core) y.abase 0 0 + o) = 0) ∧
  (∀ (s : State) (q i : Nat) (r : NodeRun), s.arg = .copyNode q i → s.node? q i = some r → s.memoryWf →
    let n := r.node
    let len := bits (n.xn 1) 63 32
    let dst := bits (n.xn 0) 47 0
    let peer := (n.xn 1).testBit 17
    let a := n.addr + r.moved
    let b := dst + r.moved
    let stack := if r.held = [] then stackOf a else stackOf b
    let inside := n.addr + len ≤ hbmEnd ∧ (peer = true ∨ dst + len ≤ hbmEnd)
    (r.running = false → s.ready.fe = false → exec .copyNode s = .next s) ∧
    (r.running = false → s.ready.fe = true → ¬inside → ∃ (t : State), exec .copyNode s = .next t ∧ sameFiles s t ∧
      t.graphStops q ∧ (s.now, LogEvent.graph q 0x61) ∈ t.logEvents) ∧
    (r.running = true ∨ (s.ready.fe = true ∧ inside) →
      (len ≤ r.moved → ∃ (t : State), exec .copyNode s = .next t ∧ sameFiles s t ∧ s.keeps t [] ∧
        t.awaits s.now (.copyNodeCompletion q i)) ∧
      (r.moved < len → s.grainFree stack s.now = false → ∃ (t : State), exec .copyNode s = .next t ∧ sameFiles s t ∧
        s.keeps t [] ∧ (t.node? q i).map (fun y => (y.moved, y.held)) = some (r.moved, r.held) ∧
        t.awaits (s.freeGrain stack (s.now + 1)) (.copyNode q i)) ∧
      (∀ cause, r.moved < len → s.grainFree stack s.now = true → (s.stackUse stack).1 = some cause →
        ∃ (t : State), exec .copyNode s = .next t ∧ sameFiles s t ∧ t.graphStops q ∧
          (s.now, LogEvent.graph q cause) ∈ t.logEvents) ∧
      (r.moved < len → s.grainFree stack s.now = true → (s.stackUse stack).1 = none →
        ∃ (t : State) (c : Nat), exec .copyNode s = .next t ∧ sameFiles s t ∧ s.now < c ∧ t.awaits c (.copyNode q i) ∧
          (r.held = [] → s.keeps t [] ∧
            let m := min (len - r.moved) (min (4096 - a % 4096) (if peer then 224 else 4096 - b % 4096))
            (peer = false → (t.node? q i).map (fun y => (y.moved, y.held)) = some (r.moved, s.readHbm a m)) ∧
            (peer = true → (t.node? q i).map (fun y => (y.moved, y.held)) = some (r.moved + m, []) ∧
              let x := s.copyMessage q i n r.moved (s.readHbm a m)
              ∃ u ∈ t.unacked, u.m = { x with sq := s.nextSeq (msgKey x) } ∧ u.done.hid = copyHid q i)) ∧
          (r.held ≠ [] → s.keeps t [.hbm] ∧ t.readHbm b r.held.length = r.held ∧
            (∀ x, (x < b ∨ b + r.held.length ≤ x) → t.look .hbm x = s.look .hbm x) ∧
            (t.node? q i).map (fun y => (y.moved, y.held)) = some (r.moved + r.held.length, []))))) ∧
  (∀ (s : State) (q i : Nat) (r : NodeRun) (g : Graph), s.arg = .copyNodeCompletion q i → s.node? q i = some r →
    (s.queue q).graph = some g → g.stopped = false →
    let n := r.node
    ((∃ u ∈ s.unacked, u.done.hid = copyHid q i) → ∃ (t : State), exec .copyNodeCompletion s = .next t ∧ sameFiles s t ∧
      s.keeps t [] ∧ t.awaits (s.now + 64) (.copyNodeCompletion q i)) ∧
    ((∀ u ∈ s.unacked, u.done.hid ≠ copyHid q i) → ∃ (t : State), exec .copyNodeCompletion s = .next t ∧ sameFiles s t ∧
      s.keeps t [] ∧ (t.node? q i).map (·.ran) = some true ∧ (t.node? q i).map (·.running) = some false ∧
      s.countsDown t q n.succ ∧
      ((n.xn 1).testBit 17 = false → (n.xn 2).testBit 9 = true → bits (n.xn 2) 8 0 < 384 →
        s.handleBreach (bits (n.xn 2) 8 0) (BitVec.ofNat 32 (bits (n.xn 2) 63 32)) = none →
        t.changes (bits (n.xn 2) 8 0) (BitVec.ofNat 32 (bits (n.xn 2) 63 32)) 0 (bits (n.xn 1) 63 32)))) ∧
  (∀ (s : State) (q i : Nat) (r : NodeRun) (g : Graph), s.arg = .conditionalNode q i → s.node? q i = some r →
    (s.queue q).graph = some g → g.stopped = false →
    let n := r.node
    let holds := nodeCompare (bits (n.xn 2) 3 0) (ofLeBytes (s.readHbm n.addr 8)) (n.xn 1)
    let arm := if holds then n.succ else (List.range 4).map fun j => bits (n.xn 0) (16 * j + 15) (16 * j)
    let named (j : Nat) : Prop := (if holds then (n.xn 2).testBit 4 else (n.xn 2).testBit 5) = true ∧
      bits (n.xn 2) 47 32 ≤ j ∧ j < bits (n.xn 2) 47 32 + bits (n.xn 2) 63 48
    (s.ready.fe = false → exec .conditionalNode s = .next s) ∧
    (s.ready.fe = true → hbmEnd < n.addr + 8 → ∃ (t : State), exec .conditionalNode s = .next t ∧ sameFiles s t ∧
      t.graphStops q ∧ (s.now, LogEvent.graph q 0x61) ∈ t.logEvents) ∧
    (s.ready.fe = true → n.addr + 8 ≤ hbmEnd → (∃ k m, k ≠ i ∧ named k ∧ s.node? q k = some m ∧ (m.running = true ∨ m.isReady = true)) →
      ∃ (t : State), exec .conditionalNode s = .next t ∧ sameFiles s t ∧ t.graphStops q ∧
        (s.now, LogEvent.graph q 0xC7) ∈ t.logEvents) ∧
    (s.ready.fe = true → n.addr + 8 ≤ hbmEnd → r.running = false →
      (∀ k m, named k → s.node? q k = some m → k ≠ i → m.running = false ∧ m.isReady = false) →
      ∃ (t : State), exec .conditionalNode s = .next t ∧ sameFiles s t ∧ s.keeps t [] ∧
        (¬named i → (t.node? q i).map (·.ran) = some true) ∧
        ∀ j m, j ≠ 0xFFFF → s.node? q j = some m →
          (named j → (t.node? q j).map (·.count) = some (m.node.pred - arm.count j) ∧ (t.node? q j).map (·.ran) = some false) ∧
          (¬named j → (t.node? q j).map (·.count) = some (m.count - arm.count j)))) ∧
  (∀ (s : State) (q : Nat) (g : Graph), s.arg = .graphEnd q → (s.queue q).graph = some g →
    (∃ n ∈ g.nodes, n.node.kind = 3 ∧ n.isReady = true) →
    ((∃ n ∈ g.nodes, n.running = true) → exec .graphEnd s = .next s) ∧
    ((∀ n ∈ g.nodes, n.running = false) → s.memoryWf → ∃ (t : State), exec .graphEnd s = .next t ∧ sameFiles s t ∧
      (t.queue q).graph = none ∧ t.commandDone q g.entry g.sub ∧
      ∀ c, (s.queue q).commands.find? (fun c => c.entry == g.entry && c.sub == g.sub) = some c → g.sub = none →
        s.recorded t q g.entry (plainCompletion c g.cause 2 g.charge)))

/-- THE LIFE OF A HEAT (R57, R59, R61, R62, R282, R285, R289-R292, R320-R325, R329, R337): its start, the checks that end it,
its completion, pre-emption, the halt, the quiesce with each policy, and the save. -/
def Obligations.HeatSteps : Prop :=
  (∀ (s : State) (hid : Nat) (h : Heat), s.heat? hid = some h →
    (s.arg = .heatStart hid → h.status = .scheduled → ∃ (t : State), exec .heatStart s = .next t ∧ sameFiles s t ∧
      s.keeps t [] ∧ (t.heat? hid).map (·.status) = some .running) ∧
    (s.arg = .heatStart hid → h.status = .armed → ∀ x, h.trigger = some x →
      ∃ (t : State), exec .heatStart s = .next t ∧ sameFiles s t ∧ s.keeps t [] ∧
        match if h.record.sched = true ∧ s.regatta.halted = true then none
          else s.anchorFrom h.record (max s.now (x + 256)) 0 with
        | some a => (t.heat? hid).map (fun y => (y.status, y.anchor, y.trigger)) = some (.scheduled, a, none) ∧
            h.record.grid ∣ a ∧ t.awaits a (.heatStart hid) ∧ t.awaits (a + h.record.stop) (.endCheck hid)
        | none => t.heats = s.heats ∧ t.awaits (s.now + 4096) (.heatStart hid)) ∧
    (s.arg = .armedTimeout hid → s.barPend = [] → s.detects = [] →
      (h.status = .armed → h.trigger = none → ∃ (t : State), exec .armedTimeout s = .next t ∧ sameFiles s t ∧
        s.keeps t [] ∧ s.released t hid 0x92 ∧ (t.heat? hid).map (·.anchor) = some 0 ∧
        t.logEvents = s.logEvents ++ [(s.now, .heat h.heatid 0x92)]) ∧
      ((h.status ≠ .armed ∨ h.trigger ≠ none) → exec .armedTimeout s = .next s)) ∧
    (s.arg = .endCheck hid → h.status = .running ∨ h.status = .closing → ∃ (t : State), exec .endCheck s = .next t ∧
      sameFiles s t ∧ s.keeps t [] ∧ (h.allRetired = true → t = s) ∧
      ∀ ti x, h.teams[ti]? = some x →
        (∀ gi g, x.gangs[gi]? = some g → g.retired = false → t.gangStopped ⟨hid, ti, gi⟩ ∧
          ∃ d ∈ t.detects, d.cause = 0x90 ∧ d.hid = hid ∧ d.src = 0 ∧ d.team = ti ∧ d.gang = gi ∧ d.fdix = g.dix) ∧
        (x.cox.retired = false → (t.cox? ⟨hid, ti⟩).map (·.stopped.isSome) = some true ∧
          ∃ d ∈ t.detects, d.cause = 0x90 ∧ d.hid = hid ∧ d.src = 1 ∧ d.team = ti ∧ d.fdix = x.cox.count))) ∧
  (∀ (s : State) (hid : Nat) (h : Heat), s.arg = .heatCompletion hid → s.heat? hid = some h → s.barPend = [] → s.detects = [] →
    h.away = false → h.clusters.Nodup → s.memoryWf →
    let quietEnd := h.abortCause = 0 ∧ h.status = .closing ∧ h.fault = none ∧ h.allRetired = true ∧ s.quiet h = true ∧
      s.msgQuiet h = true
    let actual := h.clusters.length * (s.now - h.chargeFrom)
    (quietEnd ∨ h.abortCause ≠ 0 →
      ∃ (t : State), exec .heatCompletion s = .next t ∧ t.heats = s.heats.filter (·.hid ≠ hid) ∧
        (t.queue h.queue).deficit =
          min ((s.queue h.queue).deficit + h.prov - ((actual : Nat) : Int)) ((64 * (s.queue h.queue).desc.qw : Nat) : Int) ∧
        (∀ cl ∈ h.clusters, ∀ p, p < 4 → (t.core (4 * cl + p)).sto = 0 ∧ (t.core (4 * cl + p)).atm = 0 ∧
          (t.core (4 * cl + p)).eng = 0 ∧ (t.core (4 * cl + p)).msg = 0 ∧
          ∀ i, i < 1024 → ((t.core (4 * cl + p)).bar i).alloc = false ∧
            ((t.core (4 * cl + p)).bar i).gen = ((s.core (4 * cl + p)).bar i).gen + 1) ∧
        (∀ e tag irq, h.origin = .ring e tag irq → t.commandDone h.queue e none ∧
          s.recorded t h.queue e
            { tag := tag.toNat, heatid := h.heatid.toNat, anchor := h.anchor, charge := h.charge + actual, cause := h.abortCause
              kind := 0, exit0 := h.exits.1, exitMax := h.exits.2.1, xteam := h.exits.2.2 }) ∧
        (∀ e i irq, h.origin = .indirect e i irq → t.commandDone h.queue e (some i)) ∧
        (h.origin = .launch → s.keeps t []) ∧
        t.spent = (if h.anchor = 0 then s.spent else s.spent ++ [{ record := h.record, anchor := h.anchor, ended := s.now }]) ∧
        (∀ ie ∈ h.flowList, (ie.2.role = 0 ∨ ie.2.role = 2) →
          { hid := hid, entry := ie.1, e := ie.2, base := h.flowBase ie.2 } ∈ t.gone) ∧
        (∀ i irq n g, h.origin = .node i irq → s.node? h.queue i = some n → (s.queue h.queue).graph = some g →
          (h.abortCause = 0 → g.stopped = false → (t.node? h.queue i).map (·.ran) = some true ∧ s.countsDown t h.queue n.node.succ) ∧
          (h.abortCause ≠ 0 → t.graphStops h.queue))) ∧
    (¬quietEnd → h.abortCause = 0 → h.status ≠ .running → exec .heatCompletion s = .next s)) ∧
  (∀ (s : State) (hid : Nat) (h : Heat), s.arg = .heatCompletion hid → s.heat? hid = some h → s.barPend = [] → s.detects = [] →
    h.away = true → h.prov = 0 → h.abortCause ≠ 0 →
    ∃ (t : State), exec .heatCompletion s = .next t ∧ t.heats = s.heats.filter (·.hid ≠ hid) ∧ t.spent = s.spent ∧
      (t.queue h.queue).deficit = (s.queue h.queue).deficit) ∧
  (∀ (s : State) (hid : Nat) (h : Heat) (k : HaltKind) (x : Nat), s.heat? hid = some h → h.halt = some (k, x) →
    h.anchor + x ≤ s.now → h.status = .running ∨ h.status = .closing ∨ h.status = .scheduled →
    (s.arg = .faultHalt hid → ∃ (t : State), exec .faultHalt s = .next t ∧ sameFiles s t ∧ s.keeps t [] ∧
      (t.heat? hid).map (·.status) = some .halting ∧
      ∀ d, h.fault = some d → h.record.sched = true → s.regatta.member = true → s.policyOf h d = 0 ∨ s.policyOf h d = 2 →
        t.awaits s.now (.halt s.pkgNo.toNat d.cause (roundUp 8192 (h.anchor + h.faultAt + s.regatta.haltLead)) none)) ∧
    (s.arg = .preemptionHalt hid → ∃ (t : State), exec .preemptionHalt s = .next t ∧ sameFiles s t ∧ s.keeps t [] ∧
      (t.heat? hid).map (·.status) = some .halting)) ∧
  (∀ (s : State) (hid : BitVec 32) (by' : BitVec 64),
    let H (h : Heat) := if s.now + 64 ≤ h.anchor then 0 else roundUp h.rho (s.now + 64 - h.anchor)
    let halts (t : State) (h : Heat) (ds : List Nat) : Prop := sameFiles s t ∧ s.keeps t [] ∧
      (t.heat? h.hid).map (fun y => (y.halt, y.discards, y.saveCost)) = some (some (.preempt, H h), ds, h.saveSum) ∧
      t.awaits (h.anchor + H h) (.preemptionHalt h.hid)
    (∀ h, s.heats.find? (fun h => h.heatid == hid) = some h → s.heat? h.hid = some h → h.record.sched = false → h.halt = none →
      h.status = .scheduled ∨ h.status = .running ∨ h.status = .closing →
      (s.arg = .preemptSave hid by' → ∃ (t : State), exec .preemptSave s = .next t ∧ halts t h []) ∧
      (s.arg = .preemptEstimate hid by' → s.named by'.toNat < h.anchor + h.record.stop + 1024 →
        ∃ (t : State) (ds : List Nat), exec .preemptEstimate s = .next t ∧ halts t h ds ∧
          ∀ i, i ∈ ds ↔ ∃ x, h.teams[i]? = some x ∧ x.restart = true ∧ ((H h : Nat) : Int) - x.sigma ≤ 2 * x.saveTime ∧
            roundUp 8192 (H h) ≤ h.record.stop / 2) ∧
      (s.arg = .preemptEstimate hid by' → h.anchor + h.record.stop + 1024 ≤ s.named by'.toNat → exec .preemptEstimate s = .next s) ∧
      (s.arg = .preemptDrain hid by' → exec .preemptDrain s = .next s)) ∧
    (∀ h, s.heats.find? (fun h => h.heatid == hid) = some h → h.record.sched = false → h.status = .restoring →
      let again (t : State) : Prop := t.heats = s.heats ∧ t.awaits (max (s.now + 1) (h.anchor + h.resumeStop)) s.arg
      (s.arg = .preemptSave hid by' → ∃ (t : State), exec .preemptSave s = .next t ∧ again t) ∧
      (s.arg = .preemptEstimate hid by' → ∃ (t : State), exec .preemptEstimate s = .next t ∧ again t) ∧
      (s.arg = .preemptDrain hid by' → ∃ (t : State), exec .preemptDrain s = .next t ∧ again t)) ∧
    ((∀ h ∈ s.heats, h.heatid ≠ hid) → hid = 0 ∨ s.nextHeatid ≤ hid →
      let told := ({ s with mailbox := { s.mailbox with status := Config.statusCode 1 } } : State)
      (s.arg = .preemptSave hid by' → exec .preemptSave s = .next told) ∧
      (s.arg = .preemptEstimate hid by' → exec .preemptEstimate s = .next told) ∧
      (s.arg = .preemptDrain hid by' → exec .preemptDrain s = .next told))) ∧
  (∀ (s : State) (hid mode : BitVec 32), s.arg = .preemptionRequestUnassigned hid mode →
    exec .preemptionRequestUnassigned s = .next { s with mailbox := { s.mailbox with status := Config.statusCode 2 } }) ∧
  (∀ (s : State) (hid : Nat) (h : Heat), s.arg = .quiesce hid → s.heat? hid = some h → h.status = .halting → s.quiet h = true →
    s.barPend = [] → s.detects = [] →
    (h.fault = none → ∀ x, h.halt = some (.preempt, x) →
      (h.allRetired = true → s.msgQuiet h = true → ∃ (t : State), exec .quiesce s = .next t ∧ sameFiles s t ∧ s.keeps t [] ∧
        (t.heat? hid).map (·.status) = some .closing ∧ t.awaits s.now (.heatCompletion hid)) ∧
      (h.allRetired = false → s.env.doubleBits = [] → ∃ (t : State) (c : Nat), exec .quiesce s = .next t ∧
        sameFiles s t ∧ s.keeps t [] ∧ (t.heat? hid).map (·.status) = some .saving ∧ s.now < c ∧
        t.awaits c (.saveComplete hid) ∧ (∀ d ∈ t.agenda, h.waits d.ev = false) ∧
        ((∀ d ∈ s.agenda, s.landsFor hid d.ev = false) → c ≤ s.now + h.saveCost + 4096))) ∧
    (∀ d, h.fault = some d → h.record.sched = false →
      let words := trapWords (s.finalIter h d) h h.nsec h.faultAt h.haltCyc
      (s.policyOf h d ≠ 3 → ∃ (t : State), exec .quiesce s = .next t ∧ (t.heat? hid).map (·.trap) = some words ∧
        t.faultLog = s.faultLog ++ [(List.range 64).map fun i => Store.get 0 words i] ∧
        (s.mailbox.logBase = none → s.keeps t []) ∧ (∀ e ∈ t.agenda, h.waits e.ev = false) ∧
        (s.policyOf h d = 0 → t.awaits (s.now + 256) (.handlerEntry hid)) ∧
        (s.policyOf h d = 1 → s.released t hid d.cause) ∧
        (s.policyOf h d = 2 → s.env.doubleBits = [] → ∃ c, s.now < c ∧ t.awaits c (.saveComplete hid))) ∧
      (s.policyOf h d = 3 → ∃ (t : State), exec .quiesce s = .next t ∧ t.fatal = some d.cause ∧ t.ready.fe = false ∧
        ∀ y ∈ t.heats, y.abortCause = d.cause))) ∧
  ∀ (s : State) (hid : Nat) (h : Heat), s.arg = .saveComplete hid → s.heat? hid = some h → h.status = .saving → s.hidsApart →
    s.memoryWf →
    let actual := h.clusters.length * (s.now - h.chargeFrom)
    let d := (s.queue h.queue).desc
    let a := d.cbase.toNat + 32 * 2 ^ d.rlog + 32 * ((s.queue h.queue).nsave % 16)
    ∃ (t : State) (x : Heat), exec .saveComplete s = .next t ∧ sameFiles s t ∧ s.keeps t [.hbm, .host] ∧ t.heat? hid = some x ∧
      x.status = .saved ∧ x.away = true ∧ x.checkpoints = h.checkpoints + 1 ∧ x.charge = h.charge + actual ∧ x.image.isSome ∧
      (t.queue h.queue).saves = (s.queue h.queue).saves ++ [hid] ∧ (t.queue h.queue).nsave = (s.queue h.queue).nsave + 1 ∧
      t.mailbox.imageHeat = h.heatid ∧ x.image = some (s.imageBase h) ∧ t.mailbox.imageAt = BitVec.ofNat 48 (s.imageBase h) ∧
      (∀ tm ∈ x.teams, tm.kdirty = 0 ∧ tm.gdirty = 0 ∧ tm.tdirty = 0 ∧ ∀ g ∈ tm.gangs, g.vdirty = 0 ∧ g.mxdirty = 0) ∧
      (∀ cl ∈ h.clusters, ∀ p, p < 4 → (t.core (4 * cl + p)).landing = none ∧ (t.core (4 * cl + p)).msg = 0) ∧
      ∀ e tag irq, h.origin = .ring e tag irq →
        (if d.cloc then t.readHbm (a % 2 ^ 48) 32 else t.readHost (a % 2 ^ 64) 32) =
          ({ tag := tag.toNat, heatid := h.heatid.toNat, anchor := h.anchor, charge := h.charge + actual
             cause := (h.fault.map (·.cause)).getD 0, kind := 1, exit0 := h.exits.1, exitMax := h.exits.2.1
             xteam := h.exits.2.2 } : Completion).bytes

/-- RESUMING (R294, R295, R322, R323, R325, R326, R335, R340, R352): handler mode, the restore with its checks, each agent at
its stop point, revocation, the policies, and moving a checkpoint. -/
def Obligations.ResumeSteps : Prop :=
  (∀ (s : State) (hid : Nat) (h : Heat) (d : Detect) (x : Team), s.arg = .handlerEntry hid → s.heat? hid = some h →
    h.fault = some d → h.teams[d.team]? = some x → h.status = .quiesced → h.abortCause = 0 →
    ∃ (t : State) (c : Cox) (k : Handler), exec .handlerEntry s = .next t ∧ s.keeps t [] ∧
      (t.heat? hid).map (·.status) = some .handler ∧ t.cox? ⟨hid, d.team⟩ = some c ∧ c.handler = some k ∧
      c.pc = (s.queue h.queue).hentry.toNat ∧ c.clause = none ∧ c.stack = [] ∧ c.flags = 0 ∧ c.wait = .none ∧ c.retired = false ∧
      c.stopped = none ∧ c.resume = none ∧ k.stopped = x.cox.stopped ∧ k.resume = x.cox.resume ∧
      c.count = x.cox.count ∧ c.exitCode = x.cox.exitCode ∧ k.stack = x.cox.stack ∧ k.flags = x.cox.flags ∧ k.p = x.p ∧
      k.pc = x.cox.pc ∧ k.clause = x.cox.clause ∧ k.retired = x.cox.retired ∧ k.entered = s.now ∧
      (∀ n, t.reg (.k ⟨hid, d.team⟩ n) = s.reg (.k ⟨hid, d.team⟩ n)) ∧ t.awaits (s.now + 65536) (.handlerTimeout hid)) ∧
  (∀ (s : State) (hid : Nat) (h : Heat), s.arg = .handlerTimeout hid → s.heat? hid = some h →
    let late := h.status = .handler ∧ ∃ x ∈ h.teams, ∃ k, x.cox.handler = some k ∧ k.entered + 65536 ≤ s.now
    (late → ∃ (t : State), exec .handlerTimeout s = .next t ∧ sameFiles s t ∧ s.keeps t [] ∧ s.released t hid 0xF8) ∧
    (¬late → exec .handlerTimeout s = .next s)) ∧
  (∀ (s : State) (hid : Nat) (h : Heat), s.arg = .restore hid → s.heat? hid = some h → h.status = .restoring →
    let late := h.anchor + h.resumeStop ≤ s.now
    let pol := s.policyOf h { Detect.blank hid (externalRank 0 0x88) 0x88 8 with core := 0 }
    let sound := h.away = false ∨ s.imageBreach h = none
    (late → pol = 2 → ∃ (t : State), exec .restore s = .next t ∧ sameFiles s t ∧
      (h.away = true → (t.heat? hid).map (·.status) = some .saved ∧ hid ∈ (t.queue h.queue).saves) ∧
      (h.away = false → s.env.doubleBits = [] → (t.heat? hid).map (·.status) = some .saving ∧
        ∃ c, s.now < c ∧ t.awaits c (.saveComplete hid))) ∧
    (late → pol = 3 → ∃ (t : State), exec .restore s = .next t ∧ t.fatal = some 0x88 ∧ t.ready.fe = false ∧
      ∀ y ∈ t.heats, y.abortCause = 0x88) ∧
    (late → pol ≠ 2 → pol ≠ 3 → ∃ (t : State), exec .restore s = .next t ∧ sameFiles s t ∧ s.keeps t [] ∧
      s.released t hid 0x88) ∧
    (¬late → h.away = true → ∀ cause, s.imageBreach h = some cause → (cause = 0xA0 ∨ cause = 0xA1) ∧ ∃ (t : State),
      exec .restore s = .next t ∧ sameFiles s t ∧ s.keeps t [] ∧ s.released t hid cause) ∧
    (¬late → sound → s.resolvePages h.record = none → ∃ (t : State), exec .restore s = .next t ∧
      sameFiles s t ∧ s.keeps t [] ∧ s.released t hid 0xA1) ∧
    (¬late → sound → ∀ ps, s.resolvePages h.record = some ps → h.teams.length = h.record.teams.length →
      s.hidsApart → h.halt = none → ∃ (t : State) (x : Heat), exec .restore s = .next t ∧ t.heat? hid = some x ∧
        x.status = .restoring ∧
        x.away = false ∧ x.halt = none ∧ x.fault = none ∧ x.discards = [] ∧ x.anchor = h.anchor ∧ s.keeps t [.scratch, .tiles] ∧
        t.awaits (max s.now (h.anchor + h.resumeStop)) (.agentResume hid (.flow 4096)) ∧
        (∀ y ∈ h.stops, t.awaits (max s.now (h.anchor + y.2)) (.agentResume hid y.1)) ∧
        (∀ y ∈ h.parked, t.awaits (max s.now (h.anchor + y.at_)) y.ev) ∧
        (h.away = false → h.discards = [] → s.keeps t [] ∧ sameFiles s t ∧
          ∀ ti tm, h.teams[ti]? = some tm →
            (∀ gi g, tm.gangs[gi]? = some g → (t.gang? ⟨hid, ti, gi⟩).map (fun y => y.groups.map fun gr => (gr.quads, gr.stopped)) =
              some (g.groups.map fun gr => (gr.quads,
                (h.stops.find? fun y => y.1 == .gang ti gi gr.quads).map fun y => y.2 - tm.shift))) ∧
            (t.cox? ⟨hid, ti⟩).map (·.stopped) = some ((h.stops.find? fun y => y.1 == .cox ti).map fun y => y.2 - tm.shift)) ∧
        ∀ ti e was, ti ∈ h.discards → h.record.teams[ti]? = some e → h.teams[ti]? = some was → h.discards.Nodup →
          ∃ tm, t.team? ⟨hid, ti⟩ = some tm ∧ tm.k = (Team.start e tm.core tm.wins h.args).k ∧ tm.cox.pc = e.centry ∧
            tm.core = was.core ∧ tm.shift = was.shift ∧ tm.atomSeq = was.atomSeq ∧ (s.memoryWf →
            ∀ o, o < 4096 * tm.scnt → t.look .scratch (scratchKey tm.core (4096 * tm.sbase) + o) = 0))) ∧
  (∀ (s : State) (hid : Nat) (h : Heat) (ag : StopAgent), s.arg = .agentResume hid ag → s.heat? hid = some h →
    (h.status = .restoring ∨ (h.status = .running ∧ h.halt = none) →
      ∃ (t : State), exec .agentResume s = .next t ∧ s.keeps t [] ∧ sameFiles s t ∧
        (h.status = .restoring → (t.heat? hid).map (·.status) = some (if h.allRetired then .closing else .running)) ∧
        match ag with
        | .gang ti gi quads => ∀ g, s.gang? ⟨hid, ti, gi⟩ = some g →
            (t.gang? ⟨hid, ti, gi⟩).map (fun y => y.groups.map fun gr => (gr.quads, gr.stopped)) =
              some (g.groups.map fun gr => (gr.quads, if gr.quads &&& quads = 0 then gr.stopped else none))
        | .cox ti => ∀ c, s.cox? ⟨hid, ti⟩ = some c → (t.cox? ⟨hid, ti⟩).map (·.stopped) = some none
        | .access op => ∀ o, s.gop? op = some o → (t.gop? op).map (·.hot) = some false ∧
            (o.isRecord = true → t.awaits (s.teamBase o.teamRef + o.replayAt) (.stackAccess (.record op)))
        | .scratch n => ∀ e, h.hot[n]? = some e → ((t.heat? hid).bind (·.hot[n]?)).map (·.2.lanes) = some []
        | .command c => ∀ x, s.cmd? c = some x → (t.cmd? c).map (fun y => (y.failed, y.held)) = some (none, false)
        | .flow i => ∀ y, (t.heat? hid).map (·.stops) = some y → ∀ e ∈ y, e.1 ≠ .flow i) ∧
    (h.status ≠ .restoring → h.status ≠ .running → h.status ≠ .closing → exec .agentResume s = .next s)) ∧
  (∀ (s : State) (hid : BitVec 32) (team window : Nat), s.arg = .revoke hid team window →
    (∀ h, s.heats.find? (fun h => h.heatid == hid) = some h → ∃ (t : State) (r : Nat), exec .revoke s = .next t ∧
      sameFiles s t ∧ s.keeps t [] ∧ s.now + 4096 ≤ r ∧ r < s.now + 4160 ∧ r % 64 = 0 ∧
      t.mailbox.revokeAt = BitVec.ofNat 64 r ∧ t.mailbox.revokeFault = false ∧ t.awaits r (.revocation h.hid team window)) ∧
    ((∀ h ∈ s.heats, h.heatid ≠ hid) → exec .revoke s = .next { s with mailbox := { s.mailbox with status := Config.statusCode 1 } })) ∧
  (∀ (s : State) (hid team window : Nat), s.arg = .revocation hid team window → ∃ (t : State), exec .revocation s = .next t ∧
    sameFiles s t ∧ s.keeps t [] ∧ ∀ x w, s.team? ⟨hid, team⟩ = some x → x.wins[window]? = some w →
      ((t.team? ⟨hid, team⟩).bind (·.wins[window]?)) = some { w with revoked := some s.now }) ∧
  (∀ (s : State) (q cause : Nat) (pol : BitVec 2) (e : Option (BitVec 56)), s.arg = .policySet q cause pol e →
    ∃ (t : State), exec .policySet s = .next t ∧ sameFiles s t ∧ s.keeps t [] ∧
      (t.queue q).hentry = e.getD (s.queue q).hentry ∧
      (1 ≤ cause → cause ≤ 0xDF → ∀ h d, h.queue = q → d.cause = cause → ¬(6 ≤ d.src ∧ d.src ≤ 8) → (t.queue q).hentry ≠ 0 →
        t.policyOf h d = pol.toNat) ∧
      (cause = 0 ∨ 0xDF < cause → (t.queue q).policies = (s.queue q).policies)) ∧
  ∀ (s : State) (heatid : BitVec 32) (pkg : Nat) (dest : BitVec 48), s.arg = .checkpointMove heatid pkg dest →
    (∀ h a, s.heats.find? (fun h => h.heatid == heatid && h.status == .saved) = some h → h.image = some a →
      let c := s.freeForAll (stacksOf a h.imageLen) s.now
      ∃ (t : State), exec .checkpointMove s = .next t ∧ sameFiles s t ∧ s.keeps t [] ∧
        (c ≤ s.now → t.unacked.length = s.unacked.length + (h.imageLen + 223) / 224) ∧
        (s.now < c → t.unacked = s.unacked ∧ t.awaits c (.checkpointMove heatid pkg dest))) ∧
    ((∀ h ∈ s.heats, h.heatid = heatid → h.status ≠ .saved) → exec .checkpointMove s = .next s)

/-- THE CODER OF THE SAVE IMAGE LOSES NOTHING (R293): decoding a granule's or tile's code gives its words back, whatever
they are, and reads no padding. -/
def Obligations.ImageCodeRoundTrip : Prop :=
  ∀ ws : List Word, decodeWords (codeOf ws).length 0 ws.length (codeOf ws) = ws

/-- THE REGATTA AND ITS CLOCK (R15-R18, R276, R346, R355, R356, R358): the halt and what each package does in it, the
conclusion, the resumption, exclusion; and the time protocol. -/
def Obligations.RegattaSteps : Prop :=
  (∀ (s : State) (ini cause ph : Nat) (from' : Option Nat), s.arg = .halt ini cause ph from' →
    (s.regatta.forwarded.contains (ini, ph) = true → exec .halt s = .next s) ∧
    (s.regatta.forwarded.contains (ini, ph) = false → ∃ (t : State) (least : Nat), exec .halt s = .next t ∧ sameFiles s t ∧
      s.keeps t [] ∧ t.regatta.ph = some least ∧ least ≤ ph ∧ (∀ x, s.regatta.ph = some x → least = min x ph) ∧
      (s.regatta.ph = none → least = ph) ∧ ini ∈ t.regatta.initiators ∧ (ini, ph) ∈ t.regatta.forwarded ∧
      (∀ p, p < 16 → (s.port p).trained = true → from' ≠ some p → s.sends t p 4 (regattaPayload 0x20 cause ph 0 ini)) ∧
      t.awaits (max s.now least) (.regattaHalt least) ∧ t.awaits (max s.now least + 14000000000) (.haltedTimeout least))) ∧
  (∀ (s : State) (ph : Nat), s.arg = .regattaHalt ph →
    (s.regatta.ph ≠ some ph ∨ s.regatta.halted = true → exec .regattaHalt s = .next s) ∧
    (s.regatta.ph = some ph → s.regatta.halted = false → ∃ (t : State), exec .regattaHalt s = .next t ∧ sameFiles s t ∧
      s.keeps t [] ∧ t.regatta.halted = true ∧ t.mailbox.regattaHalted = true ∧ t.mailbox.regattaPh = ph ∧
      (s.hidsApart → ∀ x ∈ t.heats, x.fault = none → x.record.sched = true →
        x.status ≠ .scheduled ∧ x.status ≠ .running ∧ x.status ≠ .closing) ∧
      ∀ h, s.heat? h.hid = some h → s.hidsApart → h.haltable = true →
        (h.fault = none ∨ h.halt = none → (t.heat? h.hid).map (·.halt) = some (some (.regatta, ph - h.anchor))) ∧
        (∀ k x, h.fault.isSome = true → h.halt = some (k, x) →
          (t.heat? h.hid).map (·.halt) = some (some (k, min x (ph - h.anchor)))) ∧
        (h.fault = none → h.status ≠ .restoring ∨ s.restorePending h.hid = false →
          (t.heat? h.hid).map (·.status) = some .halting))) ∧
  (∀ (s : State) (pkg leaving arg ph ini : Nat), s.arg = .halted pkg leaving arg ph ini →
    (s.regatta.ph ≠ some ph → exec .halted s = .next s) ∧
    (s.regatta.ph = some ph → ∃ (t : State), exec .halted s = .next t ∧ sameFiles s t ∧ s.keeps t [] ∧
      (pkg, leaving == 1, arg) ∈ t.regatta.reported ∧
      (s.regatta.coordinator = some s.pkgNo.toNat → (∀ p ∈ s.regatta.packages, p ≠ pkg → ∃ r ∈ s.regatta.reported, r.1 = p) →
        Concludes s t ph))) ∧
  (∀ (s : State) (ph : Nat), s.arg = .haltedTimeout ph →
    let mine := s.regatta.ph = some ph ∧ s.regatta.halted = true ∧ s.regatta.coordinator = some s.pkgNo.toNat
    (mine → ∃ (t : State), exec .haltedTimeout s = .next t ∧ sameFiles s t ∧ s.keeps t [] ∧ Concludes s t ph) ∧
    (¬mine → exec .haltedTimeout s = .next s)) ∧
  (∀ (s : State) (d ph ini : Nat), s.arg = .resume d ph ini →
    (s.regatta.ph ≠ some ph ∨ s.regatta.halted = false → exec .resume s = .next s) ∧
    (s.regatta.ph = some ph → s.regatta.halted = true → s.hidsApart → ∃ (t : State), exec .resume s = .next t ∧
      s.keeps t [.hbm, .host] ∧
      t.regatta.halted = false ∧ t.regatta.ph = none ∧ t.mailbox.regattaHalted = false ∧ t.mailbox.regattaDelta = d ∧
      (∀ h ∈ s.heats, (∀ x ∈ s.heats, x.hid ≠ h.hid → x.record.sched = false) → h.record.sched = true → h.abortCause = 0 →
        h.status = .quiesced →
        let others : State := { s with heats := s.heats.filter fun x => x.hid ≠ h.hid }
        others.powerOk (h.record.load (h.anchor + d) h.resumeStop) = true →
        (t.heat? h.hid).map (fun x => (x.status, x.anchor)) = some (.restoring, h.anchor + d) ∧
        ∃ c, t.awaits c (.restore h.hid)) ∧
      (∀ h ∈ s.heats, (∀ x ∈ s.heats, x.hid ≠ h.hid → x.record.sched = false) → h.record.sched = true → h.abortCause = 0 →
        h.status = .quiesced →
        let others : State := { s with heats := s.heats.filter fun x => x.hid ≠ h.hid }
        let pol := s.policyOf h { Detect.blank h.hid (externalRank 0 0x88) 0x88 8 with core := 0 }
        others.powerOk (h.record.load (h.anchor + d) h.resumeStop) = false → pol ≠ 2 → pol ≠ 3 → s.released t h.hid 0x88) ∧
      ((∀ h ∈ s.heats, h.record.sched = false ∨ h.abortCause ≠ 0 ∨ (h.status ≠ .saved ∧ h.status ≠ .quiesced)) →
        s.keeps t [] ∧ sameFiles s t) ∧
      (∀ h ∈ s.heats, h.record.sched = false → t.fatal = none → (t.heat? h.hid) = some h) ∧
      (ini ≠ s.pkgNo.toNat → ∀ p, s.route (BitVec.ofNat 17 ini) = some p → s.sends t p 4 (regattaPayload 0x23 0 ph 0 ini)))) ∧
  (∀ (s : State) (pkg : Nat), s.arg = .resumed pkg → ∃ (t : State), exec .resumed s = .next t ∧ sameFiles s t ∧ s.keeps t [] ∧
    t.logEvents = s.logEvents ++ [(s.now, .resumed pkg)]) ∧
  (∀ (s : State) (pkg ph ini : Nat), s.arg = .exclude pkg ph ini → ∃ (t : State), exec .exclude s = .next t ∧ sameFiles s t ∧
    s.keeps t [] ∧ pkg ∉ t.regatta.packages ∧ (∀ p ∈ s.regatta.packages, p ≠ pkg → p ∈ t.regatta.packages) ∧
    ∀ h ∈ s.heats, h.abortCause = 0 →
      ((∃ p, s.route (BitVec.ofNat 17 pkg) = some p ∧ p ∈ h.record.ports) → (∃ x ∈ t.heats, x.hid = h.hid ∧ x.abortCause = 0xE2) ∧
        t.awaits s.now (.heatCompletion h.hid)) ∧
      ((∀ p, s.route (BitVec.ofNat 17 pkg) = some p → p ∉ h.record.ports) → s.hidsApart → h ∈ t.heats)) ∧
  (∀ (s : State) (p : Nat) (sent : Bool) (origin : Nat), s.arg = .sync p sent origin →
    ∃ (t : State), exec .sync s = .next t ∧ sameFiles s t ∧ s.keeps t [] ∧
      (sent = true → (s.port p).trained = true →
        (s.ptp.decided = true → s.ptp.slavePort ≠ some p →
          s.sends t p 4 (s.ptpPayload 0 [s.ptpTime s.now / 65536, s.ptpTime s.now % 65536])) ∧
        ∃ c, s.now + 10937500 ≤ c ∧ c < s.now + 10937500 + 8192 ∧ c % 8192 = 0 ∧ t.awaits c (.sync p true 0)) ∧
      (sent = true → (s.port p).trained = false → t = s) ∧
      (sent = false → s.ptp.slavePort ≠ some p ∨ s.regatta.member = false → t = s) ∧
      (sent = false → s.ptp.slavePort = some p → s.regatta.member = true → ∀ seen due, (s.port p).syncAt = some (seen, due) →
        -- the marker left its sender in the PTP time that the Sync names, and 1,120 c less the deskew later it came here (R18)
        let theirs : Int := 7 * origin + 65536 * 5 * 1120
        let ours : Int := 65536 * (7 * s.regatta.epoch + 5 * (seen + (s.port p).deskew))
        let near := theirs - ours ≤ 4 * 7 * 65536 ∧ ours - theirs ≤ 4 * 7 * 65536
        (near → t.ptpLock = true ∧ t.ready.ptp = true) ∧ (¬near → s.ptpLock = true → t.awaits s.now .ptpLockLost) ∧
        (¬near → s.ptpLock = false → t = s))) ∧
  (∀ (s : State) (p : Nat), s.arg = .pdelayReq p → ∃ (t : State), exec .pdelayReq s = .next t ∧ sameFiles s t ∧ s.keeps t [] ∧
    s.sends t p 4 (s.ptpPayload 3 [(s.port p).nextUnscheduled s.now - s.now])) ∧
  (∀ (s : State) (p turn : Nat), s.arg = .pdelayResp p turn → ∃ (t : State), exec .pdelayResp s = .next t ∧ sameFiles s t ∧
    s.keeps t [] ∧ ∀ c d, (s.port p).pdelay = some (c, d) → (t.port p).pdelay = some (c, (s.now - c - turn) / 2)) ∧
  (∀ (s : State) (p : Nat), s.arg = .pdelayReqSend p → ∃ (t : State), exec .pdelayReqSend s = .next t ∧ sameFiles s t ∧
    s.keeps t [] ∧ ((s.port p).trained = false → t = s) ∧
    ((s.port p).trained = true → s.sends t p 4 (s.ptpPayload 2 []) ∧
      (t.port p).pdelay.map (·.1) = some ((s.port p).nextUnscheduled s.now) ∧ ∃ c, s.now < c ∧ t.awaits c (.pdelayReqSend p))) ∧
  (∀ (s : State) (p : Nat) (body : List Byte), s.arg = .announce p body → ∃ (t : State), exec .announce s = .next t ∧
    sameFiles s t ∧ s.keeps t [] ∧ (t.port p).announce = some (announceOf body) ∧ t.ptp.decided = true ∧
    (∀ q, q ≠ p → t.port q = s.port q) ∧
    -- the default algorithm: the best clock heard is the master when it is better than this package's own
    let better (a : Announce) : Prop := lexBefore a.key s.ownClock.key = true
    let hears (q : Nat) (a : Announce) : Prop := q < 16 ∧ (t.port q).trained = true ∧ (t.port q).announce = some a ∧
      s.pkgNo.toNat ∉ a.path
    ((∀ q a, hears q a → ¬better a) → t.ptp.slavePort = none ∧ t.ptpLock = true ∧ t.ready.ptp = true) ∧
    ((∃ q a, hears q a ∧ better a) → ∃ q a, t.ptp.slavePort = some q ∧ hears q a ∧ better a ∧
      ∀ q' a', hears q' a' → lexBefore a'.key a.key = false)) ∧
  (∀ s : State, s.arg = .announceSend → ∃ (t : State), exec .announceSend s = .next t ∧ sameFiles s t ∧ s.keeps t [] ∧
    ∀ p, p < 16 → (s.port p).trained = true → (∃ c, s.now < c ∧ t.awaits c .announceSend) ∧
      (t.ptp.slavePort ≠ some p → s.sends t p 4 (s.ptpPayload 0x0B s.bestMaster.announced.body))) ∧
  (∀ s : State, s.arg = .ptpLockLost → ∃ (t : State), exec .ptpLockLost s = .next t ∧ sameFiles s t ∧ s.keeps t [] ∧
    t.ready.ptp = false ∧ t.ptpLock = false ∧ ∀ h ∈ s.heats, h.record.sched = true → h.resident = true →
      ∃ d ∈ t.detects, d.cause = 0xE3 ∧ d.hid = h.hid) ∧
  (∀ (s : State) (v : BitVec 64) (epoch : Nat), s.arg = .podCounterLoad v epoch →
    ((∃ h ∈ s.heats, h.resident = true) ∨ (∃ p ∈ s.ports, p.2.bankActive = true) → exec .podCounterLoad s = .next s) ∧
    ((∀ h ∈ s.heats, h.resident = false) → (∀ p ∈ s.ports, p.2.bankActive = false) → ∃ (t : State),
      exec .podCounterLoad s = .next t ∧ sameFiles s t ∧ t.now = v.toNat ∧ t.regatta.member = true ∧ t.regatta.epoch = epoch ∧
      t.flows = [] ∧ (∀ p, s.sameIn t p) ∧ t.agenda.length = s.agenda.length ∧
      ∀ d ∈ s.agenda, ∀ p c, d.ev = .bankSwitchTx p c → t.awaits (max v.toNat (turnBase v.toNat + 8192 * c)) d.ev)) ∧
  (∀ (s : State) (n : Int), s.arg = .frequencyTrim n → ∃ (t : State), exec .frequencyTrim s = .next t ∧ sameFiles s t ∧
    s.keeps t [] ∧
    ((∀ c, s.trimAt = some c → c + 131072 ≤ s.now) → n.natAbs ≤ 21990 → (s.trim + n).natAbs ≤ 109951162 →
      t.trim = s.trim + n ∧ t.trimAt = some s.now) ∧
    (21990 < n.natAbs → t = s))

/-- THE PACKAGE AROUND THE HEATS (R5, R33, R42, R43, R262, R297, R298, R302-R308, R322, R327, R349, R350): the host's
accesses, counters, power, bring-up, firmware, command links, and fatal causes. -/
def Obligations.SystemSteps : Prop :=
  (∀ (s : State) (nonce : List Byte), s.arg = .attestation nonce → ∃ (t : State), exec .attestation s = .next t ∧
    sameFiles s t ∧ s.keeps t [] ∧
    let leaf := nextLeaf s.leafIndex
    (nonce.length ≠ 32 ∨ 2 ^ 20 ≤ leaf ∨ s.ready.ump = false → t = s) ∧
    (nonce.length = 32 → leaf < 2 ^ 20 → s.ready.ump = true → t.leafIndex = some leaf ∧
      ∃ body, t.mailbox.attestation = body ++ xmssSign leaf body ∧ body.take 32 = nonce ∧
        shake256 s.image <+: body.drop 32)) ∧
  (∀ (s : State) (m : Nat) (up : Bool) (bs : List Byte), s.arg = .commandLinkMessage m up bs → m < 96 →
    let l := s.link m
    ∃ (t : State), exec .commandLinkMessage s = .next t ∧ sameFiles s t ∧ s.keeps t [] ∧
      (bs.length = 32 → 0 < l.permits up → (t.link m).permits up = l.permits up - 1 ∧ (t.link m).sent up = l.sent up ++ [bs] ∧
        ∃ c, s.now < c ∧ t.awaits c (.commandLinkMessage m up [])) ∧
      (bs.length = 32 → l.permits up = 0 → (t.link m).held up = l.held up ++ [bs] ∧ (t.link m).permits up = 0 ∧
        (t.link m).sent up = l.sent up) ∧
      (bs = [] → l.sent up = [] → t = s) ∧
      (bs = [] → ∀ x w, l.sent up = x :: w → (if up then (t.link m).umpTook else (t.link m).marTook) = x ∧
        (l.held up = [] → (t.link m).permits up = min 8 (l.permits up + 1) ∧ (t.link m).sent up = w) ∧
        ∀ b r, l.held up = b :: r → (t.link m).held up = r ∧ (t.link m).permits up = l.permits up ∧
          (t.link m).sent up = w ++ [b] ∧ ∃ c, s.now < c ∧ t.awaits c (.commandLinkMessage m up []))) ∧
  (∀ (s : State) (stage : Nat), s.arg = .powerOnReset stage → ∃ (t : State), exec .powerOnReset s = .next t ∧ sameFiles s t ∧
    s.keeps t [] ∧ (stage = 0 → t.ready.pcie = true) ∧ (stage = 2 → t.ready.ump = true) ∧ (stage = 3 → t.ready.mar = true) ∧
    (stage = 4 → t.ready.stack = 0xFF) ∧
    (stage < 5 → ∃ c, s.now < c ∧ t.awaits c (if stage = 1 then .firmwareVerify Config.flashImage false
      else .powerOnReset (stage + 1))) ∧
    (5 ≤ stage →
      let cabled := s.ready.port &&& Config.cabledPorts = Config.cabledPorts ∧ (Config.cabledPorts = 0 ∨ s.ready.ptp = true)
      (s.fatal.isSome = true → t = s) ∧ (s.fatal = none → cabled → t.ready.fe = true) ∧
      (s.fatal = none → ¬cabled → t.ready = s.ready ∧ ∃ c, s.now < c ∧ t.awaits c (.powerOnReset 5)))) ∧
  (∀ (s : State) (image : List Byte) (mb : Bool), s.arg = .firmwareVerify image mb → ∃ (t : State),
    exec .firmwareVerify s = .next t ∧ sameFiles s t ∧ s.keeps t [] ∧
    let signed := image.take (image.length - 2820)
    let sound := 68 ≤ imageBody image ∧ image.length = 64 + imageBody image + 2820 ∧ ofLeBytes (image.take 4) = 0x4F424657 ∧
      shake256 (imageKey image) = Config.fusedKeyHash ∧ xmssVerifies (imageKey image) signed (image.drop signed.length) = true ∧
      Config.fusedMinSvn ≤ imageSvn image
    (s.ready.fwok = true ∨ (mb = true ∧ s.flashFailed = false) → t = s) ∧
    (s.ready.fwok = false → (mb = true → s.flashFailed = true) → ¬sound →
      t = { s with flashFailed := s.flashFailed || !mb }) ∧
    (s.ready.fwok = false → (mb = true → s.flashFailed = true) → sound →
      t.image = image ∧ t.ready.fwok = true ∧ ∃ c, s.now < c ∧ t.awaits c (.powerOnReset 2))) ∧
  (∀ s : State, s.arg = .functionLevelReset → ∃ (t : State), exec .functionLevelReset s = .next t ∧ sameFiles s t ∧
    s.keeps t [] ∧ t.fatal = none ∧ t.ready = s.ready ∧ (s.fatal.isSome = true → t.awaits s.now (.powerOnReset 5)) ∧
    (s.fatal = none → t = s)) ∧
  (∀ (s : State) (off : Nat) (data : List Byte), s.arg = .hostMemoryAccess true off data → s.memoryWf →
    let pa := s.winbase.toNat / 2 ^ 36 * 2 ^ 36 + off
    let n := min data.length (4096 - pa % 4096)
    data ≠ [] → s.ready.pcie = true → off + data.length ≤ 2 ^ 36 → pa + data.length ≤ hbmEnd →
    (s.grainFree (stackOf pa) s.now = true → ∃ (t : State), exec .hostMemoryAccess s = .next t ∧ sameFiles s t ∧
      s.keeps t [.hbm] ∧ t.readHbm pa n = data.take n ∧ (∀ a, (a < pa ∨ pa + n ≤ a) → t.look .hbm a = s.look .hbm a) ∧
      (n < data.length → ∃ c, t.awaits c (.hostMemoryAccess true (off + n) (data.drop n)))) ∧
    (s.grainFree (stackOf pa) s.now = false → ∃ (t : State) (c : Nat), exec .hostMemoryAccess s = .next t ∧ sameFiles s t ∧
      s.keeps t [] ∧ t.awaits c (.hostMemoryAccess true off data))) ∧
  (∀ (s : State) (off : Nat) (data : List Byte), s.arg = .hostMemoryAccess false off data →
    let pa := s.winbase.toNat / 2 ^ 36 * 2 ^ 36 + off
    let n := min data.length (4096 - pa % 4096)
    data ≠ [] → s.ready.pcie = true → off + data.length ≤ 2 ^ 36 → pa + data.length ≤ hbmEnd →
    ∃ (t : State), exec .hostMemoryAccess s = .next t ∧ sameFiles s t ∧ s.keeps t [] ∧
      (s.grainFree (stackOf pa) s.now = true → t.hostReads = s.hostReads ++ [(off, s.readHbm pa n)] ∧
        (n < data.length → ∃ c, t.awaits c (.hostMemoryAccess false (off + n) (data.drop n)))) ∧
      (s.grainFree (stackOf pa) s.now = false → t.hostReads = s.hostReads ∧
        ∃ c, t.awaits c (.hostMemoryAccess false off data))) ∧
  (∀ s : State, s.arg = .counterLatch → ∃ (t : State), exec .counterLatch s = .next t ∧ sameFiles s t ∧ s.keeps t [] ∧
    ∀ i, i < 16 → (Store.get Counter.init t.counters i).copy = s.readCounter i ∧ t.readCounter i = s.readCounter i) ∧
  (∀ (s : State) (off : Nat) (v : BitVec 64), s.arg = .registerWrite off v → ∃ (t : State), exec .registerWrite s = .next t ∧
    sameFiles s t ∧ s.keeps t [] ∧
    (off = 0x10 → 1000 ≤ v.toNat → v.toNat ≤ 2000 → t.budget = v.toNat ∧ t.budgetSet = v.toNat) ∧
    (off = 0x10 → v.toNat < 1000 ∨ 2000 < v.toNat → t = s) ∧ (off = 0x20 → t.winbase = v) ∧
    (∀ q, q < 64 → (off = 0x1000 + 32 * q → (t.queue q).desc.rbase = v) ∧
      (off = 0x1008 + 32 * q → (t.queue q).desc.cbase = v) ∧
      (off = 0x1010 + 32 * q → (t.queue q).desc.rlog = bits v.toNat 63 59 ∧ (t.queue q).desc.rloc = v.getLsbD 58 ∧
        (t.queue q).desc.cloc = v.getLsbD 57 ∧ (t.queue q).desc.qw = bits v.toNat 55 32 ∧
        t.awaits s.now (.queueEnWrite q (v.getLsbD 56))) ∧
      (off = 0x1018 + 32 * q → t.awaits s.now (.queuePiWrite q (v.extractLsb' 32 32)))) ∧
    (∀ r, r < 64 → (off = 0x2000 + 32 * r → (t.ring r).hbase = v) ∧
      (off = 0x2008 + 32 * r → (t.ring r).rlog = bits v.toNat 63 59 ∧ t.awaits s.now (.hostRingEnWrite r (v.getLsbD 58)))) ∧
    (∀ u, u < 128 → off = 0x2800 + 8 * u → (t.unit u).vec = bits v.toNat 63 57 ∧ (t.unit u).en = v.getLsbD 56 ∧
      (t.unit u).ccnt = bits v.toNat 55 40 ∧ (t.unit u).ctim = bits v.toNat 39 8) ∧
    (off = 0x3000 → ∃ e, t.awaits s.now e ∧ (v.extractLsb' 32 32 = 0 → e = .preemptEstimate (v.truncate 32) s.preempt1) ∧
      (v.extractLsb' 32 32 = 1 → e = .preemptSave (v.truncate 32) s.preempt1) ∧
      (v.extractLsb' 32 32 = 2 → e = .preemptDrain (v.truncate 32) s.preempt1) ∧
      (2 < (v.extractLsb' 32 32).toNat → e = .preemptionRequestUnassigned (v.truncate 32) (v.extractLsb' 32 32))) ∧
    (off = 0x3008 → t.preempt1 = v) ∧
    (∀ i, i < 16 → off = 0x4080 + 8 * i → (Store.get Counter.init t.counters i).source = v.truncate 8 ∧
      (Store.get Counter.init t.counters i).field = v.extractLsb' 8 8 ∧ t.readCounter i = s.readCounter i) ∧
    (off = 0x4100 → v = 1 → t.awaits s.now .counterLatch) ∧
    (∀ i, i < 512 → off = 0x10000 + 8 * i → t.readRegister off = v)) ∧
  (∀ (s : State) (p : Nat) (rx bank : Bool) (idx : Nat) (v : BitVec 32), s.arg = .slotTableWrite p rx bank idx v →
    let inUse := bank = (if rx then (s.port p).rxAct else (s.port p).txAct)
    ∃ (t : State), exec .registerWrite s = .next t ∧ sameFiles s t ∧ s.keeps t [] ∧
      (idx < 4096 → ¬inUse → Store.get 0 (if rx then (t.port p).rxTable else (t.port p).txTable) (4096 * bank.toNat + idx) =
        v &&& (if idx % 16 = 15 then 0x00000FFF#32 else 0x80000FFF#32)) ∧
      (4096 ≤ idx ∨ inUse → t.port p = s.port p)) ∧
  (∀ (s : State) (a : BitVec 48), s.arg = .faultLogLocation a →
    exec .faultLogLocation s = .next { s with mailbox := { s.mailbox with logBase := some a } }) ∧
  (∀ (s : State) (a : BitVec 48), s.arg = .dumpArea a →
    exec .dumpArea s = .next { s with mailbox := { s.mailbox with dumpBase := some a } }) ∧
  (∀ (s : State) (pins : List Bool), s.arg = .boundaryScan pins →
    exec .boundaryScan s = .next (if Config.productionFuse then s else { s with pins := pins })) ∧
  (∀ s : State, s.arg = .hostLinkLost →
    exec .hostLinkLost s = .next { s with ready := { s.ready with pcie := false } }) ∧
  (∀ (s : State) (cl n : Nat), s.arg = .scrub cl n → ∃ (t : State), exec .scrub s = .next t ∧ sameFiles s t ∧ s.keeps t [] ∧
    ((∃ h ∈ s.heats, h.resident = true ∧ cl ∈ h.clusters) → t = s) ∧
    ((∀ h ∈ s.heats, h.resident = true → cl ∉ h.clusters) → ∀ i c, (i, c) ∈ s.counters → c.source = 12 →
      (i, { c with value := c.value + BitVec.ofNat 64 n }) ∈ t.counters)) ∧
  (∀ s : State, s.arg = .refresh → ∃ (t : State), exec .refresh s = .next t ∧ sameFiles s t ∧ s.keeps t [] ∧
    t.awaits (s.now + 4096) .refresh ∧ ∀ k, k < 8 →
      let x := Store.get StackFrame.init s.stackFrames k
      (Store.get StackFrame.init t.stackFrames k).refreshed =
        if x.lateRefresh = some (s.now / 4096 + 1) then s.now + 96 else s.now) ∧
  (∀ s : State, s.arg = .governorStep → ∃ (t : State), exec .governorStep s = .next t ∧ sameFiles s t ∧ s.keeps t [] ∧
    t.awaits (nextMultiple 1400 s.now) .governorStep ∧
    ∀ d, d < 3 → s.drawOver d s.now (s.now + 2800) ≤ 2 * Store.get 0 t.tokens d ∧
      s.drawOver d (s.now - 1400) (s.now + 2800) ≤ 2 * Store.get 0 t.limits d) ∧
  (∀ s : State, s.arg = .thermalBudgetStep → ∃ (t : State), exec .thermalBudgetStep s = .next t ∧ sameFiles s t ∧
    s.keeps t [] ∧ t.awaits (s.now + 1400000) .thermalBudgetStep ∧ t.power ≤ 2000 ∧
    let hot := max (t.temp.extractLsb' 0 16).toNat (t.temp.extractLsb' 16 16).toNat
    (1520 < hot → t.budget = max 1000 (s.budget - 50)) ∧ (hot ≤ 1520 → t.budget = min s.budgetSet (s.budget + 50))) ∧
  ∀ (s : State) (i : Instr) (cause : Nat),
    (i = .dieOvertemp ∧ cause = 0xF5 ∧ (∃ d, s.arg = .dieOvertemp d)) ∨ (i = .dieBridgeError ∧ cause = 0xF4 ∧ s.arg = .dieBridgeError) ∨
    (i = .firmwareWatchdog ∧ cause = 0xF6 ∧ s.arg = .firmwareWatchdog) ∨ (i = .machineCheck ∧ cause = 0xFF ∧ s.arg = .machineCheck) →
    ((∀ h ∈ s.heats, h.live = false) → ∃ (t : State), exec i s = .next t ∧ FatalDump s t cause) ∧
    ((∃ h ∈ s.heats, h.live = true) → ∃ (t : State), exec i s = .next t ∧ sameFiles s t ∧ s.keeps t [] ∧
      ∀ h ∈ s.heats, h.live = true → ∃ d ∈ t.detects, d.hid = h.hid ∧ d.cause = cause ∧ d.src = 8)
end

