-- ==== Sys2Proof/Laws/Files.lean ====
section
/-! SUPPORT. The operations that leave every register file and trap record as it was. -/
namespace Sys2Proof.Machine

/-- The registers of a heat, with its number and its trap record. -/
def Heat.file (h : Heat) := (h.hid, h.trap, h.teams.map Team.file)

theorem State.files_eq (s : State) : s.files = s.heats.map Heat.file := rfl

@[simp] theorem Gang.file_mk (g_v g_m g_x g_win g_latch g_flags g_flagMin g_dix g_vdirty g_mxdirty g_groups g_turn g_lastSlot g_spans g_retired g_ord) :
    Gang.file ⟨g_v, g_m, g_x, g_win, g_latch, g_flags, g_flagMin, g_dix, g_vdirty, g_mxdirty, g_groups, g_turn, g_lastSlot, g_spans, g_retired, g_ord⟩ = (g_v, g_m, g_x, g_win) := rfl
@[simp] theorem Gang.file_fold (g : Gang) : (g.v, g.m, g.x, g.win) = g.file := rfl
@[simp] theorem Team.file_mk (t_core t_tsel t_lanes t_sigma t_restart t_sbase t_scnt t_abase t_acnt t_gentry t_centry t_wins t_k t_kOld t_kOldAt t_p t_g t_t t_nest t_sseeds t_atomSeq t_kdirty t_gdirty t_tdirty t_sdirty t_adirty t_aint t_shift t_cox t_gangs) :
    Team.file ⟨t_core, t_tsel, t_lanes, t_sigma, t_restart, t_sbase, t_scnt, t_abase, t_acnt, t_gentry, t_centry, t_wins, t_k, t_kOld, t_kOldAt, t_p, t_g, t_t, t_nest, t_sseeds, t_atomSeq, t_kdirty, t_gdirty, t_tdirty, t_sdirty, t_adirty, t_aint, t_shift, t_cox, t_gangs⟩ =
      (t_k, t_p, t_g, t_t, t_nest, t_sseeds, t_gangs.map Gang.file) := rfl
@[simp] theorem Team.file_fold (t : Team) :
    (t.k, t.p, t.g, t.t, t.nest, t.sseeds, t.gangs.map Gang.file) = t.file := rfl
@[simp] theorem Heat.file_mk (h_hid h_heatid h_queue h_origin h_record h_status h_anchor h_admitted h_chargeFrom h_charge h_prov h_args h_clusters h_teams h_cursors h_stoppedFlows h_sessions h_csyncs h_fault h_faultAt h_nsec h_trap h_halt h_dieHalt h_trigger h_relayed h_stops h_hot h_resumeStop h_checkpoints h_image h_imageLen h_saveCost h_discards h_eseqs h_away h_abortCause h_parked h_engFree h_engDone h_rxBase h_barsAway h_landAway h_msgAway h_lateAcks) :
    Heat.file ⟨h_hid, h_heatid, h_queue, h_origin, h_record, h_status, h_anchor, h_admitted, h_chargeFrom, h_charge, h_prov, h_args, h_clusters, h_teams, h_cursors, h_stoppedFlows, h_sessions, h_csyncs, h_fault, h_faultAt, h_nsec, h_trap, h_halt, h_dieHalt, h_trigger, h_relayed, h_stops, h_hot, h_resumeStop, h_checkpoints, h_image, h_imageLen, h_saveCost, h_discards, h_eseqs, h_away, h_abortCause, h_parked, h_engFree, h_engDone, h_rxBase, h_barsAway, h_landAway, h_msgAway, h_lateAcks⟩ = (h_hid, h_trap, h_teams.map Team.file) := rfl
@[simp] theorem Heat.file_fold (h : Heat) : (h.hid, h.trap, h.teams.map Team.file) = h.file := rfl

@[simp] theorem files_mk (now agenda arg cur seq freeCtr hbm hostMem scratch tiles copied hbmLog stackFrames atomWindows cores heats nextHid nextHeatid gops cmds nextOp barPend detects ports flows unacked inflow reorder seen routes gone spent regatta queues pointer preempt0 preempt1 rings coalesce msix ready budget budgetSet temp winbase counters mailbox faultLog logEvents links fatal clockOff leafIndex image flashFailed hostReads power layoutGen pkgNo trim trimAt ptpLock ptp tokens limits pins env) :
    State.files ⟨now, agenda, arg, cur, seq, freeCtr, hbm, hostMem, scratch, tiles, copied, hbmLog, stackFrames, atomWindows, cores, heats, nextHid, nextHeatid, gops, cmds, nextOp, barPend, detects, ports, flows, unacked, inflow, reorder, seen, routes, gone, spent, regatta, queues, pointer, preempt0, preempt1, rings, coalesce, msix, ready, budget, budgetSet, temp, winbase, counters, mailbox, faultLog, logEvents, links, fatal, clockOff, leafIndex, image, flashFailed, hostReads, power, layoutGen, pkgNo, trim, trimAt, ptpLock, ptp, tokens, limits, pins, env⟩ = heats.map Heat.file := rfl
@[simp] theorem files_fold (s : State) : s.heats.map Heat.file = s.files := rfl

@[simp] theorem ite_files (c : Prop) [Decidable c] (a b : State) :
    (if c then a else b).files = if c then a.files else b.files := by
  split <;> rfl

@[simp] theorem foldl_files {α : Type} (f : State → α → State) (h : ∀ s x, (f s x).files = s.files) (l : List α)
    (s : State) : (l.foldl f s).files = s.files := by
  induction l generalizing s with
  | nil => rfl
  | cons x r ih => rw [List.foldl_cons, ih, h]

theorem map_modifyNth {α β : Type} (p : α → β) (f : α → α) (h : ∀ x, p (f x) = p x) (l : List α) (i : Nat) :
    (modifyNth l i f).map p = l.map p := by
  induction l generalizing i with
  | nil => rfl
  | cons x r ih =>
    cases i with
    | zero => simp [modifyNth, h]
    | succ i => simp [modifyNth, ih]

@[simp] theorem State.modHeat_files (s : State) (hid : Nat) (f : Heat → Heat) (h : ∀ x, (f x).file = x.file) :
    (State.modHeat s hid f).files = s.files := by
  simp only [State.files_eq, State.modHeat, List.map_map]
  refine List.map_congr_left fun x _ => ?_
  simp only [Function.comp]
  split
  · exact h x
  · rfl

@[simp] theorem Heat.modTeam_file (h : Heat) (i : Nat) (f : Team → Team) (hf : ∀ x, (f x).file = x.file) :
    (Heat.modTeam h i f).file = h.file := by
  simp only [Heat.file, Heat.modTeam, map_modifyNth Team.file f hf]

@[simp] theorem State.modTeam_files (s : State) (r : TeamRef) (f : Team → Team) (h : ∀ x, (f x).file = x.file) :
    (State.modTeam s r f).files = s.files :=
  State.modHeat_files _ _ _ fun x => Heat.modTeam_file x _ _ h

@[simp] theorem State.modCox_files (s : State) (r : TeamRef) (f : Cox → Cox) : (State.modCox s r f).files = s.files :=
  State.modTeam_files _ _ _ fun _ => rfl

@[simp] theorem State.modGang_files (s : State) (r : GangRef) (f : Gang → Gang) (h : ∀ x, (f x).file = x.file) :
    (State.modGang s r f).files = s.files :=
  State.modTeam_files _ _ _ fun x => by simp only [Team.file, map_modifyNth Gang.file f h]


@[simp] theorem State.modCore_files (s : State) (c : Nat) (f : Core → Core) : (State.modCore s c f).files = s.files := by
  unfold State.modCore; rfl

@[simp] theorem State.modPort_files (s : State) (p : Nat) (f : Port → Port) : (State.modPort s p f).files = s.files := by
  unfold State.modPort; rfl

@[simp] theorem State.modQueue_files (s : State) (q : Nat) (f : Queue → Queue) : (State.modQueue s q f).files = s.files := by
  unfold State.modQueue; rfl

@[simp] theorem State.pushSub_files (s : State) (cycle rank sub : Nat) (ev : Ev) : (State.pushSub s cycle rank sub ev).files = s.files := by
  unfold State.pushSub; rfl

@[simp] theorem State.push_files (s : State) (cycle rank : Nat) (ev : Ev) : (State.push s cycle rank ev).files = s.files := by
  unfold State.push; rfl

@[simp] theorem State.cancel_files (s : State) (p : Ev → Bool) : (State.cancel s p).files = s.files := by
  unfold State.cancel; rfl

@[simp] theorem State.choose_files (s : State) (lo hi : Nat) : (State.choose s lo hi).2.files = s.files := by
  unfold State.choose; (try dsimp only); (repeat' split) <;> rfl

@[simp] theorem State.freeWords_files (s : State) (n : Nat) : (State.freeWords s n).2.files = s.files := by
  unfold State.freeWords; rfl

@[simp] theorem State.tick_files (s : State) (source field n : Nat) : (State.tick s source field n).files = s.files := by
  unfold State.tick; rfl

@[simp] theorem State.afterCounter_files (s : State) (hid : Nat) : (State.afterCounter s hid).files = s.files := by
  unfold State.afterCounter; (try dsimp only); (repeat' split) <;> rfl

@[simp] theorem State.detect_files (s : State) (d : Detect) : (State.detect s d).files = s.files := by
  unfold State.detect; rfl

@[simp] theorem State.corrected_files (s : State) (kind : Nat) (touched : Nat → Bool) :
    (State.corrected s kind touched).files = s.files := by
  unfold State.corrected; dsimp only; split <;> rfl

@[simp] theorem State.stopGroups_files (s : State) (g : GangRef) (quads : BitVec 8) : (State.stopGroups s g quads).files = s.files := by
  unfold State.stopGroups
  split
  · exact State.modGang_files _ _ _ fun _ => rfl
  · rfl

@[simp] theorem State.stopGang_files (s : State) (g : GangRef) : (State.stopGang s g).files = s.files := State.stopGroups_files ..

@[simp] theorem State.stopCox_files (s : State) (r : TeamRef) : (State.stopCox s r).files = s.files := by
  unfold State.stopCox
  split <;> simp

@[simp] theorem State.stopNamed_files (s : State) (d : Detect) : (State.stopNamed s d).files = s.files := by
  unfold State.stopNamed
  (repeat' split) <;> simp

@[simp] theorem State.barChange_files (s : State) (core : Nat) (handle : Word) (declare credit arrivals : Nat) (engine : Bool) (agent : Detect) :
    (State.barChange s core handle declare credit arrivals engine agent).files = s.files := by
  unfold State.barChange; dsimp only; split <;> simp

@[simp] theorem LCtx.stop_files (c : LCtx) (s : State) : (LCtx.stop c s).files = s.files := State.modGang_files _ _ _ fun _ => rfl

@[simp] theorem LCtx.issueFault_files (c : LCtx) (s : State) (cause : Nat) (lanes : Option (BitVec 32)) (addr info : Nat) :
    (LCtx.issueFault c s cause lanes addr info).files = s.files := by
  unfold LCtx.issueFault; simp

@[simp] theorem UCtx.issueFault_files (c : UCtx) (s : State) (cause addr info : Nat) : (UCtx.issueFault c s cause addr info).files = s.files := by
  unfold UCtx.issueFault; simp

@[simp] theorem State.abortHandler_files (s : State) (hid cause : Nat) : (State.abortHandler s hid cause).files = s.files := by
  exact (State.push_files ..).trans (State.modHeat_files _ _ _ fun _ => rfl)

@[simp] theorem Gang.setFlag_file (g : Gang) (f : Option Nat) (n : Nat) : (g.setFlag f n).file = g.file := by
  cases f <;> rfl

@[simp] theorem Gang.setLatch_file (g : Gang) (quads : BitVec 8) (e : Nat) (x : Latch) : (g.setLatch quads e x).file = g.file := rfl

@[simp] theorem Gang.modGroup_file (g : Gang) (q : BitVec 8) (f : Group → Group) : (g.modGroup q f).file = g.file := rfl

@[simp] theorem LCtx.commit_files (c : LCtx) (s : State) (i : Instr) (w : LaneWord) (L : Nat) : (LCtx.commit c s i w L).files = s.files := by
  unfold LCtx.commit
  refine (State.modGang_files _ _ _ fun g => ?_).trans ((State.corrected_files ..).trans ((State.tick_files ..).trans ?_))
  · simp only [Gang.file_mk, Gang.file_fold, Gang.modGroup_file]
    split <;> simp
  · split
    · rfl
    · exact State.freeWords_files ..

@[simp] theorem State.failAcc_files (s : State) (op : ScratchAcc) (d : Detect) : (State.failAcc s op d).files = s.files := by
  refine (State.detect_files ..).trans ((State.stopNamed_files ..).trans (State.modHeat_files _ _ _ fun h => ?_))
  split <;> rfl

@[simp] theorem State.startAcc_files (s : State) (op : ScratchAcc) : (State.startAcc s op).files = s.files := by
  unfold State.startAcc; (try dsimp only); (repeat' split) <;> first | rfl | simp

@[simp] theorem State.retestPasses_files (s : State) (core : Nat) : (State.retestPasses s core).files = s.files := by
  unfold State.retestPasses; simp

@[simp] theorem State.flip_files (s : State) (core g0 count : Nat) (owner : Nat) : (State.flip s core g0 count owner).files = s.files := by
  unfold State.flip; simp

@[simp] theorem State.pushPerforms_files (s : State) (o : GlobalOp) : (State.pushPerforms s o).files = s.files := by
  unfold State.pushPerforms; simp

@[simp] theorem State.pullBack_files (s : State) (g : GangRef) : (State.pullBack s g).files = s.files := by
  unfold State.pullBack
  split
  · rfl
  · refine (foldl_files _ (fun s o => ?_) _ _).trans (State.modGang_files _ _ _ fun _ => rfl)
    split <;> simp

@[simp] theorem State.pushDeliveries_files (s : State) (o : GlobalOp) : (State.pushDeliveries s o).files = s.files := by
  unfold State.pushDeliveries; simp

@[simp] theorem State.pushStacks_files (s : State) (o : GlobalOp) : (State.pushStacks s o).files = s.files := by
  unfold State.pushStacks; (try dsimp only); (repeat' split) <;> rfl

@[simp] theorem State.countOp_files (s : State) (o : GlobalOp) (up : Bool) : (State.countOp s o up).files = s.files := by
  unfold State.countOp; rfl

theorem PChoice.next_files (c : PChoice) (g : GangRef) (base op issue lat : Nat) (kind : GlobalKind)
    (order : Bool) (l : LaneAcc) : (c.next g base op issue lat kind order l).s.files = c.s.files := by
  unfold PChoice.next
  (try dsimp only); (repeat' split) <;> first | rfl | simp

@[simp] theorem LCtx.issueGlobal_files (c : LCtx) (s : State) (i : Instr) (w : LaneWord) (kind : GlobalKind) (order : Bool) : (LCtx.issueGlobal c s i w kind order).files = s.files := by
  have h : ∀ (ls : List LaneAcc) (ch : PChoice) (f : PChoice → LaneAcc → PChoice), (∀ d l, (f d l).s.files = d.s.files) →
      (ls.foldl f ch).s.files = ch.s.files := by
    intro ls
    induction ls with
    | nil => intro ch f _; rfl
    | cons a r ih => intro ch f hf; rw [List.foldl_cons, ih _ _ hf, hf]
  unfold LCtx.issueGlobal
  simp only [State.pushDeliveries_files, State.pushPerforms_files, State.pushStacks_files, State.countOp_files, files_mk,
    files_fold]
  refine (State.modGang_files _ _ _ ?_).trans ((h _ _ _ fun d l => PChoice.next_files ..).trans ?_)
  · exact fun _ => rfl
  dsimp only
  split
  · exact State.modTeam_files _ _ _ fun _ => rfl
  · rfl

@[simp] theorem LCtx.modGroup_files (c : LCtx) (s : State) (f : Group → Group) : (LCtx.modGroup c s f).files = s.files := by
  exact State.modGang_files _ _ _ fun _ => rfl

@[simp] theorem LCtx.goto_files (c : LCtx) (s : State) (pc : Nat) : (LCtx.goto c s pc).files = s.files := by
  unfold LCtx.goto; simp

@[simp] theorem State.afterRetire_files (s : State) (r : TeamRef) : (State.afterRetire s r).files = s.files := by
  refine (State.afterCounter_files ..).trans (State.modHeat_files _ _ _ fun h => ?_)
  dsimp only
  repeat' split
  all_goals rfl

@[simp] theorem UCtx.commit_files (c : UCtx) (s : State) (i : Instr) (L : Nat) : (UCtx.commit c s i L).files = s.files := by
  unfold UCtx.commit; simp

@[simp] theorem UCtx.goto_files (c : UCtx) (s : State) (pc : Nat) : (UCtx.goto c s pc).files = s.files := by
  unfold UCtx.goto; simp

@[simp] theorem UCtx.readRecord_files (c : UCtx) (s : State) (i : Instr) (kind : GlobalKind) (va size n : Nat) (bar : Option Word) (eop : Nat) (ev : Nat → Ev) : (UCtx.readRecord c s i kind va size n bar eop ev).files = s.files := by
  unfold UCtx.readRecord; rfl

@[simp] theorem State.writeBudget_files (s : State) (v : Nat) : (State.writeBudget s v).files = s.files := by
  unfold State.writeBudget; simp

@[simp] theorem State.writeControl_files (s : State) (n : Nat) (v : Word) : (State.writeControl s n v).files = s.files := by
  unfold State.writeControl; (try dsimp only); (repeat' split) <;> first | rfl | simp

@[simp] theorem UCtx.issueEngine_files (c : UCtx) (s : State) (i : Instr) (w : UE) (opcode : Nat) (p : EngPlan) (body : EngBody) (cr : Bool) (crh : Word) : (UCtx.issueEngine c s i w opcode p body cr crh).files = s.files := by
  exact (State.push_files ..).trans ((State.push_files ..).trans (State.modHeat_files _ _ _ fun _ => rfl))

@[simp] theorem State.wakePort_files (s : State) (p : Nat) : (State.wakePort s p).files = s.files := by
  unfold State.wakePort; (try dsimp only); (repeat' split) <;> rfl

@[simp] theorem State.enqueue_files (s : State) (p ready : Nat) (m : Msg) : (State.enqueue s p ready m).files = s.files := by
  unfold State.enqueue; simp

@[simp] theorem State.emit_files (s : State) (m : Msg) (ready : Nat) : (State.emit s m ready).files = s.files := by
  unfold State.emit; (try dsimp only); (repeat' split) <;> first | rfl | simp

@[simp] theorem UCtx.postMessage_files (c : UCtx) (s : State) (i : Instr) (p : AckTo → Post) (w : UE) : (UCtx.postMessage c s i p w).files = s.files := by
  unfold UCtx.postMessage; rfl

@[simp] theorem UCtx.issueXfer_files (c : UCtx) (s : State) (w : UE) : (UCtx.issueXfer c s w).files = s.files := by
  unfold UCtx.issueXfer; simp

@[simp] theorem State.buildBank_files (s : State) (p : Nat) : (State.buildBank s p).files = s.files := by
  unfold State.buildBank; rfl

@[simp] theorem State.armBanks_files (s : State) (r : Record) (swcyc : Nat) : (State.armBanks s r swcyc).files = s.files := by
  unfold State.armBanks; simp

@[simp] theorem State.abortHeat_files (s : State) (hid cause : Nat) : (State.abortHeat s hid cause).files = s.files := by
  exact (State.push_files ..).trans (State.modHeat_files _ _ _ fun _ => rfl)

@[simp] theorem State.takeSeq_files (s : State) (k : FlowKey) : (State.takeSeq s k).2.files = s.files := by
  unfold State.takeSeq
  (repeat' split) <;> rfl

@[simp] theorem State.sendOn_files (s : State) (p : Nat) (m : Msg) : (State.sendOn s p m).files = s.files := by
  unfold State.sendOn; simp

@[simp] theorem State.sendRouted_files (s : State) (m : Msg) : (State.sendRouted s m).files = s.files := by
  unfold State.sendRouted; simp

@[simp] theorem State.sendControl_files (s : State) (pkg : Nat) (payload : List Byte) : (State.sendControl s pkg payload).files = s.files := by
  unfold State.sendControl; simp

@[simp] theorem State.flood_files (s : State) (payload : List Byte) (notOn : Option Nat) : (State.flood s payload notOn).files = s.files := by
  refine foldl_files _ (fun s p => ?_) _ _
  split <;> simp

@[simp] theorem State.tellHalted_files (s : State) (cause arg : Nat) : (State.tellHalted s cause arg).files = s.files := by
  unfold State.tellHalted
  (repeat' split) <;> simp

@[simp] theorem State.reportHalted_files (s : State) : (State.reportHalted s).files = s.files := by
  unfold State.reportHalted
  split
  · dsimp only
    split
    · exact State.tellHalted_files ..
    · rfl
  · rfl

@[simp] theorem State.saveCorrected_files (s : State) (h : Heat) : (State.saveCorrected s h).files = s.files := by
  exact foldl_files _ (fun s k => State.corrected_files s k _) _ _

@[simp] theorem State.startSave_files (s : State) (h : Heat) : (State.startSave s h).files = s.files := by
  unfold State.startSave
  split
  · exact State.abortHeat_files ..
  · refine (State.push_files ..).trans ((State.modHeat_files _ _ _ ?_).trans ((State.choose_files ..).trans ?_))
    · exact fun _ => rfl
    · exact State.saveCorrected_files ..

end Sys2Proof.Machine
end

