-- ==== Sys2Proof/Laws/Kept.lean ====
section
/-! SUPPORT. What each shared operation keeps: the clock, the package and every memory that it does not write. -/
namespace Sys2Proof.Machine

/-- A memory, or nothing when it is one of `ps`. -/
def Space.cut (ps : List Space) (p : Space) {α : Type} (m : Store α) : Store α := if p ∈ ps then [] else m

theorem Space.cut_of_mem {ps : List Space} {p : Space} (h : p ∈ ps) {α : Type} (m : Store α) : Space.cut ps p m = [] :=
  if_pos h

/-- The clock, the package and the memories outside `ps`. -/
def State.kept (ps : List Space) (s : State) : Nat × BitVec 17 × Store Byte × Store Byte × Store Byte × Store Word :=
  (s.now, s.pkgNo, Space.cut ps .hbm s.hbm, Space.cut ps .host s.hostMem,
    Space.cut ps .scratch s.scratch, Space.cut ps .tiles s.tiles)

@[simp] theorem foldl_kept {α : Type} (ps : List Space) (f : State → α → State) (h : ∀ s x, (f s x).kept ps = s.kept ps)
    (l : List α) (s : State) : (l.foldl f s).kept ps = s.kept ps := by
  induction l generalizing s with
  | nil => rfl
  | cons x r ih => rw [List.foldl_cons, ih, h]

/-- A fold that carries something beside the state. -/
theorem foldl_kept_snd {α β : Type} (ps : List Space) (f : β × State → α → β × State)
    (h : ∀ a x, (f a x).2.kept ps = a.2.kept ps) (l : List α) (a : β × State) : (l.foldl f a).2.kept ps = a.2.kept ps := by
  induction l generalizing a with
  | nil => rfl
  | cons x r ih => rw [List.foldl_cons, ih, h]

@[simp] theorem kept_mk (ps : List Space) now agenda arg cur seq freeCtr hbm hostMem scratch tiles copied hbmLog stackFrames atomWindows cores heats nextHid nextHeatid gops cmds nextOp barPend detects ports flows unacked inflow reorder seen routes gone spent regatta queues pointer preempt0 preempt1 rings coalesce msix ready budget budgetSet temp winbase counters mailbox faultLog logEvents links fatal clockOff leafIndex image flashFailed hostReads power layoutGen pkgNo trim trimAt ptpLock ptp tokens limits pins env :
    State.kept ps ⟨now, agenda, arg, cur, seq, freeCtr, hbm, hostMem, scratch, tiles, copied, hbmLog, stackFrames, atomWindows, cores, heats, nextHid, nextHeatid, gops, cmds, nextOp, barPend, detects, ports, flows, unacked, inflow, reorder, seen, routes, gone, spent, regatta, queues, pointer, preempt0, preempt1, rings, coalesce, msix, ready, budget, budgetSet, temp, winbase, counters, mailbox, faultLog, logEvents, links, fatal, clockOff, leafIndex, image, flashFailed, hostReads, power, layoutGen, pkgNo, trim, trimAt, ptpLock, ptp, tokens, limits, pins, env⟩ =
      (now, pkgNo, Space.cut ps .hbm hbm, Space.cut ps .host hostMem,
        Space.cut ps .scratch scratch, Space.cut ps .tiles tiles) := rfl

@[simp] theorem kept_fold (ps : List Space) (s : State) :
    (s.now, s.pkgNo, Space.cut ps .hbm s.hbm, Space.cut ps .host s.hostMem,
      Space.cut ps .scratch s.scratch, Space.cut ps .tiles s.tiles) = s.kept ps := rfl

@[simp] theorem ite_kept (ps : List Space) (c : Prop) [Decidable c] (a b : State) :
    (if c then a else b).kept ps = if c then a.kept ps else b.kept ps := by
  split <;> rfl

@[simp] theorem State.modHeat_kept (ps : List Space) (s : State) (hid : Nat) (f : Heat → Heat) :
    (State.modHeat s hid f).kept ps = s.kept ps := by
  rfl

@[simp] theorem State.modTeam_kept (ps : List Space) (s : State) (r : TeamRef) (f : Team → Team) :
    (State.modTeam s r f).kept ps = s.kept ps := by
  rfl

@[simp] theorem State.modCox_kept (ps : List Space) (s : State) (r : TeamRef) (f : Cox → Cox) :
    (State.modCox s r f).kept ps = s.kept ps := by
  rfl

@[simp] theorem State.modGang_kept (ps : List Space) (s : State) (r : GangRef) (f : Gang → Gang) :
    (State.modGang s r f).kept ps = s.kept ps := by
  rfl

@[simp] theorem State.modCore_kept (ps : List Space) (s : State) (c : Nat) (f : Core → Core) :
    (State.modCore s c f).kept ps = s.kept ps := by
  rfl

@[simp] theorem State.modPort_kept (ps : List Space) (s : State) (p : Nat) (f : Port → Port) :
    (State.modPort s p f).kept ps = s.kept ps := by
  rfl

@[simp] theorem State.modQueue_kept (ps : List Space) (s : State) (q : Nat) (f : Queue → Queue) :
    (State.modQueue s q f).kept ps = s.kept ps := by
  rfl

@[simp] theorem State.modGop_kept (ps : List Space) (s : State) (id : Nat) (f : GlobalOp → GlobalOp) :
    (State.modGop s id f).kept ps = s.kept ps := by
  rfl

@[simp] theorem State.dropGop_kept (ps : List Space) (s : State) (id : Nat) :
    (State.dropGop s id).kept ps = s.kept ps := by
  rfl

@[simp] theorem State.modCmd_kept (ps : List Space) (s : State) (id : Nat) (f : EngCmd → EngCmd) :
    (State.modCmd s id f).kept ps = s.kept ps := by
  rfl

@[simp] theorem State.pushSub_kept (ps : List Space) (s : State) (cycle rank sub : Nat) (ev : Ev) :
    (State.pushSub s cycle rank sub ev).kept ps = s.kept ps := by
  rfl

@[simp] theorem State.push_kept (ps : List Space) (s : State) (cycle rank : Nat) (ev : Ev) :
    (State.push s cycle rank ev).kept ps = s.kept ps := by
  rfl

@[simp] theorem State.cancel_kept (ps : List Space) (s : State) (p : Ev → Bool) :
    (State.cancel s p).kept ps = s.kept ps := by
  rfl

@[simp] theorem State.park_kept (ps : List Space) (s : State) (hid rank : Nat) (ev : Ev) :
    (State.park s hid rank ev).kept ps = s.kept ps := by
  rfl

@[simp] theorem State.choose_kept (ps : List Space) (s : State) (lo hi : Nat) :
    (State.choose s lo hi).2.kept ps = s.kept ps := by
  unfold State.choose
  (try dsimp only); (repeat' split) <;> rfl

@[simp] theorem State.freeWords_kept (ps : List Space) (s : State) (n : Nat) :
    (State.freeWords s n).2.kept ps = s.kept ps := by
  rfl

@[simp] theorem State.writeScratch_kept (ps : List Space) (s : State) (core o : Nat) (bs : List Byte) (h0 : Space.scratch ∈ ps) :
    (State.writeScratch s core o bs).kept ps = s.kept ps := by
  simp [State.writeScratch, State.kept, Space.cut_of_mem h0]

@[simp] theorem State.writeHbm_kept (ps : List Space) (s : State) (pa : Nat) (bs : List Byte) (h0 : Space.hbm ∈ ps) :
    (State.writeHbm s pa bs).kept ps = s.kept ps := by
  simp [State.writeHbm, State.kept, Space.cut_of_mem h0]

@[simp] theorem State.writeHost_kept (ps : List Space) (s : State) (a : Nat) (bs : List Byte) (h0 : Space.host ∈ ps) :
    (State.writeHost s a bs).kept ps = s.kept ps := by
  simp [State.writeHost, State.kept, Space.cut_of_mem h0]

@[simp] theorem State.tick_kept (ps : List Space) (s : State) (source field n : Nat) :
    (State.tick s source field n).kept ps = s.kept ps := by
  rfl

@[simp] theorem State.corrected_kept (ps : List Space) (s : State) (kind : Nat) (touched : Nat → Bool) :
    (State.corrected s kind touched).kept ps = s.kept ps := by
  unfold State.corrected; (try dsimp only); (repeat' split) <;> first | rfl | simp

@[simp] theorem State.afterCounter_kept (ps : List Space) (s : State) (hid : Nat) :
    (State.afterCounter s hid).kept ps = s.kept ps := by
  unfold State.afterCounter
  (try dsimp only); (repeat' split) <;> rfl

@[simp] theorem State.stopGroups_kept (ps : List Space) (s : State) (g : GangRef) (quads : BitVec 8) :
    (State.stopGroups s g quads).kept ps = s.kept ps := by
  unfold State.stopGroups; (try dsimp only); (repeat' split) <;> first | rfl | simp

@[simp] theorem State.stopGang_kept (ps : List Space) (s : State) (g : GangRef) :
    (State.stopGang s g).kept ps = s.kept ps := by
  unfold State.stopGang
  (try dsimp only); (repeat' split) <;> first | rfl | simp

@[simp] theorem State.stopCox_kept (ps : List Space) (s : State) (r : TeamRef) :
    (State.stopCox s r).kept ps = s.kept ps := by
  unfold State.stopCox
  (try dsimp only); (repeat' split) <;> rfl

@[simp] theorem State.stopNamed_kept (ps : List Space) (s : State) (d : Detect) :
    (State.stopNamed s d).kept ps = s.kept ps := by
  unfold State.stopNamed; (try dsimp only); (repeat' split) <;> first | rfl | simp

@[simp] theorem State.logEvent_kept (ps : List Space) (s : State) (e : LogEvent) :
    (State.logEvent s e).kept ps = s.kept ps := by
  rfl

@[simp] theorem State.detect_kept (ps : List Space) (s : State) (d : Detect) :
    (State.detect s d).kept ps = s.kept ps := by
  rfl

@[simp] theorem State.takeFault_kept (ps : List Space) (s : State) (d : Detect) :
    (State.takeFault s d).kept ps = s.kept ps := by
  unfold State.takeFault
  (try dsimp only); (repeat' split) <;> rfl

@[simp] theorem State.settleDetects_kept (ps : List Space) (s : State) :
    (State.settleDetects s).kept ps = s.kept ps := by
  unfold State.settleDetects; simp

@[simp] theorem State.barChange_kept (ps : List Space) (s : State) (core : Nat) (handle : Word) (declare credit arrivals : Nat) (engine : Bool) (agent : Detect) :
    (State.barChange s core handle declare credit arrivals engine agent).kept ps = s.kept ps := by
  unfold State.barChange
  (try dsimp only); (repeat' split) <;> first | rfl | simp

@[simp] theorem State.wakeWaiters_kept (ps : List Space) (s : State) (core i : Nat) (gen : BitVec 22) :
    (State.wakeWaiters s core i gen).kept ps = s.kept ps := by
  refine foldl_kept ps _ (fun s h => foldl_kept ps _ (fun s i => ?_) _ _) _ _
  split
  · rfl
  · split
    · rfl
    · refine foldl_kept ps _ (fun s j => ?_) _ _
      split
      · rfl
      · exact foldl_kept ps _ (fun s gr => by split <;> simp) _ _

@[simp] theorem State.triggerArmed_kept (ps : List Space) (s : State) (core i : Nat) :
    (State.triggerArmed s core i).kept ps = s.kept ps := by
  unfold State.triggerArmed; simp

@[simp] theorem State.blameChanges_kept (ps : List Space) (s : State) (x : BarSum) :
    (State.blameChanges s x).kept ps = s.kept ps := by
  unfold State.blameChanges; (try dsimp only); (repeat' split) <;> first | rfl | simp

@[simp] theorem State.settleBarrier_kept (ps : List Space) (s : State) (core i : Nat) (cs : List BarChange) :
    (State.settleBarrier s core i cs).kept ps = s.kept ps := by
  unfold State.settleBarrier
  dsimp only
  rw [ite_kept]
  simp

@[simp] theorem settleBars_kept (ps : List Space) (x0 : Nat) (x1 : State) : (settleBars x0 x1).kept ps = x1.kept ps := by
  induction x0 generalizing x1 with
  | zero => rfl
  | succ n ih =>
    unfold settleBars
    split
    · rfl
    · simp only [ih, State.settleBarrier_kept]; simp

@[simp] theorem State.settle_kept (ps : List Space) (s : State) :
    (State.settle s).kept ps = s.kept ps := by
  unfold State.settle; simp

@[simp] theorem State.clearGangFlag_kept (ps : List Space) (s : State) (g : GangRef) (f : Option Nat) :
    (State.clearGangFlag s g f).kept ps = s.kept ps := by
  unfold State.clearGangFlag
  (try dsimp only); (repeat' split) <;> rfl

@[simp] theorem State.clearCoxFlag_kept (ps : List Space) (s : State) (t : TeamRef) (f : Option Nat) :
    (State.clearCoxFlag s t f).kept ps = s.kept ps := by
  unfold State.clearCoxFlag
  (try dsimp only); (repeat' split) <;> rfl

@[simp] theorem LCtx.stop_kept (ps : List Space) (c : LCtx) (s : State) :
    (LCtx.stop c s).kept ps = s.kept ps := by
  unfold LCtx.stop; (try dsimp only); (repeat' split) <;> first | rfl | simp

@[simp] theorem LCtx.issueFault_kept (ps : List Space) (c : LCtx) (s : State) (cause : Nat) (lanes : Option (BitVec 32)) (addr info : Nat) :
    (LCtx.issueFault c s cause lanes addr info).kept ps = s.kept ps := by
  rfl

@[simp] theorem UCtx.issueFault_kept (ps : List Space) (c : UCtx) (s : State) (cause addr info : Nat) :
    (UCtx.issueFault c s cause addr info).kept ps = s.kept ps := by
  rfl

@[simp] theorem State.abortHandler_kept (ps : List Space) (s : State) (hid cause : Nat) :
    (State.abortHandler s hid cause).kept ps = s.kept ps := by
  rfl

@[simp] theorem LCtx.commit_kept (ps : List Space) (c : LCtx) (s : State) (i : Instr) (w : LaneWord) (L : Nat) :
    (LCtx.commit c s i w L).kept ps = s.kept ps := by
  unfold LCtx.commit
  (try dsimp only); (repeat' split) <;> first | rfl | simp

@[simp] theorem State.failAcc_kept (ps : List Space) (s : State) (op : ScratchAcc) (d : Detect) :
    (State.failAcc s op d).kept ps = s.kept ps := by
  unfold State.failAcc; simp

@[simp] theorem State.startAcc_kept (ps : List Space) (s : State) (op : ScratchAcc) :
    (State.startAcc s op).kept ps = s.kept ps := by
  unfold State.startAcc
  (try dsimp only); (repeat' split) <;> first | rfl | simp

@[simp] theorem State.storeBytes_kept (ps : List Space) (s : State) (g : GangRef) (core o : Nat) (bs : List Byte) (h0 : Space.scratch ∈ ps) :
    (State.storeBytes s g core o bs).kept ps = s.kept ps := by
  unfold State.storeBytes; simp [*]

@[simp] theorem State.storeAcc_kept (ps : List Space) (s : State) (op : ScratchAcc) (h0 : Space.scratch ∈ ps) :
    (State.storeAcc s op).kept ps = s.kept ps := by
  unfold State.storeAcc; simp [*]

@[simp] theorem State.atomicAcc_kept (ps : List Space) (s : State) (op : ScratchAcc) (h0 : Space.scratch ∈ ps) :
    (State.atomicAcc s op).1.kept ps = s.kept ps := by
  have hf : ∀ (ls : List (Nat × Nat × Nat × Nat)) (a : State × List (Nat × Nat))
      (f : State × List (Nat × Nat) → Nat × Nat × Nat × Nat → State × List (Nat × Nat)),
      (∀ a l, (f a l).1.kept ps = a.1.kept ps) → (ls.foldl f a).1.kept ps = a.1.kept ps := by
    intro ls
    induction ls with
    | nil => intro a f _; rfl
    | cons x r ih => intro a f h; rw [List.foldl_cons, ih _ _ h, h]
  exact hf _ _ _ fun a l => State.storeBytes_kept ps a.1 op.g op.core l.2.1 _ h0

@[simp] theorem State.retestPasses_kept (ps : List Space) (s : State) (core : Nat) :
    (State.retestPasses s core).kept ps = s.kept ps := by
  unfold State.retestPasses; simp

@[simp] theorem State.flip_kept (ps : List Space) (s : State) (core g0 count owner : Nat) :
    (State.flip s core g0 count owner).kept ps = s.kept ps := by
  unfold State.flip; simp

@[simp] theorem State.pushPerforms_kept (ps : List Space) (s : State) (o : GlobalOp) :
    (State.pushPerforms s o).kept ps = s.kept ps := by
  unfold State.pushPerforms; simp

@[simp] theorem State.pullBack_kept (ps : List Space) (s : State) (g : GangRef) :
    (State.pullBack s g).kept ps = s.kept ps := by
  unfold State.pullBack
  (try dsimp only); (repeat' split) <;> first | rfl | simp

@[simp] theorem State.pushDeliveries_kept (ps : List Space) (s : State) (o : GlobalOp) :
    (State.pushDeliveries s o).kept ps = s.kept ps := by
  unfold State.pushDeliveries; simp

@[simp] theorem State.pushStacks_kept (ps : List Space) (s : State) (o : GlobalOp) :
    (State.pushStacks s o).kept ps = s.kept ps := by
  unfold State.pushStacks
  (try dsimp only); (repeat' split) <;> rfl

@[simp] theorem State.countOp_kept (ps : List Space) (s : State) (o : GlobalOp) (up : Bool) :
    (State.countOp s o up).kept ps = s.kept ps := by
  rfl

theorem PChoice.next_kept (ps : List Space) (c : PChoice) (g : GangRef) (base op issue lat : Nat) (kind : GlobalKind)
    (order : Bool) (l : LaneAcc) : (c.next g base op issue lat kind order l).s.kept ps = c.s.kept ps := by
  unfold PChoice.next
  (try dsimp only); (repeat' split) <;> first | rfl | simp

@[simp] theorem LCtx.issueGlobal_kept (ps : List Space) (c : LCtx) (s : State) (i : Instr) (w : LaneWord) (kind : GlobalKind) (order : Bool) :
    (LCtx.issueGlobal c s i w kind order).kept ps = s.kept ps := by
  have h : ∀ (ls : List LaneAcc) (ch : PChoice) (f : PChoice → LaneAcc → PChoice), (∀ d l, (f d l).s.kept ps = d.s.kept ps) →
      (ls.foldl f ch).s.kept ps = ch.s.kept ps := by
    intro ls
    induction ls with
    | nil => intro ch f _; rfl
    | cons a r ih => intro ch f hf; rw [List.foldl_cons, ih _ _ hf, hf]
  unfold LCtx.issueGlobal
  simp [h _ _ _ (fun d l => PChoice.next_kept ps d c.ref c.base _ _ _ kind order l)]

@[simp] theorem State.hbmCorrected_kept (ps : List Space) (s : State) (stack : Nat) :
    (State.hbmCorrected s stack).kept ps = s.kept ps := by
  unfold State.hbmCorrected; (try dsimp only); (repeat' split) <;> first | rfl | simp

@[simp] theorem State.stackUse_kept (ps : List Space) (s : State) (stack : Nat) :
    (State.stackUse s stack).2.kept ps = s.kept ps := by
  unfold State.stackUse
  (try dsimp only); (repeat' split) <;> first | rfl | simp

@[simp] theorem State.laneStack_kept (ps : List Space) (s : State) (h : Heat) (t : Team) (l : LaneAcc) :
    (State.laneStack s h t l).2.kept ps = s.kept ps := by
  unfold State.laneStack; simp

@[simp] theorem State.stackLanes_kept (ps : List Space) (s : State) (id : Nat) (mask : BitVec 32) (first : Bool) :
    (State.stackLanes s id mask first).kept ps = s.kept ps := by
  unfold State.stackLanes
  split
  · rfl
  · split
    · rename_i h t _ _
      split
      · rfl
      · dsimp only
        split <;> simp only [State.detect_kept, State.stopNamed_kept, State.modGop_kept]
        all_goals refine foldl_kept_snd ps _ (fun a l => ?_) _ _
        all_goals exact State.laneStack_kept ps a.2 h t l
    · rfl

@[simp] theorem State.takeLoss_kept (ps : List Space) (s : State) (which : Nat) (sq : BitVec 32) :
    (State.takeLoss s which sq).2.kept ps = s.kept ps := by
  unfold State.takeLoss
  (try dsimp only); (repeat' split) <;> rfl

@[simp] theorem State.recordAtomic_kept (ps : List Space) (s : State) (heatid : BitVec 32) (team stack : Nat) (sq : BitVec 32) (old : Nat) :
    (State.recordAtomic s heatid team stack sq old).kept ps = s.kept ps := by
  unfold State.recordAtomic
  (try dsimp only); (repeat' split) <;> rfl

@[simp] theorem State.modLane_kept (ps : List Space) (s : State) (id lane : Nat) (f : LaneAcc → LaneAcc) :
    (State.modLane s id lane f).kept ps = s.kept ps := by
  rfl

@[simp] theorem State.applyAtomic_kept (ps : List Space) (s : State) (o : GlobalOp) (l : LaneAcc) (h0 : Space.hbm ∈ ps) :
    (State.applyAtomic s o l).2.kept ps = s.kept ps := by
  unfold State.applyAtomic; (try dsimp only); (repeat' split) <;> first | rfl | simp [*]

@[simp] theorem State.performStore_kept (ps : List Space) (s : State) (o : GlobalOp) (l : LaneAcc) (h0 : Space.hbm ∈ ps) :
    (State.performStore s o l).kept ps = s.kept ps := by
  unfold State.performStore; (try dsimp only); (repeat' split) <;> simp [*]

@[simp] theorem State.performCore_kept (ps : List Space) (s : State) (core : Nat) (h0 : Space.hbm ∈ ps) :
    (State.performCore s core).kept ps = s.kept ps := by
  unfold State.performCore; simp [*]

@[simp] theorem State.performLoad_kept (ps : List Space) (s : State) (o : GlobalOp) (mask : BitVec 32) :
    (State.performLoad s o mask).kept ps = s.kept ps := by
  rfl

@[simp] theorem State.performRecord_kept (ps : List Space) (s : State) (o : GlobalOp) :
    (State.performRecord s o).kept ps = s.kept ps := by
  unfold State.performRecord
  (try dsimp only); (repeat' split) <;> rfl

@[simp] theorem State.deliver_kept (ps : List Space) (s : State) (o : GlobalOp) (mask : BitVec 32) :
    (State.deliver s o mask).kept ps = s.kept ps := by
  unfold State.deliver; simp

@[simp] theorem LCtx.modGroup_kept (ps : List Space) (c : LCtx) (s : State) (f : Group → Group) :
    (LCtx.modGroup c s f).kept ps = s.kept ps := by
  rfl

@[simp] theorem LCtx.goto_kept (ps : List Space) (c : LCtx) (s : State) (pc : Nat) :
    (LCtx.goto c s pc).kept ps = s.kept ps := by
  rfl

@[simp] theorem State.afterRetire_kept (ps : List Space) (s : State) (r : TeamRef) :
    (State.afterRetire s r).kept ps = s.kept ps := by
  unfold State.afterRetire; simp

@[simp] theorem UCtx.commit_kept (ps : List Space) (c : UCtx) (s : State) (i : Instr) (L : Nat) :
    (UCtx.commit c s i L).kept ps = s.kept ps := by
  unfold UCtx.commit; simp

@[simp] theorem UCtx.goto_kept (ps : List Space) (c : UCtx) (s : State) (pc : Nat) :
    (UCtx.goto c s pc).kept ps = s.kept ps := by
  rfl

@[simp] theorem UCtx.readRecord_kept (ps : List Space) (c : UCtx) (s : State) (i : Instr) (kind : GlobalKind) (va size n : Nat) (bar : Option Word) (eop : Nat) (ev : Nat → Ev) :
    (UCtx.readRecord c s i kind va size n bar eop ev).kept ps = s.kept ps := by
  rfl

@[simp] theorem State.stackRecord_kept (ps : List Space) (s : State) (id : Nat) :
    (State.stackRecord s id).kept ps = s.kept ps := by
  unfold State.stackRecord
  (try dsimp only); (repeat' split) <;> first | rfl | simp

@[simp] theorem State.recordDone_kept (ps : List Space) (s : State) (o : GlobalOp) (bad : List Nat) (land : Team → Team) :
    (State.recordDone s o bad land).kept ps = s.kept ps := by
  unfold State.recordDone
  (try dsimp only); (repeat' split) <;> simp

@[simp] theorem State.writeBudget_kept (ps : List Space) (s : State) (v : Nat) :
    (State.writeBudget s v).kept ps = s.kept ps := by
  unfold State.writeBudget; simp

@[simp] theorem State.writeControl_kept (ps : List Space) (s : State) (n : Nat) (v : Word) :
    (State.writeControl s n v).kept ps = s.kept ps := by
  unfold State.writeControl
  (try dsimp only); (repeat' split) <;> first | rfl | simp

@[simp] theorem UCtx.issueEngine_kept (ps : List Space) (c : UCtx) (s : State) (i : Instr) (w : UE) (opcode : Nat) (p : EngPlan) (body : EngBody) (cr : Bool) (crh : Word) :
    (UCtx.issueEngine c s i w opcode p body cr crh).kept ps = s.kept ps := by
  rfl

@[simp] theorem State.cancelFrom_kept (ps : List Space) (s : State) (id place : Nat) :
    (State.cancelFrom s id place).kept ps = s.kept ps := by
  rfl

@[simp] theorem State.holdCmd_kept (ps : List Space) (s : State) (c : EngCmd) :
    (State.holdCmd s c).kept ps = s.kept ps := by
  rfl

@[simp] theorem applyCredits_kept (ps : List Space) (x0 : Nat) (x1 : State) (x2 : Nat) : (applyCredits x0 x1 x2).kept ps = x1.kept ps := by
  induction x0 generalizing x1 with
  | zero => rfl
  | succ n ih =>
    unfold applyCredits
    split
    · rfl
    · split
      · dsimp only
        rw [ih]
        split <;> simp
      · rfl

@[simp] theorem State.creditCmd_kept (ps : List Space) (s : State) (id : Nat) :
    (State.creditCmd s id).kept ps = s.kept ps := by
  unfold State.creditCmd
  (try dsimp only); (repeat' split) <;> first | rfl | simp

@[simp] theorem State.creditFailed_kept (ps : List Space) (s : State) (cl eng : Nat) :
    (State.creditFailed s cl eng).kept ps = s.kept ps := by
  unfold State.creditFailed; (try dsimp only); (repeat' split) <;> first | rfl | simp

@[simp] theorem State.failCmd_kept (ps : List Space) (s : State) (c : EngCmd) (place cause addr info : Nat) (iter : List Nat) :
    (State.failCmd s c place cause addr info iter).kept ps = s.kept ps := by
  unfold State.failCmd
  (try dsimp only); (repeat' split) <;> simp

@[simp] theorem State.finishCmd_kept (ps : List Space) (s : State) (c : EngCmd) :
    (State.finishCmd s c).kept ps = s.kept ps := by
  unfold State.finishCmd
  (try dsimp only); (repeat' split) <;> simp

@[simp] theorem finishReady_kept (ps : List Space) (x0 : Nat) (x1 : State) (x2 : Nat) (x3 : Nat) : (finishReady x0 x1 x2 x3).kept ps = x1.kept ps := by
  induction x0 generalizing x1 with
  | zero => rfl
  | succ n ih =>
    unfold finishReady
    split
    · rfl
    · split
      · rw [ih]; simp
      · simp

@[simp] theorem State.writeD_kept (ps : List Space) (s : State) (c : EngCmd) (b : MmaBody) (k : PassKind) (first n : Nat) (h0 : Space.scratch ∈ ps) (h1 : Space.tiles ∈ ps) :
    (State.writeD s c b k first n).kept ps = s.kept ps := by
  unfold State.writeD
  dsimp only
  split
  · rw [State.modTeam_kept]; simp [State.kept, Space.cut_of_mem h1]; exact ⟨rfl, rfl, rfl, rfl, rfl⟩
  · exact (foldl_kept ps _ (fun s e => by simp [h0]) _ _).trans (by simp)
  · simp

@[simp] theorem State.writePart_kept (ps : List Space) (s : State) (c : EngCmd) (b : MmaBody) (k : PassKind) (h0 : Space.scratch ∈ ps) (h1 : Space.tiles ∈ ps) :
    (State.writePart s c b k).kept ps = s.kept ps := by
  unfold State.writePart; (try dsimp only); (repeat' split) <;> first | rfl | simp [*]

@[simp] theorem State.failCopy_kept (ps : List Space) (s : State) (c : EngCmd) (b : XcpBody) (place cause addr info : Nat) :
    (State.failCopy s c b place cause addr info).kept ps = s.kept ps := by
  unfold State.failCopy; simp

@[simp] theorem State.bytesCorrected_kept (ps : List Space) (s : State) (core sbase : Nat) (offs : List Nat) :
    (State.bytesCorrected s core sbase offs).kept ps = s.kept ps := by
  unfold State.bytesCorrected; (try dsimp only); (repeat' split) <;> first | rfl | simp

@[simp] theorem State.setTileByte_kept (ps : List Space) (s : State) (cluster n a : Nat) (v : Byte) (h0 : Space.tiles ∈ ps) :
    (State.setTileByte s cluster n a v).kept ps = s.kept ps := by
  simp [State.setTileByte, State.kept, Space.cut_of_mem h0]

@[simp] theorem State.fillBuf_kept (ps : List Space) (s : State) (id row : Nat) (bs : List (Nat × Byte)) :
    (State.fillBuf s id row bs).kept ps = s.kept ps := by
  rfl

@[simp] theorem State.pieceCorrected_kept (ps : List Space) (s : State) (c : EngCmd) (b : XcpBody) (r : RowSide) (j : Nat) :
    (State.pieceCorrected s c b r j).kept ps = s.kept ps := by
  unfold State.pieceCorrected; (try dsimp only); (repeat' split) <;> first | rfl | simp

@[simp] theorem State.wrote_kept (ps : List Space) (s : State) (id : Nat) (b : XcpBody) (row n : Nat) :
    (State.wrote s id b row n).kept ps = s.kept ps := by
  unfold State.wrote
  (try dsimp only); (repeat' split) <;> simp

@[simp] theorem State.pushWrites_kept (ps : List Space) (s : State) (c : EngCmd) (b : XcpBody) (place : Nat) (r : CopyRow) (w : Nat) :
    (State.pushWrites s c b place r w).kept ps = s.kept ps := by
  unfold State.pushWrites
  (try dsimp only); (repeat' split) <;> first | rfl | simp

@[simp] theorem State.pushNext_kept (ps : List Space) (s : State) (c : EngCmd) (b : XcpBody) (place : Nat) (r : CopyRow) :
    (State.pushNext s c b place r).kept ps = s.kept ps := by
  unfold State.pushNext; simp

@[simp] theorem State.storePieces_kept (ps : List Space) (s : State) (c : EngCmd) (b : XcpBody) (r : CopyRow) (row : Nat) (qs : List Nat) (h0 : Space.tiles ∈ ps) (h1 : Space.scratch ∈ ps) :
    (State.storePieces s c b r row qs).kept ps = s.kept ps := by
  unfold State.storePieces
  refine (foldl_kept ps _ (fun s e => ?_) _ _).trans ?_
  · split <;> simp [h0, h1]
  · split <;> first | rfl | simp

@[simp] theorem State.beatStack_kept (ps : List Space) (s : State) (r : TeamRef) (va : Nat) (write : Bool) :
    (State.beatStack s r va write).2.kept ps = s.kept ps := by
  unfold State.beatStack
  (try dsimp only); (repeat' split) <;> first | rfl | simp

@[simp] theorem State.beatRead_kept (ps : List Space) (s : State) (id place : Nat) :
    (State.beatRead s id place).kept ps = s.kept ps := by
  unfold State.beatRead
  (try dsimp only); (repeat' split) <;> first | rfl | simp

@[simp] theorem State.beatWrite_kept (ps : List Space) (s : State) (id place q : Nat) (h0 : Space.hbm ∈ ps) :
    (State.beatWrite s id place q).kept ps = s.kept ps := by
  unfold State.beatWrite; (try dsimp only); (repeat' split) <;> first | rfl | simp [*]

@[simp] theorem State.hostPart_kept (ps : List Space) (s : State) (c : EngCmd) (b : XcpBody) (r : CopyRow) (place : Nat) (write : Bool) (h0 : Space.host ∈ ps) :
    (State.hostPart s c b r place write).kept ps = s.kept ps := by
  unfold State.hostPart
  dsimp only
  split
  · rw [State.modCmd_kept]
    exact foldl_kept ps _ (fun s q => foldl_kept ps _ (fun s e => by simp [h0]) _ _) _ _
  · simp

@[simp] theorem State.performed_kept (ps : List Space) (s : State) (d : AckTo) :
    (State.performed s d).kept ps = s.kept ps := by
  unfold State.performed
  (try dsimp only); (repeat' split) <;> first | rfl | simp

@[simp] theorem State.modUnit_kept (ps : List Space) (s : State) (u : Nat) (f : Coalesce → Coalesce) :
    (State.modUnit s u f).kept ps = s.kept ps := by
  rfl

@[simp] theorem State.raise_kept (ps : List Space) (s : State) (u : Nat) :
    (State.raise s u).kept ps = s.kept ps := by
  unfold State.raise; simp

@[simp] theorem State.countEntry_kept (ps : List Space) (s : State) (u : Nat) :
    (State.countEntry s u).kept ps = s.kept ps := by
  unfold State.countEntry; simp

@[simp] theorem State.timeRule_kept (ps : List Space) (s : State) (u : Nat) :
    (State.timeRule s u).kept ps = s.kept ps := by
  unfold State.timeRule; simp

@[simp] theorem State.modRing_kept (ps : List Space) (s : State) (r : Nat) (f : Ring → Ring) :
    (State.modRing s r f).kept ps = s.kept ps := by
  rfl

@[simp] theorem State.postEntry_kept (ps : List Space) (s : State) (r : Nat) (bytes : List Byte) (d : AckTo) (h0 : Space.host ∈ ps) :
    (State.postEntry s r bytes d).kept ps = s.kept ps := by
  unfold State.postEntry; simp [*]

@[simp] theorem drainRing_kept (ps : List Space) (x0 : Nat) (x1 : State) (x2 : Nat) (h0 : Space.host ∈ ps) : (drainRing x0 x1 x2).kept ps = x1.kept ps := by
  induction x0 generalizing x1 with
  | zero => rfl
  | succ n ih =>
    unfold drainRing
    split
    · rfl
    · dsimp only
      split
      · rfl
      · split
        · rw [ih]; simp [h0]
        · simp

@[simp] theorem State.post_kept (ps : List Space) (s : State) (r : Nat) (e : RingEntry) :
    (State.post s r e).kept ps = s.kept ps := by
  unfold State.post; simp

@[simp] theorem State.discardEntry_kept (ps : List Space) (s : State) (r : Nat) (lost : Bool) (e : RingEntry) :
    (State.discardEntry s r lost e).kept ps = s.kept ps := by
  unfold State.discardEntry; (try dsimp only); (repeat' split) <;> first | rfl | simp

@[simp] theorem State.entryReady_kept (ps : List Space) (s : State) (r id : Nat) :
    (State.entryReady s r id).kept ps = s.kept ps := by
  unfold State.entryReady; (try dsimp only); (repeat' split) <;> first | rfl | simp

@[simp] theorem State.wakePort_kept (ps : List Space) (s : State) (p : Nat) :
    (State.wakePort s p).kept ps = s.kept ps := by
  unfold State.wakePort
  (try dsimp only); (repeat' split) <;> rfl

@[simp] theorem State.enqueue_kept (ps : List Space) (s : State) (p ready : Nat) (m : Msg) :
    (State.enqueue s p ready m).kept ps = s.kept ps := by
  unfold State.enqueue; simp

@[simp] theorem State.emit_kept (ps : List Space) (s : State) (m : Msg) (ready : Nat) :
    (State.emit s m ready).kept ps = s.kept ps := by
  unfold State.emit
  (try dsimp only); (repeat' split) <;> first | rfl | simp

@[simp] theorem State.reply_kept (ps : List Space) (s : State) (m : Msg) (cause : Nat) :
    (State.reply s m cause).kept ps = s.kept ps := by
  unfold State.reply; simp

@[simp] theorem State.takeSeq_kept (ps : List Space) (s : State) (k : FlowKey) :
    (State.takeSeq s k).2.kept ps = s.kept ps := by
  unfold State.takeSeq
  (try dsimp only); (repeat' split) <;> rfl

@[simp] theorem State.sendMessage_kept (ps : List Space) (s : State) (m : Msg) (done : AckTo) :
    (State.sendMessage s m done).kept ps = s.kept ps := by
  unfold State.sendMessage; simp

@[simp] theorem State.sendOn_kept (ps : List Space) (s : State) (p : Nat) (m : Msg) :
    (State.sendOn s p m).kept ps = s.kept ps := by
  unfold State.sendOn; (try dsimp only); (repeat' split) <;> first | rfl | simp

@[simp] theorem State.sendRouted_kept (ps : List Space) (s : State) (m : Msg) :
    (State.sendRouted s m).kept ps = s.kept ps := by
  unfold State.sendRouted; (try dsimp only); (repeat' split) <;> first | rfl | simp

@[simp] theorem State.raiseFor_kept (ps : List Space) (s : State) (d : AckTo) (cause : Nat) :
    (State.raiseFor s d cause).kept ps = s.kept ps := by
  unfold State.raiseFor
  (try dsimp only); (repeat' split) <;> rfl

@[simp] theorem State.loseMessage_kept (ps : List Space) (s : State) (u : Unacked) (neg : Bool) :
    (State.loseMessage s u neg).kept ps = s.kept ps := by
  unfold State.loseMessage; simp

@[simp] theorem State.wakePorts_kept (ps : List Space) (s : State) :
    (State.wakePorts s).kept ps = s.kept ps := by
  exact foldl_kept ps _ (fun s p => by simp) _ _

@[simp] theorem State.deliverMsg_kept (ps : List Space) (s : State) (m : Msg) (port c : Nat) :
    (State.deliverMsg s m port c).kept ps = s.kept ps := by
  unfold State.deliverMsg
  (try dsimp only); (repeat' split) <;> rfl

@[simp] theorem State.expect_kept (ps : List Space) (s : State) (k : FlowKey) (sq : BitVec 32) (from_ : Nat) :
    (State.expect s k sq from_).kept ps = s.kept ps := by
  unfold State.expect; simp

@[simp] theorem deliverHeld_kept (ps : List Space) (x0 : Nat) (x1 : State) (x2 : FlowKey) (x3 : BitVec 32) (x4 : Nat) : (deliverHeld x0 x1 x2 x3 x4).kept ps = x1.kept ps := by
  induction x0 generalizing x1 x3 x4 with
  | zero => simp [deliverHeld]
  | succ n ih =>
    unfold deliverHeld
    split
    · simp
    · rw [ih]; simp

@[simp] theorem State.note_kept (ps : List Space) (s : State) (k : FlowKey) (sq : BitVec 32) :
    (State.note s k sq).kept ps = s.kept ps := by
  rfl

@[simp] theorem State.arrive_kept (ps : List Space) (s : State) (m : Msg) (port c : Nat) :
    (State.arrive s m port c).kept ps = s.kept ps := by
  unfold State.arrive; simp

@[simp] theorem State.releaseMessage_kept (ps : List Space) (s : State) (port : Nat) (bytes : List Byte) :
    (State.releaseMessage s port bytes).kept ps = s.kept ps := by
  unfold State.releaseMessage; (try dsimp only); (repeat' split) <;> first | rfl | simp

@[simp] theorem State.applySignal_kept (ps : List Space) (s : State) (core rank : Nat) (handle credit : Word) (arrive : Bool) :
    (State.applySignal s core rank handle credit arrive).kept ps = s.kept ps := by
  unfold State.applySignal; simp

@[simp] theorem UCtx.postMessage_kept (ps : List Space) (c : UCtx) (s : State) (i : Instr) (p : AckTo → Post) (w : UE) :
    (UCtx.postMessage c s i p w).kept ps = s.kept ps := by
  rfl

@[simp] theorem State.accept_kept (ps : List Space) (s : State) (p : Post) :
    (State.accept s p).kept ps = s.kept ps := by
  unfold State.accept
  (try dsimp only); (repeat' split) <;> first | rfl | simp

@[simp] theorem State.pushTransmit_kept (ps : List Space) (s : State) (hid i : Nat) (e : FlowEntry) (base c : Nat) :
    (State.pushTransmit s hid i e base c).kept ps = s.kept ps := by
  unfold State.pushTransmit
  split <;> simp

@[simp] theorem State.putTx_kept (ps : List Space) (s : State) (port k : Nat) (bs : List Byte) :
    (State.putTx s port k bs).kept ps = s.kept ps := by
  rfl

@[simp] theorem State.transmitFrom_kept (ps : List Space) (s : State) (h : Heat) (i : Nat) (e : FlowEntry) (k : Nat) (late : Bool) :
    (State.transmitFrom s h i e k late).kept ps = s.kept ps := by
  unfold State.transmitFrom; (try dsimp only); (repeat' split) <;> first | rfl | simp

@[simp] theorem State.flowRead_kept (ps : List Space) (s : State) (hid i k : Nat) :
    (State.flowRead s hid i k).kept ps = s.kept ps := by
  unfold State.flowRead
  (try dsimp only); (repeat' split) <;> first | rfl | simp

@[simp] theorem State.relayed_kept (ps : List Space) (s : State) (hid : Nat) (e : FlowEntry) (cursor : Nat) :
    (State.relayed s hid e cursor).2.kept ps = s.kept ps := by
  unfold State.relayed; (try dsimp only); (repeat' split) <;> first | rfl | simp

@[simp] theorem State.flitNow_kept (ps : List Space) (s : State) (h : Heat) (i : Nat) (e : FlowEntry) (k : Nat) :
    (State.flitNow s h i e k).2.kept ps = s.kept ps := by
  unfold State.flitNow
  (try dsimp only); (repeat' split) <;> first | rfl | simp

@[simp] theorem State.retireFlows_kept (ps : List Space) (s : State) (h : Heat) :
    (State.retireFlows s h).kept ps = s.kept ps := by
  unfold State.retireFlows
  dsimp only
  refine (foldl_kept ps _ (fun s p => ?_) _ _).trans ((foldl_kept ps _ (fun s e => ?_) _ _).trans rfl)
  · split <;> simp
  · split <;> simp

@[simp] theorem State.pushRelease_kept (ps : List Space) (s : State) (port c : Nat) :
    (State.pushRelease s port c).kept ps = s.kept ps := by
  unfold State.pushRelease; simp

@[simp] theorem State.pushReleases_kept (ps : List Space) (s : State) (port c : Nat) :
    (State.pushReleases s port c).kept ps = s.kept ps := by
  refine foldl_kept ps _ (fun s h => foldl_kept ps _ (fun s e => ?_) _ _) _ _
  split <;> simp

@[simp] theorem State.haltByFlit_kept (ps : List Space) (s : State) (hid i port : Nat) :
    (State.haltByFlit s hid i port).kept ps = s.kept ps := by
  unfold State.haltByFlit
  (try dsimp only); (repeat' split) <;> rfl

@[simp] theorem State.landFlit_kept (ps : List Space) (s : State) (h : Heat) (i : Nat) (e : FlowEntry) (cursor : Nat) (bs : List Byte) :
    (State.landFlit s h i e cursor bs).kept ps = s.kept ps := by
  unfold State.landFlit
  (try dsimp only); (repeat' split) <;> rfl

@[simp] theorem State.receiveFlit_kept (ps : List Space) (s : State) (port : Nat) (f : Flit) (x : Heat × Nat × FlowEntry) :
    (State.receiveFlit s port f x).kept ps = s.kept ps := by
  unfold State.receiveFlit
  (try dsimp only); (repeat' split) <;> first | rfl | simp

@[simp] theorem State.relayFor_kept (ps : List Space) (s : State) (port flow : Nat) (f : Flit) (h : Heat) :
    (State.relayFor s port flow f h).kept ps = s.kept ps := by
  unfold State.relayFor; (try dsimp only); (repeat' split) <;> first | rfl | simp

@[simp] theorem State.releaseSlot_kept (ps : List Space) (s : State) (port : Nat) (f : Flit) :
    (State.releaseSlot s port f).kept ps = s.kept ps := by
  unfold State.releaseSlot; (try dsimp only); (repeat' split) <;> first | rfl | simp

@[simp] theorem State.landed_kept (ps : List Space) (s : State) (hid : Nat) (e : FlowEntry) (cursor : Nat) :
    (State.landed s hid e cursor).kept ps = s.kept ps := by
  unfold State.landed
  (try dsimp only); (repeat' split) <;> first | rfl | simp

@[simp] theorem State.landScratch_kept (ps : List Space) (s : State) (hid : Nat) (e : FlowEntry) (o cursor : Nat) (bs : List Byte) (h0 : Space.scratch ∈ ps) :
    (State.landScratch s hid e o cursor bs).kept ps = s.kept ps := by
  unfold State.landScratch; (try dsimp only); (repeat' split) <;> first | rfl | simp [*]

@[simp] theorem State.flowLand_kept (ps : List Space) (s : State) (hid i cursor : Nat) (bs : List Byte) (h0 : Space.hbm ∈ ps) :
    (State.flowLand s hid i cursor bs).kept ps = s.kept ps := by
  unfold State.flowLand; (try dsimp only); (repeat' split) <;> first | rfl | simp [*]

@[simp] theorem State.startFlows_kept (ps : List Space) (s : State) (hid c : Nat) (pick : Nat → Bool) :
    (State.startFlows s hid c pick).kept ps = s.kept ps := by
  unfold State.startFlows
  split
  · rfl
  · refine foldl_kept ps _ (fun s e => ?_) _ _
    dsimp only
    repeat' split
    all_goals simp

@[simp] theorem State.raisePort_kept (ps : List Space) (s : State) (p cause : Nat) :
    (State.raisePort s p cause).kept ps = s.kept ps := by
  unfold State.raisePort; simp

@[simp] theorem State.bestMaster_kept (ps : List Space) (s : State) :
    (State.bestMaster s).kept ps = s.kept ps := by
  unfold State.bestMaster; (try dsimp only); (repeat' split) <;> first | rfl | simp

@[simp] theorem UCtx.issueXfer_kept (ps : List Space) (c : UCtx) (s : State) (w : UE) :
    (UCtx.issueXfer c s w).kept ps = s.kept ps := by
  unfold UCtx.issueXfer; simp

@[simp] theorem State.xferStack_kept (ps : List Space) (s : State) (o : GlobalOp) :
    (State.xferStack s o).kept ps = s.kept ps := by
  unfold State.xferStack
  (try dsimp only); (repeat' split) <;> first | rfl | simp

@[simp] theorem State.placeBytes_kept (ps : List Space) (s : State) (hid : Nat) (e : FlowEntry) (p : FlowPlace) (write : Bool) :
    (State.placeBytes s hid e p write).2.kept ps = s.kept ps := by
  unfold State.placeBytes; (try dsimp only); (repeat' split) <;> first | rfl | simp

@[simp] theorem State.putPlace_kept (ps : List Space) (s : State) (hid : Nat) (e : FlowEntry) (p : FlowPlace) (bs : List Byte) (h0 : Space.scratch ∈ ps) (h1 : Space.hbm ∈ ps) :
    (State.putPlace s hid e p bs).kept ps = s.kept ps := by
  unfold State.putPlace; (try dsimp only); (repeat' split) <;> first | rfl | simp [*]

@[simp] theorem State.pushImage_kept (ps : List Space) (s : State) (c : EngCmd) (cycle off : Nat) :
    (State.pushImage s c cycle off).kept ps = s.kept ps := by
  unfold State.pushImage; (try dsimp only); (repeat' split) <;> first | rfl | simp

@[simp] theorem State.useStacks_kept (ps : List Space) (s : State) (ks : List Nat) :
    (State.useStacks s ks).2.kept ps = s.kept ps := by
  refine foldl_kept_snd ps _ (fun a k => ?_) _ _
  exact State.stackUse_kept ps a.2 k

@[simp] theorem State.clearTeam_kept (ps : List Space) (s : State) (t : Team) (h0 : Space.scratch ∈ ps) (h1 : Space.tiles ∈ ps) :
    (State.clearTeam s t).kept ps = s.kept ps := by
  have h : ((s.modCore t.core _).kept ps) = s.kept ps := State.modCore_kept ps s t.core fun c =>
    { c with
      owner := Store.clearRun c.owner t.sbase t.scnt
      closed := Store.clearRun c.closed t.sbase t.scnt }
  simpa [State.clearTeam, State.kept, Space.cut_of_mem h0, Space.cut_of_mem h1] using h

@[simp] theorem State.landingOwners_kept (ps : List Space) (s : State) (h : Heat) :
    (State.landingOwners s h).kept ps = s.kept ps := by
  refine foldl_kept ps _ (fun s e => ?_) _ _
  split <;> simp

@[simp] theorem State.buildBank_kept (ps : List Space) (s : State) (p : Nat) :
    (State.buildBank s p).kept ps = s.kept ps := by
  rfl

@[simp] theorem State.armBanks_kept (ps : List Space) (s : State) (r : Record) (swcyc : Nat) :
    (State.armBanks s r swcyc).kept ps = s.kept ps := by
  unfold State.armBanks; simp

@[simp] theorem State.initTrigger_kept (ps : List Space) (s : State) (h : Heat) :
    (State.initTrigger s h).kept ps = s.kept ps := by
  unfold State.initTrigger
  (try dsimp only); (repeat' split) <;> rfl

@[simp] theorem State.admitHeat_kept (ps : List Space) (s : State) (q : Nat) (origin : Origin) (r : Record) (clusters : List Nat) (a : Nat) (args : List Word) (h0 : Space.scratch ∈ ps) (h1 : Space.tiles ∈ ps) :
    (State.admitHeat s q origin r clusters a args).kept ps = s.kept ps := by
  unfold State.admitHeat
  dsimp only
  (repeat' split) <;> simp [h0, h1]

@[simp] theorem State.fixAnchor_kept (ps : List Space) (s : State) (h : Heat) (advance : Nat) :
    (State.fixAnchor s h advance).kept ps = s.kept ps := by
  unfold State.fixAnchor; (try dsimp only); (repeat' split) <;> first | rfl | simp

@[simp] theorem State.writeLoc_kept (ps : List Space) (s : State) (dev : Bool) (a : Nat) (bs : List Byte) (h0 : Space.hbm ∈ ps) (h1 : Space.host ∈ ps) :
    (State.writeLoc s dev a bs).kept ps = s.kept ps := by
  unfold State.writeLoc; simp [*]

@[simp] theorem State.writeCompletion_kept (ps : List Space) (s : State) (q entry : Nat) (irq : Bool) (c : Completion) (h0 : Space.hbm ∈ ps) (h1 : Space.host ∈ ps) :
    (State.writeCompletion s q entry irq c).kept ps = s.kept ps := by
  unfold State.writeCompletion; simp [*]

@[simp] theorem State.writeNotice_kept (ps : List Space) (s : State) (q : Nat) (irq : Bool) (c : Completion) (h0 : Space.hbm ∈ ps) (h1 : Space.host ∈ ps) :
    (State.writeNotice s q irq c).kept ps = s.kept ps := by
  unfold State.writeNotice; simp [*]

@[simp] theorem State.settleCharge_kept (ps : List Space) (s : State) (hid : Nat) :
    (State.settleCharge s hid).kept ps = s.kept ps := by
  unfold State.settleCharge
  (try dsimp only); (repeat' split) <;> rfl

@[simp] theorem State.freeCores_kept (ps : List Space) (s : State) (h : Heat) :
    (State.freeCores s h).kept ps = s.kept ps := by
  unfold State.freeCores; simp

@[simp] theorem State.saveCorrected_kept (ps : List Space) (s : State) (h : Heat) :
    (State.saveCorrected s h).kept ps = s.kept ps := by
  exact foldl_kept ps _ (fun s k => State.corrected_kept ps s k _) _ _

@[simp] theorem State.writeImage_kept (ps : List Space) (s : State) (h : Heat) (h0 : Space.hbm ∈ ps) :
    (State.writeImage s h).1.kept ps = s.kept ps := by
  unfold State.writeImage; simp [*]

@[simp] theorem State.restoreMemory_kept (ps : List Space) (s : State) (h : Heat) (h0 : Space.scratch ∈ ps) (h1 : Space.tiles ∈ ps) :
    (State.restoreMemory s h).kept ps = s.kept ps := by
  unfold State.restoreMemory
  split
  · rfl
  · refine (foldl_kept ps _ (fun s e => ?_) _ _).trans ((foldl_kept ps _ (fun s e => ?_) _ _).trans
      ((foldl_kept ps _ (fun s e => ?_) _ _).trans (foldl_kept ps _ (fun s e => ?_) _ _)))
    · split
      · simp [State.kept, Space.cut_of_mem h1]
      · rfl
    · split <;> simp [h0]
    · simp
    · simp [h0, h1]

@[simp] theorem State.abortHeat_kept (ps : List Space) (s : State) (hid cause : Nat) :
    (State.abortHeat s hid cause).kept ps = s.kept ps := by
  rfl

@[simp] theorem State.pushRaw_kept (ps : List Space) (s : State) (cycle rank : Nat) (ev : Ev) :
    (State.pushRaw s cycle rank ev).kept ps = s.kept ps := by
  rfl

@[simp] theorem State.mailStatus_kept (ps : List Space) (s : State) (code : Nat) :
    (State.mailStatus s code).kept ps = s.kept ps := by
  rfl

@[simp] theorem State.preemptHeat_kept (ps : List Space) (s : State) (h : Heat) (discards : List Nat) :
    (State.preemptHeat s h discards).kept ps = s.kept ps := by
  rfl

@[simp] theorem State.preempt_kept (ps : List Space) (s : State) (heatid : BitVec 32) (save : Heat → Option (List Nat)) :
    (State.preempt s heatid save).kept ps = s.kept ps := by
  unfold State.preempt
  (try dsimp only); (repeat' split) <;> rfl

@[simp] theorem State.beginHalt_kept (ps : List Space) (s : State) (hid : Nat) :
    (State.beginHalt s hid).kept ps = s.kept ps := by
  unfold State.beginHalt
  (try dsimp only); (repeat' split) <;> first | rfl | simp

@[simp] theorem State.flood_kept (ps : List Space) (s : State) (payload : List Byte) (notOn : Option Nat) :
    (State.flood s payload notOn).kept ps = s.kept ps := by
  refine foldl_kept ps _ (fun s p => ?_) _ _
  split <;> simp

@[simp] theorem State.sendControl_kept (ps : List Space) (s : State) (pkg : Nat) (payload : List Byte) :
    (State.sendControl s pkg payload).kept ps = s.kept ps := by
  unfold State.sendControl; (try dsimp only); (repeat' split) <;> first | rfl | simp

@[simp] theorem State.freezeHeat_kept (ps : List Space) (s : State) (h : Heat) :
    (State.freezeHeat s h).kept ps = s.kept ps := by
  unfold State.freezeHeat
  exact (foldl_kept ps _ (fun s ti => State.modTeam_kept ps s _ _) _ _).trans rfl

@[simp] theorem State.logTrap_kept (ps : List Space) (s : State) (h : Heat) (h0 : Space.hbm ∈ ps) :
    (State.logTrap s h).kept ps = s.kept ps := by
  unfold State.logTrap
  dsimp only
  split <;> simp [h0]

@[simp] theorem State.closeTrap_kept (ps : List Space) (s : State) (hid : Nat) (h0 : Space.hbm ∈ ps) :
    (State.closeTrap s hid).kept ps = s.kept ps := by
  unfold State.closeTrap
  split
  · rfl
  · split
    · rfl
    · dsimp only
      rw [State.logTrap_kept ps _ _ h0]
      split <;> simp

@[simp] theorem State.tellHalted_kept (ps : List Space) (s : State) (cause arg : Nat) :
    (State.tellHalted s cause arg).kept ps = s.kept ps := by
  unfold State.tellHalted; (try dsimp only); (repeat' split) <;> first | rfl | simp

@[simp] theorem State.fatalDump_kept (ps : List Space) (s : State) (cause : Nat) (h0 : Space.hbm ∈ ps) :
    (State.fatalDump s cause).kept ps = s.kept ps := by
  unfold State.fatalDump
  simp [h0]

@[simp] theorem State.raiseFatal_kept (ps : List Space) (s : State) (cause : Nat) (h0 : Space.hbm ∈ ps) :
    (State.raiseFatal s cause).kept ps = s.kept ps := by
  unfold State.raiseFatal; (try dsimp only); (repeat' split) <;> simp [*]

@[simp] theorem State.reportHalted_kept (ps : List Space) (s : State) :
    (State.reportHalted s).kept ps = s.kept ps := by
  unfold State.reportHalted
  (try dsimp only); (repeat' split) <;> first | rfl | simp

@[simp] theorem State.startSave_kept (ps : List Space) (s : State) (h : Heat) :
    (State.startSave s h).kept ps = s.kept ps := by
  unfold State.startSave
  (try dsimp only); (repeat' split) <;> first | rfl | simp

@[simp] theorem State.actPolicy_kept (ps : List Space) (s : State) (h : Heat) (h0 : Space.hbm ∈ ps) :
    (State.actPolicy s h).kept ps = s.kept ps := by
  unfold State.actPolicy; (try dsimp only); (repeat' split) <;> first | rfl | simp [*]

@[simp] theorem State.leaves_kept (ps : List Space) (s : State) (h : Heat) :
    (State.leaves s h).kept ps = s.kept ps := by
  unfold State.leaves; (try dsimp only); (repeat' split) <;> first | rfl | simp

@[simp] theorem State.moveHeat_kept (ps : List Space) (s : State) (h : Heat) (new : List Nat) :
    (State.moveHeat s h new).kept ps = s.kept ps := by
  rfl

@[simp] theorem State.beginRestore_kept (ps : List Space) (s : State) (h : Heat) (clusters : List Nat) (a : Nat) :
    (State.beginRestore s h clusters a).kept ps = s.kept ps := by
  unfold State.beginRestore; simp

@[simp] theorem State.restartTeam_kept (ps : List Space) (s : State) (h : Heat) (ti : Nat) (h0 : Space.scratch ∈ ps) (h1 : Space.tiles ∈ ps) :
    (State.restartTeam s h ti).kept ps = s.kept ps := by
  unfold State.restartTeam; (try dsimp only); (repeat' split) <;> first | rfl | simp [*]

@[simp] theorem State.bringBack_kept (ps : List Space) (s : State) (h : Heat) :
    (State.bringBack s h).kept ps = s.kept ps := by
  unfold State.bringBack; simp

@[simp] theorem State.thawHeat_kept (ps : List Space) (s : State) (h : Heat) :
    (State.thawHeat s h).kept ps = s.kept ps := by
  unfold State.thawHeat; simp

@[simp] theorem State.missAnchor_kept (ps : List Space) (s : State) (h : Heat) (h0 : Space.hbm ∈ ps) (h1 : Space.host ∈ ps) :
    (State.missAnchor s h).kept ps = s.kept ps := by
  unfold State.missAnchor; (try dsimp only); (repeat' split) <;> first | rfl | simp [*]

@[simp] theorem State.restoreHeat_kept (ps : List Space) (s : State) (h : Heat) (pages : List (List Page)) (h0 : Space.scratch ∈ ps) (h1 : Space.tiles ∈ ps) :
    (State.restoreHeat s h pages).kept ps = s.kept ps := by
  unfold State.restoreHeat; (try dsimp only); (repeat' split) <;> first | rfl | simp [*]

@[simp] theorem State.wakeResumed_kept (ps : List Space) (s : State) (g : GangRef) :
    (State.wakeResumed s g).kept ps = s.kept ps := by
  unfold State.wakeResumed
  split
  · refine foldl_kept ps _ (fun s gr => ?_) _ _
    split
    · dsimp only
      split
      · split <;> simp
      · rfl
    · rfl
  · rfl

@[simp] theorem State.resumeGang_kept (ps : List Space) (s : State) (g : GangRef) (quads : BitVec 8) :
    (State.resumeGang s g quads).kept ps = s.kept ps := by
  unfold State.resumeGang; simp

@[simp] theorem State.resumeCox_kept (ps : List Space) (s : State) (r : TeamRef) :
    (State.resumeCox s r).kept ps = s.kept ps := by
  rfl

@[simp] theorem State.replayAccess_kept (ps : List Space) (s : State) (id : Nat) :
    (State.replayAccess s id).kept ps = s.kept ps := by
  unfold State.replayAccess
  (try dsimp only); (repeat' split) <;> first | rfl | simp

@[simp] theorem State.replayScratch_kept (ps : List Space) (s : State) (hid n : Nat) :
    (State.replayScratch s hid n).kept ps = s.kept ps := by
  unfold State.replayScratch
  (try dsimp only); (repeat' split) <;> first | rfl | simp

@[simp] theorem State.replayCmd_kept (ps : List Space) (s : State) (id : Nat) :
    (State.replayCmd s id).kept ps = s.kept ps := by
  unfold State.replayCmd
  (try dsimp only); (repeat' split) <;> rfl

@[simp] theorem State.leaveHandler_kept (ps : List Space) (s : State) (r : TeamRef) :
    (State.leaveHandler s r).kept ps = s.kept ps := by
  rfl

@[simp] theorem State.resumeResident_kept (ps : List Space) (s : State) (hid : Nat) :
    (State.resumeResident s hid).kept ps = s.kept ps := by
  unfold State.resumeResident
  (try dsimp only); (repeat' split) <;> first | rfl | simp

@[simp] theorem State.tellAll_kept (ps : List Space) (s : State) (payload : List Byte) :
    (State.tellAll s payload).kept ps = s.kept ps := by
  unfold State.tellAll; simp

@[simp] theorem State.conclude_kept (ps : List Space) (s : State) (ph : Nat) :
    (State.conclude s ph).kept ps = s.kept ps := by
  unfold State.conclude; simp

@[simp] theorem State.shiftSwitch_kept (ps : List Space) (s : State) (p d : Nat) :
    (State.shiftSwitch s p d).kept ps = s.kept ps := by
  unfold State.shiftSwitch
  (try dsimp only); (repeat' split) <;> rfl

@[simp] theorem State.resumeShifted_kept (ps : List Space) (s : State) (h : Heat) (d : Nat) (h0 : Space.hbm ∈ ps) (h1 : Space.host ∈ ps) :
    (State.resumeShifted s h d).kept ps = s.kept ps := by
  unfold State.resumeShifted
  dsimp only
  split <;> simp [h0, h1]

@[simp] theorem State.prefetchTurn_kept (ps : List Space) (s : State) (ks : List Nat) (from_ : Nat) :
    (State.prefetchTurn s ks from_).2.kept ps = s.kept ps := by
  unfold State.prefetchTurn; (try dsimp only); (repeat' split) <;> first | rfl | simp

@[simp] theorem State.pushPrefetch_kept (ps : List Space) (s : State) (q code : Nat) (ks : List Nat) :
    (State.pushPrefetch s q code ks).kept ps = s.kept ps := by
  unfold State.pushPrefetch; (try dsimp only); (repeat' split) <;> first | rfl | simp

@[simp] theorem State.schedulePrefetch_kept (ps : List Space) (s : State) (q : Nat) :
    (State.schedulePrefetch s q).kept ps = s.kept ps := by
  unfold State.schedulePrefetch
  dsimp only
  split
  · rfl
  · rw [State.modQueue_kept]
    refine (foldl_kept ps _ (fun s i => State.pushPrefetch_kept ps s _ _ _) _ _).trans (foldl_kept ps _ (fun s k => ?_) _ _)
    split <;> simp

@[simp] theorem State.advanceQueue_kept (ps : List Space) (s : State) (q : Nat) :
    (State.advanceQueue s q).kept ps = s.kept ps := by
  unfold State.advanceQueue
  (try dsimp only); (repeat' split) <;> simp

@[simp] theorem State.modCommand_kept (ps : List Space) (s : State) (q entry : Nat) (sub : Option Nat) (f : Command → Command) :
    (State.modCommand s q entry sub f).kept ps = s.kept ps := by
  rfl

@[simp] theorem State.closeIndirect_kept (ps : List Space) (s : State) (q entry : Nat) (h0 : Space.hbm ∈ ps) (h1 : Space.host ∈ ps) :
    (State.closeIndirect s q entry).kept ps = s.kept ps := by
  unfold State.closeIndirect; (try dsimp only); (repeat' split) <;> first | rfl | simp [*]

@[simp] theorem State.completeCommand_kept (ps : List Space) (s : State) (q entry : Nat) (sub : Option Nat) (r : Completion) (h0 : Space.hbm ∈ ps) (h1 : Space.host ∈ ps) :
    (State.completeCommand s q entry sub r).kept ps = s.kept ps := by
  unfold State.completeCommand; cases sub <;> simp [h0, h1]

@[simp] theorem State.stopBuffer_kept (ps : List Space) (s : State) (q : Nat) (c : Command) (cause : Nat) :
    (State.stopBuffer s q c cause).kept ps = s.kept ps := by
  unfold State.stopBuffer; simp

@[simp] theorem State.badCommand_kept (ps : List Space) (s : State) (q : Nat) (c : Command) (cause kind : Nat) (h0 : Space.hbm ∈ ps) (h1 : Space.host ∈ ps) :
    (State.badCommand s q c cause kind).kept ps = s.kept ps := by
  unfold State.badCommand; cases c.sub <;> simp [h0, h1]

@[simp] theorem State.writeEn_kept (ps : List Space) (s : State) (q : Nat) (en : Bool) :
    (State.writeEn s q en).kept ps = s.kept ps := by
  unfold State.writeEn; simp

@[simp] theorem State.dropPrefetches_kept (ps : List Space) (s : State) (q e : Nat) :
    (State.dropPrefetches s q e).kept ps = s.kept ps := by
  unfold State.dropPrefetches; (try dsimp only); (repeat' split) <;> first | rfl | simp

@[simp] theorem State.modNode_kept (ps : List Space) (s : State) (q i : Nat) (f : NodeRun → NodeRun) :
    (State.modNode s q i f).kept ps = s.kept ps := by
  rfl

@[simp] theorem State.modGraph_kept (ps : List Space) (s : State) (q : Nat) (f : Graph → Graph) :
    (State.modGraph s q f).kept ps = s.kept ps := by
  rfl

@[simp] theorem State.finishGraph_kept (ps : List Space) (s : State) (q : Nat) (g : Graph) (h0 : Space.hbm ∈ ps) (h1 : Space.host ∈ ps) :
    (State.finishGraph s q g).kept ps = s.kept ps := by
  unfold State.finishGraph; simp [*]

@[simp] theorem State.walkGraph_kept (ps : List Space) (s : State) (q : Nat) (h0 : Space.hbm ∈ ps) (h1 : Space.host ∈ ps) :
    (State.walkGraph s q).kept ps = s.kept ps := by
  unfold State.walkGraph
  split
  · rfl
  · split
    · split <;> simp [h0, h1]
    · refine foldl_kept ps _ (fun s e => ?_) _ _
      dsimp only
      repeat' split
      all_goals simp

@[simp] theorem State.stopGraph_kept (ps : List Space) (s : State) (q cause : Nat) (h0 : Space.hbm ∈ ps) (h1 : Space.host ∈ ps) :
    (State.stopGraph s q cause).kept ps = s.kept ps := by
  unfold State.stopGraph; simp [*]

@[simp] theorem State.graphFault_kept (ps : List Space) (s : State) (q cause : Nat) (h0 : Space.hbm ∈ ps) (h1 : Space.host ∈ ps) :
    (State.graphFault s q cause).kept ps = s.kept ps := by
  unfold State.graphFault; (try dsimp only); (repeat' split) <;> first | rfl | simp [*]

@[simp] theorem State.decrement_kept (ps : List Space) (s : State) (q : Nat) (ns : List Nat) :
    (State.decrement s q ns).kept ps = s.kept ps := by
  unfold State.decrement; simp

@[simp] theorem State.nodeDone_kept (ps : List Space) (s : State) (q i : Nat) (h0 : Space.hbm ∈ ps) (h1 : Space.host ∈ ps) :
    (State.nodeDone s q i).kept ps = s.kept ps := by
  unfold State.nodeDone; (try dsimp only); (repeat' split) <;> first | rfl | simp [*]

@[simp] theorem State.copyPiece_kept (ps : List Space) (s : State) (q i : Nat) (r : NodeRun) (h0 : Space.hbm ∈ ps) (h1 : Space.host ∈ ps) :
    (State.copyPiece s q i r).kept ps = s.kept ps := by
  unfold State.copyPiece
  dsimp only
  generalize (if r.held = [] then stackOf _ else _) = k
  have hk : (s.stackUse k).2.kept ps = s.kept ps := State.stackUse_kept ps s _
  rw [ite_kept]
  split
  · exact State.push_kept ps s _ _ _
  · split
    · simp [h0, h1, hk]
    · split
      · split <;> simp [hk]
      · simp [h0, hk]

@[simp] theorem State.answerLaunch_kept (ps : List Space) (s : State) (m : Msg) (done : AckTo) (delivered cause : Nat) :
    (State.answerLaunch s m done delivered cause).kept ps = s.kept ps := by
  unfold State.answerLaunch; (try dsimp only); (repeat' split) <;> first | rfl | simp

@[simp] theorem State.dropLaunch_kept (ps : List Space) (s : State) (q id : Nat) :
    (State.dropLaunch s q id).kept ps = s.kept ps := by
  unfold State.dropLaunch; (try dsimp only); (repeat' split) <;> first | rfl | simp

@[simp] theorem State.rejectHead_kept (ps : List Space) (s : State) (q : Nat) (h : Head) (cause : Nat) (h0 : Space.hbm ∈ ps) (h1 : Space.host ∈ ps) :
    (State.rejectHead s q h cause).kept ps = s.kept ps := by
  unfold State.rejectHead; (try dsimp only); (repeat' split) <;> first | rfl | simp [*]

@[simp] theorem State.admitHead_kept (ps : List Space) (s : State) (q : Nat) (h : Head) (cl : List Nat) (a : Nat) (h0 : Space.scratch ∈ ps) (h1 : Space.tiles ∈ ps) (h2 : Space.hbm ∈ ps) (h3 : Space.host ∈ ps) :
    (State.admitHead s q h cl a).kept ps = s.kept ps := by
  unfold State.admitHead; (try dsimp only); (repeat' split) <;> simp [*]

@[simp] theorem State.dropMissed_kept (ps : List Space) (s : State) (h0 : Space.hbm ∈ ps) (h1 : Space.host ∈ ps) :
    (State.dropMissed s).kept ps = s.kept ps := by
  refine foldl_kept ps _ (fun s e => ?_) _ _
  split
  · rfl
  · split <;> simp [h0, h1]

@[simp] theorem State.arbitrate_kept (ps : List Space) (s : State) (h0 : Space.scratch ∈ ps) (h1 : Space.tiles ∈ ps) (h2 : Space.hbm ∈ ps) (h3 : Space.host ∈ ps) :
    (State.arbitrate s).kept ps = s.kept ps := by
  unfold State.arbitrate
  dsimp only
  refine (foldl_kept ps _ (fun s e => by split <;> simp) _ _).trans ?_
  repeat' split
  all_goals simp [h0, h1, h2, h3]

@[simp] theorem State.removeHeat_kept (ps : List Space) (s : State) (h : Heat) :
    (State.removeHeat s h).kept ps = s.kept ps := by
  unfold State.removeHeat; simp

@[simp] theorem State.someday_kept (ps : List Space) (s : State) :
    (State.someday s).2.kept ps = s.kept ps := by
  rfl

@[simp] theorem State.modLink_kept (ps : List Space) (s : State) (m : Nat) (f : CmdLink → CmdLink) :
    (State.modLink s m f).kept ps = s.kept ps := by
  rfl

@[simp] theorem State.sendLink_kept (ps : List Space) (s : State) (m : Nat) (toUmpire : Bool) (bs : List Byte) :
    (State.sendLink s m toUmpire bs).kept ps = s.kept ps := by
  rfl

@[simp] theorem State.writeQueue_kept (ps : List Space) (s : State) (q j : Nat) (v : BitVec 64) :
    (State.writeQueue s q j v).kept ps = s.kept ps := by
  unfold State.writeQueue
  (try dsimp only); (repeat' split) <;> rfl

@[simp] theorem State.writeRing_kept (ps : List Space) (s : State) (r j : Nat) (v : BitVec 64) :
    (State.writeRing s r j v).kept ps = s.kept ps := by
  unfold State.writeRing
  (try dsimp only); (repeat' split) <;> rfl

@[simp] theorem State.submitPreempt_kept (ps : List Space) (s : State) (v : BitVec 64) :
    (State.submitPreempt s v).kept ps = s.kept ps := by
  rfl

@[simp] theorem State.writeRegister_kept (ps : List Space) (s : State) (off : Nat) (v : BitVec 64) :
    (State.writeRegister s off v).kept ps = s.kept ps := by
  unfold State.writeRegister
  (try dsimp only); (repeat' split) <;> first | rfl | simp

/-- What `kept` keeps, in the terms of statements. -/
theorem keeps_of_kept (s t : State) (ps : List Space) (h : t.kept ps = s.kept ps) : s.keeps t ps := by
  simp only [State.kept, Prod.mk.injEq] at h
  obtain ⟨h1, h2, h3, h4, h5, h6⟩ := h
  refine ⟨h1, h2, fun p hp a => ?_⟩
  cases p <;> simp_all [Space.cut, State.look]

end Sys2Proof.Machine
end

