-- ==== Sys2Proof/Laws/State.lean ====
section
/-! SUPPORT. What each named update of the state does to each field, and what finding a heat, a team or a gang gives after
one has been changed. -/
namespace Sys2Proof.Machine

@[simp] theorem State.pushSub_now (s : State) (cycle rank sub : Nat) (ev : Ev) : (s.pushSub cycle rank sub ev).now = s.now := rfl
@[simp] theorem State.pushSub_arg (s : State) (cycle rank sub : Nat) (ev : Ev) : (s.pushSub cycle rank sub ev).arg = s.arg := rfl
@[simp] theorem State.pushSub_cur (s : State) (cycle rank sub : Nat) (ev : Ev) : (s.pushSub cycle rank sub ev).cur = s.cur := rfl
@[simp] theorem State.pushSub_hbm (s : State) (cycle rank sub : Nat) (ev : Ev) : (s.pushSub cycle rank sub ev).hbm = s.hbm := rfl
@[simp] theorem State.pushSub_hostMem (s : State) (cycle rank sub : Nat) (ev : Ev) : (s.pushSub cycle rank sub ev).hostMem = s.hostMem := rfl
@[simp] theorem State.pushSub_scratch (s : State) (cycle rank sub : Nat) (ev : Ev) : (s.pushSub cycle rank sub ev).scratch = s.scratch := rfl
@[simp] theorem State.pushSub_tiles (s : State) (cycle rank sub : Nat) (ev : Ev) : (s.pushSub cycle rank sub ev).tiles = s.tiles := rfl
@[simp] theorem State.pushSub_hbmLog (s : State) (cycle rank sub : Nat) (ev : Ev) : (s.pushSub cycle rank sub ev).hbmLog = s.hbmLog := rfl
@[simp] theorem State.pushSub_cores (s : State) (cycle rank sub : Nat) (ev : Ev) : (s.pushSub cycle rank sub ev).cores = s.cores := rfl
@[simp] theorem State.pushSub_heats (s : State) (cycle rank sub : Nat) (ev : Ev) : (s.pushSub cycle rank sub ev).heats = s.heats := rfl
@[simp] theorem State.pushSub_gops (s : State) (cycle rank sub : Nat) (ev : Ev) : (s.pushSub cycle rank sub ev).gops = s.gops := rfl
@[simp] theorem State.pushSub_cmds (s : State) (cycle rank sub : Nat) (ev : Ev) : (s.pushSub cycle rank sub ev).cmds = s.cmds := rfl
@[simp] theorem State.pushSub_barPend (s : State) (cycle rank sub : Nat) (ev : Ev) : (s.pushSub cycle rank sub ev).barPend = s.barPend := rfl
@[simp] theorem State.pushSub_detects (s : State) (cycle rank sub : Nat) (ev : Ev) : (s.pushSub cycle rank sub ev).detects = s.detects := rfl
@[simp] theorem State.pushSub_ports (s : State) (cycle rank sub : Nat) (ev : Ev) : (s.pushSub cycle rank sub ev).ports = s.ports := rfl
@[simp] theorem State.pushSub_queues (s : State) (cycle rank sub : Nat) (ev : Ev) : (s.pushSub cycle rank sub ev).queues = s.queues := rfl
@[simp] theorem State.pushSub_rings (s : State) (cycle rank sub : Nat) (ev : Ev) : (s.pushSub cycle rank sub ev).rings = s.rings := rfl
@[simp] theorem State.pushSub_ready (s : State) (cycle rank sub : Nat) (ev : Ev) : (s.pushSub cycle rank sub ev).ready = s.ready := rfl
@[simp] theorem State.pushSub_counters (s : State) (cycle rank sub : Nat) (ev : Ev) : (s.pushSub cycle rank sub ev).counters = s.counters := rfl
@[simp] theorem State.pushSub_pkgNo (s : State) (cycle rank sub : Nat) (ev : Ev) : (s.pushSub cycle rank sub ev).pkgNo = s.pkgNo := rfl
@[simp] theorem State.pushSub_nextHid (s : State) (cycle rank sub : Nat) (ev : Ev) : (s.pushSub cycle rank sub ev).nextHid = s.nextHid := rfl
@[simp] theorem State.pushSub_copied (s : State) (cycle rank sub : Nat) (ev : Ev) : (s.pushSub cycle rank sub ev).copied = s.copied := rfl
@[simp] theorem State.pushSub_gone (s : State) (cycle rank sub : Nat) (ev : Ev) : (s.pushSub cycle rank sub ev).gone = s.gone := rfl
@[simp] theorem State.pushSub_spent (s : State) (cycle rank sub : Nat) (ev : Ev) : (s.pushSub cycle rank sub ev).spent = s.spent := rfl
@[simp] theorem State.pushSub_regatta (s : State) (cycle rank sub : Nat) (ev : Ev) : (s.pushSub cycle rank sub ev).regatta = s.regatta := rfl
@[simp] theorem State.pushSub_links (s : State) (cycle rank sub : Nat) (ev : Ev) : (s.pushSub cycle rank sub ev).links = s.links := rfl
@[simp] theorem State.pushSub_mailbox (s : State) (cycle rank sub : Nat) (ev : Ev) : (s.pushSub cycle rank sub ev).mailbox = s.mailbox := rfl
@[simp] theorem State.pushSub_ptp (s : State) (cycle rank sub : Nat) (ev : Ev) : (s.pushSub cycle rank sub ev).ptp = s.ptp := rfl
@[simp] theorem State.pushSub_ptpLock (s : State) (cycle rank sub : Nat) (ev : Ev) : (s.pushSub cycle rank sub ev).ptpLock = s.ptpLock := rfl
@[simp] theorem State.pushSub_hostReads (s : State) (cycle rank sub : Nat) (ev : Ev) : (s.pushSub cycle rank sub ev).hostReads = s.hostReads := rfl
@[simp] theorem State.pushSub_budget (s : State) (cycle rank sub : Nat) (ev : Ev) : (s.pushSub cycle rank sub ev).budget = s.budget := rfl
@[simp] theorem State.pushSub_power (s : State) (cycle rank sub : Nat) (ev : Ev) : (s.pushSub cycle rank sub ev).power = s.power := rfl
@[simp] theorem State.pushSub_tokens (s : State) (cycle rank sub : Nat) (ev : Ev) : (s.pushSub cycle rank sub ev).tokens = s.tokens := rfl
@[simp] theorem State.pushSub_limits (s : State) (cycle rank sub : Nat) (ev : Ev) : (s.pushSub cycle rank sub ev).limits = s.limits := rfl
@[simp] theorem State.pushSub_leafIndex (s : State) (cycle rank sub : Nat) (ev : Ev) : (s.pushSub cycle rank sub ev).leafIndex = s.leafIndex := rfl
@[simp] theorem State.pushSub_flashFailed (s : State) (cycle rank sub : Nat) (ev : Ev) : (s.pushSub cycle rank sub ev).flashFailed = s.flashFailed := rfl
@[simp] theorem State.pushSub_image (s : State) (cycle rank sub : Nat) (ev : Ev) : (s.pushSub cycle rank sub ev).image = s.image := rfl
@[simp] theorem State.pushSub_faultLog (s : State) (cycle rank sub : Nat) (ev : Ev) : (s.pushSub cycle rank sub ev).faultLog = s.faultLog := rfl
@[simp] theorem State.pushSub_logEvents (s : State) (cycle rank sub : Nat) (ev : Ev) : (s.pushSub cycle rank sub ev).logEvents = s.logEvents := rfl
@[simp] theorem State.pushSub_env (s : State) (cycle rank sub : Nat) (ev : Ev) : (s.pushSub cycle rank sub ev).env = s.env := rfl

@[simp] theorem State.push_now (s : State) (cycle rank : Nat) (ev : Ev) : (s.push cycle rank ev).now = s.now := rfl
@[simp] theorem State.push_arg (s : State) (cycle rank : Nat) (ev : Ev) : (s.push cycle rank ev).arg = s.arg := rfl
@[simp] theorem State.push_cur (s : State) (cycle rank : Nat) (ev : Ev) : (s.push cycle rank ev).cur = s.cur := rfl
@[simp] theorem State.push_hbm (s : State) (cycle rank : Nat) (ev : Ev) : (s.push cycle rank ev).hbm = s.hbm := rfl
@[simp] theorem State.push_hostMem (s : State) (cycle rank : Nat) (ev : Ev) : (s.push cycle rank ev).hostMem = s.hostMem := rfl
@[simp] theorem State.push_scratch (s : State) (cycle rank : Nat) (ev : Ev) : (s.push cycle rank ev).scratch = s.scratch := rfl
@[simp] theorem State.push_tiles (s : State) (cycle rank : Nat) (ev : Ev) : (s.push cycle rank ev).tiles = s.tiles := rfl
@[simp] theorem State.push_hbmLog (s : State) (cycle rank : Nat) (ev : Ev) : (s.push cycle rank ev).hbmLog = s.hbmLog := rfl
@[simp] theorem State.push_cores (s : State) (cycle rank : Nat) (ev : Ev) : (s.push cycle rank ev).cores = s.cores := rfl
@[simp] theorem State.push_heats (s : State) (cycle rank : Nat) (ev : Ev) : (s.push cycle rank ev).heats = s.heats := rfl
@[simp] theorem State.push_gops (s : State) (cycle rank : Nat) (ev : Ev) : (s.push cycle rank ev).gops = s.gops := rfl
@[simp] theorem State.push_cmds (s : State) (cycle rank : Nat) (ev : Ev) : (s.push cycle rank ev).cmds = s.cmds := rfl
@[simp] theorem State.push_barPend (s : State) (cycle rank : Nat) (ev : Ev) : (s.push cycle rank ev).barPend = s.barPend := rfl
@[simp] theorem State.push_detects (s : State) (cycle rank : Nat) (ev : Ev) : (s.push cycle rank ev).detects = s.detects := rfl
@[simp] theorem State.push_ports (s : State) (cycle rank : Nat) (ev : Ev) : (s.push cycle rank ev).ports = s.ports := rfl
@[simp] theorem State.push_queues (s : State) (cycle rank : Nat) (ev : Ev) : (s.push cycle rank ev).queues = s.queues := rfl
@[simp] theorem State.push_rings (s : State) (cycle rank : Nat) (ev : Ev) : (s.push cycle rank ev).rings = s.rings := rfl
@[simp] theorem State.push_ready (s : State) (cycle rank : Nat) (ev : Ev) : (s.push cycle rank ev).ready = s.ready := rfl
@[simp] theorem State.push_counters (s : State) (cycle rank : Nat) (ev : Ev) : (s.push cycle rank ev).counters = s.counters := rfl
@[simp] theorem State.push_pkgNo (s : State) (cycle rank : Nat) (ev : Ev) : (s.push cycle rank ev).pkgNo = s.pkgNo := rfl
@[simp] theorem State.push_nextHid (s : State) (cycle rank : Nat) (ev : Ev) : (s.push cycle rank ev).nextHid = s.nextHid := rfl
@[simp] theorem State.push_copied (s : State) (cycle rank : Nat) (ev : Ev) : (s.push cycle rank ev).copied = s.copied := rfl
@[simp] theorem State.push_gone (s : State) (cycle rank : Nat) (ev : Ev) : (s.push cycle rank ev).gone = s.gone := rfl
@[simp] theorem State.push_spent (s : State) (cycle rank : Nat) (ev : Ev) : (s.push cycle rank ev).spent = s.spent := rfl
@[simp] theorem State.push_regatta (s : State) (cycle rank : Nat) (ev : Ev) : (s.push cycle rank ev).regatta = s.regatta := rfl
@[simp] theorem State.push_links (s : State) (cycle rank : Nat) (ev : Ev) : (s.push cycle rank ev).links = s.links := rfl
@[simp] theorem State.push_mailbox (s : State) (cycle rank : Nat) (ev : Ev) : (s.push cycle rank ev).mailbox = s.mailbox := rfl
@[simp] theorem State.push_ptp (s : State) (cycle rank : Nat) (ev : Ev) : (s.push cycle rank ev).ptp = s.ptp := rfl
@[simp] theorem State.push_ptpLock (s : State) (cycle rank : Nat) (ev : Ev) : (s.push cycle rank ev).ptpLock = s.ptpLock := rfl
@[simp] theorem State.push_hostReads (s : State) (cycle rank : Nat) (ev : Ev) : (s.push cycle rank ev).hostReads = s.hostReads := rfl
@[simp] theorem State.push_budget (s : State) (cycle rank : Nat) (ev : Ev) : (s.push cycle rank ev).budget = s.budget := rfl
@[simp] theorem State.push_power (s : State) (cycle rank : Nat) (ev : Ev) : (s.push cycle rank ev).power = s.power := rfl
@[simp] theorem State.push_tokens (s : State) (cycle rank : Nat) (ev : Ev) : (s.push cycle rank ev).tokens = s.tokens := rfl
@[simp] theorem State.push_limits (s : State) (cycle rank : Nat) (ev : Ev) : (s.push cycle rank ev).limits = s.limits := rfl
@[simp] theorem State.push_leafIndex (s : State) (cycle rank : Nat) (ev : Ev) : (s.push cycle rank ev).leafIndex = s.leafIndex := rfl
@[simp] theorem State.push_flashFailed (s : State) (cycle rank : Nat) (ev : Ev) : (s.push cycle rank ev).flashFailed = s.flashFailed := rfl
@[simp] theorem State.push_image (s : State) (cycle rank : Nat) (ev : Ev) : (s.push cycle rank ev).image = s.image := rfl
@[simp] theorem State.push_faultLog (s : State) (cycle rank : Nat) (ev : Ev) : (s.push cycle rank ev).faultLog = s.faultLog := rfl
@[simp] theorem State.push_logEvents (s : State) (cycle rank : Nat) (ev : Ev) : (s.push cycle rank ev).logEvents = s.logEvents := rfl
@[simp] theorem State.push_env (s : State) (cycle rank : Nat) (ev : Ev) : (s.push cycle rank ev).env = s.env := rfl

@[simp] theorem State.cancel_now (s : State) (p : Ev → Bool) : (s.cancel p).now = s.now := rfl
@[simp] theorem State.cancel_arg (s : State) (p : Ev → Bool) : (s.cancel p).arg = s.arg := rfl
@[simp] theorem State.cancel_cur (s : State) (p : Ev → Bool) : (s.cancel p).cur = s.cur := rfl
@[simp] theorem State.cancel_seq (s : State) (p : Ev → Bool) : (s.cancel p).seq = s.seq := rfl
@[simp] theorem State.cancel_hbm (s : State) (p : Ev → Bool) : (s.cancel p).hbm = s.hbm := rfl
@[simp] theorem State.cancel_hostMem (s : State) (p : Ev → Bool) : (s.cancel p).hostMem = s.hostMem := rfl
@[simp] theorem State.cancel_scratch (s : State) (p : Ev → Bool) : (s.cancel p).scratch = s.scratch := rfl
@[simp] theorem State.cancel_tiles (s : State) (p : Ev → Bool) : (s.cancel p).tiles = s.tiles := rfl
@[simp] theorem State.cancel_hbmLog (s : State) (p : Ev → Bool) : (s.cancel p).hbmLog = s.hbmLog := rfl
@[simp] theorem State.cancel_cores (s : State) (p : Ev → Bool) : (s.cancel p).cores = s.cores := rfl
@[simp] theorem State.cancel_heats (s : State) (p : Ev → Bool) : (s.cancel p).heats = s.heats := rfl
@[simp] theorem State.cancel_gops (s : State) (p : Ev → Bool) : (s.cancel p).gops = s.gops := rfl
@[simp] theorem State.cancel_cmds (s : State) (p : Ev → Bool) : (s.cancel p).cmds = s.cmds := rfl
@[simp] theorem State.cancel_barPend (s : State) (p : Ev → Bool) : (s.cancel p).barPend = s.barPend := rfl
@[simp] theorem State.cancel_detects (s : State) (p : Ev → Bool) : (s.cancel p).detects = s.detects := rfl
@[simp] theorem State.cancel_ports (s : State) (p : Ev → Bool) : (s.cancel p).ports = s.ports := rfl
@[simp] theorem State.cancel_queues (s : State) (p : Ev → Bool) : (s.cancel p).queues = s.queues := rfl
@[simp] theorem State.cancel_rings (s : State) (p : Ev → Bool) : (s.cancel p).rings = s.rings := rfl
@[simp] theorem State.cancel_ready (s : State) (p : Ev → Bool) : (s.cancel p).ready = s.ready := rfl
@[simp] theorem State.cancel_counters (s : State) (p : Ev → Bool) : (s.cancel p).counters = s.counters := rfl
@[simp] theorem State.cancel_pkgNo (s : State) (p : Ev → Bool) : (s.cancel p).pkgNo = s.pkgNo := rfl
@[simp] theorem State.cancel_nextHid (s : State) (p : Ev → Bool) : (s.cancel p).nextHid = s.nextHid := rfl
@[simp] theorem State.cancel_copied (s : State) (p : Ev → Bool) : (s.cancel p).copied = s.copied := rfl
@[simp] theorem State.cancel_gone (s : State) (p : Ev → Bool) : (s.cancel p).gone = s.gone := rfl
@[simp] theorem State.cancel_spent (s : State) (p : Ev → Bool) : (s.cancel p).spent = s.spent := rfl
@[simp] theorem State.cancel_regatta (s : State) (p : Ev → Bool) : (s.cancel p).regatta = s.regatta := rfl
@[simp] theorem State.cancel_links (s : State) (p : Ev → Bool) : (s.cancel p).links = s.links := rfl
@[simp] theorem State.cancel_mailbox (s : State) (p : Ev → Bool) : (s.cancel p).mailbox = s.mailbox := rfl
@[simp] theorem State.cancel_ptp (s : State) (p : Ev → Bool) : (s.cancel p).ptp = s.ptp := rfl
@[simp] theorem State.cancel_ptpLock (s : State) (p : Ev → Bool) : (s.cancel p).ptpLock = s.ptpLock := rfl
@[simp] theorem State.cancel_hostReads (s : State) (p : Ev → Bool) : (s.cancel p).hostReads = s.hostReads := rfl
@[simp] theorem State.cancel_budget (s : State) (p : Ev → Bool) : (s.cancel p).budget = s.budget := rfl
@[simp] theorem State.cancel_power (s : State) (p : Ev → Bool) : (s.cancel p).power = s.power := rfl
@[simp] theorem State.cancel_tokens (s : State) (p : Ev → Bool) : (s.cancel p).tokens = s.tokens := rfl
@[simp] theorem State.cancel_limits (s : State) (p : Ev → Bool) : (s.cancel p).limits = s.limits := rfl
@[simp] theorem State.cancel_leafIndex (s : State) (p : Ev → Bool) : (s.cancel p).leafIndex = s.leafIndex := rfl
@[simp] theorem State.cancel_flashFailed (s : State) (p : Ev → Bool) : (s.cancel p).flashFailed = s.flashFailed := rfl
@[simp] theorem State.cancel_image (s : State) (p : Ev → Bool) : (s.cancel p).image = s.image := rfl
@[simp] theorem State.cancel_faultLog (s : State) (p : Ev → Bool) : (s.cancel p).faultLog = s.faultLog := rfl
@[simp] theorem State.cancel_logEvents (s : State) (p : Ev → Bool) : (s.cancel p).logEvents = s.logEvents := rfl
@[simp] theorem State.cancel_env (s : State) (p : Ev → Bool) : (s.cancel p).env = s.env := rfl

@[simp] theorem State.modHeat_now (s : State) (hid : Nat) (f : Heat → Heat) : (s.modHeat hid f).now = s.now := rfl
@[simp] theorem State.modHeat_agenda (s : State) (hid : Nat) (f : Heat → Heat) : (s.modHeat hid f).agenda = s.agenda := rfl
@[simp] theorem State.modHeat_arg (s : State) (hid : Nat) (f : Heat → Heat) : (s.modHeat hid f).arg = s.arg := rfl
@[simp] theorem State.modHeat_cur (s : State) (hid : Nat) (f : Heat → Heat) : (s.modHeat hid f).cur = s.cur := rfl
@[simp] theorem State.modHeat_seq (s : State) (hid : Nat) (f : Heat → Heat) : (s.modHeat hid f).seq = s.seq := rfl
@[simp] theorem State.modHeat_hbm (s : State) (hid : Nat) (f : Heat → Heat) : (s.modHeat hid f).hbm = s.hbm := rfl
@[simp] theorem State.modHeat_hostMem (s : State) (hid : Nat) (f : Heat → Heat) : (s.modHeat hid f).hostMem = s.hostMem := rfl
@[simp] theorem State.modHeat_scratch (s : State) (hid : Nat) (f : Heat → Heat) : (s.modHeat hid f).scratch = s.scratch := rfl
@[simp] theorem State.modHeat_tiles (s : State) (hid : Nat) (f : Heat → Heat) : (s.modHeat hid f).tiles = s.tiles := rfl
@[simp] theorem State.modHeat_hbmLog (s : State) (hid : Nat) (f : Heat → Heat) : (s.modHeat hid f).hbmLog = s.hbmLog := rfl
@[simp] theorem State.modHeat_cores (s : State) (hid : Nat) (f : Heat → Heat) : (s.modHeat hid f).cores = s.cores := rfl
@[simp] theorem State.modHeat_gops (s : State) (hid : Nat) (f : Heat → Heat) : (s.modHeat hid f).gops = s.gops := rfl
@[simp] theorem State.modHeat_cmds (s : State) (hid : Nat) (f : Heat → Heat) : (s.modHeat hid f).cmds = s.cmds := rfl
@[simp] theorem State.modHeat_barPend (s : State) (hid : Nat) (f : Heat → Heat) : (s.modHeat hid f).barPend = s.barPend := rfl
@[simp] theorem State.modHeat_detects (s : State) (hid : Nat) (f : Heat → Heat) : (s.modHeat hid f).detects = s.detects := rfl
@[simp] theorem State.modHeat_ports (s : State) (hid : Nat) (f : Heat → Heat) : (s.modHeat hid f).ports = s.ports := rfl
@[simp] theorem State.modHeat_queues (s : State) (hid : Nat) (f : Heat → Heat) : (s.modHeat hid f).queues = s.queues := rfl
@[simp] theorem State.modHeat_rings (s : State) (hid : Nat) (f : Heat → Heat) : (s.modHeat hid f).rings = s.rings := rfl
@[simp] theorem State.modHeat_ready (s : State) (hid : Nat) (f : Heat → Heat) : (s.modHeat hid f).ready = s.ready := rfl
@[simp] theorem State.modHeat_counters (s : State) (hid : Nat) (f : Heat → Heat) : (s.modHeat hid f).counters = s.counters := rfl
@[simp] theorem State.modHeat_pkgNo (s : State) (hid : Nat) (f : Heat → Heat) : (s.modHeat hid f).pkgNo = s.pkgNo := rfl
@[simp] theorem State.modHeat_nextHid (s : State) (hid : Nat) (f : Heat → Heat) : (s.modHeat hid f).nextHid = s.nextHid := rfl
@[simp] theorem State.modHeat_copied (s : State) (hid : Nat) (f : Heat → Heat) : (s.modHeat hid f).copied = s.copied := rfl
@[simp] theorem State.modHeat_gone (s : State) (hid : Nat) (f : Heat → Heat) : (s.modHeat hid f).gone = s.gone := rfl
@[simp] theorem State.modHeat_spent (s : State) (hid : Nat) (f : Heat → Heat) : (s.modHeat hid f).spent = s.spent := rfl
@[simp] theorem State.modHeat_regatta (s : State) (hid : Nat) (f : Heat → Heat) : (s.modHeat hid f).regatta = s.regatta := rfl
@[simp] theorem State.modHeat_links (s : State) (hid : Nat) (f : Heat → Heat) : (s.modHeat hid f).links = s.links := rfl
@[simp] theorem State.modHeat_mailbox (s : State) (hid : Nat) (f : Heat → Heat) : (s.modHeat hid f).mailbox = s.mailbox := rfl
@[simp] theorem State.modHeat_ptp (s : State) (hid : Nat) (f : Heat → Heat) : (s.modHeat hid f).ptp = s.ptp := rfl
@[simp] theorem State.modHeat_ptpLock (s : State) (hid : Nat) (f : Heat → Heat) : (s.modHeat hid f).ptpLock = s.ptpLock := rfl
@[simp] theorem State.modHeat_hostReads (s : State) (hid : Nat) (f : Heat → Heat) : (s.modHeat hid f).hostReads = s.hostReads := rfl
@[simp] theorem State.modHeat_budget (s : State) (hid : Nat) (f : Heat → Heat) : (s.modHeat hid f).budget = s.budget := rfl
@[simp] theorem State.modHeat_power (s : State) (hid : Nat) (f : Heat → Heat) : (s.modHeat hid f).power = s.power := rfl
@[simp] theorem State.modHeat_tokens (s : State) (hid : Nat) (f : Heat → Heat) : (s.modHeat hid f).tokens = s.tokens := rfl
@[simp] theorem State.modHeat_limits (s : State) (hid : Nat) (f : Heat → Heat) : (s.modHeat hid f).limits = s.limits := rfl
@[simp] theorem State.modHeat_leafIndex (s : State) (hid : Nat) (f : Heat → Heat) : (s.modHeat hid f).leafIndex = s.leafIndex := rfl
@[simp] theorem State.modHeat_flashFailed (s : State) (hid : Nat) (f : Heat → Heat) : (s.modHeat hid f).flashFailed = s.flashFailed := rfl
@[simp] theorem State.modHeat_image (s : State) (hid : Nat) (f : Heat → Heat) : (s.modHeat hid f).image = s.image := rfl
@[simp] theorem State.modHeat_faultLog (s : State) (hid : Nat) (f : Heat → Heat) : (s.modHeat hid f).faultLog = s.faultLog := rfl
@[simp] theorem State.modHeat_logEvents (s : State) (hid : Nat) (f : Heat → Heat) : (s.modHeat hid f).logEvents = s.logEvents := rfl
@[simp] theorem State.modHeat_env (s : State) (hid : Nat) (f : Heat → Heat) : (s.modHeat hid f).env = s.env := rfl

@[simp] theorem State.modTeam_now (s : State) (r : TeamRef) (f : Team → Team) : (s.modTeam r f).now = s.now := rfl
@[simp] theorem State.modTeam_agenda (s : State) (r : TeamRef) (f : Team → Team) : (s.modTeam r f).agenda = s.agenda := rfl
@[simp] theorem State.modTeam_arg (s : State) (r : TeamRef) (f : Team → Team) : (s.modTeam r f).arg = s.arg := rfl
@[simp] theorem State.modTeam_cur (s : State) (r : TeamRef) (f : Team → Team) : (s.modTeam r f).cur = s.cur := rfl
@[simp] theorem State.modTeam_seq (s : State) (r : TeamRef) (f : Team → Team) : (s.modTeam r f).seq = s.seq := rfl
@[simp] theorem State.modTeam_hbm (s : State) (r : TeamRef) (f : Team → Team) : (s.modTeam r f).hbm = s.hbm := rfl
@[simp] theorem State.modTeam_hostMem (s : State) (r : TeamRef) (f : Team → Team) : (s.modTeam r f).hostMem = s.hostMem := rfl
@[simp] theorem State.modTeam_scratch (s : State) (r : TeamRef) (f : Team → Team) : (s.modTeam r f).scratch = s.scratch := rfl
@[simp] theorem State.modTeam_tiles (s : State) (r : TeamRef) (f : Team → Team) : (s.modTeam r f).tiles = s.tiles := rfl
@[simp] theorem State.modTeam_hbmLog (s : State) (r : TeamRef) (f : Team → Team) : (s.modTeam r f).hbmLog = s.hbmLog := rfl
@[simp] theorem State.modTeam_cores (s : State) (r : TeamRef) (f : Team → Team) : (s.modTeam r f).cores = s.cores := rfl
@[simp] theorem State.modTeam_gops (s : State) (r : TeamRef) (f : Team → Team) : (s.modTeam r f).gops = s.gops := rfl
@[simp] theorem State.modTeam_cmds (s : State) (r : TeamRef) (f : Team → Team) : (s.modTeam r f).cmds = s.cmds := rfl
@[simp] theorem State.modTeam_barPend (s : State) (r : TeamRef) (f : Team → Team) : (s.modTeam r f).barPend = s.barPend := rfl
@[simp] theorem State.modTeam_detects (s : State) (r : TeamRef) (f : Team → Team) : (s.modTeam r f).detects = s.detects := rfl
@[simp] theorem State.modTeam_ports (s : State) (r : TeamRef) (f : Team → Team) : (s.modTeam r f).ports = s.ports := rfl
@[simp] theorem State.modTeam_queues (s : State) (r : TeamRef) (f : Team → Team) : (s.modTeam r f).queues = s.queues := rfl
@[simp] theorem State.modTeam_rings (s : State) (r : TeamRef) (f : Team → Team) : (s.modTeam r f).rings = s.rings := rfl
@[simp] theorem State.modTeam_ready (s : State) (r : TeamRef) (f : Team → Team) : (s.modTeam r f).ready = s.ready := rfl
@[simp] theorem State.modTeam_counters (s : State) (r : TeamRef) (f : Team → Team) : (s.modTeam r f).counters = s.counters := rfl
@[simp] theorem State.modTeam_pkgNo (s : State) (r : TeamRef) (f : Team → Team) : (s.modTeam r f).pkgNo = s.pkgNo := rfl
@[simp] theorem State.modTeam_nextHid (s : State) (r : TeamRef) (f : Team → Team) : (s.modTeam r f).nextHid = s.nextHid := rfl
@[simp] theorem State.modTeam_copied (s : State) (r : TeamRef) (f : Team → Team) : (s.modTeam r f).copied = s.copied := rfl
@[simp] theorem State.modTeam_gone (s : State) (r : TeamRef) (f : Team → Team) : (s.modTeam r f).gone = s.gone := rfl
@[simp] theorem State.modTeam_spent (s : State) (r : TeamRef) (f : Team → Team) : (s.modTeam r f).spent = s.spent := rfl
@[simp] theorem State.modTeam_regatta (s : State) (r : TeamRef) (f : Team → Team) : (s.modTeam r f).regatta = s.regatta := rfl
@[simp] theorem State.modTeam_links (s : State) (r : TeamRef) (f : Team → Team) : (s.modTeam r f).links = s.links := rfl
@[simp] theorem State.modTeam_mailbox (s : State) (r : TeamRef) (f : Team → Team) : (s.modTeam r f).mailbox = s.mailbox := rfl
@[simp] theorem State.modTeam_ptp (s : State) (r : TeamRef) (f : Team → Team) : (s.modTeam r f).ptp = s.ptp := rfl
@[simp] theorem State.modTeam_ptpLock (s : State) (r : TeamRef) (f : Team → Team) : (s.modTeam r f).ptpLock = s.ptpLock := rfl
@[simp] theorem State.modTeam_hostReads (s : State) (r : TeamRef) (f : Team → Team) : (s.modTeam r f).hostReads = s.hostReads := rfl
@[simp] theorem State.modTeam_budget (s : State) (r : TeamRef) (f : Team → Team) : (s.modTeam r f).budget = s.budget := rfl
@[simp] theorem State.modTeam_power (s : State) (r : TeamRef) (f : Team → Team) : (s.modTeam r f).power = s.power := rfl
@[simp] theorem State.modTeam_tokens (s : State) (r : TeamRef) (f : Team → Team) : (s.modTeam r f).tokens = s.tokens := rfl
@[simp] theorem State.modTeam_limits (s : State) (r : TeamRef) (f : Team → Team) : (s.modTeam r f).limits = s.limits := rfl
@[simp] theorem State.modTeam_leafIndex (s : State) (r : TeamRef) (f : Team → Team) : (s.modTeam r f).leafIndex = s.leafIndex := rfl
@[simp] theorem State.modTeam_flashFailed (s : State) (r : TeamRef) (f : Team → Team) : (s.modTeam r f).flashFailed = s.flashFailed := rfl
@[simp] theorem State.modTeam_image (s : State) (r : TeamRef) (f : Team → Team) : (s.modTeam r f).image = s.image := rfl
@[simp] theorem State.modTeam_faultLog (s : State) (r : TeamRef) (f : Team → Team) : (s.modTeam r f).faultLog = s.faultLog := rfl
@[simp] theorem State.modTeam_logEvents (s : State) (r : TeamRef) (f : Team → Team) : (s.modTeam r f).logEvents = s.logEvents := rfl
@[simp] theorem State.modTeam_env (s : State) (r : TeamRef) (f : Team → Team) : (s.modTeam r f).env = s.env := rfl

@[simp] theorem State.modCox_now (s : State) (r : TeamRef) (f : Cox → Cox) : (s.modCox r f).now = s.now := rfl
@[simp] theorem State.modCox_agenda (s : State) (r : TeamRef) (f : Cox → Cox) : (s.modCox r f).agenda = s.agenda := rfl
@[simp] theorem State.modCox_arg (s : State) (r : TeamRef) (f : Cox → Cox) : (s.modCox r f).arg = s.arg := rfl
@[simp] theorem State.modCox_cur (s : State) (r : TeamRef) (f : Cox → Cox) : (s.modCox r f).cur = s.cur := rfl
@[simp] theorem State.modCox_seq (s : State) (r : TeamRef) (f : Cox → Cox) : (s.modCox r f).seq = s.seq := rfl
@[simp] theorem State.modCox_hbm (s : State) (r : TeamRef) (f : Cox → Cox) : (s.modCox r f).hbm = s.hbm := rfl
@[simp] theorem State.modCox_hostMem (s : State) (r : TeamRef) (f : Cox → Cox) : (s.modCox r f).hostMem = s.hostMem := rfl
@[simp] theorem State.modCox_scratch (s : State) (r : TeamRef) (f : Cox → Cox) : (s.modCox r f).scratch = s.scratch := rfl
@[simp] theorem State.modCox_tiles (s : State) (r : TeamRef) (f : Cox → Cox) : (s.modCox r f).tiles = s.tiles := rfl
@[simp] theorem State.modCox_hbmLog (s : State) (r : TeamRef) (f : Cox → Cox) : (s.modCox r f).hbmLog = s.hbmLog := rfl
@[simp] theorem State.modCox_cores (s : State) (r : TeamRef) (f : Cox → Cox) : (s.modCox r f).cores = s.cores := rfl
@[simp] theorem State.modCox_gops (s : State) (r : TeamRef) (f : Cox → Cox) : (s.modCox r f).gops = s.gops := rfl
@[simp] theorem State.modCox_cmds (s : State) (r : TeamRef) (f : Cox → Cox) : (s.modCox r f).cmds = s.cmds := rfl
@[simp] theorem State.modCox_barPend (s : State) (r : TeamRef) (f : Cox → Cox) : (s.modCox r f).barPend = s.barPend := rfl
@[simp] theorem State.modCox_detects (s : State) (r : TeamRef) (f : Cox → Cox) : (s.modCox r f).detects = s.detects := rfl
@[simp] theorem State.modCox_ports (s : State) (r : TeamRef) (f : Cox → Cox) : (s.modCox r f).ports = s.ports := rfl
@[simp] theorem State.modCox_queues (s : State) (r : TeamRef) (f : Cox → Cox) : (s.modCox r f).queues = s.queues := rfl
@[simp] theorem State.modCox_rings (s : State) (r : TeamRef) (f : Cox → Cox) : (s.modCox r f).rings = s.rings := rfl
@[simp] theorem State.modCox_ready (s : State) (r : TeamRef) (f : Cox → Cox) : (s.modCox r f).ready = s.ready := rfl
@[simp] theorem State.modCox_counters (s : State) (r : TeamRef) (f : Cox → Cox) : (s.modCox r f).counters = s.counters := rfl
@[simp] theorem State.modCox_pkgNo (s : State) (r : TeamRef) (f : Cox → Cox) : (s.modCox r f).pkgNo = s.pkgNo := rfl
@[simp] theorem State.modCox_nextHid (s : State) (r : TeamRef) (f : Cox → Cox) : (s.modCox r f).nextHid = s.nextHid := rfl
@[simp] theorem State.modCox_copied (s : State) (r : TeamRef) (f : Cox → Cox) : (s.modCox r f).copied = s.copied := rfl
@[simp] theorem State.modCox_gone (s : State) (r : TeamRef) (f : Cox → Cox) : (s.modCox r f).gone = s.gone := rfl
@[simp] theorem State.modCox_spent (s : State) (r : TeamRef) (f : Cox → Cox) : (s.modCox r f).spent = s.spent := rfl
@[simp] theorem State.modCox_regatta (s : State) (r : TeamRef) (f : Cox → Cox) : (s.modCox r f).regatta = s.regatta := rfl
@[simp] theorem State.modCox_links (s : State) (r : TeamRef) (f : Cox → Cox) : (s.modCox r f).links = s.links := rfl
@[simp] theorem State.modCox_mailbox (s : State) (r : TeamRef) (f : Cox → Cox) : (s.modCox r f).mailbox = s.mailbox := rfl
@[simp] theorem State.modCox_ptp (s : State) (r : TeamRef) (f : Cox → Cox) : (s.modCox r f).ptp = s.ptp := rfl
@[simp] theorem State.modCox_ptpLock (s : State) (r : TeamRef) (f : Cox → Cox) : (s.modCox r f).ptpLock = s.ptpLock := rfl
@[simp] theorem State.modCox_hostReads (s : State) (r : TeamRef) (f : Cox → Cox) : (s.modCox r f).hostReads = s.hostReads := rfl
@[simp] theorem State.modCox_budget (s : State) (r : TeamRef) (f : Cox → Cox) : (s.modCox r f).budget = s.budget := rfl
@[simp] theorem State.modCox_power (s : State) (r : TeamRef) (f : Cox → Cox) : (s.modCox r f).power = s.power := rfl
@[simp] theorem State.modCox_tokens (s : State) (r : TeamRef) (f : Cox → Cox) : (s.modCox r f).tokens = s.tokens := rfl
@[simp] theorem State.modCox_limits (s : State) (r : TeamRef) (f : Cox → Cox) : (s.modCox r f).limits = s.limits := rfl
@[simp] theorem State.modCox_leafIndex (s : State) (r : TeamRef) (f : Cox → Cox) : (s.modCox r f).leafIndex = s.leafIndex := rfl
@[simp] theorem State.modCox_flashFailed (s : State) (r : TeamRef) (f : Cox → Cox) : (s.modCox r f).flashFailed = s.flashFailed := rfl
@[simp] theorem State.modCox_image (s : State) (r : TeamRef) (f : Cox → Cox) : (s.modCox r f).image = s.image := rfl
@[simp] theorem State.modCox_faultLog (s : State) (r : TeamRef) (f : Cox → Cox) : (s.modCox r f).faultLog = s.faultLog := rfl
@[simp] theorem State.modCox_logEvents (s : State) (r : TeamRef) (f : Cox → Cox) : (s.modCox r f).logEvents = s.logEvents := rfl
@[simp] theorem State.modCox_env (s : State) (r : TeamRef) (f : Cox → Cox) : (s.modCox r f).env = s.env := rfl

@[simp] theorem State.modGang_now (s : State) (r : GangRef) (f : Gang → Gang) : (s.modGang r f).now = s.now := rfl
@[simp] theorem State.modGang_agenda (s : State) (r : GangRef) (f : Gang → Gang) : (s.modGang r f).agenda = s.agenda := rfl
@[simp] theorem State.modGang_arg (s : State) (r : GangRef) (f : Gang → Gang) : (s.modGang r f).arg = s.arg := rfl
@[simp] theorem State.modGang_cur (s : State) (r : GangRef) (f : Gang → Gang) : (s.modGang r f).cur = s.cur := rfl
@[simp] theorem State.modGang_seq (s : State) (r : GangRef) (f : Gang → Gang) : (s.modGang r f).seq = s.seq := rfl
@[simp] theorem State.modGang_hbm (s : State) (r : GangRef) (f : Gang → Gang) : (s.modGang r f).hbm = s.hbm := rfl
@[simp] theorem State.modGang_hostMem (s : State) (r : GangRef) (f : Gang → Gang) : (s.modGang r f).hostMem = s.hostMem := rfl
@[simp] theorem State.modGang_scratch (s : State) (r : GangRef) (f : Gang → Gang) : (s.modGang r f).scratch = s.scratch := rfl
@[simp] theorem State.modGang_tiles (s : State) (r : GangRef) (f : Gang → Gang) : (s.modGang r f).tiles = s.tiles := rfl
@[simp] theorem State.modGang_hbmLog (s : State) (r : GangRef) (f : Gang → Gang) : (s.modGang r f).hbmLog = s.hbmLog := rfl
@[simp] theorem State.modGang_cores (s : State) (r : GangRef) (f : Gang → Gang) : (s.modGang r f).cores = s.cores := rfl
@[simp] theorem State.modGang_gops (s : State) (r : GangRef) (f : Gang → Gang) : (s.modGang r f).gops = s.gops := rfl
@[simp] theorem State.modGang_cmds (s : State) (r : GangRef) (f : Gang → Gang) : (s.modGang r f).cmds = s.cmds := rfl
@[simp] theorem State.modGang_barPend (s : State) (r : GangRef) (f : Gang → Gang) : (s.modGang r f).barPend = s.barPend := rfl
@[simp] theorem State.modGang_detects (s : State) (r : GangRef) (f : Gang → Gang) : (s.modGang r f).detects = s.detects := rfl
@[simp] theorem State.modGang_ports (s : State) (r : GangRef) (f : Gang → Gang) : (s.modGang r f).ports = s.ports := rfl
@[simp] theorem State.modGang_queues (s : State) (r : GangRef) (f : Gang → Gang) : (s.modGang r f).queues = s.queues := rfl
@[simp] theorem State.modGang_rings (s : State) (r : GangRef) (f : Gang → Gang) : (s.modGang r f).rings = s.rings := rfl
@[simp] theorem State.modGang_ready (s : State) (r : GangRef) (f : Gang → Gang) : (s.modGang r f).ready = s.ready := rfl
@[simp] theorem State.modGang_counters (s : State) (r : GangRef) (f : Gang → Gang) : (s.modGang r f).counters = s.counters := rfl
@[simp] theorem State.modGang_pkgNo (s : State) (r : GangRef) (f : Gang → Gang) : (s.modGang r f).pkgNo = s.pkgNo := rfl
@[simp] theorem State.modGang_nextHid (s : State) (r : GangRef) (f : Gang → Gang) : (s.modGang r f).nextHid = s.nextHid := rfl
@[simp] theorem State.modGang_copied (s : State) (r : GangRef) (f : Gang → Gang) : (s.modGang r f).copied = s.copied := rfl
@[simp] theorem State.modGang_gone (s : State) (r : GangRef) (f : Gang → Gang) : (s.modGang r f).gone = s.gone := rfl
@[simp] theorem State.modGang_spent (s : State) (r : GangRef) (f : Gang → Gang) : (s.modGang r f).spent = s.spent := rfl
@[simp] theorem State.modGang_regatta (s : State) (r : GangRef) (f : Gang → Gang) : (s.modGang r f).regatta = s.regatta := rfl
@[simp] theorem State.modGang_links (s : State) (r : GangRef) (f : Gang → Gang) : (s.modGang r f).links = s.links := rfl
@[simp] theorem State.modGang_mailbox (s : State) (r : GangRef) (f : Gang → Gang) : (s.modGang r f).mailbox = s.mailbox := rfl
@[simp] theorem State.modGang_ptp (s : State) (r : GangRef) (f : Gang → Gang) : (s.modGang r f).ptp = s.ptp := rfl
@[simp] theorem State.modGang_ptpLock (s : State) (r : GangRef) (f : Gang → Gang) : (s.modGang r f).ptpLock = s.ptpLock := rfl
@[simp] theorem State.modGang_hostReads (s : State) (r : GangRef) (f : Gang → Gang) : (s.modGang r f).hostReads = s.hostReads := rfl
@[simp] theorem State.modGang_budget (s : State) (r : GangRef) (f : Gang → Gang) : (s.modGang r f).budget = s.budget := rfl
@[simp] theorem State.modGang_power (s : State) (r : GangRef) (f : Gang → Gang) : (s.modGang r f).power = s.power := rfl
@[simp] theorem State.modGang_tokens (s : State) (r : GangRef) (f : Gang → Gang) : (s.modGang r f).tokens = s.tokens := rfl
@[simp] theorem State.modGang_limits (s : State) (r : GangRef) (f : Gang → Gang) : (s.modGang r f).limits = s.limits := rfl
@[simp] theorem State.modGang_leafIndex (s : State) (r : GangRef) (f : Gang → Gang) : (s.modGang r f).leafIndex = s.leafIndex := rfl
@[simp] theorem State.modGang_flashFailed (s : State) (r : GangRef) (f : Gang → Gang) : (s.modGang r f).flashFailed = s.flashFailed := rfl
@[simp] theorem State.modGang_image (s : State) (r : GangRef) (f : Gang → Gang) : (s.modGang r f).image = s.image := rfl
@[simp] theorem State.modGang_faultLog (s : State) (r : GangRef) (f : Gang → Gang) : (s.modGang r f).faultLog = s.faultLog := rfl
@[simp] theorem State.modGang_logEvents (s : State) (r : GangRef) (f : Gang → Gang) : (s.modGang r f).logEvents = s.logEvents := rfl
@[simp] theorem State.modGang_env (s : State) (r : GangRef) (f : Gang → Gang) : (s.modGang r f).env = s.env := rfl

@[simp] theorem State.modCore_now (s : State) (c : Nat) (f : Core → Core) : (s.modCore c f).now = s.now := rfl
@[simp] theorem State.modCore_agenda (s : State) (c : Nat) (f : Core → Core) : (s.modCore c f).agenda = s.agenda := rfl
@[simp] theorem State.modCore_arg (s : State) (c : Nat) (f : Core → Core) : (s.modCore c f).arg = s.arg := rfl
@[simp] theorem State.modCore_cur (s : State) (c : Nat) (f : Core → Core) : (s.modCore c f).cur = s.cur := rfl
@[simp] theorem State.modCore_seq (s : State) (c : Nat) (f : Core → Core) : (s.modCore c f).seq = s.seq := rfl
@[simp] theorem State.modCore_hbm (s : State) (c : Nat) (f : Core → Core) : (s.modCore c f).hbm = s.hbm := rfl
@[simp] theorem State.modCore_hostMem (s : State) (c : Nat) (f : Core → Core) : (s.modCore c f).hostMem = s.hostMem := rfl
@[simp] theorem State.modCore_scratch (s : State) (c : Nat) (f : Core → Core) : (s.modCore c f).scratch = s.scratch := rfl
@[simp] theorem State.modCore_tiles (s : State) (c : Nat) (f : Core → Core) : (s.modCore c f).tiles = s.tiles := rfl
@[simp] theorem State.modCore_hbmLog (s : State) (c : Nat) (f : Core → Core) : (s.modCore c f).hbmLog = s.hbmLog := rfl
@[simp] theorem State.modCore_heats (s : State) (c : Nat) (f : Core → Core) : (s.modCore c f).heats = s.heats := rfl
@[simp] theorem State.modCore_gops (s : State) (c : Nat) (f : Core → Core) : (s.modCore c f).gops = s.gops := rfl
@[simp] theorem State.modCore_cmds (s : State) (c : Nat) (f : Core → Core) : (s.modCore c f).cmds = s.cmds := rfl
@[simp] theorem State.modCore_barPend (s : State) (c : Nat) (f : Core → Core) : (s.modCore c f).barPend = s.barPend := rfl
@[simp] theorem State.modCore_detects (s : State) (c : Nat) (f : Core → Core) : (s.modCore c f).detects = s.detects := rfl
@[simp] theorem State.modCore_ports (s : State) (c : Nat) (f : Core → Core) : (s.modCore c f).ports = s.ports := rfl
@[simp] theorem State.modCore_queues (s : State) (c : Nat) (f : Core → Core) : (s.modCore c f).queues = s.queues := rfl
@[simp] theorem State.modCore_rings (s : State) (c : Nat) (f : Core → Core) : (s.modCore c f).rings = s.rings := rfl
@[simp] theorem State.modCore_ready (s : State) (c : Nat) (f : Core → Core) : (s.modCore c f).ready = s.ready := rfl
@[simp] theorem State.modCore_counters (s : State) (c : Nat) (f : Core → Core) : (s.modCore c f).counters = s.counters := rfl
@[simp] theorem State.modCore_pkgNo (s : State) (c : Nat) (f : Core → Core) : (s.modCore c f).pkgNo = s.pkgNo := rfl
@[simp] theorem State.modCore_nextHid (s : State) (c : Nat) (f : Core → Core) : (s.modCore c f).nextHid = s.nextHid := rfl
@[simp] theorem State.modCore_copied (s : State) (c : Nat) (f : Core → Core) : (s.modCore c f).copied = s.copied := rfl
@[simp] theorem State.modCore_gone (s : State) (c : Nat) (f : Core → Core) : (s.modCore c f).gone = s.gone := rfl
@[simp] theorem State.modCore_spent (s : State) (c : Nat) (f : Core → Core) : (s.modCore c f).spent = s.spent := rfl
@[simp] theorem State.modCore_regatta (s : State) (c : Nat) (f : Core → Core) : (s.modCore c f).regatta = s.regatta := rfl
@[simp] theorem State.modCore_links (s : State) (c : Nat) (f : Core → Core) : (s.modCore c f).links = s.links := rfl
@[simp] theorem State.modCore_mailbox (s : State) (c : Nat) (f : Core → Core) : (s.modCore c f).mailbox = s.mailbox := rfl
@[simp] theorem State.modCore_ptp (s : State) (c : Nat) (f : Core → Core) : (s.modCore c f).ptp = s.ptp := rfl
@[simp] theorem State.modCore_ptpLock (s : State) (c : Nat) (f : Core → Core) : (s.modCore c f).ptpLock = s.ptpLock := rfl
@[simp] theorem State.modCore_hostReads (s : State) (c : Nat) (f : Core → Core) : (s.modCore c f).hostReads = s.hostReads := rfl
@[simp] theorem State.modCore_budget (s : State) (c : Nat) (f : Core → Core) : (s.modCore c f).budget = s.budget := rfl
@[simp] theorem State.modCore_power (s : State) (c : Nat) (f : Core → Core) : (s.modCore c f).power = s.power := rfl
@[simp] theorem State.modCore_tokens (s : State) (c : Nat) (f : Core → Core) : (s.modCore c f).tokens = s.tokens := rfl
@[simp] theorem State.modCore_limits (s : State) (c : Nat) (f : Core → Core) : (s.modCore c f).limits = s.limits := rfl
@[simp] theorem State.modCore_leafIndex (s : State) (c : Nat) (f : Core → Core) : (s.modCore c f).leafIndex = s.leafIndex := rfl
@[simp] theorem State.modCore_flashFailed (s : State) (c : Nat) (f : Core → Core) : (s.modCore c f).flashFailed = s.flashFailed := rfl
@[simp] theorem State.modCore_image (s : State) (c : Nat) (f : Core → Core) : (s.modCore c f).image = s.image := rfl
@[simp] theorem State.modCore_faultLog (s : State) (c : Nat) (f : Core → Core) : (s.modCore c f).faultLog = s.faultLog := rfl
@[simp] theorem State.modCore_logEvents (s : State) (c : Nat) (f : Core → Core) : (s.modCore c f).logEvents = s.logEvents := rfl
@[simp] theorem State.modCore_env (s : State) (c : Nat) (f : Core → Core) : (s.modCore c f).env = s.env := rfl

@[simp] theorem State.modPort_now (s : State) (p : Nat) (f : Port → Port) : (s.modPort p f).now = s.now := rfl
@[simp] theorem State.modPort_agenda (s : State) (p : Nat) (f : Port → Port) : (s.modPort p f).agenda = s.agenda := rfl
@[simp] theorem State.modPort_arg (s : State) (p : Nat) (f : Port → Port) : (s.modPort p f).arg = s.arg := rfl
@[simp] theorem State.modPort_cur (s : State) (p : Nat) (f : Port → Port) : (s.modPort p f).cur = s.cur := rfl
@[simp] theorem State.modPort_seq (s : State) (p : Nat) (f : Port → Port) : (s.modPort p f).seq = s.seq := rfl
@[simp] theorem State.modPort_hbm (s : State) (p : Nat) (f : Port → Port) : (s.modPort p f).hbm = s.hbm := rfl
@[simp] theorem State.modPort_hostMem (s : State) (p : Nat) (f : Port → Port) : (s.modPort p f).hostMem = s.hostMem := rfl
@[simp] theorem State.modPort_scratch (s : State) (p : Nat) (f : Port → Port) : (s.modPort p f).scratch = s.scratch := rfl
@[simp] theorem State.modPort_tiles (s : State) (p : Nat) (f : Port → Port) : (s.modPort p f).tiles = s.tiles := rfl
@[simp] theorem State.modPort_hbmLog (s : State) (p : Nat) (f : Port → Port) : (s.modPort p f).hbmLog = s.hbmLog := rfl
@[simp] theorem State.modPort_cores (s : State) (p : Nat) (f : Port → Port) : (s.modPort p f).cores = s.cores := rfl
@[simp] theorem State.modPort_heats (s : State) (p : Nat) (f : Port → Port) : (s.modPort p f).heats = s.heats := rfl
@[simp] theorem State.modPort_gops (s : State) (p : Nat) (f : Port → Port) : (s.modPort p f).gops = s.gops := rfl
@[simp] theorem State.modPort_cmds (s : State) (p : Nat) (f : Port → Port) : (s.modPort p f).cmds = s.cmds := rfl
@[simp] theorem State.modPort_barPend (s : State) (p : Nat) (f : Port → Port) : (s.modPort p f).barPend = s.barPend := rfl
@[simp] theorem State.modPort_detects (s : State) (p : Nat) (f : Port → Port) : (s.modPort p f).detects = s.detects := rfl
@[simp] theorem State.modPort_queues (s : State) (p : Nat) (f : Port → Port) : (s.modPort p f).queues = s.queues := rfl
@[simp] theorem State.modPort_rings (s : State) (p : Nat) (f : Port → Port) : (s.modPort p f).rings = s.rings := rfl
@[simp] theorem State.modPort_ready (s : State) (p : Nat) (f : Port → Port) : (s.modPort p f).ready = s.ready := rfl
@[simp] theorem State.modPort_counters (s : State) (p : Nat) (f : Port → Port) : (s.modPort p f).counters = s.counters := rfl
@[simp] theorem State.modPort_pkgNo (s : State) (p : Nat) (f : Port → Port) : (s.modPort p f).pkgNo = s.pkgNo := rfl
@[simp] theorem State.modPort_nextHid (s : State) (p : Nat) (f : Port → Port) : (s.modPort p f).nextHid = s.nextHid := rfl
@[simp] theorem State.modPort_copied (s : State) (p : Nat) (f : Port → Port) : (s.modPort p f).copied = s.copied := rfl
@[simp] theorem State.modPort_gone (s : State) (p : Nat) (f : Port → Port) : (s.modPort p f).gone = s.gone := rfl
@[simp] theorem State.modPort_spent (s : State) (p : Nat) (f : Port → Port) : (s.modPort p f).spent = s.spent := rfl
@[simp] theorem State.modPort_regatta (s : State) (p : Nat) (f : Port → Port) : (s.modPort p f).regatta = s.regatta := rfl
@[simp] theorem State.modPort_links (s : State) (p : Nat) (f : Port → Port) : (s.modPort p f).links = s.links := rfl
@[simp] theorem State.modPort_mailbox (s : State) (p : Nat) (f : Port → Port) : (s.modPort p f).mailbox = s.mailbox := rfl
@[simp] theorem State.modPort_ptp (s : State) (p : Nat) (f : Port → Port) : (s.modPort p f).ptp = s.ptp := rfl
@[simp] theorem State.modPort_ptpLock (s : State) (p : Nat) (f : Port → Port) : (s.modPort p f).ptpLock = s.ptpLock := rfl
@[simp] theorem State.modPort_hostReads (s : State) (p : Nat) (f : Port → Port) : (s.modPort p f).hostReads = s.hostReads := rfl
@[simp] theorem State.modPort_budget (s : State) (p : Nat) (f : Port → Port) : (s.modPort p f).budget = s.budget := rfl
@[simp] theorem State.modPort_power (s : State) (p : Nat) (f : Port → Port) : (s.modPort p f).power = s.power := rfl
@[simp] theorem State.modPort_tokens (s : State) (p : Nat) (f : Port → Port) : (s.modPort p f).tokens = s.tokens := rfl
@[simp] theorem State.modPort_limits (s : State) (p : Nat) (f : Port → Port) : (s.modPort p f).limits = s.limits := rfl
@[simp] theorem State.modPort_leafIndex (s : State) (p : Nat) (f : Port → Port) : (s.modPort p f).leafIndex = s.leafIndex := rfl
@[simp] theorem State.modPort_flashFailed (s : State) (p : Nat) (f : Port → Port) : (s.modPort p f).flashFailed = s.flashFailed := rfl
@[simp] theorem State.modPort_image (s : State) (p : Nat) (f : Port → Port) : (s.modPort p f).image = s.image := rfl
@[simp] theorem State.modPort_faultLog (s : State) (p : Nat) (f : Port → Port) : (s.modPort p f).faultLog = s.faultLog := rfl
@[simp] theorem State.modPort_logEvents (s : State) (p : Nat) (f : Port → Port) : (s.modPort p f).logEvents = s.logEvents := rfl
@[simp] theorem State.modPort_env (s : State) (p : Nat) (f : Port → Port) : (s.modPort p f).env = s.env := rfl

@[simp] theorem State.modQueue_now (s : State) (q : Nat) (f : Queue → Queue) : (s.modQueue q f).now = s.now := rfl
@[simp] theorem State.modQueue_agenda (s : State) (q : Nat) (f : Queue → Queue) : (s.modQueue q f).agenda = s.agenda := rfl
@[simp] theorem State.modQueue_arg (s : State) (q : Nat) (f : Queue → Queue) : (s.modQueue q f).arg = s.arg := rfl
@[simp] theorem State.modQueue_cur (s : State) (q : Nat) (f : Queue → Queue) : (s.modQueue q f).cur = s.cur := rfl
@[simp] theorem State.modQueue_seq (s : State) (q : Nat) (f : Queue → Queue) : (s.modQueue q f).seq = s.seq := rfl
@[simp] theorem State.modQueue_hbm (s : State) (q : Nat) (f : Queue → Queue) : (s.modQueue q f).hbm = s.hbm := rfl
@[simp] theorem State.modQueue_hostMem (s : State) (q : Nat) (f : Queue → Queue) : (s.modQueue q f).hostMem = s.hostMem := rfl
@[simp] theorem State.modQueue_scratch (s : State) (q : Nat) (f : Queue → Queue) : (s.modQueue q f).scratch = s.scratch := rfl
@[simp] theorem State.modQueue_tiles (s : State) (q : Nat) (f : Queue → Queue) : (s.modQueue q f).tiles = s.tiles := rfl
@[simp] theorem State.modQueue_hbmLog (s : State) (q : Nat) (f : Queue → Queue) : (s.modQueue q f).hbmLog = s.hbmLog := rfl
@[simp] theorem State.modQueue_cores (s : State) (q : Nat) (f : Queue → Queue) : (s.modQueue q f).cores = s.cores := rfl
@[simp] theorem State.modQueue_heats (s : State) (q : Nat) (f : Queue → Queue) : (s.modQueue q f).heats = s.heats := rfl
@[simp] theorem State.modQueue_gops (s : State) (q : Nat) (f : Queue → Queue) : (s.modQueue q f).gops = s.gops := rfl
@[simp] theorem State.modQueue_cmds (s : State) (q : Nat) (f : Queue → Queue) : (s.modQueue q f).cmds = s.cmds := rfl
@[simp] theorem State.modQueue_barPend (s : State) (q : Nat) (f : Queue → Queue) : (s.modQueue q f).barPend = s.barPend := rfl
@[simp] theorem State.modQueue_detects (s : State) (q : Nat) (f : Queue → Queue) : (s.modQueue q f).detects = s.detects := rfl
@[simp] theorem State.modQueue_ports (s : State) (q : Nat) (f : Queue → Queue) : (s.modQueue q f).ports = s.ports := rfl
@[simp] theorem State.modQueue_rings (s : State) (q : Nat) (f : Queue → Queue) : (s.modQueue q f).rings = s.rings := rfl
@[simp] theorem State.modQueue_ready (s : State) (q : Nat) (f : Queue → Queue) : (s.modQueue q f).ready = s.ready := rfl
@[simp] theorem State.modQueue_counters (s : State) (q : Nat) (f : Queue → Queue) : (s.modQueue q f).counters = s.counters := rfl
@[simp] theorem State.modQueue_pkgNo (s : State) (q : Nat) (f : Queue → Queue) : (s.modQueue q f).pkgNo = s.pkgNo := rfl
@[simp] theorem State.modQueue_nextHid (s : State) (q : Nat) (f : Queue → Queue) : (s.modQueue q f).nextHid = s.nextHid := rfl
@[simp] theorem State.modQueue_copied (s : State) (q : Nat) (f : Queue → Queue) : (s.modQueue q f).copied = s.copied := rfl
@[simp] theorem State.modQueue_gone (s : State) (q : Nat) (f : Queue → Queue) : (s.modQueue q f).gone = s.gone := rfl
@[simp] theorem State.modQueue_spent (s : State) (q : Nat) (f : Queue → Queue) : (s.modQueue q f).spent = s.spent := rfl
@[simp] theorem State.modQueue_regatta (s : State) (q : Nat) (f : Queue → Queue) : (s.modQueue q f).regatta = s.regatta := rfl
@[simp] theorem State.modQueue_links (s : State) (q : Nat) (f : Queue → Queue) : (s.modQueue q f).links = s.links := rfl
@[simp] theorem State.modQueue_mailbox (s : State) (q : Nat) (f : Queue → Queue) : (s.modQueue q f).mailbox = s.mailbox := rfl
@[simp] theorem State.modQueue_ptp (s : State) (q : Nat) (f : Queue → Queue) : (s.modQueue q f).ptp = s.ptp := rfl
@[simp] theorem State.modQueue_ptpLock (s : State) (q : Nat) (f : Queue → Queue) : (s.modQueue q f).ptpLock = s.ptpLock := rfl
@[simp] theorem State.modQueue_hostReads (s : State) (q : Nat) (f : Queue → Queue) : (s.modQueue q f).hostReads = s.hostReads := rfl
@[simp] theorem State.modQueue_budget (s : State) (q : Nat) (f : Queue → Queue) : (s.modQueue q f).budget = s.budget := rfl
@[simp] theorem State.modQueue_power (s : State) (q : Nat) (f : Queue → Queue) : (s.modQueue q f).power = s.power := rfl
@[simp] theorem State.modQueue_tokens (s : State) (q : Nat) (f : Queue → Queue) : (s.modQueue q f).tokens = s.tokens := rfl
@[simp] theorem State.modQueue_limits (s : State) (q : Nat) (f : Queue → Queue) : (s.modQueue q f).limits = s.limits := rfl
@[simp] theorem State.modQueue_leafIndex (s : State) (q : Nat) (f : Queue → Queue) : (s.modQueue q f).leafIndex = s.leafIndex := rfl
@[simp] theorem State.modQueue_flashFailed (s : State) (q : Nat) (f : Queue → Queue) : (s.modQueue q f).flashFailed = s.flashFailed := rfl
@[simp] theorem State.modQueue_image (s : State) (q : Nat) (f : Queue → Queue) : (s.modQueue q f).image = s.image := rfl
@[simp] theorem State.modQueue_faultLog (s : State) (q : Nat) (f : Queue → Queue) : (s.modQueue q f).faultLog = s.faultLog := rfl
@[simp] theorem State.modQueue_logEvents (s : State) (q : Nat) (f : Queue → Queue) : (s.modQueue q f).logEvents = s.logEvents := rfl
@[simp] theorem State.modQueue_env (s : State) (q : Nat) (f : Queue → Queue) : (s.modQueue q f).env = s.env := rfl

@[simp] theorem State.modGop_now (s : State) (id : Nat) (f : GlobalOp → GlobalOp) : (s.modGop id f).now = s.now := rfl
@[simp] theorem State.modGop_agenda (s : State) (id : Nat) (f : GlobalOp → GlobalOp) : (s.modGop id f).agenda = s.agenda := rfl
@[simp] theorem State.modGop_arg (s : State) (id : Nat) (f : GlobalOp → GlobalOp) : (s.modGop id f).arg = s.arg := rfl
@[simp] theorem State.modGop_cur (s : State) (id : Nat) (f : GlobalOp → GlobalOp) : (s.modGop id f).cur = s.cur := rfl
@[simp] theorem State.modGop_seq (s : State) (id : Nat) (f : GlobalOp → GlobalOp) : (s.modGop id f).seq = s.seq := rfl
@[simp] theorem State.modGop_hbm (s : State) (id : Nat) (f : GlobalOp → GlobalOp) : (s.modGop id f).hbm = s.hbm := rfl
@[simp] theorem State.modGop_hostMem (s : State) (id : Nat) (f : GlobalOp → GlobalOp) : (s.modGop id f).hostMem = s.hostMem := rfl
@[simp] theorem State.modGop_scratch (s : State) (id : Nat) (f : GlobalOp → GlobalOp) : (s.modGop id f).scratch = s.scratch := rfl
@[simp] theorem State.modGop_tiles (s : State) (id : Nat) (f : GlobalOp → GlobalOp) : (s.modGop id f).tiles = s.tiles := rfl
@[simp] theorem State.modGop_hbmLog (s : State) (id : Nat) (f : GlobalOp → GlobalOp) : (s.modGop id f).hbmLog = s.hbmLog := rfl
@[simp] theorem State.modGop_cores (s : State) (id : Nat) (f : GlobalOp → GlobalOp) : (s.modGop id f).cores = s.cores := rfl
@[simp] theorem State.modGop_heats (s : State) (id : Nat) (f : GlobalOp → GlobalOp) : (s.modGop id f).heats = s.heats := rfl
@[simp] theorem State.modGop_cmds (s : State) (id : Nat) (f : GlobalOp → GlobalOp) : (s.modGop id f).cmds = s.cmds := rfl
@[simp] theorem State.modGop_barPend (s : State) (id : Nat) (f : GlobalOp → GlobalOp) : (s.modGop id f).barPend = s.barPend := rfl
@[simp] theorem State.modGop_detects (s : State) (id : Nat) (f : GlobalOp → GlobalOp) : (s.modGop id f).detects = s.detects := rfl
@[simp] theorem State.modGop_ports (s : State) (id : Nat) (f : GlobalOp → GlobalOp) : (s.modGop id f).ports = s.ports := rfl
@[simp] theorem State.modGop_queues (s : State) (id : Nat) (f : GlobalOp → GlobalOp) : (s.modGop id f).queues = s.queues := rfl
@[simp] theorem State.modGop_rings (s : State) (id : Nat) (f : GlobalOp → GlobalOp) : (s.modGop id f).rings = s.rings := rfl
@[simp] theorem State.modGop_ready (s : State) (id : Nat) (f : GlobalOp → GlobalOp) : (s.modGop id f).ready = s.ready := rfl
@[simp] theorem State.modGop_counters (s : State) (id : Nat) (f : GlobalOp → GlobalOp) : (s.modGop id f).counters = s.counters := rfl
@[simp] theorem State.modGop_pkgNo (s : State) (id : Nat) (f : GlobalOp → GlobalOp) : (s.modGop id f).pkgNo = s.pkgNo := rfl
@[simp] theorem State.modGop_nextHid (s : State) (id : Nat) (f : GlobalOp → GlobalOp) : (s.modGop id f).nextHid = s.nextHid := rfl
@[simp] theorem State.modGop_copied (s : State) (id : Nat) (f : GlobalOp → GlobalOp) : (s.modGop id f).copied = s.copied := rfl
@[simp] theorem State.modGop_gone (s : State) (id : Nat) (f : GlobalOp → GlobalOp) : (s.modGop id f).gone = s.gone := rfl
@[simp] theorem State.modGop_spent (s : State) (id : Nat) (f : GlobalOp → GlobalOp) : (s.modGop id f).spent = s.spent := rfl
@[simp] theorem State.modGop_regatta (s : State) (id : Nat) (f : GlobalOp → GlobalOp) : (s.modGop id f).regatta = s.regatta := rfl
@[simp] theorem State.modGop_links (s : State) (id : Nat) (f : GlobalOp → GlobalOp) : (s.modGop id f).links = s.links := rfl
@[simp] theorem State.modGop_mailbox (s : State) (id : Nat) (f : GlobalOp → GlobalOp) : (s.modGop id f).mailbox = s.mailbox := rfl
@[simp] theorem State.modGop_ptp (s : State) (id : Nat) (f : GlobalOp → GlobalOp) : (s.modGop id f).ptp = s.ptp := rfl
@[simp] theorem State.modGop_ptpLock (s : State) (id : Nat) (f : GlobalOp → GlobalOp) : (s.modGop id f).ptpLock = s.ptpLock := rfl
@[simp] theorem State.modGop_hostReads (s : State) (id : Nat) (f : GlobalOp → GlobalOp) : (s.modGop id f).hostReads = s.hostReads := rfl
@[simp] theorem State.modGop_budget (s : State) (id : Nat) (f : GlobalOp → GlobalOp) : (s.modGop id f).budget = s.budget := rfl
@[simp] theorem State.modGop_power (s : State) (id : Nat) (f : GlobalOp → GlobalOp) : (s.modGop id f).power = s.power := rfl
@[simp] theorem State.modGop_tokens (s : State) (id : Nat) (f : GlobalOp → GlobalOp) : (s.modGop id f).tokens = s.tokens := rfl
@[simp] theorem State.modGop_limits (s : State) (id : Nat) (f : GlobalOp → GlobalOp) : (s.modGop id f).limits = s.limits := rfl
@[simp] theorem State.modGop_leafIndex (s : State) (id : Nat) (f : GlobalOp → GlobalOp) : (s.modGop id f).leafIndex = s.leafIndex := rfl
@[simp] theorem State.modGop_flashFailed (s : State) (id : Nat) (f : GlobalOp → GlobalOp) : (s.modGop id f).flashFailed = s.flashFailed := rfl
@[simp] theorem State.modGop_image (s : State) (id : Nat) (f : GlobalOp → GlobalOp) : (s.modGop id f).image = s.image := rfl
@[simp] theorem State.modGop_faultLog (s : State) (id : Nat) (f : GlobalOp → GlobalOp) : (s.modGop id f).faultLog = s.faultLog := rfl
@[simp] theorem State.modGop_logEvents (s : State) (id : Nat) (f : GlobalOp → GlobalOp) : (s.modGop id f).logEvents = s.logEvents := rfl
@[simp] theorem State.modGop_env (s : State) (id : Nat) (f : GlobalOp → GlobalOp) : (s.modGop id f).env = s.env := rfl

@[simp] theorem State.dropGop_now (s : State) (id : Nat) : (s.dropGop id).now = s.now := rfl
@[simp] theorem State.dropGop_agenda (s : State) (id : Nat) : (s.dropGop id).agenda = s.agenda := rfl
@[simp] theorem State.dropGop_arg (s : State) (id : Nat) : (s.dropGop id).arg = s.arg := rfl
@[simp] theorem State.dropGop_cur (s : State) (id : Nat) : (s.dropGop id).cur = s.cur := rfl
@[simp] theorem State.dropGop_seq (s : State) (id : Nat) : (s.dropGop id).seq = s.seq := rfl
@[simp] theorem State.dropGop_hbm (s : State) (id : Nat) : (s.dropGop id).hbm = s.hbm := rfl
@[simp] theorem State.dropGop_hostMem (s : State) (id : Nat) : (s.dropGop id).hostMem = s.hostMem := rfl
@[simp] theorem State.dropGop_scratch (s : State) (id : Nat) : (s.dropGop id).scratch = s.scratch := rfl
@[simp] theorem State.dropGop_tiles (s : State) (id : Nat) : (s.dropGop id).tiles = s.tiles := rfl
@[simp] theorem State.dropGop_hbmLog (s : State) (id : Nat) : (s.dropGop id).hbmLog = s.hbmLog := rfl
@[simp] theorem State.dropGop_cores (s : State) (id : Nat) : (s.dropGop id).cores = s.cores := rfl
@[simp] theorem State.dropGop_heats (s : State) (id : Nat) : (s.dropGop id).heats = s.heats := rfl
@[simp] theorem State.dropGop_cmds (s : State) (id : Nat) : (s.dropGop id).cmds = s.cmds := rfl
@[simp] theorem State.dropGop_barPend (s : State) (id : Nat) : (s.dropGop id).barPend = s.barPend := rfl
@[simp] theorem State.dropGop_detects (s : State) (id : Nat) : (s.dropGop id).detects = s.detects := rfl
@[simp] theorem State.dropGop_ports (s : State) (id : Nat) : (s.dropGop id).ports = s.ports := rfl
@[simp] theorem State.dropGop_queues (s : State) (id : Nat) : (s.dropGop id).queues = s.queues := rfl
@[simp] theorem State.dropGop_rings (s : State) (id : Nat) : (s.dropGop id).rings = s.rings := rfl
@[simp] theorem State.dropGop_ready (s : State) (id : Nat) : (s.dropGop id).ready = s.ready := rfl
@[simp] theorem State.dropGop_counters (s : State) (id : Nat) : (s.dropGop id).counters = s.counters := rfl
@[simp] theorem State.dropGop_pkgNo (s : State) (id : Nat) : (s.dropGop id).pkgNo = s.pkgNo := rfl
@[simp] theorem State.dropGop_nextHid (s : State) (id : Nat) : (s.dropGop id).nextHid = s.nextHid := rfl
@[simp] theorem State.dropGop_copied (s : State) (id : Nat) : (s.dropGop id).copied = s.copied := rfl
@[simp] theorem State.dropGop_gone (s : State) (id : Nat) : (s.dropGop id).gone = s.gone := rfl
@[simp] theorem State.dropGop_spent (s : State) (id : Nat) : (s.dropGop id).spent = s.spent := rfl
@[simp] theorem State.dropGop_regatta (s : State) (id : Nat) : (s.dropGop id).regatta = s.regatta := rfl
@[simp] theorem State.dropGop_links (s : State) (id : Nat) : (s.dropGop id).links = s.links := rfl
@[simp] theorem State.dropGop_mailbox (s : State) (id : Nat) : (s.dropGop id).mailbox = s.mailbox := rfl
@[simp] theorem State.dropGop_ptp (s : State) (id : Nat) : (s.dropGop id).ptp = s.ptp := rfl
@[simp] theorem State.dropGop_ptpLock (s : State) (id : Nat) : (s.dropGop id).ptpLock = s.ptpLock := rfl
@[simp] theorem State.dropGop_hostReads (s : State) (id : Nat) : (s.dropGop id).hostReads = s.hostReads := rfl
@[simp] theorem State.dropGop_budget (s : State) (id : Nat) : (s.dropGop id).budget = s.budget := rfl
@[simp] theorem State.dropGop_power (s : State) (id : Nat) : (s.dropGop id).power = s.power := rfl
@[simp] theorem State.dropGop_tokens (s : State) (id : Nat) : (s.dropGop id).tokens = s.tokens := rfl
@[simp] theorem State.dropGop_limits (s : State) (id : Nat) : (s.dropGop id).limits = s.limits := rfl
@[simp] theorem State.dropGop_leafIndex (s : State) (id : Nat) : (s.dropGop id).leafIndex = s.leafIndex := rfl
@[simp] theorem State.dropGop_flashFailed (s : State) (id : Nat) : (s.dropGop id).flashFailed = s.flashFailed := rfl
@[simp] theorem State.dropGop_image (s : State) (id : Nat) : (s.dropGop id).image = s.image := rfl
@[simp] theorem State.dropGop_faultLog (s : State) (id : Nat) : (s.dropGop id).faultLog = s.faultLog := rfl
@[simp] theorem State.dropGop_logEvents (s : State) (id : Nat) : (s.dropGop id).logEvents = s.logEvents := rfl
@[simp] theorem State.dropGop_env (s : State) (id : Nat) : (s.dropGop id).env = s.env := rfl

@[simp] theorem State.modCmd_now (s : State) (id : Nat) (f : EngCmd → EngCmd) : (s.modCmd id f).now = s.now := rfl
@[simp] theorem State.modCmd_agenda (s : State) (id : Nat) (f : EngCmd → EngCmd) : (s.modCmd id f).agenda = s.agenda := rfl
@[simp] theorem State.modCmd_arg (s : State) (id : Nat) (f : EngCmd → EngCmd) : (s.modCmd id f).arg = s.arg := rfl
@[simp] theorem State.modCmd_cur (s : State) (id : Nat) (f : EngCmd → EngCmd) : (s.modCmd id f).cur = s.cur := rfl
@[simp] theorem State.modCmd_seq (s : State) (id : Nat) (f : EngCmd → EngCmd) : (s.modCmd id f).seq = s.seq := rfl
@[simp] theorem State.modCmd_hbm (s : State) (id : Nat) (f : EngCmd → EngCmd) : (s.modCmd id f).hbm = s.hbm := rfl
@[simp] theorem State.modCmd_hostMem (s : State) (id : Nat) (f : EngCmd → EngCmd) : (s.modCmd id f).hostMem = s.hostMem := rfl
@[simp] theorem State.modCmd_scratch (s : State) (id : Nat) (f : EngCmd → EngCmd) : (s.modCmd id f).scratch = s.scratch := rfl
@[simp] theorem State.modCmd_tiles (s : State) (id : Nat) (f : EngCmd → EngCmd) : (s.modCmd id f).tiles = s.tiles := rfl
@[simp] theorem State.modCmd_hbmLog (s : State) (id : Nat) (f : EngCmd → EngCmd) : (s.modCmd id f).hbmLog = s.hbmLog := rfl
@[simp] theorem State.modCmd_cores (s : State) (id : Nat) (f : EngCmd → EngCmd) : (s.modCmd id f).cores = s.cores := rfl
@[simp] theorem State.modCmd_heats (s : State) (id : Nat) (f : EngCmd → EngCmd) : (s.modCmd id f).heats = s.heats := rfl
@[simp] theorem State.modCmd_gops (s : State) (id : Nat) (f : EngCmd → EngCmd) : (s.modCmd id f).gops = s.gops := rfl
@[simp] theorem State.modCmd_barPend (s : State) (id : Nat) (f : EngCmd → EngCmd) : (s.modCmd id f).barPend = s.barPend := rfl
@[simp] theorem State.modCmd_detects (s : State) (id : Nat) (f : EngCmd → EngCmd) : (s.modCmd id f).detects = s.detects := rfl
@[simp] theorem State.modCmd_ports (s : State) (id : Nat) (f : EngCmd → EngCmd) : (s.modCmd id f).ports = s.ports := rfl
@[simp] theorem State.modCmd_queues (s : State) (id : Nat) (f : EngCmd → EngCmd) : (s.modCmd id f).queues = s.queues := rfl
@[simp] theorem State.modCmd_rings (s : State) (id : Nat) (f : EngCmd → EngCmd) : (s.modCmd id f).rings = s.rings := rfl
@[simp] theorem State.modCmd_ready (s : State) (id : Nat) (f : EngCmd → EngCmd) : (s.modCmd id f).ready = s.ready := rfl
@[simp] theorem State.modCmd_counters (s : State) (id : Nat) (f : EngCmd → EngCmd) : (s.modCmd id f).counters = s.counters := rfl
@[simp] theorem State.modCmd_pkgNo (s : State) (id : Nat) (f : EngCmd → EngCmd) : (s.modCmd id f).pkgNo = s.pkgNo := rfl
@[simp] theorem State.modCmd_nextHid (s : State) (id : Nat) (f : EngCmd → EngCmd) : (s.modCmd id f).nextHid = s.nextHid := rfl
@[simp] theorem State.modCmd_copied (s : State) (id : Nat) (f : EngCmd → EngCmd) : (s.modCmd id f).copied = s.copied := rfl
@[simp] theorem State.modCmd_gone (s : State) (id : Nat) (f : EngCmd → EngCmd) : (s.modCmd id f).gone = s.gone := rfl
@[simp] theorem State.modCmd_spent (s : State) (id : Nat) (f : EngCmd → EngCmd) : (s.modCmd id f).spent = s.spent := rfl
@[simp] theorem State.modCmd_regatta (s : State) (id : Nat) (f : EngCmd → EngCmd) : (s.modCmd id f).regatta = s.regatta := rfl
@[simp] theorem State.modCmd_links (s : State) (id : Nat) (f : EngCmd → EngCmd) : (s.modCmd id f).links = s.links := rfl
@[simp] theorem State.modCmd_mailbox (s : State) (id : Nat) (f : EngCmd → EngCmd) : (s.modCmd id f).mailbox = s.mailbox := rfl
@[simp] theorem State.modCmd_ptp (s : State) (id : Nat) (f : EngCmd → EngCmd) : (s.modCmd id f).ptp = s.ptp := rfl
@[simp] theorem State.modCmd_ptpLock (s : State) (id : Nat) (f : EngCmd → EngCmd) : (s.modCmd id f).ptpLock = s.ptpLock := rfl
@[simp] theorem State.modCmd_hostReads (s : State) (id : Nat) (f : EngCmd → EngCmd) : (s.modCmd id f).hostReads = s.hostReads := rfl
@[simp] theorem State.modCmd_budget (s : State) (id : Nat) (f : EngCmd → EngCmd) : (s.modCmd id f).budget = s.budget := rfl
@[simp] theorem State.modCmd_power (s : State) (id : Nat) (f : EngCmd → EngCmd) : (s.modCmd id f).power = s.power := rfl
@[simp] theorem State.modCmd_tokens (s : State) (id : Nat) (f : EngCmd → EngCmd) : (s.modCmd id f).tokens = s.tokens := rfl
@[simp] theorem State.modCmd_limits (s : State) (id : Nat) (f : EngCmd → EngCmd) : (s.modCmd id f).limits = s.limits := rfl
@[simp] theorem State.modCmd_leafIndex (s : State) (id : Nat) (f : EngCmd → EngCmd) : (s.modCmd id f).leafIndex = s.leafIndex := rfl
@[simp] theorem State.modCmd_flashFailed (s : State) (id : Nat) (f : EngCmd → EngCmd) : (s.modCmd id f).flashFailed = s.flashFailed := rfl
@[simp] theorem State.modCmd_image (s : State) (id : Nat) (f : EngCmd → EngCmd) : (s.modCmd id f).image = s.image := rfl
@[simp] theorem State.modCmd_faultLog (s : State) (id : Nat) (f : EngCmd → EngCmd) : (s.modCmd id f).faultLog = s.faultLog := rfl
@[simp] theorem State.modCmd_logEvents (s : State) (id : Nat) (f : EngCmd → EngCmd) : (s.modCmd id f).logEvents = s.logEvents := rfl
@[simp] theorem State.modCmd_env (s : State) (id : Nat) (f : EngCmd → EngCmd) : (s.modCmd id f).env = s.env := rfl

@[simp] theorem State.detect_now (s : State) (d : Detect) : (s.detect d).now = s.now := rfl
@[simp] theorem State.detect_agenda (s : State) (d : Detect) : (s.detect d).agenda = s.agenda := rfl
@[simp] theorem State.detect_arg (s : State) (d : Detect) : (s.detect d).arg = s.arg := rfl
@[simp] theorem State.detect_cur (s : State) (d : Detect) : (s.detect d).cur = s.cur := rfl
@[simp] theorem State.detect_seq (s : State) (d : Detect) : (s.detect d).seq = s.seq := rfl
@[simp] theorem State.detect_hbm (s : State) (d : Detect) : (s.detect d).hbm = s.hbm := rfl
@[simp] theorem State.detect_hostMem (s : State) (d : Detect) : (s.detect d).hostMem = s.hostMem := rfl
@[simp] theorem State.detect_scratch (s : State) (d : Detect) : (s.detect d).scratch = s.scratch := rfl
@[simp] theorem State.detect_tiles (s : State) (d : Detect) : (s.detect d).tiles = s.tiles := rfl
@[simp] theorem State.detect_hbmLog (s : State) (d : Detect) : (s.detect d).hbmLog = s.hbmLog := rfl
@[simp] theorem State.detect_cores (s : State) (d : Detect) : (s.detect d).cores = s.cores := rfl
@[simp] theorem State.detect_heats (s : State) (d : Detect) : (s.detect d).heats = s.heats := rfl
@[simp] theorem State.detect_gops (s : State) (d : Detect) : (s.detect d).gops = s.gops := rfl
@[simp] theorem State.detect_cmds (s : State) (d : Detect) : (s.detect d).cmds = s.cmds := rfl
@[simp] theorem State.detect_barPend (s : State) (d : Detect) : (s.detect d).barPend = s.barPend := rfl
@[simp] theorem State.detect_ports (s : State) (d : Detect) : (s.detect d).ports = s.ports := rfl
@[simp] theorem State.detect_queues (s : State) (d : Detect) : (s.detect d).queues = s.queues := rfl
@[simp] theorem State.detect_rings (s : State) (d : Detect) : (s.detect d).rings = s.rings := rfl
@[simp] theorem State.detect_ready (s : State) (d : Detect) : (s.detect d).ready = s.ready := rfl
@[simp] theorem State.detect_counters (s : State) (d : Detect) : (s.detect d).counters = s.counters := rfl
@[simp] theorem State.detect_pkgNo (s : State) (d : Detect) : (s.detect d).pkgNo = s.pkgNo := rfl
@[simp] theorem State.detect_nextHid (s : State) (d : Detect) : (s.detect d).nextHid = s.nextHid := rfl
@[simp] theorem State.detect_copied (s : State) (d : Detect) : (s.detect d).copied = s.copied := rfl
@[simp] theorem State.detect_gone (s : State) (d : Detect) : (s.detect d).gone = s.gone := rfl
@[simp] theorem State.detect_spent (s : State) (d : Detect) : (s.detect d).spent = s.spent := rfl
@[simp] theorem State.detect_regatta (s : State) (d : Detect) : (s.detect d).regatta = s.regatta := rfl
@[simp] theorem State.detect_links (s : State) (d : Detect) : (s.detect d).links = s.links := rfl
@[simp] theorem State.detect_mailbox (s : State) (d : Detect) : (s.detect d).mailbox = s.mailbox := rfl
@[simp] theorem State.detect_ptp (s : State) (d : Detect) : (s.detect d).ptp = s.ptp := rfl
@[simp] theorem State.detect_ptpLock (s : State) (d : Detect) : (s.detect d).ptpLock = s.ptpLock := rfl
@[simp] theorem State.detect_hostReads (s : State) (d : Detect) : (s.detect d).hostReads = s.hostReads := rfl
@[simp] theorem State.detect_budget (s : State) (d : Detect) : (s.detect d).budget = s.budget := rfl
@[simp] theorem State.detect_power (s : State) (d : Detect) : (s.detect d).power = s.power := rfl
@[simp] theorem State.detect_tokens (s : State) (d : Detect) : (s.detect d).tokens = s.tokens := rfl
@[simp] theorem State.detect_limits (s : State) (d : Detect) : (s.detect d).limits = s.limits := rfl
@[simp] theorem State.detect_leafIndex (s : State) (d : Detect) : (s.detect d).leafIndex = s.leafIndex := rfl
@[simp] theorem State.detect_flashFailed (s : State) (d : Detect) : (s.detect d).flashFailed = s.flashFailed := rfl
@[simp] theorem State.detect_image (s : State) (d : Detect) : (s.detect d).image = s.image := rfl
@[simp] theorem State.detect_faultLog (s : State) (d : Detect) : (s.detect d).faultLog = s.faultLog := rfl
@[simp] theorem State.detect_logEvents (s : State) (d : Detect) : (s.detect d).logEvents = s.logEvents := rfl
@[simp] theorem State.detect_env (s : State) (d : Detect) : (s.detect d).env = s.env := rfl

@[simp] theorem State.tick_now (s : State) (source field n : Nat) : (s.tick source field n).now = s.now := rfl
@[simp] theorem State.tick_agenda (s : State) (source field n : Nat) : (s.tick source field n).agenda = s.agenda := rfl
@[simp] theorem State.tick_arg (s : State) (source field n : Nat) : (s.tick source field n).arg = s.arg := rfl
@[simp] theorem State.tick_cur (s : State) (source field n : Nat) : (s.tick source field n).cur = s.cur := rfl
@[simp] theorem State.tick_seq (s : State) (source field n : Nat) : (s.tick source field n).seq = s.seq := rfl
@[simp] theorem State.tick_hbm (s : State) (source field n : Nat) : (s.tick source field n).hbm = s.hbm := rfl
@[simp] theorem State.tick_hostMem (s : State) (source field n : Nat) : (s.tick source field n).hostMem = s.hostMem := rfl
@[simp] theorem State.tick_scratch (s : State) (source field n : Nat) : (s.tick source field n).scratch = s.scratch := rfl
@[simp] theorem State.tick_tiles (s : State) (source field n : Nat) : (s.tick source field n).tiles = s.tiles := rfl
@[simp] theorem State.tick_hbmLog (s : State) (source field n : Nat) : (s.tick source field n).hbmLog = s.hbmLog := rfl
@[simp] theorem State.tick_cores (s : State) (source field n : Nat) : (s.tick source field n).cores = s.cores := rfl
@[simp] theorem State.tick_heats (s : State) (source field n : Nat) : (s.tick source field n).heats = s.heats := rfl
@[simp] theorem State.tick_gops (s : State) (source field n : Nat) : (s.tick source field n).gops = s.gops := rfl
@[simp] theorem State.tick_cmds (s : State) (source field n : Nat) : (s.tick source field n).cmds = s.cmds := rfl
@[simp] theorem State.tick_barPend (s : State) (source field n : Nat) : (s.tick source field n).barPend = s.barPend := rfl
@[simp] theorem State.tick_detects (s : State) (source field n : Nat) : (s.tick source field n).detects = s.detects := rfl
@[simp] theorem State.tick_ports (s : State) (source field n : Nat) : (s.tick source field n).ports = s.ports := rfl
@[simp] theorem State.tick_queues (s : State) (source field n : Nat) : (s.tick source field n).queues = s.queues := rfl
@[simp] theorem State.tick_rings (s : State) (source field n : Nat) : (s.tick source field n).rings = s.rings := rfl
@[simp] theorem State.tick_ready (s : State) (source field n : Nat) : (s.tick source field n).ready = s.ready := rfl
@[simp] theorem State.tick_pkgNo (s : State) (source field n : Nat) : (s.tick source field n).pkgNo = s.pkgNo := rfl
@[simp] theorem State.tick_nextHid (s : State) (source field n : Nat) : (s.tick source field n).nextHid = s.nextHid := rfl
@[simp] theorem State.tick_copied (s : State) (source field n : Nat) : (s.tick source field n).copied = s.copied := rfl
@[simp] theorem State.tick_gone (s : State) (source field n : Nat) : (s.tick source field n).gone = s.gone := rfl
@[simp] theorem State.tick_spent (s : State) (source field n : Nat) : (s.tick source field n).spent = s.spent := rfl
@[simp] theorem State.tick_regatta (s : State) (source field n : Nat) : (s.tick source field n).regatta = s.regatta := rfl
@[simp] theorem State.tick_links (s : State) (source field n : Nat) : (s.tick source field n).links = s.links := rfl
@[simp] theorem State.tick_mailbox (s : State) (source field n : Nat) : (s.tick source field n).mailbox = s.mailbox := rfl
@[simp] theorem State.tick_ptp (s : State) (source field n : Nat) : (s.tick source field n).ptp = s.ptp := rfl
@[simp] theorem State.tick_ptpLock (s : State) (source field n : Nat) : (s.tick source field n).ptpLock = s.ptpLock := rfl
@[simp] theorem State.tick_hostReads (s : State) (source field n : Nat) : (s.tick source field n).hostReads = s.hostReads := rfl
@[simp] theorem State.tick_budget (s : State) (source field n : Nat) : (s.tick source field n).budget = s.budget := rfl
@[simp] theorem State.tick_power (s : State) (source field n : Nat) : (s.tick source field n).power = s.power := rfl
@[simp] theorem State.tick_tokens (s : State) (source field n : Nat) : (s.tick source field n).tokens = s.tokens := rfl
@[simp] theorem State.tick_limits (s : State) (source field n : Nat) : (s.tick source field n).limits = s.limits := rfl
@[simp] theorem State.tick_leafIndex (s : State) (source field n : Nat) : (s.tick source field n).leafIndex = s.leafIndex := rfl
@[simp] theorem State.tick_flashFailed (s : State) (source field n : Nat) : (s.tick source field n).flashFailed = s.flashFailed := rfl
@[simp] theorem State.tick_image (s : State) (source field n : Nat) : (s.tick source field n).image = s.image := rfl
@[simp] theorem State.tick_faultLog (s : State) (source field n : Nat) : (s.tick source field n).faultLog = s.faultLog := rfl
@[simp] theorem State.tick_logEvents (s : State) (source field n : Nat) : (s.tick source field n).logEvents = s.logEvents := rfl

@[simp] theorem State.corrected_now (s : State) (kind : Nat) (touched : Nat → Bool) : (s.corrected kind touched).now = s.now := by
  unfold State.corrected; dsimp only; split <;> rfl
@[simp] theorem State.corrected_agenda (s : State) (kind : Nat) (touched : Nat → Bool) : (s.corrected kind touched).agenda = s.agenda := by
  unfold State.corrected; dsimp only; split <;> rfl
@[simp] theorem State.corrected_arg (s : State) (kind : Nat) (touched : Nat → Bool) : (s.corrected kind touched).arg = s.arg := by
  unfold State.corrected; dsimp only; split <;> rfl
@[simp] theorem State.corrected_cur (s : State) (kind : Nat) (touched : Nat → Bool) : (s.corrected kind touched).cur = s.cur := by
  unfold State.corrected; dsimp only; split <;> rfl
@[simp] theorem State.corrected_seq (s : State) (kind : Nat) (touched : Nat → Bool) : (s.corrected kind touched).seq = s.seq := by
  unfold State.corrected; dsimp only; split <;> rfl
@[simp] theorem State.corrected_hbm (s : State) (kind : Nat) (touched : Nat → Bool) : (s.corrected kind touched).hbm = s.hbm := by
  unfold State.corrected; dsimp only; split <;> rfl
@[simp] theorem State.corrected_hostMem (s : State) (kind : Nat) (touched : Nat → Bool) : (s.corrected kind touched).hostMem = s.hostMem := by
  unfold State.corrected; dsimp only; split <;> rfl
@[simp] theorem State.corrected_scratch (s : State) (kind : Nat) (touched : Nat → Bool) : (s.corrected kind touched).scratch = s.scratch := by
  unfold State.corrected; dsimp only; split <;> rfl
@[simp] theorem State.corrected_tiles (s : State) (kind : Nat) (touched : Nat → Bool) : (s.corrected kind touched).tiles = s.tiles := by
  unfold State.corrected; dsimp only; split <;> rfl
@[simp] theorem State.corrected_hbmLog (s : State) (kind : Nat) (touched : Nat → Bool) : (s.corrected kind touched).hbmLog = s.hbmLog := by
  unfold State.corrected; dsimp only; split <;> rfl
@[simp] theorem State.corrected_cores (s : State) (kind : Nat) (touched : Nat → Bool) : (s.corrected kind touched).cores = s.cores := by
  unfold State.corrected; dsimp only; split <;> rfl
@[simp] theorem State.corrected_heats (s : State) (kind : Nat) (touched : Nat → Bool) : (s.corrected kind touched).heats = s.heats := by
  unfold State.corrected; dsimp only; split <;> rfl
@[simp] theorem State.corrected_gops (s : State) (kind : Nat) (touched : Nat → Bool) : (s.corrected kind touched).gops = s.gops := by
  unfold State.corrected; dsimp only; split <;> rfl
@[simp] theorem State.corrected_cmds (s : State) (kind : Nat) (touched : Nat → Bool) : (s.corrected kind touched).cmds = s.cmds := by
  unfold State.corrected; dsimp only; split <;> rfl
@[simp] theorem State.corrected_barPend (s : State) (kind : Nat) (touched : Nat → Bool) : (s.corrected kind touched).barPend = s.barPend := by
  unfold State.corrected; dsimp only; split <;> rfl
@[simp] theorem State.corrected_detects (s : State) (kind : Nat) (touched : Nat → Bool) : (s.corrected kind touched).detects = s.detects := by
  unfold State.corrected; dsimp only; split <;> rfl
@[simp] theorem State.corrected_ports (s : State) (kind : Nat) (touched : Nat → Bool) : (s.corrected kind touched).ports = s.ports := by
  unfold State.corrected; dsimp only; split <;> rfl
@[simp] theorem State.corrected_queues (s : State) (kind : Nat) (touched : Nat → Bool) : (s.corrected kind touched).queues = s.queues := by
  unfold State.corrected; dsimp only; split <;> rfl
@[simp] theorem State.corrected_rings (s : State) (kind : Nat) (touched : Nat → Bool) : (s.corrected kind touched).rings = s.rings := by
  unfold State.corrected; dsimp only; split <;> rfl
@[simp] theorem State.corrected_ready (s : State) (kind : Nat) (touched : Nat → Bool) : (s.corrected kind touched).ready = s.ready := by
  unfold State.corrected; dsimp only; split <;> rfl
@[simp] theorem State.corrected_pkgNo (s : State) (kind : Nat) (touched : Nat → Bool) : (s.corrected kind touched).pkgNo = s.pkgNo := by
  unfold State.corrected; dsimp only; split <;> rfl
@[simp] theorem State.corrected_nextHid (s : State) (kind : Nat) (touched : Nat → Bool) : (s.corrected kind touched).nextHid = s.nextHid := by
  unfold State.corrected; dsimp only; split <;> rfl
@[simp] theorem State.corrected_copied (s : State) (kind : Nat) (touched : Nat → Bool) : (s.corrected kind touched).copied = s.copied := by
  unfold State.corrected; dsimp only; split <;> rfl
@[simp] theorem State.corrected_gone (s : State) (kind : Nat) (touched : Nat → Bool) : (s.corrected kind touched).gone = s.gone := by
  unfold State.corrected; dsimp only; split <;> rfl
@[simp] theorem State.corrected_spent (s : State) (kind : Nat) (touched : Nat → Bool) : (s.corrected kind touched).spent = s.spent := by
  unfold State.corrected; dsimp only; split <;> rfl
@[simp] theorem State.corrected_regatta (s : State) (kind : Nat) (touched : Nat → Bool) : (s.corrected kind touched).regatta = s.regatta := by
  unfold State.corrected; dsimp only; split <;> rfl
@[simp] theorem State.corrected_links (s : State) (kind : Nat) (touched : Nat → Bool) : (s.corrected kind touched).links = s.links := by
  unfold State.corrected; dsimp only; split <;> rfl
@[simp] theorem State.corrected_mailbox (s : State) (kind : Nat) (touched : Nat → Bool) : (s.corrected kind touched).mailbox = s.mailbox := by
  unfold State.corrected; dsimp only; split <;> rfl
@[simp] theorem State.corrected_ptp (s : State) (kind : Nat) (touched : Nat → Bool) : (s.corrected kind touched).ptp = s.ptp := by
  unfold State.corrected; dsimp only; split <;> rfl
@[simp] theorem State.corrected_ptpLock (s : State) (kind : Nat) (touched : Nat → Bool) : (s.corrected kind touched).ptpLock = s.ptpLock := by
  unfold State.corrected; dsimp only; split <;> rfl
@[simp] theorem State.corrected_hostReads (s : State) (kind : Nat) (touched : Nat → Bool) : (s.corrected kind touched).hostReads = s.hostReads := by
  unfold State.corrected; dsimp only; split <;> rfl
@[simp] theorem State.corrected_budget (s : State) (kind : Nat) (touched : Nat → Bool) : (s.corrected kind touched).budget = s.budget := by
  unfold State.corrected; dsimp only; split <;> rfl
@[simp] theorem State.corrected_power (s : State) (kind : Nat) (touched : Nat → Bool) : (s.corrected kind touched).power = s.power := by
  unfold State.corrected; dsimp only; split <;> rfl
@[simp] theorem State.corrected_tokens (s : State) (kind : Nat) (touched : Nat → Bool) : (s.corrected kind touched).tokens = s.tokens := by
  unfold State.corrected; dsimp only; split <;> rfl
@[simp] theorem State.corrected_limits (s : State) (kind : Nat) (touched : Nat → Bool) : (s.corrected kind touched).limits = s.limits := by
  unfold State.corrected; dsimp only; split <;> rfl
@[simp] theorem State.corrected_leafIndex (s : State) (kind : Nat) (touched : Nat → Bool) : (s.corrected kind touched).leafIndex = s.leafIndex := by
  unfold State.corrected; dsimp only; split <;> rfl
@[simp] theorem State.corrected_flashFailed (s : State) (kind : Nat) (touched : Nat → Bool) : (s.corrected kind touched).flashFailed = s.flashFailed := by
  unfold State.corrected; dsimp only; split <;> rfl
@[simp] theorem State.corrected_image (s : State) (kind : Nat) (touched : Nat → Bool) : (s.corrected kind touched).image = s.image := by
  unfold State.corrected; dsimp only; split <;> rfl
@[simp] theorem State.corrected_faultLog (s : State) (kind : Nat) (touched : Nat → Bool) : (s.corrected kind touched).faultLog = s.faultLog := by
  unfold State.corrected; dsimp only; split <;> rfl
@[simp] theorem State.corrected_logEvents (s : State) (kind : Nat) (touched : Nat → Bool) : (s.corrected kind touched).logEvents = s.logEvents := by
  unfold State.corrected; dsimp only; split <;> rfl

@[simp] theorem State.writeHbm_now (s : State) (pa : Nat) (bs : List Byte) : (s.writeHbm pa bs).now = s.now := rfl
@[simp] theorem State.writeHbm_agenda (s : State) (pa : Nat) (bs : List Byte) : (s.writeHbm pa bs).agenda = s.agenda := rfl
@[simp] theorem State.writeHbm_arg (s : State) (pa : Nat) (bs : List Byte) : (s.writeHbm pa bs).arg = s.arg := rfl
@[simp] theorem State.writeHbm_cur (s : State) (pa : Nat) (bs : List Byte) : (s.writeHbm pa bs).cur = s.cur := rfl
@[simp] theorem State.writeHbm_seq (s : State) (pa : Nat) (bs : List Byte) : (s.writeHbm pa bs).seq = s.seq := rfl
@[simp] theorem State.writeHbm_hostMem (s : State) (pa : Nat) (bs : List Byte) : (s.writeHbm pa bs).hostMem = s.hostMem := rfl
@[simp] theorem State.writeHbm_scratch (s : State) (pa : Nat) (bs : List Byte) : (s.writeHbm pa bs).scratch = s.scratch := rfl
@[simp] theorem State.writeHbm_tiles (s : State) (pa : Nat) (bs : List Byte) : (s.writeHbm pa bs).tiles = s.tiles := rfl
@[simp] theorem State.writeHbm_cores (s : State) (pa : Nat) (bs : List Byte) : (s.writeHbm pa bs).cores = s.cores := rfl
@[simp] theorem State.writeHbm_heats (s : State) (pa : Nat) (bs : List Byte) : (s.writeHbm pa bs).heats = s.heats := rfl
@[simp] theorem State.writeHbm_gops (s : State) (pa : Nat) (bs : List Byte) : (s.writeHbm pa bs).gops = s.gops := rfl
@[simp] theorem State.writeHbm_cmds (s : State) (pa : Nat) (bs : List Byte) : (s.writeHbm pa bs).cmds = s.cmds := rfl
@[simp] theorem State.writeHbm_barPend (s : State) (pa : Nat) (bs : List Byte) : (s.writeHbm pa bs).barPend = s.barPend := rfl
@[simp] theorem State.writeHbm_detects (s : State) (pa : Nat) (bs : List Byte) : (s.writeHbm pa bs).detects = s.detects := rfl
@[simp] theorem State.writeHbm_ports (s : State) (pa : Nat) (bs : List Byte) : (s.writeHbm pa bs).ports = s.ports := rfl
@[simp] theorem State.writeHbm_queues (s : State) (pa : Nat) (bs : List Byte) : (s.writeHbm pa bs).queues = s.queues := rfl
@[simp] theorem State.writeHbm_rings (s : State) (pa : Nat) (bs : List Byte) : (s.writeHbm pa bs).rings = s.rings := rfl
@[simp] theorem State.writeHbm_ready (s : State) (pa : Nat) (bs : List Byte) : (s.writeHbm pa bs).ready = s.ready := rfl
@[simp] theorem State.writeHbm_counters (s : State) (pa : Nat) (bs : List Byte) : (s.writeHbm pa bs).counters = s.counters := rfl
@[simp] theorem State.writeHbm_pkgNo (s : State) (pa : Nat) (bs : List Byte) : (s.writeHbm pa bs).pkgNo = s.pkgNo := rfl
@[simp] theorem State.writeHbm_nextHid (s : State) (pa : Nat) (bs : List Byte) : (s.writeHbm pa bs).nextHid = s.nextHid := rfl
@[simp] theorem State.writeHbm_copied (s : State) (pa : Nat) (bs : List Byte) : (s.writeHbm pa bs).copied = s.copied := rfl
@[simp] theorem State.writeHbm_gone (s : State) (pa : Nat) (bs : List Byte) : (s.writeHbm pa bs).gone = s.gone := rfl
@[simp] theorem State.writeHbm_spent (s : State) (pa : Nat) (bs : List Byte) : (s.writeHbm pa bs).spent = s.spent := rfl
@[simp] theorem State.writeHbm_regatta (s : State) (pa : Nat) (bs : List Byte) : (s.writeHbm pa bs).regatta = s.regatta := rfl
@[simp] theorem State.writeHbm_links (s : State) (pa : Nat) (bs : List Byte) : (s.writeHbm pa bs).links = s.links := rfl
@[simp] theorem State.writeHbm_mailbox (s : State) (pa : Nat) (bs : List Byte) : (s.writeHbm pa bs).mailbox = s.mailbox := rfl
@[simp] theorem State.writeHbm_ptp (s : State) (pa : Nat) (bs : List Byte) : (s.writeHbm pa bs).ptp = s.ptp := rfl
@[simp] theorem State.writeHbm_ptpLock (s : State) (pa : Nat) (bs : List Byte) : (s.writeHbm pa bs).ptpLock = s.ptpLock := rfl
@[simp] theorem State.writeHbm_hostReads (s : State) (pa : Nat) (bs : List Byte) : (s.writeHbm pa bs).hostReads = s.hostReads := rfl
@[simp] theorem State.writeHbm_budget (s : State) (pa : Nat) (bs : List Byte) : (s.writeHbm pa bs).budget = s.budget := rfl
@[simp] theorem State.writeHbm_power (s : State) (pa : Nat) (bs : List Byte) : (s.writeHbm pa bs).power = s.power := rfl
@[simp] theorem State.writeHbm_tokens (s : State) (pa : Nat) (bs : List Byte) : (s.writeHbm pa bs).tokens = s.tokens := rfl
@[simp] theorem State.writeHbm_limits (s : State) (pa : Nat) (bs : List Byte) : (s.writeHbm pa bs).limits = s.limits := rfl
@[simp] theorem State.writeHbm_leafIndex (s : State) (pa : Nat) (bs : List Byte) : (s.writeHbm pa bs).leafIndex = s.leafIndex := rfl
@[simp] theorem State.writeHbm_flashFailed (s : State) (pa : Nat) (bs : List Byte) : (s.writeHbm pa bs).flashFailed = s.flashFailed := rfl
@[simp] theorem State.writeHbm_image (s : State) (pa : Nat) (bs : List Byte) : (s.writeHbm pa bs).image = s.image := rfl
@[simp] theorem State.writeHbm_faultLog (s : State) (pa : Nat) (bs : List Byte) : (s.writeHbm pa bs).faultLog = s.faultLog := rfl
@[simp] theorem State.writeHbm_logEvents (s : State) (pa : Nat) (bs : List Byte) : (s.writeHbm pa bs).logEvents = s.logEvents := rfl
@[simp] theorem State.writeHbm_env (s : State) (pa : Nat) (bs : List Byte) : (s.writeHbm pa bs).env = s.env := rfl

@[simp] theorem State.writeScratch_now (s : State) (core o : Nat) (bs : List Byte) : (s.writeScratch core o bs).now = s.now := rfl
@[simp] theorem State.writeScratch_agenda (s : State) (core o : Nat) (bs : List Byte) : (s.writeScratch core o bs).agenda = s.agenda := rfl
@[simp] theorem State.writeScratch_arg (s : State) (core o : Nat) (bs : List Byte) : (s.writeScratch core o bs).arg = s.arg := rfl
@[simp] theorem State.writeScratch_cur (s : State) (core o : Nat) (bs : List Byte) : (s.writeScratch core o bs).cur = s.cur := rfl
@[simp] theorem State.writeScratch_seq (s : State) (core o : Nat) (bs : List Byte) : (s.writeScratch core o bs).seq = s.seq := rfl
@[simp] theorem State.writeScratch_hbm (s : State) (core o : Nat) (bs : List Byte) : (s.writeScratch core o bs).hbm = s.hbm := rfl
@[simp] theorem State.writeScratch_hostMem (s : State) (core o : Nat) (bs : List Byte) : (s.writeScratch core o bs).hostMem = s.hostMem := rfl
@[simp] theorem State.writeScratch_tiles (s : State) (core o : Nat) (bs : List Byte) : (s.writeScratch core o bs).tiles = s.tiles := rfl
@[simp] theorem State.writeScratch_hbmLog (s : State) (core o : Nat) (bs : List Byte) : (s.writeScratch core o bs).hbmLog = s.hbmLog := rfl
@[simp] theorem State.writeScratch_cores (s : State) (core o : Nat) (bs : List Byte) : (s.writeScratch core o bs).cores = s.cores := rfl
@[simp] theorem State.writeScratch_heats (s : State) (core o : Nat) (bs : List Byte) : (s.writeScratch core o bs).heats = s.heats := rfl
@[simp] theorem State.writeScratch_gops (s : State) (core o : Nat) (bs : List Byte) : (s.writeScratch core o bs).gops = s.gops := rfl
@[simp] theorem State.writeScratch_cmds (s : State) (core o : Nat) (bs : List Byte) : (s.writeScratch core o bs).cmds = s.cmds := rfl
@[simp] theorem State.writeScratch_barPend (s : State) (core o : Nat) (bs : List Byte) : (s.writeScratch core o bs).barPend = s.barPend := rfl
@[simp] theorem State.writeScratch_detects (s : State) (core o : Nat) (bs : List Byte) : (s.writeScratch core o bs).detects = s.detects := rfl
@[simp] theorem State.writeScratch_ports (s : State) (core o : Nat) (bs : List Byte) : (s.writeScratch core o bs).ports = s.ports := rfl
@[simp] theorem State.writeScratch_queues (s : State) (core o : Nat) (bs : List Byte) : (s.writeScratch core o bs).queues = s.queues := rfl
@[simp] theorem State.writeScratch_rings (s : State) (core o : Nat) (bs : List Byte) : (s.writeScratch core o bs).rings = s.rings := rfl
@[simp] theorem State.writeScratch_ready (s : State) (core o : Nat) (bs : List Byte) : (s.writeScratch core o bs).ready = s.ready := rfl
@[simp] theorem State.writeScratch_counters (s : State) (core o : Nat) (bs : List Byte) : (s.writeScratch core o bs).counters = s.counters := rfl
@[simp] theorem State.writeScratch_pkgNo (s : State) (core o : Nat) (bs : List Byte) : (s.writeScratch core o bs).pkgNo = s.pkgNo := rfl
@[simp] theorem State.writeScratch_nextHid (s : State) (core o : Nat) (bs : List Byte) : (s.writeScratch core o bs).nextHid = s.nextHid := rfl
@[simp] theorem State.writeScratch_copied (s : State) (core o : Nat) (bs : List Byte) : (s.writeScratch core o bs).copied = s.copied := rfl
@[simp] theorem State.writeScratch_gone (s : State) (core o : Nat) (bs : List Byte) : (s.writeScratch core o bs).gone = s.gone := rfl
@[simp] theorem State.writeScratch_spent (s : State) (core o : Nat) (bs : List Byte) : (s.writeScratch core o bs).spent = s.spent := rfl
@[simp] theorem State.writeScratch_regatta (s : State) (core o : Nat) (bs : List Byte) : (s.writeScratch core o bs).regatta = s.regatta := rfl
@[simp] theorem State.writeScratch_links (s : State) (core o : Nat) (bs : List Byte) : (s.writeScratch core o bs).links = s.links := rfl
@[simp] theorem State.writeScratch_mailbox (s : State) (core o : Nat) (bs : List Byte) : (s.writeScratch core o bs).mailbox = s.mailbox := rfl
@[simp] theorem State.writeScratch_ptp (s : State) (core o : Nat) (bs : List Byte) : (s.writeScratch core o bs).ptp = s.ptp := rfl
@[simp] theorem State.writeScratch_ptpLock (s : State) (core o : Nat) (bs : List Byte) : (s.writeScratch core o bs).ptpLock = s.ptpLock := rfl
@[simp] theorem State.writeScratch_hostReads (s : State) (core o : Nat) (bs : List Byte) : (s.writeScratch core o bs).hostReads = s.hostReads := rfl
@[simp] theorem State.writeScratch_budget (s : State) (core o : Nat) (bs : List Byte) : (s.writeScratch core o bs).budget = s.budget := rfl
@[simp] theorem State.writeScratch_power (s : State) (core o : Nat) (bs : List Byte) : (s.writeScratch core o bs).power = s.power := rfl
@[simp] theorem State.writeScratch_tokens (s : State) (core o : Nat) (bs : List Byte) : (s.writeScratch core o bs).tokens = s.tokens := rfl
@[simp] theorem State.writeScratch_limits (s : State) (core o : Nat) (bs : List Byte) : (s.writeScratch core o bs).limits = s.limits := rfl
@[simp] theorem State.writeScratch_leafIndex (s : State) (core o : Nat) (bs : List Byte) : (s.writeScratch core o bs).leafIndex = s.leafIndex := rfl
@[simp] theorem State.writeScratch_flashFailed (s : State) (core o : Nat) (bs : List Byte) : (s.writeScratch core o bs).flashFailed = s.flashFailed := rfl
@[simp] theorem State.writeScratch_image (s : State) (core o : Nat) (bs : List Byte) : (s.writeScratch core o bs).image = s.image := rfl
@[simp] theorem State.writeScratch_faultLog (s : State) (core o : Nat) (bs : List Byte) : (s.writeScratch core o bs).faultLog = s.faultLog := rfl
@[simp] theorem State.writeScratch_logEvents (s : State) (core o : Nat) (bs : List Byte) : (s.writeScratch core o bs).logEvents = s.logEvents := rfl
@[simp] theorem State.writeScratch_env (s : State) (core o : Nat) (bs : List Byte) : (s.writeScratch core o bs).env = s.env := rfl

@[simp] theorem State.writeHost_now (s : State) (a : Nat) (bs : List Byte) : (s.writeHost a bs).now = s.now := rfl
@[simp] theorem State.writeHost_agenda (s : State) (a : Nat) (bs : List Byte) : (s.writeHost a bs).agenda = s.agenda := rfl
@[simp] theorem State.writeHost_arg (s : State) (a : Nat) (bs : List Byte) : (s.writeHost a bs).arg = s.arg := rfl
@[simp] theorem State.writeHost_cur (s : State) (a : Nat) (bs : List Byte) : (s.writeHost a bs).cur = s.cur := rfl
@[simp] theorem State.writeHost_seq (s : State) (a : Nat) (bs : List Byte) : (s.writeHost a bs).seq = s.seq := rfl
@[simp] theorem State.writeHost_hbm (s : State) (a : Nat) (bs : List Byte) : (s.writeHost a bs).hbm = s.hbm := rfl
@[simp] theorem State.writeHost_scratch (s : State) (a : Nat) (bs : List Byte) : (s.writeHost a bs).scratch = s.scratch := rfl
@[simp] theorem State.writeHost_tiles (s : State) (a : Nat) (bs : List Byte) : (s.writeHost a bs).tiles = s.tiles := rfl
@[simp] theorem State.writeHost_hbmLog (s : State) (a : Nat) (bs : List Byte) : (s.writeHost a bs).hbmLog = s.hbmLog := rfl
@[simp] theorem State.writeHost_cores (s : State) (a : Nat) (bs : List Byte) : (s.writeHost a bs).cores = s.cores := rfl
@[simp] theorem State.writeHost_heats (s : State) (a : Nat) (bs : List Byte) : (s.writeHost a bs).heats = s.heats := rfl
@[simp] theorem State.writeHost_gops (s : State) (a : Nat) (bs : List Byte) : (s.writeHost a bs).gops = s.gops := rfl
@[simp] theorem State.writeHost_cmds (s : State) (a : Nat) (bs : List Byte) : (s.writeHost a bs).cmds = s.cmds := rfl
@[simp] theorem State.writeHost_barPend (s : State) (a : Nat) (bs : List Byte) : (s.writeHost a bs).barPend = s.barPend := rfl
@[simp] theorem State.writeHost_detects (s : State) (a : Nat) (bs : List Byte) : (s.writeHost a bs).detects = s.detects := rfl
@[simp] theorem State.writeHost_ports (s : State) (a : Nat) (bs : List Byte) : (s.writeHost a bs).ports = s.ports := rfl
@[simp] theorem State.writeHost_queues (s : State) (a : Nat) (bs : List Byte) : (s.writeHost a bs).queues = s.queues := rfl
@[simp] theorem State.writeHost_rings (s : State) (a : Nat) (bs : List Byte) : (s.writeHost a bs).rings = s.rings := rfl
@[simp] theorem State.writeHost_ready (s : State) (a : Nat) (bs : List Byte) : (s.writeHost a bs).ready = s.ready := rfl
@[simp] theorem State.writeHost_counters (s : State) (a : Nat) (bs : List Byte) : (s.writeHost a bs).counters = s.counters := rfl
@[simp] theorem State.writeHost_pkgNo (s : State) (a : Nat) (bs : List Byte) : (s.writeHost a bs).pkgNo = s.pkgNo := rfl
@[simp] theorem State.writeHost_nextHid (s : State) (a : Nat) (bs : List Byte) : (s.writeHost a bs).nextHid = s.nextHid := rfl
@[simp] theorem State.writeHost_copied (s : State) (a : Nat) (bs : List Byte) : (s.writeHost a bs).copied = s.copied := rfl
@[simp] theorem State.writeHost_gone (s : State) (a : Nat) (bs : List Byte) : (s.writeHost a bs).gone = s.gone := rfl
@[simp] theorem State.writeHost_spent (s : State) (a : Nat) (bs : List Byte) : (s.writeHost a bs).spent = s.spent := rfl
@[simp] theorem State.writeHost_regatta (s : State) (a : Nat) (bs : List Byte) : (s.writeHost a bs).regatta = s.regatta := rfl
@[simp] theorem State.writeHost_links (s : State) (a : Nat) (bs : List Byte) : (s.writeHost a bs).links = s.links := rfl
@[simp] theorem State.writeHost_mailbox (s : State) (a : Nat) (bs : List Byte) : (s.writeHost a bs).mailbox = s.mailbox := rfl
@[simp] theorem State.writeHost_ptp (s : State) (a : Nat) (bs : List Byte) : (s.writeHost a bs).ptp = s.ptp := rfl
@[simp] theorem State.writeHost_ptpLock (s : State) (a : Nat) (bs : List Byte) : (s.writeHost a bs).ptpLock = s.ptpLock := rfl
@[simp] theorem State.writeHost_hostReads (s : State) (a : Nat) (bs : List Byte) : (s.writeHost a bs).hostReads = s.hostReads := rfl
@[simp] theorem State.writeHost_budget (s : State) (a : Nat) (bs : List Byte) : (s.writeHost a bs).budget = s.budget := rfl
@[simp] theorem State.writeHost_power (s : State) (a : Nat) (bs : List Byte) : (s.writeHost a bs).power = s.power := rfl
@[simp] theorem State.writeHost_tokens (s : State) (a : Nat) (bs : List Byte) : (s.writeHost a bs).tokens = s.tokens := rfl
@[simp] theorem State.writeHost_limits (s : State) (a : Nat) (bs : List Byte) : (s.writeHost a bs).limits = s.limits := rfl
@[simp] theorem State.writeHost_leafIndex (s : State) (a : Nat) (bs : List Byte) : (s.writeHost a bs).leafIndex = s.leafIndex := rfl
@[simp] theorem State.writeHost_flashFailed (s : State) (a : Nat) (bs : List Byte) : (s.writeHost a bs).flashFailed = s.flashFailed := rfl
@[simp] theorem State.writeHost_image (s : State) (a : Nat) (bs : List Byte) : (s.writeHost a bs).image = s.image := rfl
@[simp] theorem State.writeHost_faultLog (s : State) (a : Nat) (bs : List Byte) : (s.writeHost a bs).faultLog = s.faultLog := rfl
@[simp] theorem State.writeHost_logEvents (s : State) (a : Nat) (bs : List Byte) : (s.writeHost a bs).logEvents = s.logEvents := rfl
@[simp] theorem State.writeHost_env (s : State) (a : Nat) (bs : List Byte) : (s.writeHost a bs).env = s.env := rfl

@[simp] theorem State.detect_detects (s : State) (d : Detect) : (s.detect d).detects = s.detects ++ [d] := rfl
@[simp] theorem State.modHeat_heats (s : State) (hid : Nat) (f : Heat → Heat) :
    (s.modHeat hid f).heats = s.heats.map fun h => if h.hid = hid then f h else h := rfl
@[simp] theorem State.modGop_gops (s : State) (id : Nat) (f : GlobalOp → GlobalOp) :
    (s.modGop id f).gops = s.gops.map fun o => if o.id = id then f o else o := rfl
@[simp] theorem State.modCmd_cmds (s : State) (id : Nat) (f : EngCmd → EngCmd) :
    (s.modCmd id f).cmds = s.cmds.map fun c => if c.id = id then f c else c := rfl
@[simp] theorem State.writeScratch_scratch (s : State) (core o : Nat) (bs : List Byte) :
    (s.writeScratch core o bs).scratch = Store.putRun 0 s.scratch (scratchKey core o) bs := rfl
@[simp] theorem State.writeHbm_hbm (s : State) (pa : Nat) (bs : List Byte) :
    (s.writeHbm pa bs).hbm = Store.putRun 0 s.hbm pa bs := rfl
@[simp] theorem State.writeHost_hostMem (s : State) (a : Nat) (bs : List Byte) :
    (s.writeHost a bs).hostMem = Store.putRun 0 s.hostMem a bs := rfl

/-! ## The agenda -/

theorem mem_insertDue (d x : Due) (l : List Due) : x ∈ insertDue d l ↔ x = d ∨ x ∈ l := by
  induction l with
  | nil => simp [insertDue]
  | cons e r ih =>
    unfold insertDue
    split
    · simp
    · simp only [List.mem_cons, ih]
      tauto

theorem State.mem_pushSub (s : State) (cycle rank sub : Nat) (ev : Ev) (x : Due) :
    x ∈ (s.pushSub cycle rank sub ev).agenda ↔
      x = { at_ := cycle, rank := dueRank rank sub, seq := s.seq, ev := ev } ∨ x ∈ s.agenda :=
  mem_insertDue ..

/-! ## Heats, teams and gangs after a change -/

theorem State.heat?_modHeat (s : State) (hid x : Nat) (f : Heat → Heat) (hf : ∀ h, (f h).hid = h.hid) :
    (s.modHeat hid f).heat? x = (s.heat? x).map fun h => if h.hid = hid then f h else h := by
  unfold State.heat? State.modHeat
  simp only [List.find?_map]
  congr 1
  refine congrArg (List.find? · _) (funext fun h => ?_)
  simp only [Function.comp]
  split <;> simp [hf]

theorem modifyNth_length {α : Type} (l : List α) (i : Nat) (f : α → α) : (modifyNth l i f).length = l.length := by
  induction l generalizing i with
  | nil => rfl
  | cons x r ih => cases i <;> simp [modifyNth, ih]

theorem getElem?_modifyNth {α : Type} (l : List α) (i j : Nat) (f : α → α) :
    (modifyNth l i f)[j]? = if j = i then l[j]?.map f else l[j]? := by
  induction l generalizing i j with
  | nil => simp [modifyNth]
  | cons x r ih =>
    cases i <;> cases j <;> simp [modifyNth, ih]

theorem State.heat?_hid {s : State} {x : Nat} {h : Heat} (hx : s.heat? x = some h) : h.hid = x := by
  simpa using List.find?_some hx

theorem State.team?_modTeam (s : State) (r x : TeamRef) (f : Team → Team) :
    (s.modTeam r f).team? x = if x = r then (s.team? x).map f else s.team? x := by
  unfold State.team? State.modTeam
  rw [State.heat?_modHeat s r.hid x.hid (fun h => h.modTeam r.team f) fun _ => rfl]
  cases e : s.heat? x.hid with
  | none => simp
  | some h =>
    have hh := State.heat?_hid e
    cases r with | mk rh rt =>
    cases x with | mk xh xt =>
    simp only [Option.map_some, Option.bind_some] at *
    subst hh
    split
    · rename_i h1
      simp only [Heat.modTeam, getElem?_modifyNth, TeamRef.mk.injEq, h1, true_and]
    · rename_i h1
      simp [TeamRef.mk.injEq, h1]

theorem State.gang?_modGang (s : State) (r x : GangRef) (f : Gang → Gang) :
    (s.modGang r f).gang? x = if x = r then (s.gang? x).map f else s.gang? x := by
  unfold State.gang? State.modGang
  rw [State.team?_modTeam]
  cases r with | mk rh rt rg =>
  cases x with | mk xh xt xg =>
  simp only [TeamRef.mk.injEq, GangRef.mk.injEq]
  by_cases h1 : xh = rh ∧ xt = rt
  · obtain ⟨rfl, rfl⟩ := h1
    cases State.team? s ⟨xh, xt⟩ <;> simp [getElem?_modifyNth]
  · have h2 : ¬(xh = rh ∧ xt = rt ∧ xg = rg) := fun h => h1 ⟨h.1, h.2.1⟩
    simp [h1, h2]

theorem State.gang?_modCox (s : State) (r : TeamRef) (x : GangRef) (f : Cox → Cox) :
    (s.modCox r f).gang? x = s.gang? x := by
  unfold State.gang? State.modCox
  rw [State.team?_modTeam]
  split
  · cases State.team? s ⟨x.hid, x.team⟩ <;> rfl
  · rfl

/-! ## What an issuing stream sees -/

/-- The gang, team and heat of a lane instruction's context are those of the state. -/
theorem laneCtx_gang {s : State} {c : LCtx} (h : laneCtx s = some c) : s.gang? c.ref = some c.gang := by
  unfold laneCtx at h
  repeat' split at h
  all_goals simp_all [State.gang?, State.team?]
  all_goals (obtain rfl := h; simp_all)

theorem uniCtx_team {s : State} {c : UCtx} (h : uniCtx s = some c) :
    s.team? c.ref = some c.team ∧ c.team.cox = c.cox ∧ s.heat? c.ref.hid = some c.heat := by
  unfold uniCtx at h
  repeat' split at h
  all_goals simp_all [State.team?]
  all_goals (obtain rfl := h; simp_all)

/-- A lane instruction is checked once: with no breach, it goes on. -/
theorem checkLane_clear (i : Instr) (w : LaneWord) (s : State)
    (extra : LCtx → List (Nat × Option (BitVec 32) × Nat × Nat)) (go : LCtx → State) (c : LCtx)
    (hc : laneCtx s = some c) (h : c.causes s i w (extra c) = []) : checkLane i w s extra go = .next (go c) := by
  simp [checkLane, hc, h, lowest]

theorem issueLane_clear (i : Instr) (w : LaneWord) (s : State) (L : LCtx → Nat)
    (extra : LCtx → List (Nat × Option (BitVec 32) × Nat × Nat)) (act : LCtx → State → State) (c : LCtx)
    (hc : laneCtx s = some c) (h : c.causes s i w (extra c) = []) :
    issueLane i w s L extra act = .next (act c (c.commit s i w (L c))) :=
  checkLane_clear i w s extra _ c hc h

theorem laneCompute_clear (i : Instr) (w : LaneWord) (s : State) (L : Nat) (f : LCtx → Nat → Word) (c : LCtx)
    (hc : laneCtx s = some c) (h : c.causes s i w [] = []) :
    laneCompute i w s L f = .next ((c.commit s i w L).push ((c.commit s i w L).now + L) 10
      (.laneResult c.ref (c.landing w i ((lanesOf c.active).map fun l => (l, f c l))))) :=
  issueLane_clear i w s _ _ _ c hc h

/-- With a breach, it takes the issue fault of the lowest cause. -/
theorem checkLane_breach (i : Instr) (w : LaneWord) (s : State)
    (extra : LCtx → List (Nat × Option (BitVec 32) × Nat × Nat)) (go : LCtx → State) (c : LCtx) (cause : Nat)
    (hc : laneCtx s = some c) (h : lowest (c.causes s i w (extra c)) = some cause) :
    ∃ lanes addr info, checkLane i w s extra go = .next (c.issueFault s cause lanes addr info) := by
  simp only [checkLane, hc, h]
  split <;> exact ⟨_, _, _, rfl⟩

end Sys2Proof.Machine
end

