-- ==== Sys2Proof/Laws/Counts.lean ====
section
/-! SUPPORT. The operations that leave the instruction count of every stream as it was. -/
namespace Sys2Proof.Machine

/-- The count of a gang. -/
def Gang.tally (g : Gang) : BitVec 64 := g.dix
/-- The count of a team's cox and those of its gangs. -/
def Team.tally (t : Team) : BitVec 64 × List (BitVec 64) := (t.cox.count, t.gangs.map Gang.tally)
/-- The counts of a heat's streams. -/
def Heat.tally (h : Heat) : Nat × List (BitVec 64 × List (BitVec 64)) := (h.hid, h.teams.map Team.tally)
/-- The counts of every stream. -/
def State.tallies (s : State) : List (Nat × List (BitVec 64 × List (BitVec 64))) := s.heats.map Heat.tally

theorem State.tallies_eq (s : State) : s.tallies = s.heats.map Heat.tally := rfl

@[simp] theorem Gang.tally_mk (g_v g_m g_x g_win g_latch g_flags g_flagMin g_dix g_vdirty g_mxdirty g_groups g_turn g_lastSlot g_spans g_retired g_ord) :
    Gang.tally ⟨g_v, g_m, g_x, g_win, g_latch, g_flags, g_flagMin, g_dix, g_vdirty, g_mxdirty, g_groups, g_turn, g_lastSlot, g_spans, g_retired, g_ord⟩ = g_dix := rfl
@[simp] theorem Gang.tally_fold (g : Gang) : g.dix = g.tally := rfl
@[simp] theorem Team.tally_mk (t_core t_tsel t_lanes t_sigma t_restart t_sbase t_scnt t_abase t_acnt t_gentry t_centry t_wins t_k t_kOld t_kOldAt t_p t_g t_t t_nest t_sseeds t_atomSeq t_kdirty t_gdirty t_tdirty t_sdirty t_adirty t_aint t_shift t_cox t_gangs) :
    Team.tally ⟨t_core, t_tsel, t_lanes, t_sigma, t_restart, t_sbase, t_scnt, t_abase, t_acnt, t_gentry, t_centry, t_wins, t_k, t_kOld, t_kOldAt, t_p, t_g, t_t, t_nest, t_sseeds, t_atomSeq, t_kdirty, t_gdirty, t_tdirty, t_sdirty, t_adirty, t_aint, t_shift, t_cox, t_gangs⟩ =
      (t_cox.count, t_gangs.map Gang.tally) := rfl
@[simp] theorem Team.tally_fold (t : Team) :
    (t.cox.count, t.gangs.map Gang.tally) = t.tally := rfl
@[simp] theorem Heat.tally_mk (h_hid h_heatid h_queue h_origin h_record h_status h_anchor h_admitted h_chargeFrom h_charge h_prov h_args h_clusters h_teams h_cursors h_stoppedFlows h_sessions h_csyncs h_fault h_faultAt h_nsec h_trap h_halt h_dieHalt h_trigger h_relayed h_stops h_hot h_resumeStop h_checkpoints h_image h_imageLen h_saveCost h_discards h_eseqs h_away h_abortCause h_parked h_engFree h_engDone h_rxBase h_barsAway h_landAway h_msgAway h_lateAcks) :
    Heat.tally ⟨h_hid, h_heatid, h_queue, h_origin, h_record, h_status, h_anchor, h_admitted, h_chargeFrom, h_charge, h_prov, h_args, h_clusters, h_teams, h_cursors, h_stoppedFlows, h_sessions, h_csyncs, h_fault, h_faultAt, h_nsec, h_trap, h_halt, h_dieHalt, h_trigger, h_relayed, h_stops, h_hot, h_resumeStop, h_checkpoints, h_image, h_imageLen, h_saveCost, h_discards, h_eseqs, h_away, h_abortCause, h_parked, h_engFree, h_engDone, h_rxBase, h_barsAway, h_landAway, h_msgAway, h_lateAcks⟩ = (h_hid, h_teams.map Team.tally) := rfl
@[simp] theorem Heat.tally_fold (h : Heat) : (h.hid, h.teams.map Team.tally) = h.tally := rfl

@[simp] theorem tallies_mk (now agenda arg cur seq freeCtr hbm hostMem scratch tiles copied hbmLog stackFrames atomWindows cores heats nextHid nextHeatid gops cmds nextOp barPend detects ports flows unacked inflow reorder seen routes gone spent regatta queues pointer preempt0 preempt1 rings coalesce msix ready budget budgetSet temp winbase counters mailbox faultLog logEvents links fatal clockOff leafIndex image flashFailed hostReads power layoutGen pkgNo trim trimAt ptpLock ptp tokens limits pins env) :
    State.tallies ⟨now, agenda, arg, cur, seq, freeCtr, hbm, hostMem, scratch, tiles, copied, hbmLog, stackFrames, atomWindows, cores, heats, nextHid, nextHeatid, gops, cmds, nextOp, barPend, detects, ports, flows, unacked, inflow, reorder, seen, routes, gone, spent, regatta, queues, pointer, preempt0, preempt1, rings, coalesce, msix, ready, budget, budgetSet, temp, winbase, counters, mailbox, faultLog, logEvents, links, fatal, clockOff, leafIndex, image, flashFailed, hostReads, power, layoutGen, pkgNo, trim, trimAt, ptpLock, ptp, tokens, limits, pins, env⟩ = heats.map Heat.tally := rfl
@[simp] theorem tallies_fold (s : State) : s.heats.map Heat.tally = s.tallies := rfl

@[simp] theorem ite_tallies (c : Prop) [Decidable c] (a b : State) :
    (if c then a else b).tallies = if c then a.tallies else b.tallies := by
  split <;> rfl

@[simp] theorem foldl_tallies {α : Type} (f : State → α → State) (h : ∀ s x, (f s x).tallies = s.tallies) (l : List α)
    (s : State) : (l.foldl f s).tallies = s.tallies := by
  induction l generalizing s with
  | nil => rfl
  | cons x r ih => rw [List.foldl_cons, ih, h]

@[simp] theorem State.modHeat_tallies (s : State) (hid : Nat) (f : Heat → Heat) (h : ∀ x, (f x).tally = x.tally) :
    (State.modHeat s hid f).tallies = s.tallies := by
  simp only [State.tallies_eq, State.modHeat, List.map_map]
  refine List.map_congr_left fun x _ => ?_
  simp only [Function.comp]
  split
  · exact h x
  · rfl

@[simp] theorem Heat.modTeam_tally (h : Heat) (i : Nat) (f : Team → Team) (hf : ∀ x, (f x).tally = x.tally) :
    (Heat.modTeam h i f).tally = h.tally := by
  simp only [Heat.tally, Heat.modTeam, map_modifyNth Team.tally f hf]

@[simp] theorem State.modTeam_tallies (s : State) (r : TeamRef) (f : Team → Team) (h : ∀ x, (f x).tally = x.tally) :
    (State.modTeam s r f).tallies = s.tallies :=
  State.modHeat_tallies _ _ _ fun x => Heat.modTeam_tally x _ _ h

@[simp] theorem State.modCox_tallies (s : State) (r : TeamRef) (f : Cox → Cox) (h : ∀ x, (f x).count = x.count) :
    (State.modCox s r f).tallies = s.tallies :=
  State.modTeam_tallies _ _ _ fun x => by simp only [Team.tally, h]

@[simp] theorem State.modGang_tallies (s : State) (r : GangRef) (f : Gang → Gang) (h : ∀ x, (f x).tally = x.tally) :
    (State.modGang s r f).tallies = s.tallies :=
  State.modTeam_tallies _ _ _ fun x => by simp only [Team.tally, map_modifyNth Gang.tally f h]


@[simp] theorem State.modCore_tallies (s : State) (c : Nat) (f : Core → Core) : (State.modCore s c f).tallies = s.tallies := by
  unfold State.modCore; rfl

@[simp] theorem State.modPort_tallies (s : State) (p : Nat) (f : Port → Port) : (State.modPort s p f).tallies = s.tallies := by
  unfold State.modPort; rfl

@[simp] theorem State.modQueue_tallies (s : State) (q : Nat) (f : Queue → Queue) : (State.modQueue s q f).tallies = s.tallies := by
  unfold State.modQueue; rfl

@[simp] theorem State.pushSub_tallies (s : State) (cycle rank sub : Nat) (ev : Ev) : (State.pushSub s cycle rank sub ev).tallies = s.tallies := by
  unfold State.pushSub; rfl

@[simp] theorem State.push_tallies (s : State) (cycle rank : Nat) (ev : Ev) : (State.push s cycle rank ev).tallies = s.tallies := by
  unfold State.push; rfl

@[simp] theorem State.cancel_tallies (s : State) (p : Ev → Bool) : (State.cancel s p).tallies = s.tallies := by
  unfold State.cancel; rfl

@[simp] theorem State.choose_tallies (s : State) (lo hi : Nat) : (State.choose s lo hi).2.tallies = s.tallies := by
  unfold State.choose; (try dsimp only); (repeat' split) <;> rfl

@[simp] theorem State.freeWords_tallies (s : State) (n : Nat) : (State.freeWords s n).2.tallies = s.tallies := by
  unfold State.freeWords; rfl

@[simp] theorem State.tick_tallies (s : State) (source field n : Nat) : (State.tick s source field n).tallies = s.tallies := by
  unfold State.tick; rfl

@[simp] theorem State.afterCounter_tallies (s : State) (hid : Nat) : (State.afterCounter s hid).tallies = s.tallies := by
  unfold State.afterCounter; (try dsimp only); (repeat' split) <;> rfl

@[simp] theorem State.detect_tallies (s : State) (d : Detect) : (State.detect s d).tallies = s.tallies := by
  unfold State.detect; rfl

@[simp] theorem State.corrected_tallies (s : State) (kind : Nat) (touched : Nat → Bool) :
    (State.corrected s kind touched).tallies = s.tallies := by
  unfold State.corrected; dsimp only; split <;> rfl

@[simp] theorem State.stopGroups_tallies (s : State) (g : GangRef) (quads : BitVec 8) : (State.stopGroups s g quads).tallies = s.tallies := by
  unfold State.stopGroups
  split
  · exact State.modGang_tallies _ _ _ fun _ => rfl
  · rfl

@[simp] theorem State.stopGang_tallies (s : State) (g : GangRef) : (State.stopGang s g).tallies = s.tallies := State.stopGroups_tallies ..

@[simp] theorem State.stopCox_tallies (s : State) (r : TeamRef) : (State.stopCox s r).tallies = s.tallies := by
  unfold State.stopCox
  split <;> simp

@[simp] theorem State.stopNamed_tallies (s : State) (d : Detect) : (State.stopNamed s d).tallies = s.tallies := by
  unfold State.stopNamed
  (repeat' split) <;> simp

@[simp] theorem State.barChange_tallies (s : State) (core : Nat) (handle : Word) (declare credit arrivals : Nat) (engine : Bool) (agent : Detect) :
    (State.barChange s core handle declare credit arrivals engine agent).tallies = s.tallies := by
  unfold State.barChange; dsimp only; split <;> simp

@[simp] theorem LCtx.stop_tallies (c : LCtx) (s : State) : (LCtx.stop c s).tallies = s.tallies := State.modGang_tallies _ _ _ fun _ => rfl

@[simp] theorem LCtx.issueFault_tallies (c : LCtx) (s : State) (cause : Nat) (lanes : Option (BitVec 32)) (addr info : Nat) :
    (LCtx.issueFault c s cause lanes addr info).tallies = s.tallies := by
  unfold LCtx.issueFault; simp

@[simp] theorem UCtx.issueFault_tallies (c : UCtx) (s : State) (cause addr info : Nat) : (UCtx.issueFault c s cause addr info).tallies = s.tallies := by
  unfold UCtx.issueFault; simp

@[simp] theorem State.abortHandler_tallies (s : State) (hid cause : Nat) : (State.abortHandler s hid cause).tallies = s.tallies := by
  exact (State.push_tallies ..).trans (State.modHeat_tallies _ _ _ fun _ => rfl)


@[simp] theorem State.failAcc_tallies (s : State) (op : ScratchAcc) (d : Detect) : (State.failAcc s op d).tallies = s.tallies := by
  refine (State.detect_tallies ..).trans ((State.stopNamed_tallies ..).trans (State.modHeat_tallies _ _ _ fun h => ?_))
  split <;> rfl

@[simp] theorem State.startAcc_tallies (s : State) (op : ScratchAcc) : (State.startAcc s op).tallies = s.tallies := by
  unfold State.startAcc; (try dsimp only); (repeat' split) <;> first | rfl | simp

@[simp] theorem State.retestPasses_tallies (s : State) (core : Nat) : (State.retestPasses s core).tallies = s.tallies := by
  unfold State.retestPasses; simp

@[simp] theorem State.flip_tallies (s : State) (core g0 count : Nat) (owner : Nat) : (State.flip s core g0 count owner).tallies = s.tallies := by
  unfold State.flip; simp

@[simp] theorem State.pushPerforms_tallies (s : State) (o : GlobalOp) : (State.pushPerforms s o).tallies = s.tallies := by
  unfold State.pushPerforms; simp

@[simp] theorem State.pullBack_tallies (s : State) (g : GangRef) : (State.pullBack s g).tallies = s.tallies := by
  unfold State.pullBack
  split
  · rfl
  · refine (foldl_tallies _ (fun s o => ?_) _ _).trans (State.modGang_tallies _ _ _ fun _ => rfl)
    split <;> simp

@[simp] theorem State.pushDeliveries_tallies (s : State) (o : GlobalOp) : (State.pushDeliveries s o).tallies = s.tallies := by
  unfold State.pushDeliveries; simp

@[simp] theorem State.pushStacks_tallies (s : State) (o : GlobalOp) : (State.pushStacks s o).tallies = s.tallies := by
  unfold State.pushStacks; (try dsimp only); (repeat' split) <;> rfl

@[simp] theorem State.countOp_tallies (s : State) (o : GlobalOp) (up : Bool) : (State.countOp s o up).tallies = s.tallies := by
  unfold State.countOp; rfl

theorem PChoice.next_tallies (c : PChoice) (g : GangRef) (base op issue lat : Nat) (kind : GlobalKind)
    (order : Bool) (l : LaneAcc) : (c.next g base op issue lat kind order l).s.tallies = c.s.tallies := by
  unfold PChoice.next
  (try dsimp only); (repeat' split) <;> first | rfl | simp

@[simp] theorem LCtx.issueGlobal_tallies (c : LCtx) (s : State) (i : Instr) (w : LaneWord) (kind : GlobalKind) (order : Bool) : (LCtx.issueGlobal c s i w kind order).tallies = s.tallies := by
  have h : ∀ (ls : List LaneAcc) (ch : PChoice) (f : PChoice → LaneAcc → PChoice), (∀ d l, (f d l).s.tallies = d.s.tallies) →
      (ls.foldl f ch).s.tallies = ch.s.tallies := by
    intro ls
    induction ls with
    | nil => intro ch f _; rfl
    | cons a r ih => intro ch f hf; rw [List.foldl_cons, ih _ _ hf, hf]
  unfold LCtx.issueGlobal
  simp only [State.pushDeliveries_tallies, State.pushPerforms_tallies, State.pushStacks_tallies, State.countOp_tallies, tallies_mk,
    tallies_fold]
  refine (State.modGang_tallies _ _ _ ?_).trans ((h _ _ _ fun d l => PChoice.next_tallies ..).trans ?_)
  · exact fun _ => rfl
  dsimp only
  split
  · exact State.modTeam_tallies _ _ _ fun _ => rfl
  · rfl

@[simp] theorem LCtx.modGroup_tallies (c : LCtx) (s : State) (f : Group → Group) : (LCtx.modGroup c s f).tallies = s.tallies := by
  exact State.modGang_tallies _ _ _ fun _ => rfl

@[simp] theorem LCtx.goto_tallies (c : LCtx) (s : State) (pc : Nat) : (LCtx.goto c s pc).tallies = s.tallies := by
  unfold LCtx.goto; simp

@[simp] theorem State.afterRetire_tallies (s : State) (r : TeamRef) : (State.afterRetire s r).tallies = s.tallies := by
  refine (State.afterCounter_tallies ..).trans (State.modHeat_tallies _ _ _ fun h => ?_)
  dsimp only
  repeat' split
  all_goals rfl


@[simp] theorem UCtx.goto_tallies (c : UCtx) (s : State) (pc : Nat) : (UCtx.goto c s pc).tallies = s.tallies := by
  unfold UCtx.goto; simp

@[simp] theorem UCtx.readRecord_tallies (c : UCtx) (s : State) (i : Instr) (kind : GlobalKind) (va size n : Nat) (bar : Option Word) (eop : Nat) (ev : Nat → Ev) : (UCtx.readRecord c s i kind va size n bar eop ev).tallies = s.tallies := by
  unfold UCtx.readRecord; rfl

@[simp] theorem State.writeBudget_tallies (s : State) (v : Nat) : (State.writeBudget s v).tallies = s.tallies := by
  unfold State.writeBudget; simp

@[simp] theorem State.writeControl_tallies (s : State) (n : Nat) (v : Word) : (State.writeControl s n v).tallies = s.tallies := by
  unfold State.writeControl; (try dsimp only); (repeat' split) <;> first | rfl | simp

@[simp] theorem UCtx.issueEngine_tallies (c : UCtx) (s : State) (i : Instr) (w : UE) (opcode : Nat) (p : EngPlan) (body : EngBody) (cr : Bool) (crh : Word) : (UCtx.issueEngine c s i w opcode p body cr crh).tallies = s.tallies := by
  exact (State.push_tallies ..).trans ((State.push_tallies ..).trans (State.modHeat_tallies _ _ _ fun _ => rfl))

@[simp] theorem State.wakePort_tallies (s : State) (p : Nat) : (State.wakePort s p).tallies = s.tallies := by
  unfold State.wakePort; (try dsimp only); (repeat' split) <;> rfl

@[simp] theorem State.enqueue_tallies (s : State) (p ready : Nat) (m : Msg) : (State.enqueue s p ready m).tallies = s.tallies := by
  unfold State.enqueue; simp

@[simp] theorem State.emit_tallies (s : State) (m : Msg) (ready : Nat) : (State.emit s m ready).tallies = s.tallies := by
  unfold State.emit; (try dsimp only); (repeat' split) <;> first | rfl | simp

@[simp] theorem UCtx.postMessage_tallies (c : UCtx) (s : State) (i : Instr) (p : AckTo → Post) (w : UE) : (UCtx.postMessage c s i p w).tallies = s.tallies := by
  unfold UCtx.postMessage; rfl

@[simp] theorem UCtx.issueXfer_tallies (c : UCtx) (s : State) (w : UE) : (UCtx.issueXfer c s w).tallies = (c.commit s (.xfer w) 704).tallies := by
  unfold UCtx.issueXfer; simp

@[simp] theorem State.buildBank_tallies (s : State) (p : Nat) : (State.buildBank s p).tallies = s.tallies := by
  unfold State.buildBank; rfl

@[simp] theorem State.armBanks_tallies (s : State) (r : Record) (swcyc : Nat) : (State.armBanks s r swcyc).tallies = s.tallies := by
  unfold State.armBanks; simp

@[simp] theorem State.abortHeat_tallies (s : State) (hid cause : Nat) : (State.abortHeat s hid cause).tallies = s.tallies := by
  exact (State.push_tallies ..).trans (State.modHeat_tallies _ _ _ fun _ => rfl)

@[simp] theorem State.takeSeq_tallies (s : State) (k : FlowKey) : (State.takeSeq s k).2.tallies = s.tallies := by
  unfold State.takeSeq
  (repeat' split) <;> rfl

@[simp] theorem State.sendOn_tallies (s : State) (p : Nat) (m : Msg) : (State.sendOn s p m).tallies = s.tallies := by
  unfold State.sendOn; simp

@[simp] theorem State.sendRouted_tallies (s : State) (m : Msg) : (State.sendRouted s m).tallies = s.tallies := by
  unfold State.sendRouted; simp

@[simp] theorem State.sendControl_tallies (s : State) (pkg : Nat) (payload : List Byte) : (State.sendControl s pkg payload).tallies = s.tallies := by
  unfold State.sendControl; simp

@[simp] theorem State.flood_tallies (s : State) (payload : List Byte) (notOn : Option Nat) : (State.flood s payload notOn).tallies = s.tallies := by
  refine foldl_tallies _ (fun s p => ?_) _ _
  split <;> simp

@[simp] theorem State.tellHalted_tallies (s : State) (cause arg : Nat) : (State.tellHalted s cause arg).tallies = s.tallies := by
  unfold State.tellHalted
  (repeat' split) <;> simp

@[simp] theorem State.reportHalted_tallies (s : State) : (State.reportHalted s).tallies = s.tallies := by
  unfold State.reportHalted
  split
  · dsimp only
    split
    · exact State.tellHalted_tallies ..
    · rfl
  · rfl

@[simp] theorem State.saveCorrected_tallies (s : State) (h : Heat) : (State.saveCorrected s h).tallies = s.tallies := by
  exact foldl_tallies _ (fun s k => State.corrected_tallies s k _) _ _

@[simp] theorem State.startSave_tallies (s : State) (h : Heat) : (State.startSave s h).tallies = s.tallies := by
  unfold State.startSave
  split
  · exact State.abortHeat_tallies ..
  · refine (State.push_tallies ..).trans ((State.modHeat_tallies _ _ _ ?_).trans ((State.choose_tallies ..).trans ?_))
    · exact fun _ => rfl
    · exact State.saveCorrected_tallies ..

/-! ## Counts and registers from tallies and files -/

theorem State.dix?_eq (s : State) (r : GangRef) :
    s.dix? r = ((s.tallies.find? fun h => h.1 == r.hid).bind fun h => h.2[r.team]?).bind fun t => t.2[r.gang]? := by
  unfold State.dix? State.gang? State.team? State.heat?
  rw [State.tallies_eq, List.find?_map]
  change _ = ((Option.map Heat.tally (s.heats.find? fun h => h.hid == r.hid)).bind _).bind _
  cases s.heats.find? fun h => h.hid == r.hid with
  | none => rfl
  | some h =>
    simp only [Option.map_some, Option.bind_some, Heat.tally, List.getElem?_map]
    cases h.teams[r.team]? with
    | none => rfl
    | some t =>
      simp only [Option.map_some, Option.bind_some, Team.tally, List.getElem?_map]
      rfl

theorem State.count?_eq (s : State) (r : TeamRef) :
    s.count? r = ((s.tallies.find? fun h => h.1 == r.hid).bind fun h => h.2[r.team]?).map (·.1) := by
  unfold State.count? State.team? State.heat?
  rw [State.tallies_eq, List.find?_map]
  change _ = ((Option.map Heat.tally (s.heats.find? fun h => h.hid == r.hid)).bind _).map _
  cases s.heats.find? fun h => h.hid == r.hid with
  | none => rfl
  | some h =>
    simp only [Option.map_some, Option.bind_some, Heat.tally, List.getElem?_map]
    cases h.teams[r.team]? <;> rfl

theorem dix?_of_tallies {s t : State} (h : t.tallies = s.tallies) (r : GangRef) : t.dix? r = s.dix? r := by
  rw [State.dix?_eq, h, ← State.dix?_eq]

theorem count?_of_tallies {s t : State} (h : t.tallies = s.tallies) (r : TeamRef) : t.count? r = s.count? r := by
  rw [State.count?_eq, h, ← State.count?_eq]

/-- THE COMMIT OF A LANE INSTRUCTION counts in its own gang alone. -/
theorem LCtx.commit_dix? (c : LCtx) (s : State) (i : Instr) (w : LaneWord) (L : Nat) (r : GangRef) :
    (c.commit s i w L).dix? r = if r = c.ref then (s.dix? r).map (· + 1) else s.dix? r := by
  have hs : ∀ (f : Gang → Gang) (u : State) (_ : u.heats = s.heats) (_ : ∀ g, (f g).dix = g.dix + 1),
      (u.modGang c.ref f).dix? r = if r = c.ref then (s.dix? r).map (· + 1) else s.dix? r := by
    intro f u hu hf
    have e : u.gang? r = s.gang? r := by simp only [State.gang?, State.team?, State.heat?, hu]
    unfold State.dix?
    rw [State.gang?_modGang, e]
    split <;> cases s.gang? r <;> simp [hf, -Gang.tally_fold]
  unfold LCtx.commit
  dsimp only
  refine hs _ _ ?_ fun g => ?_
  · simp only [State.corrected_heats, State.tick_heats]
    split <;> rfl
  · have hf : ∀ (f : Option Nat) (n : Nat), (g.setFlag f n).dix = g.dix := fun f n => by cases f <;> rfl
    split <;> simp [hf, Gang.setLatch, -Gang.tally_fold]

theorem LCtx.commit_count? (c : LCtx) (s : State) (i : Instr) (w : LaneWord) (L : Nat) (r : TeamRef) :
    (c.commit s i w L).count? r = s.count? r := by
  have hs : ∀ (f : Gang → Gang) (u : State) (_ : u.heats = s.heats), (u.modGang c.ref f).count? r = s.count? r := by
    intro f u hu
    have e : u.team? r = s.team? r := by simp only [State.team?, State.heat?, hu]
    unfold State.count? State.modGang
    rw [State.team?_modTeam, e]
    split <;> cases s.team? r <;> rfl
  unfold LCtx.commit
  dsimp only
  refine hs _ _ ?_
  simp only [State.corrected_heats, State.tick_heats]
  split <;> rfl

@[simp] theorem Cox.advance_count (x : Cox) (cl : Clause) (i : Instr) (t d : Nat) : (x.advance cl i t d).count = x.count := by
  unfold Cox.advance
  split <;> rfl

/-- THE COMMIT OF A COX INSTRUCTION counts in its own cox alone. -/
theorem UCtx.commit_count? (c : UCtx) (s : State) (i : Instr) (L : Nat) (r : TeamRef) :
    (c.commit s i L).count? r = if r = c.ref then (s.count? r).map (· + 1) else s.count? r := by
  unfold UCtx.commit State.count? State.modCox
  have e : (s.corrected 2 (c.reads i).contains).team? r = s.team? r := by simp only [State.team?, State.heat?, State.corrected_heats]
  rw [State.team?_modTeam, e]
  split <;> cases s.team? r <;> rfl

theorem UCtx.commit_dix? (c : UCtx) (s : State) (i : Instr) (L : Nat) (r : GangRef) :
    (c.commit s i L).dix? r = s.dix? r := by
  unfold UCtx.commit State.dix?
  have e : (s.corrected 2 (c.reads i).contains).gang? r = s.gang? r := by
    simp only [State.gang?, State.team?, State.heat?, State.corrected_heats]
  rw [State.gang?_modCox, e]

/-- What a lane instruction leaves when the rest of its effect keeps counts, files and memories. -/
theorem laneIssued_of_commit {s t : State} {c : LCtx} (i : Instr) (w : LaneWord) (L : Nat) (hc : laneCtx s = some c)
    (ht : t.tallies = (c.commit s i w L).tallies) (hk : t.kept [] = (c.commit s i w L).kept [])
    (hf : t.files = (c.commit s i w L).files) : LaneIssued s c t where
  own := by rw [dix?_of_tallies ht, LCtx.commit_dix?, if_pos rfl, State.dix?, laneCtx_gang hc]; rfl
  gangs r hr := by rw [dix?_of_tallies ht, LCtx.commit_dix?, if_neg hr]
  coxes r := by rw [count?_of_tallies ht, LCtx.commit_count?]
  memory := keeps_of_kept s t [] (hk.trans (by simp))
  registers := hf.trans (by simp)

/-- What a cox instruction leaves when the rest of its effect keeps counts and memories. -/
theorem coxIssued_of_commit {s t : State} {c : UCtx} (i : Instr) (L : Nat) (hc : uniCtx s = some c)
    (ht : t.tallies = (c.commit s i L).tallies) (hk : t.kept [] = (c.commit s i L).kept []) : CoxIssued s c t where
  own := by
    rw [count?_of_tallies ht, UCtx.commit_count?, if_pos rfl, State.count?, (uniCtx_team hc).1, ← (uniCtx_team hc).2.1]; rfl
  gangs r := by rw [dix?_of_tallies ht, UCtx.commit_dix?]
  coxes r hr := by rw [count?_of_tallies ht, UCtx.commit_count?, if_neg hr]
  memory := keeps_of_kept s t [] (hk.trans (by simp))

/-! ## Cox instructions that break nothing -/

theorem checkUni_clear (i : Instr) (s : State) (extra : UCtx → List (Nat × Nat × Nat)) (go : UCtx → State) (c : UCtx)
    (hc : uniCtx s = some c) (h : c.causes s i (extra c) = []) (hh : c.handling = true → inHandler i = true) :
    checkUni i s extra go = .next (go c) := by
  simp only [checkUni, hc, h, lowest]
  cases e : c.handling <;> simp_all

theorem issueUni_clear (i : Instr) (s : State) (L : Nat) (extra : UCtx → List (Nat × Nat × Nat)) (act : UCtx → State → State)
    (c : UCtx) (hc : uniCtx s = some c) (h : c.causes s i (extra c) = []) (hh : c.handling = true → inHandler i = true) :
    issueUni i s L extra act = .next (act c (c.commit s i L)) :=
  checkUni_clear i s extra _ c hc h hh

/-! ## Registers from files -/

/-- Equal files give equal registers. -/
theorem reg_of_files {s t : State} (h : t.files = s.files) (r : Reg) : t.reg r = s.reg r := by
  have hh : ∀ hid, (t.heat? hid).map Heat.file = (s.heat? hid).map Heat.file := by
    intro hid
    have f : ∀ u : State, (u.heat? hid).map Heat.file = u.files.find? fun x => x.1 == hid := by
      intro u
      rw [State.files_eq, List.find?_map]
      rfl
    rw [f, f, h]
  have ht : ∀ r : TeamRef, (t.team? r).map Team.file = (s.team? r).map Team.file := by
    intro r
    have f : ∀ u : State, (u.team? r).map Team.file =
        ((u.heat? r.hid).map Heat.file).bind fun x => x.2.2[r.team]? := by
      intro u
      unfold State.team?
      cases u.heat? r.hid <;> simp [Heat.file, -Heat.file_fold]
    rw [f, f, hh]
  have hg : ∀ r : GangRef, (t.gang? r).map Gang.file = (s.gang? r).map Gang.file := by
    intro r
    have f : ∀ u : State, (u.gang? r).map Gang.file =
        ((u.team? ⟨r.hid, r.team⟩).map Team.file).bind fun x => x.2.2.2.2.2.2[r.gang]? := by
      intro u
      unfold State.gang?
      cases u.team? ⟨r.hid, r.team⟩ <;> simp [Team.file, -Team.file_fold]
    rw [f, f, ht]
  have g (r : GangRef) (α : Type) (p : Store Word × Store Word × Store (BitVec 8) × Store (BitVec 16) → α) :
      (t.gang? r).map (fun x => p x.file) = (s.gang? r).map (fun x => p x.file) := by
    have := congrArg (Option.map p) (hg r)
    rwa [Option.map_map, Option.map_map] at this
  have k (r : TeamRef) (α : Type) (p : Store Word × BitVec 8 × Store (BitVec 128) × Store Tensor × Store NestSlot ×
    List (Nat × BitVec 64) × List (Store Word × Store Word × Store (BitVec 8) × Store (BitVec 16)) → α) :
      (t.team? r).map (fun x => p x.file) = (s.team? r).map (fun x => p x.file) := by
    have := congrArg (Option.map p) (ht r)
    rwa [Option.map_map, Option.map_map] at this
  cases r with
  | v r n l => exact g r Nat fun x => (Store.get 0 x.1 (32 * n + l) : Word).toNat
  | mask r n => exact g r Nat fun x => (if n = 0 then 0xFFFFFFFF else Store.get 0xFFFFFFFF x.2.1 n : Word).toNat
  | index r n l => exact g r Nat fun x => (Store.get 0 x.2.2.1 (32 * n + l)).toNat
  | window r n => exact g r Nat fun x => (Store.get 0 x.2.2.2 n).toNat
  | k r n => exact k r Nat fun x => (Store.get 0 x.1 n).toNat
  | pred r n => exact k r Nat fun x => (decide (n = 0) || x.2.1.getLsbD n).toNat
  | gen r n => exact k r Nat fun x => (Store.get 0 x.2.2.1 n).toNat

end Sys2Proof.Machine
end

