-- ==== Sys2Proof/Laws/Encoding.lean ====
section
/-! SUPPORT. Bytes and words, the fields of each form of word, and the instruction that a word's opcode and fields name. -/
namespace Sys2Proof

/-! ## Bytes -/

theorem ofLeBytes_leBytes (n x : Nat) : ofLeBytes (leBytes n x) = x % 2 ^ (8 * n) := by
  induction n generalizing x with
  | zero => simp [leBytes, ofLeBytes, Nat.mod_one]
  | succ n ih =>
    simp only [leBytes, ofLeBytes, ih, BitVec.toNat_ofNat]
    rw [show 8 * (n + 1) = 8 + 8 * n by ring, pow_add]
    have := Nat.mod_mul (x := x) (a := 2 ^ 8) (b := 2 ^ (8 * n))
    rw [show (2:Nat)^8 = 256 from rfl] at this ⊢
    omega

theorem leBytes_length (n x : Nat) : (leBytes n x).length = n := by
  induction n generalizing x <;> simp [leBytes, *]

theorem word_of_bytes (w : Word) : BitVec.ofNat 32 (ofLeBytes (leBytes 4 w.toNat)) = w := by
  rw [ofLeBytes_leBytes]
  apply BitVec.eq_of_toNat_eq
  have := w.isLt
  simp
  omega

theorem decode_cons (w : Word) (rest : List (BitVec 8)) :
    decode (leBytes 4 w.toNat ++ rest) =
      (let i := parse w (BitVec.ofNat 32 (ofLeBytes (rest.take 4)))
       if i = .unassignedOpcode w then .error (.unassignedOpcode w)
       else if i.words = 2 then (if rest.length < 4 then .error .truncated else .ok (i, rest.drop 4))
       else .ok (i, rest)) := by
  have h1 : (leBytes 4 w.toNat ++ rest).take 4 = leBytes 4 w.toNat := by
    rw [List.take_append_of_le_length (by rw [leBytes_length]), List.take_of_length_le (by rw [leBytes_length])]
  have h2 : (leBytes 4 w.toNat ++ rest).drop 4 = rest := by
    have := List.drop_left (l₁ := leBytes 4 w.toNat) (l₂ := rest)
    rwa [leBytes_length] at this
  unfold decode
  rw [if_neg (by rw [List.length_append, leBytes_length]; omega)]
  simp only [h1, h2, word_of_bytes]

theorem decode_words (i : Instr) (rest : List (BitVec 8)) (w : Word) (ws : List Word) (he : encode i = w :: ws)
    (hl : ws.length + 1 = i.words) (hw : i.words ≤ 2) (hu : i ≠ .unassignedOpcode w)
    (hp : ∀ next, (ws = [] ∨ ws = [next]) → parse w next = i) : decode (encodeBytes i ++ rest) = .ok (i, rest) := by
  unfold encodeBytes
  rw [he]
  simp only [List.map_cons, List.flatten_cons, List.append_assoc]
  rw [decode_cons]
  match ws, hl with
  | [], hl =>
    simp only [List.map_nil, List.flatten_nil, List.nil_append]
    rw [hp _ (.inl rfl)]
    simp only [List.length_nil] at hl
    simp [hu, ← hl]
  | [x], hl =>
    simp only [List.map_cons, List.map_nil, List.flatten_cons, List.flatten_nil, List.append_nil]
    have h1 : (leBytes 4 x.toNat ++ rest).take 4 = leBytes 4 x.toNat := by
      rw [List.take_append_of_le_length (by rw [leBytes_length]), List.take_of_length_le (by rw [leBytes_length])]
    have h2 : (leBytes 4 x.toNat ++ rest).drop 4 = rest := by
      have := List.drop_left (l₁ := leBytes 4 x.toNat) (l₂ := rest)
      rwa [leBytes_length] at this
    rw [h1, word_of_bytes, hp _ (.inr rfl)]
    simp only [List.length_cons, List.length_nil] at hl
    simp [hu, ← hl, h2, leBytes_length]
  | _ :: _ :: _, hl => simp at hl; omega

/-! ## Fields of a word made of parts -/

theorem extract_left {n m : Nat} (x : BitVec n) (y : BitVec m) (k l : Nat) :
    (x ++ y).extractLsb' (m + k) l = x.extractLsb' k l := by
  apply BitVec.eq_of_getLsbD_eq
  intro j hj
  simp only [BitVec.getLsbD_extractLsb', BitVec.getLsbD_append, hj, decide_true, Bool.true_and]
  rw [if_neg (by omega)]
  congr 1
  omega
theorem extract_right {n m : Nat} (x : BitVec n) (y : BitVec m) : (x ++ y).extractLsb' 0 m = y := by
  apply BitVec.eq_of_getLsbD_eq
  intro j hj
  simp only [BitVec.getLsbD_extractLsb', BitVec.getLsbD_append, hj, decide_true, Bool.true_and]
  rw [if_pos (by omega)]
  congr 1
  omega
theorem bit_left {n m : Nat} (x : BitVec n) (y : BitVec m) (k : Nat) : (x ++ y).getLsbD (m + k) = x.getLsbD k := by
  rw [BitVec.getLsbD_append, if_neg (by omega)]
  congr 1
  omega
theorem bit_right {n m : Nat} (x : BitVec n) (y : BitVec m) (k : Nat) (h : k < m) : (x ++ y).getLsbD k = y.getLsbD k := by
  rw [BitVec.getLsbD_append, if_pos h]

/-- The fields of a word of form lane. -/
theorem lane_extract (o : BitVec 8) (d a b : BitVec 7) (hold : BitVec 2) (x : Bool) :
    let h : Word := o ++ d ++ a ++ b ++ hold ++ BitVec.ofBool x
    h.extractLsb' 24 7 = o.extractLsb' 0 7 ∧
      h.getLsbD 31 = o.getLsbD 7 ∧
      h.extractLsb' 17 7 = d ∧
      h.extractLsb' 10 7 = a ∧
      h.extractLsb' 3 7 = b ∧
      h.extractLsb' 1 2 = hold ∧
      h.getLsbD 0 = x := by
  intro h
  exact ⟨(extract_left _ _ 23 7).trans ((extract_left _ _ 21 7).trans ((extract_left _ _ 14 7).trans ((extract_left _ _ 7 7).trans ((extract_left _ _ 0 7))))),
    (bit_left _ _ 30).trans ((bit_left _ _ 28).trans ((bit_left _ _ 21).trans ((bit_left _ _ 14).trans ((bit_left _ _ 7))))),
    (extract_left _ _ 16 7).trans ((extract_left _ _ 14 7).trans ((extract_left _ _ 7 7).trans ((extract_left _ _ 0 7).trans ((extract_right _ _))))),
    (extract_left _ _ 9 7).trans ((extract_left _ _ 7 7).trans ((extract_left _ _ 0 7).trans ((extract_right _ _)))),
    (extract_left _ _ 2 7).trans ((extract_left _ _ 0 7).trans ((extract_right _ _))),
    (extract_left _ _ 0 2).trans ((extract_right _ _)),
    (bit_right _ _ 0 (by decide)).trans (by simp)⟩

/-- The fields of a word of form ua. -/
theorem ua_extract (o : BitVec 8) (d a b f : BitVec 6) :
    let h : Word := o ++ d ++ a ++ b ++ f
    h.extractLsb' 24 7 = o.extractLsb' 0 7 ∧
      h.getLsbD 31 = o.getLsbD 7 ∧
      h.extractLsb' 18 6 = d ∧
      h.extractLsb' 12 6 = a ∧
      h.extractLsb' 6 6 = b ∧
      h.extractLsb' 0 6 = f ∧
      h.getLsbD 18 = d.getLsbD 0 := by
  intro h
  exact ⟨(extract_left _ _ 18 7).trans ((extract_left _ _ 12 7).trans ((extract_left _ _ 6 7).trans ((extract_left _ _ 0 7)))),
    (bit_left _ _ 25).trans ((bit_left _ _ 19).trans ((bit_left _ _ 13).trans ((bit_left _ _ 7)))),
    (extract_left _ _ 12 6).trans ((extract_left _ _ 6 6).trans ((extract_left _ _ 0 6).trans ((extract_right _ _)))),
    (extract_left _ _ 6 6).trans ((extract_left _ _ 0 6).trans ((extract_right _ _))),
    (extract_left _ _ 0 6).trans ((extract_right _ _)),
    (extract_right _ _),
    (bit_left _ _ 12).trans ((bit_left _ _ 6).trans ((bit_left _ _ 0).trans (bit_right _ _ 0 (by decide))))⟩

/-- The fields of a word of form ui. -/
theorem ui_extract (o : BitVec 8) (d a : BitVec 6) (m : BitVec 12) :
    let h : Word := o ++ d ++ a ++ m
    h.extractLsb' 24 7 = o.extractLsb' 0 7 ∧
      h.getLsbD 31 = o.getLsbD 7 ∧
      h.extractLsb' 18 6 = d ∧
      h.extractLsb' 12 6 = a ∧
      h.extractLsb' 0 12 = m ∧
      h.getLsbD 4 = m.getLsbD 4 := by
  intro h
  exact ⟨(extract_left _ _ 12 7).trans ((extract_left _ _ 6 7).trans ((extract_left _ _ 0 7))),
    (bit_left _ _ 19).trans ((bit_left _ _ 13).trans ((bit_left _ _ 7))),
    (extract_left _ _ 6 6).trans ((extract_left _ _ 0 6).trans ((extract_right _ _))),
    (extract_left _ _ 0 6).trans ((extract_right _ _)),
    (extract_right _ _),
    bit_right _ _ 4 (by decide)⟩

/-- The fields of a word of form ub. -/
theorem ub_extract (o : BitVec 8) (c : BitVec 4) (f : BitVec 20) :
    let h : Word := o ++ c ++ f
    h.extractLsb' 24 7 = o.extractLsb' 0 7 ∧
      h.getLsbD 31 = o.getLsbD 7 ∧
      h.extractLsb' 20 4 = c ∧
      h.extractLsb' 0 20 = f := by
  intro h
  exact ⟨(extract_left _ _ 4 7).trans ((extract_left _ _ 0 7)),
    (bit_left _ _ 11).trans ((bit_left _ _ 7)),
    (extract_left _ _ 0 4).trans ((extract_right _ _)),
    (extract_right _ _)⟩

theorem bits_op (h : Word) (o : BitVec 8) (e : h.extractLsb' 24 7 = o.extractLsb' 0 7) :
    bits h.toNat 30 24 = o.toNat % 128 := by
  have := congrArg BitVec.toNat e
  rw [BitVec.extractLsb'_toNat, BitVec.extractLsb'_toNat] at this
  simpa [bits] using this

theorem low_bit (op : Nat) (h : op < 128) : (BitVec.ofNat 8 op).getLsbD 7 = false := by
  rw [BitVec.getLsbD_ofNat, Nat.testBit_lt_two_pow (i := 7) h]
  rfl

theorem top_bit (op : Nat) (h : op < 128) : (BitVec.ofNat 8 (128 + op)).getLsbD 7 = true := by
  rw [BitVec.getLsbD_ofNat, show 128 + op = 2 ^ 7 + op from rfl, Nat.testBit_two_pow_add_eq, Nat.testBit_lt_two_pow h]
  rfl

/-- A lane word's fields, from the word its parts make. -/
theorem lane_fields (op : Nat) (hop : op < 128) (w : LaneWord) (next : Word)
    (hn : w.tail = none ∨ w.tail = some next) :
    let h : Word := BitVec.ofNat 8 op ++ w.d ++ w.a ++ w.b ++ w.hold ++ (BitVec.ofBool w.tail.isSome)
    bits h.toNat 30 24 = op ∧ bit h 31 = false ∧ laneWordOf h next = w := by
  obtain ⟨h1, h2, h3, h4, h5, h6, h7⟩ := lane_extract (BitVec.ofNat 8 op) w.d w.a w.b w.hold w.tail.isSome
  refine ⟨?_, ?_, ?_⟩
  · exact (bits_op _ _ h1).trans (by simp; omega)
  · exact h2.trans (low_bit op hop)
  · have e : (if bit (BitVec.ofNat 8 op ++ w.d ++ w.a ++ w.b ++ w.hold ++ (BitVec.ofBool w.tail.isSome) : Word) 0
        then some next else none) = w.tail := by
      refine (congrArg (fun b : Bool => if b then some next else none) h7).trans ?_
      cases hn with
      | inl h => simp [h]
      | inr h => simp [h]
    exact congr (congr (congr (congrArg₂ LaneWord.mk h3 h4) h5) h6) e

theorem ua_fields (op : Nat) (hop : op < 128) (w : UA) :
    let h : Word := BitVec.ofNat 8 (128 + op) ++ w.d ++ w.a ++ w.b ++ w.fn
    bits h.toNat 30 24 = op ∧ bit h 31 = true ∧ uaOf h = w ∧ bit h 18 = w.d.getLsbD 0 := by
  obtain ⟨h1, h2, h3, h4, h5, h6, h9⟩ := ua_extract (BitVec.ofNat 8 (128 + op)) w.d w.a w.b w.fn
  refine ⟨(bits_op _ _ h1).trans (by simp; omega), h2.trans (top_bit op hop), ?_, h9⟩
  exact congr (congr (congrArg₂ UA.mk h3 h4) h5) h6

theorem ui_fields (op : Nat) (hop : op < 128) (w : UI) :
    let h : Word := BitVec.ofNat 8 (128 + op) ++ w.d ++ w.a ++ w.imm
    bits h.toNat 30 24 = op ∧ bit h 31 = true ∧ uiOf h = w := by
  obtain ⟨h1, h2, h3, h4, h5, h9⟩ := ui_extract (BitVec.ofNat 8 (128 + op)) w.d w.a w.imm
  refine ⟨(bits_op _ _ h1).trans (by simp; omega), h2.trans (top_bit op hop), ?_⟩
  exact congr (congrArg₂ UI.mk h3 h4) h5

theorem ue_fields (op : Nat) (hop : op < 128) (w : UE) :
    let h : Word := BitVec.ofNat 8 (128 + op) ++ w.d ++ w.a ++ w.flags
    bits h.toNat 30 24 = op ∧ bit h 31 = true ∧ ueOf h = w ∧ bit h 4 = w.flags.getLsbD 4 := by
  obtain ⟨h1, h2, h3, h4, h5, h9⟩ := ui_extract (BitVec.ofNat 8 (128 + op)) w.d w.a w.flags
  refine ⟨(bits_op _ _ h1).trans (by simp; omega), h2.trans (top_bit op hop), ?_, h9⟩
  exact congr (congrArg₂ UE.mk h3 h4) h5

theorem ub_fields (op : Nat) (hop : op < 128) (w : UB) :
    let h : Word := BitVec.ofNat 8 (128 + op) ++ w.cond ++ w.off
    bits h.toNat 30 24 = op ∧ bit h 31 = true ∧ ubOf h = w := by
  obtain ⟨h1, h2, h3, h4⟩ := ub_extract (BitVec.ofNat 8 (128 + op)) w.cond w.off
  refine ⟨(bits_op _ _ h1).trans (by simp; omega), h2.trans (top_bit op hop), ?_⟩
  exact congrArg₂ UB.mk h3 h4

/-! ## The instruction of an opcode -/

theorem laneInstr_of_parts {i : Instr} {op : Nat} {w : LaneWord} (h : Parts.of i = some (.lane op w)) (hn : namedByWords i = true) :
    laneInstr op w = some i ∧ op < 128 := by
  cases i <;> simp only [Parts.of, reduceCtorEq, Option.some.injEq, Parts.lane.injEq] at h <;>
    (obtain ⟨rfl, rfl⟩ := h; refine ⟨?_, by decide⟩; first | rfl | (simp only [namedByWords, bne_iff_ne, beq_iff_eq, ne_eq] at hn; first | exact congrArg some (if_pos hn) | exact congrArg some (if_neg hn)))

theorem uniInstr_ua {i : Instr} {op : Nat} {w : UA} (hp : Parts.of i = some (.ua op w)) (hn : namedByWords i = true) (h : Word)
    (hw : uaOf h = w) (hb : bit h 18 = w.d.getLsbD 0) : uniInstr op h = some i := by
  subst hw
  cases i <;> simp only [Parts.of, reduceCtorEq, Option.some.injEq, Parts.ua.injEq] at hp <;>
    (obtain ⟨rfl, rfl⟩ := hp; first | rfl | (simp only [namedByWords, Bool.not_eq_true', ← hb] at hn; first | exact congrArg some (if_pos hn) | exact congrArg some (if_neg (by rw [hn]; decide))))

theorem uniInstr_ui {i : Instr} {op : Nat} {w : UI} (hp : Parts.of i = some (.ui op w)) (h : Word)
    (hw : uiOf h = w) : uniInstr op h = some i := by
  subst hw
  cases i <;> simp only [Parts.of, reduceCtorEq, Option.some.injEq, Parts.ui.injEq] at hp <;>
    (obtain ⟨rfl, rfl⟩ := hp; rfl)

theorem uniInstr_ub {i : Instr} {op : Nat} {w : UB} (hp : Parts.of i = some (.ub op w)) (h : Word)
    (hw : ubOf h = w) : uniInstr op h = some i := by
  subst hw
  cases i <;> simp only [Parts.of, reduceCtorEq, Option.some.injEq, Parts.ub.injEq] at hp <;>
    (obtain ⟨rfl, rfl⟩ := hp; rfl)

theorem uniInstr_ue {i : Instr} {op : Nat} {w : UE} (hp : Parts.of i = some (.ue op w)) (hn : namedByWords i = true) (h : Word)
    (hw : ueOf h = w) (hb : bit h 4 = w.flags.getLsbD 4) : uniInstr op h = some i := by
  subst hw
  cases i <;> simp only [Parts.of, reduceCtorEq, Option.some.injEq, Parts.ue.injEq] at hp <;>
    (obtain ⟨rfl, rfl⟩ := hp; first | rfl | (simp only [namedByWords, Bool.not_eq_true', ← hb] at hn; first | exact congrArg some (if_pos hn) | exact congrArg some (if_neg (by rw [hn]; decide))))

theorem unassigned_of {i : Instr} (w : Word) (h : ∀ x, Parts.of i ≠ some (.raw x)) : i ≠ .unassignedOpcode w := by
  rintro rfl
  exact h w rfl


end Sys2Proof
end

