-- ==== Sys2Proof/Laws/Store.lean ====
section
/-! SUPPORT. Laws of sparse arrays: the canonical form is kept by every write, a read after a write to the same key gives
the value written, and every other key reads as before. -/
namespace Sys2Proof.Machine

section
variable {α : Type} [DecidableEq α] {d : α}

/-- The canonical form, said with lists' own notions. -/
theorem Store.wf_iff (s : Store α) :
    Store.wf d s = true ↔ s.Pairwise (fun a b => a.1 < b.1) ∧ ∀ e ∈ s, e.2 ≠ d := by
  induction s with
  | nil => simp [Store.wf]
  | cons e r ih =>
    obtain ⟨k, v⟩ := e
    simp only [Store.wf, Bool.and_eq_true, ih, decide_eq_true_eq, List.pairwise_cons, List.mem_cons, forall_eq_or_imp]
    constructor
    · rintro ⟨⟨hv, hk⟩, hp, hd⟩
      refine ⟨⟨fun b hb => ?_, hp⟩, hv, hd⟩
      cases r with
      | nil => simp at hb
      | cons e' r' =>
        obtain ⟨k', v'⟩ := e'
        have hk' : k < k' := by simpa using hk
        rcases List.mem_cons.1 hb with rfl | hb
        · exact hk'
        · exact lt_trans hk' ((List.pairwise_cons.1 hp).1 b hb)
    · rintro ⟨⟨hk, hp⟩, hv, hd⟩
      refine ⟨⟨hv, ?_⟩, hp, hd⟩
      cases r with
      | nil => rfl
      | cons e' r' => simpa using hk e' (List.mem_cons_self ..)

@[simp] theorem Store.wf_nil : Store.wf d ([] : Store α) = true := rfl

omit [DecidableEq α] in
@[simp] theorem Store.get_nil (k : Nat) : Store.get d ([] : Store α) k = d := rfl

/-- In an array in canonical form an entry is what its key reads as. -/
theorem Store.get_of_mem (s : Store α) (hw : Store.wf d s = true) (e : Nat × α) (h : e ∈ s) : Store.get d s e.1 = e.2 := by
  induction s with
  | nil => simp at h
  | cons x r ih =>
    obtain ⟨hp, hd⟩ := (Store.wf_iff _).1 hw
    obtain ⟨hx, hp⟩ := List.pairwise_cons.1 hp
    rcases List.mem_cons.1 h with rfl | h
    · simp [Store.get]
    · have := hx e h
      simp only [Store.get]
      rw [if_neg (by omega)]
      exact ih ((Store.wf_iff _).2 ⟨hp, fun y hy => hd y (List.mem_cons_of_mem _ hy)⟩) h

omit [DecidableEq α] in
/-- A key that no entry has reads as the default. -/
theorem Store.get_of_not_mem (s : Store α) (k : Nat) (h : ∀ e ∈ s, e.1 ≠ k) : Store.get d s k = d := by
  induction s with
  | nil => rfl
  | cons x r ih =>
    simp only [Store.get]
    rw [if_neg (h x (List.mem_cons_self ..))]
    exact ih fun e he => h e (List.mem_cons_of_mem _ he)

/-- Two arrays in canonical form whose entries of a key agree read alike there. -/
theorem Store.get_congr (s t : Store α) (hs : Store.wf d s = true) (ht : Store.wf d t = true) (k : Nat)
    (h : ∀ v, (k, v) ∈ s ↔ (k, v) ∈ t) : Store.get d s k = Store.get d t k := by
  by_cases he : ∃ v, (k, v) ∈ s
  · obtain ⟨v, hv⟩ := he
    rw [Store.get_of_mem s hs _ hv, Store.get_of_mem t ht _ ((h v).1 hv)]
  · rw [Store.get_of_not_mem s k fun e h1 h2 => he ⟨e.2, h2 ▸ h1⟩,
      Store.get_of_not_mem t k fun e h1 h2 => he ⟨e.2, (h e.2).2 (h2 ▸ h1)⟩]

omit [DecidableEq α] in
theorem Store.get_filter (s : Store α) (k j : Nat) :
    Store.get d (s.filter fun e => e.1 != k) j = if j = k then d else Store.get d s j := by
  induction s with
  | nil => simp
  | cons x r ih =>
    rw [List.filter_cons]
    by_cases h : x.1 = k
    · rw [if_neg (by simp [h]), ih]
      split
      · rfl
      · rename_i hj
        simp only [Store.get]
        rw [if_neg (by omega)]
    · rw [if_pos (by simp [h])]
      simp only [Store.get]
      by_cases hx : x.1 = j
      · rw [if_pos hx, if_neg (by omega), if_pos hx]
      · rw [if_neg hx, if_neg hx, ih]

omit [DecidableEq α] in
theorem Store.get_place (s : Store α) (k : Nat) (v : α) (h : ∀ e ∈ s, e.1 ≠ k) (j : Nat) :
    Store.get d (Store.place s k v) j = if j = k then v else Store.get d s j := by
  induction s with
  | nil =>
    simp only [Store.place, Store.get]
    exact if_congr eq_comm rfl rfl
  | cons x r ih =>
    have ih := ih fun e he => h e (List.mem_cons_of_mem _ he)
    have hx := h x (List.mem_cons_self ..)
    simp only [Store.place]
    split
    · simp only [Store.get]
      rw [ih]
      by_cases h1 : x.1 = j
      · rw [if_pos h1, if_neg (by omega), if_pos h1]
      · rw [if_neg h1, if_neg h1]
    · rw [Store.get]
      exact if_congr eq_comm rfl rfl

omit [DecidableEq α] in
theorem Store.mem_place (s : Store α) (k : Nat) (v : α) (e : Nat × α) : e ∈ Store.place s k v ↔ e ∈ s ∨ e = (k, v) := by
  induction s with
  | nil => simp [Store.place]
  | cons x r ih =>
    simp only [Store.place]
    split
    · rw [List.mem_cons, ih, List.mem_cons, or_assoc]
    · rw [List.mem_cons, List.mem_cons, or_comm]

/-- A read after a write: the value written at its key, what was there at every other key. -/
theorem Store.get_set (s : Store α) (k : Nat) (v : α) (j : Nat) :
    Store.get d (Store.set d s k v) j = if j = k then v else Store.get d s j := by
  have hf := Store.get_filter (d := d) s k j
  simp only [Store.set]
  split
  · rename_i hv
    rw [hf, hv]
  · rw [Store.get_place _ _ _ (fun e he => by simpa using (List.mem_filter.1 he).2), hf]
    split <;> rfl

/-- A write keeps the canonical form. -/
theorem Store.wf_set (s : Store α) (hs : Store.wf d s = true) (k : Nat) (v : α) : Store.wf d (Store.set d s k v) = true := by
  obtain ⟨hp, hd⟩ := (Store.wf_iff _).1 hs
  have hp := hp.sublist (List.filter_sublist (p := fun e => e.1 != k))
  have hd : ∀ e ∈ s.filter (fun e => e.1 != k), e.2 ≠ d := fun e he => hd e (List.mem_filter.1 he).1
  have hk : ∀ e ∈ s.filter (fun e => e.1 != k), e.1 ≠ k := fun e he => by simpa using (List.mem_filter.1 he).2
  simp only [Store.set]
  split
  · exact (Store.wf_iff _).2 ⟨hp, hd⟩
  · rename_i hv
    refine (Store.wf_iff _).2 ⟨?_, fun e he => ?_⟩
    · generalize s.filter (fun e => e.1 != k) = r at hp hk
      clear hd hs
      induction r with
      | nil => simp [Store.place]
      | cons x r ih =>
        obtain ⟨hx, hp⟩ := List.pairwise_cons.1 hp
        have hxk := hk x (List.mem_cons_self ..)
        simp only [Store.place]
        split
        · rename_i hlt
          refine List.pairwise_cons.2 ⟨fun b hb => ?_, ih hp fun e he => hk e (List.mem_cons_of_mem _ he)⟩
          rcases (Store.mem_place r k v b).1 hb with hb | rfl
          · exact hx b hb
          · exact hlt
        · rename_i hlt
          have hlt : k < x.1 := by omega
          refine List.pairwise_cons.2 ⟨fun b hb => ?_, List.pairwise_cons.2 ⟨hx, hp⟩⟩
          rcases List.mem_cons.1 hb with rfl | hb
          · exact hlt
          · exact lt_trans hlt (hx b hb)
    · rcases (Store.mem_place _ k v e).1 he with he | rfl
      · exact hd e he
      · exact hv

theorem Store.wf_setAll (s : Store α) (hs : Store.wf d s = true) (kvs : List (Nat × α)) :
    Store.wf d (Store.setAll d s kvs) = true := by
  unfold Store.setAll
  induction kvs generalizing s with
  | nil => exact hs
  | cons x r ih => exact ih _ (Store.wf_set s hs ..)

/-- Keys that several writes do not name read as before. -/
theorem Store.get_setAll_of_not_mem (s : Store α) (kvs : List (Nat × α)) (j : Nat) (h : ∀ e ∈ kvs, e.1 ≠ j) :
    Store.get d (Store.setAll d s kvs) j = Store.get d s j := by
  unfold Store.setAll
  induction kvs generalizing s with
  | nil => rfl
  | cons x r ih =>
    rw [List.foldl_cons, ih _ fun e he => h e (List.mem_cons_of_mem _ he), Store.get_set,
      if_neg fun e => h x (List.mem_cons_self ..) e.symm]

/-- A key that several writes name once reads as its value. -/
theorem Store.get_setAll_of_mem (s : Store α) (kvs : List (Nat × α)) (hn : (kvs.map (·.1)).Nodup) (e : Nat × α)
    (h : e ∈ kvs) : Store.get d (Store.setAll d s kvs) e.1 = e.2 := by
  unfold Store.setAll
  induction kvs generalizing s with
  | nil => simp at h
  | cons x r ih =>
    rw [List.map_cons, List.nodup_cons] at hn
    rw [List.foldl_cons]
    rcases List.mem_cons.1 h with rfl | h
    · have := Store.get_setAll_of_not_mem (d := d) (Store.set d s e.1 e.2) r e.1 fun y hy he =>
        hn.1 (he ▸ List.mem_map_of_mem hy)
      unfold Store.setAll at this
      rw [this, Store.get_set, if_pos rfl]
    · exact ih _ hn.2 h

theorem Store.mem_runEntries (k : Nat) (vs : List α) (e : Nat × α) :
    e ∈ Store.runEntries d k vs ↔ k ≤ e.1 ∧ vs[e.1 - k]? = some e.2 ∧ e.2 ≠ d := by
  induction vs generalizing k with
  | nil => simp [Store.runEntries]
  | cons v r ih =>
    have step : e ∈ Store.runEntries d (k + 1) r ↔ k ≤ e.1 ∧ e.1 ≠ k ∧ (v :: r)[e.1 - k]? = some e.2 ∧ e.2 ≠ d := by
      rw [ih]
      constructor
      · rintro ⟨h1, h2, h3⟩
        refine ⟨by omega, by omega, ?_, h3⟩
        rw [show e.1 - k = (e.1 - (k + 1)) + 1 by omega, List.getElem?_cons_succ]
        exact h2
      · rintro ⟨h1, h2, h3, h4⟩
        rw [show e.1 - k = (e.1 - (k + 1)) + 1 by omega, List.getElem?_cons_succ] at h3
        exact ⟨by omega, h3, h4⟩
    simp only [Store.runEntries]
    split
    · rename_i hv
      rw [step]
      constructor
      · rintro ⟨h1, -, h⟩
        exact ⟨h1, h⟩
      · rintro ⟨h1, h2, h3⟩
        refine ⟨h1, fun h => ?_, h2, h3⟩
        rw [h] at h2
        simp at h2
        exact h3 (h2 ▸ hv)
    · rename_i hv
      rw [List.mem_cons, step]
      constructor
      · rintro (rfl | ⟨h1, -, h⟩)
        · simp [hv]
        · exact ⟨h1, h⟩
      · rintro ⟨h1, h2, h3⟩
        by_cases h : e.1 = k
        · left
          rw [h] at h2
          simp at h2
          exact Prod.ext h h2.symm
        · exact Or.inr ⟨h1, h, h2, h3⟩

theorem Store.runEntries_lt (k : Nat) (vs : List α) (e : Nat × α) (h : e ∈ Store.runEntries d k vs) :
    k ≤ e.1 ∧ e.1 < k + vs.length := by
  obtain ⟨h1, h2, -⟩ := (Store.mem_runEntries k vs e).1 h
  obtain ⟨h3, -⟩ := List.getElem?_eq_some_iff.1 h2
  exact ⟨h1, by omega⟩

theorem Store.wf_runEntries (k : Nat) (vs : List α) : Store.wf d (Store.runEntries d k vs) = true := by
  refine (Store.wf_iff _).2 ⟨?_, fun e he => ((Store.mem_runEntries k vs e).1 he).2.2⟩
  induction vs generalizing k with
  | nil => simp [Store.runEntries]
  | cons v r ih =>
    simp only [Store.runEntries]
    split
    · exact ih (k + 1)
    · exact List.pairwise_cons.2 ⟨fun e he => (Store.runEntries_lt (k + 1) r e he).1, ih (k + 1)⟩

/-- The entries below a key. -/
theorem Store.mem_takeWhile (s : Store α) (hs : Store.wf d s = true) (k : Nat) (e : Nat × α) :
    e ∈ s.takeWhile (fun e => e.1 < k) ↔ e ∈ s ∧ e.1 < k := by
  induction s with
  | nil => simp
  | cons x r ih =>
    obtain ⟨hp, hd⟩ := (Store.wf_iff _).1 hs
    obtain ⟨hx, hp'⟩ := List.pairwise_cons.1 hp
    have ih := ih ((Store.wf_iff _).2 ⟨hp', fun y hy => hd y (List.mem_cons_of_mem _ hy)⟩)
    by_cases h : x.1 < k
    · rw [List.takeWhile_cons_of_pos (by simpa using h), List.mem_cons, ih, List.mem_cons]
      constructor
      · rintro (rfl | ⟨h1, h2⟩)
        · exact ⟨Or.inl rfl, h⟩
        · exact ⟨Or.inr h1, h2⟩
      · rintro ⟨rfl | h1, h2⟩
        · exact Or.inl rfl
        · exact Or.inr ⟨h1, h2⟩
    · rw [List.takeWhile_cons_of_neg (by simpa using h)]
      constructor
      · intro h; simp at h
      · rintro ⟨h1, h2⟩
        rcases List.mem_cons.1 h1 with rfl | h1
        · exact absurd h2 h
        · have := hx e h1; omega

/-- The entries from a key on. -/
theorem Store.mem_dropWhile (s : Store α) (hs : Store.wf d s = true) (k : Nat) (e : Nat × α) :
    e ∈ s.dropWhile (fun e => e.1 < k) ↔ e ∈ s ∧ k ≤ e.1 := by
  induction s with
  | nil => simp
  | cons x r ih =>
    obtain ⟨hp, hd⟩ := (Store.wf_iff _).1 hs
    obtain ⟨hx, hp'⟩ := List.pairwise_cons.1 hp
    have ih := ih ((Store.wf_iff _).2 ⟨hp', fun y hy => hd y (List.mem_cons_of_mem _ hy)⟩)
    by_cases h : x.1 < k
    · rw [List.dropWhile_cons_of_pos (by simpa using h), ih, List.mem_cons]
      constructor
      · rintro ⟨h1, h2⟩
        exact ⟨Or.inr h1, h2⟩
      · rintro ⟨rfl | h1, h2⟩
        · omega
        · exact ⟨h1, h2⟩
    · rw [List.dropWhile_cons_of_neg (by simpa using h)]
      constructor
      · intro h1
        refine ⟨h1, ?_⟩
        rcases List.mem_cons.1 h1 with rfl | h1
        · omega
        · have := hx e h1; omega
      · exact fun h => h.1

/-- What a run of writes leaves in the list. -/
theorem Store.mem_putRun (s : Store α) (hs : Store.wf d s = true) (k : Nat) (vs : List α) (e : Nat × α) :
    e ∈ Store.putRun d s k vs ↔
      (e ∈ s ∧ (e.1 < k ∨ k + vs.length ≤ e.1)) ∨ (k ≤ e.1 ∧ vs[e.1 - k]? = some e.2 ∧ e.2 ≠ d) := by
  simp only [Store.putRun, List.mem_append, Store.mem_takeWhile s hs, Store.mem_dropWhile s hs, Store.mem_runEntries]
  tauto

/-- A run of writes keeps the canonical form. -/
theorem Store.wf_putRun (s : Store α) (hs : Store.wf d s = true) (k : Nat) (vs : List α) :
    Store.wf d (Store.putRun d s k vs) = true := by
  obtain ⟨hp, hd⟩ := (Store.wf_iff _).1 hs
  have hr := (Store.wf_iff _).1 (Store.wf_runEntries (d := d) k vs)
  refine (Store.wf_iff _).2 ⟨?_, fun e he => ?_⟩
  · refine List.pairwise_append.2 ⟨List.pairwise_append.2 ⟨hp.sublist (List.takeWhile_sublist _), hr.1, fun a ha b hb => ?_⟩,
      hp.sublist (List.dropWhile_sublist _), fun a ha b hb => ?_⟩
    · have h1 := ((Store.mem_takeWhile s hs k a).1 ha).2
      have h2 := (Store.runEntries_lt k vs b hb).1
      omega
    · have h2 := ((Store.mem_dropWhile s hs _ b).1 hb).2
      rcases List.mem_append.1 ha with ha | ha
      · have h1 := ((Store.mem_takeWhile s hs k a).1 ha).2
        omega
      · have h1 := (Store.runEntries_lt k vs a ha).2
        omega
  · rcases (Store.mem_putRun s hs k vs e).1 he with ⟨h, -⟩ | ⟨-, -, h⟩
    · exact hd e h
    · exact h

/-- A read after a run of writes. -/
theorem Store.get_putRun (s : Store α) (hs : Store.wf d s = true) (k : Nat) (vs : List α) (j : Nat) :
    Store.get d (Store.putRun d s k vs) j =
      if k ≤ j ∧ j < k + vs.length then vs.getD (j - k) d else Store.get d s j := by
  have hw := Store.wf_putRun s hs k vs
  split
  · rename_i h
    have hl : j - k < vs.length := by omega
    have hg : vs.getD (j - k) d = vs[j - k] := by simp [List.getD, hl]
    rw [hg]
    by_cases hv : vs[j - k] = d
    · rw [hv]
      refine Store.get_of_not_mem _ _ fun e he hj => ?_
      rcases (Store.mem_putRun s hs k vs e).1 he with ⟨-, h1⟩ | ⟨-, h1, h2⟩
      · omega
      · rw [hj, List.getElem?_eq_getElem hl] at h1
        exact h2 ((Option.some.inj h1).symm.trans hv)
    · exact Store.get_of_mem _ hw (j, vs[j - k])
        ((Store.mem_putRun s hs k vs _).2 (Or.inr ⟨h.1, List.getElem?_eq_getElem hl, hv⟩))
  · rename_i h
    refine Store.get_congr _ _ hw hs j fun v => ?_
    rw [Store.mem_putRun s hs]
    constructor
    · rintro (⟨h1, -⟩ | ⟨h1, h2, -⟩)
      · exact h1
      · obtain ⟨h3, -⟩ := List.getElem?_eq_some_iff.1 h2
        exact absurd ⟨h1, by simp at h3 ⊢; omega⟩ h
    · exact fun h1 => Or.inl ⟨h1, by simp only; omega⟩

/-- Removing a run keeps the canonical form. -/
theorem Store.wf_clearRun (s : Store α) (hs : Store.wf d s = true) (k n : Nat) : Store.wf d (Store.clearRun s k n) = true := by
  obtain ⟨hp, hd⟩ := (Store.wf_iff _).1 hs
  refine (Store.wf_iff _).2 ⟨List.pairwise_append.2 ⟨hp.sublist (List.takeWhile_sublist _),
    hp.sublist (List.dropWhile_sublist _), fun a ha b hb => ?_⟩, fun e he => ?_⟩
  · have h1 := (Store.mem_takeWhile s hs k a).1 ha
    have h2 := (Store.mem_dropWhile s hs (k + n) b).1 hb
    omega
  · rcases List.mem_append.1 he with h | h
    · exact hd e ((List.takeWhile_sublist _).subset h)
    · exact hd e ((List.dropWhile_sublist _).subset h)

/-- A read after a run was removed. -/
theorem Store.get_clearRun (s : Store α) (hs : Store.wf d s = true) (k n j : Nat) :
    Store.get d (Store.clearRun s k n) j = if k ≤ j ∧ j < k + n then d else Store.get d s j := by
  have hw := Store.wf_clearRun s hs k n
  have hm : ∀ e, e ∈ Store.clearRun s k n ↔ e ∈ s ∧ (e.1 < k ∨ k + n ≤ e.1) := fun e => by
    simp only [Store.clearRun, List.mem_append, Store.mem_takeWhile s hs, Store.mem_dropWhile s hs]
    tauto
  split
  · rename_i h
    exact Store.get_of_not_mem _ _ fun e he hj => by
      have := ((hm e).1 he).2
      omega
  · rename_i h
    exact Store.get_congr _ _ hw hs j fun v => by
      rw [hm]
      constructor
      · exact fun h => h.1
      · exact fun h1 => ⟨h1, by simp only; omega⟩

/-- Arrays in canonical form that read alike everywhere are equal. -/
theorem Store.ext_get (s t : Store α) (hs : Store.wf d s = true) (ht : Store.wf d t = true)
    (h : ∀ k, Store.get d s k = Store.get d t k) : s = t := by
  have hm : ∀ e, e ∈ s ↔ e ∈ t := fun e => by
    constructor
    · intro he
      by_contra hn
      have h1 := Store.get_of_mem s hs e he
      rw [h e.1] at h1
      by_cases hk : ∃ v, (e.1, v) ∈ t
      · obtain ⟨v, hv⟩ := hk
        rw [Store.get_of_mem t ht _ hv] at h1
        exact hn ((Prod.ext rfl h1 : (e.1, v) = e) ▸ hv)
      · rw [Store.get_of_not_mem t e.1 fun x hx hxe => hk ⟨x.2, hxe ▸ hx⟩] at h1
        exact ((Store.wf_iff s).1 hs).2 e he h1.symm
    · intro he
      by_contra hn
      have h1 := Store.get_of_mem t ht e he
      rw [← h e.1] at h1
      by_cases hk : ∃ v, (e.1, v) ∈ s
      · obtain ⟨v, hv⟩ := hk
        rw [Store.get_of_mem s hs _ hv] at h1
        exact hn ((Prod.ext rfl h1 : (e.1, v) = e) ▸ hv)
      · rw [Store.get_of_not_mem s e.1 fun x hx hxe => hk ⟨x.2, hxe ▸ hx⟩] at h1
        exact ((Store.wf_iff t).1 ht).2 e he h1.symm
  have hp := ((Store.wf_iff s).1 hs).1
  have hq := ((Store.wf_iff t).1 ht).1
  have nd : ∀ l : Store α, l.Pairwise (fun a b => a.1 < b.1) → l.Nodup := fun l hl =>
    hl.imp fun {a b} hab he => by rw [he] at hab; omega
  exact ((List.perm_ext_iff_of_nodup (nd s hp) (nd t hq)).2 hm).eq_of_pairwise
    (fun a b _ _ h1 h2 => absurd (lt_trans h1 h2) (lt_irrefl _)) hp hq

/-- Reading a run reads each of its keys. -/
theorem Store.getRun_eq (n : Nat) (s : Store α) (hs : Store.wf d s = true) (k : Nat) :
    Store.getRun d n s k = (List.range n).map fun i => Store.get d s (k + i) := by
  have drop_get : ∀ (m j : Nat), m ≤ j → Store.get d (s.dropWhile fun e => e.1 < m) j = Store.get d s j := fun m j hj => by
    obtain ⟨hp, hd⟩ := (Store.wf_iff _).1 hs
    refine Store.get_congr _ _ ((Store.wf_iff _).2 ⟨hp.sublist (List.dropWhile_sublist _),
      fun e he => hd e ((List.dropWhile_sublist _).subset he)⟩) hs j fun v => ?_
    rw [Store.mem_dropWhile s hs]
    exact ⟨fun h => h.1, fun h => ⟨h, hj⟩⟩
  have wf_drop : ∀ m, Store.wf d (s.dropWhile fun e => e.1 < m) = true := fun m => by
    obtain ⟨hp, hd⟩ := (Store.wf_iff _).1 hs
    exact (Store.wf_iff _).2 ⟨hp.sublist (List.dropWhile_sublist _), fun e he => hd e ((List.dropWhile_sublist _).subset he)⟩
  induction n generalizing s k with
  | zero => rfl
  | succ n ih =>
    have hw := wf_drop k
    rw [Store.getRun, ih _ hw (k + 1) ?_ ?_, List.range_succ_eq_map, List.map_cons, List.map_map]
    · congr 1
      · rw [← drop_get k (k + 0) (by omega)]
        cases hr : s.dropWhile fun e => decide (e.1 < k) with
        | nil => rfl
        | cons x r =>
          obtain ⟨a, v⟩ := x
          have hx : k ≤ a := ((Store.mem_dropWhile s hs k (a, v)).1 (hr ▸ List.mem_cons_self ..)).2
          simp only [Store.get, Nat.add_zero]
          by_cases h : a = k
          · rw [if_pos h, if_pos h]
          · rw [if_neg h, if_neg h, Store.get_of_not_mem]
            intro e he
            have hw' := (Store.wf_iff _).1 (hr ▸ hw)
            have := (List.pairwise_cons.1 hw'.1).1 e he
            simp only at this
            omega
      · refine List.map_congr_left fun i _ => ?_
        rw [drop_get k _ (by omega)]
        simp only [Function.comp]
        congr 1
        omega
    · intro m j hj
      obtain ⟨hp, hd⟩ := (Store.wf_iff _).1 hw
      refine Store.get_congr _ _ ((Store.wf_iff _).2 ⟨hp.sublist (List.dropWhile_sublist _),
        fun e he => hd e ((List.dropWhile_sublist _).subset he)⟩) hw j fun v => ?_
      rw [Store.mem_dropWhile _ hw]
      exact ⟨fun h => h.1, fun h => ⟨h, hj⟩⟩
    · intro m
      obtain ⟨hp, hd⟩ := (Store.wf_iff _).1 hw
      exact (Store.wf_iff _).2 ⟨hp.sublist (List.dropWhile_sublist _),
        fun e he => hd e ((List.dropWhile_sublist _).subset he)⟩

end

end Sys2Proof.Machine
end

