-- ==== Sys2Proof/Laws/Wf.lean ====
section
/-! SUPPORT. Every operation that writes memory keeps the canonical form of every memory. An operation that writes none
keeps it because it keeps the memories (Laws/Kept.lean). -/
namespace Sys2Proof.Machine

/-- The canonical form, said of what `kept` keeps. -/
def KeptWf (x : Nat × BitVec 17 × Store Byte × Store Byte × Store Byte × Store Word) : Prop :=
  Store.wf 0 x.2.2.1 = true ∧ Store.wf 0 x.2.2.2.1 = true ∧ Store.wf 0 x.2.2.2.2.1 = true ∧
    Store.wf (0 : Word) x.2.2.2.2.2 = true

theorem memoryWf_iff (s : State) : s.memoryWf ↔ KeptWf (s.kept []) := by
  simp [State.memoryWf, Memory.wf, KeptWf, State.kept, Space.cut]

@[simp] theorem keptWf_ite (c : Prop) [Decidable c] (a b : Nat × BitVec 17 × Store Byte × Store Byte × Store Byte × Store Word)
    (ha : KeptWf a) (hb : KeptWf b) : KeptWf (if c then a else b) := by
  split
  · exact ha
  · exact hb

theorem keptWf_foldl {α : Type} (f : State → α → State) (h : ∀ s x, KeptWf (s.kept []) → KeptWf ((f s x).kept []))
    (l : List α) (s : State) (hs : KeptWf (s.kept [])) : KeptWf ((l.foldl f s).kept []) := by
  induction l generalizing s with
  | nil => exact hs
  | cons x r ih => exact ih _ (h s x hs)

@[simp] theorem State.writeScratch_wf (s : State) (core o : Nat) (bs : List Byte) (hs : KeptWf (s.kept [])) :
    KeptWf ((State.writeScratch s core o bs).kept []) := by
  obtain ⟨h1, h2, h3, h4⟩ := (memoryWf_iff s).2 hs
  exact (memoryWf_iff _).1 ⟨h1, h2, Store.wf_putRun _ h3 .., h4⟩

@[simp] theorem State.writeHbm_wf (s : State) (pa : Nat) (bs : List Byte) (hs : KeptWf (s.kept [])) :
    KeptWf ((State.writeHbm s pa bs).kept []) := by
  obtain ⟨h1, h2, h3, h4⟩ := (memoryWf_iff s).2 hs
  exact (memoryWf_iff _).1 ⟨Store.wf_putRun _ h1 .., h2, h3, h4⟩

@[simp] theorem State.writeHost_wf (s : State) (a : Nat) (bs : List Byte) (hs : KeptWf (s.kept [])) :
    KeptWf ((State.writeHost s a bs).kept []) := by
  obtain ⟨h1, h2, h3, h4⟩ := (memoryWf_iff s).2 hs
  exact (memoryWf_iff _).1 ⟨h1, Store.wf_putRun _ h2 .., h3, h4⟩

@[simp] theorem State.storeBytes_wf (s : State) (g : GangRef) (core o : Nat) (bs : List Byte) (hs : KeptWf (s.kept [])) :
    KeptWf ((State.storeBytes s g core o bs).kept []) := by
  unfold State.storeBytes; (simp (maxDischargeDepth := 6) [hs]; done)

@[simp] theorem State.storeAcc_wf (s : State) (op : ScratchAcc) (hs : KeptWf (s.kept [])) :
    KeptWf ((State.storeAcc s op).kept []) := by
  refine keptWf_foldl _ (fun s l h => ?_) _ _ hs
  simp [h]

@[simp] theorem State.atomicAcc_wf (s : State) (op : ScratchAcc) (hs : KeptWf (s.kept [])) :
    KeptWf ((State.atomicAcc s op).1.kept []) := by
  have hf : ∀ (ls : List (Nat × Nat × Nat × Nat)) (a : State × List (Nat × Nat))
      (f : State × List (Nat × Nat) → Nat × Nat × Nat × Nat → State × List (Nat × Nat)),
      (∀ a l, KeptWf (a.1.kept []) → KeptWf ((f a l).1.kept [])) → KeptWf (a.1.kept []) →
        KeptWf ((ls.foldl f a).1.kept []) := by
    intro ls
    induction ls with
    | nil => intro a f _ h; exact h
    | cons x r ih => intro a f h ha; exact ih _ _ h (h _ _ ha)
  exact hf _ _ _ (fun a l h => State.storeBytes_wf a.1 op.g op.core l.2.1 _ h) hs

@[simp] theorem State.applyAtomic_wf (s : State) (o : GlobalOp) (l : LaneAcc) (hs : KeptWf (s.kept [])) :
    KeptWf ((State.applyAtomic s o l).2.kept []) := by
  unfold State.applyAtomic; (try dsimp only); (repeat' split) <;> first | exact hs | (simp (maxDischargeDepth := 6) [*]; done)

@[simp] theorem State.performStore_wf (s : State) (o : GlobalOp) (l : LaneAcc) (hs : KeptWf (s.kept [])) :
    KeptWf ((State.performStore s o l).kept []) := by
  unfold State.performStore; (try dsimp only); (repeat' split) <;> (simp (maxDischargeDepth := 6) [*]; done)

@[simp] theorem State.performCore_wf (s : State) (core : Nat) (hs : KeptWf (s.kept [])) :
    KeptWf ((State.performCore s core).kept []) := by
  exact keptWf_foldl _ (fun s e h => State.performStore_wf _ _ _ h) _ _ hs

@[simp] theorem State.writeD_wf (s : State) (c : EngCmd) (b : MmaBody) (k : PassKind) (first n : Nat) (hs : KeptWf (s.kept [])) :
    KeptWf ((State.writeD s c b k first n).kept []) := by
  unfold State.writeD
  dsimp only
  split
  · rw [State.modTeam_kept]
    obtain ⟨h1, h2, h3, h4⟩ := (memoryWf_iff s).2 hs
    exact (memoryWf_iff _).1 ⟨h1, h2, h3, Store.wf_setAll _ h4 _⟩
  · exact keptWf_foldl _ (fun s e h => by simp [h]) _ _ (by simp [hs])
  · simp [hs]

@[simp] theorem State.writePart_wf (s : State) (c : EngCmd) (b : MmaBody) (k : PassKind) (hs : KeptWf (s.kept [])) :
    KeptWf ((State.writePart s c b k).kept []) := by
  unfold State.writePart; (try dsimp only); (repeat' split) <;> first | exact hs | (simp (maxDischargeDepth := 6) [*]; done)

@[simp] theorem State.setTileByte_wf (s : State) (cluster n a : Nat) (v : Byte) (hs : KeptWf (s.kept [])) :
    KeptWf ((State.setTileByte s cluster n a v).kept []) := by
  obtain ⟨h1, h2, h3, h4⟩ := (memoryWf_iff s).2 hs
  exact (memoryWf_iff _).1 ⟨h1, h2, h3, Store.wf_set _ h4 ..⟩

@[simp] theorem State.storePieces_wf (s : State) (c : EngCmd) (b : XcpBody) (r : CopyRow) (row : Nat) (qs : List Nat) (hs : KeptWf (s.kept [])) :
    KeptWf ((State.storePieces s c b r row qs).kept []) := by
  unfold State.storePieces
  refine keptWf_foldl _ (fun s e h => ?_) _ _ ?_
  · split <;> simp [h]
  · split <;> exact hs

@[simp] theorem State.beatWrite_wf (s : State) (id place q : Nat) (hs : KeptWf (s.kept [])) :
    KeptWf ((State.beatWrite s id place q).kept []) := by
  unfold State.beatWrite
  split
  · exact hs
  · split
    · split
      · exact hs
      · dsimp only
        split
        · simp [hs]
        · rw [State.wrote_kept]
          exact keptWf_foldl _ (fun s e h => State.writeHbm_wf _ _ _ h) _ _ (by rw [State.beatStack_kept]; exact hs)
    · exact hs

@[simp] theorem State.hostPart_wf (s : State) (c : EngCmd) (b : XcpBody) (r : CopyRow) (place : Nat) (write : Bool) (hs : KeptWf (s.kept [])) :
    KeptWf ((State.hostPart s c b r place write).kept []) := by
  unfold State.hostPart
  dsimp only
  split
  · rw [State.modCmd_kept]
    exact keptWf_foldl _ (fun s q h => keptWf_foldl _ (fun s e h => by simp [h]) _ _ h) _ _ hs
  · simp [hs]

@[simp] theorem State.postEntry_wf (s : State) (r : Nat) (bytes : List Byte) (d : AckTo) (hs : KeptWf (s.kept [])) :
    KeptWf ((State.postEntry s r bytes d).kept []) := by
  unfold State.postEntry; (simp (maxDischargeDepth := 6) [hs]; done)

@[simp] theorem drainRing_wf (x0 : Nat) (x1 : State) (x2 : Nat) (hs : KeptWf (x1.kept [])) : KeptWf ((drainRing x0 x1 x2).kept []) := by
  induction x0 generalizing x1 with
  | zero => exact hs
  | succ n ih =>
    unfold drainRing
    split
    · exact hs
    · dsimp only
      split
      · exact hs
      · split
        · exact ih _ (by simp [hs])
        · simp [hs]

@[simp] theorem State.landScratch_wf (s : State) (hid : Nat) (e : FlowEntry) (o cursor : Nat) (bs : List Byte) (hs : KeptWf (s.kept [])) :
    KeptWf ((State.landScratch s hid e o cursor bs).kept []) := by
  unfold State.landScratch; (try dsimp only); (repeat' split) <;> first | exact hs | (simp (maxDischargeDepth := 6) [*]; done)

@[simp] theorem State.flowLand_wf (s : State) (hid i cursor : Nat) (bs : List Byte) (hs : KeptWf (s.kept [])) :
    KeptWf ((State.flowLand s hid i cursor bs).kept []) := by
  unfold State.flowLand; (try dsimp only); (repeat' split) <;> first | exact hs | (simp (maxDischargeDepth := 6) [*]; done)

@[simp] theorem State.putPlace_wf (s : State) (hid : Nat) (e : FlowEntry) (p : FlowPlace) (bs : List Byte) (hs : KeptWf (s.kept [])) :
    KeptWf ((State.putPlace s hid e p bs).kept []) := by
  unfold State.putPlace; (try dsimp only); (repeat' split) <;> first | exact hs | (simp (maxDischargeDepth := 6) [*]; done)

@[simp] theorem State.clearTeam_wf (s : State) (t : Team) (hs : KeptWf (s.kept [])) :
    KeptWf ((State.clearTeam s t).kept []) := by
  obtain ⟨h1, h2, h3, h4⟩ := (memoryWf_iff s).2 hs
  exact (memoryWf_iff _).1 ⟨h1, h2, Store.wf_clearRun _ h3 .., Store.wf_clearRun _ h4 ..⟩

@[simp] theorem State.admitHeat_wf (s : State) (q : Nat) (origin : Origin) (r : Record) (clusters : List Nat) (a : Nat) (args : List Word) (hs : KeptWf (s.kept [])) :
    KeptWf ((State.admitHeat s q origin r clusters a args).kept []) := by
  unfold State.admitHeat
  dsimp only
  have ht : ∀ (s : State) (ts : List Team), KeptWf (s.kept []) → KeptWf ((ts.foldl (fun s t => s.clearTeam t) s).kept []) :=
    fun s ts h => keptWf_foldl _ (fun s t h => by simp [h]) _ _ h
  (repeat' split) <;> (simp only [State.push_kept, State.startFlows_kept, State.initTrigger_kept, State.armBanks_kept,
    State.tick_kept, State.modQueue_kept, State.landingOwners_kept]; exact ht _ _ hs)

@[simp] theorem State.writeLoc_wf (s : State) (dev : Bool) (a : Nat) (bs : List Byte) (hs : KeptWf (s.kept [])) :
    KeptWf ((State.writeLoc s dev a bs).kept []) := by
  unfold State.writeLoc; (simp (maxDischargeDepth := 6) [hs]; done)

@[simp] theorem State.writeCompletion_wf (s : State) (q entry : Nat) (irq : Bool) (c : Completion) (hs : KeptWf (s.kept [])) :
    KeptWf ((State.writeCompletion s q entry irq c).kept []) := by
  unfold State.writeCompletion; (simp (maxDischargeDepth := 6) [hs]; done)

@[simp] theorem State.writeNotice_wf (s : State) (q : Nat) (irq : Bool) (c : Completion) (hs : KeptWf (s.kept [])) :
    KeptWf ((State.writeNotice s q irq c).kept []) := by
  unfold State.writeNotice; (simp (maxDischargeDepth := 6) [hs]; done)

@[simp] theorem State.writeImage_wf (s : State) (h : Heat) (hs : KeptWf (s.kept [])) :
    KeptWf ((State.writeImage s h).1.kept []) := by
  exact State.writeHbm_wf _ _ _ (State.writeHbm_wf _ _ _ (State.writeHbm_wf _ _ _ (State.writeHbm_wf _ _ _
    (State.writeHbm_wf _ _ _ (keptWf_foldl _ (fun s w h => State.writeHbm_wf _ _ _ h) _ _ hs)))))

@[simp] theorem State.restoreMemory_wf (s : State) (h : Heat) (hs : KeptWf (s.kept [])) :
    KeptWf ((State.restoreMemory s h).kept []) := by
  unfold State.restoreMemory
  split
  · exact hs
  · refine keptWf_foldl _ (fun s e h => ?_) _ _ (keptWf_foldl _ (fun s e h => ?_) _ _
      (keptWf_foldl _ (fun s e h => ?_) _ _ (keptWf_foldl _ (fun s e h => ?_) _ _ hs)))
    · split
      · obtain ⟨h1, h2, h3, h4⟩ := (memoryWf_iff s).2 h
        exact (memoryWf_iff _).1 ⟨h1, h2, h3, Store.wf_putRun _ h4 ..⟩
      · exact h
    · split <;> simp [h]
    · simp [h]
    · simp [h]

@[simp] theorem State.logTrap_wf (s : State) (h : Heat) (hs : KeptWf (s.kept [])) :
    KeptWf ((State.logTrap s h).kept []) := by
  unfold State.logTrap
  dsimp only
  split
  · exact State.writeHbm_wf _ _ _ hs
  · exact hs

@[simp] theorem State.closeTrap_wf (s : State) (hid : Nat) (hs : KeptWf (s.kept [])) :
    KeptWf ((State.closeTrap s hid).kept []) := by
  unfold State.closeTrap
  split
  · exact hs
  · split
    · exact hs
    · dsimp only
      split <;> exact State.logTrap_wf _ _ hs

@[simp] theorem State.fatalDump_wf (s : State) (cause : Nat) (hs : KeptWf (s.kept [])) :
    KeptWf ((State.fatalDump s cause).kept []) := by
  unfold State.fatalDump
  dsimp only
  change KeptWf ((State.tellHalted _ _ _).kept [])
  rw [State.tellHalted_kept]
  refine State.writeHbm_wf _ _ _ ?_
  exact keptWf_foldl _ (fun s h hk => by rw [State.abortHeat_kept]; exact hk) _ _ hs

@[simp] theorem State.raiseFatal_wf (s : State) (cause : Nat) (hs : KeptWf (s.kept [])) :
    KeptWf ((State.raiseFatal s cause).kept []) := by
  unfold State.raiseFatal; (try dsimp only); (repeat' split) <;> (simp (maxDischargeDepth := 6) [*]; done)

@[simp] theorem State.actPolicy_wf (s : State) (h : Heat) (hs : KeptWf (s.kept [])) :
    KeptWf ((State.actPolicy s h).kept []) := by
  unfold State.actPolicy; (try dsimp only); (repeat' split) <;> first | exact hs | (simp (maxDischargeDepth := 6) [*]; done)

@[simp] theorem State.restartTeam_wf (s : State) (h : Heat) (ti : Nat) (hs : KeptWf (s.kept [])) :
    KeptWf ((State.restartTeam s h ti).kept []) := by
  unfold State.restartTeam; (try dsimp only); (repeat' split) <;> first | exact hs | (simp (maxDischargeDepth := 6) [*]; done)

@[simp] theorem State.missAnchor_wf (s : State) (h : Heat) (hs : KeptWf (s.kept [])) :
    KeptWf ((State.missAnchor s h).kept []) := by
  unfold State.missAnchor; (try dsimp only); (repeat' split) <;> first | exact hs | (simp (maxDischargeDepth := 6) [*]; done)

@[simp] theorem State.restoreHeat_wf (s : State) (h : Heat) (pages : List (List Page)) (hs : KeptWf (s.kept [])) :
    KeptWf ((State.restoreHeat s h pages).kept []) := by
  unfold State.restoreHeat
  dsimp only
  rw [State.beginHalt_kept, State.thawHeat_kept, State.modHeat_kept]
  refine keptWf_foldl _ (fun s ti h => State.restartTeam_wf _ _ _ h) _ _ ?_
  rw [State.modHeat_kept]
  split
  · rw [State.bringBack_kept]; exact State.restoreMemory_wf _ _ hs
  · exact hs

@[simp] theorem State.resumeShifted_wf (s : State) (h : Heat) (d : Nat) (hs : KeptWf (s.kept [])) :
    KeptWf ((State.resumeShifted s h d).kept []) := by
  unfold State.resumeShifted; (try dsimp only); (repeat' split) <;> first | exact hs | (simp (maxDischargeDepth := 6) [*]; done)

@[simp] theorem State.closeIndirect_wf (s : State) (q entry : Nat) (hs : KeptWf (s.kept [])) :
    KeptWf ((State.closeIndirect s q entry).kept []) := by
  unfold State.closeIndirect; (try dsimp only); (repeat' split) <;> first | exact hs | (simp (maxDischargeDepth := 6) [*]; done)

@[simp] theorem State.completeCommand_wf (s : State) (q entry : Nat) (sub : Option Nat) (r : Completion) (hs : KeptWf (s.kept [])) :
    KeptWf ((State.completeCommand s q entry sub r).kept []) := by
  unfold State.completeCommand; cases sub <;> simp [hs]

@[simp] theorem State.badCommand_wf (s : State) (q : Nat) (c : Command) (cause kind : Nat) (hs : KeptWf (s.kept [])) :
    KeptWf ((State.badCommand s q c cause kind).kept []) := by
  unfold State.badCommand; cases c.sub <;> simp [hs]

@[simp] theorem State.finishGraph_wf (s : State) (q : Nat) (g : Graph) (hs : KeptWf (s.kept [])) :
    KeptWf ((State.finishGraph s q g).kept []) := by
  unfold State.finishGraph; (simp (maxDischargeDepth := 6) [hs]; done)

@[simp] theorem State.walkGraph_wf (s : State) (q : Nat) (hs : KeptWf (s.kept [])) :
    KeptWf ((State.walkGraph s q).kept []) := by
  unfold State.walkGraph
  split
  · exact hs
  · split
    · split <;> simp [hs]
    · refine keptWf_foldl _ (fun s e h => ?_) _ _ hs
      dsimp only
      repeat' split
      all_goals simp [h]

@[simp] theorem State.stopGraph_wf (s : State) (q cause : Nat) (hs : KeptWf (s.kept [])) :
    KeptWf ((State.stopGraph s q cause).kept []) := by
  unfold State.stopGraph; (simp (maxDischargeDepth := 6) [hs]; done)

@[simp] theorem State.graphFault_wf (s : State) (q cause : Nat) (hs : KeptWf (s.kept [])) :
    KeptWf ((State.graphFault s q cause).kept []) := by
  unfold State.graphFault; (try dsimp only); (repeat' split) <;> first | exact hs | (simp (maxDischargeDepth := 6) [*]; done)

@[simp] theorem State.nodeDone_wf (s : State) (q i : Nat) (hs : KeptWf (s.kept [])) :
    KeptWf ((State.nodeDone s q i).kept []) := by
  unfold State.nodeDone; (try dsimp only); (repeat' split) <;> first | exact hs | (simp (maxDischargeDepth := 6) [*]; done)

@[simp] theorem State.copyPiece_wf (s : State) (q i : Nat) (r : NodeRun) (hs : KeptWf (s.kept [])) :
    KeptWf ((State.copyPiece s q i r).kept []) := by
  unfold State.copyPiece
  dsimp only
  generalize (if r.held = [] then stackOf _ else _) = k
  have hk : KeptWf ((s.stackUse k).2.kept []) := by rw [State.stackUse_kept]; exact hs
  split
  · rw [State.push_kept]; exact hs
  · split
    · exact State.graphFault_wf _ _ _ (by simpa using hk)
    · split
      · split <;> simpa using hs
      · rw [State.push_kept, State.modNode_kept]
        exact State.writeHbm_wf _ _ _ hk

@[simp] theorem State.rejectHead_wf (s : State) (q : Nat) (h : Head) (cause : Nat) (hs : KeptWf (s.kept [])) :
    KeptWf ((State.rejectHead s q h cause).kept []) := by
  unfold State.rejectHead; (try dsimp only); (repeat' split) <;> first | exact hs | (simp (maxDischargeDepth := 6) [*]; done)

@[simp] theorem State.admitHead_wf (s : State) (q : Nat) (h : Head) (cl : List Nat) (a : Nat) (hs : KeptWf (s.kept [])) :
    KeptWf ((State.admitHead s q h cl a).kept []) := by
  unfold State.admitHead; (try dsimp only); (repeat' split) <;> (simp (maxDischargeDepth := 6) [*]; done)

@[simp] theorem State.dropMissed_wf (s : State) (hs : KeptWf (s.kept [])) :
    KeptWf ((State.dropMissed s).kept []) := by
  refine keptWf_foldl _ (fun s e h => ?_) _ _ hs
  split
  · exact h
  · split <;> simp [h]

@[simp] theorem State.arbitrate_wf (s : State) (hs : KeptWf (s.kept [])) :
    KeptWf ((State.arbitrate s).kept []) := by
  unfold State.arbitrate; (try dsimp only); (repeat' split) <;> (simp (maxDischargeDepth := 6) [*]; done)

end Sys2Proof.Machine
end

