-- ==== Sys2Proof/Laws/Issue.lean ====
section
/-! SUPPORT. What the shared ways of issuing answer for an instruction that breaks nothing. -/
namespace Sys2Proof.Machine

theorem State.push_awaits (s : State) (c r : Nat) (e : Ev) : (s.push c r e).awaits c e := by
  refine ⟨_, (State.mem_pushSub ..).2 (.inl rfl), rfl, rfl⟩

theorem State.push_awaits' (s : State) (c c' r : Nat) (e : Ev) (h : c' = c) : (s.push c' r e).awaits c e := h ▸ State.push_awaits ..

@[simp] theorem LCtx.commit_now (c : LCtx) (s : State) (i w L) : (c.commit s i w L).now = s.now := by
  have := LCtx.commit_kept [] c s i w L
  exact congrArg (·.1) this

@[simp] theorem UCtx.commit_now (c : UCtx) (s : State) (i L) : (c.commit s i L).now = s.now := by
  have := UCtx.commit_kept [] c s i L
  exact congrArg (·.1) this

theorem landing_writes (c : LCtx) (w : LaneWord) (i : Instr) (f : Nat → Word) :
    LandsWord (c.landing w i ((lanesOf c.active).map fun l => (l, f l))) c w f := by
  refine ⟨?_, ⟨rfl, rfl, rfl⟩, ?_⟩
  · simp only [LCtx.landing, List.map_map, List.flatMap]; rfl
  · simp only [LCtx.landing]
    split
    · congr 3
      refine List.map_congr_left fun l hl => ?_
      have hl : l < 32 := by simpa using hl
      rw [List.find?_map]
      cases ha : c.active.getLsbD l with
      | true =>
        have : List.find? ((fun e => e.1 == l) ∘ fun l => (l, f l)) (lanesOf c.active) = some l := by
          have hm : l ∈ lanesOf c.active := by simp [lanesOf, hl, ha]
          cases h : List.find? ((fun e : Nat × Word => e.1 == l) ∘ fun l => (l, f l)) (lanesOf c.active) with
          | none =>
            rw [List.find?_eq_none] at h
            exact absurd (beq_self_eq_true l) (h l hm)
          | some x =>
            have := List.find?_some h
            simp only [Function.comp, beq_iff_eq] at this
            rw [this]
        rw [this]; simp
      | false =>
        have : List.find? ((fun e => e.1 == l) ∘ fun l => (l, f l)) (lanesOf c.active) = none := by
          rw [List.find?_eq_none]
          intro x hx
          simp [lanesOf] at hx
          simp only [Function.comp, beq_iff_eq]
          rintro rfl
          simp [ha] at hx
        rw [this]; simp
    · rfl

theorem landing_congr (c : LCtx) (w : LaneWord) (i : Instr) (f g : Nat → Word) (h : ∀ l, l < 32 → f l = g l) :
    (lanesOf c.active).map (fun l => (l, f l)) = (lanesOf c.active).map fun l => (l, g l) := by
  refine List.map_congr_left fun l hl => ?_
  have : l < 32 := by simp [lanesOf] at hl; exact hl.1
  rw [h l this]

theorem gives_of_compute {i : Instr} {w : LaneWord} {s : State} {c : LCtx} {L : Nat} {f : Nat → Word} (g : LCtx → Nat → Word)
    (he : exec i s = laneCompute i w s L g) (ho : laneOwn i s c = []) (hc : LaneClear i w s c)
    (h : ∀ l, l < 32 → g c l = f l) : LaneGives i w s c L f := by
  obtain ⟨_, h2, h3⟩ := hc
  rw [ho] at h3
  rw [LaneGives, he, laneCompute_clear i w s L g c h2 h3]
  refine ⟨_, c.landing w i ((lanesOf c.active).map fun l => (l, g c l)), rfl,
    laneIssued_of_commit i w L h2 (by simp) (by simp) (by simp), ?_, ?_, rfl⟩
  · rw [LCtx.commit_now]; exact State.push_awaits ..
  · rw [landing_congr c w i (g c) f h]; exact landing_writes ..

theorem issue_lane {i : Instr} {w : LaneWord} {s : State} {c : LCtx} {L : LCtx → Nat} {act : LCtx → State → State}
    (he : exec i s = issueLane i w s L (laneOwn i s) act) (hc : LaneClear i w s c) :
    exec i s = .next (act c (c.commit s i w (L c))) := by
  rw [he]; exact issueLane_clear i w s _ _ _ c hc.2.1 hc.2.2

theorem issue_uni {i : Instr} {s : State} {c : UCtx} {L : Nat} {act : UCtx → State → State}
    (he : exec i s = issueUni i s L (coxOwn i s) act) (hc : CoxClear i s c) :
    exec i s = .next (act c (c.commit s i L)) := by
  rw [he]; exact issueUni_clear i s _ _ _ c hc.2.2.1 hc.2.2.2.1 hc.2.2.2.2

theorem gives_of_issue {i : Instr} {w : LaneWord} {s : State} {c : LCtx} {L : Nat} {f : Nat → Word} (g : LCtx → Nat → Word)
    (he : exec i s = issueLane i w s (fun _ => L) (laneOwn i s) fun c s => s.push (s.now + L) 10
      (.laneResult c.ref (c.landing w i ((lanesOf c.active).map fun l => (l, g c l))))) (hc : LaneClear i w s c)
    (h : ∀ l, l < 32 → g c l = f l) : LaneGives i w s c L f := by
  rw [LaneGives, issue_lane he hc]
  refine ⟨_, c.landing w i ((lanesOf c.active).map fun l => (l, g c l)), rfl,
    laneIssued_of_commit i w L hc.2.1 (by simp) (by simp) (by simp), ?_, ?_, rfl⟩
  · rw [LCtx.commit_now]; exact State.push_awaits ..
  · rw [landing_congr c w i (g c) f h]; exact landing_writes ..

theorem gives_of_uni {i : Instr} {s : State} {c : UCtx} {L : Nat} {l : CoxLanding} (g : UCtx → CoxLanding)
    (he : exec i s = issueUni i s L (coxOwn i s) fun c s => s.push (s.now + L) 10 (.coxResult c.ref (g c)))
    (hc : CoxClear i s c) (h : g c = l) : CoxGives i s c L l := by
  obtain ⟨_, _, h2, h3, h4⟩ := hc
  rw [CoxGives, he, issueUni_clear i s L _ _ c h2 h3 h4]
  refine ⟨_, rfl, coxIssued_of_commit i L h2 (by simp) (by simp), by simp [sameFiles], ?_⟩
  rw [UCtx.commit_now, ← h]; exact State.push_awaits ..

end Sys2Proof.Machine
end

