-- ==== Sys2Proof/Laws/PerInstr.lean ====
section
/-! SUPPORT. How many words each instruction takes (R133, R136, R142): one lemma for each instruction. -/
namespace Sys2Proof.Laws.WordCount

/-- A well-formed instruction encodes into as many words as it takes: one or two, and two only in the lane set. -/
def Statement (i : Instr) : Prop :=
  wellFormed i = true → (encode i).length = i.words ∧ (i.words = 1 ∨ i.words = 2 ∧ isUniform i = false)

theorem lane_parts {i : Instr} {op : Nat} {w : LaneWord} (h : Parts.of i = some (.lane op w)) : Statement i := by
  intro _
  simp only [encode, Instr.words, isUniform, h, Option.map_some, Option.getD_some, Parts.words, List.length_cons]
  cases w.tail <;> simp

theorem ua_parts {i : Instr} {op : Nat} {w : UA} (h : Parts.of i = some (.ua op w)) : Statement i := by
  intro _
  simp [encode, Instr.words, h, Parts.words]

theorem ui_parts {i : Instr} {op : Nat} {w : UI} (h : Parts.of i = some (.ui op w)) : Statement i := by
  intro _
  simp [encode, Instr.words, h, Parts.words]

theorem ub_parts {i : Instr} {op : Nat} {w : UB} (h : Parts.of i = some (.ub op w)) : Statement i := by
  intro _
  simp [encode, Instr.words, h, Parts.words]

theorem ue_parts {i : Instr} {op : Nat} {w : UE} (h : Parts.of i = some (.ue op w)) : Statement i := by
  intro _
  simp [encode, Instr.words, h, Parts.words]

theorem raw_parts {i : Instr} {w : BitVec 32} (h : Parts.of i = some (.raw w)) : Statement i := by
  intro hw
  simp [wellFormed, staticBreaches, h] at hw

theorem no_parts {i : Instr} (h : Parts.of i = none) : Statement i := by
  intro hw
  simp [wellFormed, h] at hw

theorem addI32 (w : LaneWord) : Statement (.addI32 w) := lane_parts rfl
theorem subI32 (w : LaneWord) : Statement (.subI32 w) := lane_parts rfl
theorem mulI32 (w : LaneWord) : Statement (.mulI32 w) := lane_parts rfl
theorem madI32 (w : LaneWord) : Statement (.madI32 w) := lane_parts rfl
theorem minI32 (w : LaneWord) : Statement (.minI32 w) := lane_parts rfl
theorem maxI32 (w : LaneWord) : Statement (.maxI32 w) := lane_parts rfl
theorem minN32 (w : LaneWord) : Statement (.minN32 w) := lane_parts rfl
theorem maxN32 (w : LaneWord) : Statement (.maxN32 w) := lane_parts rfl
theorem absI32 (w : LaneWord) : Statement (.absI32 w) := lane_parts rfl
theorem negI32 (w : LaneWord) : Statement (.negI32 w) := lane_parts rfl
theorem mulhI32 (w : LaneWord) : Statement (.mulhI32 w) := lane_parts rfl
theorem mulhN32 (w : LaneWord) : Statement (.mulhN32 w) := lane_parts rfl
theorem addSatI32 (w : LaneWord) : Statement (.addSatI32 w) := lane_parts rfl
theorem subSatI32 (w : LaneWord) : Statement (.subSatI32 w) := lane_parts rfl
theorem addI64 (w : LaneWord) : Statement (.addI64 w) := lane_parts rfl
theorem subI64 (w : LaneWord) : Statement (.subI64 w) := lane_parts rfl
theorem laneAnd (w : LaneWord) : Statement (.laneAnd w) := lane_parts rfl
theorem laneOr (w : LaneWord) : Statement (.laneOr w) := lane_parts rfl
theorem laneXor (w : LaneWord) : Statement (.laneXor w) := lane_parts rfl
theorem laneAndn (w : LaneWord) : Statement (.laneAndn w) := lane_parts rfl
theorem laneShl (w : LaneWord) : Statement (.laneShl w) := lane_parts rfl
theorem laneShr (w : LaneWord) : Statement (.laneShr w) := lane_parts rfl
theorem laneSar (w : LaneWord) : Statement (.laneSar w) := lane_parts rfl
theorem laneRot (w : LaneWord) : Statement (.laneRot w) := lane_parts rfl
theorem laneBfx (w : LaneWord) : Statement (.laneBfx w) := lane_parts rfl
theorem laneBfi (w : LaneWord) : Statement (.laneBfi w) := lane_parts rfl
theorem lanePop (w : LaneWord) : Statement (.lanePop w) := lane_parts rfl
theorem laneClz (w : LaneWord) : Statement (.laneClz w) := lane_parts rfl
theorem laneBrev (w : LaneWord) : Statement (.laneBrev w) := lane_parts rfl
theorem sel (w : LaneWord) : Statement (.sel w) := lane_parts rfl
theorem laneMov (w : LaneWord) : Statement (.laneMov w) := lane_parts rfl
theorem movHi (w : LaneWord) : Statement (.movHi w) := lane_parts rfl
theorem addF32 (w : LaneWord) : Statement (.addF32 w) := lane_parts rfl
theorem subF32 (w : LaneWord) : Statement (.subF32 w) := lane_parts rfl
theorem mulF32 (w : LaneWord) : Statement (.mulF32 w) := lane_parts rfl
theorem fmaF32 (w : LaneWord) : Statement (.fmaF32 w) := lane_parts rfl
theorem minF32 (w : LaneWord) : Statement (.minF32 w) := lane_parts rfl
theorem maxF32 (w : LaneWord) : Statement (.maxF32 w) := lane_parts rfl
theorem absF32 (w : LaneWord) : Statement (.absF32 w) := lane_parts rfl
theorem negF32 (w : LaneWord) : Statement (.negF32 w) := lane_parts rfl
theorem rintF32 (w : LaneWord) : Statement (.rintF32 w) := lane_parts rfl
theorem cmpF32 (w : LaneWord) : Statement (.cmpF32 w) := lane_parts rfl
theorem cmpI32 (w : LaneWord) : Statement (.cmpI32 w) := lane_parts rfl
theorem cmpN32 (w : LaneWord) : Statement (.cmpN32 w) := lane_parts rfl
theorem addI16x2 (w : LaneWord) : Statement (.addI16x2 w) := lane_parts rfl
theorem subI16x2 (w : LaneWord) : Statement (.subI16x2 w) := lane_parts rfl
theorem addBf16x2 (w : LaneWord) : Statement (.addBf16x2 w) := lane_parts rfl
theorem subBf16x2 (w : LaneWord) : Statement (.subBf16x2 w) := lane_parts rfl
theorem mulBf16x2 (w : LaneWord) : Statement (.mulBf16x2 w) := lane_parts rfl
theorem fmaBf16x2 (w : LaneWord) : Statement (.fmaBf16x2 w) := lane_parts rfl
theorem minBf16x2 (w : LaneWord) : Statement (.minBf16x2 w) := lane_parts rfl
theorem maxBf16x2 (w : LaneWord) : Statement (.maxBf16x2 w) := lane_parts rfl
theorem addF16x2 (w : LaneWord) : Statement (.addF16x2 w) := lane_parts rfl
theorem subF16x2 (w : LaneWord) : Statement (.subF16x2 w) := lane_parts rfl
theorem mulF16x2 (w : LaneWord) : Statement (.mulF16x2 w) := lane_parts rfl
theorem fmaF16x2 (w : LaneWord) : Statement (.fmaF16x2 w) := lane_parts rfl
theorem minF16x2 (w : LaneWord) : Statement (.minF16x2 w) := lane_parts rfl
theorem maxF16x2 (w : LaneWord) : Statement (.maxF16x2 w) := lane_parts rfl
theorem rcpF32 (w : LaneWord) : Statement (.rcpF32 w) := lane_parts rfl
theorem rsqF32 (w : LaneWord) : Statement (.rsqF32 w) := lane_parts rfl
theorem sqrtF32 (w : LaneWord) : Statement (.sqrtF32 w) := lane_parts rfl
theorem ex2F32 (w : LaneWord) : Statement (.ex2F32 w) := lane_parts rfl
theorem lg2F32 (w : LaneWord) : Statement (.lg2F32 w) := lane_parts rfl
theorem sint (w : LaneWord) : Statement (.sint w) := lane_parts rfl
theorem cost (w : LaneWord) : Statement (.cost w) := lane_parts rfl
theorem cvt (w : LaneWord) : Statement (.cvt w) := lane_parts rfl
theorem dp4I8 (w : LaneWord) : Statement (.dp4I8 w) := lane_parts rfl
theorem dp4N8 (w : LaneWord) : Statement (.dp4N8 w) := lane_parts rfl
theorem unp5 (w : LaneWord) : Statement (.unp5 w) := lane_parts rfl
theorem pk5 (w : LaneWord) : Statement (.pk5 w) := lane_parts rfl
theorem tacc (w : LaneWord) : Statement (.tacc w) := lane_parts rfl
theorem mand (w : LaneWord) : Statement (.mand w) := lane_parts rfl
theorem mor (w : LaneWord) : Statement (.mor w) := lane_parts rfl
theorem mxor (w : LaneWord) : Statement (.mxor w) := lane_parts rfl
theorem mnot (w : LaneWord) : Statement (.mnot w) := lane_parts rfl
theorem mpop (w : LaneWord) : Statement (.mpop w) := lane_parts rfl
theorem shfl (w : LaneWord) : Statement (.shfl w) := lane_parts rfl
theorem qswz (w : LaneWord) : Statement (.qswz w) := lane_parts rfl
theorem qbc (w : LaneWord) : Statement (.qbc w) := lane_parts rfl
theorem qred (w : LaneWord) : Statement (.qred w) := lane_parts rfl
theorem xset (w : LaneWord) : Statement (.xset w) := lane_parts rfl
theorem xwin (w : LaneWord) : Statement (.xwin w) := lane_parts rfl
theorem snd (w : LaneWord) : Statement (.snd w) := lane_parts rfl
theorem rcv (w : LaneWord) : Statement (.rcv w) := lane_parts rfl
theorem lds (w : LaneWord) : Statement (.lds w) := lane_parts rfl
theorem sts (w : LaneWord) : Statement (.sts w) := lane_parts rfl
theorem ldt (w : LaneWord) : Statement (.ldt w) := lane_parts rfl
theorem ats (w : LaneWord) : Statement (.ats w) := lane_parts rfl
theorem ldg (w : LaneWord) : Statement (.ldg w) := lane_parts rfl
theorem stg (w : LaneWord) : Statement (.stg w) := lane_parts rfl
theorem ldgAcq (w : LaneWord) : Statement (.ldgAcq w) := lane_parts rfl
theorem stgRel (w : LaneWord) : Statement (.stgRel w) := lane_parts rfl
theorem atg (w : LaneWord) : Statement (.atg w) := lane_parts rfl
theorem casg (w : LaneWord) : Statement (.casg w) := lane_parts rfl
theorem redg (w : LaneWord) : Statement (.redg w) := lane_parts rfl
theorem fenGang (w : LaneWord) : Statement (.fenGang w) := lane_parts rfl
theorem fenPkg (w : LaneWord) : Statement (.fenPkg w) := lane_parts rfl
theorem laneOwn (w : LaneWord) : Statement (.laneOwn w) := lane_parts rfl
theorem bra (w : LaneWord) : Statement (.bra w) := lane_parts rfl
theorem laneCall (w : LaneWord) : Statement (.laneCall w) := lane_parts rfl
theorem laneRet (w : LaneWord) : Statement (.laneRet w) := lane_parts rfl
theorem part (w : LaneWord) : Statement (.part w) := lane_parts rfl
theorem rejoin (w : LaneWord) : Statement (.rejoin w) := lane_parts rfl
theorem spn (w : LaneWord) : Statement (.spn w) := lane_parts rfl
theorem spe (w : LaneWord) : Statement (.spe w) := lane_parts rfl
theorem arv (w : LaneWord) : Statement (.arv w) := lane_parts rfl
theorem laneBwt (w : LaneWord) : Statement (.laneBwt w) := lane_parts rfl
theorem laneTrap (w : LaneWord) : Statement (.laneTrap w) := lane_parts rfl
theorem laneEnd (w : LaneWord) : Statement (.laneEnd w) := lane_parts rfl
theorem laneNop (w : LaneWord) : Statement (.laneNop w) := lane_parts rfl
theorem coxAdd (w : UA) : Statement (.coxAdd w) := ua_parts rfl
theorem coxSub (w : UA) : Statement (.coxSub w) := ua_parts rfl
theorem coxMul (w : UA) : Statement (.coxMul w) := ua_parts rfl
theorem coxMulh (w : UA) : Statement (.coxMulh w) := ua_parts rfl
theorem coxMin (w : UA) : Statement (.coxMin w) := ua_parts rfl
theorem coxMax (w : UA) : Statement (.coxMax w) := ua_parts rfl
theorem coxAnd (w : UA) : Statement (.coxAnd w) := ua_parts rfl
theorem coxOr (w : UA) : Statement (.coxOr w) := ua_parts rfl
theorem coxXor (w : UA) : Statement (.coxXor w) := ua_parts rfl
theorem coxAndn (w : UA) : Statement (.coxAndn w) := ua_parts rfl
theorem coxShl (w : UA) : Statement (.coxShl w) := ua_parts rfl
theorem coxShr (w : UA) : Statement (.coxShr w) := ua_parts rfl
theorem coxSar (w : UA) : Statement (.coxSar w) := ua_parts rfl
theorem coxRot (w : UA) : Statement (.coxRot w) := ua_parts rfl
theorem coxBfx (w : UA) : Statement (.coxBfx w) := ua_parts rfl
theorem coxBfi (w : UA) : Statement (.coxBfi w) := ua_parts rfl
theorem addi (w : UI) : Statement (.addi w) := ui_parts rfl
theorem andi (w : UI) : Statement (.andi w) := ui_parts rfl
theorem ori (w : UI) : Statement (.ori w) := ui_parts rfl
theorem xori (w : UI) : Statement (.xori w) := ui_parts rfl
theorem shli (w : UI) : Statement (.shli w) := ui_parts rfl
theorem shri (w : UI) : Statement (.shri w) := ui_parts rfl
theorem sari (w : UI) : Statement (.sari w) := ui_parts rfl
theorem movi (w : UI) : Statement (.movi w) := ui_parts rfl
theorem ldhi (w : UI) : Statement (.ldhi w) := ui_parts rfl
theorem coxCmp (w : UA) : Statement (.coxCmp w) := ua_parts rfl
theorem cmpi (w : UI) : Statement (.cmpi w) := ui_parts rfl
theorem pand (w : UA) : Statement (.pand w) := ua_parts rfl
theorem por (w : UA) : Statement (.por w) := ua_parts rfl
theorem pnot (w : UA) : Statement (.pnot w) := ua_parts rfl
theorem csel (w : UA) : Statement (.csel w) := ua_parts rfl
theorem ormi (w : UI) : Statement (.ormi w) := ui_parts rfl
theorem jmp (w : UB) : Statement (.jmp w) := ub_parts rfl
theorem jp (w : UB) : Statement (.jp w) := ub_parts rfl
theorem loop (w : UB) : Statement (.loop w) := ub_parts rfl
theorem coxCall (w : UB) : Statement (.coxCall w) := ub_parts rfl
theorem coxRet (w : UB) : Statement (.coxRet w) := ub_parts rfl
theorem coxAddF32 (w : UA) : Statement (.coxAddF32 w) := ua_parts rfl
theorem coxSubF32 (w : UA) : Statement (.coxSubF32 w) := ua_parts rfl
theorem coxMulF32 (w : UA) : Statement (.coxMulF32 w) := ua_parts rfl
theorem coxFmaF32 (w : UA) : Statement (.coxFmaF32 w) := ua_parts rfl
theorem coxMinF32 (w : UA) : Statement (.coxMinF32 w) := ua_parts rfl
theorem coxMaxF32 (w : UA) : Statement (.coxMaxF32 w) := ua_parts rfl
theorem coxCvt (w : UA) : Statement (.coxCvt w) := ua_parts rfl
theorem coxPop (w : UA) : Statement (.coxPop w) := ua_parts rfl
theorem coxClz (w : UA) : Statement (.coxClz w) := ua_parts rfl
theorem coxBrev (w : UA) : Statement (.coxBrev w) := ua_parts rfl
theorem coxMov (w : UA) : Statement (.coxMov w) := ua_parts rfl
theorem coxAddI64 (w : UA) : Statement (.coxAddI64 w) := ua_parts rfl
theorem coxSubI64 (w : UA) : Statement (.coxSubI64 w) := ua_parts rfl
theorem rdtime (w : UA) : Statement (.rdtime w) := ua_parts rfl
theorem twait (w : UA) : Statement (.twait w) := ua_parts rfl
theorem csync (w : UA) : Statement (.csync w) := ua_parts rfl
theorem balloc (w : UA) : Statement (.balloc w) := ua_parts rfl
theorem bfree (w : UA) : Statement (.bfree w) := ua_parts rfl
theorem binit (w : UE) : Statement (.binit w) := ue_parts rfl
theorem barv (w : UA) : Statement (.barv w) := ua_parts rfl
theorem barvDecl (w : UA) : Statement (.barvDecl w) := ua_parts rfl
theorem coxBwt (w : UA) : Statement (.coxBwt w) := ua_parts rfl
theorem barm (w : UE) : Statement (.barm w) := ue_parts rfl
theorem srd (w : UI) : Statement (.srd w) := ui_parts rfl
theorem sysr (w : UI) : Statement (.sysr w) := ui_parts rfl
theorem sysw (w : UI) : Statement (.sysw w) := ui_parts rfl
theorem eret (w : UA) : Statement (.eret w) := ua_parts rfl
theorem coxTrap (w : UI) : Statement (.coxTrap w) := ui_parts rfl
theorem coxEnd (w : UA) : Statement (.coxEnd w) := ua_parts rfl
theorem coxNop (w : UA) : Statement (.coxNop w) := ua_parts rfl
theorem tload (w : UE) : Statement (.tload w) := ue_parts rfl
theorem tset (w : UE) : Statement (.tset w) := ue_parts rfl
theorem gset (w : UE) : Statement (.gset w) := ue_parts rfl
theorem gsetMem (w : UE) : Statement (.gsetMem w) := ue_parts rfl
theorem sseed (w : UA) : Statement (.sseed w) := ua_parts rfl
theorem nest (w : UE) : Statement (.nest w) := ue_parts rfl
theorem mma (w : UE) : Statement (.mma w) := ue_parts rfl
theorem xcp (w : UE) : Statement (.xcp w) := ue_parts rfl
theorem xfer (w : UE) : Statement (.xfer w) := ue_parts rfl
theorem lay (w : UE) : Statement (.lay w) := ue_parts rfl
theorem coxOwn (w : UE) : Statement (.coxOwn w) := ue_parts rfl
theorem lwr (w : UE) : Statement (.lwr w) := ue_parts rfl
theorem sig (w : UE) : Statement (.sig w) := ue_parts rfl
theorem hpost (w : UE) : Statement (.hpost w) := ue_parts rfl
theorem laneResult : Statement .laneResult := no_parts rfl
theorem coxResult : Statement .coxResult := no_parts rfl
theorem scratchStorePerform : Statement .scratchStorePerform := no_parts rfl
theorem scratchAtomicPerform : Statement .scratchAtomicPerform := no_parts rfl
theorem scratchLoadDelivery : Statement .scratchLoadDelivery := no_parts rfl
theorem ownerFlipOpen : Statement .ownerFlipOpen := no_parts rfl
theorem stackAccess : Statement .stackAccess := no_parts rfl
theorem globalPerform : Statement .globalPerform := no_parts rfl
theorem globalLoadDelivery : Statement .globalLoadDelivery := no_parts rfl
theorem globalStoreCompletion : Statement .globalStoreCompletion := no_parts rfl
theorem atomicResult : Statement .atomicResult := no_parts rfl
theorem atomicRepeat : Statement .atomicRepeat := no_parts rfl
theorem sndLanding : Statement .sndLanding := no_parts rfl
theorem landingNotReceived : Statement .landingNotReceived := no_parts rfl
theorem csyncSessionOpen : Statement .csyncSessionOpen := no_parts rfl
theorem spanEnd : Statement .spanEnd := no_parts rfl
theorem bwtResume : Statement .bwtResume := no_parts rfl
theorem rejoinMerge : Statement .rejoinMerge := no_parts rfl
theorem twaitDeadline : Statement .twaitDeadline := no_parts rfl
theorem coxBwtDeadline : Statement .coxBwtDeadline := no_parts rfl
theorem barmActionLaunch : Statement .barmActionLaunch := no_parts rfl
theorem graphRelease : Statement .graphRelease := no_parts rfl
theorem messageAccepted : Statement .messageAccepted := no_parts rfl
theorem localSignalApply : Statement .localSignalApply := no_parts rfl
theorem hostRingEntryVisible : Statement .hostRingEntryVisible := no_parts rfl
theorem coalesceTimer : Statement .coalesceTimer := no_parts rfl
theorem hostRingCiWrite : Statement .hostRingCiWrite := no_parts rfl
theorem hostRingEnWrite : Statement .hostRingEnWrite := no_parts rfl
theorem engineCommandStart : Statement .engineCommandStart := no_parts rfl
theorem matrixRead : Statement .matrixRead := no_parts rfl
theorem matrixWrite : Statement .matrixWrite := no_parts rfl
theorem copyBeat : Statement .copyBeat := no_parts rfl
theorem copyWrite : Statement .copyWrite := no_parts rfl
theorem layoutBeat : Statement .layoutBeat := no_parts rfl
theorem layoutWrite : Statement .layoutWrite := no_parts rfl
theorem engineCompletion : Statement .engineCompletion := no_parts rfl
theorem tloadCompletion : Statement .tloadCompletion := no_parts rfl
theorem gsetMemCompletion : Statement .gsetMemCompletion := no_parts rfl
theorem xferRecordRead : Statement .xferRecordRead := no_parts rfl
theorem collectiveFold : Statement .collectiveFold := no_parts rfl
theorem localMove : Statement .localMove := no_parts rfl
theorem bf16ImageWrite : Statement .bf16ImageWrite := no_parts rfl
theorem xferDone : Statement .xferDone := no_parts rfl
theorem hostBoundCheck : Statement .hostBoundCheck := no_parts rfl
theorem transmitRead : Statement .transmitRead := no_parts rfl
theorem scheduledFlitSend : Statement .scheduledFlitSend := no_parts rfl
theorem flitRelease : Statement .flitRelease := no_parts rfl
theorem flitLanding : Statement .flitLanding := no_parts rfl
theorem frameMarkerSend : Statement .frameMarkerSend := no_parts rfl
theorem frameMarkerArrival : Statement .frameMarkerArrival := no_parts rfl
theorem frameMarkerMiss : Statement .frameMarkerMiss := no_parts rfl
theorem unscheduledSend : Statement .unscheduledSend := no_parts rfl
theorem messageRelease : Statement .messageRelease := no_parts rfl
theorem launchMessage : Statement .launchMessage := no_parts rfl
theorem signalMessage : Statement .signalMessage := no_parts rfl
theorem bulkMessage : Statement .bulkMessage := no_parts rfl
theorem acknowledgement : Statement .acknowledgement := no_parts rfl
theorem negativeAcknowledgement : Statement .negativeAcknowledgement := no_parts rfl
theorem messageRetransmit : Statement .messageRetransmit := no_parts rfl
theorem sync : Statement .sync := no_parts rfl
theorem pdelayReq : Statement .pdelayReq := no_parts rfl
theorem pdelayResp : Statement .pdelayResp := no_parts rfl
theorem announce : Statement .announce := no_parts rfl
theorem halt : Statement .halt := no_parts rfl
theorem halted : Statement .halted := no_parts rfl
theorem resume : Statement .resume := no_parts rfl
theorem resumed : Statement .resumed := no_parts rfl
theorem exclude : Statement .exclude := no_parts rfl
theorem regattaHalt : Statement .regattaHalt := no_parts rfl
theorem haltedTimeout : Statement .haltedTimeout := no_parts rfl
theorem linkTrained : Statement .linkTrained := no_parts rfl
theorem linkTrainingLost : Statement .linkTrainingLost := no_parts rfl
theorem ptpLockLost : Statement .ptpLockLost := no_parts rfl
theorem podCounterLoad : Statement .podCounterLoad := no_parts rfl
theorem frequencyTrim : Statement .frequencyTrim := no_parts rfl
theorem refresh : Statement .refresh := no_parts rfl
theorem bankSwitchArm : Statement .bankSwitchArm := no_parts rfl
theorem bankSwitchCancel : Statement .bankSwitchCancel := no_parts rfl
theorem bankSwitchTx : Statement .bankSwitchTx := no_parts rfl
theorem bankSwitchRx : Statement .bankSwitchRx := no_parts rfl
theorem governorStep : Statement .governorStep := no_parts rfl
theorem thermalBudgetStep : Statement .thermalBudgetStep := no_parts rfl
theorem queuePiWrite : Statement .queuePiWrite := no_parts rfl
theorem queueEnWrite : Statement .queueEnWrite := no_parts rfl
theorem prefetch : Statement .prefetch := no_parts rfl
theorem commandNop : Statement .commandNop := no_parts rfl
theorem commandHeat : Statement .commandHeat := no_parts rfl
theorem commandGraph : Statement .commandGraph := no_parts rfl
theorem commandIndirect : Statement .commandIndirect := no_parts rfl
theorem arbiterStep : Statement .arbiterStep := no_parts rfl
theorem heatStart : Statement .heatStart := no_parts rfl
theorem armedTimeout : Statement .armedTimeout := no_parts rfl
theorem endCheck : Statement .endCheck := no_parts rfl
theorem heatCompletion : Statement .heatCompletion := no_parts rfl
theorem copyNode : Statement .copyNode := no_parts rfl
theorem copyNodeCompletion : Statement .copyNodeCompletion := no_parts rfl
theorem conditionalNode : Statement .conditionalNode := no_parts rfl
theorem graphEnd : Statement .graphEnd := no_parts rfl
theorem preemptEstimate : Statement .preemptEstimate := no_parts rfl
theorem preemptSave : Statement .preemptSave := no_parts rfl
theorem preemptDrain : Statement .preemptDrain := no_parts rfl
theorem preemptionHalt : Statement .preemptionHalt := no_parts rfl
theorem faultHalt : Statement .faultHalt := no_parts rfl
theorem quiesce : Statement .quiesce := no_parts rfl
theorem saveComplete : Statement .saveComplete := no_parts rfl
theorem handlerEntry : Statement .handlerEntry := no_parts rfl
theorem handlerTimeout : Statement .handlerTimeout := no_parts rfl
theorem restore : Statement .restore := no_parts rfl
theorem agentResume : Statement .agentResume := no_parts rfl
theorem revoke : Statement .revoke := no_parts rfl
theorem revocation : Statement .revocation := no_parts rfl
theorem policySet : Statement .policySet := no_parts rfl
theorem attestation : Statement .attestation := no_parts rfl
theorem commandLinkMessage : Statement .commandLinkMessage := no_parts rfl
theorem powerOnReset : Statement .powerOnReset := no_parts rfl
theorem firmwareVerify : Statement .firmwareVerify := no_parts rfl
theorem functionLevelReset : Statement .functionLevelReset := no_parts rfl
theorem hostMemoryAccess : Statement .hostMemoryAccess := no_parts rfl
theorem counterLatch : Statement .counterLatch := no_parts rfl
theorem dieOvertemp : Statement .dieOvertemp := no_parts rfl
theorem dieBridgeError : Statement .dieBridgeError := no_parts rfl
theorem firmwareWatchdog : Statement .firmwareWatchdog := no_parts rfl
theorem machineCheck : Statement .machineCheck := no_parts rfl
theorem registerWrite : Statement .registerWrite := no_parts rfl
theorem unassignedOpcode (w : BitVec 32) : Statement (.unassignedOpcode w) := raw_parts rfl
theorem preemptionRequestUnassigned : Statement .preemptionRequestUnassigned := no_parts rfl
theorem scrub : Statement .scrub := no_parts rfl
theorem hostLinkLost : Statement .hostLinkLost := no_parts rfl
theorem boundaryScan : Statement .boundaryScan := no_parts rfl
theorem faultLogLocation : Statement .faultLogLocation := no_parts rfl
theorem dumpArea : Statement .dumpArea := no_parts rfl
theorem pdelayReqSend : Statement .pdelayReqSend := no_parts rfl
theorem announceSend : Statement .announceSend := no_parts rfl
theorem layoutGenerationChange : Statement .layoutGenerationChange := no_parts rfl
theorem checkpointMove : Statement .checkpointMove := no_parts rfl

end Sys2Proof.Laws.WordCount
end

