-- ==== Sys2Proof/Tests/Slice0.lean ====
section
/-! SUPPORT. The model's own tests: a word written out from its encoding for every program instruction, ill-formed terms, the
results of single steps against values worked out by hand from the spec, and a witness of the hypotheses of every statement. -/
set_option Elab.async false
open Sys2Proof Sys2Proof.Machine

/-! ## Decoding -/

/-- Whether each word of a list decodes, on its own, to the instruction beside it. -/
def wordsDecode (rows : List (Nat × Instr)) : Bool := rows.all fun r => decodeTableWord 64 r.1 == some r.2

/-- Lane words without a tail (R136, R140, Tables 2, 5). -/
theorem test_decode_lane_words_0 :
    wordsDecode
      [(0x00041030, .addI32 ⟨2, 4, 6, 0, none⟩),
       (0x01041030, .subI32 ⟨2, 4, 6, 0, none⟩),
       (0x02041030, .mulI32 ⟨2, 4, 6, 0, none⟩),
       (0x04041030, .minI32 ⟨2, 4, 6, 0, none⟩),
       (0x05041030, .maxI32 ⟨2, 4, 6, 0, none⟩),
       (0x06041030, .minN32 ⟨2, 4, 6, 0, none⟩),
       (0x07041030, .maxN32 ⟨2, 4, 6, 0, none⟩),
       (0x08041380, .absI32 ⟨2, 4, 112, 0, none⟩),
       (0x09041380, .negI32 ⟨2, 4, 112, 0, none⟩),
       (0x0A041030, .mulhI32 ⟨2, 4, 6, 0, none⟩),
       (0x0B041030, .mulhN32 ⟨2, 4, 6, 0, none⟩),
       (0x0C041030, .addSatI32 ⟨2, 4, 6, 0, none⟩),
       (0x0D041030, .subSatI32 ⟨2, 4, 6, 0, none⟩),
       (0x0E041030, .addI64 ⟨2, 4, 6, 0, none⟩),
       (0x0F041030, .subI64 ⟨2, 4, 6, 0, none⟩),
       (0x10041030, .laneAnd ⟨2, 4, 6, 0, none⟩),
       (0x11041030, .laneOr ⟨2, 4, 6, 0, none⟩),
       (0x12041030, .laneXor ⟨2, 4, 6, 0, none⟩),
       (0x13041030, .laneAndn ⟨2, 4, 6, 0, none⟩),
       (0x14041030, .laneShl ⟨2, 4, 6, 0, none⟩),
       (0x15041030, .laneShr ⟨2, 4, 6, 0, none⟩),
       (0x16041030, .laneSar ⟨2, 4, 6, 0, none⟩),
       (0x17041030, .laneRot ⟨2, 4, 6, 0, none⟩),
       (0x1A041380, .lanePop ⟨2, 4, 112, 0, none⟩),
       (0x1B041380, .laneClz ⟨2, 4, 112, 0, none⟩),
       (0x1C041380, .laneBrev ⟨2, 4, 112, 0, none⟩)] = true := by decide +kernel

/-- Lane words without a tail (R136, R140, Tables 2, 5). -/
theorem test_decode_lane_words_1 :
    wordsDecode
      [(0x1E05C030, .laneMov ⟨2, 112, 6, 0, none⟩),
       (0x20041030, .addF32 ⟨2, 4, 6, 0, none⟩),
       (0x21041030, .subF32 ⟨2, 4, 6, 0, none⟩),
       (0x22041030, .mulF32 ⟨2, 4, 6, 0, none⟩),
       (0x24041030, .minF32 ⟨2, 4, 6, 0, none⟩),
       (0x25041030, .maxF32 ⟨2, 4, 6, 0, none⟩),
       (0x26041380, .absF32 ⟨2, 4, 112, 0, none⟩),
       (0x27041380, .negF32 ⟨2, 4, 112, 0, none⟩),
       (0x28041380, .rintF32 ⟨2, 4, 112, 0, none⟩),
       (0x2C041030, .addI16x2 ⟨2, 4, 6, 0, none⟩),
       (0x2D041030, .subI16x2 ⟨2, 4, 6, 0, none⟩),
       (0x30041030, .addBf16x2 ⟨2, 4, 6, 0, none⟩),
       (0x31041030, .subBf16x2 ⟨2, 4, 6, 0, none⟩),
       (0x32041030, .mulBf16x2 ⟨2, 4, 6, 0, none⟩),
       (0x34041030, .minBf16x2 ⟨2, 4, 6, 0, none⟩),
       (0x35041030, .maxBf16x2 ⟨2, 4, 6, 0, none⟩),
       (0x36041030, .addF16x2 ⟨2, 4, 6, 0, none⟩),
       (0x37041030, .subF16x2 ⟨2, 4, 6, 0, none⟩),
       (0x38041030, .mulF16x2 ⟨2, 4, 6, 0, none⟩),
       (0x3A041030, .minF16x2 ⟨2, 4, 6, 0, none⟩),
       (0x3B041030, .maxF16x2 ⟨2, 4, 6, 0, none⟩),
       (0x40041380, .rcpF32 ⟨2, 4, 112, 0, none⟩),
       (0x41041380, .rsqF32 ⟨2, 4, 112, 0, none⟩),
       (0x42041380, .sqrtF32 ⟨2, 4, 112, 0, none⟩),
       (0x43041380, .ex2F32 ⟨2, 4, 112, 0, none⟩),
       (0x44041380, .lg2F32 ⟨2, 4, 112, 0, none⟩)] = true := by decide +kernel

/-- Lane words without a tail (R136, R140, Tables 2, 5). -/
theorem test_decode_lane_words_2 :
    wordsDecode
      [(0x45041380, .sint ⟨2, 4, 112, 0, none⟩),
       (0x46041380, .cost ⟨2, 4, 112, 0, none⟩),
       (0x4C041030, .pk5 ⟨2, 4, 6, 0, none⟩),
       (0x50041030, .mand ⟨2, 4, 6, 0, none⟩),
       (0x51041030, .mor ⟨2, 4, 6, 0, none⟩),
       (0x52041030, .mxor ⟨2, 4, 6, 0, none⟩),
       (0x53041380, .mnot ⟨2, 4, 112, 0, none⟩),
       (0x54041380, .mpop ⟨2, 4, 112, 0, none⟩),
       (0x55041030, .shfl ⟨2, 4, 6, 0, none⟩),
       (0x56041030, .qswz ⟨2, 4, 6, 0, none⟩),
       (0x57041030, .qbc ⟨2, 4, 6, 0, none⟩),
       (0x58041380, .qred ⟨2, 4, 112, 0, none⟩),
       (0x59021380, .xset ⟨1, 4, 112, 0, none⟩),
       (0x5C05C380, .rcv ⟨2, 112, 112, 0, none⟩),
       (0x6BE1C380, .fenGang ⟨112, 112, 112, 0, none⟩),
       (0x72E1C380, .laneRet ⟨112, 112, 112, 0, none⟩),
       (0x73E01380, .part ⟨112, 4, 112, 0, none⟩),
       (0x74E1C380, .rejoin ⟨112, 112, 112, 0, none⟩),
       (0x76E1C380, .spe ⟨112, 112, 112, 0, none⟩),
       (0x77E01380, .arv ⟨112, 4, 112, 0, none⟩),
       (0x78E01380, .laneBwt ⟨112, 4, 112, 0, none⟩),
       (0x7AE1C380, .laneEnd ⟨112, 112, 112, 0, none⟩),
       (0x7BE1C380, .laneNop ⟨112, 112, 112, 0, none⟩)] = true := by decide +kernel

/-- Lane words with a tail, the tail in the upper half (R136, R137, Tables 2, 3, 5). -/
theorem test_decode_lane_tails_0 :
    wordsDecode
      [(0x1000000003041031, .madI32 ⟨2, 4, 6, 0, some 0x10000000⟩),
       (0xE00100A718041381, .laneBfx ⟨2, 4, 112, 0, some 0xE00100A7⟩),
       (0x1000000019041031, .laneBfi ⟨2, 4, 6, 0, some 0x10000000⟩),
       (0x100000001D041031, .sel ⟨2, 4, 6, 0, some 0x10000000⟩),
       (0xE101ABCD1E05C381, .movHi ⟨2, 112, 112, 0, some 0xE101ABCD⟩),
       (0x1020000023041031, .fmaF32 ⟨2, 4, 6, 0, some 0x10200000⟩),
       (0xE007000029041031, .cmpF32 ⟨2, 4, 6, 0, some 0xE0070000⟩),
       (0xE102FFFF2A041381, .cmpI32 ⟨2, 4, 112, 0, some 0xE102FFFF⟩),
       (0xE00500002B041031, .cmpN32 ⟨2, 4, 6, 0, some 0xE0050000⟩),
       (0x1000000033041031, .fmaBf16x2 ⟨2, 4, 6, 0, some 0x10000000⟩),
       (0x1000000039041031, .fmaF16x2 ⟨2, 4, 6, 0, some 0x10000000⟩),
       (0xE000010948041381, .cvt ⟨2, 4, 112, 0, some 0xE0000109⟩),
       (0x1010000049041031, .dp4I8 ⟨2, 4, 6, 0, some 0x10100000⟩),
       (0x100000004A041031, .dp4N8 ⟨2, 4, 6, 0, some 0x10000000⟩),
       (0xE000001D4B041381, .unp5 ⟨2, 4, 112, 0, some 0xE000001D⟩),
       (0x100000034D041031, .tacc ⟨2, 4, 6, 0, some 0x10000003⟩),
       (0xE000A0105A03C381, .xwin ⟨1, 112, 112, 0, some 0xE000A010⟩),
       (0xE00000035BE01381, .snd ⟨112, 4, 112, 0, some 0xE0000003⟩),
       (0xE061FFFC60041381, .lds ⟨2, 4, 112, 0, some 0xE061FFFC⟩),
       (0x1080001061E01381, .sts ⟨112, 4, 112, 0, some 0x10800010⟩),
       (0xE080000562041381, .ldt ⟨2, 4, 112, 0, some 0xE0800005⟩),
       (0x1098000063041381, .ats ⟨2, 4, 112, 0, some 0x10980000⟩),
       (0xE0C0000864041381, .ldg ⟨2, 4, 112, 0, some 0xE0C00008⟩),
       (0x1000000065E01381, .stg ⟨112, 4, 112, 0, some 0x10000000⟩),
       (0xE080000066041381, .ldgAcq ⟨2, 4, 112, 0, some 0xE0800000⟩),
       (0x1080000067E01381, .stgRel ⟨112, 4, 112, 0, some 0x10800000⟩)] = true := by decide +kernel

/-- Lane words with a tail, the tail in the upper half (R136, R137, Tables 2, 3, 5). -/
theorem test_decode_lane_tails_1 :
    wordsDecode
      [(0x1090000068041381, .atg ⟨2, 4, 112, 0, some 0x10900000⟩),
       (0x10C0000069041381, .casg ⟨2, 4, 112, 0, some 0x10C00000⟩),
       (0x109200006AE01381, .redg ⟨112, 4, 112, 0, some 0x10920000⟩),
       (0xE00100006BE1C381, .fenPkg ⟨112, 112, 112, 0, some 0xE0010000⟩),
       (0xE00002046CE01381, .laneOwn ⟨112, 4, 112, 0, some 0xE0000204⟩),
       (0xE1FFFFFE70E01381, .bra ⟨112, 4, 112, 0, some 0xE1FFFFFE⟩),
       (0xE000000671E1C381, .laneCall ⟨112, 112, 112, 0, some 0xE0000006⟩),
       (0xE00FFFFF75E1C381, .spn ⟨112, 112, 112, 0, some 0xE00FFFFF⟩),
       (0xE00000EE79E1C381, .laneTrap ⟨112, 112, 112, 0, some 0xE00000EE⟩)] = true := by decide +kernel

/-- Uniform words (R142, R143, Tables 6, 7). -/
theorem test_decode_uniform_words_0 :
    wordsDecode
      [(0x80084180, .coxAdd ⟨2, 4, 6, 0⟩),
       (0x81084180, .coxSub ⟨2, 4, 6, 0⟩),
       (0x82084180, .coxMul ⟨2, 4, 6, 0⟩),
       (0x83084181, .coxMulh ⟨2, 4, 6, 1⟩),
       (0x84084181, .coxMin ⟨2, 4, 6, 1⟩),
       (0x85084181, .coxMax ⟨2, 4, 6, 1⟩),
       (0x86084180, .coxAnd ⟨2, 4, 6, 0⟩),
       (0x87084180, .coxOr ⟨2, 4, 6, 0⟩),
       (0x88084180, .coxXor ⟨2, 4, 6, 0⟩),
       (0x89084180, .coxAndn ⟨2, 4, 6, 0⟩),
       (0x8A084180, .coxShl ⟨2, 4, 6, 0⟩),
       (0x8B084180, .coxShr ⟨2, 4, 6, 0⟩),
       (0x8C084180, .coxSar ⟨2, 4, 6, 0⟩),
       (0x8D084180, .coxRot ⟨2, 4, 6, 0⟩),
       (0x8E084180, .coxBfx ⟨2, 4, 6, 0⟩),
       (0x8F084180, .coxBfi ⟨2, 4, 6, 0⟩),
       (0x90084001, .addi ⟨2, 4, 1⟩),
       (0x91084001, .andi ⟨2, 4, 1⟩),
       (0x92084001, .ori ⟨2, 4, 1⟩),
       (0x93084001, .xori ⟨2, 4, 1⟩),
       (0x94084001, .shli ⟨2, 4, 1⟩),
       (0x95084001, .shri ⟨2, 4, 1⟩),
       (0x96084001, .sari ⟨2, 4, 1⟩),
       (0x97080001, .movi ⟨2, 0, 1⟩),
       (0x98080001, .ldhi ⟨2, 0, 1⟩),
       (0x99044198, .coxCmp ⟨1, 4, 6, 24⟩)] = true := by decide +kernel

/-- Uniform words (R142, R143, Tables 6, 7). -/
theorem test_decode_uniform_words_1 :
    wordsDecode
      [(0x9A044001, .cmpi ⟨1, 4, 1⟩),
       (0x9B084180, .pand ⟨2, 4, 6, 0⟩),
       (0x9C084180, .por ⟨2, 4, 6, 0⟩),
       (0x9D084000, .pnot ⟨2, 4, 0, 0⟩),
       (0x9E084189, .csel ⟨2, 4, 6, 9⟩),
       (0x9F084001, .ormi ⟨2, 4, 1⟩),
       (0xA0000001, .jmp ⟨0, 1⟩),
       (0xA1900001, .jp ⟨9, 1⟩),
       (0xA2800001, .loop ⟨8, 1⟩),
       (0xA3000001, .coxCall ⟨0, 1⟩),
       (0xA4000000, .coxRet ⟨0, 0⟩),
       (0xB0084180, .coxAddF32 ⟨2, 4, 6, 0⟩),
       (0xB1084180, .coxSubF32 ⟨2, 4, 6, 0⟩),
       (0xB2084180, .coxMulF32 ⟨2, 4, 6, 0⟩),
       (0xB3084188, .coxFmaF32 ⟨2, 4, 6, 8⟩),
       (0xB4084180, .coxMinF32 ⟨2, 4, 6, 0⟩),
       (0xB5084180, .coxMaxF32 ⟨2, 4, 6, 0⟩),
       (0xB6084001, .coxCvt ⟨2, 4, 0, 1⟩),
       (0xB7084000, .coxPop ⟨2, 4, 0, 0⟩),
       (0xB8084000, .coxClz ⟨2, 4, 0, 0⟩),
       (0xB9084000, .coxBrev ⟨2, 4, 0, 0⟩),
       (0xBA084000, .coxMov ⟨2, 4, 0, 0⟩),
       (0xBB108300, .coxAddI64 ⟨4, 8, 12, 0⟩),
       (0xBC108300, .coxSubI64 ⟨4, 8, 12, 0⟩),
       (0xC0100000, .rdtime ⟨4, 0, 0, 0⟩),
       (0xC1008000, .twait ⟨0, 8, 0, 0⟩)] = true := by decide +kernel

/-- Uniform words (R142, R143, Tables 6, 7). -/
theorem test_decode_uniform_words_2 :
    wordsDecode
      [(0xC2004001, .csync ⟨0, 4, 0, 1⟩),
       (0xC3084001, .balloc ⟨2, 4, 0, 1⟩),
       (0xC4004000, .bfree ⟨0, 4, 0, 0⟩),
       (0xC5084000, .binit ⟨2, 4, 0⟩),
       (0xC6004180, .barv ⟨0, 4, 6, 0⟩),
       (0xC6044180, .barvDecl ⟨1, 4, 6, 0⟩),
       (0xC7008300, .coxBwt ⟨0, 8, 12, 0⟩),
       (0xC8084000, .barm ⟨2, 4, 0⟩),
       (0xC9080001, .srd ⟨2, 0, 1⟩),
       (0xCA080001, .sysr ⟨2, 0, 1⟩),
       (0xCB004001, .sysw ⟨0, 4, 1⟩),
       (0xCC000000, .eret ⟨0, 0, 0, 0⟩),
       (0xCD000008, .coxTrap ⟨0, 0, 8⟩),
       (0xCE000001, .coxEnd ⟨0, 0, 0, 1⟩),
       (0xCF000000, .coxNop ⟨0, 0, 0, 0⟩),
       (0xD0104801, .tload ⟨4, 4, 2049⟩),
       (0xD1080041, .tset ⟨2, 0, 65⟩),
       (0xD2080009, .gset ⟨2, 0, 9⟩),
       (0xD2104819, .gsetMem ⟨4, 4, 2073⟩),
       (0xD3008000, .sseed ⟨0, 8, 0, 0⟩),
       (0xD4080001, .nest ⟨2, 0, 1⟩),
       (0xD5084FC0, .mma ⟨2, 4, 4032⟩),
       (0xD6084B40, .xcp ⟨2, 4, 2880⟩),
       (0xD7084A00, .xfer ⟨2, 4, 2560⟩),
       (0xD8084800, .lay ⟨2, 4, 2048⟩),
       (0xD9080108, .coxOwn ⟨2, 0, 264⟩)] = true := by decide +kernel

/-- Uniform words (R142, R143, Tables 6, 7). -/
theorem test_decode_uniform_words_3 :
    wordsDecode
      [(0xE0084800, .lwr ⟨2, 4, 2048⟩),
       (0xE1084800, .sig ⟨2, 4, 2048⟩),
       (0xE2084800, .hpost ⟨2, 4, 2048⟩)] = true := by decide +kernel

/-- Opcodes that R140 and R143 leave unassigned are refused by name, and so is a word cut short. -/
theorem test_unassigned_opcodes_refused :
    ([0x1F, 0x2E, 0x2F, 0x3C, 0x47, 0x4E, 0x5D, 0x6D, 0x7C, 0xA5, 0xBD, 0xDA, 0xE3, 0xFF].all fun op =>
      decodeTableWord 32 (op * 2 ^ 24) == none) = true ∧
    decode [0x10, 0x04, 0x06] = .error .truncated ∧
    decode [0x81, 0x07, 0x06, 0x00] = .error .truncated ∧
    decode [0x00, 0x00, 0x00, 0x1F] = .error (.unassignedOpcode 0x1F000000) := by decide +kernel

/-! ## Ill-formed terms -/

/-- Whether each instruction of a list is ill-formed for the cause beside it. -/
def illFormed (rows : List (Instr × Nat)) : Bool :=
  rows.all fun r => !wellFormed r.1 && (staticBreaches r.1).contains r.2

/-- Operand fields and tails of lane instructions (R66, R137, R138, R139, R155, R331). -/
theorem test_ill_formed_lane_fields :
    illFormed
      [(.addI32 ⟨124, 1, 2, 0, none⟩, 0x23), (.addI32 ⟨98, 1, 2, 0, none⟩, 0x22), (.addI32 ⟨3, 125, 2, 0, none⟩, 0x23),
       (.absI32 ⟨3, 1, 2, 0, none⟩, 0x03), (.mand ⟨8, 1, 2, 0, none⟩, 0x03), (.xset ⟨4, 1, 112, 0, none⟩, 0x03),
       (.madI32 ⟨3, 1, 2, 0, none⟩, 0x03), (.lds ⟨3, 1, 112, 0, none⟩, 0x03), (.bra ⟨112, 112, 112, 0, none⟩, 0x03),
       (.mand ⟨1, 1, 2, 0, some 0xE0000000⟩, 0x03), (.addI32 ⟨3, 1, 2, 0, some 0x06000000⟩, 0x03),
       (.absI32 ⟨3, 1, 112, 0, some 0xE1000001⟩, 0x03), (.addI32 ⟨3, 1, 2, 0, some 0xE0200000⟩, 0x08),
       (.addF32 ⟨3, 1, 2, 0, some 0xE0A00000⟩, 0x08), (.shfl ⟨3, 1, 2, 0, some 0xE0200000⟩, 0x03),
       (.minI32 ⟨3, 1, 2, 0, some 0xE0100000⟩, 0x03), (.addI32 ⟨3, 1, 2, 0, some 0xE0010000⟩, 0x03),
       (.shfl ⟨3, 1, 2, 0, some 0xE0040000⟩, 0x08), (.addI32 ⟨3, 1, 2, 0, some 0xE0000001⟩, 0x03),
       (.addI32 ⟨3, 1, 2, 0, some 0xE1000001⟩, 0x03), (.bra ⟨112, 4, 112, 0, some 0x00000001⟩, 0x03),
       (.cmpI32 ⟨3, 1, 2, 0, some 0xE0060000⟩, 0x08)] = true := by decide +kernel

/-- What single lane instructions add (R71, R157, R160, R167, R172, R176, R179, R181, R184, R186, R197), and memory tails. -/
theorem test_ill_formed_lane_rules :
    illFormed
      [(.laneBfx ⟨3, 1, 112, 0, some 0xE0000300⟩, 0x25), (.cvt ⟨3, 1, 112, 0, some 0xE0000103⟩, 0x26),
       (.addI64 ⟨3, 2, 4, 0, none⟩, 0x24), (.addI64 ⟨2, 3, 4, 0, none⟩, 0x24), (.subI64 ⟨2, 4, 5, 0, none⟩, 0x24),
       (.tacc ⟨3, 1, 95, 0, some 0x06000000⟩, 0x24), (.xwin ⟨1, 112, 112, 0, some 0xE0000001⟩, 0x21),
       (.xwin ⟨1, 112, 112, 0, some 0xE000A030⟩, 0x21), (.laneOwn ⟨112, 4, 112, 0, some 0xE0000005⟩, 0x08),
       (.laneBwt ⟨112, 95, 112, 0, none⟩, 0x24), (.lds ⟨3, 1, 112, 0, some 0xE1000000⟩, 0x08),
       (.lds ⟨3, 1, 112, 0, some 0xE0A00000⟩, 0x03), (.ats ⟨3, 1, 112, 0, some 0xBE980000⟩, 0x24),
       (.ats ⟨3, 1, 112, 0, some 0x0A1A0000⟩, 0x08), (.ldt ⟨3, 1, 112, 0, some 0x0A800040⟩, 0x03),
       (.lds ⟨3, 1, 112, 0, some 0xE0C00000⟩, 0x24), (.sts ⟨112, 1, 112, 0, some 0x0AC00000⟩, 0x24),
       (.ldg ⟨2, 5, 112, 0, some 0xE0800000⟩, 0x24), (.casg ⟨2, 4, 112, 0, some 0x0A000000⟩, 0x08),
       (.casg ⟨2, 4, 112, 0, some 0xBE800000⟩, 0x24), (.casg ⟨2, 96, 112, 0, some 0x0CC00000⟩, 0x24),
       (.redg ⟨112, 4, 112, 0, some 0x0A900000⟩, 0x08), (.laneTrap ⟨112, 112, 112, 0, some 0xE0000100⟩, 0x03)] = true := by
  decide +kernel

/-- Uniform instructions (R200-R245), another instruction's words (R161, R183, R215, R222), and no words at all. -/
theorem test_ill_formed_uniform :
    illFormed
      [(.coxAdd ⟨1, 2, 3, 1⟩, 0x03), (.coxMulh ⟨1, 2, 3, 2⟩, 0x08), (.coxPop ⟨1, 2, 3, 0⟩, 0x03), (.twait ⟨1, 2, 0, 0⟩, 0x03),
       (.rdtime ⟨2, 1, 0, 0⟩, 0x03), (.coxCmp ⟨8, 1, 2, 0⟩, 0x03), (.coxCmp ⟨1, 1, 2, 6⟩, 0x08), (.pand ⟨1, 8, 2, 0⟩, 0x03),
       (.csel ⟨1, 2, 3, 16⟩, 0x03), (.coxCvt ⟨1, 2, 0, 4⟩, 0x08), (.coxAddI64 ⟨1, 2, 4, 0⟩, 0x24), (.rdtime ⟨1, 0, 0, 0⟩, 0x24),
       (.twait ⟨0, 3, 0, 0⟩, 0x24), (.coxBwt ⟨0, 2, 3, 0⟩, 0x24), (.balloc ⟨60, 0, 0, 4⟩, 0x27), (.barv ⟨2, 4, 6, 0⟩, 0x03),
       (.shli ⟨1, 2, 32⟩, 0x03), (.movi ⟨1, 2, 3⟩, 0x03), (.cmpi ⟨48, 1, 3⟩, 0x08), (.srd ⟨1, 0, 13⟩, 0x08), (.sysw ⟨1, 2, 3⟩, 0x03),
       (.coxTrap ⟨0, 0, 256⟩, 0x03), (.coxEnd ⟨1, 0, 0, 7⟩, 0x03), (.jmp ⟨1, 4⟩, 0x03), (.coxRet ⟨0, 1⟩, 0x03), (.lwr ⟨1, 0, 1⟩, 0x03), (.sig ⟨1, 2, 0⟩, 0x03),
       (.lwr ⟨52, 2, 0x800⟩, 0x27), (.tset ⟨1, 2, 0xB80⟩, 0x08), (.gset ⟨1, 2, 9⟩, 0x24), (.gsetMem ⟨1, 2, 0x810⟩, 0x24),
       (.tload ⟨1, 2, 0x800⟩, 0x24), (.coxOwn ⟨1, 0, 0x500⟩, 0x08), (.unassignedOpcode 0x1F000000, 0x01)] = true ∧
    ([.laneMov ⟨3, 112, 112, 0, some 0xE1010001⟩, .movHi ⟨3, 112, 2, 0, none⟩, .fenGang ⟨112, 112, 112, 0, some 0xE0010000⟩,
      .fenPkg ⟨112, 112, 112, 0, none⟩, .barv ⟨1, 4, 6, 0⟩, .barvDecl ⟨0, 4, 6, 0⟩, .gset ⟨2, 0, 0x010⟩, .gsetMem ⟨2, 0, 0⟩,
      .heatStart, .laneResult].all fun i => !wellFormed i) = true := by decide +kernel

/-! ## Results of single steps -/

/-- The machine after one step from reset, the word placed where it fetches and registers set: v registers in every lane of
the gang, k registers of its team. -/
def stepped (w : Nat) (vs ks : List (Nat × Word)) : Option State :=
  let s := (State.reset.withFetchWord 64 w).modTeam ⟨0, 0⟩ fun t =>
    { t with
      k := Store.setAll 0 [] ks
      gangs := t.gangs.map fun g =>
        { g with v := Store.setAll 0 [] ((vs.map fun e => (List.range 32).map fun l => (32 * e.1 + l, e.2)).flatten) } }
  match step s with
  | .next t => some t
  | _ => none

/-- What lands in v3 of lane 5, and the bit that lands in mask m3 of lane 5. -/
def landsInV3 (w : Nat) (vs : List (Nat × Word)) : Option Word :=
  (stepped w vs []).bind fun t => t.agenda.findSome? fun d => match d.ev with
    | .laneResult _ r => (r.vs.find? fun e => e.1 == 32 * 3 + 5).map (·.2)
    | _ => none

/-- The bit that lands in m3 of lane 5. -/
def landsInM3 (w : Nat) (vs : List (Nat × Word)) : Option Bool :=
  (stepped w vs []).bind fun t => t.agenda.findSome? fun d => match d.ev with
    | .laneResult _ r => (r.ms.find? fun e => e.1 == 3).map fun e => e.2.2.getLsbD 5
    | _ => none

/-- What lands in k3. -/
def landsInK3 (w : Nat) (ks : List (Nat × Word)) : Option Word :=
  (stepped w [] ks).bind fun t => t.agenda.findSome? fun d => match d.ev with
    | .coxResult _ r => (r.ks.find? fun e => e.1 == 3).map (·.2)
    | _ => none

/-- Whether each lane word, with v1, v2 and v4, lands the value beside it in v3. -/
def laneResults (rows : List (Nat × Word × Word × Word × Word)) : Bool :=
  rows.all fun r => landsInV3 r.1 [(1, r.2.1), (2, r.2.2.1), (4, r.2.2.2.1)] == some r.2.2.2.2

/-- Integer arithmetic (R156): wraps, saturation, signs, from Table 2 and the borderline list under it. -/
theorem test_lane_integers :
    laneResults
      [(0x00060410, 0xFFFFFFFF, 2, 0, 1), (0xE010000000060411, 0x7FFFFFFF, 1, 0, 0x7FFFFFFF),
       (0x01060410, 0x80000000, 1, 0, 0x7FFFFFFF), (0x0D060410, 0x80000000, 1, 0, 0x80000000),
       (0x02060410, 0x00010001, 0x00010000, 0, 0x00010000), (0x0800000003060411, 3, 0xFFFFFFFF, 10, 7),
       (0x04060410, 0xFFFFFFFF, 1, 0, 0xFFFFFFFF), (0x07060410, 0xFFFFFFFF, 1, 0, 0xFFFFFFFF),
       (0xE100FFFF06060781, 7, 0, 0, 7), (0x08060780, 0x80000000, 0, 0, 0x80000000),
       (0xE010000009060781, 0x80000000, 0, 0, 0x7FFFFFFF), (0x0A060410, 0xFFFFFFFF, 0xFFFFFFFF, 0, 0),
       (0x0B060410, 0xFFFFFFFF, 0xFFFFFFFF, 0, 0xFFFFFFFE), (0x2C060410, 0x7FFFFFFF, 0x00010001, 0, 0x80000000),
       (0xE01000002D060411, 0x80000000, 0x00010001, 0, 0x8000FFFF)] = true := by decide +kernel

/-- Bit operations, fields and moves (R159-R161). -/
theorem test_lane_bits :
    laneResults
      [(0x13060410, 0xF0F0F0F0, 0xFF00FF00, 0, 0x00F000F0), (0x14060410, 1, 32, 0, 0), (0x14060410, 3, 31, 0, 0x80000000),
       (0x15060410, 0x80000000, 0x0000011F, 0, 1), (0x16060410, 0x80000000, 200, 0, 0xFFFFFFFF),
       (0x17060410, 0x80000001, 33, 0, 3), (0xE00100A718060781, 0x00000FE0, 0, 0, 0xFFFFFFFF),
       (0x0800000019060411, 0xFFFFFFFF, 0x00000104, 0, 0x00000F00), (0x1A060780, 0xFFFFFFFF, 0, 0, 32),
       (0x1B060780, 0, 0, 0, 32), (0x1C060780, 1, 0, 0, 0x80000000), (0x080000001D060411, 6, 7, 0, 7),
       (0xE1013F801E07C381, 0, 0, 0, 0x3F800000), (0xE10080001E07C381, 0, 0, 0, 0xFFFF8000)] = true := by decide +kernel

/-- f32 and packed arithmetic (R88-R93, R162, R163) and the conversions of R168, Table 10. -/
theorem test_lane_floats :
    laneResults
      [(0x20060410, 0x3F800000, 0x40000000, 0, 0x40400000), (0x21060410, 0x3F800000, 0x3F800000, 0, 0),
       (0xE040000021060411, 0x3F800000, 0x3F800000, 0, 0x80000000), (0x0800000023060411, 0x40000000, 0x40400000, 0x3F800000, 0x40E00000),
       (0x24060410, 0x80000000, 0, 0, 0x80000000), (0x26060780, 0xFFC00001, 0, 0, 0x7FC00001),
       (0x28060780, 0xBE99999A, 0, 0, 0x80000000), (0x28060780, 0x40200000, 0, 0, 0x40000000),
       (0x30060410, 0x40003F80, 0x3F803F80, 0, 0x40404000), (0x36060410, 0x3C003C00, 0x3C004000, 0, 0x40004200),
       (0xE000010A48060781, 0x3F808000, 0, 0, 0x3F80), (0xE060010A48060781, 0x3F808000, 0, 0, 0x3F81),
       (0xE000010B48060781, 0x43FA0000, 0, 0, 0x7E), (0xE000010048060781, 0xC348B333, 0, 0, 0xFFFFFF80)] = true := by
  decide +kernel

/-- Dot products and comparisons (R141, R166, R169). -/
theorem test_lane_dots_and_compares :
    laneResults
      [(0x0800000049060411, 0xFF020304, 0x01010101, 10, 18), (0x080000004A060411, 0x000000FF, 0x000000FF, 0, 0xFE01)] = true ∧
    landsInM3 0xE002000029060411 [(1, 0x80000000), (2, 0)] = some false ∧
    landsInM3 0xE001000029060411 [(1, 0x7FC00000), (2, 0)] = some true ∧
    landsInM3 0xE10200002A060781 [(1, 0xFFFFFFFF)] = some true ∧
    landsInM3 0xE10200002B060781 [(1, 0xFFFFFFFF)] = some false := by decide +kernel

/-- Scalar results (R202, R203, R206): the cox's words with k1 and k2. -/
theorem test_cox_results :
    ([(0x800C1080, 0xFFFFFFFF, 2, 1), (0x810C1080, 1, 2, 0xFFFFFFFF), (0x830C1080, 0xFFFFFFFF, 0xFFFFFFFF, 0),
      (0x8A0C1080, 1, 32, 0), (0x8C0C1080, 0x80000000, 31, 0xFFFFFFFF), (0x900C1FFF, 5, 0, 4), (0x970C0800, 0, 0, 0xFFFFF800),
      (0xB80C1000, 0x00010000, 0, 15), (0xB00C1080, 0x3F800000, 0x40000000, 0x40400000)] : List (Nat × Word × Word × Word)).all
      (fun r => landsInK3 r.1 [(1, r.2.1), (2, r.2.2.1)] == some r.2.2.2) = true := by decide +kernel

/-- Ternary instructions: the example of R172 with v3 zero, and an invalid byte (R170). -/
theorem test_lane_ternary :
    laneResults
      [(0xE000000A4B060781, 0x00006400, 0, 0, 0x411), (0xE000000A4B060781, 0x0000F500, 0, 0, 0),
       (0x081000014D060411, 0x411, 0x0AF6057F, 100, 95)] = true := by decide +kernel

/-- Transcendentals, each the exact value rounded once (R164, R165 with its example). -/
theorem test_lane_transcendentals :
    laneResults
      [(0x40060780, 0x40000000, 0, 0, 0x3F000000), (0x41060780, 0x40800000, 0, 0, 0x3F000000),
       (0x42060780, 0x40800000, 0, 0, 0x40000000), (0x43060780, 0x40400000, 0, 0, 0x41000000),
       (0x44060780, 0x41000000, 0, 0, 0x40400000), (0x45060780, 0x3E000000, 0, 0, 0x3F3504F3),
       (0x46060780, 0xBE000000, 0, 0, 0x3F3504F3), (0x44060780, 0xBF800000, 0, 0, 0x7FC00000)] = true := by decide +kernel

/-! ## Witnesses of the hypotheses of the statements -/

/-- The number of an instruction's words: what a program places. -/
def wordsNat (i : Instr) : Nat := ofLeBytes (encodeBytes i)

/-- The state in which an instruction is about to be executed, placed after reset in a state that `f` has changed. -/
def benchOf (i : Instr) (f : State → State) : State :=
  match (f (State.reset.withFetchWord 64 (wordsNat i))).upNext with
  | some (j, s) => if j = i then s else State.reset
  | none => State.reset

/-- Whether a lane instruction stands there, breaks nothing, and `x` holds of it. -/
def laneMeets (i : Instr) (f : State → State) (x : State → LCtx → LaneWord → Bool) : Bool :=
  match laneCtx (benchOf i f), laneWord? i with
  | some c, some w => (c.causes (benchOf i f) i w (laneOwn i (benchOf i f) c)).isEmpty && x (benchOf i f) c w
  | _, _ => false

/-- Whether a cox instruction stands there, breaks nothing, and `x` holds of it. -/
def coxMeets (i : Instr) (f : State → State) (x : State → UCtx → Bool) : Bool :=
  match laneCtx (benchOf i f), uniCtx (benchOf i f) with
  | none, some c => isCox i && ((c.causes (benchOf i f) i (coxOwn i (benchOf i f) c)).isEmpty && ((!c.handling || inHandler i) &&
      x (benchOf i f) c))
  | _, _ => false

/-- A true row is a witness of `LaneClear` and of what `x` says. -/
theorem laneMeets_clear {i : Instr} {f : State → State} {x : State → LCtx → LaneWord → Bool} (h : laneMeets i f x = true) :
    ∃ w s c, LaneClear i w s c ∧ x s c w = true := by
  unfold laneMeets at h
  split at h
  · next c w hc hw =>
    simp only [Bool.and_eq_true, List.isEmpty_iff] at h
    exact ⟨w, _, c, ⟨hw, hc, h.1⟩, h.2⟩
  · cases h

/-- A true row is a witness of `CoxClear` and of what `x` says. -/
theorem coxMeets_clear {i : Instr} {f : State → State} {x : State → UCtx → Bool} (h : coxMeets i f x = true) :
    ∃ s c, CoxClear i s c ∧ x s c = true := by
  unfold coxMeets at h
  split at h
  · next c hl hc =>
    simp only [Bool.and_eq_true, List.isEmpty_iff, Bool.or_eq_true, Bool.not_eq_true'] at h
    exact ⟨_, c, ⟨h.1, hl, hc, h.2.1, fun hh => by rcases h.2.2.1 with g | g <;> simp_all⟩, h.2.2.2⟩
  · cases h

/-- Nothing more is asked. -/
def plainly : State → LCtx → LaneWord → Bool := fun _ _ _ => true

/-- Nothing more is asked. -/
def plainlyU : State → UCtx → Bool := fun _ _ => true

/-- Operand words, of which each lane form has one that it admits. -/
def someWords : List LaneWord :=
  [⟨2, 4, 6, 0, none⟩, ⟨2, 4, 112, 0, none⟩, ⟨2, 112, 6, 0, none⟩, ⟨2, 4, 6, 0, some 0x0A000000⟩, ⟨2, 4, 6, 0, some 0xE0010000⟩,
   ⟨2, 4, 112, 0, some 0xE00100A7⟩, ⟨2, 4, 112, 0, some 0xE000001D⟩, ⟨2, 4, 112, 0, some 0xE0000109⟩, ⟨2, 112, 112, 0, none⟩,
   ⟨2, 112, 112, 0, some 0xE101ABCD⟩, ⟨1, 112, 112, 0, some 0xE000A010⟩]

/-- Whether an instruction runs with one of those. -/
def runsPlainly (i : LaneWord → Instr) : Bool := someWords.any fun w => wellFormed (i w) && laneMeets (i w) id plainly

/-- Witnesses of the result statements of the lane set: each instruction of each table meets its hypotheses. -/
theorem test_witness_laneIntegerResults : ((laneIntegers ++ laneBitOps).map (·.1)).all runsPlainly = true := by decide +kernel
theorem test_witness_laneMoveResults : (laneMoves.map (·.1)).all runsPlainly = true := by decide +kernel
theorem test_witness_laneFloatResults : (.cvt :: laneFloats.map (·.1)).all runsPlainly = true := by decide +kernel
theorem test_witness_laneTranscendentals : (laneTranscendentals.map (·.1)).all runsPlainly = true := by decide +kernel
theorem test_witness_lanePackedResults : ((lanePackedIntegers ++ lanePackedFloats).map (·.1)).all runsPlainly = true := by
  decide +kernel
theorem test_witness_laneDots : (.unp5 :: laneDots.map (·.1)).all runsPlainly = true := by decide +kernel
theorem test_witness_laneExchanges : (laneExchanges.map (·.1)).all runsPlainly = true := by decide +kernel
theorem test_witness_laneMasks : (laneMasks.map (·.1)).all runsPlainly = true := by decide +kernel
theorem test_witness_lanePairsAndWindows : [Instr.addI64, .subI64, .xset, .xwin].all runsPlainly = true := by decide +kernel

/-- Witnesses of the result statements of the uniform set. -/
theorem test_witness_coxResults :
    ((coxIntegers ++ coxFloats).map (·.1)).all (fun i => [(⟨2, 4, 6, 0⟩ : UA), ⟨2, 4, 0, 0⟩].any fun w =>
      wellFormed (i w) && coxMeets (i w) id plainlyU) = true ∧
    (coxImmediates.map (·.1)).all (fun i => [(⟨2, 4, 7⟩ : UI), ⟨2, 0, 7⟩].any fun w =>
      wellFormed (i w) && coxMeets (i w) id plainlyU) = true := by decide +kernel
theorem test_witness_coxPredicates :
    (coxPredicates.map (·.1)).all (fun i => [(⟨2, 4, 6, 0⟩ : UA), ⟨2, 4, 0, 0⟩].any fun w =>
      wellFormed (i w) && coxMeets (i w) id plainlyU) = true ∧
    coxMeets (.cmpi ⟨2, 4, 7⟩) id plainlyU = true := by decide +kernel
theorem test_witness_coxPairsAndTime :
    ([.coxAddI64 ⟨2, 4, 6, 0⟩, .coxSubI64 ⟨2, 4, 6, 0⟩, .srd ⟨2, 0, 1⟩].all fun i => coxMeets i id plainlyU) = true ∧
    coxMeets (.rdtime ⟨2, 0, 0, 0⟩) id (fun s c => decide (c.base ≤ s.now)) = true := by decide +kernel

/-- Changes of the placed state: of the gang, of its group, of its v registers in every lane, of the core, of the team. -/
def withGang (f : Gang → Gang) (s : State) : State := s.modGang ⟨0, 0, 0⟩ f
def withGroup (f : Group → Group) : State → State := withGang fun g => { g with groups := g.groups.map f }
def withLanes (vs : List (Nat × Word)) : State → State := withGang fun g =>
  { g with v := Store.setAll 0 g.v ((vs.map fun e => (List.range 32).map fun l => (32 * e.1 + l, e.2)).flatten) }
def withCore (f : Core → Core) (s : State) : State := s.modCore 0 f
def withTeam (f : Team → Team) (s : State) : State := s.modTeam ⟨0, 0⟩ f
/-- Barrier 8 allocated, its generation 0; and a tensor entry 0 of two axes. -/
def withBar : State → State := withCore fun c => c.modBar 8 fun b => { b with alloc := true, expg := 2 }
def someTensor : Tensor :=
  { Tensor.init with valid := true, fmt := 2, rank := 2, base := 64, ext := [(0, 10), (1, 12)], stride := [(0, 8), (1, 80)] }
def withTensor : State → State := withTeam fun t => { t with t := [(0, someTensor)] }
def twoGroups (w : GroupWait) : State → State := withGang fun g =>
  { g with spans := [50], groups := g.groups.flatMap fun x => [{ x with quads := 0x0F }, { x with quads := 0xF0, wait := w }] }

/-- Witnesses of the access and control statements of the lane set, a row for each clause. -/
theorem test_witness_laneScratchLoads :
    [laneMeets (.lds ⟨2, 4, 112, 0, some 0xE0600010⟩) id
        (fun s c w => (s.accFail (c.scratchAcc w (.lds w) 0)).isNone && decide (w.sz ≤ 2)),
      laneMeets (.lds ⟨2, 4, 112, 0, some 0xE0C00000⟩) id
        (fun s c w => (s.accFail (c.scratchAcc w (.lds w) 0)).isNone && decide (w.sz = 3 ∧ w.d.toNat < 96)),
      laneMeets (.lds ⟨2, 4, 112, 0, some 0xE0800000⟩) (withCore fun c => { c with owner := [(0, 3)] })
        (fun s c w => (s.accFail (c.scratchAcc w (.lds w) 0)).isSome)].all id = true := by decide +kernel
theorem test_witness_laneScratchStores :
    ([(Instr.sts, (⟨112, 4, 112, 0, some 0x0C800000⟩ : LaneWord), 1), (.ats, ⟨2, 4, 112, 0, some 0x0A900000⟩, 2)].all fun e =>
      laneMeets (e.1 e.2.1) id (fun s c w => (s.accFail (c.scratchAcc w (e.1 w) e.2.2)).isNone) &&
      laneMeets (e.1 e.2.1) (withCore fun c => { c with owner := [(0, 3)] })
        (fun s c w => (s.accFail (c.scratchAcc w (e.1 w) e.2.2)).isSome)) = true := by decide +kernel
theorem test_witness_laneTensorLoads :
    laneMeets (.ldt ⟨2, 4, 112, 0, some 0x0A800000⟩) withTensor (fun s c w =>
      (s.accFail (c.ldtAcc w)).isNone && decide ((c.ldtEntry w).fmt < 13 ∧ w.sz ≤ 2)) = true := by decide +kernel
theorem test_witness_laneGlobalAccesses :
    ([(.ldg ⟨2, 4, 112, 0, some 0xE0C00008⟩), .ldgAcq ⟨2, 4, 112, 0, some 0xE0800000⟩, .stg ⟨112, 4, 112, 0, some 0x0C000000⟩,
      .stgRel ⟨112, 4, 112, 0, some 0x0C800000⟩, .atg ⟨2, 4, 112, 0, some 0x0C900000⟩, .casg ⟨2, 4, 112, 0, some 0x0C800000⟩,
      .redg ⟨112, 4, 112, 0, some 0x0C920000⟩].all fun i => laneMeets i (withLanes [(4, 0x1000)]) fun _ c w =>
        decide (c.realLanes ≠ [] ∧ dieOfStack (stackOf (c.address w 0)) = 0)) = true ∧
    ([(.ldg ⟨2, 4, 112, 0, some 0xE0C00008⟩), .stg ⟨112, 4, 112, 0, some 0x0C000000⟩, .atg ⟨2, 4, 112, 0, some 0x0C900000⟩].all
      fun i => laneMeets i (withLanes [(4, 0x7000)]) fun _ c w => decide (dieOfStack (stackOf (c.address w 0)) = 1)) = true := by
  decide +kernel
/-- Lanes 0 to 31 at every second kilobyte reach both dies, and no two of them one doubleword. -/
def bothDies : State → State := withGang fun g => { g with v := Store.setAll 0 g.v ((List.range 32).map fun l => (32 * 4 + l, BitVec.ofNat 32 (2048 * l))) }
theorem test_witness_laneGlobalAccesses_dies :
    ([(.ldg ⟨2, 4, 112, 0, some 0xE0800000⟩), .atg ⟨2, 4, 112, 0, some 0x0C900000⟩, .casg ⟨2, 4, 112, 0, some 0x0C800000⟩,
      .stg ⟨112, 4, 112, 0, some 0x0C800000⟩].all fun i => laneMeets i bothDies fun _ c w =>
        (c.realLanes.any fun l => dieOfStack (stackOf (c.address w l)) == 0) &&
        (c.realLanes.any fun l => dieOfStack (stackOf (c.address w l)) == 1) &&
        decide ((c.realLanes.map fun l => c.address w l / 8).Nodup)) = true := by decide +kernel
theorem test_witness_laneFencesAndOwners :
    [laneMeets (.fenGang ⟨112, 112, 112, 0, none⟩) id plainly, laneMeets (.fenPkg ⟨112, 112, 112, 0, some 0xE0010000⟩) id plainly,
      laneMeets (.laneOwn ⟨112, 4, 112, 0, some 0xE0000204⟩) id (fun _ c _ => lowestBit c.active == some 0),
      laneMeets (.laneNop ⟨112, 112, 112, 0, none⟩) id plainly].all id = true := by decide +kernel
theorem test_witness_laneBranches :
    ([Instr.bra, .laneCall].all fun i =>
      laneMeets (i ⟨112, 112, 112, 0, some 0xE1FFFFFF⟩) id (fun _ _ w => w.a == 112) &&
      laneMeets (i ⟨112, 4, 112, 0, some 0xE0000005⟩) (withLanes [(4, 1)]) (fun _ c w =>
        (lowestBit c.active).any fun l => c.opA w l != 0) &&
      laneMeets (i ⟨112, 4, 112, 0, some 0xE0000005⟩) id (fun _ c w =>
        w.a != 112 && (lowestBit c.active).all fun l => c.opA w l == 0)) = true ∧
    laneMeets (.laneRet ⟨112, 112, 112, 0, none⟩) (withGroup fun g => { g with stack := [0x300] }) plainly = true := by
  decide +kernel
theorem test_witness_laneParting :
    laneMeets (.part ⟨112, 4, 112, 0, none⟩) (withGang fun g => { g with spans := [50] }) plainly = true := by decide +kernel
theorem test_witness_laneSpans :
    [laneMeets (.rejoin ⟨112, 112, 112, 0, none⟩) id (fun _ c _ => c.gang.groups.length == 1),
      laneMeets (.rejoin ⟨112, 112, 112, 0, none⟩) (twoGroups (.rejoin 4 8)) (fun _ c _ => c.gang.groups.length != 1 &&
        c.gang.groups.all fun g => g.quads == c.quads || g.wait == .rejoin c.pc 8),
      laneMeets (.spn ⟨112, 112, 112, 0, some 0xE0000003⟩) id plainly,
      laneMeets (.spe ⟨112, 112, 112, 0, none⟩) (twoGroups (.none)) (fun _ c _ =>
        c.gang.groups.any fun g => g.quads != c.quads && g.wait == .none),
      laneMeets (.spe ⟨112, 112, 112, 0, none⟩) (twoGroups (.spe 8)) (fun _ c _ => lowestBit c.gang.present == some 0 &&
        c.quads.getLsbD 0 && (c.gang.groups.all fun g => g.quads == c.quads || g.wait == .spe 8) &&
        decide (c.gang.groups.Pairwise fun a b => a.quads &&& b.quads = 0)),
      laneMeets (.spe ⟨112, 112, 112, 0, none⟩) (withGang fun g => { g with spans := [50] }) (fun _ c _ =>
        c.gang.groups == [c.group])].all id = true := by decide +kernel
theorem test_witness_laneBarriersAndEnds :
    [laneMeets (.arv ⟨112, 4, 112, 0, none⟩) (withBar ∘ withLanes [(4, 8)]) plainly,
      laneMeets (.laneBwt ⟨112, 4, 112, 0, none⟩) (withGang (fun g => { g with spans := [50] }) ∘ withBar ∘ withLanes [(4, 8), (5, 1)])
        (fun s c _ => visiblePhase ((s.core c.team.core).bar 8) s.now != 1),
      laneMeets (.laneBwt ⟨112, 4, 112, 0, none⟩) (withGang (fun g => { g with spans := [50] }) ∘ withBar ∘ withLanes [(4, 8)])
        (fun s c _ => visiblePhase ((s.core c.team.core).bar 8) s.now == 0 && ((s.core c.team.core).bar 8).hist.isEmpty),
      laneMeets (.laneTrap ⟨112, 112, 112, 0, some 0xE00000FF⟩) id plainly,
      laneMeets (.laneEnd ⟨112, 112, 112, 0, none⟩) id plainly].all id = true := by decide +kernel
theorem test_witness_laneClusterExchange :
    [laneMeets (.snd ⟨112, 4, 112, 0, some 0xE0000000⟩) (fun s => s.modHeat 0 fun h => { h with sessions := [(0, 0xFF, 0, some 0)] }) plainly,
      laneMeets (.rcv ⟨2, 112, 112, 0, none⟩) (fun s => (s.modHeat 0 fun h => { h with sessions := [(0, 0xFF, 0, some 0)] }).modCore 0
        fun c => { c with landing := some { at_ := 0, stamp := 3, sender := ⟨0, 0, 0⟩, data := [] } }) plainly].all id = true := by
  decide +kernel

/-- The scalar registers of the team; and handler mode with ACTION and RES in its trap record. -/
def withK (ks : List (Nat × Word)) : State → State := withTeam fun t => { t with k := Store.setAll 0 t.k ks }
def withStack (f : Cox → Cox) : State → State := withTeam fun t => { t with cox := f t.cox }
def handling (w0 : Word) : State → State := fun s => (s.modTeam ⟨0, 0⟩ fun t => { t with
    cox := { t.cox with
      handler := some { stack := [], flags := 0, p := 1, pc := 0, clause := none, branched := false, ready := 0, wait := .none
                        retired := false, stopped := some 0, resume := none, entered := 0 } } }).modHeat 0 fun h =>
  { h with status := .handler, trap := [(0, w0)] }
/-- Three 8 by 8 entries: bf16 at 0 and at 1 KiB, f32 at 2 KiB. -/
def pitched (fmt base size : Nat) : Tensor :=
  { Tensor.init with valid := true, fmt := fmt, rank := 2, base := base, ext := [(0, 8), (1, 8)]
                     stride := [(0, (size : Int)), (1, 8 * (size : Int))] }
def withEntries : State → State := withTeam fun t => { t with t := [(0, pitched 10 0 2), (1, pitched 10 1024 2), (3, pitched 8 2048 4)] }

/-- Witnesses of the statements of the cox, a row for each clause. -/
theorem test_witness_coxControl :
    [coxMeets (.jmp ⟨0, 0xFFFFF⟩) id plainlyU, coxMeets (.jp ⟨0, 5⟩) id (fun _ c => c.p 0 != false),
      coxMeets (.jp ⟨8, 5⟩) id (fun _ c => c.p 0 == true), coxMeets (.loop ⟨1, 5⟩) (withK [(49, 1)]) (fun _ c => c.k 49 == 1),
      coxMeets (.loop ⟨1, 5⟩) (withK [(49, 0)]) (fun _ c => c.k 49 != 1), coxMeets (.coxCall ⟨0, 5⟩) id plainlyU,
      coxMeets (.coxRet ⟨0, 0⟩) (withStack fun c => { c with stack := [0x300] }) plainlyU, coxMeets (.coxNop ⟨0, 0, 0, 0⟩) id plainlyU,
      coxMeets (.coxEnd ⟨0, 0, 0, 63⟩) id (fun _ c => !c.handling), coxMeets (.coxTrap ⟨0, 0, 255⟩) id plainlyU].all id = true := by
  decide +kernel
theorem test_witness_coxWaits :
    [coxMeets (.twait ⟨0, 2, 0, 0⟩) (withK [(2, 5000)]) plainlyU,
      coxMeets (.coxBwt ⟨0, 4, 2, 0⟩) (withBar ∘ withK [(2, 5000), (4, 8)]) plainlyU,
      coxMeets (.csync ⟨0, 2, 0, 0⟩) (withK [(2, 1)]) (fun _ c => c.heat.csyncs.isEmpty && (c.k 2).toNat == 2 ^ crewIndex c.team),
      coxMeets (.csync ⟨0, 2, 0, 63⟩) (withK [(2, 3)]) (fun _ c => c.heat.csyncs.isEmpty && (c.k 2).toNat != 2 ^ crewIndex c.team),
      coxMeets (.csync ⟨0, 2, 0, 0⟩) (withK [(2, 3)] ∘ fun s => s.modHeat 0 fun h => { h with csyncs := [(0, 3, 0, 2)] })
        (fun _ c => c.heat.csyncs == [(0, 3, 0, 2)] && crewIndex c.team == 0)].all id = true := by decide +kernel
theorem test_witness_coxBarriers :
    [coxMeets (.balloc ⟨2, 4, 0, 3⟩) id plainlyU, coxMeets (.bfree ⟨0, 2, 0, 0⟩) (withBar ∘ withK [(2, 8)]) plainlyU,
      coxMeets (.binit ⟨4, 2, 0⟩) (withBar ∘ withK [(2, 8)]) plainlyU, coxMeets (.barv ⟨0, 2, 4, 0⟩) (withBar ∘ withK [(2, 8)]) plainlyU,
      coxMeets (.barvDecl ⟨1, 2, 4, 0⟩) (withBar ∘ withK [(2, 8)]) plainlyU,
      coxMeets (.barm ⟨4, 2, 0⟩) (withBar ∘ withK [(2, 8), (4, 1)]) plainlyU].all id = true := by decide +kernel
theorem test_witness_coxTables :
    [coxMeets (.tset ⟨4, 0, 0x043⟩) id plainlyU, coxMeets (.gset ⟨4, 0, 0x002⟩) id plainlyU,
      coxMeets (.gset ⟨4, 0, 0x00A⟩) (withK [(4, 0)]) (fun _ _ => true), coxMeets (.nest ⟨4, 0, 3⟩) (withK [(4, 1), (5, 2)]) plainlyU,
      coxMeets (.sseed ⟨0, 2, 0, 0⟩) id plainlyU, coxMeets (.tload ⟨2, 0, 63⟩) id (fun _ c => !c.far 0),
      coxMeets (.tload ⟨2, 0, 63⟩) (withK [(2, 0x7000)]) (fun _ c => c.far 0x7000), coxMeets (.gsetMem ⟨2, 0, 0x012⟩) id plainlyU].all id =
      true := by decide +kernel
theorem test_witness_coxEngines :
    [coxMeets (.mma ⟨8, 0, 0x100⟩) (withEntries ∘ withK [(8, 0x03000100), (9, 8)]) (fun _ c => (c.mma ⟨8, 0, 0x100⟩).kind.isSome),
      coxMeets (.xcp ⟨8, 0, 0x400⟩) (withEntries ∘ withK [(8, 0x100)]) plainlyU,
      coxMeets (.lay ⟨8, 0, 0⟩) (withEntries ∘ withK [(8, 0x100), (9, 0x00010000), (10, 0x20000000)]) plainlyU,
      coxMeets (.xfer ⟨8, 0, 0⟩) (withEntries ∘ withK [(10, 0x100)]) plainlyU,
      coxMeets (.coxOwn ⟨8, 0, 0x402⟩) id plainlyU].all id = true := by decide +kernel
/-- A command of an engine whose quanta up to the cycle 8,192 are taken, and whose last command completes later. -/
def behind (s : State) : State := s.modHeat 0 fun h => { h with
  engFree := [(0, 8192), (1, 8192), (3, 8192)], engDone := [(0, 20000), (1, 20000), (3, 20000)] }
theorem test_witness_coxEngines_later :
    [coxMeets (.mma ⟨8, 0, 0x100⟩) (behind ∘ withEntries ∘ withK [(8, 0x03000100), (9, 8)]) (fun _ c => c.engineFree 0 == 8192),
      coxMeets (.xcp ⟨8, 0, 0x400⟩) (behind ∘ withEntries ∘ withK [(8, 0x100)]) (fun _ c => c.engineFree 1 == 8192),
      coxMeets (.lay ⟨8, 0, 0⟩) (behind ∘ withEntries ∘ withK [(8, 0x100), (9, 0x00010000), (10, 0x20000000)])
        (fun _ c => c.engineFree 3 == 8192),
      coxMeets (.xfer ⟨8, 0, 0⟩) (behind ∘ withEntries ∘ withK [(10, 0x100)]) (fun _ c => c.engineFree 1 == 8192)].all id = true := by
  decide +kernel
theorem test_witness_coxMessages :
    [coxMeets (.lwr ⟨8, 0, 0⟩) id (fun s _ => s.pkgNo == 0), coxMeets (.lwr ⟨8, 0, 0⟩) (withK [(8, 5)]) (fun s _ => s.pkgNo != 5),
      coxMeets (.sig ⟨8, 0, 0⟩) id (fun s _ => s.pkgNo == 0), coxMeets (.sig ⟨8, 0, 0⟩) (withK [(8, 5)]) plainlyU,
      coxMeets (.hpost ⟨8, 0, 0⟩) (withK [(8, 0x63F)]) plainlyU].all id = true := by decide +kernel
theorem test_witness_coxSystem :
    (match laneCtx (benchOf (.eret ⟨0, 0, 0, 0⟩) id), uniCtx (benchOf (.eret ⟨0, 0, 0, 0⟩) id) with
      | none, some c => !c.handling && isPrivileged (.eret ⟨0, 0, 0, 0⟩) &&
          (c.causes (benchOf (.eret ⟨0, 0, 0, 0⟩) id) (.eret ⟨0, 0, 0, 0⟩) (coxOwn (.eret ⟨0, 0, 0, 0⟩) (benchOf (.eret ⟨0, 0, 0, 0⟩) id) c)).all
            fun x => decide (9 ≤ x)
      | _, _ => false) = true ∧
    [coxMeets (.sysr ⟨2, 0, 63⟩) (handling 0) (fun _ c => c.handling), coxMeets (.sysr ⟨2, 0, 64⟩) (handling 0) plainlyU,
      coxMeets (.sysr ⟨2, 0, 66⟩) (handling 0) plainlyU, coxMeets (.sysw ⟨0, 2, 0⟩) (handling 0) plainlyU,
      coxMeets (.sysw ⟨0, 2, 8⟩) (handling 0) plainlyU, coxMeets (.sysw ⟨0, 2, 66⟩) (handling 0 ∘ withK [(2, 1000)]) plainlyU,
      coxMeets (.eret ⟨0, 0, 0, 0⟩) (handling 0x10010000) (fun _ c => c.cox.handler.isSome),
      coxMeets (.eret ⟨0, 0, 0, 0⟩) (handling 0x10080000)
        (fun _ c => c.cox.handler.isSome && !c.heat.record.sched && !c.heat.away)].all id = true := by decide +kernel
/-- The context of an instruction that stands at its issue, for the statements about breaches. -/
def laneThere (i : Instr) (f : State → State) (x : State → LCtx → Bool) : Bool :=
  match laneCtx (benchOf i f) with
  | some c => x (benchOf i f) c
  | none => false
def coxThere (i : Instr) (f : State → State) (x : State → UCtx → Bool) : Bool :=
  match laneCtx (benchOf i f), uniCtx (benchOf i f) with
  | none, some c => x (benchOf i f) c
  | _, _ => false
theorem test_witness_breachesStopTheStream :
    [laneThere (.addI32 ⟨99, 4, 6, 0, none⟩) id (fun s c =>
        c.causes s (.addI32 ⟨99, 4, 6, 0, none⟩) ⟨99, 4, 6, 0, none⟩ (laneOwn (.addI32 ⟨99, 4, 6, 0, none⟩) s c) != []),
      coxThere (.coxAddI64 ⟨1, 2, 4, 0⟩) id (fun s c => !c.handling &&
        c.causes s (.coxAddI64 ⟨1, 2, 4, 0⟩) (coxOwn (.coxAddI64 ⟨1, 2, 4, 0⟩) s c) != []),
      coxThere (.coxAddI64 ⟨1, 2, 4, 0⟩) (handling 0) (fun s c => c.handling &&
        c.causes s (.coxAddI64 ⟨1, 2, 4, 0⟩) (coxOwn (.coxAddI64 ⟨1, 2, 4, 0⟩) s c) != []),
      coxThere (.rdtime ⟨2, 0, 0, 0⟩) (handling 0) (fun _ c => c.handling && !inHandler (.rdtime ⟨2, 0, 0, 0⟩))].all id = true := by
  decide +kernel
theorem test_witness_wrongWordsFault :
    [laneThere (.unassignedOpcode 0x1F000000) id (fun _ _ => true),
      coxThere (.unassignedOpcode 0xA5000000) id (fun _ c => !c.handling)].all id = true ∧
    ([(.laneNop ⟨112, 112, 112, 0, none⟩)].all fun i => (laneWord? i).isSome &&
      coxThere (.coxNop ⟨0, 0, 0, 0⟩) id fun _ c => !c.handling) = true ∧
    (isCox (.coxNop ⟨0, 0, 0, 0⟩) && laneThere (.laneNop ⟨112, 112, 112, 0, none⟩) id fun _ _ => true) = true := by decide +kernel

/-- A state on whose agenda nothing stands before a lane `nop` that is placed after reset; a state that a step of the agenda
begins with; and the state after an instruction. -/
def placed : State := State.reset.withFetchWord 64 (wordsNat (.laneNop ⟨112, 112, 112, 0, none⟩))
def placedCox : State := State.reset.withFetchWord 64 (wordsNat (.coxNop ⟨0, 0, 0, 0⟩))
def ev (e : Ev) (s : State) : State := { s with arg := e }
def after (i : Instr) (s : State) : State :=
  match exec i s with
  | .next t => t
  | _ => State.reset
/-- Whether something holds of a state: the hypotheses of a clause. -/
def holdsOf (s : State) (p : State → Bool) : Bool := p s
def wfOf (s : State) : Bool :=
  Memory.wf s.hbm && (Memory.wf s.hostMem && (Memory.wf s.scratch && Store.wf (0 : Word) s.tiles))
/-- A violation without a place, a scratch access of lane 5, and a landing of one register. -/
def someDetect : Detect :=
  { hid := 0, rank := 1, cause := 0x40, src := 0, res := true, swcode := 0, team := 0, gang := 0, qmask := 0xFF, core := 0
    lanes := 0, fdix := 0, pc := 4, ret := 0, addr := 0, info := 0, eop := 0, eseq := 0, iter := [] }
def someAccess : ScratchAcc :=
  { g := ⟨0, 0, 0⟩, core := 0, base := 0, kind := 2, aop := 0, size := 4, sx := false, fmt := 0, scale := 0
    lanes := [(5, 8, 7, 0), (6, 8, 1, 0)], dests := [(5, [37]), (6, [38])], zeros := [], latch := none, flag := some 0
    blame := someDetect }
def someLanding : LaneLanding :=
  { vs := [(37, 9)], ms := [(1, 0x20, 0x20)], xs := [(5, 3)], wins := [(1, 2)], latch := none, flag := some 0 }

/-! ## Witnesses of the statements of the machine's own steps, a row for each clause -/

/-- A global load, store and reduction on their way, all lanes at 4 KiB; and the same once the lanes have passed their stack. -/
def loading : State := after (.ldg ⟨2, 4, 112, 0, some 0xE0800008⟩) (benchOf (.ldg ⟨2, 4, 112, 0, some 0xE0800008⟩) (withLanes [(4, 0x1000)]))
def lost : State := after (.ldg ⟨2, 4, 112, 0, some 0xE0800008⟩) (benchOf (.ldg ⟨2, 4, 112, 0, some 0xE0800008⟩) (withLanes [(4, 0x400000)]))
def storing : State := after (.stg ⟨112, 4, 112, 0, some 0x0C800000⟩) (benchOf (.stg ⟨112, 4, 112, 0, some 0x0C800000⟩) (withLanes [(4, 0x1000), (6, 5)]))
def adding : State := after (.atg ⟨2, 4, 112, 0, some 0x0C800000⟩) (benchOf (.atg ⟨2, 4, 112, 0, some 0x0C800000⟩) (withLanes [(4, 0x1000), (6, 5)]))
def reducing : State := after (.redg ⟨112, 4, 112, 0, some 0x0C800000⟩) (benchOf (.redg ⟨112, 4, 112, 0, some 0x0C800000⟩) (withLanes [(4, 0x1000), (6, 5)]))
def passed (s : State) : State := after .stackAccess (ev (.stackAccess (.lanes 0 0xFFFFFFFF true)) { s with now := 320 })
def oneLane (s : State) : State := s.modGop 0 fun o => { o with lanes := o.lanes.take 1 }
def firstOp (s : State) (p : GlobalOp → Bool) : Bool := (s.gop? 0).any p

theorem test_witness_resultsLand :
    [holdsOf (ev (.laneResult ⟨0, 0, 0⟩ someLanding) placed) fun s => (s.gang? ⟨0, 0, 0⟩).isSome,
      holdsOf (ev (.scratchLoadDelivery ⟨0, 0, 0⟩ someLanding) placed) fun s => (s.gang? ⟨0, 0, 0⟩).isSome,
      holdsOf (ev (.coxResult ⟨0, 0⟩ { ks := [(2, 3), (63, 4)], ps := [(1, true)], ts := [(3, 0, [1, 2, 3])], gs := [(1, 7)], nests := [(0, [(1, 2, 3)])], flag := none }) placed) fun s => (s.team? ⟨0, 0⟩).isSome,
      holdsOf (ev (.scratchStorePerform someAccess none) placed) fun s => wfOf s,
      holdsOf (ev (.scratchAtomicPerform someAccess none) placed) fun s => wfOf s && someAccess.lanes.all fun l => l.2.1 % someAccess.size == 0,
      holdsOf (ev (.scratchStorePerform someAccess (some someDetect)) placed) fun s => (s.gang? someAccess.g).isSome,
      holdsOf (ev (.scratchAtomicPerform someAccess (some someDetect)) placed) fun s => (s.gang? someAccess.g).isSome,
      holdsOf (ev (.ownerFlipOpen 0 3) (placed.modCore 0 fun c => { c with closed := [(3, 0)] })) fun s => s.arg == .ownerFlipOpen 0 3].all id = true := by decide +kernel
theorem test_witness_globalSteps_0 :
    [holdsOf (ev (.stackAccess (.lanes 0 0xFFFFFFFF true)) { loading with now := 320 }) fun s => firstOp s fun o => !o.hot && (s.team? o.teamRef).any fun x => (s.heat? o.hid).any fun h => o.lanes.all fun l => (match translate x.wins l.va (!o.isLoad) with | .ok _ _ _ => true | .fail _ => false) && (revokedAt x.wins l.va s.now).isNone && (stackBreach h (clusterOf x.core) (stackOf l.va) s.now).isNone && s.stackFrames.isEmpty && s.env.hbmErrors.isEmpty,
      holdsOf (ev (.stackAccess (.lanes 0 0xFFFFFFFF true)) { lost with now := 320 }) fun s => firstOp s fun o => !o.hot && (s.gang? o.gangRef).isSome && (s.team? o.teamRef).any fun x => o.lanes.any fun l => (match translate x.wins l.va (!o.isLoad) with | .ok _ _ _ => false | .fail _ => true),
      holdsOf (ev (.globalPerform 0 0xFFFFFFFF) (passed storing)) fun s => wfOf s && firstOp s fun o => o.kind == .store && s.gops.filter (fun p => p.core == o.core && !p.isLoad) == [o] && decide (o.lanes.Pairwise (fun a b => a.lane < b.lane)) && s.dueLanes o != [],
      holdsOf (ev (.globalPerform 0 0xFFFFFFFF) (oneLane (passed reducing))) fun s => wfOf s && s.env.lostAtomics.isEmpty && s.atomWindows.isEmpty && firstOp s fun o => o.kind == .reduce && s.gops.filter (fun p => p.core == o.core && !p.isLoad) == [o] && (s.dueLanes o).length == 1,
      holdsOf (ev (.globalPerform 0 0xFFFFFFFF) (oneLane (passed adding))) fun s => wfOf s && s.env.lostAtomics.isEmpty && s.atomWindows.isEmpty && firstOp s fun o => o.kind == .atomic && s.gops.filter (fun p => p.core == o.core && !p.isLoad) == [o] && (s.dueLanes o).length == 1,
      holdsOf (ev (.globalPerform 0 0xFFFFFFFF) (passed loading)) fun s => firstOp s fun o => o.kind == .load,
      holdsOf (ev (.globalLoadDelivery 0 0xFFFFFFFF) (passed loading)) fun s => firstOp s fun o => !o.hot && (s.gang? o.gangRef).isSome && decide (((o.dests.map (·.2)).flatten ++ o.zeros).Nodup ∧ (o.dests.map (·.1)).Nodup ∧ (o.lanes.map (·.lane)).Nodup),
      holdsOf (ev (.atomicResult 0 0xFFFFFFFF) (passed adding)) fun s => firstOp s fun o => o.isAtomic && !o.hot && (s.gang? o.gangRef).isSome && decide (((o.dests.map (·.2)).flatten ++ o.zeros).Nodup ∧ (o.dests.map (·.1)).Nodup ∧ (o.lanes.map (·.lane)).Nodup),
      holdsOf (ev (.globalStoreCompletion 0) (passed storing)) fun s => firstOp s fun o => o.kind == .store,
      holdsOf (ev (.atomicRepeat 0 0) (passed adding)) fun s => wfOf s && s.env.lostAtomics.isEmpty && firstOp s fun o => (o.lanes.find? (fun l => l.lane == 0)).isSome].all id = true := by decide +kernel
theorem test_witness_globalSteps_1 :
    [holdsOf (ev (.atomicRepeat 0 0) { passed adding with env := { (passed adding).env with lostAtomics := (((passed adding).gop? 0).map fun o => o.lanes.map fun l => (0, l.sq)).getD [] } }) fun s => firstOp s fun o => (o.lanes.find? (fun l => l.lane == 0)).any fun l => s.env.lostAtomics.contains (0, l.sq)].all id = true := by decide +kernel
/-- A barrier action of core 0, team 0. -/
def someAct (act opa : Nat) : BarmAct :=
  { hid := 0, heatid := 1, queue := 0, team := 0, tsel := 0, rel := 0, act := act, opa := BitVec.ofNat 32 opa, opb := 9 }
/-- Something of the first heat, with its first team. -/
def team0 (s : State) (p : Heat → Team → Bool) : Bool := (s.heat? 0).any fun h => (s.team? ⟨0, 0⟩).any fun x => p h x
def spanning (s : State) : State := withGang (fun g => { g with spans := [50] }) s
/-- A core with a landing that has not been received. -/
def unread (s : State) : State := s.modCore 0 fun c => { c with landing := some ⟨0, 5, ⟨0, 0, 0⟩, []⟩ }

theorem test_witness_streamSteps_0 :
    [holdsOf (ev (.sndLanding 0 ⟨0, 0, 0⟩ [1]) placed) fun s => (s.core 0).landing.isNone,
      holdsOf (ev (.sndLanding 0 ⟨0, 0, 0⟩ [1]) (unread placed)) fun s => (s.core 0).landing.any fun l => (s.gang? l.sender).isSome,
      holdsOf (ev (.landingNotReceived 0 5) (unread placed)) fun s => (s.core 0).landing.any fun l => l.stamp == 5 &&
        (s.gang? l.sender).isSome && (s.heat? l.sender.hid).any fun h => h.issuesAt 0 (s.now - h.anchor),
      holdsOf (ev (.landingNotReceived 0 4) (unread placed)) fun s => (s.core 0).landing.any fun l => l.stamp != 4 &&
        (s.heat? l.sender.hid).isSome,
      holdsOf (ev (.csyncSessionOpen 0 0 1 7) placed) fun s => (s.heat? 0).any fun h => h.issuesAt 0 (s.now - h.anchor) &&
        h.teams.all fun x => !(clusterOf x.core == 0 && Nat.testBit 1 (crewIndex x)) || !x.retired,
      holdsOf (ev (.spanEnd ⟨0, 0, 0⟩ 50) (spanning placed)) fun s => team0 s fun h x => h.teamIssuesAt x 50 &&
        (s.gang? ⟨0, 0, 0⟩).any fun y => y.spans.contains 50 && y.groups.all (fun g => g.stopped.isNone && g.quads != 0) &&
          y.groups.any fun g => !g.atSpe,
      holdsOf (ev (.spanEnd ⟨0, 0, 0⟩ 50) placed) fun s => team0 s fun h x => h.teamIssuesAt x 50 &&
        (s.gang? ⟨0, 0, 0⟩).any fun y => !y.spans.contains 50 && y.groups.all fun g => g.stopped.isNone && g.quads != 0,
      holdsOf (ev (.spanEnd ⟨0, 0, 0⟩ 50) ((spanning placed).modHeat 0 fun h => { h with halt := some (.preempt, 8) })) fun s =>
        team0 s fun h x => !h.teamIssuesAt x 50 && (s.gang? ⟨0, 0, 0⟩).isSome,
      holdsOf (ev (.bwtResume ⟨0, 0, 0⟩ 0xFF) (withBar (withGroup (fun g => { g with wait := .bwt 8 1 }) placed))) fun s =>
        (s.heat? 0).any fun h => h.halt.isNone && (s.group? ⟨0, 0, 0⟩ 0xFF).any fun g => g.wait == .bwt 8 1,
      holdsOf (ev (.rejoinMerge ⟨0, 0, 0⟩) (withGang (fun g => { g with groups := g.groups.flatMap fun x =>
          [{ x with quads := 0x0F, wait := .rejoin 4 8 }, { x with quads := 0xF0, wait := .rejoin 4 8 }] }) placed)) fun s =>
        (s.gang? ⟨0, 0, 0⟩).any fun y => y.groups.length == 2 && y.groups.all fun g => g.wait == .rejoin 4 8].all id = true := by
  decide +kernel
theorem test_witness_streamSteps_1 :
    [holdsOf (ev (.twaitDeadline ⟨0, 0⟩) (withStack (fun c => { c with wait := .until 0 }) placedCox)) fun s => team0 s fun h x =>
        x.cox.stopped.isNone && h.teamIssuesAt x (s.now - h.base x),
      holdsOf (ev (.twaitDeadline ⟨0, 0⟩) { (placedCox.modHeat 0 fun h => { h with halt := some (.preempt, 8) }) with now := 100 })
        fun s => team0 s fun h x => !h.teamIssuesAt x (s.now - h.base x),
      holdsOf (ev (.coxBwtDeadline ⟨0, 0⟩) (withBar (withStack (fun c => { c with wait := .phase 0 8 1 }) placedCox))) fun s =>
        team0 s fun h x => x.cox.wait == .phase 0 8 1 && x.cox.stopped.isNone && h.teamIssuesAt x (s.now - h.base x) &&
          visiblePhase ((s.core x.core).bar 8) s.now != 1,
      holdsOf (ev (.coxBwtDeadline ⟨0, 0⟩) (withBar (withStack (fun c => { c with wait := .phase 0 8 0 }) placedCox))) fun s =>
        team0 s fun h x => x.cox.wait == .phase 0 8 0 && x.cox.stopped.isNone && h.teamIssuesAt x (s.now - h.base x) &&
          visiblePhase ((s.core x.core).bar 8) s.now == 0,
      holdsOf (ev (.barmActionLaunch 0 (someAct 0 3)) (placed.modRing 3 fun r => { r with en := true })) fun s =>
        (s.ring 3).en && (s.ring 3).waiting.isEmpty,
      holdsOf (ev (.barmActionLaunch 0 (someAct 1 0x20000)) placed) fun s => BitVec.ofNat 17 0x20000 == s.pkgNo,
      holdsOf (ev (.barmActionLaunch 0 (someAct 2 5)) placed) fun s => s.now == 0].all id = true := by decide +kernel

/-- Engine commands just issued, each with number 0: a pass into an entry and into a tile, copies from scratch to scratch, to
a tile, and from global memory, from and to the host, a layout, and a transfer; and a record with its seal. -/
def issued (i : Instr) (f : State → State) : State := after i (benchOf i f)
def multiplying : State := issued (.mma ⟨8, 0, 0x100⟩) (withEntries ∘ withK [(8, 0x03000100), (9, 8)])
def multiplyingTile : State := issued (.mma ⟨8, 0, 0x100⟩) (withEntries ∘ withK [(8, 0x40000100), (9, 8)])
def copying : State := issued (.xcp ⟨8, 0, 0⟩) (withEntries ∘ withK [(8, 0x100)])
def copyingTile : State := issued (.xcp ⟨8, 0, 0⟩) (withEntries ∘ withK [(8, 0x4003)])
def farEntry : Tensor := { pitched 10 0x1000 2 with loc := true }
def copyingIn : State := issued (.xcp ⟨8, 0, 0⟩) (withTeam (fun t => { t with t := [(0, farEntry), (1, pitched 10 1024 2)] }) ∘ withK [(8, 0x100)])
def copyingHost : State := issued (.xcp ⟨8, 0, 0⟩) (withEntries ∘ withK [(8, 0x17E), (9, 0x1000)])
def copyingOut : State := issued (.xcp ⟨8, 0, 0⟩) (withEntries ∘ withK [(8, 0x7E00), (9, 0x1000)])
def layingOut : State := issued (.lay ⟨8, 0, 0⟩) (withEntries ∘ withK [(8, 0x100), (9, 0x00010000), (10, 0x20000000)])
def transferring : State := issued (.xfer ⟨8, 0, 0⟩) (withEntries ∘ withK [(10, 0x100)])
def sealedAt (p : Nat) (bs : List Byte) : List Byte := bs.take p ++ leBytes 4 (crc32c (zeroSeal bs p)) ++ bs.drop (p + 4)
def tensorRecord (q0 : Nat) : List Byte := sealedAt 12 (leBytes 8 q0 ++ List.replicate 120 0)
def ownedBy (n : BitVec 3) : State → State := withCore fun c => { c with owner := [(0, n)] }
def recording (bs : List Byte) : State := (issued (.tload ⟨2, 0, 63⟩) id).modGop 0 fun o => { o with bytes := bs }
def generating (bs : List Byte) : State := (issued (.gsetMem ⟨2, 0, 0x012⟩) id).modGop 0 fun o => { o with bytes := bs }
def firstCmd (s : State) (p : EngCmd → Bool) : Bool := (s.cmd? 0).any p
def passBody (s : State) (p : EngCmd → MmaBody → PassKind → Bool) : Bool := firstCmd s fun c =>
  match c.body with
  | .mma b => b.kind.any fun k => p c b k
  | _ => false
def copyBody (s : State) (place : Nat) (p : EngCmd → XcpBody → CopyRow → Bool) : Bool := firstCmd s fun c =>
  match c.body with
  | .xcp b => (b.row (rowOf place)).any fun r => p c b r
  | _ => false
def layBody (s : State) (p : EngCmd → Tensor → Tensor → BitVec 64 → Bool) : Bool := firstCmd s fun c =>
  match c.body with
  | .lay a b w => p c a b w
  | _ => false
def atStart (s : State) : State := { s with now := (((s.cmd? 0).map (·.start)).getD 0) }

theorem test_witness_engineSteps_0 :
    [holdsOf (ev (.engineCommandStart 0) (atStart multiplying)) fun s => passBody s fun _ _ _ => true,
      holdsOf (ev (.engineCommandStart 0) (atStart copying)) fun s => copyBody s 0 fun _ _ _ => true,
      holdsOf (ev (.engineCommandStart 0) (atStart layingOut)) fun s => layBody s fun _ _ _ _ => true,
      holdsOf (ev (.engineCommandStart 0) (atStart transferring)) fun s => firstCmd s fun _ => true,
      holdsOf (ev (.matrixRead 0) (ownedBy 0 (atStart multiplying))) fun s => passBody s fun c b k => c.failed.isNone && b.regions.length == 4 && (s.passOwners c b k).isSome,
      holdsOf (ev (.matrixRead 0) (ownedBy 2 (atStart multiplying))) fun s => passBody s fun c b k => c.failed.isNone && (s.passOwners c b k).isNone && s.now - s.cmdBase c == c.start && (s.passEcc (s.passCtx c) (b.regions.take (if b.zc then 2 else 3))).isNone,
      holdsOf (ev (.matrixWrite 0 false) (ownedBy 0 (atStart multiplying))) fun s => passBody s fun c b k => c.failed.isNone && (s.passOwners c b k).isSome,
      holdsOf (ev (.matrixWrite 0 false) (ownedBy 2 (atStart multiplying))) fun s => passBody s fun c b k => c.failed.isNone && (s.passOwners c b k).isNone,
      holdsOf (ev (.matrixWrite 0 true) ((atStart multiplyingTile).modCmd 0 fun c => { c with result := [7] })) fun s => passBody s fun c b _ => b.d == .tile 0 && c.result.length == b.m * b.n && decide (b.drow + b.m ≤ 128 ∧ b.dcol + b.n ≤ 128),
      holdsOf (ev (.matrixWrite 0 true) ((atStart multiplying).modCmd 0 fun c => { c with result := [0x40490FDB] })) fun s => wfOf s && passBody s fun _ b _ => match b.d with | .entry _ => true | _ => false].all id = true := by decide +kernel
theorem test_witness_engineSteps_1 :
    [holdsOf (ev (.copyBeat 0 0) (ownedBy 0 (atStart copying))) fun s => copyBody s 0 fun c b r => c.failed.isNone && decide (0 < r.s.count) && (match b.src with | .entry e => !e.loc | _ => false) && (match s.readPiece c b r.s 0 with | .inl _ => true | .inr _ => false),
      holdsOf (ev (.copyBeat 0 0) { ownedBy 1 (atStart copying) with scratch := [(0, 9)] }) fun s => copyBody s 0 fun c b r => c.failed.isNone && decide (0 < r.s.count) && (match b.src with | .entry e => !e.loc | _ => false) && (match s.readPiece c b r.s 0 with | .inl _ => false | .inr _ => true),
      holdsOf (ev (.copyBeat 0 0) (atStart copyingIn)) fun s => copyBody s 0 fun _ b r => decide (0 < r.s.count) && (match b.src with | .entry e => e.loc | _ => false),
      holdsOf (ev (.copyWrite 0 0) (ownedBy 0 (atStart copyingIn))) fun s => wfOf s && copyBody s 0 fun c b r => c.failed.isNone && (match b.dst with | .entry _ => true | _ => false) && (s.bytesBreach c.core (s.sbaseOf c) 1 false (beatOffsets r 0)).isSome,
      holdsOf (ev (.copyWrite 0 0) ((ownedBy 1 (atStart copying)).modCmd 0 fun c => { c with buf := [(bufKey 0 0, 9)] })) fun s => wfOf s && copyBody s 0 fun c b r => c.failed.isNone && (match b.dst with | .entry _ => true | _ => false) && (s.bytesBreach c.core (s.sbaseOf c) 1 false (beatOffsets r 0)).isNone,
      holdsOf (ev (.copyWrite 0 0) ((atStart copyingTile).modCmd 0 fun c => { c with buf := [(bufKey 0 0, 9)] })) fun s => copyBody s 0 fun _ b _ => b.dst == .tile 0,
      holdsOf (ev (.layoutBeat 0 0) (ownedBy 0 (atStart layingOut))) fun s => layBody s fun c a b w => c.failed.isNone && decide (0 < b.unit) && (s.bytesBreach c.core (s.sbaseOf c) 3 true (((layUnits b 0).map fun u => laySource w a b u).flatten)).isSome,
      holdsOf (ev (.layoutBeat 0 0) { ownedBy 3 (atStart layingOut) with scratch := [(2, 9)] }) fun s => layBody s fun c a b w => c.failed.isNone && decide (0 < b.unit) && (s.bytesBreach c.core (s.sbaseOf c) 3 true (((layUnits b 0).map fun u => laySource w a b u).flatten)).isNone,
      holdsOf (ev (.layoutWrite 0 0) (ownedBy 3 (atStart layingOut))) fun s => wfOf s && layBody s fun c _ b _ => c.failed.isNone && (s.bytesBreach c.core (s.sbaseOf c) 3 false ((layPositions b 0).map (layOffset b))).isNone,
      holdsOf (ev (.layoutWrite 0 0) ((atStart layingOut).modCore 0 fun c => { c with owner := [(0, 1)] })) fun s => wfOf s && layBody s fun c _ b _ => c.failed.isNone && (s.bytesBreach c.core (s.sbaseOf c) 3 false ((layPositions b 0).map (layOffset b))).isSome].all id = true := by decide +kernel
theorem test_witness_engineSteps_2 :
    [holdsOf (ev (.engineCompletion 0) (atStart copying)) fun s => firstCmd s fun c => c.failed.isNone && !c.held && s.cmds.find? (fun x => x.cluster == c.cluster && x.eng == c.eng && x.failed.isNone && !x.held) == some c && s.cmds.all fun x => !(x.cluster == c.cluster && x.eng == c.eng && x.id != 0) || !x.done,
      holdsOf (ev (.engineCompletion 0) { atStart copying with cmds := ((copying.cmd? 0).map fun c => [{ c with id := 5 }, c]).getD [] }) fun s => firstCmd s fun c => c.failed.isNone && !c.held && s.cmds.find? (fun x => x.cluster == c.cluster && x.eng == c.eng && x.failed.isNone && !x.held) == s.cmd? 5,
      holdsOf (ev (.tloadCompletion 0) (recording (tensorRecord 0x7E50010000000000))) fun s => (s.gop? 0).any fun o => (s.team? o.teamRef).isSome && (tensorBreaches o.bytes).isEmpty,
      holdsOf (ev (.tloadCompletion 0) (recording (List.replicate 128 0))) fun s => (s.gop? 0).any fun o => (s.team? o.teamRef).isSome && !(tensorBreaches o.bytes).isEmpty,
      holdsOf (ev (.gsetMemCompletion 0) (generating (List.replicate 16 0))) fun s => (s.gop? 0).any fun o => (s.team? o.teamRef).any fun x => (genBreaches o.n (Store.get 0 x.g (o.n - 1)) (genImage o.bytes)).isEmpty,
      holdsOf (ev (.gsetMemCompletion 0) (generating (List.replicate 16 0xFF))) fun s => (s.gop? 0).any fun o => (s.team? o.teamRef).any fun x => !(genBreaches o.n (Store.get 0 x.g (o.n - 1)) (genImage o.bytes)).isEmpty,
      holdsOf (ev (.hostBoundCheck 0 0 true) { (atStart copyingOut).modCmd 0 (fun c => { c with buf := [(bufKey 0 0, 9)] }) with ready := { State.reset.ready with pcie := true } }) fun s => wfOf s && copyBody s 0 fun c _ _ => s.ready.pcie && Store.get 0 c.image 1 == 0,
      holdsOf (ev (.hostBoundCheck 0 0 false) { atStart copyingHost with ready := { State.reset.ready with pcie := true }, hostMem := [(busAddr 0x1000, 9)] }) fun s => wfOf s && copyBody s 0 fun c _ _ => s.ready.pcie && Store.get 0 c.image 0 == 0,
      holdsOf (ev (.hostBoundCheck 0 1 true) (atStart copyingOut)) fun s => copyBody s 0 fun c _ _ => !s.ready.pcie && c.failed.isNone && Store.get 0 c.image 1 == 0].all id = true := by decide +kernel

/-- Flow entries of the placed heat: flow 0 of port 0 in slot 0 of every frame; and the transfer with its record read. -/
def someFlow (role dest op : Nat) : FlowEntry :=
  { flow := 0, port := 0, role := role, rport := 0, dest := dest, team := 0, cred := true, arr := true, bidx := 8, op := op, base := 0
    len := 512, firstf := 0, sfirst := 0, scnt := 1, doff := 0 }
def withFlow (e : FlowEntry) (s : State) : State := s.modHeat 0 fun h => { h with record := { h.record with flows := [e] } }
def someShape (rop : Nat) : ShapeRec :=
  { kind := 1, rop := rop, pax := 0, repl := 0, splitdim := 0, grid := [1, 1, 1, 1], lgen := 0, nitem := 1, done := 2000, nflow := 1
    flowbase := 0, npkg := 1, place := 0, coords := [0, 0, 0, 0], rank := 0, size := 1, part := 0, parts := 1 }
def shaped (rop : Nat) : State := transferring.modCmd 0 fun c => { c with shape := some (someShape rop) }
def shapeRecord (list : Nat) : List Byte := sealedAt 12 ((([0xC011010000000000, 0, 0x0001000100010001, 1, 2000 * 2 ^ 32 + 4096, list, 1]
  ++ List.replicate 9 0).map fun q => leBytes 8 q).flatten)
def reading (bs : List Byte) : State := withFlow (someFlow 3 2 0) (transferring.modGop 1 fun o => { o with bytes := bs })
def ones : List Byte := (List.replicate 64 [0x00, 0x00, 0x80, 0x3F]).flatten
def inBody (s : State) (p : Tensor → Tensor → Bool) : Bool := firstCmd s fun c =>
  match c.body with
  | .xfer a b _ => p a b
  | _ => false
/-- Whether the first fold's bytes can be read where they lie. -/
def readable (s : State) (e : FlowEntry) (p : FlowPlace) (write : Bool) : Bool :=
  match (s.placeBytes 0 e p write).1 with
  | .inr _ => true
  | .inl _ => false
def foldable (s : State) (rop : Nat → Bool) : Bool := firstCmd s fun c => c.shape.any (fun r => rop r.rop) &&
  ((s.heat? 0).bind (·.flow? 0)).any fun e => e.dest == 2 && (s.xferOf 0 e) == some c && match s.flowPlace 0 e 0 with
    | .scratch o code => readable s e (.scratch o code) true
    | _ => false
/-- Port 0 trained, its slot 0 named for flow 0 in both directions. -/
def linked (f : Port → Port) (s : State) : State := s.modPort 0 fun p => f { p with trained := true, txTable := [(0, 0x80000000)], rxTable := [(0, 0x80000000)] }
def flow0 (s : State) (p : Heat → FlowEntry → Bool) : Bool := (s.heat? 0).any fun h => (h.flow? 0).any fun e => p h e

theorem test_witness_collectiveSteps_0 :
    [holdsOf (ev (.xferRecordRead 0) (reading (shapeRecord 0x1000))) fun s => inBody s fun a b => (s.gop? 1).any fun o => (s.team? ⟨0, 0⟩).any fun x => (shapeBreaches o.bytes a b).isEmpty && (s.packagePlace x (bits (qword o.bytes 5) 55 0) (shapeOf o.bytes).npkg).isSome,
      holdsOf (ev (.xferRecordRead 0) (reading (List.replicate 128 0))) fun s => inBody s fun a b => (s.gop? 1).any fun o => (s.team? ⟨0, 0⟩).any fun x => !(shapeBreaches o.bytes a b).isEmpty && (s.packagePlace x (bits (qword o.bytes 5) 55 0) (shapeOf o.bytes).npkg).isNone,
      holdsOf (ev (.xferRecordRead 0) { reading (shapeRecord 0x1000) with hbm := Store.putRun 0 (reading []).hbm 0x1000 [5] }) fun s => inBody s fun a b => (s.gop? 1).any fun o => (s.team? ⟨0, 0⟩).any fun x => (shapeBreaches o.bytes a b).isEmpty && (s.packagePlace x (bits (qword o.bytes 5) 55 0) (shapeOf o.bytes).npkg).isNone,
      holdsOf (ev (.collectiveFold 0 0 0 ones) (ownedBy 4 (withFlow (someFlow 1 2 1) (shaped 1)))) fun s => wfOf s && decide (ones.length = 256) && foldable s (· != 5),
      holdsOf (ev (.collectiveFold 0 0 0 ones) (ownedBy 4 (withFlow (someFlow 1 2 1) (shaped 5)))) fun s => wfOf s && foldable s (· == 5),
      holdsOf (ev (.localMove 0 0 0) (ownedBy 1 (withFlow (someFlow 3 2 1) (shaped 1)))) fun s => inBody s (fun a _ => !a.loc && flow0 s fun _ e => readable s e (a.placeAt e.base 1) false) && flow0 s fun _ e => (s.xferOf 0 e).isSome && e.op == 1,
      holdsOf (ev (.localMove 0 0 0) (ownedBy 1 (withFlow (someFlow 3 2 0) (shaped 1)))) fun s => inBody s (fun a _ => !a.loc && flow0 s fun _ e => readable s e (a.placeAt e.base 1) false) && flow0 s fun _ e => (s.xferOf 0 e).isSome && e.op != 1 && (match s.flowPlace 0 e 0 with | .scratch _ _ => true | _ => false),
      holdsOf (ev (.bf16ImageWrite 0 0) (ownedBy 4 ((shaped 5).modCmd 0 fun c => { c with image := [(0, 0x3F800000)], buf := [(0, 1)] }))) fun s => wfOf s && inBody s (fun _ b => !b.loc && decide (0 < b.box.units * b.unit)) && firstCmd s fun c => readable s (dstEntryOf c) (.scratch 1024 4) true,
      holdsOf (ev (.xferDone 0) (withFlow (someFlow 1 2 1) (shaped 1))) fun s => firstCmd s fun c => c.failed.isNone && !c.held && (s.heat? 0).any fun h => c.shape.any fun r => (h.collEntries r).any fun ie => ie.2.role == 1 && decide (Store.get 0 c.left 1 < ie.2.len),
      holdsOf (ev (.xferDone 0) (withFlow (someFlow 1 2 1) ((shaped 1).modCmd 0 fun c => { c with left := [(1, 512)] }))) fun s => firstCmd s fun c => c.failed.isNone && !c.held && s.cmds.find? (fun x => x.cluster == c.cluster && x.eng == c.eng && x.failed.isNone && !x.held) == some c && (s.heat? 0).any fun h => c.shape.any fun r => (h.collEntries r).all fun ie => decide (ie.2.len ≤ Store.get 0 c.left (4 * ie.2.flow + ie.2.role))].all id = true := by decide +kernel
theorem test_witness_collectiveSteps_1 :
    [holdsOf (ev (.layoutGenerationChange 3) placed) fun s => (s.cmds.filterMap s.pinnedBy).isEmpty,
      holdsOf (ev (.layoutGenerationChange 3) (shaped 1)) fun s => s.cmds.filterMap s.pinnedBy == [s.teamBase ⟨0, 0⟩ + 2000],
      holdsOf (ev (.layoutGenerationChange 3) { shaped 1 with layoutGen := 1 }) fun s => (s.cmds.filterMap s.pinnedBy).isEmpty].all id =
      true := by decide +kernel

/-- A flow entry that a completed heat left in the bank; port 0 with a flit released in this cycle. -/
def leftOver (e : FlowEntry) (s : State) : State := { s with heats := [], gone := [{ hid := 0, entry := 0, e := e, base := 0 }] }
def releasing (f : Flit) (s : State) : State := linked (fun p => { p with incoming := [(0, f)] }) s
/-- The hypotheses of a slot that is this flow's to send; of a transmit read; of a release to the receive entry of the slot. -/
def sends (s : State) : Bool := (s.sender? 0 0).any fun x => (s.port x.1.port).trained &&
  slotFlow (s.port x.1.port).txTable (s.port x.1.port).txAct (slotIdx s.now) == some x.1.flow
def reads (s : State) (n : Nat) (p : Team → FlowPlace → Bool) : Bool := (s.sender? 0 0).isSome && flow0 s fun h e => e.role == 0 &&
  h.flowBegun e n && !h.flowStopped 0 n && decide (h.cursorAt e n < e.len) &&
  (s.team? ⟨0, e.team⟩).any fun x => p x (s.flowPlace 0 e (h.cursorAt e n))
def hands (s : State) : Bool := flow0 s fun h e => (s.port 0).trained && (s.port 0).lastRelease != some s.now &&
  slotFlow (s.port 0).rxTable (s.port 0).rxAct (slotIdx s.now) == some 0 && s.receivers 0 0 == [(h, 0, e)] &&
  (s.heats.all fun z => z.relays 0 0 == []) && h.stops.isEmpty && decide (h.cursorAt e s.now < e.len)
def isScratch : FlowPlace → Bool
  | .scratch _ _ => true
  | _ => false
def isGlobal : FlowPlace → Bool
  | .global _ => true
  | _ => false

theorem test_witness_linkSteps_0 :
    [holdsOf (ev (.transmitRead 0 0 8 false) (ownedBy 4 (withFlow { someFlow 0 0 0 with sfirst := 8 } placed))) fun s =>
        reads s 16 fun x p => isScratch p && s.landable x 0 4 && !s.bytesLost x.core x.sbase (List.range 256),
      holdsOf (ev (.transmitRead 0 0 80 false) (ownedBy 4 (withFlow { someFlow 0 0 0 with sfirst := 80 } placed))) fun s =>
        reads s 160 (fun _ p => isScratch p) && decide (s.now + 16 < 160),
      holdsOf (ev (.transmitRead 0 0 8 true) (ownedBy 4 (withFlow { someFlow 0 0 0 with sfirst := 8 } { placed with
          env := { placed.env with doubleBits := [(0, scratchKey 0 0 / 8)] } }))) fun s => reads s 16 fun x _ =>
        s.landable x 0 4 && s.bytesLost x.core x.sbase (List.range 256),
      holdsOf (ev (.transmitRead 0 0 4096 false) (withFlow (someFlow 0 1 0) placed)) fun s => reads s 8192 fun _ p => isGlobal p,
      holdsOf (ev (.transmitRead 0 0 0 false) (leftOver (someFlow 0 0 0) placed)) fun s =>
        (s.sender? 0 0).any fun x => (x.1.slotFrom x.2 2).isSome,
      holdsOf (ev (.scheduledFlitSend 0 0 0) (withFlow (someFlow 0 0 0) placed)) fun s => (s.sender? 0 0).any fun x =>
        !(s.port x.1.port).trained,
      holdsOf (ev (.scheduledFlitSend 0 0 0) (linked id (leftOver (someFlow 0 0 0) placed))) fun s => sends s && (s.heat? 0).isNone,
      holdsOf (ev (.scheduledFlitSend 0 0 0) (linked (fun p => { p with txBuf := [(0, [1, 2])] }) (withFlow (someFlow 0 0 0) placed)))
        fun s => sends s && flow0 s fun h e => !h.flowStopped 0 s.now && h.flowBegun e s.now && decide (h.cursorAt e s.now < e.len) &&
          e.role != 2 && (s.port 0).txBuf == [(0, [1, 2])],
      holdsOf (ev (.scheduledFlitSend 0 0 0) (linked (fun p => { p with txBuf := [(0, [])] }) (withFlow (someFlow 0 0 0) placed)))
        fun s => sends s && flow0 s fun h e => !h.flowStopped 0 s.now && h.flowBegun e s.now && decide (h.cursorAt e s.now < e.len) &&
          (s.port 0).txBuf == [(0, [])]].all id = true := by decide +kernel
theorem test_witness_linkSteps_1 :
    [holdsOf (ev (.scheduledFlitSend 0 0 0) (linked id (withFlow { someFlow 2 0 0 with rport := 1 } placed))) fun s => sends s &&
        flow0 s fun h e => e.role == 2 && !h.flowStopped 0 s.now && h.flowBegun e s.now && decide (h.cursorAt e s.now < e.len),
      holdsOf (ev (.scheduledFlitSend 0 0 0) (linked id ((withFlow (someFlow 0 0 0) placed).modHeat 0 fun h =>
          { h with halt := some (.preempt, 0) }))) fun s => sends s && flow0 s fun h _ => h.flowStopped 0 s.now,
      holdsOf (ev (.scheduledFlitSend 0 0 0) (linked id (withFlow { someFlow 0 0 0 with firstf := 1 } placed))) fun s => sends s &&
        flow0 s fun h e => !h.flowStopped 0 s.now && !h.flowBegun e s.now,
      holdsOf (ev (.scheduledFlitSend 0 0 0) (linked id (withFlow { someFlow 0 0 0 with len := 0 } placed))) fun s => sends s &&
        flow0 s fun h e => !h.flowStopped 0 s.now && h.flowBegun e s.now && decide (e.len ≤ h.cursorAt e s.now),
      holdsOf (ev (.flitArrival 0 5 .idle) placed) fun s => !(s.port 0).trained,
      holdsOf (ev (.flitArrival 0 5 .idle) { linked id placed with now := 6 }) fun s => decide (5 < s.now),
      holdsOf (ev (.flitArrival 0 5 .halt) { linked id placed with now := 5 }) fun s => (s.port 0).trained && decide (s.now ≤ 5),
      holdsOf (ev (.flitRelease 0) placed) fun s => !(s.port 0).trained && (s.port 0).lastRelease != some s.now,
      holdsOf (ev (.flitRelease 0) (releasing (.bytes [1]) (withFlow (someFlow 1 0 0) placed))) fun s => hands s &&
        flow0 s fun _ e => e.dest == 0,
      holdsOf (ev (.flitRelease 0) (linked id (withFlow (someFlow 1 0 0) placed))) hands,
      holdsOf (ev (.flitRelease 0) (releasing .halt (withFlow (someFlow 1 0 0) placed))) fun s => hands s && flow0 s fun h _ =>
        h.status == .running && h.halt.isNone && h.dieHalt.isEmpty,
      holdsOf (ev (.flitRelease 0) (releasing (.bytes [1]) (withFlow { someFlow 2 0 0 with rport := 0, port := 1 } placed))) fun s =>
        flow0 s fun h e => s.receivers 0 0 == [] && s.heats.filter (·.receives) == [h] && h.relays 0 0 == [(0, e)] &&
          (s.port 0).relay.isEmpty].all id = true := by decide +kernel
theorem test_witness_linkSteps_2 :
    [holdsOf (ev (.flitLanding 0 0 256 [1, 2]) (withBar (ownedBy 4 (withFlow (someFlow 1 0 0) placed)))) fun s => wfOf s && flow0 s fun _ e =>
        isScratch (s.flowPlace 0 e 256) && (s.team? ⟨0, 0⟩).any fun x => s.landable x 256 4 && e.cred && e.role == 1 &&
          (s.handleBreach x.core (s.handleOf x.core e.bidx)).isNone,
      holdsOf (ev (.flitLanding 0 0 256 [1, 2]) (withFlow (someFlow 1 0 0) placed)) fun s => wfOf s && flow0 s fun _ _ =>
        (s.team? ⟨0, 0⟩).any fun x => !s.landable x 256 4,
      holdsOf (ev .frameMarkerSend (linked id placed)) fun s => (s.port 0).trained,
      holdsOf (ev (.frameMarkerArrival 0 12) (linked id placed)) fun s => decide (s.now ≤ 24 ∧ 12 ≤ s.now + 12),
      holdsOf (ev (.frameMarkerArrival 0 13) (linked id placed)) fun s => decide (s.now + 12 < 13),
      holdsOf (ev (.frameMarkerMiss 0 12) (linked id (withFlow (someFlow 1 0 0) placed))) fun s => (s.port 0).trained &&
        (s.port 0).markerSeen != some 12 && s.heats.any fun h => h.status != .saved && h.record.flows.any fun e => e.role != 3 && e.port == 0,
      holdsOf (ev (.frameMarkerMiss 0 12) (linked (fun p => { p with markerSeen := some 12 }) (withFlow (someFlow 1 0 0) placed))) fun s =>
        (s.port 0).trained && (s.port 0).markerSeen == some 12,
      holdsOf (ev (.linkTrained 3 5 1096) placed) fun s => s.arg == .linkTrained 3 5 1096,
      holdsOf (ev (.linkTrained 3 5 1097) placed) fun s => s.arg == .linkTrained 3 5 1097,
      holdsOf (ev (.linkTrainingLost 0) (linked id (withFlow (someFlow 1 0 0) placed))) fun s =>
        s.heats.any fun h => h.status != .saved && h.record.flows.any fun e => e.role != 3 && e.port == 0,
      holdsOf (ev (.bankSwitchArm 0 2) placed) fun s => !(s.port 0).pend,
      holdsOf (ev (.bankSwitchArm 0 2) (linked (fun p => { p with pend := true }) placed)) fun s => (s.port 0).pend,
      holdsOf (ev (.bankSwitchCancel 0 3) (after .bankSwitchArm (ev (.bankSwitchArm 0 2) placed))) fun s => (s.port 0).pend,
      holdsOf (ev (.bankSwitchTx 0 2) (linked id (leftOver (someFlow 0 0 0) placed))) fun s => s.gone.any fun g => g.e.port == 0 &&
        (List.range 4096).all fun i => !g.e.owns i || slotFlow (s.port 0).txTable (!(s.port 0).txAct) i != some g.e.flow,
      holdsOf (ev (.bankSwitchRx 0 2) placed) fun s => s.arg == .bankSwitchRx 0 2].all id = true := by decide +kernel

/-- A message of a class to and from a package; package 5 reached through port 0, which is trained. -/
def someMsg (cls : BitVec 4) (dpkg spkg : BitVec 17) (payload : List Byte) : Msg :=
  { cls := cls, plen := BitVec.ofNat 8 payload.length, dpkg := dpkg, spkg := spkg, ack := false, rsvd := 0, fid := 3, sq := 0, ttl := 9
    rsvd1 := 0, payload := payload }
def routed (s : State) : State := linked (fun p => { p with txTable := [] }) { s with routes := [(5, 1)] }
def ackTo : AckTo := { hid := 0, core := 0, bar := some 8 }
def sent (m : Msg) (losses : Nat) : State := { routed placed with unacked := [{ m := m, done := ackTo, losses := losses, lastNeg := false }] }
def asking (m : Msg) : Msg := { m with dpkg := m.spkg, spkg := m.dpkg }
def q64 (xs : List Nat) : List Byte := (xs.map (leBytes 8)).flatten
def withFe (s : State) : State := { s with ready := { s.ready with fe := true, pcie := true } }
def launchMsg (narg : Nat) : Msg := someMsg 1 0 5 (q64 [narg * 2 ^ 54 + 2 * 2 ^ 48 + 0x10000, 0, 0, 0, 0, 0])
def isHeat (c : Captured) : Bool :=
  match c with
  | .heat _ => true
  | .bad _ => false
def posted : RingEntry :=
  { id := 0, posted := 0, core := 0, tsel := 0, heatid := 1, team := 0, bytes := List.replicate 32 7, ops := [], accepted := true, from_ := 0
    done := ackTo }
def ringed (f : Ring → Ring) (s : State) : State :=
  s.modRing 3 fun r => f { r with en := true, hbase := 0x1000, rlog := 4, waiting := [posted] }
/-- The acknowledgement that package 5 sends for a message of package 0. -/
def reply (m : Msg) (cause : Nat) : Msg := State.reset.msgReply m cause

/-- The smallest heat record: one team on one cluster, placed anywhere, its reservations and grains all unassigned; its seal is
worked out block by block. -/
def imageHead (x : Nat) : List Byte := q64 [0xB1E701006000000A, x * 2 ^ 32, 0x100001100000, 0x1000000020002, 0x1000000000000, 0, 0, 0]
def imageTeam : List Byte := q64 [0x10000, 0, 0, 0, 0, 0, 0, 0]
def imageRest : List Byte := List.replicate 64 0xFF
def crcFrom (c : Nat) (bs : List Byte) : Nat := bs.foldl (fun c b => crcByte c b.toNat) c
def heatImage : List Byte := imageHead 0xf8ce0c9e ++ (imageTeam ++ (imageRest ++ (imageRest ++ (imageRest ++ (imageRest ++ (imageRest ++
  (imageRest ++ (imageRest ++ imageRest))))))))
theorem crc32c_eq (bs : List Byte) : crc32c bs = crcFrom 0xFFFFFFFF bs ^^^ 0xFFFFFFFF := rfl
theorem crcFrom_append (c : Nat) (a b : List Byte) : crcFrom c (a ++ b) = crcFrom (crcFrom c a) b := by simp [crcFrom]
theorem crc_block_a : crcFrom 0xffffffff (imageHead 0) = 0x7932069 := by decide +kernel
theorem crc_block_b : crcFrom 0x7932069 (imageTeam) = 0x9922d7e := by decide +kernel
theorem crc_block_c : crcFrom 0x9922d7e (imageRest) = 0x7ab3f824 := by decide +kernel
theorem crc_block_d : crcFrom 0x7ab3f824 (imageRest) = 0xb09c68d5 := by decide +kernel
theorem crc_block_e : crcFrom 0xb09c68d5 (imageRest) = 0x9a15d269 := by decide +kernel
theorem crc_block_f : crcFrom 0x9a15d269 (imageRest) = 0xfdead88a := by decide +kernel
theorem crc_block_g : crcFrom 0xfdead88a (imageRest) = 0xccec5e19 := by decide +kernel
theorem crc_block_h : crcFrom 0xccec5e19 (imageRest) = 0xe3cc3a11 := by decide +kernel
theorem crc_block_i : crcFrom 0xe3cc3a11 (imageRest) = 0xc9fab85d := by decide +kernel
theorem crc_block_j : crcFrom 0xc9fab85d (imageRest) = 0x731f361 := by decide +kernel
theorem heatImage_sealed : sealOk heatImage 12 = true := by
  have hz : zeroSeal heatImage 12 = imageHead 0 ++ (imageTeam ++ (imageRest ++ (imageRest ++ (imageRest ++ (imageRest ++ (imageRest ++
    (imageRest ++ (imageRest ++ imageRest)))))))) := by decide +kernel
  have hc : crc32c (zeroSeal heatImage 12) = 0xf8ce0c9e := by
    rw [hz, crc32c_eq]
    simp only [crcFrom_append, crc_block_a, crc_block_b, crc_block_c, crc_block_d, crc_block_e, crc_block_f, crc_block_g, crc_block_h,
      crc_block_i, crc_block_j]
    decide +kernel
  unfold sealOk
  rw [hc]
  decide +kernel
def withImage (s : State) : State := { s with hbm := Store.putRun 0 s.hbm 0x10000 heatImage }
/-- The machine of the launch witnesses: its front end and its host link ready, the image in memory. -/
def launching : State := withFe (withImage (routed { placed with heats := [] }))
theorem readHbm_image : launching.readHbm 0x10000 640 = heatImage := by decide +kernel
theorem heatImage_captured : isHeat (launching.captureHeat 0x10000) = true := by
  have hh : launching.readHbm 0x10000 64 = imageHead 0xf8ce0c9e := by decide +kernel
  have hl : 64 * max 1 (bits (qword (imageHead 0xf8ce0c9e) 0) 15 0) = 640 := by decide +kernel
  unfold State.captureHeat
  simp only [hh, hl, readHbm_image, heatImage_sealed, Bool.not_true, Bool.false_eq_true, if_false]
  decide +kernel

/-- The launch of a whole image: capturing it finds a heat (its seal and every check hold). -/
theorem captureHeat_ev (e : Ev) (s : State) (pa : Nat) : (ev e s).captureHeat pa = s.captureHeat pa := rfl
theorem test_witness_messageSteps_launch :
    let s := ev (.launchMessage { launchMsg 0 with rsvd1 := 1 } noAck) launching
    isHeat (s.captureHeat (bits (msgDword (launchMsg 0) 0) 47 0)) = true ∧ s.ready.fe = true ∧
    bits (msgDword (launchMsg 0) 0) 57 54 ≤ 8 ∧ s.freeForAll (s.recordStacks 0x10000) s.now = s.now ∧
    (s.useStacks (s.recordStacks 0x10000)).1 = none ∧ (s.route 5).isSome = true := by
  have h : bits (msgDword (launchMsg 0) 0) 47 0 = 0x10000 := by decide +kernel
  simp only [h, captureHeat_ev]
  exact ⟨heatImage_captured, by decide +kernel, by decide +kernel, by decide +kernel, by decide +kernel, by decide +kernel⟩
/-- The same launch once it is acknowledged, before its record is read. -/
theorem test_witness_messageSteps_launch_told :
    let s := ev (.launchMessage { launchMsg 0 with rsvd1 := 2 } noAck) launching
    s.freeForAll (s.recordStacks 0x10000) s.now = s.now ∧ (s.useStacks (s.recordStacks 0x10000)).1 = none := by
  decide +kernel

/-- A message of class 2 between packages 0 and 5 with two payload words; a slot that carries no flow. -/
def sig05 (fid : BitVec 16) (sq : Word) : Msg := { someMsg 2 5 0 (q64 [0, 0]) with fid := fid, sq := sq }
def sig50 (fid : BitVec 16) (sq : Word) : Msg := { someMsg 2 0 5 (q64 [0, 0]) with fid := fid, sq := sq }
def slotFree (s : State) : Bool := (s.port 0).trained && slotFlow (s.port 0).rxTable (s.port 0).rxAct (slotIdx s.now) == none
/-- Port 0 carries no flow in its receive bank either. -/
def routedFree (s : State) : State := linked (fun p => { p with txTable := [], rxTable := [] }) { s with routes := [(5, 1)] }
def released (m : Msg) (f : State → State) : State := ev (.messageRelease 0 (msgBytes m)) (f (routedFree placed))

theorem test_witness_messageSteps_0 :
    [holdsOf (ev (.messageAccepted (.message (someMsg 2 5 0 (q64 [0, 0])) ackTo)) (routed placed)) fun s => (s.route 5).isSome,
      holdsOf (ev (.messageAccepted (.localLaunch (someMsg 1 0 0 []) ackTo)) placed) fun s => s.now == 0,
      holdsOf (ev (.messageAccepted (.localSignal 1 8 5 true ackTo)) placed) fun s => s.now == 0,
      holdsOf (ev (.messageAccepted (.hostEntry 3 4)) (ringed id placed)) fun s => (s.ring 3).waiting.all fun e => e.id != 4,
      holdsOf (ev (.messageAccepted (.hostEntry 3 0)) (ringed (fun r => { r with en := false }) placed)) fun s => !(s.ring 3).en &&
        (s.ring 3).waiting.any fun e => e.id == 0,
      holdsOf (ev (.messageAccepted (.hostEntry 3 0)) (ringed (fun r => { r with pi := 16, waiting := List.replicate 64 posted }) placed))
        fun s => (s.ring 3).en && decide ((s.ring 3).room + 64 ≤ ((s.ring 3).waiting.filter (·.accepted)).length),
      holdsOf (ev (.messageAccepted (.hostEntry 3 0)) (ringed (fun r => { r with
          pi := 16, waiting := [{ posted with accepted := false }] ++ List.replicate 63 { posted with id := 1 } }) placed)) fun s => (s.ring 3).en &&
        decide (¬(s.ring 3).room + 64 ≤ ((s.ring 3).waiting.filter (·.accepted)).length),
      holdsOf (ev (.localSignalApply 0 8 5 true ackTo) ((withBar placed).modCore 0 fun c => { c with msg := 1 })) fun s => (s.handleBreach 0 8).isNone,
      holdsOf (ev (.unscheduledSend 0) (after .messageAccepted (ev (.messageAccepted (.message (someMsg 2 5 0 (q64 [0, 0])) ackTo)) (routed placed)))) fun s => (s.port 0).trained && (match (s.port 0).queue with | (ready, m) :: _ => decide (ready ≤ s.now) && (s.port 0).nextUnscheduled s.now == s.now && (m.ack || m.spkg != s.pkgNo || decide (s.unacked.length < 64)) | [] => false),
      holdsOf (ev (.messageRelease 0 (msgBytes (sig50 3 0))) placed) fun s => !(s.port 0).trained,
      holdsOf (released (someMsg 2 0 5 (q64 [0])) id) fun s => slotFree s && !msgWf (msgOf (msgBytes (someMsg 2 0 5 (q64 [0])))) && (s.route 5).isSome].all id =
      true := by decide +kernel
theorem test_witness_messageSteps_1 :
    [holdsOf (released (sig50 3 0) id) fun s => slotFree s && msgWf (sig50 3 0) && s.pkgNo == 0 && s.reorder.isEmpty &&
        (s.inflowOf (msgKey (sig50 3 0))).1 == 0 && msgOf (msgBytes (sig50 3 0)) == sig50 3 0,
      holdsOf (released (sig50 3 4) fun s => s.expect (msgKey (sig50 3 4)) 5 0) fun s => slotFree s &&
        decide (((s.inflowOf (msgKey (sig50 3 4))).1 - 4).toNat < 2 ^ 31) && (s.inflowOf (msgKey (sig50 3 4))).1 != 4,
      holdsOf (released (sig50 3 1) id) fun s => slotFree s && decide (2 ^ 31 ≤ ((s.inflowOf (msgKey (sig50 3 1))).1 - 1).toNat) &&
        s.reorder.isEmpty && decide (s.buffered 8 < 2048),
      holdsOf (released (sig50 0x8003 7) id) fun s => slotFree s && msgWf (sig50 0x8003 7) && !(s.seenOf (msgKey (sig50 0x8003 7))).contains 7,
      holdsOf (released (sig50 0x8003 7) fun s => s.note (msgKey (sig50 0x8003 7)) 7) fun s => slotFree s &&
        (s.seenOf (msgKey (sig50 0x8003 7))).contains 7,
      holdsOf (released { someMsg 4 0x1FFFF 5 (q64 [0x3F0F, 9, 0, 2 ^ 17 + 4]) with sq := 3 } fun s =>
          s.expect (msgKey (someMsg 4 0x1FFFF 5 [])) 4 0) fun s => slotFree s && (s.inflowOf (msgKey (someMsg 4 0x1FFFF 5 []))).1 == 4 &&
        msgWf (someMsg 4 0x1FFFF 5 (q64 [0x3F0F, 9, 0, 2 ^ 17 + 4])),
      holdsOf (released { someMsg 4 0 5 (q64 [0, 9, 0, 0]) with fid := 0x7FFF, ttl := 1 } id) fun s => slotFree s &&
        (s.inflowOf (msgKey { someMsg 4 0 5 [] with fid := 0x7FFF })).1 == 0 &&
        msgWf { someMsg 4 0 5 (q64 [0, 9, 0, 0]) with fid := 0x7FFF, ttl := 1 } &&
        (s.mgmtEvent { someMsg 4 0 5 (q64 [0, 9, 0, 0]) with fid := 0x7FFF, ttl := 1 } 0).isSome,
      holdsOf (released (reply (sig05 3 0) 0xE5) id) fun s => slotFree s && msgWf (reply (sig05 3 0) 0xE5) && s.pkgNo == 0 &&
        (reply (sig05 3 0) 0xE5).payload.headD 0 != 0,
      holdsOf (released (reply (sig05 3 0) 0) id) fun s => slotFree s && msgWf (reply (sig05 3 0) 0) && s.pkgNo == 0 &&
        (reply (sig05 3 0) 0).payload.headD 0 == 0,
      holdsOf (released { sig05 3 0 with spkg := 9, ttl := 2 } id) fun s => slotFree s && s.pkgNo != 5 && (s.route 5).isSome].all id =
      true := by decide +kernel
theorem test_witness_messageSteps_2 :
    [holdsOf (ev (.launchMessage (launchMsg 0) noAck) launching) fun s => s.freeForAll (s.recordStacks 0x10000) s.now == s.now,
      holdsOf (ev (.launchMessage { launchMsg 0 with rsvd1 := 1 } noAck) (withFe (routed { placed with heats := [] }))) fun s => s.ready.fe &&
        s.freeForAll (s.recordStacks 0x10000) s.now == s.now && !isHeat (s.captureHeat 0x10000) && (s.route 5).isSome,
      holdsOf (ev (.launchMessage { launchMsg 0 with rsvd1 := 1 } noAck) (routed { placed with heats := [] })) fun s => !s.ready.fe &&
        s.freeForAll (s.recordStacks 0x10000) s.now == s.now,
      holdsOf (ev (.launchMessage { launchMsg 9 with rsvd1 := 1 } noAck) launching) fun s =>
        s.freeForAll (s.recordStacks 0x10000) s.now == s.now && bits (msgDword (launchMsg 9) 0) 57 54 == 9,
      holdsOf (ev (.signalMessage (someMsg 2 0 5 (q64 [8 * 2 ^ 32 + 512, 5]))) (withBar (routed placed))) fun s => (s.handleBreach 0 8).isNone && (s.route 5).isSome,
      holdsOf (ev (.signalMessage (someMsg 2 0 5 (q64 [384, 5]))) (routed placed)) fun s => (s.route 5).isSome,
      holdsOf (ev (.bulkMessage (someMsg 3 0 5 (q64 [0x2000, 0, 7]))) (routed placed)) fun s => wfOf s && (s.route 5).isSome,
      holdsOf (ev (.bulkMessage { someMsg 3 0 5 (q64 [0x2000, 0, 7]) with rsvd1 := 1 }) { routed placed with now := 65 }) fun s => wfOf s &&
        !s.grainFree (stackOf 0x2000) s.now,
      holdsOf (ev (.bulkMessage { someMsg 3 0 5 (q64 [0x2FFF, 8 * 2 ^ 32 + 512, 7]) with rsvd1 := 1 }) (withBar (routed { placed with heats := [] }))) fun s =>
        wfOf s && s.grainFree (stackOf 0x2FFF) s.now && decide (1 < (q64 [7]).length),
      holdsOf (ev (.bulkMessage { someMsg 3 0 5 (q64 [0x2FF8, 8 * 2 ^ 32 + 512, 7]) with rsvd1 := 1 }) (withBar (routed { placed with heats := [] }))) fun s =>
        wfOf s && s.grainFree (stackOf 0x2FF8) s.now && (s.handleBreach 0 8).isNone && (q64 [7]).length == 8].all id = true := by
  decide +kernel
theorem test_witness_messageSteps_3 :
    [holdsOf (ev (.acknowledgement (reply (sig05 3 0) 0)) ((withBar (sent (sig05 3 0) 0)).modCore 0 fun c => { c with msg := 1 })) fun s =>
        (s.pending? (ackKey (reply (sig05 3 0) 0)) 0).isSome && (s.handleBreach 0 8).isNone &&
        (s.heat? 0).any fun h => h.status != .saved && !h.away && (h.coreAt 0) == some 0,
      holdsOf (ev (.negativeAcknowledgement (reply (sig05 3 0) 0xE5) 0xE5) ((sent (sig05 3 0) 0).modCore 0 fun c => { c with msg := 1 })) fun s =>
        (s.pending? (ackKey (reply (sig05 3 0) 0xE5)) 0).isSome && (s.heat? 0).any fun h => h.status != .saved && (h.coreAt 0) == some 0,
      holdsOf (ev (.negativeAcknowledgement (reply (sig05 3 0) 0xE1) 0xE1) (sent (sig05 3 0) 6)) fun s =>
        (s.pending? (ackKey (reply (sig05 3 0) 0xE1)) 0).any fun u => decide (u.losses + 1 < 8),
      holdsOf (ev (.messageRetransmit (msgKey (sig05 3 0)) 0 102) (sent (sig05 3 0) 2)) fun s =>
        (s.pending? (msgKey (sig05 3 0)) 0).any fun u => u.losses == 2,
      holdsOf (ev (.messageRetransmit (msgKey (sig05 3 0)) 0 6) (sent (sig05 3 0) 6)) fun s =>
        (s.pending? (msgKey (sig05 3 0)) 0).any (fun u => u.losses == 6) &&
        s.agenda.all fun d => d.ev != .messageRetransmit (msgKey (sig05 3 0)) 0 106,
      holdsOf (ev (.messageRetransmit (msgKey (sig05 3 0)) 0 7) (sent (sig05 3 0) 7)) fun s =>
        (s.pending? (msgKey (sig05 3 0)) 0).any (fun u => u.losses == 7) &&
        s.agenda.all fun d => d.ev != .messageRetransmit (msgKey (sig05 3 0)) 0 107,
      holdsOf (ev (.graphRelease 1 0 0 0 0) (placed.modQueue 1 fun q => { q with graph := some { entry := 0, sub := none, nodes := [{ node := { kind := 3, init := 1, pred := 1, addr := 0, succ := [], x := [], heat := none }, count := 1, ran := false, running := false, readyAt := 0, moved := 0, held := [] }], charge := 0, cause := 0, stopped := false } })) fun s => (s.queue 1).graph.any fun g => !g.stopped && g.nodes.any fun n => n.count == 1 && !n.ran && !n.running && n.readyAt == 0 && (nodeEvent 1 0 n.node).isSome,
      holdsOf (ev (.graphRelease 1 0 0 0 0) placed) fun s => (s.node? 1 0).isNone].all id = true := by decide +kernel
theorem test_witness_hostRingSteps :
    [holdsOf (ev (.hostRingEntryVisible 3) ((ringed id placed).modCore 0 fun c => { c with msg := 1 })) fun s => wfOf s && (s.ring 3).room != 0 && (s.ring 3).waiting == [posted],
      holdsOf (ev (.hostRingEntryVisible 3) ((ringed id placed).modUnit 3 fun u => { u with ccnt := 1, en := true, vec := 9 })) fun s => (s.unit 3).ccnt == (s.unit 3).pend + 1 && (s.unit 3).en,
      holdsOf (ev (.hostRingEntryVisible 3) (ringed (fun r => { r with pi := 16 }) placed)) fun s => (s.ring 3).room == 0,
      holdsOf (ev (.hostRingEntryVisible 3) (ringed (fun r => { r with waiting := [{ posted with from_ := 1 }] }) placed)) fun s => decide (s.now < 1),
      holdsOf (ev (.hostRingEntryVisible 3) (ringed (fun r => { r with waiting := [{ posted with accepted := false }] }) placed)) fun s => wfOf s,
      holdsOf (ev (.hostRingEntryVisible 3) (ringed (fun r => { r with waiting := [{ posted with ops := [0] }] }) storing)) fun s => wfOf s && (s.ring 3).room != 0 && s.unperformed 0,
      holdsOf (ev (.hostRingCiWrite 3 7) placed) fun s => !s.ready.fe,
      holdsOf (ev (.hostRingCiWrite 3 7) (withFe placed)) fun s => s.ready.fe,
      holdsOf (ev (.hostRingEnWrite 3 true) (ringed (fun r => { r with en := false, dropped := 4, lost := 4, waiting := [] }) placed)) fun s => !(s.ring 3).en,
      holdsOf (ev (.hostRingEnWrite 3 false) (ringed id placed)) fun s => (s.ring 3).en && decide ((s.ring 3).waiting.map (·.id)).Nodup,
      holdsOf (ev .coalesceTimer { (placed.modUnit 3 fun u => { u with ctim := 1, en := true, vec := 9, pend := 2 }) with now := 64 }) fun s => decide ((s.coalesce.map (·.1)).Nodup) && (s.unit 3).pend == 2 && 64 * (s.unit 3).ctim == s.now - (s.unit 3).first,
      holdsOf (ev .coalesceTimer { (placed.modUnit 3 fun u => { u with ctim := 1, en := true, vec := 9, pend := 2 }) with now := 63 }) fun s => decide ((s.coalesce.map (·.1)).Nodup) && decide (s.now - (s.unit 3).first < 64 * (s.unit 3).ctim)].all id = true := by decide +kernel

/-- Queue 1: its rings in HBM at 128 KiB and 192 KiB; a command of a body; a graph of nodes; and no heat on the package. -/
def queued (f : Queue → Queue) (s : State) : State := s.modQueue 1 fun q => f { q with
  desc := { q.desc with rbase := 0x20000, cbase := 0x30000, rlog := 4, rloc := true, cloc := true, en := true, qw := 1 } }
def someCommand (body : CmdBody) : Command :=
  { entry := 0, sub := none, ser := false, irq := false, tag := 7, body := body, readAt := 0, admitted := false, completed := false
    charge := 0, cause := 0, ready := true, expanded := false }
def commanded (c : Command) (s : State) : State := queued (fun q => { q with commands := [c] }) s
def someNode (kind : Nat) (addr : Nat) (x : List (BitVec 64)) : NodeRun :=
  { node := { kind := kind, init := 0, pred := 0, addr := addr, succ := [1, 0xFFFF, 0xFFFF, 0xFFFF], x := x, heat := none }
    count := 0, ran := false, running := false, readyAt := 0, moved := 0, held := [] }
def graphed (ns : List NodeRun) (s : State) : State := queued (fun q => { q with
  commands := [{ someCommand (.graph []) with admitted := true }],
  graph := some { entry := 0, sub := none, nodes := ns, charge := 3, cause := 0, stopped := false } }) s
def idleRecord : Record := { placedRecord with res := [], mem := [] }
def bare : State := { placed with heats := [] }
/-- The front end ready and no heat on the package; a state whose heat holds every grain but those of frame cycle 0. -/
def ready : State := withFe bare
/-- A stack that the front end may use now, without an error. -/
def free (s : State) (ks : List Nat) : Bool := s.freeForAll ks s.now == s.now && (s.useStacks ks).1.isNone
def inHbm (a : Nat) (bs : List Byte) (s : State) : State := { s with hbm := Store.putRun 0 s.hbm a bs }
def headIs (s : State) (p : Command → Bool) : Bool := (s.queue 1).head.any p
def nodeIs (s : State) (i : Nat) (p : NodeRun → Bool) : Bool := (s.node? 1 i).any p
def copyX (peer : Bool) (dst len : Nat) : List (BitVec 64) :=
  [BitVec.ofNat 64 dst, BitVec.ofNat 64 (len * 2 ^ 32 + (if peer then 2 ^ 17 + 5 else 0)), 8 * 2 ^ 32 + 512]
def isGraph (b : CmdBody) : Bool :=
  match b with
  | .graph _ => true
  | _ => false

theorem test_witness_queueSteps_0 :
    [holdsOf (ev (.queuePiWrite 1 1) (queued id placed)) fun s => !s.ready.fe,
      holdsOf (ev (.queuePiWrite 1 1) (withFe placed)) fun s => s.ready.fe && decide ((s.queue 1).desc.rlog < 4),
      holdsOf (ev (.queuePiWrite 1 1) (withFe (queued id placed))) fun s => s.ready.fe && (s.queue 1).desc.rlog == 4 && (1 - (s.queue 1).desc.ci).toNat == 1,
      holdsOf (ev (.queuePiWrite 1 1) (withFe (queued (fun q => { q with desc := { q.desc with rlog := 5 } }) placed))) fun s => s.ready.fe && decide (4 ≤ (s.queue 1).desc.rlog ∧ (1 - (s.queue 1).desc.ci).toNat ≤ 2 ^ (s.queue 1).desc.rlog - 16),
      holdsOf (ev (.queueEnWrite 1 true) (placed.modQueue 1 fun q => { q with nsave := 9 })) fun s => !(s.queue 1).desc.en,
      holdsOf (ev (.queueEnWrite 1 true) (queued (fun q => { q with nsave := 9 }) placed)) fun s => (s.queue 1).desc.en,
      holdsOf (ev (.prefetch 1 0) (queued id ready)) fun s => (s.queue 1).desc.en && s.ready.fe && !s.prefetchBefore 1 0 &&
        free s (s.entryStacks (s.queue 1).desc 0) && s.captureCommand (s.ringEntry (s.queue 1).desc 0) false == .nop,
      holdsOf (ev (.prefetch 1 0) (inHbm 0x20000 (q64 [3 * 2 ^ 56 + 0x4000, 0, 2 ^ 16, 0]) (queued id ready))) fun s =>
        (s.queue 1).desc.en && s.ready.fe && !s.prefetchBefore 1 0 && free s (s.entryStacks (s.queue 1).desc 0) &&
        s.captureCommand (s.ringEntry (s.queue 1).desc 0) false == .indirect false 0x4000 1 &&
        s.captureCommand (s.readHbm 0x4000 64) true == .nop,
      holdsOf (ev (.prefetch 1 5) (placed.modQueue 1 fun q => { q with next := 9 })) fun s => !(s.queue 1).desc.en,
      holdsOf (ev (.prefetch 1 0) (queued id placed)) fun s => !s.ready.fe,
      holdsOf (ev (.prefetch 1 0) { queued id (withFe placed) with now := 1 }) fun s => s.ready.fe && (s.queue 1).desc.en &&
        s.freeForAll (s.entryStacks (s.queue 1).desc 0) s.now != s.now,
      holdsOf (ev (.prefetch 1 (2 ^ 64)) (commanded { someCommand (.raw (List.replicate 64 0)) with sub := some 0 } ready)) fun s =>
        (s.queue 1).desc.en && s.ready.fe && free s (s.commandStacks (List.replicate 64 0) true) &&
        (s.queue 1).commands.any fun c => c.entry == 0 && c.sub == some 0 && !c.completed && c.body == .raw (List.replicate 64 0)].all id =
      true := by decide +kernel
theorem test_witness_queueSteps_1 :
    [holdsOf (ev (.commandNop 1) (commanded (someCommand .nop) placed)) fun s => wfOf s && headIs s fun c => c.body == .nop && (s.queue 1).commands == [c],
      holdsOf (ev (.commandNop 1) (commanded (someCommand (.bad 0xA1 0)) placed)) fun s => wfOf s && headIs s fun c => c.body == .bad 0xA1 0 && c.sub.isNone,
      holdsOf (ev (.commandHeat 1) (commanded { someCommand (.bad 0xA1 0) with sub := some 0 } placed)) fun s => wfOf s && headIs s fun c => c.body == .bad 0xA1 0 && c.sub == some 0,
      holdsOf (ev (.commandHeat 1) (commanded (someCommand (.heat idleRecord 0 [])) placed)) fun s => wfOf s && headIs s fun c => match c.body with | .heat _ _ _ => true | _ => false,
      holdsOf (ev (.commandGraph 1) (commanded (someCommand (.graph [(someNode 1 0x4000 []).node])) placed)) fun s => wfOf s && headIs s fun c => isGraph c.body,
      holdsOf (ev (.commandIndirect 1) (commanded { someCommand (.indirect true 0x4000 1) with expanded := true } placed)) fun s => wfOf s && headIs s fun c => c.expanded && c.sub.isNone && c.body == .indirect true 0x4000 1,
      holdsOf (ev (.commandIndirect 1) (queued (fun q => { q with commands := [{ someCommand (.indirect true 0x4000 1) with expanded := true },
          { someCommand .nop with sub := some 0, ready := false }] }) placed)) fun s => wfOf s && headIs s (fun c => c.expanded && c.sub.isNone) &&
        (s.queue 1).commands.any fun k => k.entry == 0 && k.sub.isSome && !k.completed,
      holdsOf (ev (.commandIndirect 1) { commanded (someCommand (.indirect true 0x4000 1)) placed with now := 1 }) fun s => wfOf s &&
        headIs s (fun c => !c.expanded) && decide (s.now < s.freeForAll (s.bufferStacks true 0x4000 1) s.now),
      holdsOf (ev (.commandIndirect 1) (commanded (someCommand (.indirect true 0x4000 1)) bare)) fun s => wfOf s &&
        headIs s (fun c => !c.expanded && c.sub.isNone && c.body == .indirect true 0x4000 1) && free s (s.bufferStacks true 0x4000 1) &&
        !commandBad (s.readHbm 0x4000 64) true,
      holdsOf (ev (.commandIndirect 1) (inHbm 0x4000 [1] (commanded (someCommand (.indirect true 0x4000 1)) (inHbm 0x4007 [9] bare)))) fun s =>
        wfOf s && headIs s (fun c => !c.expanded && !c.completed && c.sub.isNone && c.body == .indirect true 0x4000 1) &&
        free s (s.bufferStacks true 0x4000 1) && commandBad (s.readHbm 0x4000 64) true].all id = true := by decide +kernel
/-- What the copy of a node meets in the stack that it needs next. -/
def nodeStack (s : State) : Nat := ((s.node? 1 0).map fun r =>
  if r.held == [] then stackOf (r.node.addr + r.moved) else stackOf (bits (r.node.xn 0) 47 0 + r.moved)).getD 0
def copies (s : State) (p : NodeRun → Bool) : Bool := wfOf s && s.ready.fe && nodeIs s 0 fun r => decide (r.moved < bits (r.node.xn 1) 63 32) && p r
theorem test_witness_queueSteps_2 :
    [holdsOf (ev .arbiterStep (queued (fun q => { q with deficit := 5 }) bare)) fun s => s.heads.isEmpty && s.queues.any fun e => e.1 == 1 && (s.headOf 1).isNone && s.heats.all fun h => h.queue != 1,
      holdsOf (ev (.copyNode 1 0) (graphed [someNode 1 0x4000 (copyX false 0x8000 128)] bare)) fun s => wfOf s && !s.ready.fe && nodeIs s 0 fun r => !r.running,
      holdsOf (ev (.copyNode 1 0) (graphed [someNode 1 0x5FFFFFFFC0 (copyX false 0x8000 128)] ready)) fun s => wfOf s && s.ready.fe && nodeIs s 0 fun r => !r.running && decide (hbmEnd < r.node.addr + 128),
      holdsOf (ev (.copyNode 1 0) (graphed [{ someNode 1 0x4000 (copyX false 0x8000 128) with running := true, moved := 128 }] bare)) fun s => wfOf s && nodeIs s 0 fun r => r.running && r.moved == 128,
      holdsOf (ev (.copyNode 1 0) { graphed [{ someNode 1 0x4000 (copyX false 0x8000 128) with running := true }] (withFe placed) with now := 1 }) fun s =>
        copies s fun r => r.running && !s.grainFree (nodeStack s) s.now,
      holdsOf (ev (.copyNode 1 0) { graphed [someNode 1 0x4000 (copyX false 0x8000 128)] ready with now := 96
                                                                                                    env := { ready.env with hbmErrors := [(stackOf 0x4000, 96, true)] } }) fun s =>
        copies s fun _ => s.grainFree (nodeStack s) s.now && (s.stackUse (nodeStack s)).1.isSome,
      holdsOf (ev (.copyNode 1 0) (inHbm 0x4000 [9] (graphed [someNode 1 0x4000 (copyX false 0x8000 128)] ready))) fun s => copies s fun r =>
        r.held.isEmpty && s.grainFree (nodeStack s) s.now && (s.stackUse (nodeStack s)).1.isNone,
      holdsOf (ev (.copyNode 1 0) (graphed [someNode 1 0x4000 (copyX true 0x8000 300)] (routed ready))) fun s => copies s fun r =>
        (r.node.xn 1).testBit 17 && s.grainFree (nodeStack s) s.now && (s.stackUse (nodeStack s)).1.isNone,
      holdsOf (ev (.copyNode 1 0) (graphed [{ someNode 1 0x4000 (copyX false 0x8000 128) with running := true, held := [9, 8] }] ready)) fun s =>
        copies s fun r => !r.held.isEmpty && s.grainFree (nodeStack s) s.now && (s.stackUse (nodeStack s)).1.isNone].all id = true := by
  decide +kernel
theorem test_witness_queueSteps_3 :
    [holdsOf (ev (.copyNodeCompletion 1 0) { graphed [{ someNode 1 0x4000 (copyX true 0x8000 300) with running := true }] (routed bare) with unacked := [{ m := someMsg 3 5 0 [], done := { hid := copyHid 1 0, core := 0, bar := none }, losses := 0, lastNeg := false }] }) fun s => s.unacked.any fun u => u.done.hid == copyHid 1 0,
      holdsOf (ev (.copyNodeCompletion 1 0) (withBar (graphed [{ someNode 1 0x4000 (copyX false 0x8000 300) with running := true }, someNode 3 0 []] bare))) fun s => (s.unacked.all fun u => u.done.hid != copyHid 1 0) && (s.handleBreach 0 8).isNone && nodeIs s 0 fun r => !(r.node.xn 1).testBit 17 && (r.node.xn 2).testBit 9,
      holdsOf (ev (.conditionalNode 1 0) (graphed [someNode 2 0x4000 [0, 0, 0]] bare)) fun s => !s.ready.fe && nodeIs s 0 fun _ => true,
      holdsOf (ev (.conditionalNode 1 0) (graphed [someNode 2 0x6000000000 [0, 0, 0]] ready)) fun s => s.ready.fe && nodeIs s 0 fun r => decide (hbmEnd < r.node.addr + 8),
      holdsOf (ev (.conditionalNode 1 0) (graphed [someNode 2 0x4000 [0, 0, 2 ^ 48 + 2 ^ 32 + 16], { someNode 3 0 [] with running := true }] ready)) fun s => s.ready.fe && nodeIs s 0 (fun r => decide (r.node.addr + 8 ≤ hbmEnd) && nodeCompare 0 (ofLeBytes (s.readHbm 0x4000 8)) (r.node.xn 1) && bits (r.node.xn 2) 47 32 == 1 && bits (r.node.xn 2) 63 48 == 1) && nodeIs s 1 (·.running),
      holdsOf (ev (.conditionalNode 1 0) (graphed [someNode 2 0x4000 [0, 0, 2 ^ 48 + 2 ^ 32 + 16], { someNode 3 0 [] with ran := true, node := { (someNode 3 0 []).node with pred := 1 } }] ready)) fun s => s.ready.fe && nodeIs s 0 (fun r => !r.running && decide (r.node.addr + 8 ≤ hbmEnd)) && nodeIs s 1 fun m => !m.running && !m.isReady,
      holdsOf (ev (.graphEnd 1) (graphed [someNode 3 0 [], { someNode 1 0 [] with running := true }] bare)) fun s => (s.queue 1).graph.any fun g => (g.nodes.any fun n => n.node.kind == 3 && n.isReady) && g.nodes.any (·.running),
      holdsOf (ev (.graphEnd 1) (graphed [someNode 3 0 []] bare)) fun s => wfOf s && (s.queue 1).graph.any fun g => (g.nodes.any fun n => n.node.kind == 3 && n.isReady) && g.nodes.all fun n => !n.running].all id = true := by decide +kernel

/-- Changes of the placed heat: its fields, its streams retired, a halt, a fault of a cause; handler mode; its image away. -/
def withHeat (f : Heat → Heat) (s : State) : State := s.modHeat 0 f
def inState (st : HeatState) (s : State) : State := withHeat (fun h => { h with status := st }) s
def retiring : State → State := withTeam fun t =>
  { t with cox := { t.cox with retired := true }, gangs := t.gangs.map fun g => { g with retired := true } }
def haltingAt (k : HaltKind) (x : Nat) (st : HeatState) : State → State := withHeat fun h => { h with halt := some (k, x), status := st }
def faulted (cause : Nat) (s : State) : State := haltingAt .fault 0 .halting (withHeat (fun h => { h with fault := some { someDetect with cause := cause, gang := 0 } }) s)
def withOrigin (o : Origin) : State → State := withHeat fun h => { h with origin := o, queue := 1 }
def handled (s : State) : State := handling 0x10010000 s
def heat0 (s : State) (p : Heat → Bool) : Bool := (s.heat? 0).any p
def isFound (s : State) (p : Heat → Bool) : Bool := (s.heats.find? fun h => h.heatid == s.nextHeatid).any fun h => h.hid == 0 && p h
def endsQuietly (s : State) (h : Heat) : Bool :=
  h.abortCause == 0 && h.status == .closing && h.fault.isNone && h.allRetired && s.quiet h && s.msgQuiet h
def completes (s : State) : Bool := s.barPend.isEmpty && s.detects.isEmpty && wfOf s && heat0 s fun h =>
  !h.away && h.clusters == [0] && (endsQuietly s h || h.abortCause != 0)
def inQueue1 (s : State) : State := queued id s
/-- The placed heat about to be restored; whether its windows resolve. -/
def restoring (away : Bool) (f : Heat → Heat) : State := withHeat (fun h => f { h with status := .restoring, away := away, resumeStop := 8192 }) placed
def resolves (s : State) (h : Heat) : Bool := (s.resolvePages h.record).isSome
/-- A restore past its cycle, with a policy for 0x88; one in time whose record and place are sound. -/
def tardy (away : Bool) (pol : BitVec 2) : State :=
  ev (.restore 0) { after .policySet (ev (.policySet 0 0x88 pol (some 64)) (restoring away id)) with now := 2 ^ 20 }
def isLate (s : State) (pol : Nat) : Bool := heat0 s fun h => h.status == .restoring && decide (h.anchor + h.resumeStop ≤ s.now) &&
  s.policyOf h { Detect.blank 0 (externalRank 0 0x88) 0x88 8 with core := 0 } == pol
def inTime (s : State) (p : Heat → Bool) : Bool := wfOf s && decide (s.heats.map (·.hid)).Nodup && heat0 s fun h =>
  h.status == .restoring && decide (s.now < h.anchor + h.resumeStop) && h.halt.isNone && p h

theorem test_witness_heatSteps_0 :
    [holdsOf (ev (.heatStart 0) (inState .scheduled placed)) fun s => heat0 s fun h => h.status == .scheduled,
      holdsOf (ev (.heatStart 0) (withHeat (fun h => { h with status := .armed, trigger := some 100 }) placed)) fun s => heat0 s fun h =>
        h.status == .armed && h.trigger == some 100 && !(h.record.sched && s.regatta.halted),
      holdsOf (ev (.armedTimeout 0) (inState .armed placed)) fun s => s.barPend.isEmpty && s.detects.isEmpty && heat0 s fun h =>
        h.status == .armed && h.trigger.isNone,
      holdsOf (ev (.armedTimeout 0) placed) fun s => heat0 s fun h => h.status != .armed,
      holdsOf (ev (.armedTimeout 0) (withHeat (fun h => { h with status := .armed, trigger := some 100 }) placed)) fun s => heat0 s fun h =>
        h.trigger != none,
      holdsOf (ev (.endCheck 0) (withStack (fun c => { c with retired := false }) placed)) fun s => heat0 s fun h => h.status == .running && !h.allRetired && h.teams.all fun x => !x.cox.retired && x.gangs.all fun g => !g.retired,
      holdsOf (ev (.endCheck 0) (retiring (inState .closing placed))) fun s => heat0 s fun h => h.status == .closing && h.allRetired,
      holdsOf (ev (.heatCompletion 0) (withOrigin (.ring 3 7 false) (inQueue1 (commanded { someCommand (.heat idleRecord 0 []) with entry := 3 } (retiring (inState .closing placed)))))) fun s => completes s && heat0 s fun h => h.origin == .ring 3 7 false,
      holdsOf (ev (.heatCompletion 0) (withOrigin (.indirect 3 1 false) (inQueue1 (retiring (inState .closing placed))))) fun s => completes s && heat0 s fun h => h.origin == .indirect 3 1 false,
      holdsOf (ev (.heatCompletion 0) (retiring (inState .closing placed))) fun s => completes s && heat0 s fun h => h.origin == .launch,
      holdsOf (ev (.heatCompletion 0) (withOrigin (.node 0 false) (graphed [someNode 0 0x4000 []] (retiring (inState .closing placed))))) fun s => completes s && nodeIs s 0 (fun _ => true) && heat0 s fun h => h.origin == .node 0 false && h.abortCause == 0].all id = true := by decide +kernel
theorem test_witness_heatSteps_1 :
    [holdsOf (ev (.heatCompletion 0) (withOrigin (.node 0 false) (withHeat (fun h => { h with abortCause := 0x40, status := .quiesced }) (graphed [someNode 0 0x4000 []] placed)))) fun s => completes s && nodeIs s 0 (fun _ => true) && heat0 s fun h => h.origin == .node 0 false && h.abortCause == 0x40,
      holdsOf (ev (.heatCompletion 0) (withHeat (fun h => { h with abortCause := 0xA0, status := .quiesced, away := true, prov := 0 }) placed)) fun s =>
        s.barPend.isEmpty && s.detects.isEmpty && heat0 s fun h => h.away && h.prov == 0 && h.abortCause != 0,
      holdsOf (ev (.heatCompletion 0) (inState .closing placed)) fun s => s.barPend.isEmpty && s.detects.isEmpty && wfOf s && heat0 s fun h => !h.away && h.clusters == [0] && !endsQuietly s h && h.abortCause == 0 && h.status != .running,
      holdsOf (ev (.faultHalt 0) (haltingAt .fault 0 .running placed)) fun s => heat0 s fun h => h.halt == some (.fault, 0) && decide (h.anchor ≤ s.now) && h.status == .running,
      holdsOf (ev (.faultHalt 0) (withHeat (fun h => { h with halt := some (.fault, 0), fault := some { someDetect with cause := 0x61 }, record := { h.record with sched := true } }) { placed with regatta := { placed.regatta with member := true } })) fun s => s.regatta.member && heat0 s fun h => h.halt == some (.fault, 0) && decide (h.anchor ≤ s.now) && h.status == .running && h.record.sched && h.fault.any fun d => s.policyOf h d == 2,
      holdsOf (ev (.preemptionHalt 0) (haltingAt .preempt 0 .running placed)) fun s => heat0 s fun h => h.halt == some (.preempt, 0) && decide (h.anchor ≤ s.now) && h.status == .running,
      holdsOf (ev (.preemptSave placed.nextHeatid 0) placed) fun s => isFound s fun h => !h.record.sched && h.halt.isNone && h.status == .running,
      holdsOf (ev (.preemptEstimate placed.nextHeatid 100) (withTeam (fun x => { x with restart := true }) placed)) fun s => isFound s fun h => !h.record.sched && h.halt.isNone && h.status == .running && decide (s.named 100 < h.anchor + h.record.stop + 1024),
      holdsOf (ev (.preemptEstimate placed.nextHeatid (2 ^ 40)) placed) fun s => isFound s fun h => !h.record.sched && h.halt.isNone && h.status == .running && decide (h.anchor + h.record.stop + 1024 ≤ s.named (2 ^ 40)),
      holdsOf (ev (.preemptEstimate placed.nextHeatid 100) (inState .restoring placed)) fun s => isFound s fun h => !h.record.sched && h.status == .restoring,
      holdsOf (ev (.preemptDrain placed.nextHeatid 0) placed) fun s => isFound s fun h => !h.record.sched && h.halt.isNone && h.status == .running,
      holdsOf (ev (.preemptSave 0 0) { placed with heats := [] }) fun s => s.heats.isEmpty].all id = true := by decide +kernel
theorem test_witness_heatSteps_2 :
    [holdsOf (ev (.preemptEstimate 0 0) { placed with heats := [] }) fun s => s.heats.isEmpty,
      holdsOf (ev (.preemptDrain 99 0) { placed with heats := [] }) fun s => s.heats.isEmpty && decide (s.nextHeatid ≤ 99),
      holdsOf (ev (.preemptionRequestUnassigned 1 7) placed) fun s => s.now == 0,
      holdsOf (ev (.quiesce 0) (haltingAt .preempt 64 .halting (retiring placed))) fun s => heat0 s fun h => h.status == .halting && s.quiet h && h.fault.isNone && h.halt == some (.preempt, 64) && h.allRetired && s.msgQuiet h,
      holdsOf (ev (.quiesce 0) (haltingAt .preempt 64 .halting placed)) fun s => heat0 s fun h => h.status == .halting && s.quiet h && h.fault.isNone && h.halt == some (.preempt, 64) && !h.allRetired && s.env.doubleBits.isEmpty && s.agenda.all fun d => !s.landsFor 0 d.ev,
      holdsOf (ev (.quiesce 0) ((faulted 0x10 placed).modQueue 0 fun q => { q with hentry := 64 })) fun s => heat0 s fun h => h.status == .halting && s.quiet h && !h.record.sched && h.fault.any fun d => s.policyOf h d == 0,
      holdsOf (ev (.quiesce 0) (faulted 0x40 placed)) fun s => heat0 s fun h => h.status == .halting && s.quiet h && !h.record.sched && h.fault.any fun d => s.policyOf h d == 1,
      holdsOf (ev (.quiesce 0) (faulted 0x61 placed)) fun s => s.env.doubleBits.isEmpty && heat0 s fun h => h.status == .halting && s.quiet h && !h.record.sched && h.fault.any fun d => s.policyOf h d == 2,
      holdsOf (ev (.quiesce 0) (faulted 0xF5 placed)) fun s => heat0 s fun h => h.status == .halting && s.quiet h && !h.record.sched && h.fault.any fun d => s.policyOf h d == 3,
      holdsOf (ev (.saveComplete 0) (withOrigin (.ring 3 7 false) (haltingAt .preempt 64 .saving (inQueue1 placed)))) fun s => wfOf s && decide (s.heats.map (·.hid)).Nodup && heat0 s fun h => h.status == .saving && h.origin == .ring 3 7 false].all id = true := by decide +kernel
theorem test_witness_resumeSteps_0 :
    [holdsOf (ev (.handlerEntry 0) (inState .quiesced (faulted 0x10 placed))) fun s => heat0 s fun h => h.status == .quiesced && h.abortCause == 0 && h.fault.any fun d => (h.teams[d.team]?).isSome,
      holdsOf (ev (.handlerTimeout 0) { handled placed with now := 65536 }) fun s => heat0 s fun h => h.status == .handler && h.teams.any fun x => x.cox.handler.any fun k => decide (k.entered + 65536 ≤ s.now),
      holdsOf (ev (.handlerTimeout 0) placed) fun s => heat0 s fun h => h.status != .handler,
      holdsOf (tardy true 2) fun s => isLate s 2 && heat0 s fun h => h.away,
      holdsOf (tardy false 2) fun s => isLate s 2 && s.env.doubleBits.isEmpty && heat0 s fun h => !h.away,
      holdsOf (tardy false 3) fun s => isLate s 3,
      holdsOf (tardy false 1) fun s => isLate s 1,
      holdsOf (ev (.restore 0) (restoring true id)) fun s => inTime s fun h => h.away && (s.imageBreach h).isSome,
      holdsOf (ev (.restore 0) (inHbm 0x8000 [1] (restoring false fun h => { h with record := { h.record with wins := [{ psz := 0, npage := 1, vbase := 0, plist := 0x8000 }] } }))) fun s =>
        inTime s fun h => !h.away && !resolves s h,
      holdsOf (ev (.restore 0) (restoring false fun h => { h with stops := [(.gang 0 0 0xFF, 9000), (.cox 0, 8500)], resumeStop := 8500, parked := [{ at_ := 9100, rank := 48000, seq := 0, ev := .spanEnd ⟨0, 0, 0⟩ 3 }] })) fun s =>
        inTime s fun h => !h.away && resolves s h && h.teams.length == h.record.teams.length && h.discards.isEmpty && !h.stops.isEmpty && !h.parked.isEmpty,
      holdsOf (ev (.restore 0) (restoring false fun h => { h with discards := [0] })) fun s => inTime s fun h => !h.away && resolves s h &&
        h.teams.length == h.record.teams.length && h.discards == [0] && h.discards.all fun i => (h.teams[i]?).isSome,
      holdsOf (ev (.agentResume 0 (.gang 0 0 0xFF)) (restoring false id)) fun s => heat0 s (fun h => h.status == .restoring) && (s.gang? ⟨0, 0, 0⟩).isSome,
      holdsOf (ev (.agentResume 0 (.cox 0)) placed) fun s => heat0 s (fun h => h.status == .running && h.halt.isNone) && (s.cox? ⟨0, 0⟩).isSome,
      holdsOf (ev (.agentResume 0 (.access 0)) (storing.modGop 0 fun o => { o with hot := true })) fun s => heat0 s (fun h => h.status == .running && h.halt.isNone) && (s.gop? 0).any fun o => !o.isRecord].all id = true := by decide +kernel
theorem test_witness_resumeSteps_1 :
    [holdsOf (ev (.agentResume 0 (.access 0)) ((issued (.tload ⟨2, 0, 63⟩) id).modGop 0 fun o => { o with hot := true })) fun s => heat0 s (fun h => h.status == .running && h.halt.isNone) && (s.gop? 0).any fun o => o.isRecord,
      holdsOf (ev (.agentResume 0 (.scratch 0)) (withHeat (fun h => { h with hot := [(0, someAccess)] }) placed)) fun s => heat0 s fun h => h.status == .running && h.halt.isNone && (h.hot[0]?).isSome,
      holdsOf (ev (.agentResume 0 (.command 0)) (copying.modCmd 0 fun c => { c with held := true })) fun s => heat0 s (fun h => h.status == .running && h.halt.isNone) && (s.cmd? 0).isSome,
      holdsOf (ev (.agentResume 0 (.flow 2)) (withHeat (fun h => { h with stops := [(.flow 2, 5), (.flow 3, 5)] }) placed)) fun s => heat0 s fun h => h.status == .running && h.halt.isNone,
      holdsOf (ev (.agentResume 0 (.cox 0)) (inState .saved placed)) fun s => heat0 s fun h => h.status == .saved,
      holdsOf (ev (.revoke placed.nextHeatid 0 0) placed) fun s => isFound s fun _ => true,
      holdsOf (ev (.revoke 77 0 0) placed) fun s => s.heats.all fun h => h.heatid != 77,
      holdsOf (ev (.revocation 0 0 0) placed) fun s => (s.team? ⟨0, 0⟩).any fun x => (x.wins[0]?).isSome,
      holdsOf (ev (.policySet 0 0x40 2 (some 64)) placed) fun s => heat0 s fun h => h.queue == 0,
      holdsOf (ev (.policySet 0 0xE0 2 none) placed) fun s => s.now == 0].all id = true := by decide +kernel
/-- A checkpoint of 225 bytes to move. -/
def moving (s : State) : State := withHeat (fun h => { h with status := .saved, image := some 0x4000, imageLen := 225 }) s
def toMove (s : State) (p : Heat → Bool) : Bool := (s.heats.find? fun h => h.heatid == s.nextHeatid && h.status == .saved).any fun h =>
  h.image == some 0x4000 && p h
theorem test_witness_resumeSteps_2 :
    [holdsOf (ev (.checkpointMove placed.nextHeatid 5 0x8000) (moving (routed placed))) fun s => toMove s fun h =>
        decide (s.freeForAll (stacksOf 0x4000 h.imageLen) s.now ≤ s.now),
      holdsOf (ev (.checkpointMove placed.nextHeatid 5 0x8000) ({ moving (routed placed) with now := 1, heats := (moving (routed placed)).heats ++
            (placed.heats.map (fun h => { h with hid := 1, heatid := 99 })) })) fun s => toMove s fun h =>
        decide (s.now < s.freeForAll (stacksOf 0x4000 h.imageLen) s.now),
      holdsOf (ev (.checkpointMove placed.nextHeatid 5 0x8000) placed) fun s => s.heats.all fun h => h.status != .saved].all id = true := by decide +kernel

/-- A heat that draws no power is within any budget, and one that draws some is in none of 0 W (what the package's fixed part
draws is a constant that no proof sees). -/
theorem foldl_zeros (l : List Nat) : (l.map fun _ => 0).foldl max 0 = 0 := by
  induction l with
  | nil => rfl
  | cons x r ih => simpa using ih
theorem drawIn_idle (a c d : Nat) : drawIn idleRecord a c d = 0 := by
  have hp (x : Nat) : idleRecord.phaseAt x = ⟨0, 0, 0, 0⟩ := by simp [Record.phaseAt, idleRecord, placedRecord]
  unfold drawIn
  split
  · rfl
  · split
    · have h0 (j : Nat) : ((idleRecord.staggers fun e => idleRecord.teamCluster e == some j).map fun g =>
          if a + g ≤ c then (idleRecord.phaseAt (c - a - g)).mxw else 0).foldl max 0 = 0 := by
        simp only [hp, ite_self]
        exact foldl_zeros _
      simp only [h0]
      simp
    · have h1 : idleRecord.teams.map (·.core) = [0] := by decide
      have h2 : idleRecord.staggers (fun e => e.core == 0) = [0] := by decide
      simp [h1, h2, hp, distinct]
    · simp [hp]
theorem total_idle (a b c : Nat) : (idleRecord.load a b).total c = 0 := by
  simp [Load.total, Load.draw, Record.load, drawIn_idle]

def admitting : State := withFe (commanded (someCommand (.heat idleRecord 0 [])) (queued (fun q => { q with deficit := 5 })
  { State.reset with agenda := [], budget := Config.fixedAllowance }))

theorem powerOk_alone (s : State) (a b : Nat) (h : s.heats = []) (hb : s.budget = Config.fixedAllowance) :
    s.powerOk (idleRecord.load a b) = true := by
  simp only [State.powerOk, State.loads, h, hb, List.filter_nil, List.map_nil, List.all_eq_true, List.map_cons, List.sum_cons,
    List.sum_nil, total_idle]
  intro c _
  simp; omega
theorem powerOk_admitting (a b : Nat) : admitting.powerOk (idleRecord.load a b) = true :=
  powerOk_alone _ a b (by decide) (by simp [admitting, withFe, commanded, queued, State.modQueue])

/-- The witness of an admission. -/
theorem test_witness_queueSteps_admission :
    admitting.heads = [(1, .ring (someCommand (.heat idleRecord 0 [])) idleRecord 0 [])] ∧ idleRecord.armed = false ∧
    anchorMissed idleRecord (max (0 + 2800) (admitting.now + 1024)) (anchorNamed admitting.now 0) = false ∧
    0 < (admitting.queue 1).deficit ∧
    admitting.admissible idleRecord (max (0 + 2800) (admitting.now + 1024)) (anchorNamed admitting.now 0) = some ([0], 4096) ∧
    admitting.memoryWf := by
  refine ⟨by decide +kernel, by decide, by decide, by decide +kernel, ?_, by unfold State.memoryWf; decide +kernel⟩
  have h1 : (idleRecord.sched && admitting.regatta.halted || admitting.grainsMeet idleRecord || admitting.flowsMeet idleRecord) = false := by
    decide +kernel
  have h2 : admitting.place? idleRecord = some [0] := by decide +kernel
  have h4 : anchorNamed admitting.now 0 = 0 := by decide +kernel
  have h3 : admitting.anchorFor idleRecord (max (0 + 2800) (admitting.now + 1024)) 0 = some 4096 := by
    simp only [State.anchorFor, State.anchorFrom, powerOk_admitting]
    decide +kernel
  simp only [State.admissible, h1, h2, h4, h3]
  decide +kernel
/-! The hypotheses that name constants of Config which nothing evaluates (the key whose hash is fused, and so the image that
FIRMWARE_VERIFY accepts, R304; the ports that a deployment cables, R303) have no witness here. -/
/-- A regatta of this package and package 5, halting at a cycle; the ports of it trained; a command link. -/
def inRegatta (f : Regatta → Regatta) (s : State) : State :=
  { s with regatta := f { s.regatta with member := true, packages := [0, 5], haltLead := 8192 } }
def haltedAt (ph : Nat) (ini : Nat) : State := inRegatta (fun r => { r with ph := some ph, halted := true, initiators := [ini] }) (routed placed)
def scheduling (s : State) : State := withHeat (fun h => { h with record := { h.record with sched := true } }) s
def withLink (f : CmdLink → CmdLink) (s : State) : State := s.modLink 3 f
def isAway (s : State) (h : Heat) : Bool := s.heat? h.hid == none
def loadable (s : State) : Bool := (s.heats.all fun h => !h.resident) && s.ports.all fun p => !p.2.bankActive
def fits64 (s : State) (pa : Nat) : Bool := s.ready.pcie && wfOf s && s.grainFree (stackOf pa) s.now

theorem test_witness_regattaSteps_0 :
    [holdsOf (ev (.halt 5 0x61 90000 (some 3)) (inRegatta id (routed placed))) fun s => !s.regatta.forwarded.contains (5, 90000) && (s.port 0).trained,
      holdsOf (ev (.halt 5 0x61 90000 none) (inRegatta (fun r => { r with forwarded := [(5, 90000)] }) placed)) fun s => s.regatta.forwarded.contains (5, 90000),
      holdsOf (ev (.halt 5 0x61 90000 none) (inRegatta (fun r => { r with ph := some 70000 }) placed)) fun s => s.regatta.ph == some 70000,
      holdsOf (ev (.regattaHalt 8192) { inRegatta (fun r => { r with ph := some 8192 }) (scheduling placed) with now := 8192 }) fun s => s.regatta.ph == some 8192 && !s.regatta.halted && decide (s.heats.map (·.hid)).Nodup && heat0 s fun h => h.haltable && h.halt.isNone && h.fault.isNone,
      holdsOf (ev (.regattaHalt 8192) (inRegatta id placed)) fun s => s.regatta.ph.isNone,
      holdsOf (ev (.halted 5 0 1000 90000 0) (inRegatta (fun r => { r with ph := some 90000, halted := true, initiators := [0], reported := [(0, false, 7)] }) (routed placed))) fun s => s.regatta.ph == some 90000 && s.regatta.coordinator == some s.pkgNo.toNat && (s.regatta.packages.all fun p => p == 5 || s.regatta.reported.any fun r => r.1 == p),
      holdsOf (ev (.halted 5 0 1000 90000 0) placed) fun s => s.regatta.ph.isNone,
      holdsOf (ev (.haltedTimeout 90000) (haltedAt 90000 0)) fun s => s.regatta.ph == some 90000 && s.regatta.halted && s.regatta.coordinator == some s.pkgNo.toNat,
      holdsOf (ev (.haltedTimeout 90000) placed) fun s => s.regatta.ph.isNone,
      holdsOf (ev (.regattaHalt 8192) { inRegatta (fun r => { r with ph := some 8192 }) (scheduling (withHeat (fun h => { h with
          fault := some someDetect, halt := some (.fault, 64) }) placed)) with now := 8192 }) fun s => decide (s.heats.map (·.hid)).Nodup &&
        heat0 s fun h => h.haltable && h.fault.isSome && h.halt == some (.fault, 64)].all id = true := by decide +kernel
/-- A scheduled heat of the regatta that waits at its halt, with a budget; a package without heats of the regatta. -/
def resuming (budget : Nat) (r : Record) : State := ev (.resume 16384 90000 5) { scheduling (withHeat (fun h => { h with
  status := .quiesced, halt := some (.regatta, 8192), record := r })
    (after .policySet (ev (.policySet 0 0x88 1 (some 64)) (haltedAt 90000 5)))) with budget := budget }
def oneWatt : Record := { idleRecord with phases := [⟨0, 4, 0, 0⟩], sched := true }
def resumes (s : State) : Bool := s.regatta.ph == some 90000 && s.regatta.halted && decide (s.heats.map (·.hid)).Nodup && (s.route 5).isSome &&
  s.pkgNo != 5 && s.heats.length == 1 && heat0 s fun h => h.record.sched && h.abortCause == 0 && h.status == .quiesced
theorem test_witness_regattaSteps_resume :
    resumes (resuming Config.fixedAllowance idleRecord) = true ∧ resumes (resuming 0 oneWatt) = true ∧
    (∀ h ∈ (resuming Config.fixedAllowance idleRecord).heats, ({ resuming Config.fixedAllowance idleRecord with
      heats := (resuming Config.fixedAllowance idleRecord).heats.filter fun x => x.hid ≠ h.hid } : State).powerOk
        (idleRecord.load (h.anchor + 16384) h.resumeStop) = true) ∧
    (∀ h ∈ (resuming 0 oneWatt).heats, ({ resuming 0 oneWatt with
      heats := (resuming 0 oneWatt).heats.filter fun x => x.hid ≠ h.hid } : State).powerOk
        (h.record.load (h.anchor + 16384) h.resumeStop) = false ∧
      (resuming 0 oneWatt).policyOf h { Detect.blank h.hid (externalRank 0 0x88) 0x88 8 with core := 0 } = 1) := by
  have one (b : Nat) (r : Record) : ∀ h ∈ (resuming b r).heats, h.hid = 0 := by
    have e : (resuming b r).heats.map (·.hid) = [0] := by rfl
    intro h hh
    simpa [e] using List.mem_map_of_mem (f := (·.hid)) hh
  have none_ (b : Nat) (r : Record) (h : Heat) (hh : h ∈ (resuming b r).heats) :
      (resuming b r).heats.filter (fun x => x.hid ≠ h.hid) = [] := by
    rw [List.filter_eq_nil_iff]
    intro x hx
    simp [one b r x hx, one b r h hh]
  refine ⟨by rfl, by decide +kernel, ?_, ?_⟩
  · intro h hh
    exact powerOk_alone _ _ _ (none_ _ _ h hh) rfl
  · have e : (resuming 0 oneWatt).heats.all (fun h => h.anchor == 0 && h.resumeStop == 0 &&
        h.record == { oneWatt with sched := true } && (resuming 0 oneWatt).policyOf h
          { Detect.blank h.hid (externalRank 0 0x88) 0x88 8 with core := 0 } == 1) = true := by decide +kernel
    intro h hh
    have := List.all_eq_true.mp e h hh
    simp only [Bool.and_eq_true, beq_iff_eq] at this
    obtain ⟨⟨⟨ha, hs⟩, hr⟩, hp⟩ := this
    refine ⟨?_, hp⟩
    have hn := none_ 0 oneWatt h hh
    have hb : (resuming 0 oneWatt).budget = 0 := rfl
    have ht : (h.record.load (h.anchor + 16384) h.resumeStop).total 16384 = 4 := by rw [ha, hs, hr]; decide +kernel
    have hm : (h.record.load (h.anchor + 16384) h.resumeStop).turns.head? = some 16384 ∧
      (h.record.load (h.anchor + 16384) h.resumeStop).anchor = 16384 := by rw [ha, hs]; exact ⟨rfl, rfl⟩
    have hmem : 16384 ∈ (h.record.load (h.anchor + 16384) h.resumeStop).turns := List.mem_of_mem_head? (by simp [hm.1])
    rw [Bool.eq_false_iff]
    intro hall
    simp only [State.powerOk, State.loads, hn, hb, List.filter_nil, List.map_nil, List.all_eq_true, List.map_cons, List.sum_cons,
      List.sum_nil, List.flatten_cons, List.flatten_nil, List.append_nil, List.mem_filter, decide_eq_true_eq] at hall
    have := hall 16384 ⟨hmem, by rw [hm.2]⟩
    omega
/-- Port 0 leads to the master; its marker came in one cycle and was due in another. -/
def synced (lock : Bool) (origin : Nat) (at_ : Nat × Nat) : State := ev (.sync 0 false origin)
  { inRegatta id (linked (fun p => { p with syncAt := some at_, deskew := 0 }) placed) with
    ptpLock := lock, ptp := { placed.ptp with slavePort := some 0 } }
def isSynced (s : State) (at_ : Nat × Nat) (off : Nat → Bool) : Bool := s.ptp.slavePort == some 0 && s.regatta.member &&
  (s.port 0).syncAt == some at_ &&
  match s.arg with
  | .sync _ _ origin => off ((7 * (origin : Int) + 65536 * 5 * 1120) - 65536 * (7 * s.regatta.epoch + 5 * (at_.1 + (s.port 0).deskew) : Nat)).natAbs
  | _ => false
theorem test_witness_regattaSteps_1 :
    [holdsOf (ev (.resume 16384 90000 5) (haltedAt 90000 5)) fun s => s.regatta.ph == some 90000 && s.regatta.halted && decide (s.heats.map (·.hid)).Nodup && heat0 s fun h => !h.record.sched,
      holdsOf (ev (.resume 16384 90000 5) placed) fun s => s.regatta.ph.isNone,
      holdsOf (ev (.resumed 5) placed) fun s => s.now == 0,
      holdsOf (ev (.exclude 5 90000 0) (inRegatta id (withFlow (someFlow 1 2 1) (routed placed)))) fun s => heat0 s fun h => h.abortCause == 0 && (s.route 5).any fun p => h.record.ports.contains p,
      holdsOf (ev (.exclude 5 90000 0) (inRegatta id (routed placed))) fun s => decide (s.heats.map (·.hid)).Nodup && heat0 s fun h => h.abortCause == 0 && (s.route 5).any fun p => !h.record.ports.contains p,
      holdsOf (ev (.sync 0 true 0) { routed placed with ptp := { placed.ptp with decided := true } }) fun s => (s.port 0).trained &&
        s.ptp.decided && s.ptp.slavePort != some 0,
      holdsOf (ev (.sync 0 true 0) placed) fun s => !(s.port 0).trained,
      holdsOf (ev (.sync 0 false 0) placed) fun s => s.ptp.slavePort != some 0,
      holdsOf (synced false (5000 * 5 * 65536 / 7 - 1120 * 5 * 65536 / 7) (5003, 5000)) fun s => isSynced s (5003, 5000) (fun d => decide (d ≤ 4 * 7 * 65536)),
      holdsOf (synced true 0 (5009, 5000)) fun s => isSynced s (5009, 5000) (fun d => decide (4 * 7 * 65536 < d)) && s.ptpLock,
      holdsOf (synced false 0 (5009, 5000)) fun s => isSynced s (5009, 5000) (fun d => decide (4 * 7 * 65536 < d)) && !s.ptpLock,
      holdsOf (ev (.pdelayReq 0) (routed placed)) fun s => s.now == 0].all id = true := by decide +kernel
theorem test_witness_regattaSteps_2 :
    [holdsOf (ev (.pdelayResp 0 20) { (linked (fun p => { p with pdelay := some (100, 0) }) placed) with now := 1220 }) fun s => (s.port 0).pdelay == some (100, 0),
      holdsOf (ev (.pdelayReqSend 0) (routed placed)) fun s => (s.port 0).trained,
      holdsOf (ev (.announce 0 (q64 [0x3F0F, 0x06FE000000000001, 5, 5, 6])) (routed placed)) fun s => (s.port 0).trained &&
        lexBefore (announceOf (q64 [0x3F0F, 0x06FE000000000001, 5, 5, 6])).key s.ownClock.key &&
        !(announceOf (q64 [0x3F0F, 0x06FE000000000001, 5, 5, 6])).path.contains s.pkgNo.toNat,
      holdsOf (ev (.announce 0 (q64 [0x3F0F, 0x06FE000000000001, 5, 5, 1])) (routed placed)) fun s =>
        (announceOf (q64 [0x3F0F, 0x06FE000000000001, 5, 5, 1])).path.contains s.pkgNo.toNat,
      holdsOf (ev (.announce 0 (q64 [0x3F0F, 0xFFF8FEFFFF000001, 5, 5, 6])) (routed placed)) fun s =>
        !lexBefore (announceOf (q64 [0x3F0F, 0xFFF8FEFFFF000001, 5, 5, 6])).key s.ownClock.key,
      holdsOf (ev .announceSend (routed placed)) fun s => (s.port 0).trained && s.ptp.slavePort != some 0,
      holdsOf (ev .ptpLockLost (scheduling placed)) fun s => heat0 s fun h => h.record.sched && h.resident,
      holdsOf (ev (.podCounterLoad 123456 9) placed) fun s => s.heats.any (·.resident),
      holdsOf (ev (.podCounterLoad 123456 9) { linked (fun p => { p with txTable := [(0, 0x80000000)] }) placed with heats := [] }) fun s => s.ports.any fun p => p.2.bankActive,
      holdsOf (ev (.podCounterLoad 123456 9) { routed placed with heats := [], ports := [], agenda := [{ at_ := 16384, rank := 0, seq := 0, ev := .bankSwitchTx 0 2 }] }) fun s => loadable s && s.agenda.any fun d => d.ev == .bankSwitchTx 0 2,
      holdsOf (ev (.frequencyTrim (-21990)) { placed with trimAt := some 0, now := 131072 }) fun s => s.trimAt == some 0 && decide (131072 ≤ s.now) && decide ((s.trim + (-21990)).natAbs ≤ 109951162),
      holdsOf (ev (.frequencyTrim 21991) placed) fun s => s.now == 0].all id = true := by decide +kernel
theorem test_witness_systemSteps_0 :
    [holdsOf (ev (.attestation (List.replicate 32 7)) { placed with ready := { placed.ready with ump := true } }) fun s => s.ready.ump && decide (nextLeaf s.leafIndex < 2 ^ 20),
      holdsOf (ev (.attestation (List.replicate 32 7)) { placed with ready := { placed.ready with ump := true }, leafIndex := some (2 ^ 20 - 1) }) fun s => decide (2 ^ 20 ≤ nextLeaf s.leafIndex),
      holdsOf (ev (.attestation []) placed) fun s => !s.ready.ump,
      holdsOf (ev (.commandLinkMessage 3 true (List.replicate 32 7)) (withLink (fun l => l.setSide true 8 []) placed)) fun s => decide (0 < (s.link 3).permits true),
      holdsOf (ev (.commandLinkMessage 3 true (List.replicate 32 7)) (withLink (fun l => l.setSide true 0 []) placed)) fun s => (s.link 3).permits true == 0,
      holdsOf (ev (.commandLinkMessage 3 true []) placed) fun s => ((s.link 3).sent true).isEmpty,
      holdsOf (ev (.commandLinkMessage 3 true []) (withLink (fun l => (l.setSide true 7 []).launch true [5]) placed)) fun s => (s.link 3).sent true == [[5]] && ((s.link 3).held true).isEmpty,
      holdsOf (ev (.commandLinkMessage 3 true []) (withLink (fun l => (l.setSide true 0 [[1], [2]]).launch true [5]) placed)) fun s => (s.link 3).sent true == [[5]] && (s.link 3).held true == [[1], [2]],
      holdsOf (ev (.powerOnReset 0) placed) fun s => s.now == 0,
      holdsOf (ev (.powerOnReset 1) placed) fun s => s.now == 0,
      holdsOf (ev (.powerOnReset 2) placed) fun s => s.now == 0,
      holdsOf (ev (.powerOnReset 3) placed) fun s => s.now == 0].all id = true := by decide +kernel
theorem test_witness_systemSteps_1 :
    [holdsOf (ev (.powerOnReset 4) placed) fun s => s.now == 0,
      holdsOf (ev (.powerOnReset 5) { placed with fatal := some 0xF5 }) fun s => s.fatal.isSome,
      holdsOf (ev (.powerOnReset 5) { placed with ready := { placed.ready with port := 0xFFFF, ptp := true } }) fun s => s.fatal.isNone && s.ready.port == 0xFFFF && s.ready.ptp,
      holdsOf (ev (.firmwareVerify [] true) placed) fun s => !s.flashFailed,
      holdsOf (ev (.firmwareVerify [] false) placed) fun s => !s.ready.fwok && decide (¬68 ≤ imageBody []),
      holdsOf (ev (.firmwareVerify [] true) { placed with flashFailed := true }) fun s => !s.ready.fwok && s.flashFailed,
      holdsOf (ev .functionLevelReset { placed with fatal := some 0xF5 }) fun s => s.fatal.isSome,
      holdsOf (ev .functionLevelReset placed) fun s => s.fatal.isNone,
      holdsOf (ev (.hostMemoryAccess true 0x1FFE [1, 2, 3]) { withFe placed with heats := [], winbase := 0 }) fun s => fits64 s 0x1FFE && s.winbase == 0,
      holdsOf (ev (.hostMemoryAccess true 0x2000 [1]) { withFe placed with winbase := 0 }) fun s => s.ready.pcie && wfOf s && !s.grainFree (stackOf 0x2000) s.now,
      holdsOf (ev (.hostMemoryAccess false 0x1FFE [1, 2, 3]) { withFe placed with heats := [], winbase := 0 }) fun s => fits64 s 0x1FFE && s.winbase == 0,
      holdsOf (ev (.hostMemoryAccess false 0x2000 [1]) { withFe placed with winbase := 0 }) fun s => s.ready.pcie && !s.grainFree (stackOf 0x2000) s.now,
      holdsOf (ev .counterLatch { placed with now := 77 }) fun s => s.now == 77,
      holdsOf (ev (.registerWrite 0x10 1500) placed) fun s => s.now == 0].all id = true := by decide +kernel
theorem test_witness_systemSteps_2 :
    [holdsOf (ev (.registerWrite 0x10 2001) placed) fun s => s.now == 0,
      holdsOf (ev (.registerWrite 0x20 5) placed) fun s => s.now == 0,
      holdsOf (ev (.registerWrite 0x17F0 0xF700000100000000) placed) fun s => s.now == 0,
      holdsOf (ev (.registerWrite 0x2000 5) placed) fun s => s.now == 0,
      holdsOf (ev (.registerWrite 0x2BF8 0x0300010000000200) placed) fun s => s.now == 0,
      holdsOf (ev (.registerWrite 0x3000 0x0000000100000001) placed) fun s => s.now == 0,
      holdsOf (ev (.registerWrite 0x3000 0x0000000300000001) placed) fun s => s.now == 0,
      holdsOf (ev (.registerWrite 0x3008 9) placed) fun s => s.now == 0,
      holdsOf (ev (.registerWrite 0x40F8 0x0305) placed) fun s => s.now == 0,
      holdsOf (ev (.registerWrite 0x4100 1) placed) fun s => s.now == 0,
      holdsOf (ev (.registerWrite 0x10FF8 1) placed) fun s => s.now == 0,
      holdsOf (ev (.slotTableWrite 0 false true 15 0x80000005) placed) fun s => !(s.port 0).txAct,
      holdsOf (ev (.slotTableWrite 0 false false 4095 0x80000005) placed) fun s => !(s.port 0).txAct].all id = true := by decide +kernel
theorem test_witness_systemSteps_3 :
    [holdsOf (ev (.faultLogLocation 5) placed) fun s => s.now == 0,
      holdsOf (ev (.dumpArea 5) placed) fun s => s.now == 0,
      holdsOf (ev (.boundaryScan [true]) placed) fun s => s.now == 0,
      holdsOf (ev .hostLinkLost placed) fun s => s.now == 0,
      holdsOf (ev (.scrub 0 3) placed) fun s => s.heats.any fun h => h.resident && h.clusters.contains 0,
      holdsOf (ev (.scrub 1 3) { placed with counters := [(2, { Counter.init with source := 12 })] }) fun s => (s.heats.all fun h => !h.clusters.contains 1) && s.counters.any fun c => c.2.source == 12,
      holdsOf (ev .refresh placed) fun s => s.now == 0,
      holdsOf (ev .governorStep placed) fun s => s.now == 0,
      holdsOf (ev .thermalBudgetStep placed) fun s => s.now == 0,
      holdsOf (ev (.dieOvertemp 1) placed) fun s => s.heats.any (·.live)].all id = true := by decide +kernel
theorem test_witness_systemSteps_4 :
    [holdsOf (ev .dieBridgeError placed) fun s => s.heats.any (·.live),
      holdsOf (ev .firmwareWatchdog placed) fun s => s.heats.any (·.live),
      holdsOf (ev .machineCheck placed) fun s => s.heats.any (·.live),
      holdsOf (ev (.dieOvertemp 1) bare) fun s => s.heats.all fun h => !h.live,
      holdsOf (ev .dieBridgeError bare) fun s => s.heats.all fun h => !h.live,
      holdsOf (ev .firmwareWatchdog bare) fun s => s.heats.all fun h => !h.live,
      holdsOf (ev .machineCheck bare) fun s => s.heats.all fun h => !h.live].all id = true := by decide +kernel

/-! ## Witnesses of the statements of the encoding, the step and taking a fault -/

theorem test_witness_decodeEncode :
    [(.addI32 ⟨3, 1, 112, 0, some 0xE1000005⟩ : Instr), .sqrtF32 ⟨3, 1, 112, 0, none⟩, .coxAdd ⟨3, 1, 2, 0⟩, .addi ⟨32, 32, 1⟩,
      .loop ⟨1, 0xFFFFB⟩].all wellFormed = true := by decide +kernel
theorem test_witness_parsedWordsEncodeBack : parse 0x00060781 0xE1000005 ≠ .unassignedOpcode 0x00060781 := by decide +kernel
/-- A placed instruction's slot comes first, and before what stands on the agenda; its clause can be read and decodes. -/
theorem test_witness_stepRunsDecoded :
    [(placed, Issuer.gang ⟨0, 0, 0⟩ 0xFF), (placedCox, Issuer.cox ⟨0, 0⟩)].all (fun e =>
      !e.1.clockOff && !e.1.cycleEnds && (firstSlot e.1.slots).any (fun x => x.who == e.2 && e.1.agenda.head?.all fun d => !dueFirst d x)) =
      true ∧
    ((placed.gang? ⟨0, 0, 0⟩).all fun g => g.groups.all fun y => y.quads == 0xFF && y.clause.isNone && y.pc == 0) = true ∧
    ((placedCox.team? ⟨0, 0⟩).all fun t => t.cox.clause.isNone && t.cox.pc == 0) = true ∧
    [placed, placedCox].all (fun s => (s.team? ⟨0, 0⟩).any fun t => match s.fetchWord t 0, s.fetchWord t 4 with
      | some hd, some w => (headerOf hd).nm1 == 0 && (match decode (wordBytes [w]) with
        | .ok (i, r) => r.isEmpty && (i == .laneNop ⟨112, 112, 112, 0, none⟩ || i == .coxNop ⟨0, 0, 0, 0⟩)
        | .error _ => false)
      | _, _ => false) = true := by decide +kernel
/-- The same inside a clause. -/
def midClause : State := placedCox.modCox ⟨0, 0⟩ fun c =>
  { c with clause := some { freshClause 0 0x80000001 [0xCF000000, 0x90820001] false with idx := 1, nth := 1 } }
theorem test_witness_stepContinuesClause :
    (!midClause.clockOff && !midClause.cycleEnds && (firstSlot midClause.slots).any (fun x => x.who == .cox ⟨0, 0⟩ &&
      midClause.agenda.head?.all fun d => !dueFirst d x) && (midClause.cox? ⟨0, 0⟩).any fun c => c.clause.any fun cl =>
      match decode (wordBytes (cl.words.drop cl.idx)) with
      | .ok (i, r) => r.isEmpty && i == .addi ⟨32, 32, 1⟩
      | .error _ => false) = true := by decide +kernel
def groupMid : State := placed.modGang ⟨0, 0, 0⟩ fun g => g.modGroup 0xFF fun y =>
  { y with clause := some { freshClause 0 0x00000001 [0x7C000000, 0x00060410] false with idx := 1, nth := 1 } }
theorem test_witness_stepContinuesClause_gang :
    (!groupMid.clockOff && !groupMid.cycleEnds && (firstSlot groupMid.slots).any (fun x => x.who == .gang ⟨0, 0, 0⟩ 0xFF &&
      groupMid.agenda.head?.all fun d => !dueFirst d x) && (groupMid.gang? ⟨0, 0, 0⟩).any fun g => g.groups.any fun y => y.clause.any fun cl =>
      match decode (wordBytes (cl.words.drop cl.idx)) with
      | .ok (i, r) => r.isEmpty && i == .addI32 ⟨3, 1, 2, 0, none⟩
      | .error _ => false) = true := by decide +kernel
/-- After reset the boot step stands on the agenda, with nothing before it; core clocks can be off. -/
theorem test_witness_stepRunsAgenda :
    (!State.reset.clockOff && !State.reset.cycleEnds && (firstSlot State.reset.slots).isNone &&
      (State.reset.agenda.head?).any fun d => d.ev.instr.isSome && decide (State.reset.now ≤ d.at_)) = true := by decide +kernel
theorem test_witness_stepAnswers :
    ({ State.reset with clockOff := true } : State).upNext = none ∧ (State.reset.upNext).isSome = true ∧
    [State.reset, placed, bare, { bare with agenda := [] }].all (fun s => decide ((s.settled.heats.map (·.hid)).Nodup) &&
      s.settled.agenda.head?.all fun d => d.ev != .idle) = true ∧
    (firstSlot ({ bare with agenda := [] } : State).settled.slots).isNone = true := by decide +kernel
/-- The heats' numbers after reset and of a placed heat, and after a step of it. -/
def numbered (s : State) : Bool := decide ((s.heats.map (·.hid)).Nodup) && s.heats.all fun h => decide (h.hid < s.nextHid)
theorem test_witness_stepKeepsHeatNumbers :
    numbered placed = true ∧ (match step placed with
      | .next t => numbered t
      | _ => false) = true := by decide +kernel
/-- Changes to the barrier object 8 of core 0, which expects 2 arrivals; the agent of the second is ranked behind that of the
first. -/
def change (rank declare credit arrivals : Nat) : BarChange :=
  { core := 0, idx := 8, declare := declare, credit := credit, arrivals := arrivals, engine := true, agent := { someDetect with rank := rank } }
def changing (arrv pend : Nat) (cs : List BarChange) : State :=
  { (withBar placed).modCore 0 (fun c => c.modBar 8 fun b => { b with arrv := arrv, pend := pend }) with barPend := cs }
/-- What the object holds after the cycle, and the cause of the fault taken: arrivals, PEND, phase. -/
def settles (s : State) (arrv pend phase cause : Nat) : Bool :=
  let b := (s.settle.core 0).bar 8
  b.arrv == arrv && b.pend == pend && b.phase == BitVec.ofNat 16 phase &&
    ((s.settle.heat? 0).bind (·.fault)).map (·.cause) == (if cause = 0 then none else some cause)
theorem test_witness_barrierCycleEnds :
    [settles (changing 0 0 [change 1 0 0 1]) 1 0 0 0, settles (changing 1 0 [change 1 0 0 1]) 0 0 1 0,
      settles (changing 1 0 [change 1 8 0 1]) 2 8 0 0, settles (changing 2 8 [change 1 0 8 0]) 0 0 1 0,
      settles (changing 0 0 [change 1 0 0 1, change 2 0 0 1]) 0 0 1 0,
      settles (changing 2 0 [change 1 0 0 1]) 2 0 0 0xC4, settles (changing 0 7 [change 1 0 8 0]) 0 7 0 0xC5,
      settles (changing 0 (2 ^ 40 - 1) [change 1 1 0 0]) 0 (2 ^ 40 - 1) 0 0xC5,
      settles (changing 1 0 [change 1 0 0 1, change 2 0 0 1]) 0 0 1 0xC4, settles (changing 1 5 [change 2 0 0 1, change 1 0 0 1]) 2 5 0 0xC4,
      settles (changing 0 8 [change 1 0 8 1, change 2 0 1 0]) 1 0 0 0xC5].all id = true := by decide +kernel
theorem test_witness_memories :
    wfOf placed = true ∧ wfOf { placed with hbm := [(3, 5)], scratch := [(0, 1)], tiles := [(7, 9)] } = true ∧
    (match step placed, step State.reset with
      | .next t, .next u => wfOf t && wfOf u
      | _, _ => false) = true := by decide +kernel
theorem test_witness_frame :
    (match exec .stackAccess (ev (.stackAccess (.lanes 0 0xFFFFFFFF true)) { storing with now := 320 }), step placed, placed.upNext with
      | .next _, .next _, some (i, _) => i != .podCounterLoad
      | _, _, _ => false) = true := by decide +kernel
/-- A fault alone, a second one, and two in one cycle of which the later named has the lower rank. -/
def faulting (ds : List Detect) : State := { placed with detects := ds }
theorem test_witness_takingAFault :
    [holdsOf (faulting [someDetect]) (fun s => s.barPend.isEmpty && (s.heat? 0).any fun h =>
        h.status == .running && h.fault.isNone && h.halt.isNone && decide (0 < h.record.rho)),
      holdsOf (withHeat (fun h => { h with halt := some (.preempt, 64) }) (faulting [someDetect])) (fun s => s.barPend.isEmpty &&
        (s.heat? 0).any fun h => h.status == .running && h.fault.isNone && h.halt == some (.preempt, 64)),
      holdsOf (withHeat (fun h => { h with halt := some (.haltFlit 0, 64) }) (faulting [someDetect])) (fun s => s.barPend.isEmpty &&
        (s.heat? 0).any fun h => h.status == .running && h.fault.isNone && h.halt == some (.haltFlit 0, 64)),
      holdsOf (withHeat (fun h => { h with fault := some someDetect }) (faulting [someDetect])) (fun s => s.barPend.isEmpty &&
        (s.heat? 0).any fun h => h.status == .running && h.fault == some someDetect),
      holdsOf (faulting [{ someDetect with rank := 2 }, someDetect]) (fun s => s.barPend.isEmpty && (s.heat? 0).any fun h =>
        h.status == .running && h.fault.isNone)].all id = true := by decide +kernel
end

section
/-! PROOFS. Every instruction that `step` runs answers with a next state, and what `step` runs (O5, O7). -/
namespace Sys2Proof

/-! ## What a word is read as -/

theorem laneInstr_parts {op : Nat} {w : LaneWord} {i : Instr} (h : laneInstr op w = some i) :
    ∃ op', Parts.of i = some (.lane op' w) := by
  unfold laneInstr at h
  split at h <;> first | (cases h; exact ⟨_, rfl⟩) | (split at h <;> cases h <;> exact ⟨_, rfl⟩) | cases h

theorem uniInstr_parts {op : Nat} {w : BitVec 32} {i : Instr} (h : uniInstr op w = some i) :
    (Parts.of i).isSome = true := by
  unfold uniInstr at h
  split at h <;> first | (cases h; rfl) | (split at h <;> cases h <;> rfl) | cases h

/-- What is read from words is a program instruction, never a step of the machine. -/
theorem parse_isProgram (w next : BitVec 32) : (Parts.of (parse w next)).isSome = true := by
  unfold parse
  dsimp only
  split
  · cases h : uniInstr (bits w.toNat 30 24) w with
    | none => rfl
    | some i => exact uniInstr_parts h
  · cases h : laneInstr (bits w.toNat 30 24) (laneWordOf w next) with
    | none => rfl
    | some i => obtain ⟨op, h⟩ := laneInstr_parts h; rw [Option.getD_some, h]; rfl

/-- An instruction of one word does not depend on the word after it. -/
theorem parse_of_oneWord {w a : BitVec 32} (b : BitVec 32) (hu : parse w a ≠ .unassignedOpcode w)
    (hw : (parse w a).words ≠ 2) : parse w b = parse w a := by
  cases h31 : bit w 31 with
  | true => simp [parse, h31]
  | false =>
    cases h0 : bit w 0 with
    | false => simp [parse, laneWordOf, h31, h0]
    | true =>
      simp only [parse, h31, Bool.false_eq_true, if_false] at hu hw
      cases h : laneInstr (bits w.toNat 30 24) (laneWordOf w a) with
      | none => rw [h] at hu; exact absurd rfl hu
      | some i =>
        obtain ⟨op, hp⟩ := laneInstr_parts h
        rw [h, Option.getD_some, Instr.words, hp] at hw
        simp [laneWordOf, h0] at hw

/-- The decoder reads from bytes of words the instruction that its words are parsed to. -/
theorem parse_of_decode {ws : List Word} {i : Instr} {rest : List Byte} (h : decode (Machine.wordBytes ws) = .ok (i, rest)) :
    parse (ws.getD 0 0) (ws.getD 1 defaultTail) = i := by
  match ws with
  | [] => simp [Machine.wordBytes, decode] at h
  | w :: more =>
    rw [Machine.wordBytes, List.flatMap_cons, decode_cons] at h
    dsimp only at h
    split at h
    · cases h
    rename_i hu
    match more with
    | [] =>
      split at h
      · simp at h
      · rename_i hw
        rw [← (Prod.mk.inj (Except.ok.inj h)).1]
        exact parse_of_oneWord _ hu hw
    | y :: more =>
      have hy : ((y :: more).flatMap fun w => leBytes 4 w.toNat).take 4 = leBytes 4 y.toNat := by
        rw [List.flatMap_cons, List.take_append_of_le_length (by rw [leBytes_length]),
          List.take_of_length_le (by rw [leBytes_length])]
      rw [hy, word_of_bytes] at h
      split at h
      · split at h
        · cases h
        · exact (Prod.mk.inj (Except.ok.inj h)).1
      · exact (Prod.mk.inj (Except.ok.inj h)).1

namespace Machine

theorem Clause.instr_of_decode {cl : Clause} {i : Instr} {rest : List Byte}
    (h : decode (wordBytes (cl.words.drop cl.idx)) = .ok (i, rest)) : cl.instr = i := by
  rw [← parse_of_decode h, Clause.instr]
  simp [List.getD, List.getElem?_drop]

theorem Clause.instr_isProgram (cl : Clause) : (Parts.of cl.instr).isSome = true := parse_isProgram ..

/-! ## Every instruction answers -/

/-- An instruction answers: it gives a next state. -/
def Answers (o : Host.Outcome State Fault Refusal) : Prop := ∃ t, o = .next t

/-- Some stream is issuing an instruction. -/
def State.issues (s : State) : Prop := (laneCtx s).isSome = true ∨ (uniCtx s).isSome = true

theorem wrongSet_answers {s : State} (h : s.issues) : Answers (wrongSet s) := by
  unfold wrongSet
  split
  · exact ⟨_, rfl⟩
  · exact ⟨_, rfl⟩
  · rename_i hl hu
    simp [State.issues, hl, hu] at h

theorem checkLane_answers {s : State} (h : s.issues) (i : Instr) (w : LaneWord)
    (extra : LCtx → List (Nat × Option (BitVec 32) × Nat × Nat)) (go : LCtx → State) :
    Answers (checkLane i w s extra go) := by
  unfold checkLane
  split
  · exact wrongSet_answers h
  · dsimp only
    repeat' split
    all_goals exact ⟨_, rfl⟩

theorem checkUni_answers {s : State} (h : s.issues) (i : Instr) (extra : UCtx → List (Nat × Nat × Nat))
    (go : UCtx → State) : Answers (checkUni i s extra go) := by
  unfold checkUni
  split
  · exact wrongSet_answers h
  · dsimp only
    repeat' split
    all_goals exact ⟨_, rfl⟩

/-- A program instruction that some stream issues answers. -/
theorem exec_answers_of_issues {i : Instr} {s : State} (hp : (Parts.of i).isSome = true) (h : s.issues) :
    Answers (exec i s) := by
  cases i
  case unassignedOpcode w =>
    change Answers (execUnassignedOpcode w s)
    unfold execUnassignedOpcode
    split
    · exact checkUni_answers h ..
    · exact checkLane_answers h ..
  all_goals first | cases hp; done | exact checkLane_answers h .. | exact checkUni_answers h ..

/-- A step of the machine that finds its own data answers. -/
theorem exec_answers_of_arg {i : Instr} {s : State} (h : s.arg.instr = some i) : Answers (exec i s) := by
  cases e : s.arg
  case stackAccess u =>
    rw [e] at h
    cases h
    cases u <;> simp only [exec, execStackAccess, e]
    case record op => split <;> exact ⟨_, rfl⟩
    all_goals exact ⟨_, rfl⟩
  case idle => rw [e] at h; cases h
  all_goals
    rw [e] at h
    cases h
    simp only [exec, execLaneResult, execCoxResult, execScratchStorePerform, execScratchAtomicPerform, execScratchLoadDelivery,
      execOwnerFlipOpen, execGlobalPerform, execGlobalLoadDelivery, execGlobalStoreCompletion, execAtomicResult,
      execAtomicRepeat, execSndLanding, execLandingNotReceived, execCsyncSessionOpen, execSpanEnd, execBwtResume,
      execRejoinMerge, execTwaitDeadline, execCoxBwtDeadline, execBarmActionLaunch, execGraphRelease,
      execMessageAccepted, execLocalSignalApply, execHostRingEntryVisible, execCoalesceTimer, execHostRingCiWrite,
      execHostRingEnWrite, execEngineCommandStart, execMatrixRead, execMatrixWrite, execCopyBeat, execCopyWrite,
      execLayoutBeat, execLayoutWrite, execEngineCompletion, execTloadCompletion, execGsetMemCompletion,
      execXferRecordRead, execCollectiveFold, execLocalMove, execBf16ImageWrite, execXferDone, execHostBoundCheck,
      execTransmitRead, execScheduledFlitSend, execFlitRelease, execFlitLanding, execFrameMarkerSend,
      execFrameMarkerArrival, execFrameMarkerMiss, execUnscheduledSend, execMessageRelease, execLaunchMessage,
      execSignalMessage, execBulkMessage, execAcknowledgement, execNegativeAcknowledgement, execMessageRetransmit,
      execSync, execPdelayReq, execPdelayResp, execAnnounce, execHalt, execHalted, execResume, execResumed,
      execExclude, execRegattaHalt, execHaltedTimeout, execLinkTrained, execLinkTrainingLost, execPtpLockLost,
      execPodCounterLoad, execFrequencyTrim, execRefresh, execBankSwitchArm, execBankSwitchCancel, execBankSwitchTx,
      execBankSwitchRx, execGovernorStep, execThermalBudgetStep, execQueuePiWrite, execQueueEnWrite, execPrefetch,
      execCommandNop, execCommandHeat, execCommandGraph, execCommandIndirect, execArbiterStep, execHeatStart,
      execArmedTimeout, execEndCheck, execHeatCompletion, execCopyNode, execCopyNodeCompletion, execConditionalNode,
      execGraphEnd, execPreemptEstimate, execPreemptSave, execPreemptDrain, execPreemptionHalt, execFaultHalt,
      execQuiesce, execSaveComplete, execHandlerEntry, execHandlerTimeout, execRestore, execAgentResume, execRevoke,
      execRevocation, execPolicySet, execAttestation, execCommandLinkMessage, execPowerOnReset, execFirmwareVerify,
      execFunctionLevelReset, execHostMemoryAccess, execCounterLatch, execDieOvertemp, execDieBridgeError,
      execFirmwareWatchdog, execMachineCheck, execRegisterWrite, execPreemptionRequestUnassigned, execScrub,
      execHostLinkLost, execBoundaryScan, execFaultLogLocation, execDumpArea, execPdelayReqSend, execAnnounceSend,
      execLayoutGenerationChange, execCheckpointMove, e]
    repeat' split
    all_goals exact ⟨_, rfl⟩

end Machine
end Sys2Proof
end

section
/-! PROOFS. The issue slots of a state, and what the fetch at a slot finds (R21-R24, R133-R135). -/
namespace Sys2Proof.Machine

/-! ## Slots -/

theorem le_alignSlot (rho p h : Nat) : h ≤ alignSlot rho p h := Nat.le_add_right ..

/-- No cox has a slot in an earlier cycle. -/
theorem State.coxSlot_ge {s : State} {h : Heat} {t : Team} {c : Cox} {x : Nat} (e : s.coxSlot h t c = some x) :
    s.now - h.base t ≤ x := by
  unfold State.coxSlot at e
  repeat' split at e
  all_goals first | (cases e; done) | (cases e; exact Nat.le_max_right ..)

/-- A fold that keeps what it has or takes the element before it picks an element of the list. -/
theorem mem_of_foldl_pick {α : Type} (f : Option α → α → Option α) (hf : ∀ a x, f a x = a ∨ f a x = some x) (l : List α)
    {a : Option α} {y : α} (h : l.foldl f a = some y) : a = some y ∨ y ∈ l := by
  induction l generalizing a with
  | nil => exact .inl h
  | cons x r ih =>
    rcases ih h with h | h
    · rcases hf a x with e | e <;> rw [e] at h
      · exact .inl h
      · cases h; exact .inr (List.mem_cons_self ..)
    · exact .inr (List.mem_cons_of_mem _ h)

theorem nextGroup_mem {turn : Nat} {gs : List Group} {g : Group} (h : nextGroup turn gs = some g) : g ∈ gs := by
  unfold nextGroup at h
  dsimp only at h
  split at h
  · rename_i e
    rw [h] at e
    refine (mem_of_foldl_pick _ (fun a x => ?_) _ e).resolve_left (fun h => nomatch h)
    repeat' split
    all_goals simp
  · refine (mem_of_foldl_pick _ (fun a x => ?_) _ h).resolve_left (fun h => nomatch h)
    repeat' split
    all_goals simp

/-- No gang has a slot in an earlier cycle, and its slot is that of one of its groups. -/
theorem State.gangSlot_spec {s : State} {h : Heat} {t : Team} {gi : Nat} {g : Gang} {x : Nat} {gr : Group}
    (e : s.gangSlot h t gi g = some (x, gr)) : s.now - h.base t ≤ x ∧ gr ∈ g.groups := by
  unfold State.gangSlot at e
  split at e
  · cases e
  dsimp only at e
  split at e
  · cases e
  obtain ⟨y, hy, he⟩ := Option.map_eq_some_iff.1 e
  obtain ⟨rfl, rfl⟩ := Prod.mk.inj he
  refine ⟨(le_alignSlot _ _ _).trans (Nat.le_max_right ..), ?_⟩
  obtain ⟨c, hc, rfl⟩ := List.mem_map.1 (nextGroup_mem hy)
  obtain ⟨z, hz, hm⟩ := List.mem_filterMap.1 (List.mem_filter.1 hc).1
  obtain ⟨_, _, rfl⟩ := Option.map_eq_some_iff.1 hm
  exact hz

/-- The stream of a slot: the cox of a team of a heat, or a quad group of one of its gangs. -/
def Slot.ofTeam (x : Slot) (h : Heat) (ti : Nat) (t : Team) : Prop :=
  x.who = .cox ⟨h.hid, ti⟩ ∨ ∃ gi g gr, t.gangs[gi]? = some g ∧ gr ∈ g.groups ∧ x.who = .gang ⟨h.hid, ti, gi⟩ gr.quads

theorem getElem?_of_mem_zip_range {α : Type} {l : List α} {i : Nat} {y : α} (h : (i, y) ∈ (List.range l.length).zip l) :
    l[i]? = some y := by
  obtain ⟨n, hn, e⟩ := List.mem_iff_getElem.1 h
  rw [List.getElem_zip, List.getElem_range] at e
  obtain ⟨rfl, rfl⟩ := Prod.mk.inj e
  exact List.getElem?_eq_getElem _

theorem State.mem_teamSlots {s : State} {h : Heat} {ti : Nat} {t : Team} {x : Slot} (hx : x ∈ s.teamSlots h ti t) :
    s.now ≤ x.cycle ∧ x.ofTeam h ti t := by
  have base {y : Nat} (hy : s.now - h.base t ≤ y) : s.now ≤ h.base t + y := by omega
  unfold State.teamSlots at hx
  rcases List.mem_append.1 hx with hx | hx
  · split at hx
    · rename_i y hy
      generalize (if h.status = .handler then t.cox.handler.isSome else h.teamIssuesAt t y) = b at hx
      cases b
      · cases hx
      · obtain rfl := List.mem_singleton.1 hx
        exact ⟨base (State.coxSlot_ge hy), .inl rfl⟩
    · cases hx
  · obtain ⟨⟨gi, g⟩, hg, hx⟩ := List.mem_filterMap.1 hx
    dsimp only at hx
    split at hx
    · rename_i y gr hy
      obtain ⟨h1, h2⟩ := State.gangSlot_spec hy
      split at hx <;> cases hx
      exact ⟨base h1, .inr ⟨gi, g, gr, getElem?_of_mem_zip_range hg, h2, rfl⟩⟩
    · cases hx

/-- WHAT A SLOT IS: it lies in no earlier cycle, and its stream is one of a team of some heat. -/
theorem State.mem_slots {s : State} {x : Slot} (hx : x ∈ s.slots) :
    s.now ≤ x.cycle ∧ ∃ h ∈ s.heats, ∃ ti t, h.teams[ti]? = some t ∧ x.ofTeam h ti t := by
  unfold State.slots at hx
  obtain ⟨l, hl, hx⟩ := List.mem_flatten.1 hx
  obtain ⟨h, hh, rfl⟩ := List.mem_map.1 hl
  split at hx
  swap
  · cases hx
  obtain ⟨l, hl, hx⟩ := List.mem_flatten.1 hx
  obtain ⟨⟨ti, t⟩, ht, rfl⟩ := List.mem_map.1 hl
  obtain ⟨h1, h2⟩ := State.mem_teamSlots hx
  exact ⟨h1, h, hh, ti, t, getElem?_of_mem_zip_range ht, h2⟩

theorem firstSlot_mem {l : List Slot} {x : Slot} (h : firstSlot l = some x) : x ∈ l := by
  cases l with
  | nil => cases h
  | cons y r =>
    have hf : ∀ (r : List Slot) (y : Slot), r.foldl Slot.first y = y ∨ r.foldl Slot.first y ∈ r := by
      intro r
      induction r with
      | nil => exact fun y => .inl rfl
      | cons z r ih =>
        intro y
        have hz : y.first z = y ∨ y.first z = z := by unfold Slot.first; split <;> simp
        rcases ih (y.first z) with e | e
        · rcases hz with h | h
          · exact .inl (e.trans h)
          · exact .inr (by rw [List.foldl_cons, e, h]; exact List.mem_cons_self ..)
        · exact .inr (List.mem_cons_of_mem _ e)
    obtain rfl := Option.some.inj h
    rcases hf r y with e | e
    · rw [e]; exact List.mem_cons_self ..
    · exact List.mem_cons_of_mem _ e

/-! ## The fetch -/

theorem State.heat?_of_mem {s : State} (hd : s.hidsApart) {h : Heat} (hh : h ∈ s.heats) : s.heat? h.hid = some h := by
  unfold State.heat?
  unfold State.hidsApart at hd
  generalize s.heats = l at hd hh
  induction l with
  | nil => cases hh
  | cons x r ih =>
    rw [List.map_cons, List.nodup_cons] at hd
    rcases List.mem_cons.1 hh with rfl | hh
    · simp
    · have : x.hid ≠ h.hid := fun e => hd.1 (e ▸ List.mem_map_of_mem hh)
      rw [List.find?_cons_of_neg (by simpa using this)]
      exact ih hd.2 hh

/-- The fetch of a cox names it and puts its clause, fetched if it stood before a header, in its place. -/
theorem State.fetch_cox {s : State} {r : TeamRef} {t : Team} (ht : s.team? r = some t) :
    s.fetch (.cox r) = some ((t.cox.clause.getD (s.fetchClause t t.cox.pc t.cox.branched)).instr,
      { s.modCox r (fun c => { c with clause := some (t.cox.clause.getD (s.fetchClause t t.cox.pc t.cox.branched)) }) with
        cur := .cox r }) := by
  simp only [State.fetch, ht]
  cases t.cox.clause <;> rfl

/-- The fetch of a quad group likewise. -/
theorem State.fetch_gang {s : State} {r : GangRef} {q : BitVec 8} {t : Team} {g : Gang} {gr : Group}
    (ht : s.team? ⟨r.hid, r.team⟩ = some t) (hg : s.gang? r = some g)
    (hq : g.groups.find? (fun y => y.quads == q) = some gr) :
    s.fetch (.gang r q) = some ((gr.clause.getD (s.fetchClause t gr.pc gr.branched)).instr,
      { s.modGang r (fun g => g.modGroup q fun y =>
          { y with clause := some (gr.clause.getD (s.fetchClause t gr.pc gr.branched)) }) with cur := .gang r q }) := by
  simp only [State.fetch, ht, hg, hq]
  cases gr.clause <;> rfl

/-- A clause that can be read is fetched as it stands. -/
theorem State.fetchClause_of_reads {s : State} {t : Team} {pc : Nat} {hd : Word} {ws : List Word} {branched : Bool}
    (h : s.readsClause t pc hd ws) : s.fetchClause t pc branched = freshClause pc hd ws branched := by
  obtain ⟨hh, hl, hw⟩ := h
  have e : ((List.range ((headerOf hd).nm1 + 1)).map fun i => s.fetchWord t (pc + 4 + 4 * i)) = ws.map some := by
    refine List.ext_getElem? fun i => ?_
    rw [← hl, List.getElem?_map, List.getElem?_map]
    by_cases hi : i < ws.length
    · rw [List.getElem?_range hi, Option.map_some, hw i hi, List.getElem?_eq_getElem hi, Option.map_some]
    · rw [List.getElem?_eq_none (by simpa using hi), List.getElem?_eq_none (by simpa using hi)]; rfl
  simp only [State.fetchClause, hh, Option.getD_some, e, freshClause, Option.isNone_some, List.map_map]
  simp [Function.comp_def]

theorem Group.find_modGroup {g : Gang} {q : BitVec 8} {gr : Group} (f : Group → Group) (hf : ∀ x, (f x).quads = x.quads)
    (h : g.groups.find? (fun x => x.quads == q) = some gr) :
    (g.modGroup q f).groups.find? (fun x => x.quads == q) = some (f gr) := by
  have hp : (fun x : Group => x.quads == q) ∘ (fun x => if x.quads = q then f x else x) = fun x => x.quads == q := by
    funext x
    simp only [Function.comp]
    split <;> simp [hf]
  rw [Gang.modGroup, List.find?_map, hp, h, Option.map_some, if_pos (by simpa using List.find?_some h)]

theorem laneCtx_isSome {s : State} {r : GangRef} {q : BitVec 8} {g : Gang} {gr : Group} (hc : s.cur = .gang r q)
    (hg : s.gang? r = some g) (hq : g.groups.find? (fun x => x.quads == q) = some gr) (hcl : gr.clause.isSome = true) :
    (laneCtx s).isSome = true := by
  unfold State.gang? State.team? at hg
  cases hh : s.heat? r.hid with
  | none => simp [hh] at hg
  | some h =>
    cases ht : h.teams[r.team]? with
    | none => simp [hh, ht] at hg
    | some t =>
      obtain ⟨cl, hcl⟩ := Option.isSome_iff_exists.1 hcl
      have hg : t.gangs[r.gang]? = some g := by simpa [hh, ht] using hg
      simp [laneCtx, hc, hh, ht, hg, hq, hcl]

theorem uniCtx_isSome {s : State} {r : TeamRef} {t : Team} (hc : s.cur = .cox r) (ht : s.team? r = some t)
    (hcl : t.cox.clause.isSome = true) : (uniCtx s).isSome = true := by
  unfold State.team? at ht
  cases hh : s.heat? r.hid with
  | none => simp [hh] at ht
  | some h =>
    obtain ⟨cl, hcl⟩ := Option.isSome_iff_exists.1 hcl
    have ht : h.teams[r.team]? = some t := by simpa [hh] using ht
    simp [uniCtx, hc, hh, ht, hcl]

/-- WHAT THE FETCH AT A SLOT FINDS, where no two heats have one number: a program instruction, and a state in which its
stream issues it. -/
theorem State.takeSlot_spec {s : State} (hd : s.hidsApart) {x : Slot} (hx : x ∈ s.slots) :
    ∃ i u, s.takeSlot x = some (i, u) ∧ (Parts.of i).isSome = true ∧ u.issues := by
  obtain ⟨-, h, hh, ti, t, ht, hw⟩ := State.mem_slots hx
  let v : State := { s with now := x.cycle }
  have hv : v.heat? h.hid = some h := State.heat?_of_mem hd hh
  have hteam : v.team? ⟨h.hid, ti⟩ = some t := by rw [State.team?, hv]; exact ht
  change ∃ i u, v.fetch x.who = some (i, u) ∧ _
  rcases hw with hw | ⟨gi, g, gr, hg, hgr, hw⟩
  · refine ⟨_, _, by rw [hw, State.fetch_cox hteam], Clause.instr_isProgram _, .inr ?_⟩
    exact uniCtx_isSome rfl ((State.team?_modTeam ..).trans ((if_pos rfl).trans (congrArg (Option.map _) hteam))) rfl
  · have hgang : v.gang? ⟨h.hid, ti, gi⟩ = some g := by rw [State.gang?, hteam]; exact hg
    obtain ⟨y, hy⟩ := Option.isSome_iff_exists.1 (List.find?_isSome (p := fun y => y.quads == gr.quads).2 ⟨gr, hgr, by simp⟩)
    refine ⟨_, _, by rw [hw, State.fetch_gang hteam hgang hy], Clause.instr_isProgram _, .inl ?_⟩
    exact laneCtx_isSome rfl ((State.gang?_modGang ..).trans ((if_pos rfl).trans (congrArg (Option.map _) hgang)))
      (Group.find_modGroup _ (fun _ => rfl) hy) rfl

/-! ## What comes next -/

theorem Ev.instr_isSome {e : Ev} (h : e ≠ .idle) : e.instr.isSome = true := by
  cases e
  case idle => exact absurd rfl h
  all_goals rfl

theorem State.upNext_eq {s : State} (h : s.clockOff = false) : s.upNext = s.settled.takeNext := by
  simp only [State.upNext, State.settled, h, Bool.false_eq_true, if_false]
  split <;> rfl

theorem State.takeDue_spec {s : State} {d : Due} (rest : List Due) (h : d.ev ≠ .idle) :
    ∃ i u, s.takeDue d rest = some (i, u) ∧ u.arg.instr = some i := by
  obtain ⟨i, hi⟩ := Option.isSome_iff_exists.1 (Ev.instr_isSome h)
  exact ⟨i, _, by rw [State.takeDue, hi, Option.map_some], hi⟩

/-- WHAT COMES NEXT ANSWERS: a slot's instruction in its stream, an agenda's step with its data. -/
theorem State.takeNext_answers {s : State} (hd : s.hidsApart) (hi : ∀ d ∈ s.agenda.head?, d.ev ≠ .idle)
    (h : ¬(firstSlot s.slots = none ∧ s.agenda = [])) : ∃ i u, s.takeNext = some (i, u) ∧ Answers (exec i u) := by
  have slot {x : Slot} (e : firstSlot s.slots = some x) : ∃ i u, s.takeSlot x = some (i, u) ∧ Answers (exec i u) := by
    obtain ⟨i, u, h1, h2, h3⟩ := State.takeSlot_spec hd (firstSlot_mem e)
    exact ⟨i, u, h1, exec_answers_of_issues h2 h3⟩
  have due {d : Due} {rest : List Due} (e : s.agenda = d :: rest) :
      ∃ i u, s.takeDue d rest = some (i, u) ∧ Answers (exec i u) := by
    obtain ⟨i, u, h1, h2⟩ := State.takeDue_spec (s := s) rest (hi d (by rw [e]; rfl))
    exact ⟨i, u, h1, exec_answers_of_arg h2⟩
  unfold State.takeNext
  split
  · rename_i e1 e2
    exact absurd ⟨e2, e1⟩ h
  · exact due (by assumption)
  · exact slot (by assumption)
  · split
    · exact due (by assumption)
    · exact slot (by assumption)

theorem step_of_takeNext {s : State} {i : Instr} {u : State} (h : s.clockOff = false)
    (e : s.settled.takeNext = some (i, u)) : step s = exec i u := by
  rw [step, State.upNext_eq h, e]

end Sys2Proof.Machine
open Sys2Proof Sys2Proof.Machine

/-- Settles O7: a slot's stream issues what it fetched and an agenda's step finds its data, so either answers. -/
theorem stepAnswers : Obligations.StepAnswers := by
  unfold Obligations.StepAnswers
  intro s hd hi
  refine ⟨fun h => ?_, fun h => ?_⟩
  · cases hc : s.clockOff with
    | true => simp [step, State.upNext, hc]
    | false =>
      obtain ⟨h1, h2⟩ := h.resolve_left (by simp [hc])
      rw [step, State.upNext_eq hc, State.takeNext, h1, h2]
  · have hc : s.clockOff = false := by simpa using fun h1 => h (.inl h1)
    obtain ⟨i, u, h1, h2⟩ := State.takeNext_answers hd hi fun h1 => h (.inr h1)
    rw [step_of_takeNext hc h1]
    exact h2

/-- Settles O5: the bytes that the decoder reads are the words that the fetch has put in the clause. -/
theorem stepRunsDecoded : Obligations.StepRunsDecoded := by
  unfold Obligations.StepRunsDecoded
  rintro s u x i rest hc rfl hx hdue
  have htake : s.settled.takeNext = s.settled.takeSlot x := by
    unfold State.takeNext
    cases e : s.settled.agenda with
    | nil => simp [hx]
    | cons d r => simp [hx, hdue d (by rw [e]; rfl)]
  have hreads {t : Team} {pc : Nat} {hd : Word} {ws : List Word} (b : Bool) (h : s.settled.readsClause t pc hd ws) :
      ({ s.settled with now := x.cycle } : State).fetchClause t pc b = freshClause pc hd ws b :=
    State.fetchClause_of_reads h
  refine ⟨fun r t cl hw ht hcl hdec => ?_, fun r q t g gr cl hw ht hg hq hcl hdec => ?_⟩
  · have e : t.cox.clause.getD (({ s.settled with now := x.cycle } : State).fetchClause t t.cox.pc t.cox.branched) = cl := by
      rcases hcl with ⟨hd, ws, h1, h2, rfl⟩ | h1
      · rw [h1, Option.getD_none, hreads _ h2]
      · rw [h1, Option.getD_some]
    refine step_of_takeNext hc (htake.trans ?_)
    rw [State.takeSlot, hw]
    exact (State.fetch_cox (s := { s.settled with now := x.cycle }) ht).trans (by rw [e, Clause.instr_of_decode hdec])
  · have e : gr.clause.getD (({ s.settled with now := x.cycle } : State).fetchClause t gr.pc gr.branched) = cl := by
      rcases hcl with ⟨hd, ws, h1, h2, rfl⟩ | h1
      · rw [h1, Option.getD_none, hreads _ h2]
      · rw [h1, Option.getD_some]
    refine step_of_takeNext hc (htake.trans ?_)
    rw [State.takeSlot, hw]
    exact (State.fetch_gang (s := { s.settled with now := x.cycle }) ht hg hq).trans
      (by rw [e, Clause.instr_of_decode hdec])
end

section
/-! PROOFS. The frame of every instruction and the clock (O14): no instruction changes the cycle but the load of the pod
counter, nor a memory that it may not write. -/
namespace Sys2Proof.Machine

/-- The next state, if the outcome is one, has the clock, the package and the memories outside `ps` as they were. -/
def Keeps (ps : List Space) (s : State) : Host.Outcome State Fault Refusal → Prop
  | .next t => t.kept ps = s.kept ps
  | _ => True

@[simp] theorem keeps_next (ps : List Space) (s t : State) : Keeps ps s (.next t) ↔ t.kept ps = s.kept ps := Iff.rfl

@[simp] theorem keeps_fault (ps : List Space) (s : State) (r : Fault) : Keeps ps s (.fault r) := trivial

theorem wrongSet_keeps (ps : List Space) (s : State) : Keeps ps s (wrongSet s) := by
  unfold wrongSet
  split
  · simp
  · rw [keeps_next]; split <;> simp
  · simp

theorem checkLane_keeps {ps : List Space} {s : State} {go : LCtx → State} (hgo : ∀ c, (go c).kept ps = s.kept ps)
    (i : Instr) (w : LaneWord) (extra : LCtx → List (Nat × Option (BitVec 32) × Nat × Nat)) :
    Keeps ps s (checkLane i w s extra go) := by
  unfold checkLane
  split
  · exact wrongSet_keeps ..
  · dsimp only
    repeat' split
    all_goals simp [hgo]

theorem checkUni_keeps {ps : List Space} {s : State} {go : UCtx → State} (hgo : ∀ c, (go c).kept ps = s.kept ps)
    (i : Instr) (extra : UCtx → List (Nat × Nat × Nat)) : Keeps ps s (checkUni i s extra go) := by
  unfold checkUni
  split
  · exact wrongSet_keeps ..
  · dsimp only
    repeat' split
    all_goals simp [hgo]

/-! ### Program instructions -/

theorem execLaneOwn_keeps (w : LaneWord) (s : State) : Keeps [] s (execLaneOwn w s) := by
  refine checkLane_keeps (fun c => ?_) _ _ _
  dsimp only
  split <;> simp

theorem execLaneBwt_keeps (w : LaneWord) (s : State) : Keeps [] s (execLaneBwt w s) := by
  refine checkLane_keeps (fun c => ?_) _ _ _
  dsimp only
  repeat' split
  all_goals simp

theorem execBfree_keeps (w : UA) (s : State) : Keeps [] s (execBfree w s) :=
  checkUni_keeps (fun c => by simp [-UCtx.commit_now]) ..

theorem execHpost_keeps (w : UE) (s : State) : Keeps [] s (execHpost w s) :=
  checkUni_keeps (fun c => by simp [-UCtx.commit_now]) ..

theorem execEret_keeps (w : UA) (s : State) : Keeps [] s (execEret w s) := by
  refine checkUni_keeps (fun c => ?_) _ _
  dsimp only
  repeat' split
  all_goals simp

theorem uniEngine_keeps (i : Instr) (w : UE) (s : State) (opcode : Nat) (codes : UCtx → List Nat)
    (extra : UCtx → List (Nat × Nat × Nat)) (plan : UCtx → Option EngPlan) (body : UCtx → EngBody) (cr : Bool) :
    Keeps [] s (uniEngine i w s opcode codes extra plan body cr) := by
  refine checkUni_keeps (fun c => ?_) _ _
  split <;> simp

theorem execUnassignedOpcode_keeps (w : BitVec 32) (s : State) : Keeps [] s (execUnassignedOpcode w s) := by
  unfold execUnassignedOpcode
  split
  · exact checkUni_keeps (fun c => by simp) ..
  · exact checkLane_keeps (fun c => by simp) ..

theorem exec_keeps_lane {i : Instr} {op : Nat} {w : LaneWord} (hp : Parts.of i = some (.lane op w)) (s : State) :
    Keeps [] s (exec i s) := by
  cases i
  case laneOwn w => exact execLaneOwn_keeps w s
  case laneBwt w => exact execLaneBwt_keeps w s
  all_goals first
    | (cases hp; done)
    | (refine checkLane_keeps (fun c => ?_) _ _ _; simp)

/-- No program instruction changes any memory at its issue, nor the cycle. -/
theorem exec_keeps_program {i : Instr} (hp : (Parts.of i).isSome = true) (s : State) : Keeps [] s (exec i s) := by
  cases i
  case bfree w => exact execBfree_keeps w s
  case hpost w => exact execHpost_keeps w s
  case eret w => exact execEret_keeps w s
  case mma w => exact uniEngine_keeps ..
  case xcp w => exact uniEngine_keeps ..
  case lay w => exact uniEngine_keeps ..
  case unassignedOpcode w => exact execUnassignedOpcode_keeps w s
  all_goals first
    | (cases hp; done)
    | exact exec_keeps_lane rfl s
    | (refine checkUni_keeps (fun c => ?_) _ _; simp)

/-! ### The machine's own steps -/

theorem execLaneResult_keeps (s : State) : Keeps [] s (execLaneResult s) := by
  unfold execLaneResult
  (repeat' split) <;> simp

theorem execCoxResult_keeps (s : State) : Keeps [] s (execCoxResult s) := by
  unfold execCoxResult
  repeat' split
  all_goals simp only [keeps_next, keeps_fault]
  all_goals (repeat' split) <;> simp

theorem execScratchStorePerform_keeps (s : State) : Keeps [.scratch] s (execScratchStorePerform s) := by
  unfold execScratchStorePerform
  (repeat' split) <;> simp

theorem execScratchAtomicPerform_keeps (s : State) : Keeps [.scratch] s (execScratchAtomicPerform s) := by
  unfold execScratchAtomicPerform
  (repeat' split) <;> simp

theorem execScratchLoadDelivery_keeps (s : State) : Keeps [] s (execScratchLoadDelivery s) := by
  unfold execScratchLoadDelivery
  (repeat' split) <;> simp

theorem execOwnerFlipOpen_keeps (s : State) : Keeps [] s (execOwnerFlipOpen s) := by
  unfold execOwnerFlipOpen
  (repeat' split) <;> simp

theorem execStackAccess_keeps (s : State) : Keeps [.hbm] s (execStackAccess s) := by
  unfold execStackAccess
  (repeat' split) <;> simp

theorem execGlobalPerform_keeps (s : State) : Keeps [.hbm] s (execGlobalPerform s) := by
  unfold execGlobalPerform
  (repeat' split) <;> simp

theorem execGlobalLoadDelivery_keeps (s : State) : Keeps [] s (execGlobalLoadDelivery s) := by
  unfold execGlobalLoadDelivery
  (repeat' split) <;> simp

theorem execGlobalStoreCompletion_keeps (s : State) : Keeps [] s (execGlobalStoreCompletion s) := by
  unfold execGlobalStoreCompletion
  (repeat' split) <;> simp

theorem execAtomicResult_keeps (s : State) : Keeps [] s (execAtomicResult s) := by
  unfold execAtomicResult
  (repeat' split) <;> simp

theorem execAtomicRepeat_keeps (s : State) : Keeps [.hbm] s (execAtomicRepeat s) := by
  unfold execAtomicRepeat
  repeat' split
  all_goals simp only [keeps_next, keeps_fault]
  all_goals (repeat' split) <;> simp

theorem execSndLanding_keeps (s : State) : Keeps [] s (execSndLanding s) := by
  unfold execSndLanding
  (repeat' split) <;> simp

theorem execLandingNotReceived_keeps (s : State) : Keeps [] s (execLandingNotReceived s) := by
  unfold execLandingNotReceived
  (repeat' split) <;> simp

theorem execCsyncSessionOpen_keeps (s : State) : Keeps [] s (execCsyncSessionOpen s) := by
  unfold execCsyncSessionOpen
  (repeat' split) <;> simp

theorem execSpanEnd_keeps (s : State) : Keeps [] s (execSpanEnd s) := by
  unfold execSpanEnd
  repeat' split
  all_goals simp only [keeps_next, keeps_fault]
  all_goals (repeat' split) <;> simp

theorem execBwtResume_keeps (s : State) : Keeps [] s (execBwtResume s) := by
  unfold execBwtResume
  (repeat' split) <;> simp

theorem execRejoinMerge_keeps (s : State) : Keeps [] s (execRejoinMerge s) := by
  unfold execRejoinMerge
  (repeat' split) <;> simp

theorem execTwaitDeadline_keeps (s : State) : Keeps [] s (execTwaitDeadline s) := by
  unfold execTwaitDeadline
  (repeat' split) <;> simp

theorem execCoxBwtDeadline_keeps (s : State) : Keeps [] s (execCoxBwtDeadline s) := by
  unfold execCoxBwtDeadline
  repeat' split
  all_goals simp only [keeps_next, keeps_fault]
  all_goals (repeat' split) <;> simp

theorem execBarmActionLaunch_keeps (s : State) : Keeps [] s (execBarmActionLaunch s) := by
  unfold execBarmActionLaunch
  (repeat' split) <;> simp

theorem execGraphRelease_keeps (s : State) : Keeps [.hbm, .host] s (execGraphRelease s) := by
  unfold execGraphRelease
  (repeat' split) <;> simp

theorem execMessageAccepted_keeps (s : State) : Keeps [] s (execMessageAccepted s) := by
  unfold execMessageAccepted
  (repeat' split) <;> simp

theorem execLocalSignalApply_keeps (s : State) : Keeps [] s (execLocalSignalApply s) := by
  unfold execLocalSignalApply
  (repeat' split) <;> simp

theorem execHostRingEntryVisible_keeps (s : State) : Keeps [.host] s (execHostRingEntryVisible s) := by
  unfold execHostRingEntryVisible
  (repeat' split) <;> simp

theorem execCoalesceTimer_keeps (s : State) : Keeps [] s (execCoalesceTimer s) := by
  unfold execCoalesceTimer
  (repeat' split) <;> simp

theorem execHostRingCiWrite_keeps (s : State) : Keeps [] s (execHostRingCiWrite s) := by
  unfold execHostRingCiWrite
  (repeat' split) <;> simp

theorem execHostRingEnWrite_keeps (s : State) : Keeps [] s (execHostRingEnWrite s) := by
  unfold execHostRingEnWrite
  (repeat' split) <;> simp

theorem execEngineCommandStart_keeps (s : State) : Keeps [] s (execEngineCommandStart s) := by
  unfold execEngineCommandStart
  (repeat' split) <;> simp

theorem execMatrixRead_keeps (s : State) : Keeps [] s (execMatrixRead s) := by
  unfold execMatrixRead
  repeat' split
  all_goals simp only [keeps_next, keeps_fault]
  all_goals (repeat' split) <;> simp

theorem execMatrixWrite_keeps (s : State) : Keeps [.scratch, .tiles] s (execMatrixWrite s) := by
  unfold execMatrixWrite
  (repeat' split) <;> simp

theorem execCopyBeat_keeps (s : State) : Keeps [] s (execCopyBeat s) := by
  unfold execCopyBeat
  repeat' split
  all_goals simp only [keeps_next, keeps_fault]
  all_goals (repeat' split) <;> simp

theorem execCopyWrite_keeps (s : State) : Keeps [.scratch, .tiles] s (execCopyWrite s) := by
  unfold execCopyWrite
  repeat' split
  all_goals simp only [keeps_next, keeps_fault]
  all_goals (repeat' split) <;> simp

theorem execLayoutBeat_keeps (s : State) : Keeps [] s (execLayoutBeat s) := by
  unfold execLayoutBeat
  repeat' split
  all_goals simp only [keeps_next, keeps_fault]
  all_goals (repeat' split) <;> simp

theorem execLayoutWrite_keeps (s : State) : Keeps [.scratch] s (execLayoutWrite s) := by
  unfold execLayoutWrite
  repeat' split
  all_goals simp only [keeps_next, keeps_fault]
  all_goals (repeat' split) <;> simp

theorem execEngineCompletion_keeps (s : State) : Keeps [] s (execEngineCompletion s) := by
  unfold execEngineCompletion
  (repeat' split) <;> simp

theorem execTloadCompletion_keeps (s : State) : Keeps [] s (execTloadCompletion s) := by
  unfold execTloadCompletion
  (repeat' split) <;> simp

theorem execGsetMemCompletion_keeps (s : State) : Keeps [] s (execGsetMemCompletion s) := by
  unfold execGsetMemCompletion
  (repeat' split) <;> simp

theorem execXferRecordRead_keeps (s : State) : Keeps [] s (execXferRecordRead s) := by
  unfold execXferRecordRead
  repeat' split
  all_goals simp only [keeps_next, keeps_fault]
  all_goals (repeat' split) <;> simp

theorem execCollectiveFold_keeps (s : State) : Keeps [.hbm, .scratch] s (execCollectiveFold s) := by
  unfold execCollectiveFold
  repeat' split
  all_goals simp only [keeps_next, keeps_fault]
  all_goals (repeat' split) <;> simp

theorem execLocalMove_keeps (s : State) : Keeps [] s (execLocalMove s) := by
  unfold execLocalMove
  repeat' split
  all_goals simp only [keeps_next, keeps_fault]
  all_goals (repeat' split) <;> simp

theorem execBf16ImageWrite_keeps (s : State) : Keeps [.hbm, .scratch] s (execBf16ImageWrite s) := by
  unfold execBf16ImageWrite
  repeat' split
  all_goals simp only [keeps_next, keeps_fault]
  all_goals (repeat' split) <;> simp

theorem execXferDone_keeps (s : State) : Keeps [] s (execXferDone s) := by
  unfold execXferDone
  repeat' split
  all_goals simp only [keeps_next, keeps_fault]
  all_goals (repeat' split) <;> simp

theorem execHostBoundCheck_keeps (s : State) : Keeps [.host] s (execHostBoundCheck s) := by
  unfold execHostBoundCheck
  repeat' split
  all_goals simp only [keeps_next, keeps_fault]
  all_goals (repeat' split) <;> simp

theorem execTransmitRead_keeps (s : State) : Keeps [] s (execTransmitRead s) := by
  unfold execTransmitRead
  repeat' split
  all_goals simp only [keeps_next, keeps_fault]
  all_goals (repeat' split) <;> simp

theorem execScheduledFlitSend_keeps (s : State) : Keeps [] s (execScheduledFlitSend s) := by
  unfold execScheduledFlitSend
  repeat' split
  all_goals simp only [keeps_next, keeps_fault]
  all_goals (repeat' split) <;> simp

theorem execFlitRelease_keeps (s : State) : Keeps [] s (execFlitRelease s) := by
  unfold execFlitRelease
  repeat' split
  all_goals simp only [keeps_next, keeps_fault]
  all_goals (repeat' split) <;> simp

theorem execFlitLanding_keeps (s : State) : Keeps [.scratch] s (execFlitLanding s) := by
  unfold execFlitLanding
  (repeat' split) <;> simp

theorem execFrameMarkerSend_keeps (s : State) : Keeps [] s (execFrameMarkerSend s) := by
  unfold execFrameMarkerSend
  (repeat' split) <;> simp

theorem execFrameMarkerArrival_keeps (s : State) : Keeps [] s (execFrameMarkerArrival s) := by
  unfold execFrameMarkerArrival
  (repeat' split) <;> simp

theorem execFrameMarkerMiss_keeps (s : State) : Keeps [] s (execFrameMarkerMiss s) := by
  unfold execFrameMarkerMiss
  (repeat' split) <;> simp

theorem execUnscheduledSend_keeps (s : State) : Keeps [] s (execUnscheduledSend s) := by
  unfold execUnscheduledSend
  repeat' split
  all_goals simp only [keeps_next, keeps_fault]
  all_goals (repeat' split) <;> simp

theorem execMessageRelease_keeps (s : State) : Keeps [] s (execMessageRelease s) := by
  unfold execMessageRelease
  (repeat' split) <;> simp

theorem execLaunchMessage_keeps (s : State) : Keeps [] s (execLaunchMessage s) := by
  unfold execLaunchMessage
  repeat' split
  all_goals simp only [keeps_next, keeps_fault]
  all_goals (repeat' split) <;> simp

theorem execSignalMessage_keeps (s : State) : Keeps [] s (execSignalMessage s) := by
  unfold execSignalMessage
  repeat' split
  all_goals simp only [keeps_next, keeps_fault]
  all_goals (repeat' split) <;> simp

theorem execBulkMessage_keeps (s : State) : Keeps [.hbm] s (execBulkMessage s) := by
  unfold execBulkMessage
  repeat' split
  all_goals simp only [keeps_next, keeps_fault]
  all_goals (repeat' split) <;> simp

theorem execAcknowledgement_keeps (s : State) : Keeps [] s (execAcknowledgement s) := by
  unfold execAcknowledgement
  (repeat' split) <;> simp

theorem execNegativeAcknowledgement_keeps (s : State) : Keeps [] s (execNegativeAcknowledgement s) := by
  unfold execNegativeAcknowledgement
  (repeat' split) <;> simp

theorem execMessageRetransmit_keeps (s : State) : Keeps [] s (execMessageRetransmit s) := by
  unfold execMessageRetransmit
  (repeat' split) <;> simp

theorem execSync_keeps (s : State) : Keeps [] s (execSync s) := by
  unfold execSync
  (repeat' split) <;> simp

theorem execPdelayReq_keeps (s : State) : Keeps [] s (execPdelayReq s) := by
  unfold execPdelayReq
  (repeat' split) <;> simp

theorem execPdelayResp_keeps (s : State) : Keeps [] s (execPdelayResp s) := by
  unfold execPdelayResp
  (repeat' split) <;> simp

theorem execAnnounce_keeps (s : State) : Keeps [] s (execAnnounce s) := by
  unfold execAnnounce
  (repeat' split) <;> simp

theorem execHalt_keeps (s : State) : Keeps [] s (execHalt s) := by
  unfold execHalt
  (repeat' split) <;> simp

theorem execHalted_keeps (s : State) : Keeps [] s (execHalted s) := by
  unfold execHalted
  (repeat' split) <;> simp

theorem execResume_keeps (s : State) : Keeps [.hbm, .host] s (execResume s) := by
  unfold execResume
  (repeat' split) <;> simp

theorem execResumed_keeps (s : State) : Keeps [] s (execResumed s) := by
  unfold execResumed
  (repeat' split) <;> simp

theorem execExclude_keeps (s : State) : Keeps [] s (execExclude s) := by
  unfold execExclude
  (repeat' split) <;> simp

theorem execRegattaHalt_keeps (s : State) : Keeps [] s (execRegattaHalt s) := by
  unfold execRegattaHalt
  (repeat' split) <;> simp

theorem execHaltedTimeout_keeps (s : State) : Keeps [] s (execHaltedTimeout s) := by
  unfold execHaltedTimeout
  (repeat' split) <;> simp

theorem execLinkTrained_keeps (s : State) : Keeps [] s (execLinkTrained s) := by
  unfold execLinkTrained
  (repeat' split) <;> simp

theorem execLinkTrainingLost_keeps (s : State) : Keeps [] s (execLinkTrainingLost s) := by
  unfold execLinkTrainingLost
  repeat' split
  all_goals simp only [keeps_next, keeps_fault]
  all_goals (repeat' split) <;> simp

theorem execPtpLockLost_keeps (s : State) : Keeps [] s (execPtpLockLost s) := by
  unfold execPtpLockLost
  (repeat' split) <;> simp

theorem execFrequencyTrim_keeps (s : State) : Keeps [] s (execFrequencyTrim s) := by
  unfold execFrequencyTrim
  (repeat' split) <;> simp

theorem execRefresh_keeps (s : State) : Keeps [] s (execRefresh s) := by
  unfold execRefresh
  (repeat' split) <;> simp

theorem execBankSwitchArm_keeps (s : State) : Keeps [] s (execBankSwitchArm s) := by
  unfold execBankSwitchArm
  (repeat' split) <;> simp

theorem execBankSwitchCancel_keeps (s : State) : Keeps [] s (execBankSwitchCancel s) := by
  unfold execBankSwitchCancel
  repeat' split
  all_goals simp only [keeps_next, keeps_fault]
  all_goals (repeat' split) <;> simp

theorem execBankSwitchTx_keeps (s : State) : Keeps [] s (execBankSwitchTx s) := by
  unfold execBankSwitchTx
  (repeat' split) <;> simp

theorem execBankSwitchRx_keeps (s : State) : Keeps [] s (execBankSwitchRx s) := by
  unfold execBankSwitchRx
  (repeat' split) <;> simp

theorem execGovernorStep_keeps (s : State) : Keeps [] s (execGovernorStep s) := by
  unfold execGovernorStep
  (repeat' split) <;> simp

theorem execThermalBudgetStep_keeps (s : State) : Keeps [] s (execThermalBudgetStep s) := by
  unfold execThermalBudgetStep
  (repeat' split) <;> simp

theorem execQueuePiWrite_keeps (s : State) : Keeps [] s (execQueuePiWrite s) := by
  unfold execQueuePiWrite
  repeat' split
  all_goals simp only [keeps_next, keeps_fault]
  all_goals (repeat' split) <;> simp

theorem execQueueEnWrite_keeps (s : State) : Keeps [] s (execQueueEnWrite s) := by
  unfold execQueueEnWrite
  (repeat' split) <;> simp

theorem execPrefetch_keeps (s : State) : Keeps [] s (execPrefetch s) := by
  unfold execPrefetch
  repeat' split
  all_goals simp only [keeps_next, keeps_fault]
  all_goals (repeat' split) <;> simp

theorem execCommandNop_keeps (s : State) : Keeps [.hbm, .host] s (execCommandNop s) := by
  unfold execCommandNop
  (repeat' split) <;> simp

theorem execCommandHeat_keeps (s : State) : Keeps [.hbm, .host] s (execCommandHeat s) := by
  unfold execCommandHeat
  (repeat' split) <;> simp

theorem execCommandGraph_keeps (s : State) : Keeps [.hbm, .host] s (execCommandGraph s) := by
  unfold execCommandGraph
  (repeat' split) <;> simp

theorem execCommandIndirect_keeps (s : State) : Keeps [.hbm, .host] s (execCommandIndirect s) := by
  unfold execCommandIndirect
  repeat' split
  all_goals simp only [keeps_next, keeps_fault]
  all_goals (repeat' split) <;> simp

theorem execArbiterStep_keeps (s : State) : Keeps [.hbm, .host, .scratch, .tiles] s (execArbiterStep s) := by
  unfold execArbiterStep
  (repeat' split) <;> simp

theorem execHeatStart_keeps (s : State) : Keeps [] s (execHeatStart s) := by
  unfold execHeatStart
  (repeat' split) <;> simp

theorem execArmedTimeout_keeps (s : State) : Keeps [] s (execArmedTimeout s) := by
  unfold execArmedTimeout
  repeat' split
  all_goals simp only [keeps_next, keeps_fault]
  all_goals (repeat' split) <;> simp

theorem execEndCheck_keeps (s : State) : Keeps [] s (execEndCheck s) := by
  unfold execEndCheck
  (repeat' split) <;> simp

theorem execHeatCompletion_keeps (s : State) : Keeps [.hbm, .host] s (execHeatCompletion s) := by
  unfold execHeatCompletion
  repeat' split
  all_goals simp only [keeps_next, keeps_fault]
  all_goals (repeat' split) <;> simp

theorem execCopyNode_keeps (s : State) : Keeps [.hbm, .host] s (execCopyNode s) := by
  unfold execCopyNode
  repeat' split
  all_goals simp only [keeps_next, keeps_fault]
  all_goals (repeat' split) <;> simp

theorem execCopyNodeCompletion_keeps (s : State) : Keeps [.hbm, .host] s (execCopyNodeCompletion s) := by
  unfold execCopyNodeCompletion
  (repeat' split) <;> simp

theorem execConditionalNode_keeps (s : State) : Keeps [.hbm, .host] s (execConditionalNode s) := by
  unfold execConditionalNode
  repeat' split
  all_goals simp only [keeps_next, keeps_fault]
  all_goals (repeat' split) <;> simp

theorem execGraphEnd_keeps (s : State) : Keeps [.hbm, .host] s (execGraphEnd s) := by
  unfold execGraphEnd
  (repeat' split) <;> simp

theorem execPreemptEstimate_keeps (s : State) : Keeps [] s (execPreemptEstimate s) := by
  unfold execPreemptEstimate
  (repeat' split) <;> simp

theorem execPreemptSave_keeps (s : State) : Keeps [] s (execPreemptSave s) := by
  unfold execPreemptSave
  (repeat' split) <;> simp

theorem execPreemptDrain_keeps (s : State) : Keeps [] s (execPreemptDrain s) := by
  unfold execPreemptDrain
  (repeat' split) <;> simp

theorem execPreemptionHalt_keeps (s : State) : Keeps [] s (execPreemptionHalt s) := by
  unfold execPreemptionHalt
  (repeat' split) <;> simp

theorem execFaultHalt_keeps (s : State) : Keeps [] s (execFaultHalt s) := by
  unfold execFaultHalt
  (repeat' split) <;> simp

theorem execQuiesce_keeps (s : State) : Keeps [.hbm] s (execQuiesce s) := by
  unfold execQuiesce
  repeat' split
  all_goals simp only [keeps_next, keeps_fault]
  all_goals (repeat' split) <;> simp

theorem execSaveComplete_keeps (s : State) : Keeps [.hbm, .host] s (execSaveComplete s) := by
  unfold execSaveComplete
  repeat' split
  all_goals simp only [keeps_next, keeps_fault]
  all_goals (repeat' split) <;> simp

theorem execHandlerEntry_keeps (s : State) : Keeps [] s (execHandlerEntry s) := by
  unfold execHandlerEntry
  (repeat' split) <;> simp

theorem execHandlerTimeout_keeps (s : State) : Keeps [] s (execHandlerTimeout s) := by
  unfold execHandlerTimeout
  (repeat' split) <;> simp

theorem execRestore_keeps (s : State) : Keeps [.hbm, .host, .scratch, .tiles] s (execRestore s) := by
  unfold execRestore
  (repeat' split) <;> simp

theorem execAgentResume_keeps (s : State) : Keeps [] s (execAgentResume s) := by
  unfold execAgentResume
  repeat' split
  all_goals simp only [keeps_next, keeps_fault]
  all_goals (repeat' split) <;> simp

theorem execRevoke_keeps (s : State) : Keeps [] s (execRevoke s) := by
  unfold execRevoke
  (repeat' split) <;> simp

theorem execRevocation_keeps (s : State) : Keeps [] s (execRevocation s) := by
  unfold execRevocation
  (repeat' split) <;> simp

theorem execPolicySet_keeps (s : State) : Keeps [] s (execPolicySet s) := by
  unfold execPolicySet
  (repeat' split) <;> simp

theorem execAttestation_keeps (s : State) : Keeps [] s (execAttestation s) := by
  unfold execAttestation
  repeat' split
  all_goals simp only [keeps_next, keeps_fault]
  all_goals (repeat' split) <;> simp

theorem execCommandLinkMessage_keeps (s : State) : Keeps [] s (execCommandLinkMessage s) := by
  unfold execCommandLinkMessage
  repeat' split
  all_goals simp only [keeps_next, keeps_fault]
  all_goals (repeat' split) <;> simp

theorem execPowerOnReset_keeps (s : State) : Keeps [] s (execPowerOnReset s) := by
  unfold execPowerOnReset
  (repeat' split) <;> simp

theorem execFirmwareVerify_keeps (s : State) : Keeps [] s (execFirmwareVerify s) := by
  unfold execFirmwareVerify
  (repeat' split) <;> simp

theorem execFunctionLevelReset_keeps (s : State) : Keeps [] s (execFunctionLevelReset s) := by
  unfold execFunctionLevelReset
  (repeat' split) <;> simp

theorem execHostMemoryAccess_keeps (s : State) : Keeps [.hbm] s (execHostMemoryAccess s) := by
  unfold execHostMemoryAccess
  repeat' split
  all_goals simp only [keeps_next, keeps_fault]
  all_goals (repeat' split) <;> simp

theorem execCounterLatch_keeps (s : State) : Keeps [] s (execCounterLatch s) := by
  unfold execCounterLatch
  (repeat' split) <;> simp

theorem execDieOvertemp_keeps (s : State) : Keeps [.hbm] s (execDieOvertemp s) := by
  unfold execDieOvertemp
  (repeat' split) <;> simp

theorem execDieBridgeError_keeps (s : State) : Keeps [.hbm] s (execDieBridgeError s) := by
  unfold execDieBridgeError
  (repeat' split) <;> simp

theorem execFirmwareWatchdog_keeps (s : State) : Keeps [.hbm] s (execFirmwareWatchdog s) := by
  unfold execFirmwareWatchdog
  (repeat' split) <;> simp

theorem execMachineCheck_keeps (s : State) : Keeps [.hbm] s (execMachineCheck s) := by
  unfold execMachineCheck
  (repeat' split) <;> simp

theorem execRegisterWrite_keeps (s : State) : Keeps [] s (execRegisterWrite s) := by
  unfold execRegisterWrite
  (repeat' split) <;> simp

theorem execPreemptionRequestUnassigned_keeps (s : State) : Keeps [] s (execPreemptionRequestUnassigned s) := by
  unfold execPreemptionRequestUnassigned
  (repeat' split) <;> simp

theorem execScrub_keeps (s : State) : Keeps [] s (execScrub s) := by
  unfold execScrub
  (repeat' split) <;> simp

theorem execHostLinkLost_keeps (s : State) : Keeps [] s (execHostLinkLost s) := by
  unfold execHostLinkLost
  (repeat' split) <;> simp

theorem execBoundaryScan_keeps (s : State) : Keeps [] s (execBoundaryScan s) := by
  unfold execBoundaryScan
  (repeat' split) <;> simp

theorem execFaultLogLocation_keeps (s : State) : Keeps [] s (execFaultLogLocation s) := by
  unfold execFaultLogLocation
  (repeat' split) <;> simp

theorem execDumpArea_keeps (s : State) : Keeps [] s (execDumpArea s) := by
  unfold execDumpArea
  (repeat' split) <;> simp

theorem execPdelayReqSend_keeps (s : State) : Keeps [] s (execPdelayReqSend s) := by
  unfold execPdelayReqSend
  (repeat' split) <;> simp

theorem execAnnounceSend_keeps (s : State) : Keeps [] s (execAnnounceSend s) := by
  unfold execAnnounceSend
  repeat' split
  all_goals simp only [keeps_next, keeps_fault]
  all_goals (repeat' split) <;> simp

theorem execLayoutGenerationChange_keeps (s : State) : Keeps [] s (execLayoutGenerationChange s) := by
  unfold execLayoutGenerationChange
  (repeat' split) <;> simp

theorem execCheckpointMove_keeps (s : State) : Keeps [] s (execCheckpointMove s) := by
  unfold execCheckpointMove
  repeat' split
  all_goals simp only [keeps_next, keeps_fault]
  all_goals (repeat' split) <;> simp

/-- No step of the machine changes a memory that it may not write, nor, but for the load of the pod counter, the cycle. -/
theorem exec_keeps_machine {i : Instr} (hp : Parts.of i = none) (h : i ≠ .podCounterLoad) (s : State) :
    Keeps (mayWrite i) s (exec i s) := by
  cases i
  case podCounterLoad => exact absurd rfl h
  case laneResult => exact execLaneResult_keeps s
  case coxResult => exact execCoxResult_keeps s
  case scratchStorePerform => exact execScratchStorePerform_keeps s
  case scratchAtomicPerform => exact execScratchAtomicPerform_keeps s
  case scratchLoadDelivery => exact execScratchLoadDelivery_keeps s
  case ownerFlipOpen => exact execOwnerFlipOpen_keeps s
  case stackAccess => exact execStackAccess_keeps s
  case globalPerform => exact execGlobalPerform_keeps s
  case globalLoadDelivery => exact execGlobalLoadDelivery_keeps s
  case globalStoreCompletion => exact execGlobalStoreCompletion_keeps s
  case atomicResult => exact execAtomicResult_keeps s
  case atomicRepeat => exact execAtomicRepeat_keeps s
  case sndLanding => exact execSndLanding_keeps s
  case landingNotReceived => exact execLandingNotReceived_keeps s
  case csyncSessionOpen => exact execCsyncSessionOpen_keeps s
  case spanEnd => exact execSpanEnd_keeps s
  case bwtResume => exact execBwtResume_keeps s
  case rejoinMerge => exact execRejoinMerge_keeps s
  case twaitDeadline => exact execTwaitDeadline_keeps s
  case coxBwtDeadline => exact execCoxBwtDeadline_keeps s
  case barmActionLaunch => exact execBarmActionLaunch_keeps s
  case graphRelease => exact execGraphRelease_keeps s
  case messageAccepted => exact execMessageAccepted_keeps s
  case localSignalApply => exact execLocalSignalApply_keeps s
  case hostRingEntryVisible => exact execHostRingEntryVisible_keeps s
  case coalesceTimer => exact execCoalesceTimer_keeps s
  case hostRingCiWrite => exact execHostRingCiWrite_keeps s
  case hostRingEnWrite => exact execHostRingEnWrite_keeps s
  case engineCommandStart => exact execEngineCommandStart_keeps s
  case matrixRead => exact execMatrixRead_keeps s
  case matrixWrite => exact execMatrixWrite_keeps s
  case copyBeat => exact execCopyBeat_keeps s
  case copyWrite => exact execCopyWrite_keeps s
  case layoutBeat => exact execLayoutBeat_keeps s
  case layoutWrite => exact execLayoutWrite_keeps s
  case engineCompletion => exact execEngineCompletion_keeps s
  case tloadCompletion => exact execTloadCompletion_keeps s
  case gsetMemCompletion => exact execGsetMemCompletion_keeps s
  case xferRecordRead => exact execXferRecordRead_keeps s
  case collectiveFold => exact execCollectiveFold_keeps s
  case localMove => exact execLocalMove_keeps s
  case bf16ImageWrite => exact execBf16ImageWrite_keeps s
  case xferDone => exact execXferDone_keeps s
  case hostBoundCheck => exact execHostBoundCheck_keeps s
  case transmitRead => exact execTransmitRead_keeps s
  case scheduledFlitSend => exact execScheduledFlitSend_keeps s
  case flitRelease => exact execFlitRelease_keeps s
  case flitLanding => exact execFlitLanding_keeps s
  case frameMarkerSend => exact execFrameMarkerSend_keeps s
  case frameMarkerArrival => exact execFrameMarkerArrival_keeps s
  case frameMarkerMiss => exact execFrameMarkerMiss_keeps s
  case unscheduledSend => exact execUnscheduledSend_keeps s
  case messageRelease => exact execMessageRelease_keeps s
  case launchMessage => exact execLaunchMessage_keeps s
  case signalMessage => exact execSignalMessage_keeps s
  case bulkMessage => exact execBulkMessage_keeps s
  case acknowledgement => exact execAcknowledgement_keeps s
  case negativeAcknowledgement => exact execNegativeAcknowledgement_keeps s
  case messageRetransmit => exact execMessageRetransmit_keeps s
  case sync => exact execSync_keeps s
  case pdelayReq => exact execPdelayReq_keeps s
  case pdelayResp => exact execPdelayResp_keeps s
  case announce => exact execAnnounce_keeps s
  case halt => exact execHalt_keeps s
  case halted => exact execHalted_keeps s
  case resume => exact execResume_keeps s
  case resumed => exact execResumed_keeps s
  case exclude => exact execExclude_keeps s
  case regattaHalt => exact execRegattaHalt_keeps s
  case haltedTimeout => exact execHaltedTimeout_keeps s
  case linkTrained => exact execLinkTrained_keeps s
  case linkTrainingLost => exact execLinkTrainingLost_keeps s
  case ptpLockLost => exact execPtpLockLost_keeps s
  case frequencyTrim => exact execFrequencyTrim_keeps s
  case refresh => exact execRefresh_keeps s
  case bankSwitchArm => exact execBankSwitchArm_keeps s
  case bankSwitchCancel => exact execBankSwitchCancel_keeps s
  case bankSwitchTx => exact execBankSwitchTx_keeps s
  case bankSwitchRx => exact execBankSwitchRx_keeps s
  case governorStep => exact execGovernorStep_keeps s
  case thermalBudgetStep => exact execThermalBudgetStep_keeps s
  case queuePiWrite => exact execQueuePiWrite_keeps s
  case queueEnWrite => exact execQueueEnWrite_keeps s
  case prefetch => exact execPrefetch_keeps s
  case commandNop => exact execCommandNop_keeps s
  case commandHeat => exact execCommandHeat_keeps s
  case commandGraph => exact execCommandGraph_keeps s
  case commandIndirect => exact execCommandIndirect_keeps s
  case arbiterStep => exact execArbiterStep_keeps s
  case heatStart => exact execHeatStart_keeps s
  case armedTimeout => exact execArmedTimeout_keeps s
  case endCheck => exact execEndCheck_keeps s
  case heatCompletion => exact execHeatCompletion_keeps s
  case copyNode => exact execCopyNode_keeps s
  case copyNodeCompletion => exact execCopyNodeCompletion_keeps s
  case conditionalNode => exact execConditionalNode_keeps s
  case graphEnd => exact execGraphEnd_keeps s
  case preemptEstimate => exact execPreemptEstimate_keeps s
  case preemptSave => exact execPreemptSave_keeps s
  case preemptDrain => exact execPreemptDrain_keeps s
  case preemptionHalt => exact execPreemptionHalt_keeps s
  case faultHalt => exact execFaultHalt_keeps s
  case quiesce => exact execQuiesce_keeps s
  case saveComplete => exact execSaveComplete_keeps s
  case handlerEntry => exact execHandlerEntry_keeps s
  case handlerTimeout => exact execHandlerTimeout_keeps s
  case restore => exact execRestore_keeps s
  case agentResume => exact execAgentResume_keeps s
  case revoke => exact execRevoke_keeps s
  case revocation => exact execRevocation_keeps s
  case policySet => exact execPolicySet_keeps s
  case attestation => exact execAttestation_keeps s
  case commandLinkMessage => exact execCommandLinkMessage_keeps s
  case powerOnReset => exact execPowerOnReset_keeps s
  case firmwareVerify => exact execFirmwareVerify_keeps s
  case functionLevelReset => exact execFunctionLevelReset_keeps s
  case hostMemoryAccess => exact execHostMemoryAccess_keeps s
  case counterLatch => exact execCounterLatch_keeps s
  case dieOvertemp => exact execDieOvertemp_keeps s
  case dieBridgeError => exact execDieBridgeError_keeps s
  case firmwareWatchdog => exact execFirmwareWatchdog_keeps s
  case machineCheck => exact execMachineCheck_keeps s
  case registerWrite => exact execRegisterWrite_keeps s
  case preemptionRequestUnassigned => exact execPreemptionRequestUnassigned_keeps s
  case scrub => exact execScrub_keeps s
  case hostLinkLost => exact execHostLinkLost_keeps s
  case boundaryScan => exact execBoundaryScan_keeps s
  case faultLogLocation => exact execFaultLogLocation_keeps s
  case dumpArea => exact execDumpArea_keeps s
  case pdelayReqSend => exact execPdelayReqSend_keeps s
  case announceSend => exact execAnnounceSend_keeps s
  case layoutGenerationChange => exact execLayoutGenerationChange_keeps s
  case checkpointMove => exact execCheckpointMove_keeps s
  all_goals cases hp

theorem kept_mono {ps qs : List Space} (h : ∀ p ∈ ps, p ∈ qs) {s t : State} (e : t.kept ps = s.kept ps) : t.kept qs = s.kept qs := by
  have cut (p : Space) {α : Type} {a b : Store α} (e : Space.cut ps p a = Space.cut ps p b) : Space.cut qs p a = Space.cut qs p b := by
    unfold Space.cut at *
    by_cases hq : p ∈ qs
    · rw [if_pos hq, if_pos hq]
    · rw [if_neg fun hp => hq (h p hp), if_neg fun hp => hq (h p hp)] at e
      rw [if_neg hq, if_neg hq, e]
  simp only [State.kept, Prod.mk.injEq] at e ⊢
  obtain ⟨h1, h2, h3, h4, h5, h6⟩ := e
  exact ⟨h1, h2, cut _ h3, cut _ h4, cut _ h5, cut _ h6⟩

/-- THE FRAME OF EVERY INSTRUCTION but the load of the pod counter. -/
theorem exec_keeps {i : Instr} (h : i ≠ .podCounterLoad) (s : State) : Keeps (mayWrite i) s (exec i s) := by
  cases hp : Parts.of i with
  | none => exact exec_keeps_machine hp h s
  | some p =>
    have hk := exec_keeps_program (i := i) (by rw [hp]; rfl) s
    cases e : exec i s with
    | next t => rw [e] at hk; exact kept_mono (by simp) hk
    | fault r => trivial
    | refused r => trivial

/-! ## The clock -/

theorem State.settled_now (s : State) : s.settled.now = s.now := by
  unfold State.settled
  split
  · exact congrArg Prod.fst (State.settle_kept [] s)
  · rfl

theorem State.fetch_now {s : State} {who : Issuer} {i : Instr} {u : State} (h : s.fetch who = some (i, u)) : u.now = s.now := by
  unfold State.fetch at h
  repeat' split at h
  all_goals first | (cases h; done) | (cases h; rfl)

/-- What comes next lies in no earlier cycle. -/
theorem State.takeNext_now {s : State} {i : Instr} {u : State} (h : s.takeNext = some (i, u)) : s.now ≤ u.now := by
  have due {d : Due} {rest : List Due} (h : s.takeDue d rest = some (i, u)) : s.now ≤ u.now := by
    obtain ⟨j, -, e⟩ := Option.map_eq_some_iff.1 h
    cases e
    exact Nat.le_max_left ..
  have slot {x : Slot} (hx : firstSlot s.slots = some x) (h : s.takeSlot x = some (i, u)) : s.now ≤ u.now := by
    rw [State.fetch_now h]
    exact (State.mem_slots (firstSlot_mem hx)).1
  unfold State.takeNext at h
  repeat' split at h
  · cases h
  · exact due h
  · exact slot (by assumption) h
  · exact due h
  · exact slot (by assumption) h

theorem State.upNext_now {s : State} {i : Instr} {u : State} (h : s.upNext = some (i, u)) : s.now ≤ u.now := by
  cases hc : s.clockOff with
  | true => simp [State.upNext, hc] at h
  | false =>
    rw [State.upNext_eq hc] at h
    exact (State.settled_now s).symm.trans_le (State.takeNext_now h)

end Sys2Proof.Machine
open Sys2Proof Sys2Proof.Machine

/-- Settles O14: what comes next lies in no earlier cycle, and no instruction but the load changes the cycle. -/
theorem timeNeverGoesBack : Obligations.TimeNeverGoesBack := by
  unfold Obligations.TimeNeverGoesBack
  intro s t u i hs hu hi
  have ht : exec i u = .next t := by rwa [step, hu] at hs
  have hk := exec_keeps hi u
  rw [ht] at hk
  exact (State.upNext_now hu).trans_eq (congrArg Prod.fst hk).symm
end

section
/-! PROOFS. The groups and spans of a gang: O34. -/
namespace Sys2Proof.Machine

/-! ### The gang after its instruction's commit -/

theorem Gang.setFlag_groups (g : Gang) (f : Option Nat) (n : Nat) : (g.setFlag f n).groups = g.groups := by
  cases f <;> rfl

theorem Gang.setFlag_spans (g : Gang) (f : Option Nat) (n : Nat) : (g.setFlag f n).spans = g.spans := by
  cases f <;> rfl

/-- The commit moves the issuing group on and keeps the gang's spans. -/
theorem LCtx.commit_gang? {s : State} {c : LCtx} (hc : laneCtx s = some c) (i : Instr) (w : LaneWord) (L : Nat) :
    ∃ g, (c.commit s i w L).gang? c.ref = some g ∧ g.spans = c.gang.spans ∧
      g.groups = (c.gang.modGroup c.quads fun x => x.advance c.clause i c.t w.hold.toNat (c.base + c.t + L)).groups := by
  have hs : ∀ u : State, u.heats = s.heats → u.gang? c.ref = some c.gang := fun u hu =>
    (show u.gang? c.ref = s.gang? c.ref by simp only [State.gang?, State.team?, State.heat?, hu]).trans (laneCtx_gang hc)
  unfold LCtx.commit
  dsimp only
  rw [State.gang?_modGang, if_pos rfl, hs, Option.map_some]
  · refine ⟨_, rfl, ?_, ?_⟩ <;> split <;>
      simp only [Gang.modGroup, Gang.setLatch, Gang.setFlag_groups, Gang.setFlag_spans]
  · simp only [State.corrected_heats, State.tick_heats]
    split <;> rfl

/-- The issuing group is one of its gang's. -/
theorem laneCtx_group {s : State} {c : LCtx} (h : laneCtx s = some c) :
    c.gang.groups.find? (fun x => x.quads == c.quads) = some c.group := by
  unfold laneCtx at h
  repeat' split at h
  all_goals simp_all
  all_goals (obtain rfl := h; simp_all)

theorem laneCtx_quads {s : State} {c : LCtx} (h : laneCtx s = some c) : c.group.quads = c.quads := by
  simpa using List.find?_some (laneCtx_group h)

@[simp] theorem Group.advance_quads (x : Group) (cl : Clause) (i : Instr) (t h d : Nat) : (x.advance cl i t h d).quads = x.quads := by
  unfold Group.advance
  split <;> rfl

@[simp] theorem Group.advance_stack (x : Group) (cl : Clause) (i : Instr) (t h d : Nat) : (x.advance cl i t h d).stack = x.stack := by
  unfold Group.advance
  split <;> rfl

@[simp] theorem Group.advance_stopped (x : Group) (cl : Clause) (i : Instr) (t h d : Nat) :
    (x.advance cl i t h d).stopped = x.stopped := by
  unfold Group.advance
  split <;> rfl

theorem State.group?_of_gang {s : State} {r : GangRef} {g : Gang} (h : s.gang? r = some g) (q : BitVec 8) :
    s.group? r q = g.groups.find? fun x => x.quads == q := by
  rw [State.group?, h, Option.bind_some]

theorem State.group?_push (s : State) (a b : Nat) (e : Ev) (r : GangRef) (q : BitVec 8) :
    (s.push a b e).group? r q = s.group? r q := rfl

/-- What the issuing group is after the commit of an instruction of no latency. -/
theorem LCtx.commit_group? {s : State} {c : LCtx} (hc : laneCtx s = some c) (i : Instr) (w : LaneWord) :
    (c.commit s i w 0).group? c.ref c.quads = some (c.followed i w) := by
  obtain ⟨g, hg, -, hgs⟩ := LCtx.commit_gang? hc i w 0
  rw [State.group?_of_gang hg, hgs]
  exact Group.find_modGroup _ (fun _ => Group.advance_quads ..) (laneCtx_group hc)

/-- A change of the issuing group that keeps its quads is what the group is afterwards. -/
theorem LCtx.modGroup_group? {s : State} {c : LCtx} {x : Group} (f : Group → Group) (hf : ∀ x, (f x).quads = x.quads)
    (h : s.group? c.ref c.quads = some x) : (c.modGroup s f).group? c.ref c.quads = some (f x) := by
  unfold State.group? at h ⊢
  obtain ⟨g, hg, hx⟩ := Option.bind_eq_some_iff.1 h
  rw [LCtx.modGroup, State.gang?_modGang, if_pos rfl, hg, Option.map_some, Option.bind_some]
  exact Group.find_modGroup f hf hx

@[simp] theorem LCtx.modGroup_now (c : LCtx) (s : State) (f : Group → Group) : (c.modGroup s f).now = s.now :=
  congrArg (·.1) (LCtx.modGroup_kept [] c s f)

/-! ### The last group to come -/

/-- A fold that keeps the first least element finds a member whose key is least. -/
theorem foldl_least {α : Type} (key : α → Nat) (f : Option α → α → Option α)
    (hf : ∀ x y, f (some x) y = if key y < key x then some y else some x) (l : List α) :
    ∀ a, ∃ x, l.foldl f (some a) = some x ∧ x ∈ a :: l ∧ ∀ y ∈ a :: l, key x ≤ key y := by
  induction l with
  | nil => exact fun a => ⟨a, rfl, by simp, by simp⟩
  | cons b r ih =>
    intro a
    rw [List.foldl_cons, hf]
    split
    · obtain ⟨x, hx, hm, hl⟩ := ih b
      refine ⟨x, hx, by simp [List.mem_cons.1 hm], fun y hy => ?_⟩
      have := hl b (by simp)
      obtain rfl | hy := List.mem_cons.1 hy
      · omega
      · exact hl y hy
    · obtain ⟨x, hx, hm, hl⟩ := ih a
      refine ⟨x, hx, ?_, fun y hy => ?_⟩
      · obtain h | h := List.mem_cons.1 hm <;> simp [h]
      · have := hl a (by simp)
        obtain rfl | hy := List.mem_cons.1 hy
        · omega
        obtain rfl | hy := List.mem_cons.1 hy
        · omega
        · exact hl y (by simp [hy])

theorem lowestBit_spec {n : Nat} {w : BitVec n} {i : Nat} (h : lowestBit w = some i) :
    w.getLsbD i = true ∧ ∀ j < i, w.getLsbD j = false := by
  unfold lowestBit at h
  rw [List.find?_range_eq_some] at h
  exact ⟨h.1, fun j hj => by simpa using h.2.2 j hj⟩

theorem lowestBit_le {n : Nat} {w : BitVec n} {i d : Nat} (h : w.getLsbD i = true) : (lowestBit w).getD d ≤ i := by
  cases e : lowestBit w with
  | none =>
    unfold lowestBit at e
    rw [List.find?_eq_none] at e
    exact absurd h (e i (List.mem_range.2 (BitVec.lt_of_getLsbD h)))
  | some j =>
    by_contra hj
    have := (lowestBit_spec e).2 i (by simpa using hj)
    simp [h] at this

theorem lowestBit_of_getD {w : BitVec 8} {i : Nat} (h : (lowestBit w).getD 8 = i) (hi : i < 8) : w.getLsbD i = true := by
  cases e : lowestBit w with
  | none => rw [e] at h; exact absurd h (by simp; omega)
  | some j => rw [e] at h; obtain rfl : j = i := h; exact (lowestBit_spec e).1

/-- The present quads are those of the gang's groups. -/
theorem Gang.present_getLsbD (g : Gang) (i : Nat) : g.present.getLsbD i = g.groups.any fun x => x.quads.getLsbD i := by
  have h : ∀ (l : List Group) (q : BitVec 8), (l.foldl (fun q x => q ||| x.quads) q).getLsbD i =
      (q.getLsbD i || l.any fun x => x.quads.getLsbD i) := by
    intro l
    induction l with
    | nil => simp
    | cons x r ih => intro q; simp [ih, Bool.or_assoc]
  simpa [Gang.present] using h g.groups 0

theorem Gang.present_congr {g g' : Gang} (h : g.groups.map (·.quads) = g'.groups.map (·.quads)) : g.present = g'.present := by
  have e : ∀ x : Gang, x.present = (x.groups.map (·.quads)).foldl (· ||| ·) 0 := fun x => (List.foldl_map ..).symm
  rw [e, e, h]

theorem map_quads_modGroup (g : Gang) (q : BitVec 8) (f : Group → Group) (hf : ∀ x, (f x).quads = x.quads) :
    (g.modGroup q f).groups.map (·.quads) = g.groups.map (·.quads) := by
  simp only [Gang.modGroup, List.map_map]
  refine List.map_congr_left fun x _ => ?_
  simp only [Function.comp]
  split <;> simp [hf]

theorem leastSet_fold_none (l : List Group) (h : ∀ x ∈ l, x.stopped = none) :
    l.foldl (fun m x => leastSet m x.stopped) none = none := by
  induction l with
  | nil => rfl
  | cons x r ih => rw [List.foldl_cons, h x (by simp)]; exact ih fun y hy => h y (by simp [hy])

theorem Group.atSpe_iff (g : Group) : g.atSpe = true ↔ ∃ n, g.wait = .spe n := by
  unfold Group.atSpe
  split
  · rename_i n h; exact ⟨fun _ => ⟨n, h⟩, fun _ => rfl⟩
  · rename_i h; exact ⟨fun hf => absurd hf (by simp), fun ⟨n, hn⟩ => absurd hn (h n)⟩

theorem LCtx.lastSpe_iff (c : LCtx) : c.lastSpe = true ↔ ∀ g ∈ c.gang.groups, g.quads ≠ c.quads → ∃ n, g.wait = .spe n := by
  simp [LCtx.lastSpe, LCtx.others, List.all_eq_true, Group.atSpe_iff, or_iff_not_imp_left]

theorem LCtx.lastRejoin_of (c : LCtx) (ht : c.together = false)
    (h : ∀ g ∈ c.gang.groups, g.quads ≠ c.quads → ∃ n, g.wait = .rejoin c.pc n) : c.lastRejoin = true := by
  simp only [LCtx.lastRejoin, ht, LCtx.others, List.all_eq_true, List.mem_filter, Bool.not_false, Bool.true_and]
  rintro g ⟨hg, hq⟩
  obtain ⟨n, hn⟩ := h g hg (by simpa using hq)
  simp [Group.atRejoin, hn]

/-- An instruction that breaks nothing breaks no rule of its own. -/
theorem LaneClear.own_nil {i : Instr} {w : LaneWord} {s : State} {c : LCtx} (h : LaneClear i w s c) : laneOwn i s c = [] := by
  obtain ⟨-, -, hc⟩ := h
  unfold LCtx.causes at hc
  split at hc
  · simpa using (List.append_eq_nil_iff.1 hc).2
  · rename_i h; exact absurd hc h

/-! ### `rejoin` -/

theorem rejoin_together {w : LaneWord} {s : State} {c : LCtx} (hc : LaneClear (.rejoin w) w s c)
    (ht : c.gang.groups.length = 1) : LaneLeaves (.rejoin w) s c (c.followed (.rejoin w) w) := by
  refine ⟨_, issue_lane (Eq.trans (b := execRejoin w s) rfl rfl) hc, ?_, ?_⟩ <;> rw [if_pos (by simp [LCtx.together, ht])]
  · exact laneIssued_of_commit (.rejoin w) w 0 hc.2.1 rfl rfl rfl
  · exact LCtx.commit_group? hc.2.1 _ _

theorem rejoin_parted {w : LaneWord} {s : State} {c : LCtx} (hc : LaneClear (.rejoin w) w s c)
    (ht : c.gang.groups.length ≠ 1) : ∃ t, exec (.rejoin w) s = .next t ∧ LaneIssued s c t ∧
      t.group? c.ref c.quads = some { c.followed (.rejoin w) w with wait := .rejoin c.pc c.clause.nextAddr } ∧
      ((∀ g ∈ c.gang.groups, g.quads ≠ c.quads → ∃ n, g.wait = .rejoin c.pc n) → t.awaits s.now (.rejoinMerge c.ref)) := by
  have ht' : c.together = false := by simp [LCtx.together, ht]
  have hg : (c.modGroup (c.commit s (.rejoin w) w 0) fun gr => { gr with wait := .rejoin c.pc c.clause.nextAddr }).group?
      c.ref c.quads = some { c.followed (.rejoin w) w with wait := .rejoin c.pc c.clause.nextAddr } :=
    LCtx.modGroup_group? _ (fun _ => rfl) (LCtx.commit_group? hc.2.1 ..)
  refine ⟨_, issue_lane (Eq.trans (b := execRejoin w s) rfl rfl) hc, ?_⟩
  simp only [ht', Bool.false_eq_true, if_false]
  split
  · refine ⟨laneIssued_of_commit (.rejoin w) w 0 hc.2.1 (by simp) (by simp) (by simp), hg, fun _ => ?_⟩
    exact State.push_awaits' _ _ _ _ _ (by rw [LCtx.modGroup_now, LCtx.commit_now])
  · rename_i hl
    exact ⟨laneIssued_of_commit (.rejoin w) w 0 hc.2.1 (by simp) (by simp) (by simp), hg,
      fun h => absurd (c.lastRejoin_of ht' h) hl⟩

/-! ### `spn` -/

theorem spn_opens {w : LaneWord} {s : State} {c : LCtx} (hc : LaneClear (.spn w) w s c) :
    ∃ t, exec (.spn w) s = .next t ∧ LaneIssued s c t ∧
      (t.gang? c.ref).map (·.spans) = some ((c.t + w.imm25.toNat) :: c.gang.spans) ∧
      t.awaits (c.base + c.t + w.imm25.toNat) (.spanEnd c.ref (c.t + w.imm25.toNat)) := by
  have himm : 1 ≤ w.imm25 := by
    have h := hc.own_nil
    simp only [laneOwn, LCtx.spnExtra, List.append_eq_nil_iff, ite_eq_right_iff, List.cons_ne_nil, imp_false] at h
    have := h.2
    simp only [Bool.or_eq_true, decide_eq_true_eq, not_or] at this
    omega
  have he : (c.spanEnd w).toNat = c.t + w.imm25.toNat := by unfold LCtx.spanEnd; omega
  obtain ⟨g, hg, hs, -⟩ := LCtx.commit_gang? hc.2.1 (.spn w) w 0
  refine ⟨_, issue_lane (Eq.trans (b := execSpn w s) rfl rfl) hc, ?_, ?_, ?_⟩
  · refine laneIssued_of_commit (.spn w) w 0 hc.2.1 ?_ (by simp) ?_
    · exact (State.push_tallies ..).trans (State.modGang_tallies _ _ _ fun _ => rfl)
    · exact (State.push_files ..).trans (State.modGang_files _ _ _ fun _ => rfl)
  · change (State.gang? (State.modGang _ _ _) c.ref).map _ = _
    rw [State.gang?_modGang, if_pos rfl, hg, Option.map_some, Option.map_some, ← hs, ← he]
  · rw [← he, Nat.add_assoc, ← he]; exact State.push_awaits ..

/-! ### `spe` -/

theorem spe_waits {w : LaneWord} {s : State} {c : LCtx} (hc : LaneClear (.spe w) w s c)
    (hl : ∃ g ∈ c.gang.groups, g.quads ≠ c.quads ∧ ∀ n, g.wait ≠ .spe n) :
    ∃ t, exec (.spe w) s = .next t ∧ LaneIssued s c t ∧
      t.group? c.ref c.quads = some { c.followed (.spe w) w with wait := .spe c.clause.nextAddr } ∧
      (t.gang? c.ref).map (·.spans) = some c.gang.spans := by
  have hlast : c.lastSpe = false := by
    rw [Bool.eq_false_iff, Ne, LCtx.lastSpe_iff]
    obtain ⟨g, hg, hq, hn⟩ := hl
    exact fun h => (h g hg hq).elim fun n e => hn n e
  obtain ⟨g, hg, hs, -⟩ := LCtx.commit_gang? hc.2.1 (.spe w) w 0
  refine ⟨_, issue_lane (Eq.trans (b := execSpe w s) rfl rfl) hc, ?_⟩
  simp only [hlast, Bool.not_false, if_true]
  refine ⟨laneIssued_of_commit (.spe w) w 0 hc.2.1 (by simp) (by simp) (by simp),
    LCtx.modGroup_group? _ (fun _ => rfl) (LCtx.commit_group? hc.2.1 ..), ?_⟩
  rw [LCtx.modGroup, State.gang?_modGang, if_pos rfl, hg, Option.map_some, Option.map_some, ← hs]; rfl

/-- The groups of a gang once its last group has issued `spe`. -/
def LCtx.atSpan (c : LCtx) (w : LaneWord) : List Group :=
  c.gang.groups.map fun x => if x.quads = c.quads then
    { x.advance c.clause (.spe w) c.t w.hold.toNat (c.base + c.t) with wait := .spe c.clause.nextAddr } else x

theorem LCtx.mem_atSpan {c : LCtx} {w : LaneWord} {y : Group} (h : y ∈ c.atSpan w) :
    ∃ x ∈ c.gang.groups, y.quads = x.quads ∧ y.stack = x.stack ∧ y.stopped = x.stopped ∧
      (x.quads = c.quads → y.wait = .spe c.clause.nextAddr) ∧ (x.quads ≠ c.quads → y = x) := by
  obtain ⟨x, hx, rfl⟩ := List.mem_map.1 h
  refine ⟨x, hx, ?_⟩
  split <;> rename_i hq
  · exact ⟨Group.advance_quads .., Group.advance_stack .., Group.advance_stopped .., fun _ => rfl, fun h => absurd hq h⟩
  · exact ⟨rfl, rfl, rfl, fun h => absurd h hq, fun _ => rfl⟩

/-- Of two groups that hold one quad, in a gang of disjoint groups, the quads are the same. -/
theorem quads_eq_of_common {l : List Group} (h : l.Pairwise fun a b => a.quads &&& b.quads = 0) {a b : Group} (ha : a ∈ l)
    (hb : b ∈ l) {q : Nat} (hq : a.quads.getLsbD q = true) (hq' : b.quads.getLsbD q = true) : a = b := by
  have hsym : Std.Symm fun a b : Group => a.quads &&& b.quads = 0 := ⟨fun _ _ h => (BitVec.and_comm ..).trans h⟩
  by_contra hn
  have h0 := h.forall ha hb hn
  have := congrArg (·.getLsbD q) h0
  simp [hq, hq'] at this

/-- The header after the `spe` of the group that holds the lowest present quad. -/
theorem LCtx.low_atSpan {c : LCtx} {w : LaneWord} {x : Group} {q : Nat} (hx : x ∈ c.atSpan w)
    (hl : ∀ y ∈ c.atSpan w, (lowestBit x.quads).getD 8 ≤ (lowestBit y.quads).getD 8)
    (hq : lowestBit c.gang.present = some q) : x.quads.getLsbD q = true := by
  obtain ⟨hp, hlow⟩ := lowestBit_spec hq
  have hq8 : q < 8 := BitVec.lt_of_getLsbD hp
  rw [Gang.present_getLsbD, List.any_eq_true] at hp
  obtain ⟨y, hy, hyq⟩ := hp
  obtain ⟨y', hy', e⟩ : ∃ y' ∈ c.atSpan w, y'.quads = y.quads := by
    refine ⟨_, List.mem_map_of_mem hy, ?_⟩
    split
    · exact Group.advance_quads ..
    · rfl
  have hle : (lowestBit x.quads).getD 8 ≤ q := (hl y' hy').trans (e ▸ lowestBit_le hyq)
  refine lowestBit_of_getD (Nat.le_antisymm hle ?_) hq8
  by_contra hlt
  obtain ⟨z, hz, ez, -⟩ := LCtx.mem_atSpan hx
  have hbit : x.quads.getLsbD ((lowestBit x.quads).getD 8) = true := lowestBit_of_getD rfl (by omega)
  have := hlow _ (Nat.lt_of_not_le hlt)
  rw [Gang.present_getLsbD, List.any_eq_false] at this
  exact this z hz (ez ▸ hbit)

/-- Where the gang goes on when `spe` closes its span: after the `spe` of the group that holds the lowest quad. -/
def LCtx.nextOf (c : LCtx) (gs : List Group) : Nat :=
  match gs.foldl (fun (m : Option Group) gr =>
    match m with
    | some x => if (lowestBit gr.quads).getD 8 < (lowestBit x.quads).getD 8 then some gr else m
    | none => some gr) none with
  | some { wait := .spe n, .. } => n
  | _ => c.clause.nextAddr

/-- The gang as one after its last `spe`. -/
def LCtx.closeSpan (c : LCtx) (g : Gang) : Gang :=
  { g.merge (c.nextOf g.groups) (g.spans.headD 0) with spans := g.spans.drop 1 }

theorem exec_spe_last {w : LaneWord} {s : State} {c : LCtx} (hc : LaneClear (.spe w) w s c) (hl : c.lastSpe = true) :
    exec (.spe w) s = .next ((c.modGroup (c.commit s (.spe w) w 0) fun gr =>
      { gr with wait := .spe c.clause.nextAddr }).modGang c.ref c.closeSpan) := by
  rw [issue_lane (Eq.trans (b := execSpe w s) rfl rfl) hc, hl]
  rfl

/-- The group with the lowest quad is the one that names the header to go on at. -/
theorem LCtx.nextOf_spec (c : LCtx) {gs : List Group} (h : gs ≠ []) : ∃ x ∈ gs,
    (∀ y ∈ gs, (lowestBit x.quads).getD 8 ≤ (lowestBit y.quads).getD 8) ∧ ∀ n, x.wait = .spe n → c.nextOf gs = n := by
  obtain ⟨a, r, rfl⟩ := List.exists_cons_of_ne_nil h
  obtain ⟨x, hx, hm, hl⟩ := foldl_least (fun y : Group => (lowestBit y.quads).getD 8)
    (fun (m : Option Group) gr => match m with
      | some x => if (lowestBit gr.quads).getD 8 < (lowestBit x.quads).getD 8 then some gr else m
      | none => some gr) (fun _ _ => rfl) r a
  refine ⟨x, hm, hl, fun n hn => ?_⟩
  obtain ⟨_, _, _, _, _, _, wait, _, _⟩ := x
  obtain rfl : wait = .spe n := hn
  unfold LCtx.nextOf
  rw [List.foldl_cons]
  simp only [hx]

theorem LCtx.atSpan_ne_nil {s : State} {c : LCtx} (hc : laneCtx s = some c) (w : LaneWord) : c.atSpan w ≠ [] := by
  simp only [LCtx.atSpan, ne_eq, List.map_eq_nil_iff]
  exact List.ne_nil_of_mem (List.mem_of_find?_eq_some (laneCtx_group hc))

/-- The gang at its last `spe`: its groups, its quads and its spans. -/
theorem LCtx.spe_gang? {s : State} {c : LCtx} (hc : laneCtx s = some c) (w : LaneWord) :
    ∃ g, (c.modGroup (c.commit s (.spe w) w 0) fun gr => { gr with wait := .spe c.clause.nextAddr }).gang? c.ref = some g ∧
      g.groups = c.atSpan w ∧ g.present = c.gang.present ∧ g.spans = c.gang.spans := by
  obtain ⟨g, hg, hs, hgs⟩ := LCtx.commit_gang? hc (.spe w) w 0
  refine ⟨g.modGroup c.quads fun gr => { gr with wait := .spe c.clause.nextAddr },
    by rw [LCtx.modGroup, State.gang?_modGang, if_pos rfl, hg, Option.map_some], ?_, ?_, hs⟩
  · simp only [Gang.modGroup, hgs, List.map_map, LCtx.atSpan]
    refine List.map_congr_left fun x _ => ?_
    simp only [Function.comp]
    by_cases hq : x.quads = c.quads
    · simp only [if_pos hq, Group.advance_quads]; rfl
    · simp only [if_neg hq]
  · refine Gang.present_congr ?_
    rw [map_quads_modGroup, hgs, map_quads_modGroup]
    · exact fun _ => Group.advance_quads ..
    · exact fun _ => rfl

/-- A gang whose stacks agree goes on with the stack of its issuing group. -/
theorem LCtx.atSpan_stack {c : LCtx} {w : LaneWord} (h : c.stacksEqual = true) (hne : c.atSpan w ≠ []) :
    ((c.atSpan w).head?.map (·.stack)).getD [] = c.group.stack := by
  obtain ⟨a, r, har⟩ := List.exists_cons_of_ne_nil hne
  obtain ⟨x, hx, -, e, -⟩ := LCtx.mem_atSpan (c := c) (w := w) (y := a) (by simp [har])
  rw [har, List.head?_cons, Option.map_some, Option.getD_some, e]
  simpa using List.all_eq_true.1 h x hx

theorem LCtx.nextOf_atSpan {s : State} {c : LCtx} (hc : laneCtx s = some c) (w : LaneWord)
    (hd : c.gang.groups.Pairwise fun a b => a.quads &&& b.quads = 0) {q : Nat} (hq : lowestBit c.gang.present = some q) :
    (c.quads.getLsbD q = true → c.nextOf (c.atSpan w) = c.clause.nextAddr) ∧
    ∀ g ∈ c.gang.groups, ∀ n, g.quads ≠ c.quads → g.quads.getLsbD q = true → g.wait = .spe n → c.nextOf (c.atSpan w) = n := by
  obtain ⟨x, hx, hl, hn⟩ := c.nextOf_spec (LCtx.atSpan_ne_nil hc w)
  have hxq := LCtx.low_atSpan hx hl hq
  obtain ⟨z, hz, ez, -, -, hown, hother⟩ := LCtx.mem_atSpan hx
  rw [ez] at hxq
  have same : ∀ g ∈ c.gang.groups, g.quads.getLsbD q = true → g = z := fun g hg hgq => quads_eq_of_common hd hg hz hgq hxq
  refine ⟨fun hcq => hn _ (hown ?_), fun g hg n hne hgq hw => hn _ ?_⟩
  · rw [← same c.group (List.mem_of_find?_eq_some (laneCtx_group hc)) (by rw [laneCtx_quads hc]; exact hcq), laneCtx_quads hc]
  · obtain rfl := same g hg hgq
    rw [hother hne]; exact hw

theorem spe_last {w : LaneWord} {s : State} {c : LCtx} (hc : LaneClear (.spe w) w s c)
    (hl : ∀ g ∈ c.gang.groups, g.quads ≠ c.quads → ∃ n, g.wait = .spe n)
    (hd : c.gang.groups.Pairwise fun a b => a.quads &&& b.quads = 0) :
    ∃ t e m, exec (.spe w) s = .next t ∧ LaneIssued s c t ∧ c.gang.spans.head? = some e ∧
      (t.gang? c.ref).map (fun g => (g.spans, g.groups)) = some (c.gang.spans.tail, [m]) ∧ m.quads = c.gang.present ∧
      m.ready = e ∧ m.stack = c.group.stack ∧ m.clause = none ∧ m.branched = false ∧ m.wait = .none ∧ m.resume = none ∧
      ((∀ g ∈ c.gang.groups, g.stopped = none) → m.stopped = none) ∧
      ∀ q, lowestBit c.gang.present = some q →
        (c.quads.getLsbD q = true → m.pc = c.clause.nextAddr) ∧
        ∀ g ∈ c.gang.groups, ∀ n, g.quads ≠ c.quads → g.quads.getLsbD q = true → g.wait = .spe n → m.pc = n := by
  have hlast : c.lastSpe = true := c.lastSpe_iff.2 hl
  have hown := hc.own_nil
  simp only [laneOwn, LCtx.speExtra, hlast, Bool.true_and, List.append_eq_nil_iff, ite_eq_right_iff, List.cons_ne_nil, imp_false,
    Bool.not_eq_true, Bool.not_eq_false'] at hown
  obtain ⟨hspans, hstacks⟩ := hown
  obtain ⟨e, sp, hsp⟩ : ∃ e sp, c.gang.spans = e :: sp := List.exists_cons_of_ne_nil hspans
  obtain ⟨g, hg, hgs, hp, hs⟩ := LCtx.spe_gang? hc.2.1 w
  refine ⟨_, e, { Group.start c.gang.present (c.nextOf (c.atSpan w)) e c.group.stack with
    stopped := (c.atSpan w).foldl (fun m x => leastSet m x.stopped) none }, exec_spe_last hc hlast, ?_, by rw [hsp]; rfl, ?_,
    rfl, rfl, rfl, rfl, rfl, rfl, rfl, fun h => ?_, fun q hq => LCtx.nextOf_atSpan hc.2.1 w hd hq⟩
  · refine laneIssued_of_commit (.spe w) w 0 hc.2.1 ?_ (by simp) ?_
    · exact (State.modGang_tallies _ _ c.closeSpan fun _ => rfl).trans (LCtx.modGroup_tallies ..)
    · exact (State.modGang_files _ _ c.closeSpan fun _ => rfl).trans (LCtx.modGroup_files ..)
  · rw [State.gang?_modGang, if_pos rfl, hg, Option.map_some, Option.map_some]
    simp only [LCtx.closeSpan, Gang.merge, hgs, hp, hs, hsp, LCtx.atSpan_stack hstacks (LCtx.atSpan_ne_nil hc.2.1 w)]
    rfl
  · exact leastSet_fold_none _ fun y hy => by
      obtain ⟨z, hz, -, -, e, -⟩ := LCtx.mem_atSpan hy
      rw [e]; exact h z hz

/-- Settles O34: the issuing group follows from the commit's own gang; the last group at `spe` is found by the lowest quad. -/
theorem laneSpans : Obligations.LaneSpans :=
  ⟨fun _ _ _ hc => ⟨rejoin_together hc, rejoin_parted hc⟩, fun _ _ _ hc => spn_opens hc,
    fun _ _ _ hc => ⟨spe_waits hc, spe_last hc⟩⟩

end Sys2Proof.Machine
end

section
/-! PROOFS. Steps put on the agenda, and global accesses at their issue: O30. -/
namespace Sys2Proof.Machine

/-! ### States that differ in their agenda alone -/

/-- A state after steps were put on its agenda. -/
def Pushed (s t : State) : Prop := t = { s with agenda := t.agenda, seq := t.seq } ∧ ∀ d ∈ s.agenda, d ∈ t.agenda

theorem Pushed.refl (s : State) : Pushed s s := ⟨rfl, fun _ h => h⟩

theorem Pushed.trans {s t u : State} (h : Pushed s t) (h' : Pushed t u) : Pushed s u := by
  obtain ⟨e, m⟩ := h
  obtain ⟨e', m'⟩ := h'
  refine ⟨e'.trans ?_, fun d hd => m' d (m d hd)⟩
  conv_lhs => rw [e]

theorem State.pushSub_pushed (s : State) (c r n : Nat) (e : Ev) : Pushed s (s.pushSub c r n e) :=
  ⟨rfl, fun _ h => (State.mem_pushSub ..).2 (.inr h)⟩

theorem State.push_pushed (s : State) (c r : Nat) (e : Ev) : Pushed s (s.push c r e) := State.pushSub_pushed ..

theorem foldl_pushed {α : Type} (f : State → α → State) (h : ∀ s x, Pushed s (f s x)) (l : List α) :
    ∀ s, Pushed s (l.foldl f s) := by
  induction l with
  | nil => exact fun s => .refl s
  | cons x r ih => exact fun s => (h s x).trans (ih _)

theorem Pushed.awaits {s t : State} (h : Pushed s t) {c : Nat} {e : Ev} (ha : s.awaits c e) : t.awaits c e :=
  ha.imp fun _ ⟨hd, hc⟩ => ⟨h.2 _ hd, hc⟩

theorem Pushed.gops {s t : State} (h : Pushed s t) : t.gops = s.gops := by rw [h.1]

theorem Pushed.core {s t : State} (h : Pushed s t) (c : Nat) : t.core c = s.core c := by rw [h.1]; rfl

theorem Pushed.teamBase {s t : State} (h : Pushed s t) (r : TeamRef) : t.teamBase r = s.teamBase r := by rw [h.1]; rfl

/-- A step put on the agenda under a condition. -/
def State.pushIf (s : State) (b : Bool) (c r : Nat) (e : Ev) : State := if b then s.push c r e else s

theorem State.pushIf_pushed (s : State) (b : Bool) (c r : Nat) (e : Ev) : Pushed s (s.pushIf b c r e) := by
  cases b
  · exact .refl s
  · exact State.push_pushed ..

theorem State.pushIf_awaits (s : State) {b : Bool} (c r : Nat) (e : Ev) (h : b = true) : (s.pushIf b c r e).awaits c e := by
  subst h; exact State.push_awaits ..

/-! ### The steps of a global operation -/

theorem State.pushPerforms_pushed (s : State) (o : GlobalOp) : Pushed s (s.pushPerforms o) :=
  foldl_pushed _ (fun s c => by
    dsimp only
    split
    · exact State.push_pushed ..
    · exact State.pushSub_pushed ..) _ _

/-- The delivery of a load's or an atomic's lanes. -/
def GlobalOp.delivery (o : GlobalOp) (m : BitVec 32) : Ev :=
  if o.isAtomic then .atomicResult o.id m else .globalLoadDelivery o.id m

theorem State.pushDeliveries_eq (s : State) (o : GlobalOp) (h : (o.isLoad || o.isAtomic) = true) : s.pushDeliveries o =
    (s.pushIf (o.anyNear || !o.anyFar) (s.teamBase o.teamRef + o.issue + o.kind.latency) 10 (o.delivery (o.delivered false))).pushIf
      o.anyFar (s.teamBase o.teamRef + o.issue + o.kind.latency + 64) 10 (o.delivery (o.delivered true)) := by
  have hn : o.dieMask false = laneSet ((o.lanes.filter fun l => !l.far).map (·.lane)) := by
    simp only [GlobalOp.dieMask, beq_false]
  have hf : o.dieMask true = laneSet ((o.lanes.filter (·.far)).map (·.lane)) := by
    simp only [GlobalOp.dieMask, beq_true]
  unfold State.pushDeliveries
  rw [if_pos h]
  simp only [GlobalOp.delivered, hn, hf, GlobalOp.anyNear, GlobalOp.anyFar]
  rcases Bool.eq_false_or_eq_true (o.lanes.any fun l => !l.far) with near | near <;>
    rcases Bool.eq_false_or_eq_true (o.lanes.any fun l => l.far) with far | far <;> simp only [near, far] <;> rfl

theorem State.pushDeliveries_store (s : State) (o : GlobalOp) (h : (o.isLoad || o.isAtomic) = false) : s.pushDeliveries o =
    s.push (s.teamBase o.teamRef + o.issue + o.kind.latency + if o.anyFar then 64 else 0) 45 (.globalStoreCompletion o.id) := by
  unfold State.pushDeliveries
  rw [if_neg (by simp [h])]

theorem State.pushDeliveries_pushed (s : State) (o : GlobalOp) : Pushed s (s.pushDeliveries o) := by
  cases h : o.isLoad || o.isAtomic
  · rw [State.pushDeliveries_store s o h]; exact State.push_pushed ..
  · rw [State.pushDeliveries_eq s o h]; exact (State.pushIf_pushed ..).trans (State.pushIf_pushed ..)

/-- The stack cycle of lanes that share one, at the base of their team. -/
def State.putStack (s : State) (base id : Nat) (ls : List LaneAcc) (first : Bool) : State :=
  match ls with
  | [] => s
  | l :: _ => s.push (base + l.s) 15 (.stackAccess (.lanes id (laneSet (ls.map (·.lane))) first))

theorem State.putStack_pushed (s : State) (base id : Nat) (ls : List LaneAcc) (first : Bool) :
    Pushed s (s.putStack base id ls first) := by
  cases ls with
  | nil => exact .refl s
  | cons l r => exact State.push_pushed ..

theorem State.putStack_awaits (s : State) {base id at0 : Nat} {ls : List LaneAcc} (first : Bool) (hne : ls ≠ [])
    (h : ∀ l ∈ ls, l.s = at0) :
    (s.putStack base id ls first).awaits (base + at0) (.stackAccess (.lanes id (laneSet (ls.map (·.lane))) first)) := by
  cases ls with
  | nil => exact absurd rfl hne
  | cons l r => rw [← h l (by simp)]; exact State.push_awaits ..

theorem State.pushStacks_eq (s : State) (o : GlobalOp) : s.pushStacks o =
    (s.putStack (s.teamBase o.teamRef) o.id ((o.lanes.filter fun l => !l.ok).filter fun l => !l.far) true).putStack
      (s.teamBase o.teamRef) o.id ((o.lanes.filter fun l => !l.ok).filter (·.far))
      ((o.lanes.filter fun l => !l.ok).filter fun l => !l.far).isEmpty := rfl

theorem State.pushStacks_pushed (s : State) (o : GlobalOp) : Pushed s (s.pushStacks o) := by
  rw [State.pushStacks_eq]; exact (State.putStack_pushed ..).trans (State.putStack_pushed ..)

/-! ### What the choice of P leaves -/

/-- The cores, the next number of an operation, and the base of every team. -/
def State.placed (s : State) : Store Core × Nat × List (Nat × List Nat) :=
  (s.cores, s.nextOp, s.heats.map fun h => (h.hid, h.teams.map h.base))

theorem State.teamBase_eq (s : State) (r : TeamRef) : s.teamBase r =
    (((s.placed.2.2.find? fun h => h.1 == r.hid).bind fun h => h.2[r.team]?).getD 0) := by
  unfold State.teamBase State.team? State.heat? State.placed
  rw [List.find?_map]
  change _ = ((Option.map _ (s.heats.find? fun h => h.hid == r.hid)).bind _).getD 0
  cases s.heats.find? fun h => h.hid == r.hid with
  | none => rfl
  | some h =>
    simp only [Option.map_some, Option.bind_some, List.getElem?_map]
    cases h.teams[r.team]? <;> rfl

theorem teamBase_of_placed {s t : State} (h : t.placed = s.placed) (r : TeamRef) : t.teamBase r = s.teamBase r := by
  rw [State.teamBase_eq, h, ← State.teamBase_eq]

theorem State.modTeam_placed (s : State) (r : TeamRef) (f : Team → Team) (h : ∀ x, (f x).shift = x.shift) :
    (s.modTeam r f).placed = s.placed := by
  refine congrArg (fun x => (s.cores, s.nextOp, x)) ?_
  simp only [State.modTeam, State.modHeat, List.map_map]
  refine List.map_congr_left fun x _ => ?_
  simp only [Function.comp]
  split
  · exact congrArg (x.hid, ·) (map_modifyNth _ f (fun y => by simp only [Heat.base, Heat.modTeam, h]) ..)
  · rfl

@[simp] theorem State.modGang_placed (s : State) (r : GangRef) (f : Gang → Gang) : (s.modGang r f).placed = s.placed :=
  State.modTeam_placed _ _ _ fun _ => rfl

theorem foldl_placed {α : Type} (f : State → α → State) (h : ∀ s x, (f s x).placed = s.placed) (l : List α) (s : State) :
    (l.foldl f s).placed = s.placed := by
  induction l generalizing s with
  | nil => rfl
  | cons x r ih => rw [List.foldl_cons, ih, h]

theorem Pushed.placed {s t : State} (h : Pushed s t) : t.placed = s.placed := by rw [h.1]; rfl

theorem State.choose_placed (s : State) (lo hi : Nat) : (s.choose lo hi).2.placed = s.placed := by
  unfold State.choose
  split <;> rfl

theorem State.pullBack_placed (s : State) (g : GangRef) : (s.pullBack g).placed = s.placed := by
  unfold State.pullBack
  split
  · rfl
  · rename_i x _
    refine (foldl_placed _ (fun s o => ?_) _ _).trans
      (State.modGang_placed s g fun y => { y with ord := { y.ord with accs := earliest s.now x.ord.accs } })
    split
    · exact (State.pushPerforms_pushed ..).placed
    · rfl

theorem PChoice.next_placed (c : PChoice) (g : GangRef) (base op issue lat : Nat) (kind : GlobalKind) (order : Bool)
    (l : LaneAcc) : (c.next g base op issue lat kind order l).s.placed = c.s.placed := by
  unfold PChoice.next
  dsimp only
  repeat' split
  all_goals first | rfl | simp only [State.choose_placed, State.pullBack_placed]

@[simp] theorem LCtx.commit_placed (c : LCtx) (s : State) (i : Instr) (w : LaneWord) (L : Nat) :
    (c.commit s i w L).placed = s.placed := by
  unfold LCtx.commit
  refine (State.modGang_placed ..).trans ?_
  have h : ∀ u : State, u.cores = s.cores → u.nextOp = s.nextOp → u.heats = s.heats → u.placed = s.placed := by
    intro u h1 h2 h3; simp only [State.placed, h1, h2, h3]
  have hn : ∀ u : State, ∀ k p, (u.corrected k p).nextOp = u.nextOp := by
    intro u k p; unfold State.corrected; dsimp only; split <;> rfl
  refine h _ ?_ ?_ ?_
  · simp only [State.corrected_cores, State.tick_cores]; split <;> rfl
  · rw [hn]; split <;> rfl
  · simp only [State.corrected_heats, State.tick_heats]; split <;> rfl

/-! ### The choice of P for each lane -/

/-- A lane's P is its stack cycle: its page is not shared, or it is an `atg` or `casg` (R125). -/
def GlobalKind.fixes (k : GlobalKind) (l : LaneAcc) : Bool := l.kind == 0 || k == .atomic || k == .cas

/-- Choosing P for one lane appends that lane with its P, and a word that it stores to those with a P. -/
theorem PChoice.next_spec (c : PChoice) (g : GangRef) (base op issue lat : Nat) (kind : GlobalKind) (order : Bool) (l : LaneAcc) :
    ∃ p, (c.next g base op issue lat kind order l).lanes = c.lanes ++ [{ l with p := p }] ∧
      (∀ e ∈ (c.next g base op issue lat kind order l).words, e.1 = l.pa / 8 ∨ e ∈ c.words) ∧
      (kind.fixes l = true → (kind = .load ∨ ∀ e ∈ c.words, e.1 ≠ l.pa / 8) → p = l.s) := by
  unfold PChoice.next
  dsimp only
  split
  · rename_i e he
    refine ⟨_, rfl, fun e h => .inr h, fun _ hw => ?_⟩
    split at he
    · rename_i hk
      obtain rfl | hw := hw
      · simp at hk
      · exact absurd (by simpa using List.find?_some he) (hw e (List.mem_of_find?_eq_some he))
    · cases he
  · refine ⟨_, rfl, fun e h => ?_, fun hf _ => ?_⟩
    · obtain rfl | h := List.mem_cons.1 h
      · exact .inl rfl
      · exact .inr h
    · unfold GlobalKind.fixes at hf
      rw [if_pos hf]; omega

/-- Choosing P for lanes in turn. -/
def PChoice.all (c : PChoice) (g : GangRef) (base op issue : Nat) (lat : LaneAcc → Nat) (kind : GlobalKind) (order : Bool)
    (ls : List LaneAcc) : PChoice :=
  ls.foldl (fun ch l => ch.next g base op issue (lat l) kind order l) c

theorem PChoice.all_placed (c : PChoice) (g : GangRef) (base op issue : Nat) (lat : LaneAcc → Nat) (kind : GlobalKind)
    (order : Bool) (ls : List LaneAcc) : (c.all g base op issue lat kind order ls).s.placed = c.s.placed := by
  unfold PChoice.all
  induction ls generalizing c with
  | nil => rfl
  | cons a r ih => rw [List.foldl_cons, ih, PChoice.next_placed]

/-- The lanes that the choice leaves: those given, each with its P, which is the stack cycle where nothing else sets it. -/
theorem PChoice.all_spec (g : GangRef) (base op issue : Nat) (lat : LaneAcc → Nat) (kind : GlobalKind) (order : Bool)
    (ls : List LaneAcc) : ∀ c : PChoice, (ls.map (·.lane)).Nodup →
      ∃ new, (c.all g base op issue lat kind order ls).lanes = c.lanes ++ new ∧
        new.map (fun l => { l with p := 0 }) = ls.map (fun l => { l with p := 0 }) ∧
        ∀ a ∈ new, kind.fixes a = true → (kind = .load ∨
          (∀ e ∈ c.words, e.1 ≠ a.pa / 8) ∧ ∀ b ∈ new, b.pa / 8 = a.pa / 8 → b.lane = a.lane) → a.p = a.s := by
  induction ls with
  | nil => exact fun c _ => ⟨[], by simp [PChoice.all], rfl, by simp⟩
  | cons l r ih =>
    intro c hnd
    obtain ⟨p, hl, hw, hp⟩ := c.next_spec g base op issue (lat l) kind order l
    obtain ⟨hnot, hnd⟩ := List.nodup_cons.1 hnd
    obtain ⟨new, hnew, hmap, hps⟩ := ih (c.next g base op issue (lat l) kind order l) hnd
    refine ⟨{ l with p := p } :: new, ?_, by simp [hmap], fun a ha hf hc => ?_⟩
    · rw [PChoice.all, List.foldl_cons]
      exact hnew.trans (by rw [hl, List.append_assoc]; rfl)
    · obtain rfl | ha := List.mem_cons.1 ha
      · exact hp hf (hc.imp_right (·.1))
      · refine hps a ha hf (hc.imp_right fun ⟨h1, h2⟩ => ⟨fun e he => ?_, fun b hb => h2 b (List.mem_cons_of_mem _ hb)⟩)
        obtain h | h := hw e he
        · intro e1
          have hla : l.lane = a.lane := h2 { l with p := p } (List.mem_cons_self ..) (h.symm.trans e1)
          have : a.lane ∈ r.map (·.lane) := by
            have := List.mem_map_of_mem (f := fun x : LaneAcc => ({ x with p := 0 } : LaneAcc).lane) ha
            have e2 := congrArg (List.map LaneAcc.lane) hmap
            simp only [List.map_map] at e2
            exact e2 ▸ this
          exact hnot (show l.lane ∈ _ from hla ▸ this)
        · exact h1 e h

/-! ### The operation that an issue makes -/

/-- The lanes of a global access before their P is chosen. -/
def LCtx.laneAccs (c : LCtx) (w : LaneWord) (kind : GlobalKind) : List LaneAcc :=
  ((List.range c.realLanes.length).zip c.realLanes).map fun e => c.laneAcc w kind (c.team.atomSeq + BitVec.ofNat 32 e.1) e.2

/-- The choice of P of a global access. -/
def LCtx.chosen (c : LCtx) (s : State) (w : LaneWord) (kind : GlobalKind) (order : Bool) : PChoice :=
  let s' : State := { s with nextOp := s.nextOp + 1 }
  PChoice.all
    { s := if kind == .atomic || kind == .cas then s'.modTeam ⟨c.ref.hid, c.ref.team⟩ fun t =>
        { t with atomSeq := t.atomSeq + BitVec.ofNat 32 c.realLanes.length } else s'
      words := [], news := [], lanes := [] }
    c.ref c.base s.nextOp (c.base + c.t) (fun l => kind.latency + (if l.far then 64 else 0)) kind order (c.laneAccs w kind)

/-- The operation of a global access. -/
def LCtx.globalOp (c : LCtx) (s : State) (i : Instr) (w : LaneWord) (kind : GlobalKind) (order : Bool) : GlobalOp :=
  let loads := kind == .load || (kind == .atomic || kind == .cas)
  { id := s.nextOp, hid := c.ref.hid, team := c.ref.team, gang := c.ref.gang, core := c.team.core, issue := c.t, kind := kind
    sz := w.sz, sx := w.sx, aop := w.aop, order := order, lanes := (c.chosen s w kind order).lanes
    dests := if loads then c.realLanes.map fun l => (l, c.resultKeys w (w.sz == 3) l) else []
    zeros := if loads then (c.helperLanes.map (c.resultKeys w (w.sz == 3))).flatten else []
    latch := c.holdEntry w, flag := flagFor c.clause i, blame := c.blame 0, hot := false, n := 0, bar := none
    addr := 0, bytes := [] }

/-- The accesses that the gang's order still names after an issue, and those that it adds. -/
def LCtx.ordered (c : LCtx) (s : State) (w : LaneWord) (kind : GlobalKind) (order : Bool) (g : Gang) : Gang :=
  let keep (a : PAcc) : Bool := decide (frameStart (c.base + c.t + 320) ≤ a.p)
  { g with ord := { g.ord with accs := g.ord.accs.filter keep ++ (c.chosen s w kind order).news } }

/-- A state with an operation made by a gang, counted in its core. -/
def State.withOp (u : State) (r : GangRef) (f : Gang → Gang) (o : GlobalOp) : State :=
  State.countOp { u.modGang r f with gops := (u.modGang r f).gops ++ [o] } o true

theorem State.withOp_teamBase (u : State) (r : GangRef) (f : Gang → Gang) (o : GlobalOp) (x : TeamRef) :
    (u.withOp r f o).teamBase x = u.teamBase x :=
  teamBase_of_placed (State.modGang_placed u r f) x

theorem State.withOp_core (u : State) (r : GangRef) (f : Gang → Gang) (o : GlobalOp) : (u.withOp r f o).core o.core =
    if o.isAtomic then { u.core o.core with atm := (u.core o.core).atm + 1 }
    else if o.isLoad then u.core o.core else { u.core o.core with sto := (u.core o.core).sto + 1 } := by
  simp only [State.withOp, State.countOp, State.modCore, State.core, Store.get_set, if_true]
  rfl

theorem State.mem_withOp (u : State) (r : GangRef) (f : Gang → Gang) (o : GlobalOp) : o ∈ (u.withOp r f o).gops :=
  List.mem_append_right _ (List.mem_singleton_self o)

/-- The state with the operation counted, before its steps are on the agenda. -/
def LCtx.counted (c : LCtx) (s : State) (i : Instr) (w : LaneWord) (kind : GlobalKind) (order : Bool) : State :=
  (c.chosen s w kind order).s.withOp c.ref (c.ordered s w kind order) (c.globalOp s i w kind order)

theorem LCtx.issueGlobal_eq (c : LCtx) (s : State) (i : Instr) (w : LaneWord) (kind : GlobalKind) (order : Bool) :
    c.issueGlobal s i w kind order = (((c.counted s i w kind order).pushStacks (c.globalOp s i w kind order)).pushPerforms
      (c.globalOp s i w kind order)).pushDeliveries (c.globalOp s i w kind order) := rfl

theorem LCtx.chosen_placed (c : LCtx) (s : State) (w : LaneWord) (kind : GlobalKind) (order : Bool) :
    (c.chosen s w kind order).s.placed = { s with nextOp := s.nextOp + 1 }.placed := by
  refine (PChoice.all_placed ..).trans ?_
  dsimp only
  split
  · exact State.modTeam_placed _ _ _ fun _ => rfl
  · rfl

theorem LCtx.chosen_teamBase (c : LCtx) (s : State) (w : LaneWord) (kind : GlobalKind) (order : Bool) (r : TeamRef) :
    (c.chosen s w kind order).s.teamBase r = s.teamBase r :=
  teamBase_of_placed (s := { s with nextOp := s.nextOp + 1 }) (c.chosen_placed s w kind order) r

theorem LCtx.chosen_core (c : LCtx) (s : State) (w : LaneWord) (kind : GlobalKind) (order : Bool) (n : Nat) :
    (c.chosen s w kind order).s.core n = s.core n :=
  congrArg (Store.get Core.init · n) (congrArg (·.1) (c.chosen_placed s w kind order))

theorem LCtx.laneAccs_lane (c : LCtx) (w : LaneWord) (kind : GlobalKind) : (c.laneAccs w kind).map (·.lane) = c.realLanes := by
  simp only [LCtx.laneAccs, List.map_map]
  exact (List.map_snd_zip (by simp))

theorem LCtx.realLanes_nodup (c : LCtx) : c.realLanes.Nodup := (List.nodup_range.filter _).filter _

/-- The lanes of the operation: those accessed at issue, each with its P. -/
theorem LCtx.globalOp_spec (c : LCtx) (s : State) (i : Instr) (w : LaneWord) (kind : GlobalKind) (order : Bool) :
    (c.globalOp s i w kind order).lanes.map (fun l => { l with p := 0 }) = (c.laneAccs w kind).map (fun l => { l with p := 0 }) ∧
    ∀ a ∈ (c.globalOp s i w kind order).lanes, kind.fixes a = true → (kind = .load ∨
      ∀ b ∈ (c.globalOp s i w kind order).lanes, b.pa / 8 = a.pa / 8 → b.lane = a.lane) → a.p = a.s := by
  obtain ⟨new, hnew, hmap, hp⟩ := PChoice.all_spec c.ref c.base s.nextOp (c.base + c.t)
    (fun l => kind.latency + (if l.far then 64 else 0)) kind order (c.laneAccs w kind) _
    (by rw [LCtx.laneAccs_lane]; exact c.realLanes_nodup)
  have e : (c.globalOp s i w kind order).lanes = new := hnew
  rw [e]
  exact ⟨hmap, fun a ha hf hc => hp a ha hf (hc.imp_right fun h => ⟨by simp, h⟩)⟩

theorem LCtx.globalOp_lanes (c : LCtx) (s : State) (i : Instr) (w : LaneWord) (kind : GlobalKind) (order : Bool) :
    (c.globalOp s i w kind order).lanes.map (·.lane) = c.realLanes := by
  have h := congrArg (List.map LaneAcc.lane) (c.globalOp_spec s i w kind order).1
  simp only [List.map_map] at h
  exact h.trans (c.laneAccs_lane w kind)

/-- What a lane of the operation holds at its issue. -/
theorem LCtx.globalOp_lane {c : LCtx} {s : State} {i : Instr} {w : LaneWord} {kind : GlobalKind} {order : Bool} {a : LaneAcc}
    (ha : a ∈ (c.globalOp s i w kind order).lanes) : a.va = c.va w a.lane ∧
      a.far = (dieOfCore c.team.core != dieOfStack (stackOf a.va)) ∧ a.s = c.t + 320 + (if a.far then 48 else 0) ∧
      (a.data, a.cmp) = c.globalData w kind a.lane ∧ a.ok = false := by
  have h := List.mem_map_of_mem (f := fun l : LaneAcc => ({ l with p := 0 } : LaneAcc)) ha
  rw [(c.globalOp_spec s i w kind order).1, LCtx.laneAccs, List.map_map] at h
  obtain ⟨⟨n, l⟩, -, he⟩ := List.mem_map.1 h
  simp only [Function.comp, LCtx.laneAcc, LaneAcc.mk.injEq] at he
  obtain ⟨rfl, hv, -, -, hf, hs, -, hd, hc, -, hok, -, -⟩ := he
  refine ⟨hv.symm, ?_, ?_, by rw [← hd, ← hc], hok.symm⟩
  · rw [← hf, ← hv]
  · rw [← hs, ← hf]

/-- The virtual address of a lane, as 56-bit arithmetic. -/
theorem LCtx.va_eq_address (c : LCtx) (w : LaneWord) (l : Nat) : c.va w l = c.address w l := by
  unfold LCtx.va LCtx.address wrapN sextInt
  rw [BitVec.toNat_add, BitVec.toNat_signExtend, BitVec.msb_eq_decide]
  simp only [BitVec.toNat_setWidth, BitVec.toNat_ofNat]
  generalize c.pair w.a.toNat l = x
  generalize w.off = y
  have hy := Nat.mod_lt y (show 0 < 2 ^ 17 by decide)
  norm_num at hy ⊢
  split_ifs <;> omega

/-! ### The steps that an operation waits for -/

/-- The lanes of an operation take their stack cycles 320 cycles after the issue, 368 to the other die. -/
def GlobalOp.fresh (o : GlobalOp) : Prop := ∀ a ∈ o.lanes, a.s = o.issue + 320 + (if a.far then 48 else 0) ∧ a.ok = false

/-- An operation's steps on the agenda: its stack cycles, performances and deliveries. -/
def State.pushOp (u : State) (o : GlobalOp) : State := ((u.pushStacks o).pushPerforms o).pushDeliveries o

theorem State.pushOp_pushed (u : State) (o : GlobalOp) : Pushed u (u.pushOp o) :=
  (State.pushStacks_pushed ..).trans ((State.pushPerforms_pushed ..).trans (State.pushDeliveries_pushed ..))

theorem GlobalOp.fresh_ok {o : GlobalOp} (h : o.fresh) : (o.lanes.filter fun l => !l.ok) = o.lanes :=
  List.filter_eq_self.2 fun a ha => by rw [(h a ha).2]; rfl

theorem State.pushStacks_near (u : State) {o : GlobalOp} (h : o.fresh) (hn : o.anyNear = true) :
    (u.pushStacks o).awaits (u.teamBase o.teamRef + o.issue + 320) (.stackAccess (.lanes o.id (o.dieMask false) true)) := by
  rw [State.pushStacks_eq, GlobalOp.fresh_ok h]
  refine (State.putStack_pushed ..).awaits ?_
  have e : o.dieMask false = laneSet ((o.lanes.filter fun l => !l.far).map (·.lane)) := by
    simp only [GlobalOp.dieMask, beq_false]
  rw [e, Nat.add_assoc]
  refine State.putStack_awaits _ _ (fun hf => ?_) fun a ha => ?_
  · obtain ⟨a, ha, hfar⟩ := List.any_eq_true.1 hn
    exact absurd (List.mem_filter.2 ⟨ha, hfar⟩) (by rw [hf]; exact List.not_mem_nil)
  · obtain ⟨ha, hfar⟩ := List.mem_filter.1 ha
    rw [(h a ha).1, if_neg (by simpa using hfar)]

theorem State.pushStacks_far (u : State) {o : GlobalOp} (h : o.fresh) (hf : o.anyFar = true) :
    (u.pushStacks o).awaits (u.teamBase o.teamRef + o.issue + 368)
      (.stackAccess (.lanes o.id (o.dieMask true) (!o.anyNear))) := by
  rw [State.pushStacks_eq, GlobalOp.fresh_ok h]
  have e : o.dieMask true = laneSet ((o.lanes.filter (·.far)).map (·.lane)) := by simp only [GlobalOp.dieMask, beq_true]
  have hb : (o.lanes.filter fun l => !l.far).isEmpty = !o.anyNear := by
    unfold GlobalOp.anyNear
    induction o.lanes with
    | nil => rfl
    | cons a r ih => cases hx : a.far <;> simp [hx, ih]
  rw [e, hb, Nat.add_assoc]
  refine State.putStack_awaits _ _ (fun hn => ?_) fun a ha => ?_
  · obtain ⟨a, ha, hfar⟩ := List.any_eq_true.1 hf
    exact absurd (List.mem_filter.2 ⟨ha, hfar⟩) (by rw [hn]; exact List.not_mem_nil)
  · obtain ⟨ha, hfar⟩ := List.mem_filter.1 ha
    rw [(h a ha).1, if_pos hfar]

theorem State.pushOp_stacks (u : State) {o : GlobalOp} (h : o.fresh) :
    (o.anyNear = true → (u.pushOp o).awaits (u.teamBase o.teamRef + o.issue + 320)
      (.stackAccess (.lanes o.id (o.dieMask false) true))) ∧
    (o.anyFar = true → (u.pushOp o).awaits (u.teamBase o.teamRef + o.issue + 368)
      (.stackAccess (.lanes o.id (o.dieMask true) (!o.anyNear)))) :=
  have hp : Pushed (u.pushStacks o) (u.pushOp o) := (State.pushPerforms_pushed ..).trans (State.pushDeliveries_pushed ..)
  ⟨fun hn => hp.awaits (u.pushStacks_near h hn), fun hf => hp.awaits (u.pushStacks_far h hf)⟩

theorem State.pushOp_delivers (u : State) {o : GlobalOp} (h : (o.isLoad || o.isAtomic) = true) :
    (o.anyNear = true ∨ o.anyFar = false → (u.pushOp o).awaits (u.teamBase o.teamRef + o.issue + o.kind.latency)
      (o.delivery (o.delivered false))) ∧
    (o.anyFar = true → (u.pushOp o).awaits (u.teamBase o.teamRef + o.issue + o.kind.latency + 64)
      (o.delivery (o.delivered true))) := by
  have hp : Pushed u ((u.pushStacks o).pushPerforms o) := (State.pushStacks_pushed ..).trans (State.pushPerforms_pushed ..)
  rw [State.pushOp, State.pushDeliveries_eq _ o h, hp.teamBase]
  refine ⟨fun hn => (State.pushIf_pushed ..).awaits (State.pushIf_awaits _ _ _ _ ?_), fun hf => State.pushIf_awaits _ _ _ _ hf⟩
  obtain hn | hf := hn
  · rw [hn]; rfl
  · rw [hf]; simp

theorem State.pushOp_completes (u : State) {o : GlobalOp} (h : (o.isLoad || o.isAtomic) = false) :
    (u.pushOp o).awaits (u.teamBase o.teamRef + o.issue + o.kind.latency + if o.anyFar then 64 else 0)
      (.globalStoreCompletion o.id) := by
  have hp : Pushed u ((u.pushStacks o).pushPerforms o) := (State.pushStacks_pushed ..).trans (State.pushPerforms_pushed ..)
  rw [State.pushOp, State.pushDeliveries_store _ o h, hp.teamBase]
  exact State.push_awaits ..

/-! ### Global accesses at their issue -/

theorem LCtx.globalOp_fresh (c : LCtx) (s : State) (i : Instr) (w : LaneWord) (kind : GlobalKind) (order : Bool) :
    (c.globalOp s i w kind order).fresh := fun _ ha =>
  have ⟨_, _, hs, _, hok⟩ := LCtx.globalOp_lane ha
  ⟨hs, hok⟩

/-- The operation that a global access makes, and the state in which it is counted and its steps are not yet put. -/
structure GlobalMade (s : State) (c : LCtx) (w : LaneWord) (kind : GlobalKind) (u : State) (o : GlobalOp) : Prop where
  mem : o ∈ u.gops
  fresh : o.fresh
  id : o.id = s.nextOp
  gang : o.gangRef = c.ref
  issue : o.issue = c.t
  kind_eq : o.kind = kind
  sz : o.sz = w.sz
  aop : o.aop = w.aop
  lanes : o.lanes.map (·.lane) = c.realLanes
  base : u.teamBase o.teamRef = s.teamBase ⟨c.ref.hid, c.ref.team⟩
  lane : ∀ a ∈ o.lanes, a.va = c.address w a.lane ∧ a.far = (dieOfCore c.team.core != dieOfStack (stackOf a.va)) ∧
    (a.data, a.cmp) = c.globalData w kind a.lane
  p : ∀ a ∈ o.lanes, kind.fixes a = true → (kind = .load ∨ ∀ b ∈ o.lanes, b.pa / 8 = a.pa / 8 → b.lane = a.lane) → a.p = a.s
  dests : (kind == .load || (kind == .atomic || kind == .cas)) = true →
    o.dests = (c.realLanes.map fun l => (l, c.resultKeys w (w.sz == 3) l)) ∧
    o.zeros = c.helperLanes.flatMap (c.resultKeys w (w.sz == 3))
  core : u.core c.team.core =
    if kind == .atomic || kind == .cas then { s.core c.team.core with atm := (s.core c.team.core).atm + 1 }
    else if kind == .load then s.core c.team.core else { s.core c.team.core with sto := (s.core c.team.core).sto + 1 }

theorem LCtx.counted_made (c : LCtx) (s : State) (i : Instr) (w : LaneWord) (kind : GlobalKind) (order : Bool) :
    GlobalMade s c w kind (c.counted s i w kind order) (c.globalOp s i w kind order) where
  mem := State.mem_withOp ..
  fresh := c.globalOp_fresh s i w kind order
  id := rfl
  gang := rfl
  issue := rfl
  kind_eq := rfl
  sz := rfl
  aop := rfl
  lanes := c.globalOp_lanes s i w kind order
  base := (State.withOp_teamBase ..).trans (c.chosen_teamBase s w kind order _)
  lane a ha := by
    obtain ⟨hv, hf, -, hd, -⟩ := LCtx.globalOp_lane ha
    exact ⟨hv.trans (c.va_eq_address w _), hf, hd⟩
  p := (c.globalOp_spec s i w kind order).2
  dests h := by
    unfold LCtx.globalOp
    simp only [h, if_true]
    exact ⟨trivial, rfl⟩
  core := by
    have h := State.withOp_core (c.chosen s w kind order).s c.ref (c.ordered s w kind order) (c.globalOp s i w kind order)
    rw [show (c.globalOp s i w kind order).core = c.team.core from rfl, c.chosen_core] at h
    exact h

theorem GlobalMade.of_commit {s u : State} {c : LCtx} {w : LaneWord} {kind : GlobalKind} {o : GlobalOp} {i : Instr} {L : Nat}
    (h : GlobalMade (c.commit s i w L) c w kind u o) : GlobalMade s c w kind u o where
  __ := h
  id := h.id.trans (congrArg (·.2.1) (c.commit_placed s i w L))
  base := h.base.trans (teamBase_of_placed (c.commit_placed s i w L) _)
  core := by
    have e : (c.commit s i w L).core c.team.core = s.core c.team.core :=
      congrArg (Store.get Core.init · c.team.core) (congrArg (·.1) (c.commit_placed s i w L))
    rw [← e]; exact h.core

/-- A global access that breaks nothing makes its operation and waits for its steps. -/
theorem globalAccess_issues {i : Instr} {w : LaneWord} {s : State} {c : LCtx} {kind : GlobalKind} {order : Bool}
    (he : exec i s = laneGlobal i w s kind order) (hown : laneOwn i s = fun c => c.globalExtra w) (hc : LaneClear i w s c) :
    ∃ u o, exec i s = .next (u.pushOp o) ∧ LaneIssued s c (u.pushOp o) ∧ GlobalMade s c w kind u o := by
  have hx := issue_lane (he.trans (by unfold laneGlobal; rw [← hown])) hc
  refine ⟨_, _, hx, ?_, (c.counted_made _ i w kind order).of_commit⟩
  exact laneIssued_of_commit i w _ hc.2.1 (LCtx.issueGlobal_tallies ..) (LCtx.issueGlobal_kept ..) (LCtx.issueGlobal_files ..)

/-- The kinds of access of a gang with their latency (R25). -/
def gangKinds : List (GlobalKind × Nat) := [(.load, 640), (.store, 640), (.atomic, 760), (.cas, 760), (.reduce, 760)]

theorem globalAccess_effect {i : Instr} {w : LaneWord} {s : State} {c : LCtx} {kind : GlobalKind} {lat : Nat} {order : Bool}
    (he : exec i s = laneGlobal i w s kind order) (hown : laneOwn i s = fun c => c.globalExtra w)
    (hk : (kind, lat) ∈ gangKinds) (hc : LaneClear i w s c) :
      ∃ t o, exec i s = .next t ∧ LaneIssued s c t ∧ o ∈ t.gops ∧ o.id = s.nextOp ∧ o.kind = kind ∧
        o.gangRef = c.ref ∧ o.sz = w.sz ∧ o.aop = w.aop ∧
        o.lanes.map (·.lane) = c.realLanes ∧
        (∀ a ∈ o.lanes, a.va = c.address w a.lane ∧ a.far = (dieOfCore c.team.core != dieOfStack (stackOf a.va)) ∧
          a.s = c.t + 320 + (if a.far then 48 else 0) ∧
          (a.kind = 0 ∨ kind = .atomic ∨ kind = .cas →
            (kind = .load ∨ ∀ b ∈ o.lanes, b.pa / 8 = a.pa / 8 → b.lane = a.lane) → a.p = a.s) ∧
          (kind = .store ∨ kind = .atomic ∨ kind = .reduce → a.data = c.stored w a.lane % 2 ^ (8 * 2 ^ w.sz)) ∧
          (kind = .cas → a.data = c.stored w a.lane ∧ a.cmp = c.compared w a.lane)) ∧
        (kind = .load ∨ kind = .atomic ∨ kind = .cas →
          o.dests = (c.realLanes.map fun l => (l, c.resultKeys w (w.sz == 3) l)) ∧
          o.zeros = c.helperLanes.flatMap (c.resultKeys w (w.sz == 3))) ∧
        (let far := o.lanes.any (·.far)
         let near := o.lanes.any fun l => !l.far
         let issue := s.teamBase ⟨c.ref.hid, c.ref.team⟩ + c.t
         let at0 := issue + lat
         (near = true → t.awaits (issue + 320) (.stackAccess (.lanes o.id (o.dieMask false) true))) ∧
         (far = true → t.awaits (issue + 368) (.stackAccess (.lanes o.id (o.dieMask true) (!near)))) ∧
         (kind = .load → (near = true ∨ far = false → t.awaits at0 (.globalLoadDelivery o.id (o.delivered false))) ∧
           (far = true → t.awaits (at0 + 64) (.globalLoadDelivery o.id (o.delivered true)))) ∧
         (kind = .atomic ∨ kind = .cas → (near = true ∨ far = false → t.awaits at0 (.atomicResult o.id (o.delivered false))) ∧
           (far = true → t.awaits (at0 + 64) (.atomicResult o.id (o.delivered true)))) ∧
         (kind = .store ∨ kind = .reduce →
           t.awaits (at0 + if far then 64 else 0) (.globalStoreCompletion o.id))) ∧
        (t.core c.team.core).sto = (s.core c.team.core).sto + (if kind = .store ∨ kind = .reduce then 1 else 0) ∧
        (t.core c.team.core).atm = (s.core c.team.core).atm + (if kind = .atomic ∨ kind = .cas then 1 else 0) := by
  obtain ⟨u, o, hx, hi, hm⟩ := globalAccess_issues he hown hc
  have hp := u.pushOp_pushed o
  have hlat : kind.latency = lat := by
    simp only [gangKinds, List.mem_cons, Prod.mk.injEq, List.not_mem_nil, or_false] at hk
    obtain ⟨rfl, rfl⟩ | ⟨rfl, rfl⟩ | ⟨rfl, rfl⟩ | ⟨rfl, rfl⟩ | ⟨rfl, rfl⟩ := hk <;> rfl
  obtain ⟨hnear, hfar⟩ := u.pushOp_stacks hm.fresh
  rw [hm.base, hm.issue] at hnear hfar
  refine ⟨_, o, hx, hi, hp.gops ▸ hm.mem, hm.id, hm.kind_eq, hm.gang, hm.sz, hm.aop, hm.lanes, fun a ha => ?_, fun h => ?_,
    ⟨hnear, hfar, ?_, ?_, ?_⟩, ?_, ?_⟩
  · obtain ⟨hv, hf, hd⟩ := hm.lane a ha
    refine ⟨hv, hf, hm.issue ▸ (hm.fresh a ha).1, fun h1 h2 => hm.p a ha ?_ h2, fun h => ?_, fun h => ?_⟩
    · obtain h | rfl | rfl := h1 <;> simp [GlobalKind.fixes, *]
    · have e : a.data = (c.globalData w kind a.lane).1 := congrArg (·.1) hd
      rw [e]
      obtain rfl | rfl | rfl := h <;> simp only [LCtx.globalData, LCtx.datum, LCtx.stored, LCtx.opC, beq_iff_eq]
    · subst h
      simp only [LCtx.globalData, beq_iff_eq] at hd
      unfold LCtx.stored LCtx.compared LCtx.opC
      split_ifs at hd ⊢ <;> exact Prod.mk.inj hd
  · refine hm.dests ?_
    obtain rfl | rfl | rfl := h <;> rfl
  · rintro rfl
    obtain ⟨h1, h2⟩ := u.pushOp_delivers (o := o) (by simp [GlobalOp.isLoad, hm.kind_eq])
    rw [hm.base, hm.issue, hm.kind_eq, hlat, GlobalOp.delivery,
      if_neg (by simp [GlobalOp.isAtomic, hm.kind_eq])] at h1 h2
    exact ⟨h1, h2⟩
  · intro hk'
    have ha : o.isAtomic = true := by obtain rfl | rfl := hk' <;> simp [GlobalOp.isAtomic, hm.kind_eq]
    obtain ⟨h1, h2⟩ := u.pushOp_delivers (o := o) (by simp [ha])
    rw [hm.base, hm.issue, hm.kind_eq, hlat, GlobalOp.delivery, if_pos ha] at h1 h2
    exact ⟨h1, h2⟩
  · intro hk'
    have h1 := u.pushOp_completes (o := o) (by
      obtain rfl | rfl := hk' <;> simp [GlobalOp.isLoad, GlobalOp.isAtomic, hm.kind_eq])
    rw [hm.base, hm.issue, hm.kind_eq, hlat] at h1
    exact h1
  all_goals
    rw [hp.core, hm.core]
    simp only [gangKinds, List.mem_cons, Prod.mk.injEq, List.not_mem_nil, or_false] at hk
    obtain ⟨rfl, rfl⟩ | ⟨rfl, rfl⟩ | ⟨rfl, rfl⟩ | ⟨rfl, rfl⟩ | ⟨rfl, rfl⟩ := hk <;> simp

/-- Settles O30: each global access makes one operation, whose steps are on the agenda. -/
theorem laneGlobalAccesses : Obligations.LaneGlobalAccesses := by
  intro e he w s c hc
  simp only [List.mem_cons, List.not_mem_nil, or_false] at he
  obtain rfl | rfl | rfl | rfl | rfl | rfl | rfl := he
  · exact globalAccess_effect (kind := .load) (order := false) (Eq.trans (b := execLdg w s) rfl rfl) rfl (by decide) hc
  · exact globalAccess_effect (kind := .load) (order := true) (Eq.trans (b := execLdgAcq w s) rfl rfl) rfl (by decide) hc
  · exact globalAccess_effect (kind := .store) (order := false) (Eq.trans (b := execStg w s) rfl rfl) rfl (by decide) hc
  · exact globalAccess_effect (kind := .store) (order := true) (Eq.trans (b := execStgRel w s) rfl rfl) rfl (by decide) hc
  · exact globalAccess_effect (kind := .atomic) (order := false) (Eq.trans (b := execAtg w s) rfl rfl) rfl (by decide) hc
  · exact globalAccess_effect (kind := .cas) (order := false) (Eq.trans (b := execCasg w s) rfl rfl) rfl (by decide) hc
  · exact globalAccess_effect (kind := .reduce) (order := false) (Eq.trans (b := execRedg w s) rfl rfl) rfl (by decide) hc

end Sys2Proof.Machine
end

section
/-! PROOFS. What memory reads after a write, what a landing leaves in registers, what a stop leaves in a gang. -/
namespace Sys2Proof.Machine

/-! ### Memory after a write -/

theorem leBytes_getD (n x i : Nat) (h : i < n) : (leBytes n x).getD i 0 = BitVec.ofNat 8 (x / 256 ^ i) := by
  induction n generalizing x i with
  | zero => omega
  | succ n ih =>
    cases i with
    | zero => simp [leBytes]
    | succ i =>
      rw [leBytes, List.getD_cons_succ, ih _ _ (by omega), Nat.div_div_eq_div_mul, Nat.pow_succ, Nat.mul_comm 256]

theorem State.look_writeHbm {s : State} (h : Store.wf 0 s.hbm = true) (pa : Nat) (bs : List Byte) (a : Nat) :
    (s.writeHbm pa bs).look .hbm a =
      if pa ≤ a ∧ a < pa + bs.length then (bs.getD (a - pa) 0).toNat else s.look .hbm a := by
  simp only [State.look, State.writeHbm, Store.get_putRun s.hbm h]
  split <;> rfl

theorem State.look_writeHbm_outside {s : State} (h : Store.wf 0 s.hbm = true) (pa : Nat) (bs : List Byte) {a : Nat}
    (ha : a < pa ∨ pa + bs.length ≤ a) : (s.writeHbm pa bs).look .hbm a = s.look .hbm a := by
  rw [State.look_writeHbm h, if_neg (by omega)]

theorem getRun_putRun {α : Type} [DecidableEq α] {d : α} {m : Store α} (h : Store.wf d m = true) (a : Nat) (bs : List α) :
    Store.getRun d bs.length (Store.putRun d m a bs) a = bs := by
  rw [Store.getRun_eq _ _ (Store.wf_putRun _ h ..)]
  refine List.ext_getElem (by simp) fun i h1 h2 => ?_
  simp only [List.getElem_map, List.getElem_range, Store.get_putRun m h]
  rw [if_pos (by omega), Nat.add_sub_cancel_left, List.getD_eq_getElem _ _ h2]

theorem State.readHbm_writeHbm {s : State} (h : Store.wf 0 s.hbm = true) (pa : Nat) (bs : List Byte) :
    (s.writeHbm pa bs).readHbm pa bs.length = bs := getRun_putRun h pa bs

theorem State.readHbm_leBytes {s : State} (h : Store.wf 0 s.hbm = true) (pa n x : Nat) :
    ofLeBytes ((s.writeHbm pa (leBytes n x)).readHbm pa n) = x % 2 ^ (8 * n) := by
  have e := State.readHbm_writeHbm h pa (leBytes n x)
  rw [leBytes_length] at e
  rw [e, ofLeBytes_leBytes]

/-! ### A global operation by its number -/

theorem State.gop?_id {s : State} {id : Nat} {o : GlobalOp} (h : s.gop? id = some o) : o.id = id := by
  simpa using List.find?_some h

theorem State.gop?_modGop (s : State) (id : Nat) (f : GlobalOp → GlobalOp) (hf : ∀ o, (f o).id = o.id) :
    (s.modGop id f).gop? id = (s.gop? id).map f := by
  have hp : (fun o : GlobalOp => o.id == id) ∘ (fun o => if o.id = id then f o else o) = fun o => o.id == id := by
    funext o
    simp only [Function.comp]
    split <;> simp [hf]
  unfold State.gop? State.modGop
  rw [List.find?_map, hp]
  cases h : s.gops.find? fun o => o.id == id with
  | none => rfl
  | some o => rw [Option.map_some, Option.map_some, if_pos (by simpa using List.find?_some h)]

theorem State.gop?_dropGop (s : State) (id : Nat) : (s.dropGop id).gop? id = none := by
  simp [State.gop?, State.dropGop]

theorem State.gop?_congr {s t : State} (h : t.gops = s.gops) (id : Nat) : t.gop? id = s.gop? id := by
  simp only [State.gop?, h]

theorem State.gang?_congr {s t : State} (h : t.heats = s.heats) (g : GangRef) : t.gang? g = s.gang? g := by
  simp only [State.gang?, State.team?, State.heat?, h]

/-! ### The registers after a landing -/

theorem Gang.clearFlag_file (g : Gang) (i now : Nat) : (g.clearFlag i now).file = g.file := by
  unfold Gang.clearFlag
  split <;> rfl

/-- The masks after a landing. -/
def landMasks (m : Store Word) (ms : List (Nat × Word × Word)) : Store Word :=
  (ms.filter fun e => e.1 ≠ 0).foldl (fun m e => Store.set 0xFFFFFFFF m e.1
    ((Store.get 0xFFFFFFFF m e.1 &&& ~~~e.2.1) ||| (e.2.2 &&& e.2.1))) m

theorem Gang.land_file (g : Gang) (r : LaneLanding) (now : Nat) : (g.land r now).file =
    (Store.setAll 0 g.v r.vs, landMasks g.m r.ms, Store.setAll 0 g.x r.xs, Store.setAll 0 g.win r.wins) := by
  unfold Gang.land
  dsimp only
  split
  · exact Gang.clearFlag_file ..
  · rfl

theorem landMasks_other (m : Store Word) (ms : List (Nat × Word × Word)) (n : Nat) (h : ∀ e ∈ ms, e.1 ≠ n) :
    Store.get 0xFFFFFFFF (landMasks m ms) n = Store.get 0xFFFFFFFF m n := by
  unfold landMasks
  induction ms generalizing m with
  | nil => rfl
  | cons e r ih =>
    have hr : ∀ e ∈ r, e.1 ≠ n := fun e he => h e (List.mem_cons_of_mem _ he)
    rw [List.filter_cons]
    split
    · rw [List.foldl_cons, ih _ hr, Store.get_set, if_neg fun hn => h e (List.mem_cons_self ..) hn.symm]
    · exact ih m hr

theorem landMasks_of_mem (ms : List (Nat × Word × Word)) (hn : (ms.map (·.1)).Nodup) (m : Store Word) (e : Nat × Word × Word)
    (he : e ∈ ms) (h0 : e.1 ≠ 0) : Store.get 0xFFFFFFFF (landMasks m ms) e.1 =
      (Store.get 0xFFFFFFFF m e.1 &&& ~~~e.2.1) ||| (e.2.2 &&& e.2.1) := by
  induction ms generalizing m with
  | nil => cases he
  | cons f r ih =>
    obtain ⟨hf, hn⟩ := List.nodup_cons.1 hn
    obtain rfl | he := List.mem_cons.1 he
    · have hr : ∀ f ∈ r, f.1 ≠ e.1 := fun f hf' h => hf (List.mem_map.2 ⟨f, hf', h⟩)
      have := landMasks_other (Store.set 0xFFFFFFFF m e.1
        ((Store.get 0xFFFFFFFF m e.1 &&& ~~~e.2.1) ||| (e.2.2 &&& e.2.1))) r e.1 hr
      rw [Store.get_set, if_pos rfl] at this
      unfold landMasks at this ⊢
      rw [List.filter_cons, if_pos (by simpa using h0), List.foldl_cons]
      exact this
    · have hne : e.1 ≠ f.1 := fun h => hf (List.mem_map.2 ⟨e, he, h⟩)
      by_cases hf0 : f.1 = 0
      · have := ih hn m he
        unfold landMasks at this ⊢
        rwa [List.filter_cons, if_neg (by simpa using hf0)]
      · have := ih hn (Store.set 0xFFFFFFFF m f.1
          ((Store.get 0xFFFFFFFF m f.1 &&& ~~~f.2.1) ||| (f.2.2 &&& f.2.1))) he
        rw [Store.get_set, if_neg hne] at this
        unfold landMasks at this ⊢
        rwa [List.filter_cons, if_pos (by simpa using hf0), List.foldl_cons]

/-- A change of a gang leaves the registers of every other gang and of every team. -/
theorem State.reg_modGang_other (s : State) (g : GangRef) (f : Gang → Gang) (q : Reg) (h : q.gang? ≠ some g) :
    (s.modGang g f).reg q = s.reg q := by
  have hg : ∀ r, r ≠ g → (s.modGang g f).gang? r = s.gang? r := fun r hr => by rw [State.gang?_modGang, if_neg hr]
  have ht : ∀ (r : TeamRef) (p : Team → Nat), (∀ y l, p { y with gangs := l } = p y) →
      ((s.modGang g f).team? r).map p = (s.team? r).map p := by
    intro r p hp
    rw [State.modGang, State.team?_modTeam]
    split
    · cases s.team? r <;> simp [hp]
    · rfl
  cases q with
  | v r _ _ => simp only [State.reg, hg r fun e => h (e ▸ rfl)]
  | mask r _ => simp only [State.reg, hg r fun e => h (e ▸ rfl)]
  | index r _ _ => simp only [State.reg, hg r fun e => h (e ▸ rfl)]
  | window r _ => simp only [State.reg, hg r fun e => h (e ▸ rfl)]
  | k r _ => exact ht r _ fun _ _ => rfl
  | pred r _ => exact ht r _ fun _ _ => rfl
  | gen r _ => exact ht r _ fun _ _ => rfl

/-- A LANDING LEAVES what it names in the registers of its gang and every other register as it was. -/
theorem landed_of_land {s : State} {g : GangRef} {x : Gang} (r : LaneLanding) (hx : s.gang? g = some x) (hr : apartLanding r) :
    Landed s (s.modGang g fun y => y.land r s.now) g r := by
  obtain ⟨hv, hm, hxs, hw⟩ := hr
  have ht : (s.modGang g fun y => y.land r s.now).gang? g = some (x.land r s.now) := by
    rw [State.gang?_modGang, if_pos rfl, hx, Option.map_some]
  have hfile := Prod.ext_iff.1 (x.land_file r s.now)
  obtain ⟨ev, hfile⟩ := hfile
  obtain ⟨em, hfile⟩ := Prod.ext_iff.1 hfile
  obtain ⟨ex, ew⟩ := Prod.ext_iff.1 hfile
  replace ev : (x.land r s.now).v = Store.setAll 0 x.v r.vs := ev
  replace em : (x.land r s.now).m = landMasks x.m r.ms := em
  replace ex : (x.land r s.now).x = Store.setAll 0 x.x r.xs := ex
  replace ew : (x.land r s.now).win = Store.setAll 0 x.win r.wins := ew
  have h32 : ∀ n : Nat, 32 * (n / 32) + n % 32 = n := fun n => Nat.div_add_mod n 32
  constructor
  case vs =>
    intro e he
    rw [State.reg, ht, Option.map_some, Gang.vreg, ev, h32, Store.get_setAll_of_mem _ _ hv e he]
  case xs =>
    intro e he
    rw [State.reg, ht, Option.map_some, ex, h32, Store.get_setAll_of_mem _ _ hxs e he]
  case wins =>
    intro e he
    rw [State.reg, ht, Option.map_some, ew, Store.get_setAll_of_mem _ _ hw e he]
  case ms =>
    intro e he h0
    rw [State.reg, ht, hx, Option.map_some, Option.map_some, Gang.mask, Gang.mask, if_neg h0, if_neg h0, em,
      landMasks_of_mem _ hm _ e he h0]
  case otherV =>
    intro n l _ h
    rw [State.reg, State.reg, ht, hx, Option.map_some, Option.map_some, Gang.vreg, ev, Store.get_setAll_of_not_mem _ _ _ h]
    rfl
  case otherX =>
    intro n l _ h
    rw [State.reg, State.reg, ht, hx, Option.map_some, Option.map_some, ex, Store.get_setAll_of_not_mem _ _ _ h]
  case otherM =>
    intro n h
    rw [State.reg, State.reg, ht, hx, Option.map_some, Option.map_some, Gang.mask, Gang.mask]
    split
    · rfl
    · rename_i h0
      rw [em, landMasks_other _ _ _ (h.resolve_left h0)]
  case otherW =>
    intro n h
    rw [State.reg, State.reg, ht, hx, Option.map_some, Option.map_some, ew, Store.get_setAll_of_not_mem _ _ _ h]
  case others => exact fun q hq => State.reg_modGang_other _ _ _ q hq

theorem Landed.congr {s t u : State} {g : GangRef} {r : LaneLanding} (h : Landed s u g r) (hf : t.files = u.files) :
    Landed s t g r := by
  have e : ∀ q, t.reg q = u.reg q := reg_of_files hf
  obtain ⟨h1, h2, h3, h4, h5, h6, h7, h8, h9⟩ := h
  constructor <;> simp only [e] <;> assumption

/-! ### Completion flags -/

theorem Gang.clearFlag_flag (x : Gang) (f now : Nat) (h : Store.get 0 x.flagMin f ≤ now) :
    (x.clearFlag f now).flags.getLsbD f = false := by
  rw [Gang.clearFlag, if_neg (by omega)]
  by_cases hf : f < 12
  · simp [hf]
  · exact BitVec.getLsbD_of_ge _ _ (by omega)

theorem Gang.land_flag (x : Gang) (r : LaneLanding) (f now : Nat) (hf : r.flag = some f) (h : Store.get 0 x.flagMin f ≤ now) :
    (x.land r now).flags.getLsbD f = false := by
  unfold Gang.land
  simp only [hf]
  exact Gang.clearFlag_flag _ _ _ h

theorem flagCleared_of_land {s : State} {g : GangRef} (r : LaneLanding) :
    flagCleared s (s.modGang g fun y => y.land r s.now) g r.flag := by
  intro f x hf hx hm
  rw [State.gang?_modGang, if_pos rfl, hx, Option.map_some, Option.map_some, Gang.land_flag x r f s.now hf hm]

theorem flagCleared_of_clear (s u : State) (g : GangRef) (o : Option Nat) (hu : u.heats = s.heats) (hn : u.now = s.now) :
    flagCleared s (u.clearGangFlag g o) g o := by
  rintro f x rfl hx hm
  rw [State.clearGangFlag, State.gang?_modGang, if_pos rfl, State.gang?_congr hu, hx, Option.map_some, Option.map_some, hn,
    Gang.clearFlag_flag x f s.now hm]

theorem flagCleared.congr {s t u : State} {g : GangRef} {f : Option Nat} (h : flagCleared s u g f) (ht : t.heats = u.heats) :
    flagCleared s t g f := fun i x hf hx hm => by rw [State.gang?_congr ht]; exact h i x hf hx hm

/-! ### Streams that stop -/

/-- The groups that a stop names have stopped. -/
theorem State.stopGroups_stopped {s : State} {g : GangRef} (q : BitVec 8) (hg : s.gang? g ≠ none) :
    (s.stopGroups g q).quadsStopped g q := by
  obtain ⟨x, hx⟩ := Option.ne_none_iff_exists'.1 hg
  obtain ⟨y, hy, hyx⟩ := Option.bind_eq_some_iff.1 hx
  obtain ⟨h, hh, -⟩ := Option.bind_eq_some_iff.1 hy
  unfold State.stopGroups
  rw [hh, hy]
  refine ⟨_, by rw [State.gang?_modGang, if_pos rfl, hx, Option.map_some], fun gr hgr hq => ?_⟩
  obtain ⟨gr', -, rfl⟩ := List.mem_map.1 hgr
  split
  · rename_i h0; rw [if_pos h0] at hq; exact absurd h0 hq
  · rfl

theorem State.quadsStopped_congr {s t : State} {g : GangRef} {q : BitVec 8} (h : s.quadsStopped g q) (ht : t.heats = s.heats) :
    t.quadsStopped g q := by
  obtain ⟨x, hx, hs⟩ := h
  exact ⟨x, (State.gang?_congr ht g).trans hx, hs⟩

theorem State.stopNamed_stopped {s : State} {d : Detect} {g : GangRef} (hn : namesGang d g) (hg : s.gang? g ≠ none) :
    (s.stopNamed d).quadsStopped g (BitVec.ofNat 8 d.qmask) := by
  obtain ⟨h0, h1, h2, h3⟩ := hn
  have e : (⟨d.hid, d.team, d.gang⟩ : GangRef) = g := by rw [h1, h2, h3]
  rw [State.stopNamed, if_pos h0, e]
  exact State.stopGroups_stopped _ hg

/-- A stop changes nothing but the heats. -/
theorem State.stopGroups_eq (s : State) (g : GangRef) (q : BitVec 8) : ∃ hs, s.stopGroups g q = { s with heats := hs } := by
  unfold State.stopGroups
  split
  · exact ⟨_, rfl⟩
  · exact ⟨s.heats, rfl⟩

theorem State.stopCox_eq (s : State) (r : TeamRef) : ∃ hs, s.stopCox r = { s with heats := hs } := by
  unfold State.stopCox
  split
  · exact ⟨_, rfl⟩
  · exact ⟨s.heats, rfl⟩

theorem State.stopNamed_eq (s : State) (d : Detect) : ∃ hs, s.stopNamed d = { s with heats := hs } := by
  unfold State.stopNamed
  repeat' split
  · exact State.stopGroups_eq ..
  · exact State.stopCox_eq ..
  · exact ⟨s.heats, rfl⟩

theorem State.stopNamed_detects (s : State) (d : Detect) : (s.stopNamed d).detects = s.detects := by
  obtain ⟨hs, e⟩ := s.stopNamed_eq d
  rw [e]

theorem State.stopNamed_gops (s : State) (d : Detect) : (s.stopNamed d).gops = s.gops := by
  obtain ⟨hs, e⟩ := s.stopNamed_eq d
  rw [e]

end Sys2Proof.Machine
end

section
/-! PROOFS. Global accesses at their stack cycle (O48). -/
namespace Sys2Proof.Machine

/-! ### Stack cycles leave streams, operations and detections as they were -/

/-- What a use of a stack leaves: the heats, the operations, the detections, the agenda, the cycle. -/
def State.streams (s : State) : List Heat × List GlobalOp × List Detect × List Due × Nat :=
  (s.heats, s.gops, s.detects, s.agenda, s.now)

theorem State.hbmCorrected_streams (s : State) (k : Nat) : (s.hbmCorrected k).streams = s.streams := by
  unfold State.hbmCorrected
  split <;> rfl

/-- A stack marked as used in the current grain, before its errors of the cycle. -/
def State.useStack (s : State) (k : Nat) : State :=
  let x := Store.get StackFrame.init s.stackFrames k
  let u := if x.grain = s.now / 64 + 1 then s else s.tick 5 k 1
  State.hbmCorrected { u with stackFrames := Store.set StackFrame.init u.stackFrames k { x with grain := s.now / 64 + 1 } } k

/-- An error of a stack taken, counted when a retry corrects it. -/
def State.takeStackError (s : State) (e : Nat × Nat × Bool) : State :=
  let w : State := { s with env := { s.env with hbmErrors := s.env.hbmErrors.filter (· ≠ e) } }
  if e.2.2 then w else w.tick 6 0 1

/-- One access at a stack: its mark in the grain, then a late refresh, the errors of the cycle, or none. -/
theorem State.stackUse_eq (s : State) (k : Nat) : s.stackUse k =
    let f := s.now / 4096
    let x := Store.get StackFrame.init s.stackFrames k
    let n := if x.frame = f then x.retries else 0
    let used : StackFrame := { x with grain := s.now / 64 + 1 }
    let put (s : State) (y : StackFrame) : State := { s with stackFrames := Store.set StackFrame.init s.stackFrames k y }
    let v := s.useStack k
    if v.lateRefresh k v.now then (some 0x83, v)
    else match v.env.hbmErrors.find? (fun e => e.1 == k && e.2.1 == v.now) with
      | none => (if n ≥ 2 then some 0x84 else none, v)
      | some e =>
        if n ≥ 1 then (some 0x84, put (v.takeStackError e)
          { used with frame := f, retries := 2, overrun := true, lateRefresh := some (f + 1) })
        else (if e.2.2 then some 0xF2 else none, put (v.takeStackError e) { used with frame := f, retries := 1, overrun := false }) :=
  rfl

theorem State.useStack_streams (s : State) (k : Nat) : (s.useStack k).streams = s.streams := by
  refine (State.hbmCorrected_streams ..).trans ?_
  split <;> rfl

theorem State.takeStackError_streams (s : State) (e : Nat × Nat × Bool) : (s.takeStackError e).streams = s.streams := by
  unfold State.takeStackError
  dsimp only
  split <;> rfl

theorem State.stackUse_streams (s : State) (k : Nat) : (s.stackUse k).2.streams = s.streams := by
  rw [State.stackUse_eq, ← State.useStack_streams s k]
  generalize s.useStack k = v
  dsimp only
  repeat' split
  all_goals first | rfl | exact State.takeStackError_streams ..

theorem State.laneStack_streams (s : State) (h : Heat) (t : Team) (l : LaneAcc) : (s.laneStack h t l).2.streams = s.streams :=
  State.stackUse_streams ..

/-- The breaches of lanes at their own stack cycles, in order. -/
def State.lanesStack (s : State) (h : Heat) (t : Team) (ls : List LaneAcc) : List (Nat × Nat × Nat) × State :=
  ls.foldl (fun (acc : List (Nat × Nat × Nat) × State) l =>
    let r := acc.2.laneStack h t l
    (acc.1 ++ r.1.map fun c => (l.lane, c.1, c.2), r.2)) (([] : List (Nat × Nat × Nat)), s)

theorem State.lanesStack_streams (s : State) (h : Heat) (t : Team) (ls : List LaneAcc) :
    (s.lanesStack h t ls).2.streams = s.streams := by
  have hf : ∀ acc : List (Nat × Nat × Nat) × State, (ls.foldl (fun (acc : List (Nat × Nat × Nat) × State) l =>
      ((acc.1 ++ (acc.2.laneStack h t l).1.map fun c => (l.lane, c.1, c.2), (acc.2.laneStack h t l).2) : _ × State)) acc).2.streams =
        acc.2.streams := by
    induction ls with
    | nil => exact fun _ => rfl
    | cons l r ih => exact fun acc => (ih _).trans (State.laneStack_streams acc.2 h t l)
  exact hf _

/-! ### The causes of a stack cycle -/

/-- A stack takes an access now with no cause that lies below those of R333 to R339. -/
theorem State.stackUse_cause (s : State) (k c : Nat) (h : (s.stackUse k).1 = some c) : 0x64 < c := by
  rw [State.stackUse_eq] at h
  generalize s.useStack k = v at h
  dsimp only at h
  repeat' split at h
  all_goals first | cases h | obtain rfl := Option.some.inj h
  all_goals decide

theorem State.laneStack_cause (s : State) (h : Heat) (t : Team) (l : LaneAcc) : ∀ e ∈ (s.laneStack h t l).1, 0x64 < e.1 := by
  intro e he
  simp only [State.laneStack, List.mem_append] at he
  obtain (he | he) | he := he
  · split at he <;> simp at he
    rw [he]; show 0x64 < 0x65; decide
  · split at he
    · rename_i c hc
      obtain rfl : e = (c, l.va) := by simpa using he
      unfold stackBreach at hc
      dsimp only at hc
      repeat' split at hc
      all_goals simp at hc
      all_goals subst hc; simp
    · simp at he
  · split at he
    · rename_i c hc
      obtain rfl : e = (c, l.va) := by simpa using he
      exact State.stackUse_cause s _ c hc
    · simp at he

theorem State.lanesStack_cause (s : State) (h : Heat) (t : Team) (ls : List LaneAcc) :
    ∀ e ∈ (s.lanesStack h t ls).1, 0x64 < e.2.1 := by
  have hf : ∀ acc : List (Nat × Nat × Nat) × State, (∀ e ∈ acc.1, 0x64 < e.2.1) →
      ∀ e ∈ (ls.foldl (fun (acc : List (Nat × Nat × Nat) × State) l =>
        ((acc.1 ++ (acc.2.laneStack h t l).1.map fun c => (l.lane, c.1, c.2), (acc.2.laneStack h t l).2) : _ × State)) acc).1,
        0x64 < e.2.1 := by
    induction ls with
    | nil => exact fun _ h => h
    | cons l r ih =>
      refine fun acc hacc => ih _ fun e he => ?_
      obtain he | he := List.mem_append.1 he
      · exact hacc e he
      · obtain ⟨x, hx, rfl⟩ := List.mem_map.1 he
        exact State.laneStack_cause _ h t l x hx
  exact hf _ (by simp)

/-- A window's refusal has a cause below those of R333 to R339. -/
theorem translate_cause {wins : List Window} {va c : Nat} {write : Bool} (h : translate wins va write = .fail c) : c ≤ 0x63 := by
  unfold translate at h
  repeat' split at h
  all_goals simp at h
  all_goals subst h; decide

theorem lowest_spec {l : List Nat} {c : Nat} (h : lowest l = some c) : c ∈ l ∧ ∀ x ∈ l, c ≤ x := by
  cases l with
  | nil => simp [lowest] at h
  | cons a r =>
    obtain rfl : r.foldl min a = c := by simpa [lowest] using h
    clear h
    induction r generalizing a with
    | nil => simp
    | cons b r ih =>
      rw [List.foldl_cons]
      obtain ⟨hm, hl⟩ := ih (min a b)
      refine ⟨?_, fun x hx => ?_⟩
      · obtain h | h := List.mem_cons.1 hm
        · rw [h]; rcases Nat.le_total a b with hab | hab <;> simp [hab]
        · simp [h]
      · have h0 := hl (min a b) (by simp)
        simp only [List.mem_cons] at hx
        obtain rfl | rfl | hx := hx
        · omega
        · omega
        · exact hl x (by simp [hx])

theorem worstLane_spec {cs : List (Nat × Nat × Nat)} {x : Nat × BitVec 32 × Nat} (h : worstLane cs = some x) :
    (∃ e ∈ cs, e.2.1 = x.1) ∧ ∀ e ∈ cs, x.1 ≤ e.2.1 := by
  unfold worstLane at h
  split at h
  · cases h
  · rename_i c hc
    obtain ⟨hm, hl⟩ := lowest_spec hc
    obtain rfl := Option.some.inj h
    obtain ⟨e, he, rfl⟩ := List.mem_map.1 hm
    exact ⟨⟨e, he, rfl⟩, fun y hy => hl _ (List.mem_map_of_mem hy)⟩

theorem worstLane_cons (e : Nat × Nat × Nat) (cs : List (Nat × Nat × Nat)) : worstLane (e :: cs) ≠ none := by
  simp [worstLane, lowest]

/-! ### A stack that is fine -/

theorem Store.get_eq_find {α : Type} (d : α) (s : Store α) (k : Nat) :
    Store.get d s k = ((s.find? fun e => e.1 == k).map (·.2)).getD d := by
  induction s with
  | nil => rfl
  | cons e r ih =>
    obtain ⟨a, v⟩ := e
    rw [Store.get, List.find?_cons]
    by_cases h : a = k
    · simp [h]
    · rw [if_neg h, ih, show (a == k) = false by simpa using h]

theorem State.lateRefresh_eq (s : State) (k c : Nat) : s.lateRefresh k c =
    match (Store.get StackFrame.init s.stackFrames k).lateRefresh with
    | some f => f == c / 4096 && decide (c % 4096 < 96)
    | none => false := by
  rw [Store.get_eq_find, State.lateRefresh]
  cases s.stackFrames.find? fun e => e.1 == k <;> rfl

/-- A stack of which a use leaves what `stackFine` asks. -/
theorem State.stackFine_congr {s t : State} {k : Nat} (hn : t.now = s.now) (he : t.env.hbmErrors = s.env.hbmErrors)
    (hf : (Store.get StackFrame.init t.stackFrames k).frame = (Store.get StackFrame.init s.stackFrames k).frame ∧
      (Store.get StackFrame.init t.stackFrames k).retries = (Store.get StackFrame.init s.stackFrames k).retries ∧
      (Store.get StackFrame.init t.stackFrames k).lateRefresh = (Store.get StackFrame.init s.stackFrames k).lateRefresh)
    (h : s.stackFine k) : t.stackFine k := by
  obtain ⟨h1, h2, h3⟩ := hf
  unfold State.stackFine at h ⊢
  rw [State.lateRefresh_eq] at h ⊢
  simpa only [hn, he, h1, h2, h3] using h

theorem State.hbmCorrected_fine (s : State) (k j : Nat) (h : s.stackFine j) : (s.hbmCorrected k).stackFine j := by
  unfold State.hbmCorrected
  split
  · exact State.stackFine_congr rfl rfl ⟨rfl, rfl, rfl⟩ h
  · exact h

theorem State.useStack_fine {s : State} {k j : Nat} (h : s.stackFine j) : (s.useStack k).stackFine j := by
  have e : ∀ c : Prop, [Decidable c] → (if c then s else s.tick 5 k 1).stackFrames = s.stackFrames ∧
      (if c then s else s.tick 5 k 1).now = s.now ∧ (if c then s else s.tick 5 k 1).env = s.env := by
    intro c _; split <;> exact ⟨rfl, rfl, rfl⟩
  refine State.hbmCorrected_fine _ _ _ (State.stackFine_congr (e _).2.1 (congrArg _ (e _).2.2) ?_ h)
  dsimp only
  rw [(e _).1, Store.get_set]
  split
  · rename_i hj; subst hj; exact ⟨rfl, rfl, rfl⟩
  · exact ⟨rfl, rfl, rfl⟩

/-- A use of a stack that is fine breaks nothing. -/
theorem State.stackUse_fine {s : State} {k : Nat} (h : s.stackFine k) : s.stackUse k = (none, s.useStack k) := by
  have h' := State.useStack_fine (k := k) h
  obtain ⟨hf, -, -⟩ := h
  rw [State.stackUse_eq]
  generalize s.useStack k = v at h' ⊢
  obtain ⟨-, hl, he⟩ := h'
  have hfind : v.env.hbmErrors.find? (fun e => e.1 == k && e.2.1 == v.now) = none := by
    rw [List.find?_eq_none]
    intro e hm
    simpa using he e hm
  dsimp only
  rw [hl, hfind]
  simp only [Bool.false_eq_true, if_false]
  rw [if_neg]
  split
  · rename_i h1; have := hf h1; omega
  · omega

/-- Lanes whose stack cycles break no rule of their own. -/
theorem State.lanesStack_clear {h : Heat} {t : Team} {ls : List LaneAcc} {s : State} (hc : ∀ l ∈ ls, s.stackClear h t l.va) :
    (s.lanesStack h t ls).1 = [] := by
  have hf : ∀ (u : State), u.now = s.now → (∀ j, s.stackFine j → u.stackFine j) →
      (ls.foldl (fun (acc : List (Nat × Nat × Nat) × State) l =>
        ((acc.1 ++ (acc.2.laneStack h t l).1.map fun c => (l.lane, c.1, c.2), (acc.2.laneStack h t l).2) : _ × State))
          (([] : List (Nat × Nat × Nat)), u)).1 = [] := by
    induction ls with
    | nil => exact fun _ _ _ => rfl
    | cons l r ih =>
      intro u hn hu
      obtain ⟨h1, h2, h3⟩ := hc l (by simp)
      have e : u.laneStack h t l = ([], u.useStack (stackOf l.va)) := by
        simp only [State.laneStack, hn, h1, h2, State.stackUse_fine (hu _ h3), List.append_nil]
      rw [List.foldl_cons, e]
      have hs : (u.useStack (stackOf l.va)).streams = u.streams := by
        have := State.stackUse_streams u (stackOf l.va)
        rwa [State.stackUse_fine (hu _ h3)] at this
      exact ih (fun l hl => hc l (by simp [hl])) _ ((congrArg (·.2.2.2.2) hs).trans hn) fun j hj => State.useStack_fine (hu j hj)
  exact hf s rfl fun _ h => h

/-! ### The stack cycle of lanes -/

/-- The windows' refusals of an operation's lanes. -/
def GlobalOp.refused (o : GlobalOp) (t : Team) : List (Nat × Nat × Nat) := o.lanes.filterMap fun l =>
  match translate t.wins l.va (!o.isLoad) with
  | .fail c => some (l.lane, c, l.va)
  | .ok .. => none

/-- A lane that passes its stack cycle, with its physical address. -/
def GlobalOp.pass (o : GlobalOp) (t : Team) (mask : BitVec 32) (l : LaneAcc) : LaneAcc :=
  if l.ok || !mask.getLsbD l.lane then l
  else match translate t.wins l.va (!o.isLoad) with
    | .ok pa _ _ => { l with ok := true, pa := pa }
    | .fail _ => { l with ok := true }

/-- The lanes of an operation at a stack cycle, with what they break. -/
def State.stackBreaches (s : State) (o : GlobalOp) (h : Heat) (t : Team) (mask : BitVec 32) : List (Nat × Nat × Nat) × State :=
  s.lanesStack h t (o.lanes.filter fun l => mask.getLsbD l.lane && !l.ok)

theorem State.stackLanes_eq {s : State} {id : Nat} {mask : BitVec 32} {first : Bool} {o : GlobalOp} {h : Heat} {t : Team}
    (ho : s.gop? id = some o) (hh : s.heat? o.hid = some h) (ht : s.team? o.teamRef = some t) (hot : o.hot = false) :
    s.stackLanes id mask first =
      match worstLane ((if !first then [] else o.refused t) ++ (s.stackBreaches o h t mask).1) with
      | none => (s.stackBreaches o h t mask).2.modGop id fun o' => { o' with lanes := o'.lanes.map (o.pass t mask) }
      | some (cause, lanes, addr) =>
        (((s.stackBreaches o h t mask).2.modGop id fun o => { o with hot := true }).stopNamed o.blame).detect
          { o.blame with cause := cause, lanes := lanes, addr := addr, info := stackOf addr } := by
  unfold State.stackLanes
  rw [ho]
  dsimp only
  rw [hh, ht]
  dsimp only
  rw [if_neg (by rw [hot]; exact Bool.false_ne_true)]
  rfl

theorem State.stackBreaches_streams (s : State) (o : GlobalOp) (h : Heat) (t : Team) (mask : BitVec 32) :
    (s.stackBreaches o h t mask).2.streams = s.streams := State.lanesStack_streams ..

theorem State.stackBreaches_kept (ps : List Space) (s : State) (o : GlobalOp) (h : Heat) (t : Team) (mask : BitVec 32) :
    (s.stackBreaches o h t mask).2.kept ps = s.kept ps :=
  foldl_kept_snd ps (fun (acc : List (Nat × Nat × Nat) × State) l =>
    ((acc.1 ++ (acc.2.laneStack h t l).1.map fun c => (l.lane, c.1, c.2), (acc.2.laneStack h t l).2) : _ × State))
    (fun a l => State.laneStack_kept ps a.2 h t l) _ _

theorem files_of_heats {s t : State} (h : t.heats = s.heats) : t.files = s.files := by
  rw [State.files_eq, State.files_eq, h]

theorem exec_stackAccess {s : State} {id : Nat} {mask : BitVec 32} {first : Bool} (ha : s.arg = .stackAccess (.lanes id mask first)) :
    exec .stackAccess s = .next (s.stackLanes id mask first) := by
  show execStackAccess s = _
  unfold execStackAccess
  rw [ha]

/-- Lanes that break nothing pass with their physical addresses. -/
theorem stackLanes_pass {s : State} {id : Nat} {mask : BitVec 32} {first : Bool} {o : GlobalOp} {h : Heat} {x : Team}
    (ha : s.arg = .stackAccess (.lanes id mask first)) (ho : s.gop? id = some o) (hh : s.heat? o.hid = some h)
    (hx : s.team? o.teamRef = some x) (hot : o.hot = false)
    (hw : first = true → ∀ l ∈ o.lanes, ∀ c, translate x.wins l.va (!o.isLoad) ≠ .fail c)
    (hs : ∀ l ∈ o.lanes, mask.getLsbD l.lane = true → s.stackClear h x l.va) :
    ∃ t : State, exec .stackAccess s = .next t ∧ t.detects = s.detects ∧ sameFiles s t ∧ s.keeps t [] ∧
      (t.gop? id).map (·.lanes) = some (o.lanes.map (o.pass x mask)) := by
  have h1 : (if !first then [] else o.refused x) = [] := by
    cases first
    · rfl
    · refine List.filterMap_eq_nil_iff.2 fun l hl => ?_
      split
      · rename_i c hc; exact absurd hc (hw rfl l hl c)
      · rfl
  have h2 : (s.stackBreaches o h x mask).1 = [] := State.lanesStack_clear fun l hl => by
    obtain ⟨hl, hm⟩ := List.mem_filter.1 hl
    exact hs l hl (by simp at hm; exact hm.1)
  have hst := s.stackBreaches_streams o h x mask
  have e : s.stackLanes id mask first =
      (s.stackBreaches o h x mask).2.modGop id fun o' => { o' with lanes := o'.lanes.map (o.pass x mask) } := by
    rw [State.stackLanes_eq ho hh hx hot, h1, h2]; rfl
  refine ⟨_, (exec_stackAccess ha).trans (by rw [e]), congrArg (·.2.2.1) hst, files_of_heats (congrArg (·.1) hst),
    keeps_of_kept _ _ _ ((State.modGop_kept ..).trans (s.stackBreaches_kept ..)), ?_⟩
  rw [State.gop?_modGop, State.gop?_congr (congrArg (·.2.1) hst), ho]
  · rfl
  · exact fun _ => rfl

/-- A window's refusal stops the stream with the lowest cause. -/
theorem stackLanes_refused {s : State} {id : Nat} {mask : BitVec 32} {o : GlobalOp} {h : Heat} {x : Team} {l : LaneAcc} {c : Nat}
    (ha : s.arg = .stackAccess (.lanes id mask true)) (ho : s.gop? id = some o) (hh : s.heat? o.hid = some h)
    (hx : s.team? o.teamRef = some x) (hot : o.hot = false) (hl : l ∈ o.lanes)
    (hc : translate x.wins l.va (!o.isLoad) = .fail c) (hg : s.gang? o.gangRef ≠ none) (hn : namesGang o.blame o.gangRef) :
    ∃ (t : State) (d : Detect), exec .stackAccess s = .next t ∧ t.detects = s.detects ++ [d] ∧ d.cause ≤ c ∧
      (∃ l' ∈ o.lanes, translate x.wins l'.va (!o.isLoad) = .fail d.cause) ∧
      t.quadsStopped o.gangRef (BitVec.ofNat 8 o.blame.qmask) ∧
      (t.gop? id).map (·.hot) = some true ∧ s.keeps t [] := by
  have hmem : (l.lane, c, l.va) ∈ o.refused x := List.mem_filterMap.2 ⟨l, hl, by rw [hc]⟩
  have hst := s.stackBreaches_streams o h x mask
  have heats : ((s.stackBreaches o h x mask).2.modGop id fun o => { o with hot := true }).heats = s.heats := congrArg (·.1) hst
  cases hw : worstLane (o.refused x ++ (s.stackBreaches o h x mask).1) with
  | none =>
    obtain ⟨e, r, he⟩ := List.exists_cons_of_ne_nil (List.ne_nil_of_mem hmem)
    rw [he] at hw
    exact (worstLane_cons _ _ hw).elim
  | some e =>
    obtain ⟨cause, lanes, addr⟩ := e
    obtain ⟨⟨b, hb, hbc⟩, hmin⟩ := worstLane_spec hw
    have hcause : cause ≤ c := hmin _ (List.mem_append_left _ hmem)
    have e : s.stackLanes id mask true =
        (((s.stackBreaches o h x mask).2.modGop id fun o => { o with hot := true }).stopNamed o.blame).detect
          { o.blame with cause := cause, lanes := lanes, addr := addr, info := stackOf addr } := by
      rw [State.stackLanes_eq ho hh hx hot]
      simp only [Bool.not_true, Bool.false_eq_true, if_false, hw]
    refine ⟨_, { o.blame with cause := cause, lanes := lanes, addr := addr, info := stackOf addr },
      (exec_stackAccess ha).trans (by rw [e]), ?_, hcause, ?_, ?_, ?_, ?_⟩
    · rw [State.detect_detects, State.stopNamed_detects]
      exact congrArg (· ++ _) (congrArg (·.2.2.1) hst)
    · obtain hb | hb := List.mem_append.1 hb
      · obtain ⟨l', hl', he'⟩ := List.mem_filterMap.1 hb
        refine ⟨l', hl', ?_⟩
        split at he'
        · rename_i k hk
          obtain rfl := Option.some.inj he'
          exact hk.trans (congrArg _ hbc)
        · cases he'
      · have h1 := State.lanesStack_cause s h x _ b hb
        have h2 := translate_cause hc
        exact absurd (hbc ▸ h1) (by simp only; omega)
    · exact State.quadsStopped_congr (State.stopNamed_stopped hn (by rw [State.gang?_congr heats]; exact hg)) rfl
    · have hgops : (((s.stackBreaches o h x mask).2.modGop id fun o => { o with hot := true }).stopNamed o.blame).gops =
          ((s.stackBreaches o h x mask).2.modGop id fun o => { o with hot := true }).gops := State.stopNamed_gops ..
      refine congrArg (Option.map (·.hot)) (?_ : _ = some { o with hot := true })
      refine (State.gop?_congr hgops id).trans ?_
      rw [State.gop?_modGop, State.gop?_congr (congrArg (·.2.1) hst), ho]
      · rfl
      · exact fun _ => rfl
    · refine keeps_of_kept _ _ _ ?_
      rw [State.detect_kept, State.stopNamed_kept, State.modGop_kept]
      exact s.stackBreaches_kept ..

/-! ### Performing -/

theorem exec_globalPerform {s : State} {id : Nat} {mask : BitVec 32} {o : GlobalOp} (ha : s.arg = .globalPerform id mask)
    (ho : s.gop? id = some o) : exec .globalPerform s =
      .next (if o.isRecord then s.performRecord o else if o.isLoad then s.performLoad o mask else s.performCore o.core) := by
  show execGlobalPerform s = _
  unfold execGlobalPerform
  rw [ha]
  dsimp only
  rw [ho]

/-- A load reads memory as it stood at P. -/
theorem globalPerform_load {s : State} {id : Nat} {mask : BitVec 32} {o : GlobalOp} (ha : s.arg = .globalPerform id mask)
    (ho : s.gop? id = some o) (hk : o.kind = .load) :
    ∃ t : State, exec .globalPerform s = .next t ∧ sameFiles s t ∧ s.keeps t [] ∧
      (t.gop? id).map (·.lanes) = some (o.lanes.map fun l =>
        if mask.getLsbD l.lane && l.ok && !l.done then
          { l with
            done := true
            result := extendTo o.sx (2 ^ o.sz) (ofLeBytes (s.readHbmAt l.pa (2 ^ o.sz) (s.teamBase o.teamRef + l.p))) }
        else l) := by
  refine ⟨_, exec_globalPerform ha ho, ?_⟩
  rw [if_neg (by simp [GlobalOp.isRecord, hk]), if_pos (by simp [GlobalOp.isLoad, hk])]
  refine ⟨rfl, keeps_of_kept _ _ _ (State.performLoad_kept ..), ?_⟩
  rw [State.performLoad, State.gop?_id ho, State.gop?_modGop, ho]
  · rfl
  · exact fun _ => rfl

/-- Lanes already in ascending order keep it. -/
theorem insertLane_last (e : GlobalOp × LaneAcc) (l : List (GlobalOp × LaneAcc)) (h : ∀ f ∈ l, ¬e.2.lane < f.2.lane) :
    insertLane e l = l ++ [e] := by
  induction l with
  | nil => rfl
  | cons f r ih =>
    rw [insertLane, if_neg (h f (by simp)), ih fun g hg => h g (by simp [hg])]
    rfl

theorem insertLane_fold (l : List (GlobalOp × LaneAcc)) (h : l.Pairwise fun a b => a.2.lane < b.2.lane) :
    l.foldl (fun acc e => insertLane e acc) [] = l := by
  have hf : ∀ acc : List (GlobalOp × LaneAcc), (∀ a ∈ acc, ∀ b ∈ l, a.2.lane < b.2.lane) →
      l.foldl (fun acc e => insertLane e acc) acc = acc ++ l := by
    induction l with
    | nil => exact fun acc _ => by simp
    | cons e r ih =>
      obtain ⟨h1, h2⟩ := List.pairwise_cons.1 h
      intro acc ha
      rw [List.foldl_cons, insertLane_last e acc fun f hf => by have := ha f hf e (by simp); omega, ih h2]
      · simp
      · intro a ha' b hb
        obtain ha' | ha' := List.mem_append.1 ha'
        · exact ha a ha' b (by simp [hb])
        · obtain rfl : a = e := by simpa using ha'
          exact h1 b hb
  exact hf [] (by simp)

/-- The lanes of a core's one operation perform in ascending lane order. -/
theorem State.performCore_one {s : State} {o : GlobalOp} (h1 : (s.gops.filter fun p => p.core == o.core && !p.isLoad) = [o])
    (h2 : (s.dueLanes o).Pairwise fun a b => a.lane < b.lane) :
    s.performCore o.core = (s.dueLanes o).foldl (fun u l => u.performStore o l) s := by
  have e : s.performCore o.core = (((s.dueLanes o).map fun l => (o, l)).foldl (fun acc e => insertLane e acc) []).foldl
      (fun s e => s.performStore e.1 e.2) s := by
    unfold State.performCore
    rw [h1]
    simp only [List.map_cons, List.map_nil, List.flatten_cons, List.flatten_nil, List.append_nil]
    rfl
  rw [e, insertLane_fold _ (List.pairwise_map.2 h2), List.foldl_map]

theorem State.modLane_gop? (s : State) (id lane : Nat) (f : LaneAcc → LaneAcc) : (s.modLane id lane f).gop? id =
    (s.gop? id).map fun o => { o with lanes := o.lanes.map fun l => if l.lane = lane then f l else l } :=
  State.gop?_modGop _ _ _ fun _ => rfl

/-- A range written before others gives way to them. -/
theorem afterWrites_cons (old : Nat) (r : Nat × Nat × Nat) (rs : List (Nat × Nat × Nat)) (a : Nat) :
    afterWrites old (r :: rs) a = afterWrites (afterWrites old [r] a) rs a := by
  unfold afterWrites
  rw [List.reverse_cons, List.find?_append]
  cases rs.reverse.find? fun e => decide (e.1 ≤ a ∧ a < e.1 + e.2.1) with
  | none => rfl
  | some e => rfl

theorem State.look_writeHbm_leBytes {s : State} (h : Store.wf 0 s.hbm = true) (pa n x a : Nat) :
    (s.writeHbm pa (leBytes n x)).look .hbm a = afterWrites (s.look .hbm a) [(pa, n, x)] a := by
  rw [State.look_writeHbm h, leBytes_length, afterWrites]
  by_cases ha : pa ≤ a ∧ a < pa + n
  · rw [if_pos ha, leBytes_getD _ _ _ (by omega)]
    simp [ha]
  · rw [if_neg ha]
    simp [ha]

/-- What the stores of an operation's lanes leave: memory, and the lanes done. -/
theorem performStores_store {o : GlobalOp} (hk : o.kind = .store) (ls : List LaneAcc) : ∀ (s : State) (p : GlobalOp),
    Store.wf 0 s.hbm = true → s.gop? o.id = some p →
    (∀ a, (ls.foldl (fun u l => u.performStore o l) s).look .hbm a =
      afterWrites (s.look .hbm a) (ls.map fun l => (l.pa, 2 ^ o.sz, l.data)) a) ∧
    (ls.foldl (fun u l => u.performStore o l) s).heats = s.heats ∧
    ((ls.foldl (fun u l => u.performStore o l) s).gop? o.id).map (·.lanes) =
      some (p.lanes.map fun l => if l.lane ∈ ls.map (·.lane) then { l with done := true } else l) := by
  induction ls with
  | nil => intro s p _ hp; simp [hp, afterWrites]
  | cons l r ih =>
    intro s p hw hp
    have e : s.performStore o l =
        (s.writeHbm l.pa (leBytes (2 ^ o.sz) l.data)).modLane o.id l.lane fun l => { l with done := true } := by
      simp only [State.performStore, hk]
    have hg : (s.performStore o l).gop? o.id =
        some { p with lanes := p.lanes.map fun m => if m.lane = l.lane then { m with done := true } else m } := by
      rw [e, State.modLane_gop?, State.gop?_congr (State.writeHbm_gops ..), hp]; rfl
    obtain ⟨h1, h2, h3⟩ := ih (s.performStore o l) _ (by rw [e]; exact Store.wf_putRun _ hw ..) hg
    simp only [List.foldl_cons]
    refine ⟨fun a => ?_, ?_, ?_⟩
    · rw [h1, List.map_cons, afterWrites_cons, ← State.look_writeHbm_leBytes hw, e]; rfl
    · rw [h2, e]; rfl
    · rw [h3, List.map_map]
      congr 1
      refine List.map_congr_left fun m _ => ?_
      simp only [Function.comp, List.map_cons, List.mem_cons]
      by_cases h : m.lane = l.lane
      · by_cases h' : l.lane ∈ r.map (·.lane) <;> simp [h, h']
      · simp [h]

/-- Stores of a core perform in ascending lane order. -/
theorem globalPerform_store {s : State} {id : Nat} {mask : BitVec 32} {o : GlobalOp} (ha : s.arg = .globalPerform id mask)
    (hw : s.memoryWf) (ho : s.gop? id = some o) (hk : o.kind = .store)
    (hone : (s.gops.filter fun p => p.core == o.core && !p.isLoad) = [o]) (hl : o.lanes.Pairwise (fun a b => a.lane < b.lane)) :
    ∃ t : State, exec .globalPerform s = .next t ∧ sameFiles s t ∧
      (∀ a, t.look .hbm a = afterWrites (s.look .hbm a) ((s.dueLanes o).map fun l => (l.pa, 2 ^ o.sz, l.data)) a) ∧
      (t.gop? id).map (·.lanes) = some (o.lanes.map fun l => if l ∈ s.dueLanes o then { l with done := true } else l) := by
  have hid := State.gop?_id ho
  obtain ⟨h1, h2, h3⟩ := performStores_store hk (s.dueLanes o) s o hw.1 (hid ▸ ho)
  refine ⟨_, exec_globalPerform ha ho, ?_⟩
  rw [if_neg (by simp [GlobalOp.isRecord, hk]), if_neg (by simp [GlobalOp.isLoad, hk]),
    State.performCore_one hone (hl.sublist List.filter_sublist)]
  refine ⟨files_of_heats h2, h1, ?_⟩
  rw [← hid, h3]
  congr 1
  refine List.map_congr_left fun l hlm => ?_
  have hiff : l.lane ∈ (s.dueLanes o).map (·.lane) ↔ l ∈ s.dueLanes o := by
    refine ⟨fun h => ?_, fun h => List.mem_map_of_mem h⟩
    obtain ⟨m, hm, e⟩ := List.mem_map.1 h
    have hn : (o.lanes.map (·.lane)).Nodup := (List.pairwise_map.2 hl).imp fun h => Nat.ne_of_lt h
    rwa [← List.inj_on_of_nodup_map hn (List.mem_of_mem_filter hm) hlm e]
  simp only [hiff]

end Sys2Proof.Machine
end

section
/-! PROOFS. Atomics at P, deliveries and completions: O48. -/
namespace Sys2Proof.Machine

/-! ### Atomics at their home -/

theorem State.takeLoss_none {s : State} (h : s.env.lostAtomics = []) (which : Nat) (sq : BitVec 32) :
    s.takeLoss which sq = (false, s) := by
  unfold State.takeLoss
  rw [h]
  rfl

/-- The value that an atomic or a reduction leaves at its address. -/
def GlobalOp.newValue (o : GlobalOp) (l : LaneAcc) (old : Nat) : Nat :=
  aopNew (if o.kind = .cas then 12 else o.aop) (2 ^ o.sz) old l.data l.cmp

/-- The result that an atomic's home remembers for it, if any. -/
def State.remembered (s : State) (o : GlobalOp) (l : LaneAcc) : Option (BitVec 32 × Nat) :=
  (s.windowOf (s.heatidOf o.hid) o.team (stackOf l.va)).bind fun w => w.results.find? (fun r => r.1 == l.sq)

theorem State.applyAtomic_seen {s : State} {o : GlobalOp} {l : LaneAcc} {r : BitVec 32 × Nat} (h : s.remembered o l = some r) :
    s.applyAtomic o l = (r.2, s) := by
  unfold State.remembered at h
  unfold State.applyAtomic
  dsimp only
  rw [h]

theorem State.applyAtomic_new {s : State} {o : GlobalOp} {l : LaneAcc} (h : s.remembered o l = none) :
    s.applyAtomic o l = (ofLeBytes (s.readHbm l.pa (2 ^ o.sz)),
      (s.writeHbm l.pa (leBytes (2 ^ o.sz) (o.newValue l (ofLeBytes (s.readHbm l.pa (2 ^ o.sz)))))).recordAtomic
        (s.heatidOf o.hid) o.team (stackOf l.va) l.sq (ofLeBytes (s.readHbm l.pa (2 ^ o.sz)))) := by
  unfold State.remembered at h
  unfold State.applyAtomic
  dsimp only
  rw [h]
  rfl

/-- The record of an atomic changes its home's windows alone. -/
theorem State.recordAtomic_eq (s : State) (a : BitVec 32) (b c : Nat) (d : BitVec 32) (e : Nat) :
    ∃ ws, s.recordAtomic a b c d e = { s with atomWindows := ws } := by
  unfold State.recordAtomic
  split
  · exact ⟨_, rfl⟩
  · exact ⟨_, rfl⟩

/-- What an atomic's application leaves: its old value from the home or from memory, then the new value there. -/
theorem State.applyAtomic_spec (s : State) (o : GlobalOp) (l : LaneAcc) (hw : Store.wf 0 s.hbm = true) :
    (s.applyAtomic o l).2.heats = s.heats ∧ (s.applyAtomic o l).2.gops = s.gops ∧ (s.applyAtomic o l).2.env = s.env ∧
    match s.remembered o l with
    | some r => (s.applyAtomic o l).1 = r.2 ∧ (s.applyAtomic o l).2.hbm = s.hbm
    | none => (s.applyAtomic o l).1 = ofLeBytes (s.readHbm l.pa (2 ^ o.sz)) ∧
      ofLeBytes ((s.applyAtomic o l).2.readHbm l.pa (2 ^ o.sz)) =
        o.newValue l (ofLeBytes (s.readHbm l.pa (2 ^ o.sz))) % 2 ^ (8 * 2 ^ o.sz) ∧
      ∀ a, (a < l.pa ∨ l.pa + 2 ^ o.sz ≤ a) → (s.applyAtomic o l).2.look .hbm a = s.look .hbm a := by
  cases h : s.remembered o l with
  | some r => rw [State.applyAtomic_seen h]; exact ⟨rfl, rfl, rfl, rfl, rfl⟩
  | none =>
    rw [State.applyAtomic_new h]
    obtain ⟨ws, e⟩ := State.recordAtomic_eq (s.writeHbm l.pa (leBytes (2 ^ o.sz) (o.newValue l (ofLeBytes (s.readHbm l.pa (2 ^ o.sz))))))
      (s.heatidOf o.hid) o.team (stackOf l.va) l.sq (ofLeBytes (s.readHbm l.pa (2 ^ o.sz)))
    rw [e]
    refine ⟨rfl, rfl, rfl, rfl, State.readHbm_leBytes hw .., fun a ha => ?_⟩
    exact State.look_writeHbm_outside hw _ _ (by rwa [leBytes_length])

/-- A lane done with its result, in the operation of its number. -/
theorem State.mem_modLane {s : State} {o : GlobalOp} {id lane : Nat} (f : LaneAcc → LaneAcc) (ho : s.gop? id = some o) :
    ∃ p ∈ (s.modLane id lane f).gops, p.id = id ∧ ∀ m ∈ p.lanes, m.lane = lane → ∃ l, m = f l := by
  have h := State.modLane_gop? s id lane f
  rw [ho, Option.map_some] at h
  refine ⟨_, List.mem_of_find?_eq_some h, State.gop?_id (s := s.modLane id lane f) h, fun m hm hl => ?_⟩
  obtain ⟨l, -, rfl⟩ := List.mem_map.1 hm
  by_cases h : l.lane = lane
  · exact ⟨l, if_pos h⟩
  · rw [if_neg h] at hl; exact absurd hl h

theorem State.heatidOf_congr {s t : State} (h : t.heats = s.heats) (hid : Nat) : t.heatidOf hid = s.heatidOf hid := by
  simp only [State.heatidOf, State.heat?, h]

/-- One due lane of a core's one reduction or atomic. -/
theorem globalPerform_one {s : State} {id : Nat} {mask : BitVec 32} {o : GlobalOp} {l : LaneAcc} (ha : s.arg = .globalPerform id mask)
    (ho : s.gop? id = some o) (hk : o.kind = .reduce ∨ o.kind = .atomic ∨ o.kind = .cas)
    (hone : (s.gops.filter fun p => p.core == o.core && !p.isLoad) = [o]) (hdue : s.dueLanes o = [l]) :
    exec .globalPerform s = .next (s.performStore o l) := by
  rw [exec_globalPerform ha ho, if_neg (by obtain h | h | h := hk <;> simp [GlobalOp.isRecord, h]),
    if_neg (by obtain h | h | h := hk <;> simp [GlobalOp.isLoad, h]), State.performCore_one hone (by rw [hdue]; simp), hdue]
  rfl

/-- An atomic that loses no message is applied and done. -/
theorem State.performStore_atomic {s : State} {o : GlobalOp} {l : LaneAcc} (hk : o.kind = .atomic ∨ o.kind = .cas)
    (hlost : s.env.lostAtomics = []) (hw : Store.wf 0 s.hbm = true) : s.performStore o l =
      (s.applyAtomic o l).2.modLane o.id l.lane fun m => { m with done := true, result := (s.applyAtomic o l).1 } := by
  have henv := (s.applyAtomic_spec o l hw).2.2.1
  unfold State.performStore
  obtain h | h := hk <;> simp only [h, State.takeLoss_none hlost, Bool.false_eq_true, if_false,
    State.takeLoss_none (s := (s.applyAtomic o l).2) (by rw [henv]; exact hlost)]

theorem globalPerform_atomic {s : State} {id : Nat} {mask : BitVec 32} {o : GlobalOp} {l : LaneAcc}
    (ha : s.arg = .globalPerform id mask) (hw : s.memoryWf) (ho : s.gop? id = some o)
    (hk : o.kind = .reduce ∨ o.kind = .atomic ∨ o.kind = .cas)
    (hone : (s.gops.filter fun p => p.core == o.core && !p.isLoad) = [o]) (hdue : s.dueLanes o = [l])
    (hlost : s.env.lostAtomics = []) (hwin : s.atomWindows = []) :
    let old := ofLeBytes (s.readHbm l.pa (2 ^ o.sz))
    ∃ t : State, exec .globalPerform s = .next t ∧ sameFiles s t ∧
      ofLeBytes (t.readHbm l.pa (2 ^ o.sz)) =
        aopNew (if o.kind = .cas then 12 else o.aop) (2 ^ o.sz) old l.data l.cmp % 2 ^ (8 * 2 ^ o.sz) ∧
      (∀ a, (a < l.pa ∨ l.pa + 2 ^ o.sz ≤ a) → t.look .hbm a = s.look .hbm a) ∧
      (o.kind ≠ .reduce → ∃ p ∈ t.gops, p.id = id ∧ ∀ m ∈ p.lanes, m.lane = l.lane → m.done = true ∧ m.result = old) := by
  intro old
  refine ⟨_, globalPerform_one ha ho hk hone hdue, ?_⟩
  have hid := State.gop?_id ho
  obtain hk | hk := hk
  · have e : s.performStore o l = (s.writeHbm l.pa (leBytes (2 ^ o.sz) (aopNew o.aop (2 ^ o.sz) old l.data l.cmp))).modLane
        o.id l.lane fun l => { l with done := true } := by
      simp only [State.performStore, hk]; rfl
    rw [e, if_neg (by simp [hk])]
    refine ⟨rfl, State.readHbm_leBytes hw.1 .., fun a ha => ?_, fun h => absurd hk h⟩
    exact State.look_writeHbm_outside hw.1 _ _ (by rwa [leBytes_length])
  · obtain ⟨h1, h2, -, h4⟩ := s.applyAtomic_spec o l hw.1
    have hr : s.remembered o l = none := by simp [State.remembered, State.windowOf, hwin]
    rw [hr] at h4
    obtain ⟨hold, hnew, hother⟩ := h4
    rw [State.performStore_atomic hk hlost hw.1]
    refine ⟨files_of_heats h1, hnew, hother, fun _ => ?_⟩
    obtain ⟨p, hp, hpid, hl⟩ := State.mem_modLane (lane := l.lane)
      (fun m => { m with done := true, result := (s.applyAtomic o l).1 }) ((State.gop?_congr h2 id).trans ho)
    refine ⟨p, hid ▸ hp, hpid, fun m hm e => ?_⟩
    obtain ⟨m', rfl⟩ := hl m hm e
    exact ⟨rfl, hold⟩

/-! ### Repeats of atomics -/

/-- An atomic that was lost is sent again: its home answers from its window, or applies it. -/
theorem atomicRepeat_applied {s : State} {id lane : Nat} {o : GlobalOp} {l : LaneAcc} (ha : s.arg = .atomicRepeat id lane)
    (hw : s.memoryWf) (ho : s.gop? id = some o) (hl : o.lanes.find? (fun l => l.lane == lane) = some l)
    (hlost : s.env.lostAtomics = []) :
    exec .atomicRepeat s = .next ((s.applyAtomic o l).2.modLane id lane fun m =>
      { m with done := true, result := (s.applyAtomic o l).1 }) := by
  have henv := (s.applyAtomic_spec o l hw.1).2.2.1
  show execAtomicRepeat s = _
  unfold execAtomicRepeat
  rw [ha]
  dsimp only
  rw [ho]
  dsimp only
  rw [hl]
  simp only [State.takeLoss_none hlost, Bool.false_eq_true, if_false,
    State.takeLoss_none (s := (s.applyAtomic o l).2) (by rw [henv]; exact hlost)]

theorem atomicRepeat_effect {s : State} {id lane : Nat} {o : GlobalOp} {l : LaneAcc} (ha : s.arg = .atomicRepeat id lane)
    (hw : s.memoryWf) (ho : s.gop? id = some o) (hl : o.lanes.find? (fun l => l.lane == lane) = some l)
    (hlost : s.env.lostAtomics = []) :
    ∃ (t : State) (old : Nat), exec .atomicRepeat s = .next t ∧ sameFiles s t ∧
      (∃ p ∈ t.gops, p.id = id ∧ ∀ m ∈ p.lanes, m.lane = lane → m.done = true ∧ m.result = old) ∧
      match s.remembered o l with
      | some r => old = r.2 ∧ ∀ a, t.look .hbm a = s.look .hbm a
      | none => old = ofLeBytes (s.readHbm l.pa (2 ^ o.sz)) ∧
        ofLeBytes (t.readHbm l.pa (2 ^ o.sz)) =
          aopNew (if o.kind = .cas then 12 else o.aop) (2 ^ o.sz) old l.data l.cmp % 2 ^ (8 * 2 ^ o.sz) := by
  obtain ⟨h1, h2, -, h4⟩ := s.applyAtomic_spec o l hw.1
  refine ⟨_, (s.applyAtomic o l).1, atomicRepeat_applied ha hw ho hl hlost, files_of_heats h1, ?_, ?_⟩
  · obtain ⟨p, hp, hpid, hl⟩ := State.mem_modLane (lane := lane)
      (fun m => { m with done := true, result := (s.applyAtomic o l).1 }) ((State.gop?_congr h2 id).trans ho)
    refine ⟨p, hp, hpid, fun m hm e => ?_⟩
    obtain ⟨m', rfl⟩ := hl m hm e
    exact ⟨rfl, rfl⟩
  · cases hr : s.remembered o l with
    | some r =>
      rw [hr] at h4
      exact ⟨h4.1, fun a => congrArg (fun m => (Store.get 0 m a).toNat) h4.2⟩
    | none =>
      rw [hr] at h4
      refine ⟨h4.1, ?_⟩
      rw [h4.1]; exact h4.2.1

/-- An operation kept for replay after its lane's second loss. -/
def State.keepLost (s : State) (o : GlobalOp) (id lane : Nat) : State :=
  (s.modGop id fun o => { o with hot := true }).modLane id lane fun l =>
    { l with ok := false, s := s.now - s.teamBase o.teamRef, p := s.now - s.teamBase o.teamRef }

/-- What a second loss reports. -/
def GlobalOp.lostDetect (o : GlobalOp) (lane : Nat) (l : LaneAcc) : Detect :=
  { o.blame with cause := 0xFA, lanes := laneSet [lane], addr := l.va, info := stackOf l.va }

theorem exec_atomicRepeat_lost {s : State} {id lane : Nat} {o : GlobalOp} {l : LaneAcc} (ha : s.arg = .atomicRepeat id lane)
    (ho : s.gop? id = some o) (hl : o.lanes.find? (fun l => l.lane == lane) = some l) (hlost : (s.takeLoss 0 l.sq).1 = true) :
    exec .atomicRepeat s = .next ((((s.takeLoss 0 l.sq).2.keepLost o id lane).stopNamed o.blame).detect (o.lostDetect lane l)) := by
  show execAtomicRepeat s = _
  unfold execAtomicRepeat
  rw [ha]
  dsimp only
  rw [ho]
  dsimp only
  rw [hl]
  dsimp only
  rw [hlost]
  rfl

/-- A second loss stops the stream with 0xFA. -/
theorem atomicRepeat_lost {s : State} {id lane : Nat} {o : GlobalOp} {l : LaneAcc} (ha : s.arg = .atomicRepeat id lane)
    (ho : s.gop? id = some o) (hl : o.lanes.find? (fun l => l.lane == lane) = some l) (hlost : (0, l.sq) ∈ s.env.lostAtomics) :
    ∃ (t : State) (d : Detect), exec .atomicRepeat s = .next t ∧ t.detects = s.detects ++ [d] ∧ d.cause = 0xFA ∧
      d.addr = l.va ∧ sameFiles s t ∧ s.keeps t [] := by
  have e : s.takeLoss 0 l.sq =
      (true, { s with env := { s.env with lostAtomics := s.env.lostAtomics.erase (0, l.sq) } }) := by
    unfold State.takeLoss
    rw [if_pos (by simpa using hlost)]
  refine ⟨_, o.lostDetect lane l, exec_atomicRepeat_lost ha ho hl (by rw [e]), ?_, rfl, rfl, ?_, ?_⟩
  · rw [State.detect_detects, State.stopNamed_detects, e]; rfl
  · exact (State.detect_files ..).trans ((State.stopNamed_files ..).trans (by rw [e]; rfl))
  · refine keeps_of_kept _ _ _ ((State.detect_kept ..).trans ((State.stopNamed_kept ..).trans ?_))
    rw [e]; rfl

/-! ### Deliveries -/

/-- What a delivery of lanes lands. -/
def GlobalOp.landing (o : GlobalOp) (mask : BitVec 32) : LaneLanding :=
  let zeros := o.zeros.filter fun k => mask.getLsbD (k % 32)
  { landingOf o.dests zeros none (if o.lastFor mask then o.flag else none)
      ((o.lanes.filter fun l => mask.getLsbD l.lane && l.done).map fun l => (l.lane, l.result)) with
    latch := if o.lastFor mask then
      (landingOf o.dests zeros o.latch none ((o.lanes.filter (·.done)).map fun l => (l.lane, l.result))).latch else none }

theorem State.deliver_eq (s : State) {o : GlobalOp} (mask : BitVec 32) (h : o.hot = false) : s.deliver o mask =
    if o.lastFor mask then (s.modGang o.gangRef fun g => g.land (o.landing mask) s.now).dropGop o.id
    else s.modGang o.gangRef fun g => g.land (o.landing mask) s.now := by
  unfold State.deliver
  simp only [h, Bool.false_eq_true, if_false, Bool.not_false, Bool.and_true]
  rfl

theorem State.deliver_heats (s : State) {o : GlobalOp} (mask : BitVec 32) (h : o.hot = false) :
    (s.deliver o mask).heats = (s.modGang o.gangRef fun g => g.land (o.landing mask) s.now).heats := by
  rw [State.deliver_eq s mask h]
  split <;> rfl

/-- The registers that a lane's result lands in, with their values. -/
def GlobalOp.placed (o : GlobalOp) (l : LaneAcc) : List (Nat × Word) :=
  match o.dests.find? (fun d => d.1 == l.lane) with
  | some d => placeKeys d.2 l.result
  | none => []

theorem GlobalOp.landing_vs (o : GlobalOp) (mask : BitVec 32) : (o.landing mask).vs =
    (o.lanes.filter fun l => mask.getLsbD l.lane && l.done).flatMap o.placed ++
      (o.zeros.filter fun k => mask.getLsbD (k % 32)).map fun k => (k, 0) := by
  simp only [GlobalOp.landing, landingOf, List.map_map, List.flatMap]
  rfl

theorem find_dest {ds : List (Nat × List Nat)} (hn : (ds.map (·.1)).Nodup) {l : Nat} {ks : List Nat} (h : (l, ks) ∈ ds) :
    ds.find? (fun d => d.1 == l) = some (l, ks) := by
  cases e : ds.find? fun d => d.1 == l with
  | none =>
    rw [List.find?_eq_none] at e
    exact absurd (e _ h) (by simp)
  | some d =>
    have h1 : d.1 = l := by simpa using List.find?_some e
    rw [List.inj_on_of_nodup_map hn (List.mem_of_find?_eq_some e) h h1]

/-- A landing delivers the results of its lanes. -/
theorem GlobalOp.landing_delivers {o : GlobalOp} (mask : BitVec 32) (h : o.apart) : Delivers o mask (o.landing mask) := by
  obtain ⟨-, hd, -⟩ := h
  have hmem : ∀ l ∈ o.lanes, mask.getLsbD l.lane = true → l.done = true → ∀ ks, (l.lane, ks) ∈ o.dests →
      ∀ e ∈ placeKeys ks l.result, e ∈ (o.landing mask).vs := by
    intro l hl hm hdone ks hks e he
    rw [GlobalOp.landing_vs, List.mem_append, List.mem_flatMap]
    exact .inl ⟨l, List.mem_filter.2 ⟨hl, by simp [hm, hdone]⟩, by rw [GlobalOp.placed, find_dest hd hks]; exact he⟩
  constructor
  case one => exact fun l hl hm hdone k hk => hmem l hl hm hdone _ hk _ (by simp [placeKeys])
  case two =>
    exact fun l hl hm hdone k k' hk =>
      ⟨hmem l hl hm hdone _ hk _ (by simp [placeKeys]), hmem l hl hm hdone _ hk _ (by simp [placeKeys])⟩
  case zero =>
    intro k hk hm
    rw [GlobalOp.landing_vs, List.mem_append]
    exact .inr (List.mem_map.2 ⟨k, List.mem_filter.2 ⟨hk, hm⟩, rfl⟩)
  case rest => exact ⟨rfl, rfl, rfl, rfl⟩

theorem placeKeys_sublist (ks : List Nat) (x : Nat) : ((placeKeys ks x).map (·.1)).Sublist ks := by
  match ks with
  | [] => exact .refl _
  | [k] => exact .refl _
  | k :: k' :: r => exact ((List.nil_sublist r).cons_cons k').cons_cons k

theorem GlobalOp.placed_sublist (o : GlobalOp) (l : LaneAcc) :
    o.placed l = [] ∨ ∃ ks, (l.lane, ks) ∈ o.dests ∧ ((o.placed l).map (·.1)).Sublist ks := by
  unfold GlobalOp.placed
  cases e : o.dests.find? fun d => d.1 == l.lane with
  | none => exact .inl rfl
  | some d =>
    have h1 : d.1 = l.lane := by simpa using List.find?_some e
    exact .inr ⟨d.2, h1 ▸ List.mem_of_find?_eq_some e, placeKeys_sublist ..⟩

/-- Distinct destinations land apart. -/
theorem GlobalOp.landing_apart {o : GlobalOp} (mask : BitVec 32) (h : o.apart) : apartLanding (o.landing mask) := by
  obtain ⟨hall, hd, hl⟩ := h
  obtain ⟨hds, hz, hdz⟩ := List.nodup_append.1 hall
  obtain ⟨hdn, hdp⟩ := List.nodup_flatten.1 hds
  have hdis : Std.Symm fun a b : Nat × List Nat => List.Disjoint a.2 b.2 := ⟨fun _ _ h => h.symm⟩
  have hpair : ∀ a ∈ o.dests, ∀ b ∈ o.dests, a ≠ b → List.Disjoint a.2 b.2 := fun a ha b hb hab =>
    (List.pairwise_map.1 hdp).forall ha hb hab
  refine ⟨?_, List.nodup_nil, List.nodup_nil, List.nodup_nil⟩
  rw [GlobalOp.landing_vs, List.map_append, List.map_map, List.map_flatMap]
  refine List.nodup_append.2 ⟨List.nodup_flatMap.2 ⟨fun l _ => ?_, ?_⟩, ?_, fun k hk k' hk' => ?_⟩
  · obtain e | ⟨ks, hks, hs⟩ := o.placed_sublist l
    · rw [e]; exact List.nodup_nil
    · exact hs.nodup (hdn ks (List.mem_map_of_mem hks))
  · refine (List.pairwise_map.1 (hl.sublist (List.filter_sublist.map _))).imp fun {a b} hab => ?_
    intro k hk hk'
    dsimp only at hk hk'
    obtain e | ⟨ks, hks, hs⟩ := o.placed_sublist a
    · rw [e] at hk; cases hk
    obtain e | ⟨ks', hks', hs'⟩ := o.placed_sublist b
    · rw [e] at hk'; cases hk'
    exact hpair _ hks _ hks' (fun e => hab (congrArg (·.1) e)) (hs.subset hk) (hs'.subset hk')
  · exact (List.map_id'' (fun _ => rfl) _).symm ▸ hz.filter _
  · obtain ⟨l, -, hk⟩ := List.mem_flatMap.1 hk
    obtain ⟨z, hz', rfl⟩ := List.mem_map.1 hk'
    obtain e | ⟨ks, hks, hs⟩ := o.placed_sublist l
    · rw [e] at hk; cases hk
    exact hdz k (List.mem_flatten.2 ⟨ks, List.mem_map_of_mem hks, hs.subset hk⟩) z (List.mem_of_mem_filter hz')

/-- A DELIVERY lands its lanes' results, clears its flag, and with the last lane ends the operation. -/
theorem deliver_effect {s t : State} {id : Nat} {mask : BitVec 32} {o : GlobalOp} {x : Gang} (ho : s.gop? id = some o)
    (hx : s.gang? o.gangRef = some x) (hot : o.hot = false) (hap : o.apart) (ht : t.heats = (s.deliver o mask).heats)
    (hg : t.gops = (s.deliver o mask).gops) :
    Delivers o mask (o.landing mask) ∧ Landed s t o.gangRef (o.landing mask) ∧
      flagCleared s t o.gangRef (o.landing mask).flag ∧ (o.lastFor mask = true → t.gop? id = none) := by
  have hh := ht.trans (s.deliver_heats mask hot)
  refine ⟨o.landing_delivers mask hap, (landed_of_land _ hx (o.landing_apart mask hap)).congr (files_of_heats hh),
    (flagCleared_of_land _).congr hh, fun hlast => ?_⟩
  rw [State.gop?_congr hg, State.deliver_eq s mask hot, if_pos hlast, ← State.gop?_id ho]
  exact State.gop?_dropGop ..

theorem globalLoadDelivery_effect {s : State} {id : Nat} {mask : BitVec 32} {o : GlobalOp} {x : Gang}
    (ha : s.arg = .globalLoadDelivery id mask) (ho : s.gop? id = some o) (hx : s.gang? o.gangRef = some x) (hot : o.hot = false)
    (hap : o.apart) :
    ∃ (t : State) (r : LaneLanding), exec .globalLoadDelivery s = .next t ∧ Delivers o mask r ∧ Landed s t o.gangRef r ∧
      flagCleared s t o.gangRef r.flag ∧ (o.lastFor mask = true → t.gop? id = none) := by
  refine ⟨s.deliver o mask, o.landing mask, ?_, deliver_effect ho hx hot hap rfl rfl⟩
  show execGlobalLoadDelivery s = _
  unfold execGlobalLoadDelivery
  rw [ha]
  dsimp only
  rw [ho]

theorem State.afterCounter_pushed (s : State) (hid : Nat) : Pushed s (s.afterCounter hid) := by
  unfold State.afterCounter
  repeat' split
  · exact .refl s
  · exact State.push_pushed ..
  · exact State.push_pushed ..
  · exact .refl s

theorem Pushed.heats {s t : State} (h : Pushed s t) : t.heats = s.heats := by rw [h.1]

theorem State.countOp_down (s : State) (o : GlobalOp) : (s.countOp o false).core o.core =
    if o.isAtomic then { s.core o.core with atm := (s.core o.core).atm - 1 }
    else if o.isLoad then s.core o.core else { s.core o.core with sto := (s.core o.core).sto - 1 } := by
  simp only [State.countOp, State.modCore, State.core, Store.get_set, if_true, Bool.false_eq_true, if_false]

theorem State.deliver_core (s : State) {o : GlobalOp} (mask : BitVec 32) (hot : o.hot = false) (c : Nat) :
    (s.deliver o mask).core c = s.core c := by
  rw [State.deliver_eq s mask hot]
  split <;> rfl

theorem atomicResult_effect {s : State} {id : Nat} {mask : BitVec 32} {o : GlobalOp} {x : Gang}
    (ha : s.arg = .atomicResult id mask) (ho : s.gop? id = some o) (hx : s.gang? o.gangRef = some x)
    (hat : o.isAtomic = true) (hot : o.hot = false) (hap : o.apart) :
    ∃ (t : State) (r : LaneLanding), exec .atomicResult s = .next t ∧ Delivers o mask r ∧ Landed s t o.gangRef r ∧
      flagCleared s t o.gangRef r.flag ∧ (o.lastFor mask = true → t.gop? id = none) ∧
      (t.core o.core).atm = if o.lastFor mask then (s.core o.core).atm - 1 else (s.core o.core).atm := by
  have he : exec .atomicResult s = .next (if o.lastFor mask then
      ((s.deliver o mask).countOp o false).afterCounter o.hid else s.deliver o mask) := by
    show execAtomicResult s = _
    unfold execAtomicResult
    rw [ha]
    dsimp only
    rw [ho]
    rfl
  rw [he]
  cases hl : o.lastFor mask with
  | true =>
    have hp := ((s.deliver o mask).countOp o false).afterCounter_pushed o.hid
    obtain ⟨h1, h2, h3, h4⟩ := deliver_effect (t := ((s.deliver o mask).countOp o false).afterCounter o.hid) ho hx hot hap
      hp.heats hp.gops
    refine ⟨_, _, rfl, h1, h2, h3, fun _ => h4 hl, ?_⟩
    simp only [if_true]
    rw [hp.core, State.countOp_down, if_pos hat, State.deliver_core s mask hot]
  | false =>
    obtain ⟨h1, h2, h3, h4⟩ := deliver_effect (mask := mask) ho hx hot hap rfl rfl
    refine ⟨_, _, rfl, h1, h2, h3, fun h => absurd h (by simp), ?_⟩
    exact congrArg (·.atm) (State.deliver_core s mask hot _)

/-- The state once a store's completion has left its counter and flag, and the operation has ended unless it is kept. -/
def State.completeStore (s : State) (o : GlobalOp) (id : Nat) : State :=
  let u := (s.countOp o false).clearGangFlag o.gangRef o.flag
  if o.hot then u else u.dropGop id

theorem State.completeStore_heats (s : State) (o : GlobalOp) (id : Nat) :
    (s.completeStore o id).heats = (s.clearGangFlag o.gangRef o.flag).heats := by
  unfold State.completeStore State.clearGangFlag
  dsimp only
  repeat' split
  all_goals rfl

theorem State.completeStore_core (s : State) (o : GlobalOp) (id n : Nat) :
    (s.completeStore o id).core n = (s.countOp o false).core n := by
  unfold State.completeStore State.clearGangFlag
  dsimp only
  repeat' split
  all_goals rfl

theorem State.clearGangFlag_files (s : State) (g : GangRef) (f : Option Nat) : (s.clearGangFlag g f).files = s.files := by
  unfold State.clearGangFlag
  split
  · rfl
  · exact State.modGang_files _ _ _ fun _ => Gang.clearFlag_file ..

theorem globalStoreCompletion_effect {s : State} {id : Nat} {o : GlobalOp} (ha : s.arg = .globalStoreCompletion id)
    (ho : s.gop? id = some o) (hk : o.kind = .store ∨ o.kind = .reduce) :
    ∃ t : State, exec .globalStoreCompletion s = .next t ∧ (t.core o.core).sto = (s.core o.core).sto - 1 ∧
      flagCleared s t o.gangRef o.flag ∧ sameFiles s t ∧ (o.hot = false → t.gop? id = none) := by
  have he : exec .globalStoreCompletion s = .next ((s.completeStore o id).afterCounter o.hid) := by
    show execGlobalStoreCompletion s = _
    unfold execGlobalStoreCompletion
    rw [ha]
    dsimp only
    rw [ho]
    rfl
  have hp := (s.completeStore o id).afterCounter_pushed o.hid
  have hh := hp.heats.trans (s.completeStore_heats o id)
  refine ⟨_, he, ?_, (flagCleared_of_clear s s _ _ rfl rfl).congr hh,
    (files_of_heats hh).trans (State.clearGangFlag_files ..), fun hot => ?_⟩
  · rw [hp.core, State.completeStore_core, State.countOp_down, if_neg, if_neg]
    · obtain h | h := hk <;> simp [GlobalOp.isLoad, h]
    · obtain h | h := hk <;> simp [GlobalOp.isAtomic, h]
  · rw [State.gop?_congr hp.gops, State.completeStore, hot]
    exact State.gop?_dropGop ..

/-- Settles O48: each step of a global access by its own lemma. -/
theorem globalSteps : Obligations.GlobalSteps := by
  refine ⟨fun s id mask first o h x ha ho hh hx hot => ⟨fun hw hs => ?_, fun l hl c hf hc hg hn => ?_⟩,
    fun s id mask o ha hw ho hk hone hl => globalPerform_store ha hw ho hk hone hl,
    fun s id mask o l ha hw ho hk hone hdue hlost hwin => globalPerform_atomic ha hw ho hk hone hdue hlost hwin,
    fun s id mask o ha ho hk => globalPerform_load ha ho hk,
    fun s id mask o x ha ho hx hot hap => globalLoadDelivery_effect ha ho hx hot hap,
    fun s id mask o x ha ho hx hat hot hap => atomicResult_effect ha ho hx hat hot hap,
    fun s id o ha ho hk => globalStoreCompletion_effect ha ho hk,
    fun s id lane o l ha hw ho hl hlost => atomicRepeat_effect ha hw ho hl hlost,
    fun s id lane o l ha ho hl hlost => atomicRepeat_lost ha ho hl hlost⟩
  · exact stackLanes_pass ha ho hh hx hot hw hs
  · subst hf
    exact stackLanes_refused ha ho hh hx hot hl hc hg hn

end Sys2Proof.Machine
end

section
/-! PROOFS. Landings, sessions, spans, waits and fired thresholds: O49. -/
namespace Sys2Proof.Machine

/-! ### Rules of the shared operations -/

/-- A step's answer keeps what the step keeps. -/
theorem Keeps.keeps {ps : List Space} {s t : State} {o : Host.Outcome State Fault Refusal} (h : Keeps ps s o) (e : o = .next t) :
    s.keeps t ps := by
  subst e
  exact keeps_of_kept _ _ _ h

theorem State.choose_eq (s : State) (lo hi : Nat) : ∃ n, (s.choose lo hi).2 = { s with freeCtr := n } := by
  unfold State.choose
  split
  · exact ⟨s.freeCtr, rfl⟩
  · exact ⟨_, rfl⟩

theorem State.le_choose (s : State) (lo hi : Nat) : lo ≤ (s.choose lo hi).1 := by
  unfold State.choose
  split
  · exact Nat.le_refl lo
  · exact Nat.le_add_right ..

theorem State.choose_le (s : State) {lo hi : Nat} (h : lo ≤ hi) : (s.choose lo hi).1 ≤ hi := by
  unfold State.choose
  split
  · exact h
  · have := Nat.mod_lt (Config.freeChoice s.freeCtr) (show 0 < hi - lo + 1 by omega)
    dsimp only
    omega

/-- A step put off stands last among those that its heat keeps. -/
theorem State.park_heat? {s : State} {hid rank : Nat} {ev : Ev} {h : Heat} (hh : s.heat? hid = some h) :
    ((s.park hid rank ev).heat? hid).map (fun k => k.parked.map (·.ev)) = some (h.parked.map (·.ev) ++ [ev]) := by
  have e : (s.park hid rank ev).heat? hid = _ := State.heat?_modHeat s hid hid (fun h => { h with parked := h.parked ++
    [{ at_ := s.now - h.anchor, rank := dueRank rank 0, seq := h.parked.length, ev := ev }] }) fun _ => rfl
  rw [e, hh]
  simp [State.heat?_hid hh]

theorem State.park_team? (s : State) (hid rank : Nat) (ev : Ev) (r : TeamRef) : (s.park hid rank ev).team? r = s.team? r := by
  have e : (s.park hid rank ev).heat? r.hid = _ := State.heat?_modHeat s hid r.hid (fun h => { h with parked := h.parked ++
    [{ at_ := s.now - h.anchor, rank := dueRank rank 0, seq := h.parked.length, ev := ev }] }) fun _ => rfl
  unfold State.team?
  rw [e]
  cases s.heat? r.hid with
  | none => rfl
  | some h =>
    simp only [Option.map_some, Option.bind_some]
    split <;> rfl

theorem State.park_files (s : State) (hid rank : Nat) (ev : Ev) : (s.park hid rank ev).files = s.files :=
  State.modHeat_files _ _ _ fun _ => rfl

theorem State.stopGang_eq (s : State) (g : GangRef) : ∃ hs, s.stopGang g = { s with heats := hs } := s.stopGroups_eq g _

theorem State.stopGang_stopped {s : State} {g : GangRef} (h : s.gang? g ≠ none) : (s.stopGang g).gangStopped g :=
  State.stopGroups_stopped _ h

theorem State.gangBlame_cause (s : State) (g : GangRef) (c : Nat) : (s.gangBlame g c).cause = c := by
  unfold State.gangBlame
  split <;> rfl

theorem State.core_modCore (s : State) (c : Nat) (f : Core → Core) : (s.modCore c f).core c = f (s.core c) :=
  (Store.get_set ..).trans (if_pos rfl)

/-! ### Cluster exchange -/

/-- What `SND_LANDING` leaves of a landing that was not received. -/
def State.displaced (s : State) (core : Nat) : State :=
  match (s.core core).landing with
  | some old => (s.stopGang old.sender).detect (s.gangBlame old.sender 0x85)
  | none => s

/-- A core's landing register with a landing in it. -/
def State.setLanding (s : State) (core : Nat) (l : Landing) : State :=
  ({ s with nextOp := l.stamp + 1 } : State).modCore core fun c => { c with landing := some l }

theorem State.setLanding_core (s : State) (core : Nat) (l : Landing) : ((s.setLanding core l).core core).landing = some l :=
  congrArg (·.landing) (State.core_modCore ({ s with nextOp := l.stamp + 1 } : State) core fun c => { c with landing := some l })

/-- What a `snd` lands now. -/
def State.landingNow (s : State) (core : Nat) (g : GangRef) (data : List Word) : Landing :=
  { at_ := s.now, stamp := (s.displaced core).nextOp, sender := g, data := data }

theorem exec_sndLanding {s : State} {core : Nat} {g : GangRef} {data : List Word} (ha : s.arg = .sndLanding core g data) :
    exec .sndLanding s = .next (((s.displaced core).setLanding core (s.landingNow core g data)).push (s.now + 8) 48
      (.landingNotReceived core (s.landingNow core g data).stamp)) := by
  show execSndLanding s = _
  unfold execSndLanding
  rw [ha]
  rfl

theorem State.displaced_files (s : State) (core : Nat) : (s.displaced core).files = s.files := by
  unfold State.displaced
  split
  · exact State.stopGang_files ..
  · rfl

theorem sndLanding_effect {s : State} {core : Nat} {g : GangRef} {data : List Word} (ha : s.arg = .sndLanding core g data) :
    ∃ t : State, exec .sndLanding s = .next t ∧ sameFiles s t ∧ s.keeps t [] ∧
      (∃ l, (t.core core).landing = some l ∧ l.data = data ∧ l.sender = g ∧
        t.awaits (s.now + 8) (.landingNotReceived core l.stamp)) ∧
      match (s.core core).landing with
      | none => t.detects = s.detects
      | some old => ∃ d, t.detects = s.detects ++ [d] ∧ d.cause = 0x85 ∧
          (s.gang? old.sender ≠ none → t.gangStopped old.sender) := by
  refine ⟨_, exec_sndLanding ha, s.displaced_files core, (execSndLanding_keeps s).keeps (exec_sndLanding ha),
    ⟨s.landingNow core g data, State.setLanding_core .., rfl, rfl, State.push_awaits ..⟩, ?_⟩
  cases hl : (s.core core).landing with
  | none => simp only [State.displaced, hl]; rfl
  | some old =>
    obtain ⟨hs, e⟩ := s.stopGang_eq old.sender
    refine ⟨s.gangBlame old.sender 0x85, ?_, State.gangBlame_cause .., fun hg => ?_⟩
    · simp only [State.displaced, hl, e]; rfl
    · refine State.quadsStopped_congr (State.stopGang_stopped hg) ?_
      simp only [State.displaced, hl]; rfl

theorem landingNotReceived_other {s : State} {core stamp : Nat} {l : Landing} (ha : s.arg = .landingNotReceived core stamp)
    (hl : (s.core core).landing = some l) (hn : l.stamp ≠ stamp) : exec .landingNotReceived s = .next s := by
  show execLandingNotReceived s = _
  unfold execLandingNotReceived
  rw [ha]
  dsimp only
  rw [hl]
  exact if_neg hn

theorem landingNotReceived_late {s : State} {core stamp : Nat} {l : Landing} {h : Heat} (ha : s.arg = .landingNotReceived core stamp)
    (hl : (s.core core).landing = some l) (hh : s.heat? l.sender.hid = some h) (hst : l.stamp = stamp)
    (hi : h.issuesAt core (s.now - h.anchor) = true) (hg : s.gang? l.sender ≠ none) :
    ∃ (t : State) (d : Detect), exec .landingNotReceived s = .next t ∧ (t.core core).landing = none ∧
      t.detects = s.detects ++ [d] ∧ d.cause = 0x85 ∧ t.gangStopped l.sender ∧ sameFiles s t ∧ s.keeps t [] := by
  have he : exec .landingNotReceived s = .next (((s.modCore core fun c => { c with landing := none }).stopGang l.sender).detect
      (s.gangBlame l.sender 0x85)) := by
    show execLandingNotReceived s = _
    unfold execLandingNotReceived
    rw [ha]
    dsimp only
    rw [hl]
    dsimp only
    rw [if_pos hst, hh]
    dsimp only
    rw [hi]
    rfl
  obtain ⟨hs, e⟩ := (s.modCore core fun c => { c with landing := none }).stopGang_eq l.sender
  refine ⟨_, s.gangBlame l.sender 0x85, he, ?_, ?_, State.gangBlame_cause .., ?_, ?_, (execLandingNotReceived_keeps s).keeps he⟩
  · rw [e]; exact congrArg (·.landing) (State.core_modCore s core fun c => { c with landing := none })
  · rw [State.detect_detects, e]; rfl
  · exact State.quadsStopped_congr (State.stopGang_stopped (s := s.modCore core fun c => { c with landing := none }) hg) rfl
  · exact (State.detect_files ..).trans ((State.stopGang_files ..).trans (State.modCore_files ..))

/-! ### Sessions -/

theorem csyncSessionOpen_effect {s : State} {hid cl m tag : Nat} {h : Heat} (ha : s.arg = .csyncSessionOpen hid cl m tag)
    (hh : s.heat? hid = some h) (hi : h.issuesAt (4 * cl) (s.now - h.anchor) = true)
    (hr : ∀ x ∈ h.teams, clusterOf x.core = cl → m.testBit (crewIndex x) = true → x.retired = false) :
    ∃ t : State, exec .csyncSessionOpen s = .next t ∧ sameFiles s t ∧
      (t.heat? hid).map (·.sessions) = some (h.sessions ++ [(cl, m, tag, some (s.now - h.anchor))]) := by
  have hgone : (h.teams.any fun t => clusterOf t.core == cl && m.testBit (crewIndex t) && t.retired) = false := by
    rw [List.any_eq_false]
    intro x hx hc
    simp only [Bool.and_eq_true, beq_iff_eq] at hc
    obtain ⟨⟨h1, h2⟩, h3⟩ := hc
    rw [hr x hx h1 h2] at h3
    cases h3
  have he : exec .csyncSessionOpen s = .next (s.modHeat hid fun h =>
      { h with sessions := h.sessions ++ [(cl, m, tag, some (s.now - h.anchor))] }) := by
    show execCsyncSessionOpen s = _
    unfold execCsyncSessionOpen
    rw [ha]
    dsimp only
    rw [hh]
    dsimp only
    rw [hi, hgone]
    rfl
  refine ⟨_, he, State.modHeat_files _ _ _ fun _ => rfl, ?_⟩
  rw [State.heat?_modHeat, hh, Option.map_some, Option.map_some, if_pos (State.heat?_hid hh)]
  exact fun _ => rfl

/-! ### Spans -/

theorem foldl_first {α : Type} (key : α → Nat) (f : α → α → α) (hf : ∀ x y, f x y = if key y < key x then y else x) (l : List α) :
    ∀ a, (l.foldl f a = a ∨ l.foldl f a ∈ l) ∧ key (l.foldl f a) ≤ key a ∧ ∀ y ∈ l, key (l.foldl f a) ≤ key y := by
  induction l with
  | nil => exact fun a => ⟨.inl rfl, Nat.le_refl _, by simp⟩
  | cons b r ih =>
    intro a
    obtain ⟨h1, h2, h3⟩ := ih (f a b)
    rw [List.foldl_cons]
    have hk : key (f a b) ≤ key a ∧ key (f a b) ≤ key b ∧ (f a b = a ∨ f a b = b) := by
      rw [hf]
      split
      · exact ⟨by omega, Nat.le_refl _, .inr rfl⟩
      · exact ⟨Nat.le_refl _, by omega, .inl rfl⟩
    refine ⟨?_, h2.trans hk.1, fun y hy => ?_⟩
    · obtain h | h := h1
      · rw [h]
        exact hk.2.2.imp_right fun h => by simp [h]
      · exact .inr (List.mem_cons_of_mem _ h)
    · obtain rfl | hy := List.mem_cons.1 hy
      · exact h2.trans hk.2.1
      · exact h3 y hy

/-- The groups of a gang that have not reached `spe` and go on. -/
def Gang.late (y : Gang) : List Group := y.groups.filter fun gr => !gr.atSpe && gr.stopped.isNone

/-- The quads and place of the late group with the lowest quad. -/
def Gang.lowLate (y : Gang) : BitVec 8 × Nat := y.late.foldl (fun (m : BitVec 8 × Nat) gr =>
  if (lowestBit gr.quads).getD 8 < (lowestBit m.1).getD 8 then (gr.quads, gr.pc) else m) (0, 0)

theorem lowestBit_lt {w : BitVec 8} (h : w ≠ 0) : (lowestBit w).getD 8 < 8 := by
  obtain ⟨i, hi, hb⟩ : ∃ i < 8, w.getLsbD i = true := by
    by_contra hn
    refine h (BitVec.eq_of_getLsbD_eq fun i hi => ?_)
    simpa using fun hb => hn ⟨i, hi, hb⟩
  exact Nat.lt_of_le_of_lt (lowestBit_le hb) hi

/-- The late group of the lowest quad is found. -/
theorem Gang.lowLate_spec {y : Gang} (hq : ∀ gr ∈ y.groups, gr.quads ≠ 0) (hl : y.late ≠ []) :
    ∃ gr ∈ y.late, y.lowLate = (gr.quads, gr.pc) ∧ ∀ z ∈ y.late, (lowestBit gr.quads).getD 8 ≤ (lowestBit z.quads).getD 8 := by
  have e : y.lowLate = (y.late.map fun gr => (gr.quads, gr.pc)).foldl
      (fun m x => if (lowestBit x.1).getD 8 < (lowestBit m.1).getD 8 then x else m) (0, 0) := by
    rw [List.foldl_map]; rfl
  obtain ⟨h1, -, h3⟩ := foldl_first (fun x : BitVec 8 × Nat => (lowestBit x.1).getD 8)
    (fun m x => if (lowestBit x.1).getD 8 < (lowestBit m.1).getD 8 then x else m) (fun _ _ => rfl)
    (y.late.map fun gr => (gr.quads, gr.pc)) (0, 0)
  rw [← e] at h1 h3
  obtain h1 | h1 := h1
  · obtain ⟨a, ha⟩ := List.exists_mem_of_ne_nil _ hl
    have hlt := lowestBit_lt (hq a (List.mem_of_mem_filter ha))
    have := h3 _ (List.mem_map_of_mem ha)
    rw [h1] at this
    exact absurd (this.trans_lt hlt) (by decide)
  · obtain ⟨gr, hgr, e⟩ := List.mem_map.1 h1
    refine ⟨gr, hgr, e.symm, fun z hz => ?_⟩
    have := h3 _ (List.mem_map_of_mem hz)
    rwa [← e] at this

theorem exec_spanEnd {s : State} {g : GangRef} {e : Nat} {h : Heat} {x : Team} {y : Gang} (ha : s.arg = .spanEnd g e)
    (hh : s.heat? g.hid = some h) (hx : s.team? ⟨g.hid, g.team⟩ = some x) (hy : s.gang? g = some y) : exec .spanEnd s =
      if !h.teamIssuesAt x e || (y.late = [] && y.groups.any (·.stopped.isSome)) then .next (s.park g.hid 48 (.spanEnd g e))
      else if y.spans.contains e then .next ((s.stopGroups g y.lowLate.1).detect
        { s.gangBlame g 0x81 with qmask := y.lowLate.1.toNat, pc := y.lowLate.2 })
      else .next s := by
  show execSpanEnd s = _
  unfold execSpanEnd
  rw [ha]
  dsimp only
  rw [hh, hx, hy]
  rfl

theorem State.gangBlame_names {s : State} {g : GangRef} {c : Nat} {x : Team} {y : Gang} (hx : s.team? ⟨g.hid, g.team⟩ = some x)
    (hy : s.gang? g = some y) : (s.gangBlame g c).team = g.team ∧ (s.gangBlame g c).gang = g.gang := by
  unfold State.gangBlame
  rw [hx, hy]
  exact ⟨rfl, rfl⟩

/-- A span still open at its end names its lowest late group. -/
theorem spanEnd_late {s : State} {g : GangRef} {e : Nat} {h : Heat} {x : Team} {y : Gang} (ha : s.arg = .spanEnd g e)
    (hh : s.heat? g.hid = some h) (hx : s.team? ⟨g.hid, g.team⟩ = some x) (hy : s.gang? g = some y)
    (hi : h.teamIssuesAt x e = true) (hgr : ∀ gr ∈ y.groups, gr.stopped = none ∧ gr.quads ≠ 0) (he : e ∈ y.spans)
    (hlate : ∃ gr ∈ y.groups, gr.atSpe = false) :
    ∃ (t : State) (d : Detect), exec .spanEnd s = .next t ∧ t.detects = s.detects ++ [d] ∧ d.cause = 0x81 ∧
      d.team = g.team ∧ d.gang = g.gang ∧ sameFiles s t ∧ s.keeps t [] ∧
      ∃ gr ∈ y.groups, gr.atSpe = false ∧ d.qmask = gr.quads.toNat ∧ d.pc = gr.pc ∧ t.quadsStopped g gr.quads ∧
        ∀ z ∈ y.groups, z.atSpe = false → (lowestBit gr.quads).getD 8 ≤ (lowestBit z.quads).getD 8 := by
  have hmem : ∀ z ∈ y.groups, z.atSpe = false → z ∈ y.late := fun z hz hs =>
    List.mem_filter.2 ⟨hz, by rw [hs, (hgr z hz).1]; rfl⟩
  obtain ⟨z, hz, hzs⟩ := hlate
  obtain ⟨gr, hgrl, hlow, hmin⟩ := Gang.lowLate_spec (fun gr hm => (hgr gr hm).2) (List.ne_nil_of_mem (hmem z hz hzs))
  obtain ⟨hgm, hgs⟩ := List.mem_filter.1 hgrl
  have hx' := exec_spanEnd ha hh hx hy
  rw [if_neg (by simp [hi, List.ne_nil_of_mem hgrl]), if_pos (by simpa using he), hlow] at hx'
  have hspe : gr.atSpe = false := by simp at hgs; exact hgs.1
  obtain ⟨hs, eq⟩ := s.stopGroups_eq g gr.quads
  refine ⟨_, { s.gangBlame g 0x81 with qmask := gr.quads.toNat, pc := gr.pc }, hx', ?_, State.gangBlame_cause ..,
    (State.gangBlame_names hx hy).1, (State.gangBlame_names hx hy).2, ?_, (execSpanEnd_keeps s).keeps hx', gr, hgm,
    hspe, rfl, rfl, ?_, fun w hw hws => hmin w (hmem w hw hws)⟩
  · rw [State.detect_detects, eq]
  · exact (State.detect_files ..).trans (State.stopGroups_files ..)
  · exact State.quadsStopped_congr (State.stopGroups_stopped gr.quads (by rw [hy]; simp)) rfl

theorem spanEnd_effect {s : State} {g : GangRef} {e : Nat} {h : Heat} {x : Team} {y : Gang} (ha : s.arg = .spanEnd g e)
    (hh : s.heat? g.hid = some h) (hx : s.team? ⟨g.hid, g.team⟩ = some x) (hy : s.gang? g = some y) :
    (h.teamIssuesAt x e = true → (∀ gr ∈ y.groups, gr.stopped = none ∧ gr.quads ≠ 0) → e ∉ y.spans →
      exec .spanEnd s = .next s) ∧
    (h.teamIssuesAt x e = false → ∃ t : State, exec .spanEnd s = .next t ∧ t.detects = s.detects ∧ sameFiles s t ∧
      (t.heat? g.hid).map (fun k => k.parked.map (·.ev)) = some (h.parked.map (·.ev) ++ [.spanEnd g e])) := by
  refine ⟨fun hi hgr he => ?_, fun hi => ⟨s.park g.hid 48 (.spanEnd g e), ?_, rfl, State.park_files .., State.park_heat? hh⟩⟩
  · have hany : y.groups.any (·.stopped.isSome) = false := by
      rw [List.any_eq_false]
      intro gr hm
      simp [(hgr gr hm).1]
    rw [exec_spanEnd ha hh hx hy, if_neg (by simp [hi, hany]), if_neg (by simpa using he)]
  · rw [exec_spanEnd ha hh hx hy, if_pos (by simp [hi])]

end Sys2Proof.Machine
end

section
/-! PROOFS. Waits, merges, deadlines and fired thresholds: O49. -/
namespace Sys2Proof.Machine

/-! ### Groups that wait -/

/-- A group that waits on a barrier object goes on when the object's visible phase has left its own. -/
def State.wakeBwt (s : State) (x : Team) (ready : Nat) (gr : Group) : Group :=
  match gr.wait with
  | .bwt h p =>
    let b := (s.core x.core).bar (handleIdx h)
    if b.alloc && b.gen == handleGen h && visiblePhase b s.now != p then { gr with wait := .none, ready := ready } else gr
  | _ => gr

theorem State.wakeBwt_quads (s : State) (x : Team) (ready : Nat) (gr : Group) : (s.wakeBwt x ready gr).quads = gr.quads := by
  unfold State.wakeBwt
  dsimp only
  repeat' split
  all_goals rfl

/-- A change of every group that keeps its quads. -/
theorem State.group?_mapGroups {s : State} {g : GangRef} {q : BitVec 8} {gr : Group} (f : Group → Group)
    (hf : ∀ x, (f x).quads = x.quads) (h : s.group? g q = some gr) :
    (s.modGang g fun y => { y with groups := y.groups.map f }).group? g q = some (f gr) := by
  unfold State.group? at h ⊢
  obtain ⟨y, hy, hgr⟩ := Option.bind_eq_some_iff.1 h
  have hp : (fun x : Group => x.quads == q) ∘ f = fun x => x.quads == q := by funext x; simp [hf]
  rw [State.gang?_modGang, if_pos rfl, hy, Option.map_some, Option.bind_some, List.find?_map, hp, hgr, Option.map_some]

theorem State.teamBase_of {s : State} {r : TeamRef} {h : Heat} {x : Team} (hh : s.heat? r.hid = some h) (hx : s.team? r = some x) :
    s.teamBase r = h.base x := by
  rw [State.teamBase, hh, hx]

theorem exec_bwtResume {s : State} {g : GangRef} {q0 : BitVec 8} {h : Heat} {x : Team} (ha : s.arg = .bwtResume g q0)
    (hh : s.heat? g.hid = some h) (hn : h.halt = none) (hx : s.team? ⟨g.hid, g.team⟩ = some x) : exec .bwtResume s =
      .next (s.modGang g fun y => { y with groups := y.groups.map (s.wakeBwt x (s.now - h.base x)) }) := by
  have hb := State.teamBase_of (r := ⟨g.hid, g.team⟩) hh hx
  have e : exec .bwtResume s = .next (s.modGang g fun y => { y with groups := y.groups.map (s.wakeBwt x
      (min (s.now - s.teamBase ⟨g.hid, g.team⟩) ((((s.heat? g.hid).bind (·.halt)).map (·.2)).getD
        (s.now - s.teamBase ⟨g.hid, g.team⟩)))) }) := by
    show execBwtResume s = _
    unfold execBwtResume
    rw [ha]
    dsimp only
    rw [hx]
    rfl
  rw [e, hh, Option.bind_some, hn, hb, Option.map_none, Option.getD_none, Nat.min_self]

theorem bwtResume_effect {s : State} {g : GangRef} {q q0 : BitVec 8} {h : Heat} {x : Team} {gr : Group} {hd : Word} {p : BitVec 16}
    (ha : s.arg = .bwtResume g q0) (hh : s.heat? g.hid = some h) (hn : h.halt = none) (hx : s.team? ⟨g.hid, g.team⟩ = some x)
    (hgr : s.group? g q = some gr) (hw : gr.wait = .bwt hd p) :
    let b := (s.core x.core).bar (handleIdx hd)
    ∃ t : State, exec .bwtResume s = .next t ∧ sameFiles s t ∧
      t.group? g q = some (if b.alloc = true ∧ b.gen = handleGen hd ∧ visiblePhase b s.now ≠ p
        then { gr with wait := .none, ready := s.now - h.base x } else gr) := by
  refine ⟨_, exec_bwtResume ha hh hn hx, State.modGang_files _ _ _ fun _ => rfl, ?_⟩
  rw [State.group?_mapGroups _ (State.wakeBwt_quads s x _) hgr]
  simp only [State.wakeBwt, hw, Bool.and_eq_true, beq_iff_eq, bne_iff_ne, and_assoc]

/-! ### Groups that come together -/

theorem exec_rejoinMerge {s : State} {g : GangRef} {y : Gang} {gr : Group} {rest : List Group} {word next : Nat}
    (ha : s.arg = .rejoinMerge g) (hy : s.gang? g = some y) (hgs : y.groups = gr :: rest) (hw : gr.wait = .rejoin word next)
    (hr : ∀ z ∈ rest, ∃ n, z.wait = .rejoin word n) : exec .rejoinMerge s =
      .next (s.modGang g fun x => x.merge next (s.now - s.teamBase ⟨g.hid, g.team⟩ + 1)) := by
  have hall : (gr :: rest).all (fun z => z.atRejoin word) = true := by
    rw [List.all_eq_true]
    intro z hz
    obtain rfl | hz := List.mem_cons.1 hz
    · simp [Group.atRejoin, hw]
    · obtain ⟨n, hn⟩ := hr z hz
      simp [Group.atRejoin, hn]
  obtain ⟨_, _, _, _, _, _, wait, _, _⟩ := gr
  obtain rfl : wait = .rejoin word next := hw
  show execRejoinMerge s = _
  unfold execRejoinMerge
  rw [ha]
  dsimp only
  rw [hy]
  dsimp only
  rw [hgs]
  dsimp only
  rw [if_pos hall]

theorem rejoinMerge_effect {s : State} {g : GangRef} {h : Heat} {x : Team} {y : Gang} {gr : Group} {rest : List Group}
    {word next : Nat} (ha : s.arg = .rejoinMerge g) (hh : s.heat? g.hid = some h) (hx : s.team? ⟨g.hid, g.team⟩ = some x)
    (hy : s.gang? g = some y) (hgs : y.groups = gr :: rest) (hw : gr.wait = .rejoin word next)
    (hr : ∀ z ∈ rest, ∃ n, z.wait = .rejoin word n) :
    ∃ (t : State) (m : Group), exec .rejoinMerge s = .next t ∧ sameFiles s t ∧ (t.gang? g).map (·.groups) = some [m] ∧
      m.quads = y.present ∧ m.pc = next ∧ m.wait = .none ∧ m.ready = s.now - h.base x + 1 ∧ m.stack = gr.stack ∧
      m.resume = none := by
  refine ⟨_, { Group.start y.present next (s.now - s.teamBase ⟨g.hid, g.team⟩ + 1) gr.stack with
      stopped := y.groups.foldl (fun m x => leastSet m x.stopped) none }, exec_rejoinMerge ha hy hgs hw hr,
    State.modGang_files _ _ _ fun _ => rfl, ?_, rfl, rfl, rfl, ?_, rfl, rfl⟩
  · rw [State.gang?_modGang, if_pos rfl, hy, Option.map_some, Option.map_some, Gang.merge, hgs]
    rfl
  · rw [State.teamBase_of (r := ⟨g.hid, g.team⟩) hh hx]; rfl

/-! ### Deadlines of a cox -/

theorem State.cox?_modCox (s : State) (r : TeamRef) (f : Cox → Cox) : (s.modCox r f).cox? r = (s.cox? r).map f := by
  unfold State.cox? State.modCox
  rw [State.team?_modTeam, if_pos rfl, Option.map_map, Option.map_map]
  rfl

theorem State.cox?_congr {s t : State} (h : t.heats = s.heats) (r : TeamRef) : t.cox? r = s.cox? r := by
  simp only [State.cox?, State.team?, State.heat?, h]

theorem State.stopCox_stopped {s : State} {r : TeamRef} (h : s.cox? r ≠ none) :
    ((s.stopCox r).cox? r).map (·.stopped.isSome) = some true := by
  obtain ⟨c, hc⟩ := Option.ne_none_iff_exists'.1 h
  obtain ⟨x, hx, -⟩ := Option.map_eq_some_iff.1 hc
  obtain ⟨k, hk, -⟩ := Option.bind_eq_some_iff.1 hx
  rw [State.stopCox, hk, hx]
  dsimp only
  rw [State.cox?_modCox, hc]
  rfl

theorem State.teamInfo_of {s : State} {r : TeamRef} {h : Heat} {x : Team} (hh : s.heat? r.hid = some h) (hx : s.team? r = some x) :
    s.teamInfo r = some (h, x, h.base x) := by
  rw [State.teamInfo, hh, hx]

/-- The cox goes on from the current cycle. -/
def Cox.goOn (x : Cox) (ready : Nat) : Cox := { x with wait := .none, ready := ready }

theorem exec_twaitDeadline {s : State} {r : TeamRef} {h : Heat} {x : Team} (ha : s.arg = .twaitDeadline r)
    (hh : s.heat? r.hid = some h) (hx : s.team? r = some x) : exec .twaitDeadline s =
      if !h.teamIssuesAt x (s.now - h.base x) || x.cox.stopped.isSome then .next (s.park r.hid 48 (.twaitDeadline r))
      else .next (s.modCox r fun c => c.goOn (s.now - h.base x)) := by
  show execTwaitDeadline s = _
  unfold execTwaitDeadline
  rw [ha]
  dsimp only
  rw [State.teamInfo_of hh hx]
  rfl

theorem twaitDeadline_effect {s : State} {r : TeamRef} {h : Heat} {x : Team} (ha : s.arg = .twaitDeadline r)
    (hh : s.heat? r.hid = some h) (hx : s.team? r = some x) :
    (h.teamIssuesAt x (s.now - h.base x) = true → x.cox.stopped = none →
      ∃ t : State, exec .twaitDeadline s = .next t ∧ sameFiles s t ∧
        t.cox? r = some { x.cox with wait := .none, ready := s.now - h.base x }) ∧
    (h.teamIssuesAt x (s.now - h.base x) = false ∨ x.cox.stopped ≠ none →
      ∃ t : State, exec .twaitDeadline s = .next t ∧ sameFiles s t ∧ t.cox? r = some x.cox ∧
        (t.heat? r.hid).map (fun k => k.parked.map (·.ev)) = some (h.parked.map (·.ev) ++ [.twaitDeadline r])) := by
  have hc : s.cox? r = some x.cox := by rw [State.cox?, hx]; rfl
  refine ⟨fun hi hs => ⟨s.modCox r fun c => c.goOn (s.now - h.base x), ?_, State.modCox_files .., ?_⟩,
    fun hp => ⟨s.park r.hid 48 (.twaitDeadline r), ?_, State.park_files .., ?_, State.park_heat? hh⟩⟩
  · rw [exec_twaitDeadline ha hh hx, if_neg (by simp [hi, hs])]
  · rw [State.cox?_modCox, hc]; rfl
  · rw [exec_twaitDeadline ha hh hx, if_pos]
    obtain hp | hp := hp
    · simp [hp]
    · simp [Option.isSome_iff_ne_none, hp]
  · rw [State.cox?, State.park_team?, hx]; rfl

/-- What a `bwt` that is past its deadline reports. -/
def coxLate (r : TeamRef) (x : Team) (hd : Word) : Detect :=
  { Detect.blank r.hid (streamRank x.core x.tsel 16) 0x8D 1 with
    team := r.team, core := x.core, fdix := x.cox.count - 1, pc := x.cox.pc - 4, info := hd.toNat }

theorem exec_coxBwtDeadline {s : State} {r : TeamRef} {h : Heat} {x : Team} {dl : Nat} {hd : Word} {p : BitVec 16}
    (ha : s.arg = .coxBwtDeadline r) (hh : s.heat? r.hid = some h) (hx : s.team? r = some x)
    (hi : h.teamIssuesAt x (s.now - h.base x) = true) (hs : x.cox.stopped = none) (hw : x.cox.wait = .phase dl hd p) :
    exec .coxBwtDeadline s =
      let b := (s.core x.core).bar (handleIdx hd)
      if b.alloc && b.gen == handleGen hd && visiblePhase b s.now != p then
        .next (s.modCox r fun c => c.goOn (s.now - h.base x))
      else .next (((s.modCox r fun c => c.goOn (s.now - h.base x)).stopCox r).detect (coxLate r x hd)) := by
  show execCoxBwtDeadline s = _
  unfold execCoxBwtDeadline
  rw [ha]
  dsimp only
  rw [State.teamInfo_of hh hx]
  dsimp only
  rw [if_neg (by simp [hi, hs]), hw]
  rfl

theorem coxBwtDeadline_effect {s : State} {r : TeamRef} {h : Heat} {x : Team} {dl : Nat} {hd : Word} {p : BitVec 16}
    (ha : s.arg = .coxBwtDeadline r) (hh : s.heat? r.hid = some h) (hx : s.team? r = some x)
    (hi : h.teamIssuesAt x (s.now - h.base x) = true) (hs : x.cox.stopped = none) (hw : x.cox.wait = .phase dl hd p) :
    let b := (s.core x.core).bar (handleIdx hd)
    if b.alloc = true ∧ b.gen = handleGen hd ∧ visiblePhase b s.now ≠ p then
      ∃ t : State, exec .coxBwtDeadline s = .next t ∧ sameFiles s t ∧ t.detects = s.detects ∧
        t.cox? r = some { x.cox with wait := .none, ready := s.now - h.base x }
    else
      ∃ (t : State) (d : Detect), exec .coxBwtDeadline s = .next t ∧ sameFiles s t ∧ t.detects = s.detects ++ [d] ∧
        d.cause = 0x8D ∧ d.info = hd.toNat ∧ (t.cox? r).map (·.stopped.isSome) = some true := by
  have hc : s.cox? r = some x.cox := by rw [State.cox?, hx]; rfl
  have hc' : (s.modCox r fun c => c.goOn (s.now - h.base x)).cox? r = some (x.cox.goOn (s.now - h.base x)) := by
    rw [State.cox?_modCox, hc]; rfl
  have he := exec_coxBwtDeadline ha hh hx hi hs hw
  intro b
  dsimp only at he
  split
  · rename_i hb
    rw [if_pos (by simpa [and_assoc] using hb)] at he
    exact ⟨_, he, State.modCox_files .., rfl, hc'⟩
  · rename_i hb
    rw [if_neg (by simpa [and_assoc] using hb)] at he
    obtain ⟨hs, e⟩ := (s.modCox r fun c => c.goOn (s.now - h.base x)).stopCox_eq r
    refine ⟨_, coxLate r x hd, he, ?_, by rw [State.detect_detects, e]; rfl, rfl, rfl, ?_⟩
    · exact (State.detect_files ..).trans ((State.stopCox_files ..).trans (State.modCox_files ..))
    · exact State.stopCox_stopped (by rw [hc']; simp)

end Sys2Proof.Machine
end

section
/-! PROOFS. The actions of fired thresholds, and the steps of streams: O49. -/
namespace Sys2Proof.Machine

/-- The account of a fired threshold's action. -/
def ackOf (x : BarmAct) : AckTo := { hid := x.hid, core := x.rel, bar := none, team := x.team }

/-- The host entry of a fired threshold. -/
def State.barmEntry (s : State) (core : Nat) (x : BarmAct) : RingEntry :=
  { id := s.nextOp, posted := s.now, core := core, tsel := x.tsel, heatid := x.heatid, team := x.team
    bytes := entryBytes x.heatid x.team [x.opb.toNat], ops := [], accepted := false, from_ := 0, done := ackOf x }

theorem exec_barmActionLaunch {s : State} {core : Nat} {x : BarmAct} (ha : s.arg = .barmActionLaunch core x) :
    exec .barmActionLaunch s = match x.act with
      | 0 => .next ((({ s with nextOp := s.nextOp + 1 } : State).post (x.opa.toNat % 64) (s.barmEntry core x)).entryReady
          (x.opa.toNat % 64) s.nextOp)
      | 1 => .next (s.accept (s.signalPost x.opa.toNat core x.opb 0 true (ackOf x)))
      | _ => .next ((s.choose s.now (s.now + 256)).2.push (s.choose s.now (s.now + 256)).1 47
          (.graphRelease x.queue (x.opa.toNat % 65536) x.heatid.toNat x.hid x.rel)) := by
  show execBarmActionLaunch s = _
  unfold execBarmActionLaunch
  rw [ha]
  rfl

theorem State.ring_modRing (s : State) (r : Nat) (f : Ring → Ring) : (s.modRing r f).ring r = f (s.ring r) :=
  (Store.get_set ..).trans (if_pos rfl)

theorem State.ring_push (s : State) (c k r : Nat) (e : Ev) : (s.push c k e).ring r = s.ring r := rfl

/-- An accepted entry with its cycle. -/
def RingEntry.acceptedFrom (e : RingEntry) (c : Nat) : RingEntry := { e with accepted := true, from_ := c }

/-- The only entry of an enabled ring becomes ready at a cycle that the device chooses. -/
theorem State.entryReady_single {s : State} {r : Nat} {e : RingEntry} (hen : (s.ring r).en = true)
    (hw : (s.ring r).waiting = [e]) (hacc : e.accepted = false) :
    ∃ (t : State) (c : Nat), s.entryReady r e.id = t ∧ t.files = s.files ∧ s.now ≤ c ∧ c ≤ s.now + 256 ∧
      (t.ring r).waiting = [e.acceptedFrom c] ∧ t.awaits c (.hostRingEntryVisible r) := by
  obtain ⟨n, hn⟩ := s.choose_eq s.now (s.now + 256)
  refine ⟨_, (s.choose s.now (s.now + 256)).1, rfl, ?_, State.le_choose .., State.choose_le _ (by omega), ?_⟩
  all_goals
    unfold State.entryReady
    rw [hw, List.find?_cons_of_pos (by simp)]
    dsimp only
    rw [hen, if_neg (by simp), hw, if_neg (by simp [hacc]), hn]
  · exact State.push_files ..
  · refine ⟨?_, State.push_awaits ..⟩
    rw [State.ring_push, State.ring_modRing]
    show List.map _ (s.ring r).waiting = _
    rw [hw]
    simp [RingEntry.acceptedFrom]

theorem State.ring_post {s : State} {r : Nat} {e : RingEntry} (hw : (s.ring r).waiting = []) :
    (s.post r e).ring r = { s.ring r with waiting := [{ e with ops := s.earlierOps e.core e.posted }] } := by
  rw [State.post, State.ring_modRing, hw]
  rfl

theorem barmActionLaunch_post {s : State} {core : Nat} {x : BarmAct} (ha : s.arg = .barmActionLaunch core x) (hx : x.act = 0)
    (hen : (s.ring (x.opa.toNat % 64)).en = true) (hw : (s.ring (x.opa.toNat % 64)).waiting = []) :
    ∃ (t : State) (e : RingEntry), exec .barmActionLaunch s = .next t ∧ sameFiles s t ∧
      (t.ring (x.opa.toNat % 64)).waiting = [e] ∧
      e.id = s.nextOp ∧ e.posted = s.now ∧ e.core = core ∧ e.tsel = x.tsel ∧ e.heatid = x.heatid ∧ e.team = x.team ∧
      e.accepted = true ∧ e.ops = s.earlierOps core s.now ∧ e.done = ackOf x ∧
      e.bytes.length = 32 ∧ e.bytes.take 4 = leBytes 4 x.heatid.toNat ∧ (e.bytes.drop 8).take 4 = leBytes 4 x.opb.toNat ∧
      s.now ≤ e.from_ ∧ e.from_ ≤ s.now + 256 ∧ t.awaits e.from_ (.hostRingEntryVisible (x.opa.toNat % 64)) := by
  have he := exec_barmActionLaunch ha
  rw [hx] at he
  have hr := State.ring_post (s := { s with nextOp := s.nextOp + 1 }) (e := s.barmEntry core x) hw
  obtain ⟨t, c, ht, hf, h1, h2, hr, hw⟩ := State.entryReady_single (congrArg Ring.en hr ▸ hen) (congrArg Ring.waiting hr) rfl
  refine ⟨t, _, he.trans (congrArg _ ht), hf, hr, rfl, rfl, rfl, rfl, rfl, rfl, rfl, rfl, rfl, ?_, ?_, ?_, h1, h2, hw⟩
  · simp [RingEntry.acceptedFrom, State.barmEntry, entryBytes, leBytes_length]
  · simp [RingEntry.acceptedFrom, State.barmEntry, entryBytes, leBytes]
  · simp [RingEntry.acceptedFrom, State.barmEntry, entryBytes, leBytes]

theorem barmActionLaunch_signal {s : State} {core : Nat} {x : BarmAct} (ha : s.arg = .barmActionLaunch core x) (hx : x.act = 1)
    (hp : BitVec.ofNat 17 x.opa.toNat = s.pkgNo) (hc : bits x.opa.toNat 25 17 < 384) :
    ∃ (t : State) (c : Nat), exec .barmActionLaunch s = .next t ∧ sameFiles s t ∧ s.now ≤ c ∧
      t.awaits c (.localSignalApply (bits x.opa.toNat 25 17) x.opb 0 true (ackOf x)) := by
  have hle : ∀ (l : List Due) (m : Nat), m ≤ l.foldl (fun m d => match d.ev with
      | .localSignalApply _ _ _ _ b => if b.hid = (ackOf x).hid ∧ b.core = (ackOf x).core then max m d.at_ else m
      | _ => m) m := by
    intro l
    induction l with
    | nil => exact fun m => Nat.le_refl m
    | cons d r ih =>
      refine fun m => Nat.le_trans ?_ (ih _)
      dsimp only
      repeat' split
      · exact Nat.le_max_left ..
      · exact Nat.le_refl m
      · exact Nat.le_refl m
  have he := exec_barmActionLaunch ha
  rw [hx, State.signalPost, if_pos ⟨hp, hc⟩] at he
  exact ⟨_, _, he, (State.push_files ..).trans (State.choose_files ..), (hle s.agenda s.now).trans (State.le_choose ..),
    State.push_awaits ..⟩

theorem barmActionLaunch_graph {s : State} {core : Nat} {x : BarmAct} (ha : s.arg = .barmActionLaunch core x) (hx : x.act = 2) :
    ∃ (t : State) (c : Nat), exec .barmActionLaunch s = .next t ∧ sameFiles s t ∧ s.now ≤ c ∧ c ≤ s.now + 256 ∧
      t.awaits c (.graphRelease x.queue (x.opa.toNat % 65536) x.heatid.toNat x.hid x.rel) := by
  have he := exec_barmActionLaunch ha
  rw [hx] at he
  exact ⟨_, _, he, (State.push_files ..).trans (State.choose_files ..), State.le_choose .., State.choose_le _ (by omega),
    State.push_awaits ..⟩

/-- Settles O49: each step of a stream by its own lemma. -/
theorem streamSteps : Obligations.StreamSteps :=
  ⟨fun _ _ _ _ ha => sndLanding_effect ha,
    fun _ _ _ _ _ ha hl hh => ⟨landingNotReceived_other ha hl, fun hst hi hg => landingNotReceived_late ha hl hh hst hi hg⟩,
    fun _ _ _ _ _ _ ha hh hi hr => csyncSessionOpen_effect ha hh hi hr,
    fun _ _ _ _ _ _ ha hh hx hy =>
      have ⟨h1, h2⟩ := spanEnd_effect ha hh hx hy
      ⟨fun hi hgr => ⟨h1 hi hgr, fun he hl => spanEnd_late ha hh hx hy hi hgr he hl⟩, h2⟩,
    fun _ _ _ _ _ _ _ _ _ ha hh hn hx hgr hw => bwtResume_effect ha hh hn hx hgr hw,
    fun _ _ _ _ _ _ _ _ _ ha hh hx hy hgs hw hr => rejoinMerge_effect ha hh hx hy hgs hw hr,
    fun _ _ _ _ ha hh hx => twaitDeadline_effect ha hh hx,
    fun _ _ _ _ _ _ _ ha hh hx hi hs hw => coxBwtDeadline_effect ha hh hx hi hs hw,
    fun _ _ _ ha => ⟨fun hx hen hw => barmActionLaunch_post ha hx hen hw, fun hx hp hc => barmActionLaunch_signal ha hx hp hc,
      fun hx => barmActionLaunch_graph ha hx⟩⟩

end Sys2Proof.Machine
end
section
/-! PROOFS. Scheduled flits at their sender: O52. -/
namespace Sys2Proof.Machine

/-! ### Ports, and agendas that only grow -/

theorem State.port_modPort (s : State) (p : Nat) (f : Port → Port) : (s.modPort p f).port p = f (s.port p) :=
  (Store.get_set ..).trans (if_pos rfl)

theorem State.port_modPort_other (s : State) {p q : Nat} (h : q ≠ p) (f : Port → Port) : (s.modPort p f).port q = s.port q :=
  (Store.get_set ..).trans (if_neg h)

theorem port_congr {s t : State} (h : t.ports = s.ports) (p : Nat) : t.port p = s.port p := congrArg (Store.get Port.init · p) h

/-- No step has left the agenda, and the registers are as they were. -/
structure Grows (s t : State) : Prop where
  agenda : ∀ d ∈ s.agenda, d ∈ t.agenda
  files : t.files = s.files

theorem Grows.refl (s : State) : Grows s s := ⟨fun _ h => h, rfl⟩

theorem Grows.trans {s t u : State} (h : Grows s t) (h' : Grows t u) : Grows s u :=
  ⟨fun d hd => h'.agenda d (h.agenda d hd), h'.files.trans h.files⟩

theorem Grows.awaits {s t : State} (h : Grows s t) {c : Nat} {e : Ev} (ha : s.awaits c e) : t.awaits c e :=
  ha.imp fun d ⟨hd, hc⟩ => ⟨h.agenda d hd, hc⟩

theorem Pushed.grows {s t : State} (h : Pushed s t) : Grows s t := ⟨h.2, files_of_heats h.heats⟩

theorem Grows.of_eq {s t : State} (ha : t.agenda = s.agenda) (hf : t.files = s.files) : Grows s t := ⟨fun _ h => ha ▸ h, hf⟩

theorem State.push_grows (s : State) (c r : Nat) (e : Ev) : Grows s (s.push c r e) := (State.push_pushed ..).grows

theorem State.modPort_grows (s : State) (p : Nat) (f : Port → Port) : Grows s (s.modPort p f) := .of_eq rfl (State.modPort_files ..)

theorem State.detect_grows (s : State) (d : Detect) : Grows s (s.detect d) := .of_eq rfl (State.detect_files ..)

theorem foldl_grows {α : Type} (f : State → α → State) (h : ∀ s x, Grows s (f s x)) (l : List α) : ∀ s, Grows s (l.foldl f s) := by
  induction l with
  | nil => exact fun s => .refl s
  | cons x r ih => exact fun s => (h s x).trans (ih _)

theorem State.pushSub_awaits (s : State) (c r n : Nat) (e : Ev) : (s.pushSub c r n e).awaits c e :=
  ⟨_, (State.mem_pushSub ..).2 (.inl rfl), rfl, rfl⟩

/-! ### Reading a slot's bytes -/

theorem State.pushTransmit_pushed (s : State) (hid i : Nat) (e : FlowEntry) (base c : Nat) :
    Pushed s (s.pushTransmit hid i e base c) := by
  unfold State.pushTransmit
  split
  · exact State.push_pushed ..
  · exact .refl s

theorem State.pushTransmit_awaits {s : State} {hid i base c n : Nat} {e : FlowEntry} (h : e.slotFrom base c = some n) :
    (s.pushTransmit hid i e base c).awaits (max s.now (2 * n - e.lead)) (.transmitRead hid i n false) := by
  unfold State.pushTransmit
  rw [h]
  exact State.push_awaits ..

theorem State.transmitFrom_grows (s : State) (h : Heat) (i : Nat) (e : FlowEntry) (k : Nat) (late : Bool) :
    Grows s (s.transmitFrom h i e k late) := by
  have hc : ∀ core sbase offs, Grows s (s.bytesCorrected core sbase offs) := fun _ _ _ =>
    .of_eq (State.corrected_agenda ..) (State.corrected_files ..)
  unfold State.transmitFrom
  dsimp only
  repeat' split
  · exact .refl s
  · exact State.push_grows ..
  · exact State.push_grows ..
  · exact State.push_grows ..
  · exact State.modPort_grows ..
  · exact (hc ..).trans (State.detect_grows ..)
  · exact (hc ..).trans (State.modPort_grows ..)
  · exact State.push_grows ..
  · exact .refl s

/-- A transmit entry has a slot to read: its frames have begun, it is not stopped, and bytes are left to send. -/
structure Reads (h : Heat) (i : Nat) (e : FlowEntry) (k : Nat) : Prop where
  sends : e.role = 0
  begun : h.flowBegun e (2 * k) = true
  goesOn : h.flowStopped i (2 * k) = false
  left : h.cursorAt e (2 * k) < e.len

theorem Reads.not_idle {h : Heat} {i : Nat} {e : FlowEntry} {k : Nat} (r : Reads h i e k) :
    ¬(e.role ≠ 0 ∨ !h.flowBegun e (2 * k) ∨ h.flowStopped i (2 * k) ∨ h.cursorAt e (2 * k) ≥ e.len) := by
  simp [r.sends, r.begun, r.goesOn, r.left]

section
variable {s : State} {h : Heat} {i k : Nat} {e : FlowEntry} {late : Bool} (r : Reads h i e k)
include r

theorem State.transmitFrom_global {va : Nat} (hp : s.flowPlace h.hid e (h.cursorAt e (2 * k)) = .global va) :
    (s.transmitFrom h i e k late).awaits
      (max s.now (2 * k - if dieOfPort e.port = dieOfStack (stackOf va) then 320 else 368)) (.stackAccess (.flowRead h.hid i k)) := by
  unfold State.transmitFrom
  dsimp only
  rw [if_neg r.not_idle, hp]
  exact State.push_awaits ..

variable {o code : Nat} {x : Team} (hp : s.flowPlace h.hid e (h.cursorAt e (2 * k)) = .scratch o code)
  (ht : s.team? ⟨h.hid, e.team⟩ = some x)
include hp ht

theorem State.transmitFrom_early (hk : late = false ∧ s.now + 16 < 2 * k) :
    (s.transmitFrom h i e k late).awaits (2 * k - 16) (.transmitRead h.hid i k true) := by
  unfold State.transmitFrom
  dsimp only
  rw [if_neg r.not_idle, hp, ht]
  dsimp only
  rw [if_pos (by simp [hk])]
  exact State.push_awaits ..

theorem State.transmitFrom_scratch (hk : ¬(late = false ∧ s.now + 16 < 2 * k)) :
    s.transmitFrom h i e k late = if s.landable x o code = true then
      if s.bytesLost x.core x.sbase ((List.range 256).map (o + ·)) = true then
        (s.bytesCorrected x.core x.sbase ((List.range 256).map (o + ·))).detect (s.flowAccessBlame h.hid e 0xF0 o)
      else (s.bytesCorrected x.core x.sbase ((List.range 256).map (o + ·))).putTx e.port k
        (s.readScratch x.core (4096 * x.sbase + o) 256)
      else s.putTx e.port k [] := by
  have hl : ∀ core sbase offs, (s.bytesCorrected core sbase offs).bytesLost core sbase offs = s.bytesLost core sbase offs := by
    intro core sbase offs
    unfold State.bytesCorrected State.corrected
    dsimp only
    split <;> rfl
  have hb : ∀ core sbase offs, (s.bytesCorrected core sbase offs).flowAccessBlame h.hid e 0xF0 o =
      s.flowAccessBlame h.hid e 0xF0 o := by
    intro core sbase offs
    unfold State.bytesCorrected State.corrected
    dsimp only
    split <;> rfl
  have hr : ∀ core sbase offs y z w, (s.bytesCorrected core sbase offs).readScratch y z w = s.readScratch y z w :=
    fun _ _ _ _ _ _ => congrArg (fun m => Store.getRun 0 _ m _) (State.corrected_scratch ..)
  have ha : ¬((!late && decide (s.now + 16 < 2 * k)) = true) := by simpa using hk
  unfold State.transmitFrom
  dsimp only
  rw [if_neg r.not_idle, hp, ht]
  dsimp only
  rw [if_neg ha, hl, hb, hr]
  cases s.landable x o code <;> rfl

theorem State.transmitFrom_lost (hk : ¬(late = false ∧ s.now + 16 < 2 * k)) (hl : s.landable x o code = true)
    (hb : s.bytesLost x.core x.sbase ((List.range 256).map (o + ·)) = true) :
    ∃ d, (s.transmitFrom h i e k late).detects = s.detects ++ [d] ∧ d.cause = 0xF0 ∧ d.hid = h.hid ∧ d.addr = o := by
  rw [State.transmitFrom_scratch r hp ht hk, if_pos hl, if_pos hb]
  exact ⟨_, congrArg (· ++ [_]) (State.corrected_detects ..), rfl, rfl, rfl⟩

theorem State.transmitFrom_read (hk : ¬(late = false ∧ s.now + 16 < 2 * k))
    (hn : ¬(s.landable x o code = true ∧ s.bytesLost x.core x.sbase ((List.range 256).map (o + ·)) = true)) :
    (s.transmitFrom h i e k late).detects = s.detects ∧
      ((s.transmitFrom h i e k late).port e.port).txBuf.find? (fun b => b.1 == 2 * k) = some (2 * k,
        if s.landable x o code then s.readScratch x.core (4096 * x.sbase + o) 256 else []) := by
  have hput : ∀ (u : State) (bs : List Byte), ((u.putTx e.port k bs).port e.port).txBuf.find? (fun b => b.1 == 2 * k) =
      some (2 * k, bs) := by
    intro u bs
    rw [State.putTx, State.port_modPort, List.find?_cons_of_pos (by simp)]
  rw [State.transmitFrom_scratch r hp ht hk]
  by_cases hl : s.landable x o code = true
  · rw [if_pos hl, if_neg (fun hb => hn ⟨hl, hb⟩), if_pos hl]
    exact ⟨State.corrected_detects .., hput ..⟩
  · rw [if_neg hl, if_neg hl]
    exact ⟨rfl, hput ..⟩

end

/-- What a heat's entry does at the read of a slot: nothing once the heat has completed. -/
def State.transmits (s : State) (hid i : Nat) (e : FlowEntry) (k : Nat) (late : Bool) : State :=
  match s.heat? hid with
  | some h => s.transmitFrom h i e k late
  | none => s

/-- A slot's send and the entry's next slot, put on the agenda. -/
def State.slotFollows (s : State) (hid i k : Nat) (e : FlowEntry) (base : Nat) : State :=
  (s.pushSub (max s.now (2 * k)) 60 (16 + e.port) (.scheduledFlitSend hid i k)).pushTransmit hid i e base (2 * k + 2)

section
variable (s : State) (hid i k : Nat) (e : FlowEntry) (base : Nat)

theorem State.slotFollows_pushed : Pushed s (s.slotFollows hid i k e base) :=
  (State.pushSub_pushed ..).trans (State.pushTransmit_pushed ..)

theorem State.slotFollows_send : (s.slotFollows hid i k e base).awaits (max s.now (2 * k)) (.scheduledFlitSend hid i k) :=
  (State.pushTransmit_pushed ..).awaits (State.pushSub_awaits ..)

theorem State.slotFollows_next {n : Nat} (hn : e.slotFrom base (2 * k + 2) = some n) :
    (s.slotFollows hid i k e base).awaits (max s.now (2 * n - e.lead)) (.transmitRead hid i n false) :=
  State.pushTransmit_awaits (s := State.pushSub ..) hn

end

/-- The slot's send and the entry's next slot are put on the agenda first. -/
theorem transmitRead_eq {s : State} {hid i k : Nat} {late : Bool} {e : FlowEntry} {base : Nat}
    (ha : s.arg = .transmitRead hid i k late) (hs : s.sender? hid i = some (e, base)) :
    exec .transmitRead s = .next ((if late then s else s.slotFollows hid i k e base).transmits hid i e k late) := by
  show execTransmitRead s = _
  unfold execTransmitRead
  rw [ha]
  dsimp only
  rw [hs]
  rfl

theorem State.transmits_grows (s : State) (hid i : Nat) (e : FlowEntry) (k : Nat) (late : Bool) :
    Grows s (s.transmits hid i e k late) := by
  unfold State.transmits
  split
  · exact State.transmitFrom_grows ..
  · exact .refl s

theorem Pushed.exists_eq {s t : State} (h : Pushed s t) : ∃ a q, t = { s with agenda := a, seq := q } := ⟨_, _, h.1⟩

/-- A transmit entry with a slot to read: from scratch 16 cycles before the slot, or at the stack cycle. -/
theorem transmitRead_reads {s u : State} {hid i k : Nat} {late : Bool} {e : FlowEntry} {h : Heat} {x : Team} (hu : Pushed s u)
    (hh : s.heat? hid = some h) (r : Reads h i e k) (ht : s.team? ⟨hid, e.team⟩ = some x) :
    (∀ o code, s.flowPlace hid e (h.cursorAt e (2 * k)) = .scratch o code →
      if late = false ∧ s.now + 16 < 2 * k then (u.transmits hid i e k late).awaits (2 * k - 16) (.transmitRead hid i k true)
      else if s.landable x o code = true ∧ s.bytesLost x.core x.sbase ((List.range 256).map (o + ·)) = true then
        ∃ d, (u.transmits hid i e k late).detects = s.detects ++ [d] ∧ d.cause = 0xF0 ∧ d.hid = hid ∧ d.addr = o
      else (u.transmits hid i e k late).detects = s.detects ∧
        ((u.transmits hid i e k late).port e.port).txBuf.find? (fun b => b.1 == 2 * k) = some (2 * k,
          if s.landable x o code then s.readScratch x.core (4096 * x.sbase + o) 256 else [])) ∧
    (∀ va, s.flowPlace hid e (h.cursorAt e (2 * k)) = .global va →
      (u.transmits hid i e k late).awaits
        (max s.now (2 * k - if dieOfPort e.port = dieOfStack (stackOf va) then 320 else 368)) (.stackAccess (.flowRead hid i k))) := by
  obtain ⟨a, q, rfl⟩ := hu.exists_eq
  obtain rfl := State.heat?_hid hh
  rw [show State.transmits _ h.hid i e k late = State.transmitFrom _ h i e k late by unfold State.transmits; rw [show State.heat? { s with agenda := a, seq := q } h.hid = some h from hh]]
  refine ⟨fun o code hp => ?_, fun va hp => State.transmitFrom_global (s := { s with agenda := a, seq := q }) r hp⟩
  split
  case isTrue hk => exact State.transmitFrom_early (s := { s with agenda := a, seq := q }) r hp ht hk
  case isFalse hk =>
    split
    case isTrue hb => exact State.transmitFrom_lost (s := { s with agenda := a, seq := q }) r hp ht hk hb.1 hb.2
    case isFalse hb => exact State.transmitFrom_read (s := { s with agenda := a, seq := q }) r hp ht hk hb

/-- A transmit slot's read, in every case. -/
theorem transmitRead_effect {s : State} {hid i k : Nat} {late : Bool} {e : FlowEntry} {base : Nat}
    (ha : s.arg = .transmitRead hid i k late) (hs : s.sender? hid i = some (e, base)) :
    ∃ t : State, exec .transmitRead s = .next t ∧ sameFiles s t ∧ s.keeps t [] ∧
      (late = false → t.awaits (max s.now (2 * k)) (.scheduledFlitSend hid i k) ∧
        ∀ n, e.slotFrom base (2 * k + 2) = some n → t.awaits (max s.now (2 * n - e.lead)) (.transmitRead hid i n false)) ∧
      ∃ u, Pushed s u ∧ t = u.transmits hid i e k late := by
  have he := transmitRead_eq ha hs
  have hk := (execTransmitRead_keeps s).keeps he
  have hu : Pushed s (if late then s else s.slotFollows hid i k e base) := by
    split
    · exact .refl s
    · exact State.slotFollows_pushed ..
  have hg := State.transmits_grows (if late then s else s.slotFollows hid i k e base) hid i e k late
  refine ⟨_, he, (hu.grows.trans hg).files, hk, fun hl => ?_, _, hu, rfl⟩
  subst hl
  simp only [if_neg Bool.false_ne_true] at hg ⊢
  exact ⟨hg.awaits (State.slotFollows_send ..), fun n hn => hg.awaits (State.slotFollows_next _ _ _ _ _ _ hn)⟩

/-! ### Sending a slot's flit -/

/-- The flit and the state that `flitNow` gives leave the port: the send is counted, and used bytes leave the buffer. -/
def State.flitSent (s : State) (e : FlowEntry) (x : Flit × State) : State :=
  let t := match x.1 with
    | .bytes _ => x.2.tick 7 e.port 1
    | _ => x.2
  t.modPort e.port fun p => { p with sent := some (s.now, x.1), txBuf := p.txBuf.filter fun b => decide (s.now < b.1) }

section
variable (s : State) (e : FlowEntry) (x : Flit × State)

theorem State.flitSent_sent : ((s.flitSent e x).port e.port).sent = some (s.now, x.1) := by
  unfold State.flitSent
  rw [State.port_modPort]

theorem State.flitSent_same : (s.flitSent e x).detects = x.2.detects ∧ (s.flitSent e x).heats = x.2.heats := by
  obtain ⟨f, u⟩ := x
  cases f with
  | bytes bs => exact ⟨State.tick_detects u 7 e.port 1, State.tick_heats u 7 e.port 1⟩
  | idle => exact ⟨rfl, rfl⟩
  | halt => exact ⟨rfl, rfl⟩

end

/-- What the slot of an entry carries: an idle flit once its heat has completed. -/
def State.flitOf (s : State) (hid i : Nat) (e : FlowEntry) (k : Nat) : Flit × State :=
  match s.heat? hid with
  | some h => s.flitNow h i e k
  | none => (.idle, s)

/-- The slots of the entry's flow in the bank that its port sends by. -/
def State.slotMine (s : State) (e : FlowEntry) : Prop :=
  slotFlow (s.port e.port).txTable (s.port e.port).txAct (slotIdx s.now) = some e.flow

theorem scheduledFlitSend_other {s : State} {hid i k : Nat} {e : FlowEntry} {base : Nat} (ha : s.arg = .scheduledFlitSend hid i k)
    (hs : s.sender? hid i = some (e, base)) (h : (s.port e.port).trained = false ∨ ¬s.slotMine e) :
    exec .scheduledFlitSend s = .next s := by
  show execScheduledFlitSend s = _
  unfold execScheduledFlitSend
  rw [ha]
  dsimp only
  rw [hs]
  dsimp only
  exact if_pos (h.imp (by simp) id)

theorem scheduledFlitSend_eq {s : State} {hid i k : Nat} {e : FlowEntry} {base : Nat} (ha : s.arg = .scheduledFlitSend hid i k)
    (hs : s.sender? hid i = some (e, base)) (ht : (s.port e.port).trained = true) (hm : s.slotMine e) :
    exec .scheduledFlitSend s = .next (s.flitSent e (s.flitOf hid i e k)) := by
  show execScheduledFlitSend s = _
  unfold execScheduledFlitSend
  rw [ha]
  dsimp only
  rw [hs]
  dsimp only
  exact (if_neg (not_or.2 ⟨by simp [ht], fun h => h hm⟩)).trans rfl

/-- The heat with an entry's cursor moved on past a slot. -/
def Heat.moved (e : FlowEntry) (cursor : Nat) (h : Heat) : Heat :=
  { h with cursors := Store.set 0 h.cursors (4 * e.flow + e.role) (cursor + 256) }

theorem Heat.moved_hid (e : FlowEntry) (cursor : Nat) (h : Heat) : (h.moved e cursor).hid = h.hid := rfl

section
variable {s : State} {h : Heat} {i k : Nat} {e : FlowEntry}

theorem State.flitNow_stopped (hst : h.flowStopped i s.now = true) : s.flitNow h i e k = (.halt, s) := by
  unfold State.flitNow
  exact if_pos hst

theorem State.flitNow_idle (hst : h.flowStopped i s.now = false) (hb : h.flowBegun e s.now = false ∨ e.len ≤ h.cursorAt e s.now) :
    s.flitNow h i e k = (.idle, s) := by
  unfold State.flitNow
  dsimp only
  rw [if_neg (by simp [hst]), if_pos (hb.imp (by simp) id)]

variable (hst : h.flowStopped i s.now = false) (hb : h.flowBegun e s.now = true) (hc : h.cursorAt e s.now < e.len)
include hst hb hc

theorem State.flitNow_relay (hr : e.role = 2) :
    s.flitNow h i e k = (s.modHeat h.hid (Heat.moved e (h.cursorAt e s.now))).relayed h.hid e (h.cursorAt e s.now) := by
  unfold State.flitNow
  dsimp only
  rw [if_neg (by simp [hst]), if_neg (by simp [hb, hc]), if_pos hr]
  rfl

theorem State.flitNow_bytes {bs : List Byte} (hr : e.role ≠ 2)
    (hf : (s.port e.port).txBuf.find? (fun b => b.1 == 2 * k) = some (2 * k, bs)) :
    s.flitNow h i e k = if bs = [] then
        (.idle, (s.modHeat h.hid (Heat.moved e (h.cursorAt e s.now))).detect (flowBlame h.hid e.port 0x8A e.flow))
      else (.bytes bs, s.modHeat h.hid (Heat.moved e (h.cursorAt e s.now))) := by
  unfold State.flitNow
  dsimp only
  rw [if_neg (by simp [hst]), if_neg (by simp [hb, hc]), if_neg hr]
  have hp : ∀ f : Heat → Heat, ((s.modHeat h.hid f).port e.port).txBuf.find? (fun b => b.1 == 2 * k) = some (2 * k, bs) :=
    fun _ => hf
  rw [hp]
  cases bs <;> rfl

theorem State.flitNow_buffer (hr : e.role ≠ 2) :
    (s.flitNow h i e k).2.heats = (s.modHeat h.hid (Heat.moved e (h.cursorAt e s.now))).heats := by
  unfold State.flitNow
  dsimp only
  rw [if_neg (by simp [hst]), if_neg (by simp [hb, hc]), if_neg hr]
  split <;> rfl

end

theorem State.relayed_same (s : State) (hid : Nat) (e : FlowEntry) (cursor : Nat) :
    (s.relayed hid e cursor).2.detects = s.detects ∧ (s.relayed hid e cursor).2.heats = s.heats := by
  unfold State.relayed
  split <;> exact ⟨rfl, rfl⟩

theorem State.relayed_flit (s : State) (hid : Nat) (e : FlowEntry) (cursor : Nat) :
    (s.relayed hid e cursor).1 = match (s.port e.rport).relay.find? fun r =>
        r.hid == hid && r.flow == e.flow && r.n == cursor / 256 && decide (r.at_ + 2 ≤ s.now) with
      | some r => .bytes r.bytes
      | none => .idle := by
  unfold State.relayed
  generalize (s.port e.rport).relay.find? _ = o
  cases o <;> rfl

theorem heat?_congr {s t : State} (h : t.heats = s.heats) (hid : Nat) : t.heat? hid = s.heat? hid :=
  congrArg (List.find? _) h

theorem State.heat?_modHeat_self {s : State} {h : Heat} {f : Heat → Heat} (hh : s.heat? h.hid = some h) (hf : ∀ x, (f x).hid = x.hid) :
    (s.modHeat h.hid f).heat? h.hid = some (f h) := by
  rw [State.heat?_modHeat _ _ _ _ hf, hh]
  exact congrArg some (if_pos rfl)

theorem State.flitNow_files (s : State) (h : Heat) (i : Nat) (e : FlowEntry) (k : Nat) : (s.flitNow h i e k).2.files = s.files := by
  have hm := s.modHeat_files h.hid (Heat.moved e (h.cursorAt e s.now)) fun _ => rfl
  have hr := fun u : State => files_of_heats (u.relayed_same h.hid e (h.cursorAt e s.now)).2
  unfold State.flitNow
  dsimp only
  repeat' split
  · rfl
  · rfl
  · exact (hr _).trans hm
  · exact hm
  · exact hm
  · exact hm

theorem State.flitSent_files (s : State) (e : FlowEntry) (x : Flit × State) : (s.flitSent e x).files = x.2.files :=
  files_of_heats (s.flitSent_same e x).2

/-- A send in the flow's own slot, with what it leaves to its heats, its detections and its port. -/
theorem scheduledFlitSend_sends {s : State} {hid i k : Nat} {e : FlowEntry} {base : Nat} (ha : s.arg = .scheduledFlitSend hid i k)
    (hs : s.sender? hid i = some (e, base)) (ht : (s.port e.port).trained = true) (hm : s.slotMine e) :
    ∃ t : State, exec .scheduledFlitSend s = .next t ∧ sameFiles s t ∧ s.keeps t [] ∧
      (t.port e.port).sent = some (s.now, (s.flitOf hid i e k).1) ∧ t.detects = (s.flitOf hid i e k).2.detects ∧
      t.heats = (s.flitOf hid i e k).2.heats := by
  have he := scheduledFlitSend_eq ha hs ht hm
  refine ⟨_, he, (State.flitSent_files ..).trans ?_, (execScheduledFlitSend_keeps s).keeps he, State.flitSent_sent ..,
    State.flitSent_same ..⟩
  unfold State.flitOf
  split
  · exact State.flitNow_files ..
  · rfl

section
variable {s t : State} {h : Heat} {i k : Nat} {e : FlowEntry} (hh : s.heat? h.hid = some h)
  (hst : h.flowStopped i s.now = false) (hb : h.flowBegun e s.now = true) (hc : h.cursorAt e s.now < e.len)
include hh hst hb hc

theorem flitNow_cursor (hheats : t.heats = (s.flitNow h i e k).2.heats) :
    (t.heat? h.hid).map (fun y => Store.get 0 y.cursors (4 * e.flow + e.role)) = some (h.cursorAt e s.now + 256) := by
  have hm : (s.flitNow h i e k).2.heats = (s.modHeat h.hid (Heat.moved e (h.cursorAt e s.now))).heats := by
    by_cases hr : e.role = 2
    · rw [State.flitNow_relay hst hb hc hr]
      exact (State.relayed_same ..).2
    · exact State.flitNow_buffer hst hb hc hr
  rw [heat?_congr (hheats.trans hm), State.heat?_modHeat_self hh (Heat.moved_hid e _)]
  simp [Heat.moved, Store.get_set]

end

theorem flitOf_some {s : State} {hid i k : Nat} {e : FlowEntry} {h : Heat} (hh : s.heat? hid = some h) :
    s.flitOf hid i e k = s.flitNow h i e k := by
  unfold State.flitOf
  rw [hh]

theorem flitOf_none {s : State} {hid i k : Nat} {e : FlowEntry} (hh : s.heat? hid = none) : s.flitOf hid i e k = (.idle, s) := by
  unfold State.flitOf
  rw [hh]

/-- What a slot of a heat's entry sends. -/
theorem scheduledFlitSend_heat {s : State} {hid i k : Nat} {e : FlowEntry} {base : Nat} {h : Heat}
    (ha : s.arg = .scheduledFlitSend hid i k) (hs : s.sender? hid i = some (e, base)) (ht : (s.port e.port).trained = true)
    (hm : s.slotMine e) (hh : s.heat? hid = some h) :
    ∃ t : State, exec .scheduledFlitSend s = .next t ∧ sameFiles s t ∧ s.keeps t [] ∧
      (h.flowStopped i s.now = true → (t.port e.port).sent = some (s.now, .halt)) ∧
      (h.flowStopped i s.now = false → (h.flowBegun e s.now = false ∨ e.len ≤ h.cursorAt e s.now) →
        (t.port e.port).sent = some (s.now, .idle) ∧ t.detects = s.detects) ∧
      (h.flowStopped i s.now = false → h.flowBegun e s.now = true → h.cursorAt e s.now < e.len →
        (t.heat? hid).map (fun y => Store.get 0 y.cursors (4 * e.flow + e.role)) = some (h.cursorAt e s.now + 256) ∧
        (e.role = 2 → t.detects = s.detects ∧ (t.port e.port).sent = some (s.now,
          match (s.port e.rport).relay.find? fun r => r.hid == hid && r.flow == e.flow &&
              r.n == h.cursorAt e s.now / 256 && decide (r.at_ + 2 ≤ s.now) with
          | some r => .bytes r.bytes
          | none => .idle)) ∧
        (e.role ≠ 2 → ∀ bs, (s.port e.port).txBuf.find? (fun b => b.1 == 2 * k) = some (2 * k, bs) →
          (bs ≠ [] → (t.port e.port).sent = some (s.now, .bytes bs) ∧ t.detects = s.detects) ∧
          (bs = [] → (t.port e.port).sent = some (s.now, .idle) ∧
            ∃ d, t.detects = s.detects ++ [d] ∧ d.cause = 0x8A ∧ d.info = e.flow))) := by
  obtain ⟨t, he, hf, hk, hsent, hdet, hheats⟩ := scheduledFlitSend_sends ha hs ht hm
  obtain rfl := State.heat?_hid hh
  rw [flitOf_some hh] at hsent hdet hheats
  refine ⟨t, he, hf, hk, fun hst => ?_, fun hst hb => ?_, fun hst hb hc =>
    ⟨flitNow_cursor hh hst hb hc hheats, fun hr => ?_, fun hr bs hbs => ⟨fun hne => ?_, fun hnil => ?_⟩⟩⟩
  · rw [hsent, State.flitNow_stopped hst]
  · rw [hsent, hdet, State.flitNow_idle hst hb]
    exact ⟨rfl, rfl⟩
  · rw [hsent, hdet, State.flitNow_relay hst hb hc hr, State.relayed_flit]
    exact ⟨(State.relayed_same ..).1, rfl⟩
  · rw [hsent, hdet, State.flitNow_bytes hst hb hc hr hbs, if_neg hne]
    exact ⟨rfl, rfl⟩
  · rw [hsent, hdet, State.flitNow_bytes hst hb hc hr hbs, if_pos hnil]
    exact ⟨rfl, _, rfl, rfl, rfl⟩

end Sys2Proof.Machine
end
section
/-! PROOFS. Flits released at their receiver: O52. -/
namespace Sys2Proof.Machine

/-! ### Arrivals and the release steps of a port -/

theorem State.pushRelease_pushed (s : State) (port c : Nat) : Pushed s (s.pushRelease port c) := by
  unfold State.pushRelease
  split
  · exact .refl s
  · exact State.pushSub_pushed ..

theorem State.pushRelease_awaits (s : State) (port c : Nat) : (s.pushRelease port c).awaits c (.flitRelease port) := by
  unfold State.pushRelease
  split
  case isTrue h =>
    obtain ⟨d, hd, hc⟩ := List.any_eq_true.1 h
    simp only [Bool.and_eq_true, beq_iff_eq] at hc
    exact ⟨d, hd, hc.2, hc.1⟩
  case isFalse => exact State.pushSub_awaits ..

theorem State.pushReleases_pushed (s : State) (port c : Nat) : Pushed s (s.pushReleases port c) :=
  foldl_pushed _ (fun s h => foldl_pushed _ (fun s e => by
    split
    · exact State.pushRelease_pushed ..
    · exact .refl s) _ s) _ s

theorem Pushed.port {s t : State} (h : Pushed s t) (p : Nat) : t.port p = s.port p := by rw [h.1]; rfl

theorem Pushed.detects {s t : State} (h : Pushed s t) : t.detects = s.detects := by rw [h.1]

theorem flitArrival_dropped {s : State} {port release : Nat} {f : Flit} (ha : s.arg = .flitArrival port release f)
    (h : (s.port port).trained = false ∨ release < s.now) : exec .flitRelease s = .next s := by
  show execFlitRelease s = _
  unfold execFlitRelease
  rw [ha]
  exact if_pos (h.imp (by simp) id)

theorem flitArrival_waits {s : State} {port release : Nat} {f : Flit} (ha : s.arg = .flitArrival port release f)
    (ht : (s.port port).trained = true) (hr : s.now ≤ release) :
    ∃ t : State, exec .flitRelease s = .next t ∧ sameFiles s t ∧ s.keeps t [] ∧ t.detects = s.detects ∧
      t.awaits release (.flitRelease port) ∧ (t.port port).incoming = (s.port port).incoming ++ [(release, f)] := by
  have he : exec .flitRelease s =
      .next ((s.modPort port fun p => { p with incoming := p.incoming ++ [(release, f)] }).pushRelease port release) := by
    show execFlitRelease s = _
    unfold execFlitRelease
    rw [ha]
    exact if_neg (not_or.2 ⟨by simp [ht], by omega⟩)
  have hp := State.pushRelease_pushed (s.modPort port fun p => { p with incoming := p.incoming ++ [(release, f)] }) port release
  refine ⟨_, he, hp.grows.files.trans (State.modPort_files ..), (execFlitRelease_keeps s).keeps he, hp.detects,
    State.pushRelease_awaits .., ?_⟩
  rw [hp.port, State.port_modPort]

/-! ### The slot that a release step takes -/

/-- The port once its release of the current cycle is noted, and its flit taken out of the deskew buffer. -/
def State.releaseNoted (s : State) (port : Nat) : State :=
  s.modPort port fun p => { p with lastRelease := some s.now, incoming := p.incoming.filter fun x => decide (s.now < x.1) }

/-- The flit released on a port now: an idle one where nothing came. -/
def State.flitReleased (s : State) (port : Nat) : Flit := (((s.port port).incoming.find? fun x => x.1 == s.now).map (·.2)).getD .idle

theorem State.releaseNoted_port (s : State) (port : Nat) : (s.releaseNoted port).port port = { s.port port with
    lastRelease := some s.now, incoming := (s.port port).incoming.filter fun x => decide (s.now < x.1) } := State.port_modPort ..

theorem State.releaseNoted_files (s : State) (port : Nat) : (s.releaseNoted port).files = s.files := State.modPort_files ..

theorem flitRelease_eq {s : State} {port : Nat} (ha : s.arg = .flitRelease port) (hl : (s.port port).lastRelease ≠ some s.now) :
    exec .flitRelease s = .next (((s.releaseNoted port).releaseSlot port (s.flitReleased port)).pushReleases port (s.now + 2)) := by
  show execFlitRelease s = _
  unfold execFlitRelease
  rw [ha]
  exact if_neg hl

/-- A release step by what the released slot leaves behind. -/
theorem flitRelease_effect {s u : State} {port : Nat} (ha : s.arg = .flitRelease port) (hl : (s.port port).lastRelease ≠ some s.now)
    (hu : (s.releaseNoted port).releaseSlot port (s.flitReleased port) = u) (hf : u.files = s.files) :
    ∃ t : State, exec .flitRelease s = .next t ∧ sameFiles s t ∧ s.keeps t [] ∧ Pushed u t := by
  have he := flitRelease_eq ha hl
  subst hu
  have hp := State.pushReleases_pushed ((s.releaseNoted port).releaseSlot port (s.flitReleased port)) port (s.now + 2)
  exact ⟨_, he, hp.grows.files.trans hf, (execFlitRelease_keeps s).keeps he, hp⟩

theorem State.releaseSlot_untrained {s : State} {port : Nat} {f : Flit} (h : (s.port port).trained = false) :
    s.releaseSlot port f = s := by
  unfold State.releaseSlot
  dsimp only
  rw [h]
  rfl

theorem State.releaseSlot_flow {s : State} {port flow : Nat} {f : Flit} (h : (s.port port).trained = true)
    (hs : slotFlow (s.port port).rxTable (s.port port).rxAct (slotIdx s.now) = some flow) : s.releaseSlot port f =
      (((s.receivers port flow).foldl (fun s x => s.receiveFlit port f x) s).heats.filter (·.receives)).foldl
        (fun s h => s.relayFor port flow f h) ((s.receivers port flow).foldl (fun s x => s.receiveFlit port f x) s) := by
  unfold State.releaseSlot
  dsimp only
  rw [h, hs]
  rfl

theorem flitRelease_untrained {s : State} {port : Nat} (ha : s.arg = .flitRelease port)
    (hl : (s.port port).lastRelease ≠ some s.now) (ht : (s.port port).trained = false) :
    ∃ t : State, exec .flitRelease s = .next t ∧ sameFiles s t ∧ s.keeps t [] ∧ t.detects = s.detects ∧ t.heats = s.heats := by
  have hn : ((s.releaseNoted port).port port).trained = false := by rw [State.releaseNoted_port]; exact ht
  obtain ⟨t, he, hf, hk, hp⟩ := flitRelease_effect ha hl (State.releaseSlot_untrained hn) (State.releaseNoted_files ..)
  exact ⟨t, he, hf, hk, hp.detects, hp.heats⟩

/-! ### Relay entries -/

theorem State.relayFor_none {s : State} {port flow : Nat} {f : Flit} {h : Heat} (hr : h.relays port flow = []) :
    s.relayFor port flow f h = s := by
  unfold State.relayFor
  rw [hr]

theorem foldl_same {α : Type} (f : State → α → State) (l : List α) (s : State) (h : ∀ x ∈ l, f s x = s) : l.foldl f s = s := by
  induction l with
  | nil => rfl
  | cons x r ih =>
    rw [List.foldl_cons, h x (List.mem_cons_self ..)]
    exact ih fun y hy => h y (List.mem_cons_of_mem _ hy)

/-- The records of the resident heats. -/
def State.records (s : State) : List Record := s.heats.map (·.record)

theorem State.modHeat_records (s : State) (hid : Nat) (f : Heat → Heat) (h : ∀ x, (f x).record = x.record) :
    (s.modHeat hid f).records = s.records := by
  unfold State.records State.modHeat
  rw [List.map_map]
  refine List.map_congr_left fun x _ => ?_
  dsimp only [Function.comp]
  split
  · exact h x
  · rfl

theorem State.relays_of_records {s t : State} {port flow : Nat} (h : t.records = s.records)
    (hs : ∀ z ∈ s.heats, z.relays port flow = []) : ∀ z ∈ t.heats, z.relays port flow = [] := by
  intro z hz
  obtain ⟨y, hy, hyz⟩ := List.mem_map.1 (h ▸ List.mem_map_of_mem hz : z.record ∈ s.records)
  have hrel : z.relays port flow = y.relays port flow := by
    unfold Heat.relays Heat.flowList
    rw [hyz]
  rw [hrel, hs y hy]

/-- The heat once its relay on a port has counted another flit of a flow. -/
def Heat.relayCounted (key n : Nat) (h : Heat) : Heat := { h with relayed := Store.set 0 h.relayed key (n + 1) }

theorem Heat.relayCounted_hid (key n : Nat) (h : Heat) : (h.relayCounted key n).hid = h.hid := rfl

theorem Heat.relayCounted_file (key n : Nat) (h : Heat) : (h.relayCounted key n).file = h.file := rfl

theorem State.relayFor_bytes {s : State} {port flow : Nat} {h : Heat} {ie : Nat × FlowEntry} {bs : List Byte}
    (hr : h.relays port flow = [ie]) (hl : (s.port port).relay.length < 1024) :
    s.relayFor port flow (.bytes bs) h =
      (s.modHeat h.hid (Heat.relayCounted (16 * flow + port) (Store.get 0 h.relayed (16 * flow + port)))).modPort port fun p =>
        { p with relay := p.relay ++
            [{ hid := h.hid, flow := flow, n := Store.get 0 h.relayed (16 * flow + port), at_ := s.now, bytes := bs }] } := by
  unfold State.relayFor
  rw [hr]
  exact if_neg (Nat.not_le.2 hl)

theorem flitRelease_relayed {s : State} {port flow : Nat} {h : Heat} {ie : Nat × FlowEntry} {bs : List Byte}
    (ha : s.arg = .flitRelease port) (hl : (s.port port).lastRelease ≠ some s.now) (ht : (s.port port).trained = true)
    (hs : slotFlow (s.port port).rxTable (s.port port).rxAct (slotIdx s.now) = some flow) (hnone : s.receivers port flow = [])
    (hone : s.heats.filter (·.receives) = [h]) (hh : s.heat? h.hid = some h) (hr : h.relays port flow = [ie])
    (hf : s.flitReleased port = .bytes bs) (hlen : (s.port port).relay.length < 1024) :
    ∃ t : State, exec .flitRelease s = .next t ∧ sameFiles s t ∧ s.keeps t [] ∧ t.detects = s.detects ∧
      (t.port port).relay = (s.port port).relay ++
        [{ hid := h.hid, flow := flow, n := Store.get 0 h.relayed (16 * flow + port), at_ := s.now, bytes := bs }] ∧
      (t.heat? h.hid).map (fun y => Store.get 0 y.relayed (16 * flow + port)) =
        some (Store.get 0 h.relayed (16 * flow + port) + 1) := by
  have hport := s.releaseNoted_port port
  have hrel : (s.releaseNoted port).releaseSlot port (s.flitReleased port) =
      (s.releaseNoted port).relayFor port flow (.bytes bs) h := by
    rw [hf, State.releaseSlot_flow (congrArg Port.trained hport |>.trans ht) (by rw [hport]; exact hs),
      show (s.releaseNoted port).receivers port flow = [] from hnone]
    show (s.heats.filter (·.receives)).foldl _ _ = _
    rw [hone]
    rfl
  rw [State.relayFor_bytes hr (by rw [hport]; exact hlen)] at hrel
  obtain ⟨t, he, hfs, hk, hp⟩ := flitRelease_effect ha hl hrel
    ((State.modPort_files ..).trans ((State.modHeat_files _ _ _ (Heat.relayCounted_file _ _)).trans (State.releaseNoted_files ..)))
  refine ⟨t, he, hfs, hk, hp.detects, ?_, ?_⟩
  · rw [hp.port, State.port_modPort]
    show ((s.releaseNoted port).port port).relay ++ _ = _
    rw [hport]
    rfl
  · rw [heat?_congr hp.heats]
    show ((State.modHeat (s.releaseNoted port) h.hid _).heat? h.hid).map _ = _
    rw [State.heat?_modHeat_self (s := s.releaseNoted port) hh (Heat.relayCounted_hid _ _)]
    simp [Heat.relayCounted, Store.get_set]

/-! ### Receive entries -/

theorem Heat.flow?_of_mem {h : Heat} {ie : Nat × FlowEntry} (hm : ie ∈ h.flowList) : h.flow? ie.1 = some ie.2 := by
  obtain ⟨n, hn, hg⟩ := List.mem_iff_getElem.1 hm
  unfold Heat.flowList at hn
  rw [← hg]
  simp only [Heat.flowList, List.getElem_zip, List.getElem_range]
  exact List.getElem?_eq_getElem _

theorem State.receivers_spec {s : State} {port flow : Nat} {h : Heat} {i : Nat} {e : FlowEntry}
    (hm : (h, i, e) ∈ s.receivers port flow) : h.flow? i = some e ∧ e.role = 1 ∧ e.port = port ∧ e.flow = flow := by
  simp only [State.receivers, List.mem_flatten, List.mem_map] at hm
  obtain ⟨l, ⟨h', _, rfl⟩, hl⟩ := hm
  obtain ⟨ie, hie, hx⟩ := List.mem_map.1 hl
  obtain ⟨rfl, rfl⟩ : h' = h ∧ ie = (i, e) := by simpa using hx
  obtain ⟨hin, hc⟩ := List.mem_filter.1 hie
  simp only [Bool.and_eq_true, beq_iff_eq] at hc
  exact ⟨Heat.flow?_of_mem hin, hc.1.1.1.1.1, hc.1.1.1.1.2, hc.2⟩

theorem State.landFlit_pushed (s : State) (h : Heat) (i : Nat) (e : FlowEntry) (cursor : Nat) (bs : List Byte) :
    Pushed s (s.landFlit h i e cursor bs) := by
  unfold State.landFlit
  dsimp only
  split
  · exact State.pushSub_pushed ..
  · split
    · exact State.pushSub_pushed ..
    · exact State.pushSub_pushed ..
    · exact .refl s

theorem State.landFlit_scratch {s : State} {h : Heat} {i : Nat} {e : FlowEntry} {cursor : Nat} {bs : List Byte} (hd : e.dest = 0) :
    (s.landFlit h i e cursor bs).awaits
      (s.now + if dieOfPort e.port = dieOfCore (((h.teams[e.team]?).map (·.core)).getD 0) then 8 else 56)
      (.flitLanding h.hid i cursor bs) := by
  have hp : s.flowPlace h.hid e cursor = .scratch (e.base + cursor) 4 := if_pos hd
  unfold State.landFlit
  dsimp only
  rw [if_neg (by omega), hp]
  exact State.pushSub_awaits ..

/-- No stop of the entry stands in its heat. -/
def Heat.unstopped (h : Heat) (i : Nat) : Prop := ∀ y ∈ h.stops, y.1 ≠ .flow i

theorem Heat.unstopped_any {h : Heat} {i : Nat} (hs : h.unstopped i) : (h.stops.any fun y => y.1 == .flow i) = false :=
  List.any_eq_false.2 fun y hy => by simpa using hs y hy

section
variable {s : State} {h : Heat} {i port : Nat} {e : FlowEntry} (hs : h.unstopped i) (hc : h.cursorAt e s.now < e.len)
include hs hc

theorem State.receiveFlit_idle : s.receiveFlit port .idle (h, i, e) = s.detect (flowBlame h.hid port 0x8A e.flow) := by
  unfold State.receiveFlit
  dsimp only
  rw [Heat.unstopped_any hs]
  exact if_neg (by simp [hc])

theorem State.receiveFlit_bytes (bs : List Byte) (hr : e.role = 1) : s.receiveFlit port (.bytes bs) (h, i, e) =
    (s.modHeat h.hid (Heat.moved e (h.cursorAt e s.now))).landFlit h i e (h.cursorAt e s.now) bs := by
  have hm : (fun x : Heat => { x with cursors := Store.set 0 x.cursors (4 * e.flow + 1) (h.cursorAt e s.now + 256) }) =
      Heat.moved e (h.cursorAt e s.now) := by
    funext x
    rw [Heat.moved, hr]
  unfold State.receiveFlit
  dsimp only
  rw [Heat.unstopped_any hs, hm]
  exact if_neg (by simp [hc])

end

/-! ### Halt flits -/

/-- The heat once a halt flit has stopped its entry. -/
def Heat.flowHalted (i c : Nat) (h : Heat) : Heat := { h with stops := h.stops ++ [(.flow i, c)] }

/-- The heat once a halt flit stops its streams, 8 cycles after its release on the port's die and 56 on the other. -/
def Heat.diesHalted (die c : Nat) (h : Heat) : Heat := (h.stopDie die (c + 8)).stopDie (1 - die) (c + 56)

/-- The heat once a halt flit has it halt. -/
def Heat.haltSet (die c : Nat) (h : Heat) : Heat := { h with halt := some (.haltFlit die, c + 56) }

theorem Heat.flowHalted_hid (i c : Nat) (h : Heat) : (h.flowHalted i c).hid = h.hid := rfl
theorem Heat.diesHalted_hid (die c : Nat) (h : Heat) : (h.diesHalted die c).hid = h.hid := rfl
theorem Heat.haltSet_hid (die c : Nat) (h : Heat) : (h.haltSet die c).hid = h.hid := rfl

section
variable {s : State} {h : Heat} {i port : Nat} (hh : s.heat? h.hid = some h) (hs : h.unstopped i)
  (hr : (h.flow? i).map (·.role) ≠ some 2)
include hh hs hr

theorem State.haltByFlit_idle (hn : ¬(h.status = .running ∨ h.status = .closing)) :
    s.haltByFlit h.hid i port = s.modHeat h.hid (Heat.flowHalted i (s.now - h.anchor)) := by
  unfold State.haltByFlit
  rw [hh]
  dsimp only
  rw [Heat.unstopped_any hs, if_neg (not_or.2 ⟨Bool.false_ne_true, fun h => hr h.1⟩), if_neg hn]
  rfl

theorem State.haltByFlit_runs (hn : h.status = .running ∨ h.status = .closing) :
    s.haltByFlit h.hid i port = if h.halt.isNone then
        ((((s.modHeat h.hid (Heat.flowHalted i (s.now - h.anchor))).modHeat h.hid
          (Heat.diesHalted (dieOfPort port) (s.now - h.anchor))).modHeat h.hid
            (Heat.haltSet (dieOfPort port) (s.now - h.anchor))).push (s.now + 56) 84 (.faultHalt h.hid))
      else (s.modHeat h.hid (Heat.flowHalted i (s.now - h.anchor))).modHeat h.hid
          (Heat.diesHalted (dieOfPort port) (s.now - h.anchor)) := by
  unfold State.haltByFlit
  rw [hh]
  dsimp only
  rw [Heat.unstopped_any hs, if_neg (not_or.2 ⟨Bool.false_ne_true, fun h => hr h.1⟩), if_pos hn]
  rfl

end

/-- What the change of a heat by a halt flit leaves as it was. -/
structure HaltKeeps (f : Heat → Heat) : Prop where
  hid : ∀ h, (f h).hid = h.hid
  record : ∀ h, (f h).record = h.record
  file : ∀ h, (f h).file = h.file

theorem Heat.flowHalted_keeps (i c : Nat) : HaltKeeps (Heat.flowHalted i c) := ⟨fun _ => rfl, fun _ => rfl, fun _ => rfl⟩
theorem Heat.diesHalted_keeps (die c : Nat) : HaltKeeps (Heat.diesHalted die c) := ⟨fun _ => rfl, fun _ => rfl, fun _ => rfl⟩
theorem Heat.haltSet_keeps (die c : Nat) : HaltKeeps (Heat.haltSet die c) := ⟨fun _ => rfl, fun _ => rfl, fun _ => rfl⟩

/-- A released flit leaves the records, the detections and the registers. -/
structure SameRecords (s t : State) : Prop where
  records : t.records = s.records
  detects : t.detects = s.detects
  files : t.files = s.files

theorem SameRecords.trans {s t u : State} (h : SameRecords s t) (h' : SameRecords t u) : SameRecords s u :=
  ⟨h'.records.trans h.records, h'.detects.trans h.detects, h'.files.trans h.files⟩

theorem HaltKeeps.modHeat {f : Heat → Heat} (hf : HaltKeeps f) (s : State) (hid : Nat) : SameRecords s (s.modHeat hid f) :=
  ⟨s.modHeat_records hid f hf.record, rfl, s.modHeat_files hid f hf.file⟩

theorem Pushed.sameRecords {s t : State} (h : Pushed s t) : SameRecords s t :=
  ⟨congrArg (List.map _) h.heats, h.detects, files_of_heats h.heats⟩

/-- What a halt flit does to a receive entry and to the heat's streams. -/
structure HaltedByFlit (s : State) (h : Heat) (i port : Nat) (t : State) : Prop where
  same : SameRecords s t
  stops : (t.heat? h.hid).map (·.stops) = some (h.stops ++ [(.flow i, s.now - h.anchor)])
  dies : (h.status = .running ∨ h.status = .closing) → h.halt = none → h.dieHalt = [] →
    (t.heat? h.hid).map (fun y => (y.flitStop (dieOfPort port), y.flitStop (1 - dieOfPort port))) =
        some (some (s.now - h.anchor + 8), some (s.now - h.anchor + 56)) ∧
      t.awaits (s.now + 56) (.faultHalt h.hid)

theorem Heat.flitStop_stopDie (h : Heat) (die c x : Nat) :
    (h.stopDie die c).flitStop x = if x = die then leastSet (h.flitStop die) (some c) else h.flitStop x := by
  have hg : Store.get 0 (h.stopDie die c).dieHalt x = if x = die then 1 + (match h.flitStop die with
      | some y => min y c
      | none => c) else Store.get 0 h.dieHalt x := Store.get_set ..
  rw [Heat.flitStop, hg]
  by_cases hx : x = die
  · rw [if_pos hx, if_pos hx]
    cases h.flitStop die <;> simp [leastSet, Nat.add_comm 1]
  · rw [if_neg hx, if_neg hx]
    rfl

theorem Heat.diesHalted_flitStop {h : Heat} (die c : Nat) (hd : h.dieHalt = []) (hne : die ≠ 1 - die) :
    ((h.diesHalted die c).flitStop die, (h.diesHalted die c).flitStop (1 - die)) = (some (c + 8), some (c + 56)) := by
  have hz : ∀ x, h.flitStop x = none := fun x => by unfold Heat.flitStop; rw [hd]; rfl
  unfold Heat.diesHalted
  simp only [Heat.flitStop_stopDie, if_neg hne, if_neg hne.symm, if_true, hz]
  rfl

theorem Heat.haltSet_flitStop (h : Heat) (die c x : Nat) : (h.haltSet die c).flitStop x = h.flitStop x := rfl

theorem State.haltByFlit_effect {s : State} {h : Heat} {i port : Nat} (hh : s.heat? h.hid = some h) (hs : h.unstopped i)
    (hr : (h.flow? i).map (·.role) ≠ some 2) : HaltedByFlit s h i port (s.haltByFlit h.hid i port) := by
  have hflow := (Heat.flowHalted_keeps i (s.now - h.anchor)).modHeat s h.hid
  have hdies := fun u : State => (Heat.diesHalted_keeps (dieOfPort port) (s.now - h.anchor)).modHeat u h.hid
  have hset := fun u : State => (Heat.haltSet_keeps (dieOfPort port) (s.now - h.anchor)).modHeat u h.hid
  have h1 := State.heat?_modHeat_self hh (Heat.flowHalted_hid i (s.now - h.anchor))
  have h2 := State.heat?_modHeat_self (h := h.flowHalted i (s.now - h.anchor)) h1 (Heat.diesHalted_hid (dieOfPort port) (s.now - h.anchor))
  have h3 := State.heat?_modHeat_self (h := (h.flowHalted i (s.now - h.anchor)).diesHalted (dieOfPort port) (s.now - h.anchor)) h2
    (Heat.haltSet_hid (dieOfPort port) (s.now - h.anchor))
  have hne : dieOfPort port ≠ 1 - dieOfPort port := by unfold dieOfPort; split <;> decide
  by_cases hn : h.status = .running ∨ h.status = .closing
  · rw [State.haltByFlit_runs hh hs hr hn]
    cases hhalt : h.halt with
    | none =>
      refine ⟨(hflow.trans ((hdies _).trans (hset _))).trans (State.push_pushed ..).sameRecords, ?_, fun _ _ hd => ⟨?_, ?_⟩⟩
      · exact congrArg (Option.map _) h3
      · refine (congrArg (Option.map _) h3).trans ?_
        simp only [Option.map_some, Heat.haltSet_flitStop]
        exact congrArg some (Heat.diesHalted_flitStop (h := h.flowHalted i _) _ _ hd hne)
      · exact State.push_awaits ..
    | some x =>
      exact ⟨hflow.trans (hdies _), congrArg (Option.map _) h2, fun _ hx => by simp [hhalt] at hx⟩
  · rw [State.haltByFlit_idle hh hs hr hn]
    exact ⟨hflow, congrArg (Option.map _) h1, fun hx => absurd hx hn⟩

/-! ### A release of a receive entry's slot -/

section
variable {s : State} {port flow : Nat} {h : Heat} {i : Nat} {e : FlowEntry} (ha : s.arg = .flitRelease port)
  (hl : (s.port port).lastRelease ≠ some s.now) (ht : (s.port port).trained = true)
  (hs : slotFlow (s.port port).rxTable (s.port port).rxAct (slotIdx s.now) = some flow)
  (hrec : s.receivers port flow = [(h, i, e)]) (hrel : ∀ z ∈ s.heats, z.relays port flow = [])
include ha hl ht hs hrec hrel

/-- The slot is released to its one receive entry. -/
theorem flitRelease_received {u : State} (hu : (s.releaseNoted port).receiveFlit port (s.flitReleased port) (h, i, e) = u)
    (hrecs : u.records = s.records) (hf : u.files = s.files) :
    ∃ t : State, exec .flitRelease s = .next t ∧ sameFiles s t ∧ s.keeps t [] ∧ Pushed u t := by
  have hport := s.releaseNoted_port port
  refine flitRelease_effect ha hl ?_ hf
  rw [State.releaseSlot_flow (congrArg Port.trained hport |>.trans ht) (by rw [hport]; exact hs),
    show (s.releaseNoted port).receivers port flow = _ from hrec]
  show (State.heats (State.receiveFlit _ port _ (h, i, e)) |>.filter _).foldl _ (State.receiveFlit _ port _ (h, i, e)) = u
  rw [hu]
  exact foldl_same _ _ _ fun z hz => State.relayFor_none (State.relays_of_records hrecs hrel z (List.mem_of_mem_filter hz))

variable (hh : s.heat? h.hid = some h) (hst : h.unstopped i) (hc : h.cursorAt e s.now < e.len)
include hh hst hc

omit hh in
theorem flitRelease_idle (hfl : s.flitReleased port = .idle) :
    ∃ t : State, exec .flitRelease s = .next t ∧ sameFiles s t ∧ s.keeps t [] ∧
      ∃ d, t.detects = s.detects ++ [d] ∧ d.cause = 0x8A ∧ d.hid = h.hid ∧ d.info = e.flow := by
  obtain ⟨t, he, hf, hk, hp⟩ := flitRelease_received ha hl ht hs hrec hrel
    (u := (s.releaseNoted port).detect (flowBlame h.hid port 0x8A e.flow))
    (by rw [hfl]; exact State.receiveFlit_idle (s := s.releaseNoted port) hst hc) rfl ((State.detect_files ..).trans (State.releaseNoted_files ..))
  exact ⟨t, he, hf, hk, _, hp.detects, rfl, rfl, rfl⟩

theorem flitRelease_bytes {bs : List Byte} (hfl : s.flitReleased port = .bytes bs) :
    ∃ t : State, exec .flitRelease s = .next t ∧ sameFiles s t ∧ s.keeps t [] ∧ t.detects = s.detects ∧
      (t.heat? h.hid).map (fun y => Store.get 0 y.cursors (4 * e.flow + 1)) = some (h.cursorAt e s.now + 256) ∧
      (e.dest = 0 →
        t.awaits (s.now + if dieOfPort e.port = dieOfCore (((h.teams[e.team]?).map (·.core)).getD 0) then 8 else 56)
          (.flitLanding h.hid i (h.cursorAt e s.now) bs)) := by
  obtain ⟨-, hrole, -, -⟩ := State.receivers_spec (s := s) (port := port) (flow := flow) (h := h) (i := i) (e := e)
    (by rw [hrec]; exact List.mem_cons_self ..)
  have hland := State.landFlit_pushed ((s.releaseNoted port).modHeat h.hid (Heat.moved e (h.cursorAt e s.now))) h i e
    (h.cursorAt e s.now) bs
  obtain ⟨t, he, hf, hk, hp⟩ := flitRelease_received ha hl ht hs hrec hrel
    (by rw [hfl]; exact State.receiveFlit_bytes (s := s.releaseNoted port) hst hc bs hrole)
    (hland.sameRecords.records.trans (State.modHeat_records _ _ _ fun _ => rfl))
    (hland.grows.files.trans ((State.modHeat_files _ _ (Heat.moved e _) fun _ => rfl).trans (State.releaseNoted_files ..)))
  refine ⟨t, he, hf, hk, hp.detects.trans hland.detects, ?_, fun hd => hp.awaits (State.landFlit_scratch hd)⟩
  rw [heat?_congr (hp.heats.trans hland.heats),
    State.heat?_modHeat_self (s := s.releaseNoted port) hh (Heat.moved_hid e _)]
  simp [Heat.moved, Store.get_set, hrole]

omit hc in
theorem flitRelease_halt (hfl : s.flitReleased port = .halt) :
    ∃ t : State, exec .flitRelease s = .next t ∧ sameFiles s t ∧ s.keeps t [] ∧ t.detects = s.detects ∧
      (t.heat? h.hid).map (·.stops) = some (h.stops ++ [(.flow i, s.now - h.anchor)]) ∧
      ((h.status = .running ∨ h.status = .closing) → h.halt = none → h.dieHalt = [] →
        (t.heat? h.hid).map (fun y => (y.flitStop (dieOfPort port), y.flitStop (1 - dieOfPort port))) =
          some (some (s.now - h.anchor + 8), some (s.now - h.anchor + 56)) ∧
        t.awaits (s.now + 56) (.faultHalt h.hid)) := by
  obtain ⟨hflow, hrole, -, -⟩ := State.receivers_spec (s := s) (port := port) (flow := flow) (h := h) (i := i) (e := e)
    (by rw [hrec]; exact List.mem_cons_self ..)
  have hx := State.haltByFlit_effect (s := s.releaseNoted port) (port := port) (i := i) hh hst (by rw [hflow]; simp [hrole])
  obtain ⟨t, he, hf, hk, hp⟩ := flitRelease_received ha hl ht hs hrec hrel (by rw [hfl]; rfl) hx.same.records
    (hx.same.files.trans (State.releaseNoted_files ..))
  refine ⟨t, he, hf, hk, hp.detects.trans hx.same.detects, ?_, fun hr hn hd => ?_⟩
  · rw [heat?_congr hp.heats]
    exact hx.stops
  · rw [heat?_congr hp.heats]
    exact ⟨(hx.dies hr hn hd).1, hp.awaits (hx.dies hr hn hd).2⟩

end

end Sys2Proof.Machine
end
section
/-! PROOFS. Landings of flits, frame markers, training and bank switches: O52. -/
namespace Sys2Proof.Machine

/-! ### Bytes written in scratch -/

theorem ofLeBytes_byte (bs : List Byte) (i : Nat) : ofLeBytes bs / 256 ^ i % 256 = (bs.getD i 0).toNat := by
  induction bs generalizing i with
  | nil => simp [ofLeBytes]
  | cons b r ih =>
    have hb : b.toNat < 256 := b.isLt
    cases i with
    | zero =>
      show (b.toNat + 256 * ofLeBytes r) / 256 ^ 0 % 256 = _
      simp
      omega
    | succ i =>
      rw [List.getD_cons_succ, ← ih, ofLeBytes, Nat.pow_succ, Nat.mul_comm (256 ^ i), ← Nat.div_div_eq_div_mul]
      congr 2
      omega

theorem get_putRun_bytes {m : Store Byte} (h : Store.wf 0 m = true) (k : Nat) (bs : List Byte) (a : Nat) :
    (Store.get 0 (Store.putRun 0 m k bs) a).toNat = afterWrites (Store.get 0 m a).toNat [(k, bs.length, ofLeBytes bs)] a := by
  rw [Store.get_putRun m h, afterWrites]
  by_cases ha : k ≤ a ∧ a < k + bs.length
  · rw [if_pos ha]
    simp [ha, ofLeBytes_byte]
  · rw [if_neg ha]
    simp [ha]

theorem State.look_writeScratch {s : State} (h : Store.wf 0 s.scratch = true) (core o : Nat) (bs : List Byte) (a : Nat) :
    (s.writeScratch core o bs).look .scratch a =
      afterWrites (s.look .scratch a) [(scratchKey core o, bs.length, ofLeBytes bs)] a := get_putRun_bytes h ..

theorem Team.markScratch_eq (t : Team) (o n : Nat) : ∃ d, t.markScratch o n = { t with sdirty := d } := by
  unfold Team.markScratch
  generalize List.range ((o % 4096 + n + 4095) / 4096) = l
  suffices h : ∀ d, ∃ d', l.foldl (fun t i => { t with sdirty := t.sdirty ||| (1#192 <<< (o / 4096 + i)) })
      { t with sdirty := d } = { t with sdirty := d' } from h t.sdirty
  induction l with
  | nil => exact fun d => ⟨d, rfl⟩
  | cons x r ih => exact fun d => ih _

/-! ### Changes to a barrier -/

theorem State.handleBreach_corrected (s : State) (k : Nat) (p : Nat → Bool) (core : Nat) (w : Word) :
    (s.corrected k p).handleBreach core w = s.handleBreach core w := by
  unfold State.corrected
  dsimp only
  split <;> rfl

theorem State.barChange_changes {s : State} {core : Nat} {w : Word} (declare credit arrivals : Nat) (engine : Bool) (agent : Detect)
    (h : s.handleBreach core w = none) : (s.barChange core w declare credit arrivals engine agent).changes core w arrivals credit := by
  unfold State.barChange
  dsimp only
  rw [State.handleBreach_corrected, h]
  exact ⟨_, List.mem_append_right _ (List.mem_cons_self ..), rfl, rfl, rfl, rfl⟩

/-! ### A landing in scratch -/

/-- The arrival that a landing's last bytes make. -/
def FlowEntry.lastLands (e : FlowEntry) (cursor : Nat) : Bool := e.arr && decide (e.len ≤ cursor + 256)

/-- The bytes of a landing, counted with the transfer that its entry serves. -/
def State.landCounted (s : State) (hid : Nat) (e : FlowEntry) : State :=
  if e.dest = 2 then match s.xferOf hid e with
    | some c =>
      let key := 4 * e.flow + e.role
      s.modCmd c.id fun c => { c with left := Store.set 0 c.left key (Store.get 0 c.left key + 256) }
    | none => s
  else s

/-- The change that a landing makes to its barrier. -/
def State.landCredit (s : State) (hid : Nat) (e : FlowEntry) (cursor : Nat) : State :=
  match s.team? ⟨hid, e.team⟩ with
  | some t =>
    if (e.cred || e.lastLands cursor) && e.role == 1 then
      s.barChange t.core (s.handleOf t.core e.bidx) 0 (if e.cred then 256 else 0) (e.lastLands cursor).toNat true
        { flowBlame hid e.port 0 e.flow with core := t.core }
    else s
  | none => s

theorem State.landed_def (s : State) (hid : Nat) (e : FlowEntry) (cursor : Nat) :
    s.landed hid e cursor = (s.landCounted hid e).landCredit hid e cursor := rfl

theorem State.landCounted_eq (s : State) (hid : Nat) (e : FlowEntry) : ∃ cs, s.landCounted hid e = { s with cmds := cs } := by
  unfold State.landCounted
  repeat' split
  · exact ⟨_, rfl⟩
  · exact ⟨s.cmds, rfl⟩
  · exact ⟨s.cmds, rfl⟩

theorem State.landed_changes {s : State} {hid : Nat} {e : FlowEntry} {cursor : Nat} {x : Team} (ht : s.team? ⟨hid, e.team⟩ = some x)
    (hc : (e.cred || e.lastLands cursor) = true) (hr : e.role = 1)
    (hb : s.handleBreach x.core (s.handleOf x.core e.bidx) = none) :
    (s.landed hid e cursor).changes x.core (s.handleOf x.core e.bidx) (e.lastLands cursor).toNat (if e.cred then 256 else 0) := by
  obtain ⟨cs, hu⟩ := s.landCounted_eq hid e
  rw [State.landed_def, hu, State.landCredit, show State.team? { s with cmds := cs } _ = _ from ht]
  dsimp only
  rw [if_pos (by simp [hc, hr])]
  exact State.barChange_changes (s := { s with cmds := cs }) _ _ _ _ _ hb

theorem State.landCredit_files (s : State) (hid : Nat) (e : FlowEntry) (cursor : Nat) :
    (s.landCredit hid e cursor).files = s.files := by
  unfold State.landCredit
  split
  · split
    · exact State.barChange_files ..
    · rfl
  · rfl

theorem State.landed_files (s : State) (hid : Nat) (e : FlowEntry) (cursor : Nat) : (s.landed hid e cursor).files = s.files := by
  obtain ⟨cs, hu⟩ := s.landCounted_eq hid e
  rw [State.landed_def, State.landCredit_files, hu]
  rfl

theorem State.look_scratch_congr {s t : State} (h : t.scratch = s.scratch) (a : Nat) : t.look .scratch a = s.look .scratch a := by
  simp only [State.look, h]

theorem State.landed_scratch (s : State) (hid : Nat) (e : FlowEntry) (cursor : Nat) : (s.landed hid e cursor).scratch = s.scratch :=
  congrArg (fun k => k.2.2.2.2.1) (State.landed_kept [] s hid e cursor)

theorem flitLanding_eq {s : State} {hid i cursor : Nat} {bs : List Byte} {e : FlowEntry} {x : Team} {o code : Nat}
    (ha : s.arg = .flitLanding hid i cursor bs) (he : (s.heat? hid).bind (fun h => h.flow? i) = some e)
    (hp : s.flowPlace hid e cursor = .scratch o code) (ht : s.team? ⟨hid, e.team⟩ = some x) :
    exec .flitLanding s = .next (if s.landable x o 4 = true then (s.writeScratch x.core (4096 * x.sbase + o) bs |>.modTeam ⟨hid, e.team⟩ fun t =>
      t.markScratch (4096 * t.sbase + o) bs.length).landed hid e cursor
      else s.detect (s.flowAccessBlame hid e 0x44 o)) := by
  show execFlitLanding s = _
  unfold execFlitLanding
  rw [ha]
  dsimp only
  rw [he]
  dsimp only
  rw [hp]
  dsimp only
  unfold State.landScratch
  rw [ht]

theorem State.markLanded_files (s : State) (r : TeamRef) (a : Team → Nat) (n : Nat) :
    (s.modTeam r fun t => t.markScratch (a t) n).files = s.files :=
  State.modTeam_files _ _ _ fun t => by
    obtain ⟨d, hd⟩ := t.markScratch_eq (a t) n
    rw [hd]
    rfl

theorem State.markLanded_team? {s : State} {r : TeamRef} {x : Team} (a : Team → Nat) (n : Nat) (ht : s.team? r = some x) :
    ∃ d, (s.modTeam r fun t => t.markScratch (a t) n).team? r = some { x with sdirty := d } := by
  obtain ⟨d, hd⟩ := x.markScratch_eq (a x) n
  refine ⟨d, ?_⟩
  rw [State.team?_modTeam, if_pos rfl, ht, ← hd]
  rfl

/-- A landing in pages that may be touched: its bytes, and its change of the barrier. -/
theorem flitLanding_lands {s : State} {hid i cursor : Nat} {bs : List Byte} {e : FlowEntry} {x : Team} {o code : Nat}
    (ha : s.arg = .flitLanding hid i cursor bs) (he : (s.heat? hid).bind (fun h => h.flow? i) = some e)
    (hp : s.flowPlace hid e cursor = .scratch o code) (ht : s.team? ⟨hid, e.team⟩ = some x) (hw : s.memoryWf)
    (hl : s.landable x o 4 = true) :
    ∃ t : State, exec .flitLanding s = .next t ∧ sameFiles s t ∧
      (∀ a, t.look .scratch a = afterWrites (s.look .scratch a)
        [(scratchKey x.core (4096 * x.sbase + o), bs.length, ofLeBytes bs)] a) ∧
      ((e.cred || e.lastLands cursor) = true → e.role = 1 → s.handleBreach x.core (s.handleOf x.core e.bidx) = none →
        t.changes x.core (s.handleOf x.core e.bidx) (e.lastLands cursor).toNat (if e.cred then 256 else 0)) := by
  have hx := flitLanding_eq ha he hp ht
  rw [if_pos hl] at hx
  obtain ⟨-, -, hscratch, -⟩ := hw
  obtain ⟨d, hd⟩ := State.markLanded_team? (s := s.writeScratch x.core (4096 * x.sbase + o) bs)
    (fun t => 4096 * t.sbase + o) bs.length ht
  refine ⟨_, hx, (State.landed_files ..).trans (State.markLanded_files ..), fun a => ?_, fun hc hr hb => ?_⟩
  · rw [State.look_scratch_congr (State.landed_scratch ..)]
    exact State.look_writeScratch hscratch ..
  · have hch := State.landed_changes (x := { x with sdirty := d }) hd hc hr hb
    exact hch

theorem flitLanding_refused {s : State} {hid i cursor : Nat} {bs : List Byte} {e : FlowEntry} {x : Team} {o code : Nat}
    (ha : s.arg = .flitLanding hid i cursor bs) (he : (s.heat? hid).bind (fun h => h.flow? i) = some e)
    (hp : s.flowPlace hid e cursor = .scratch o code) (ht : s.team? ⟨hid, e.team⟩ = some x) (hl : s.landable x o 4 = false) :
    ∃ (t : State) (d : Detect), exec .flitLanding s = .next t ∧ sameFiles s t ∧ s.keeps t [] ∧
      t.detects = s.detects ++ [d] ∧ d.cause = 0x44 ∧ d.addr = o ∧ d.core = x.core := by
  have hx := flitLanding_eq ha he hp ht
  rw [if_neg (by simp [hl])] at hx
  refine ⟨_, _, hx, State.detect_files .., ⟨rfl, rfl, fun p _ a => by cases p <;> rfl⟩, rfl, rfl, rfl, ?_⟩
  · simp [State.flowAccessBlame, ht]

/-! ### Frame markers -/

theorem Pushed.now {s t : State} (h : Pushed s t) : t.now = s.now := by rw [h.1]

/-- Along a fold whose turns a relation holds for, each turn comes after its start and before its end. -/
theorem foldl_turn {α σ : Type} {R : σ → σ → Prop} (hr : ∀ s, R s s) (ht : ∀ {s t u}, R s t → R t u → R s u) {f : σ → α → σ}
    (h : ∀ s x, R s (f s x)) {l : List α} {x : α} (hx : x ∈ l) : ∀ s, ∃ u, R s u ∧ R (f u x) (l.foldl f s) := by
  have hfold : ∀ (l : List α) s, R s (l.foldl f s) := by
    intro l
    induction l with
    | nil => exact hr
    | cons y r ih => exact fun s => ht (h s y) (ih _)
  induction l with
  | nil => exact absurd hx (List.not_mem_nil)
  | cons y r ih =>
    intro s
    rcases List.mem_cons.1 hx with rfl | hr'
    · exact ⟨s, hr s, hfold r _⟩
    · obtain ⟨u, hu, hv⟩ := ih hr' (f s y)
      exact ⟨u, ht (h s y) hu, hv⟩

/-- What one turn of a fold puts on the agenda stays there. -/
theorem foldl_pushed_mem {α : Type} (f : State → α → State) (h : ∀ s x, Pushed s (f s x)) {l : List α} {x : α} (hx : x ∈ l) :
    ∀ s, ∃ u, Pushed s u ∧ Pushed (f u x) (l.foldl f s) := foldl_turn Pushed.refl Pushed.trans h hx

/-- The check of the marker expected on a trained port. -/
def State.expectMarker (s : State) (p : Nat) : State :=
  let x := s.port p
  if !x.trained then s
  else
    let due := s.now + 1120 - x.deskew
    s.push (due + 13) 48 (.frameMarkerMiss p due)

theorem State.expectMarker_pushed (s : State) (p : Nat) : Pushed s (s.expectMarker p) := by
  unfold State.expectMarker
  dsimp only
  split
  · exact .refl s
  · exact State.push_pushed ..

theorem State.expectMarker_awaits {s : State} {p : Nat} (h : (s.port p).trained = true) : (s.expectMarker p).awaits
    (s.now + 1120 - (s.port p).deskew + 13) (.frameMarkerMiss p (s.now + 1120 - (s.port p).deskew)) := by
  unfold State.expectMarker
  dsimp only
  rw [if_neg (by simp [h])]
  exact State.push_awaits ..

theorem frameMarkerSend_effect {s : State} (ha : s.arg = .frameMarkerSend) :
    ∃ t : State, exec .frameMarkerSend s = .next t ∧ sameFiles s t ∧ s.keeps t [] ∧ t.awaits (s.now + 8192) .frameMarkerSend ∧
      ∀ p, p < 16 → (s.port p).trained = true →
        t.awaits (s.now + 1120 - (s.port p).deskew + 13) (.frameMarkerMiss p (s.now + 1120 - (s.port p).deskew)) := by
  have he : exec .frameMarkerSend s = .next (((List.range 16).foldl State.expectMarker s).push
      (((List.range 16).foldl State.expectMarker s).now + 8192) 71 .frameMarkerSend) := by
    show execFrameMarkerSend s = _
    unfold execFrameMarkerSend
    rw [ha]
    rfl
  have hf := foldl_pushed State.expectMarker State.expectMarker_pushed (List.range 16) s
  refine ⟨_, he, (hf.trans (State.push_pushed ..)).grows.files, (execFrameMarkerSend_keeps s).keeps he, ?_, fun p hp ht => ?_⟩
  · rw [hf.now]
    exact State.push_awaits ..
  · obtain ⟨u, hu, hv⟩ := foldl_pushed_mem State.expectMarker State.expectMarker_pushed (List.mem_range.2 hp) s
    have hx := State.expectMarker_awaits (s := u) (p := p) (by rw [hu.port]; exact ht)
    rw [hu.port, hu.now] at hx
    exact (hv.trans (State.push_pushed ..)).awaits hx

theorem frameMarkerArrival_effect {s : State} {p due : Nat} (ha : s.arg = .frameMarkerArrival p due) :
    ∃ t : State, exec .frameMarkerArrival s = .next t ∧ sameFiles s t ∧ s.keeps t [] ∧
      (t.port p).markerSeen = if s.now ≤ due + 12 ∧ due ≤ s.now + 12 then some due else (s.port p).markerSeen := by
  have he : exec .frameMarkerArrival s = .next (if s.now ≤ due + 12 ∧ due ≤ s.now + 12 then
      s.modPort p fun x => { x with markerSeen := some due, syncAt := some (s.now, due) } else s) := by
    show execFrameMarkerArrival s = _
    unfold execFrameMarkerArrival
    rw [ha]
  refine ⟨_, he, ?_, (execFrameMarkerArrival_keeps s).keeps he, ?_⟩
  · split
    · exact State.modPort_files ..
    · rfl
  · split
    · rw [State.port_modPort]
    · rfl

/-- The heats that a port's failure blames: those with a flow on the port. -/
def Heat.onPort (h : Heat) (p : Nat) : Prop := ∃ e ∈ h.record.flows, e.role ≠ 3 ∧ e.port = p

theorem foldl_keeps_detects {α : Type} (f : State → α → State) (h : ∀ s x, ∀ d ∈ s.detects, d ∈ (f s x).detects) (l : List α) :
    ∀ s, ∀ d ∈ s.detects, d ∈ (l.foldl f s).detects := by
  induction l with
  | nil => exact fun _ _ hd => hd
  | cons x r ih => exact fun s d hd => ih _ d (h s x d hd)

theorem foldl_detects_mem {α : Type} (f : State → α → State) (h : ∀ s x, ∀ d ∈ s.detects, d ∈ (f s x).detects) {l : List α} {x : α}
    (hx : x ∈ l) {d : Detect} (hd : ∀ s, d ∈ (f s x).detects) : ∀ s, d ∈ (l.foldl f s).detects := by
  induction l with
  | nil => exact absurd hx (List.not_mem_nil)
  | cons y r ih =>
    intro s
    rcases List.mem_cons.1 hx with rfl | hr
    · exact foldl_keeps_detects f h r _ d (hd s)
    · exact ih hr _

theorem State.raisePort_detects {s : State} {p cause : Nat} {h : Heat} (hm : h ∈ s.heats) (hs : h.status ≠ .saved)
    (ho : h.onPort p) : ∃ d ∈ (s.raisePort p cause).detects, d.hid = h.hid ∧ d.cause = cause := by
  refine ⟨Detect.blank h.hid (externalRank p cause) cause 6, ?_, rfl, rfl⟩
  unfold State.raisePort
  refine foldl_detects_mem _ (fun u x d hd => ?_) hm (fun u => ?_) s
  · split
    · exact List.mem_append_left _ hd
    · exact hd
  · obtain ⟨e, he, hr, hp⟩ := ho
    rw [if_pos ⟨hs, List.any_eq_true.2 ⟨e, he, by simp [hr, hp]⟩⟩]
    exact List.mem_append_right _ (List.mem_cons_self ..)

theorem State.raisePort_files (s : State) (p cause : Nat) : (s.raisePort p cause).files = s.files := by
  unfold State.raisePort
  refine foldl_files _ (fun u x => ?_) _ _
  split
  · exact State.detect_files ..
  · rfl

theorem frameMarkerMiss_effect {s : State} {p due : Nat} (ha : s.arg = .frameMarkerMiss p due) :
    ∃ t : State, exec .frameMarkerMiss s = .next t ∧ sameFiles s t ∧ s.keeps t [] ∧
      (((s.port p).trained = false ∨ (s.port p).markerSeen = some due) → t = s) ∧
      ((s.port p).trained = true → (s.port p).markerSeen ≠ some due → ∀ h ∈ s.heats, h.status ≠ .saved →
        h.onPort p → ∃ d ∈ t.detects, d.hid = h.hid ∧ d.cause = 0x8F) := by
  have he : exec .frameMarkerMiss s = .next (if !(s.port p).trained || (s.port p).markerSeen == some due then s
      else s.raisePort p 0x8F) := by
    show execFrameMarkerMiss s = _
    unfold execFrameMarkerMiss
    rw [ha]
  refine ⟨_, he, ?_, (execFrameMarkerMiss_keeps s).keeps he, fun h => if_pos ?_, fun ht hs h hm hst ho => ?_⟩
  · split
    · rfl
    · exact State.raisePort_files ..
  · rcases h with h | h <;> simp [h]
  · rw [if_neg (by simp [ht, hs])]
    exact State.raisePort_detects hm hst ho

/-! ### Bank switches -/

theorem bankSwitchArm_effect {s : State} {p c : Nat} (ha : s.arg = .bankSwitchArm p c) :
    ∃ t : State, exec .bankSwitchArm s = .next t ∧ sameFiles s t ∧ s.keeps t [] ∧
      ((s.port p).pend = true → t = s) ∧
      ((s.port p).pend = false → (t.port p).pend = true ∧ (t.port p).swcyc = c ∧
        t.awaits (max s.now (s.named (8192 * c))) (.bankSwitchTx p c) ∧
        t.awaits (max s.now (s.named (8192 * c)) + 1120) (.bankSwitchRx p c)) := by
  have he : exec .bankSwitchArm s = if (s.port p).pend = true then .next s else
      .next (((s.modPort p fun x => { x with swcyc := c, pend := true, rxPend := some c }).pushSub
        (max s.now (s.named (8192 * c))) 5 p (.bankSwitchTx p c)).pushSub
          (max s.now (s.named (8192 * c)) + 1120) 5 p (.bankSwitchRx p c)) := by
    show execBankSwitchArm s = _
    unfold execBankSwitchArm
    rw [ha]
    rfl
  by_cases hp : (s.port p).pend = true
  · rw [if_pos hp] at he
    exact ⟨s, he, rfl, (execBankSwitchArm_keeps s).keeps he, fun _ => rfl, fun h => by simp [hp] at h⟩
  · rw [if_neg hp] at he
    refine ⟨_, he, ?_, (execBankSwitchArm_keeps s).keeps he, fun h => absurd h hp, fun _ => ?_⟩
    · exact ((State.pushSub_files ..).trans (State.pushSub_files ..)).trans (State.modPort_files ..)
    · have hport := s.port_modPort p fun x => { x with swcyc := c, pend := true, rxPend := some c }
      exact ⟨(congrArg Port.pend hport :), (congrArg Port.swcyc hport :),
        (State.pushSub_pushed ..).awaits (State.pushSub_awaits ..), State.pushSub_awaits ..⟩

/-- The steps of the switch pending on a port. -/
def switchSteps (p c : Nat) (e : Ev) : Bool :=
  match e with
  | .bankSwitchTx q d => q == p && d == c
  | .bankSwitchRx q d => q == p && d == c
  | _ => false

theorem bankSwitchCancel_effect {s : State} {p c : Nat} (ha : s.arg = .bankSwitchCancel p c) :
    ∃ t : State, exec .bankSwitchCancel s = .next t ∧ sameFiles s t ∧ s.keeps t [] ∧ (t.port p).pend = false ∧
      (t.port p).swcyc = c ∧ (t.port p).txAct = (s.port p).txAct ∧ (t.port p).rxAct = (s.port p).rxAct ∧
      ((s.port p).pend = true → ∀ d ∈ t.agenda, d.ev ≠ .bankSwitchTx p (s.port p).swcyc ∧
        d.ev ≠ .bankSwitchRx p (s.port p).swcyc) := by
  have he : exec .bankSwitchCancel s = if (s.port p).pend = true then
      .next ((s.modPort p fun x => { x with pend := false, rxPend := none, swcyc := c }).cancel (switchSteps p (s.port p).swcyc))
      else .next (s.modPort p fun x => { x with swcyc := c }) := by
    show execBankSwitchCancel s = _
    unfold execBankSwitchCancel
    rw [ha]
    rfl
  by_cases hp : (s.port p).pend = true
  · rw [if_pos hp] at he
    have hport := s.port_modPort p fun x => { x with pend := false, rxPend := none, swcyc := c }
    refine ⟨_, he, (State.cancel_files ..).trans (State.modPort_files ..), (execBankSwitchCancel_keeps s).keeps he,
      (congrArg Port.pend hport :), (congrArg Port.swcyc hport :), (congrArg Port.txAct hport :), (congrArg Port.rxAct hport :), fun _ d hd => ?_⟩
    have hn := (List.mem_filter.1 hd).2
    exact ⟨fun h => by simp [h, switchSteps] at hn, fun h => by simp [h, switchSteps] at hn⟩
  · rw [if_neg hp] at he
    have hport := s.port_modPort p fun x => { x with swcyc := c }
    exact ⟨_, he, State.modPort_files .., (execBankSwitchCancel_keeps s).keeps he, (congrArg Port.pend hport).trans (by simpa using hp),
      (congrArg Port.swcyc hport :), (congrArg Port.txAct hport :), (congrArg Port.rxAct hport :), fun h => absurd h hp⟩

theorem State.wakePort_pushed (s : State) (p : Nat) : Pushed s (s.wakePort p) := by
  unfold State.wakePort
  split
  · exact .refl s
  · dsimp only
    split
    · exact .refl s
    · exact State.push_pushed ..

/-- A port whose transmit side takes the other bank. -/
def State.txSwitched (s : State) (p : Nat) : State := s.modPort p fun x => { x with txAct := !x.txAct, pend := false }

theorem bankSwitchTx_effect {s : State} {p c : Nat} (ha : s.arg = .bankSwitchTx p c) :
    ∃ t : State, exec .bankSwitchTx s = .next t ∧ sameFiles s t ∧ s.keeps t [] ∧ (t.port p).pend = false ∧
      (t.port p).txAct = !(s.port p).txAct ∧ (t.port p).rxAct = (s.port p).rxAct ∧
      ∀ g ∈ s.gone, g.e.port = p → (∀ i, g.e.owns i = true → slotFlow (s.port p).txTable (!(s.port p).txAct) i ≠ some g.e.flow) →
        g ∉ t.gone := by
  have he : exec .bankSwitchTx s = .next (State.wakePort { s.txSwitched p with
      gone := s.gone.filter fun g => (s.txSwitched p).goneStays ((s.txSwitched p).port p) p g } p) := by
    show execBankSwitchTx s = _
    unfold execBankSwitchTx
    rw [ha]
    rfl
  have hw := State.wakePort_pushed { s.txSwitched p with
      gone := s.gone.filter fun g => (s.txSwitched p).goneStays ((s.txSwitched p).port p) p g } p
  have hport : (s.txSwitched p).port p = { s.port p with txAct := !(s.port p).txAct, pend := false } := State.port_modPort ..
  refine ⟨_, he, hw.grows.files.trans (files_of_heats (s := s) rfl), (execBankSwitchTx_keeps s).keeps he, ?_, ?_, ?_, fun g _ hgp hn hg => ?_⟩
  · rw [hw.port]; exact (congrArg Port.pend hport :)
  · rw [hw.port]; exact (congrArg Port.txAct hport :)
  · rw [hw.port]; exact (congrArg Port.rxAct hport :)
  · rw [hw.1] at hg
    have hstay := (List.mem_filter.1 hg).2
    rw [hport, State.goneStays] at hstay
    simp only [hgp, bne_self_eq_false, Bool.false_or, Bool.and_eq_true, List.any_eq_true, beq_iff_eq] at hstay
    obtain ⟨⟨i, -, hi, hflow⟩, -⟩ := hstay
    exact hn i hi hflow

theorem bankSwitchRx_effect {s : State} {p c : Nat} (ha : s.arg = .bankSwitchRx p c) :
    ∃ t : State, exec .bankSwitchRx s = .next t ∧ sameFiles s t ∧ s.keeps t [] ∧
      (t.port p).rxAct = (!(s.port p).rxAct) ∧ (t.port p).txAct = (s.port p).txAct := by
  have he : exec .bankSwitchRx s = .next (s.modPort p fun x =>
      { x with rxAct := !x.rxAct, rxPend := if x.rxPend = some c then none else x.rxPend }) := by
    show execBankSwitchRx s = _
    unfold execBankSwitchRx
    rw [ha]
  have hport := s.port_modPort p fun x => { x with rxAct := !x.rxAct, rxPend := if x.rxPend = some c then none else x.rxPend }
  exact ⟨_, he, State.modPort_files .., (execBankSwitchRx_keeps s).keeps he, (congrArg Port.rxAct hport :), (congrArg Port.txAct hport :)⟩

end Sys2Proof.Machine
end
section
/-! PROOFS. Training of the ports, and the steps of links: O52. -/
namespace Sys2Proof.Machine

/-! ### Steps at cycles that the device chooses -/

/-- A state after steps were put on its agenda at cycles that the device chooses. -/
def Scheduled (s t : State) : Prop :=
  (∃ a q n, t = { s with agenda := a, seq := q, freeCtr := n }) ∧ ∀ d ∈ s.agenda, d ∈ t.agenda

theorem Scheduled.refl (s : State) : Scheduled s s := ⟨⟨_, _, _, rfl⟩, fun _ h => h⟩

theorem Scheduled.trans {s t u : State} (h : Scheduled s t) (h' : Scheduled t u) : Scheduled s u := by
  obtain ⟨⟨a, q, n, rfl⟩, m⟩ := h
  obtain ⟨⟨a', q', n', rfl⟩, m'⟩ := h'
  exact ⟨⟨a', q', n', rfl⟩, fun d hd => m' d (m d hd)⟩

theorem Pushed.scheduled {s t : State} (h : Pushed s t) : Scheduled s t := ⟨⟨_, _, s.freeCtr, h.1⟩, h.2⟩

theorem State.choose_scheduled (s : State) (lo hi : Nat) : Scheduled s (s.choose lo hi).2 := by
  obtain ⟨n, hn⟩ := s.choose_eq lo hi
  rw [hn]
  exact ⟨⟨_, _, n, rfl⟩, fun _ h => h⟩

theorem Scheduled.grows {s t : State} (h : Scheduled s t) : Grows s t := by
  obtain ⟨⟨a, q, n, rfl⟩, m⟩ := h
  exact ⟨m, files_of_heats rfl⟩

theorem Scheduled.ports {s t : State} (h : Scheduled s t) : t.ports = s.ports := by obtain ⟨⟨a, q, n, rfl⟩, -⟩ := h; rfl

theorem Scheduled.ready {s t : State} (h : Scheduled s t) : t.ready = s.ready := by obtain ⟨⟨a, q, n, rfl⟩, -⟩ := h; rfl

/-- Put a step on the agenda at a cycle that the device chooses. -/
def State.pushChosen (s : State) (hi r : Nat) (e : Ev) : State := (s.choose s.now hi).2.push (s.choose s.now hi).1 r e

/-- A state that has a step on its agenda: the state itself when it has, else another. -/
def State.orElse (s : State) (e : Ev) (t : State) : State := if s.agenda.any fun d => d.ev == e then s else t

section
variable {s t : State} {e : Ev} (h : Scheduled s t)
include h

theorem State.orElse_scheduled : Scheduled s (s.orElse e t) := by
  unfold State.orElse
  split
  · exact .refl s
  · exact h

omit h in
theorem State.orElse_awaits {c : Nat} (ha : t.awaits c e) : ∃ c, (s.orElse e t).awaits c e := by
  unfold State.orElse
  split
  case isTrue hx =>
    obtain ⟨d, hd, he⟩ := List.any_eq_true.1 hx
    exact ⟨d.at_, d, hd, rfl, by simpa using he⟩
  case isFalse => exact ⟨c, ha⟩

end

theorem State.pushChosen_scheduled (s : State) (hi r : Nat) (e : Ev) : Scheduled s (s.pushChosen hi r e) :=
  (State.choose_scheduled ..).trans (State.push_pushed ..).scheduled

theorem State.pushChosen_awaits (s : State) (hi r : Nat) (e : Ev) : (s.pushChosen hi r e).awaits (s.choose s.now hi).1 e :=
  State.push_awaits ..

/-! ### Training -/

/-- A port that has completed training. -/
def State.portUp (s : State) (p deskew : Nat) : State :=
  let s := s.modPort p fun x => { x with trained := true, deskew := deskew }
  ({ s with ready := { s.ready with port := s.ready.port ||| (1#16 <<< p) } } : State)

/-- The steps of the time protocol that a trained port starts. -/
def State.ptpStarts (s : State) (p : Nat) : State :=
  let s := s.orElse (.sync p true 0) (s.push (roundUp 8192 (s.now + 1)) 72 (.sync p true 0))
  let s := s.orElse (.pdelayReqSend p) (s.pushChosen (s.now + 1400000) 72 (.pdelayReqSend p))
  s.orElse .announceSend (s.pushChosen (s.now + 1400000) 72 .announceSend)

theorem State.ptpStarts_scheduled (s : State) (p : Nat) : Scheduled s (s.ptpStarts p) :=
  (State.orElse_scheduled (State.push_pushed ..).scheduled).trans
    ((State.orElse_scheduled (State.pushChosen_scheduled ..)).trans (State.orElse_scheduled (State.pushChosen_scheduled ..)))

theorem State.ptpStarts_awaits (s : State) (p : Nat) : (∃ c, (s.ptpStarts p).awaits c (.sync p true 0)) ∧
    (∃ c, (s.ptpStarts p).awaits c (.pdelayReqSend p)) ∧ ∃ c, (s.ptpStarts p).awaits c .announceSend := by
  unfold State.ptpStarts
  dsimp only
  generalize hu : s.orElse (.sync p true 0) _ = u
  generalize hv : u.orElse (.pdelayReqSend p) (u.pushChosen (u.now + 1400000) 72 (.pdelayReqSend p)) = v
  have hv' : Scheduled u v := hv ▸ State.orElse_scheduled (State.pushChosen_scheduled ..)
  have hw := State.orElse_scheduled (e := .announceSend) (State.pushChosen_scheduled v (v.now + 1400000) 72 .announceSend)
  obtain ⟨c, hc⟩ : ∃ c, u.awaits c (.sync p true 0) := hu ▸ State.orElse_awaits (State.push_awaits ..)
  obtain ⟨c', hc'⟩ : ∃ c, v.awaits c (.pdelayReqSend p) := hv ▸ State.orElse_awaits (State.pushChosen_awaits ..)
  exact ⟨⟨c, hw.grows.awaits (hv'.grows.awaits hc)⟩, ⟨c', hw.grows.awaits hc'⟩,
    State.orElse_awaits (State.pushChosen_awaits ..)⟩

theorem linkTrained_effect {s : State} {p deskew flight : Nat} (ha : s.arg = .linkTrained p deskew flight) :
    ∃ t : State, exec .linkTrained s = .next t ∧ sameFiles s t ∧ s.keeps t [] ∧
      if flight ≤ 1096 ∧ p < 16 then
        (t.port p).trained = true ∧ (t.port p).deskew = deskew ∧ t.ready.port.getLsbD p = true ∧
          (∃ c, t.awaits c (.sync p true 0)) ∧ (∃ c, t.awaits c (.pdelayReqSend p)) ∧ ∃ c, t.awaits c .announceSend
      else t = s := by
  have he : exec .linkTrained s = if flight > 1096 ∨ p ≥ 16 then .next s
      else .next (((s.portUp p deskew).wakePort p).ptpStarts p) := by
    show execLinkTrained s = _
    unfold execLinkTrained
    rw [ha]
    rfl
  by_cases hf : flight ≤ 1096 ∧ p < 16
  · rw [if_neg (by omega)] at he
    have hs := (State.wakePort_pushed (s.portUp p deskew) p).scheduled.trans (State.ptpStarts_scheduled _ p)
    have hport : (s.portUp p deskew).port p = { s.port p with trained := true, deskew := deskew } :=
      s.port_modPort p fun x => { x with trained := true, deskew := deskew }
    refine ⟨_, he, hs.grows.files.trans (files_of_heats (s := s) rfl), (execLinkTrained_keeps s).keeps he, ?_⟩
    rw [if_pos hf, port_congr hs.ports, hs.ready]
    refine ⟨(congrArg Port.trained hport :), (congrArg Port.deskew hport :), ?_, State.ptpStarts_awaits ..⟩
    obtain ⟨-, hp⟩ := hf
    simp [State.portUp, hp]
  · rw [if_pos (by omega)] at he
    refine ⟨s, he, rfl, (execLinkTrained_keeps s).keeps he, ?_⟩
    rw [if_neg hf]

/-- A port that has lost training. -/
def State.portDown (s : State) (p : Nat) : State :=
  let s := s.modPort p fun x => { x with trained := false, announce := none }
  ({ s with ready := { s.ready with port := s.ready.port &&& ~~~(1#16 <<< p) } } : State)

/-- What the choice of a clock leaves to the ports and the heats. -/
theorem State.bestMaster_same (s : State) :
    s.bestMaster.ports = s.ports ∧ s.bestMaster.ready.port = s.ready.port ∧ s.bestMaster.heats = s.heats := by
  unfold State.bestMaster
  split
  · split <;> exact ⟨rfl, rfl, rfl⟩
  · exact ⟨rfl, rfl, rfl⟩

theorem State.raisePort_same (s : State) (p cause : Nat) :
    (s.raisePort p cause).ports = s.ports ∧ (s.raisePort p cause).ready = s.ready := by
  unfold State.raisePort
  generalize s.heats = l
  induction l generalizing s with
  | nil => exact ⟨rfl, rfl⟩
  | cons h r ih =>
    obtain ⟨h1, h2⟩ := ih (if h.status ≠ .saved ∧ h.record.flows.any (fun e =>
      e.role != 3 && (e.port == p || (e.role == 2 && e.rport == p))) = true
      then s.detect (Detect.blank h.hid (externalRank p cause) cause 6) else s)
    refine ⟨h1.trans ?_, h2.trans ?_⟩
    all_goals split <;> rfl

theorem linkTrainingLost_effect {s : State} {p : Nat} (ha : s.arg = .linkTrainingLost p) (hp : p < 16) :
    ∃ t : State, exec .linkTrainingLost s = .next t ∧ sameFiles s t ∧ s.keeps t [] ∧ (t.port p).trained = false ∧
      t.ready.port.getLsbD p = false ∧ (∀ q, q < 16 → q ≠ p → t.ready.port.getLsbD q = s.ready.port.getLsbD q) ∧
      ∀ h ∈ s.heats, h.status ≠ .saved → h.onPort p → ∃ d ∈ t.detects, d.hid = h.hid ∧ d.cause = 0xE2 := by
  have he : exec .linkTrainingLost s = .next ((if (s.portDown p).ptp.decided then (s.portDown p).bestMaster
      else s.portDown p).raisePort p 0xE2) := by
    show execLinkTrainingLost s = _
    unfold execLinkTrainingLost
    rw [ha]
    rfl
  have hport : (s.portDown p).port p = { s.port p with trained := false, announce := none } :=
    s.port_modPort p fun x => { x with trained := false, announce := none }
  generalize hu : (if (s.portDown p).ptp.decided then (s.portDown p).bestMaster else s.portDown p) = u at he
  obtain ⟨h1, h2, h3⟩ : u.ports = (s.portDown p).ports ∧ u.ready.port = (s.portDown p).ready.port ∧ u.heats = s.heats := by
    rw [← hu]
    split
    · exact State.bestMaster_same ..
    · exact ⟨rfl, rfl, rfl⟩
  obtain ⟨r1, r2⟩ := u.raisePort_same p 0xE2
  refine ⟨_, he, (State.raisePort_files ..).trans (files_of_heats h3), (execLinkTrainingLost_keeps s).keeps he, ?_, ?_,
    fun q hq hne => ?_, fun h hm hs ho => State.raisePort_detects (h3 ▸ hm) hs ho⟩
  · rw [port_congr (r1.trans h1)]
    exact (congrArg Port.trained hport :)
  · rw [r2, h2]
    simp [State.portDown, hp]
  · rw [r2, h2]
    simp [State.portDown, hq]
    omega

/-- Settles O52: each step of a link or a port by its own lemma. -/
theorem linkSteps : Obligations.LinkSteps := by
  unfold Obligations.LinkSteps
  refine ⟨fun s hid i k late e base ha hs => ?_, fun s hid i k e base ha hs => ⟨fun h => scheduledFlitSend_other ha hs h, fun ht hm hh => ?_,
      fun h ht hm hh => scheduledFlitSend_heat ha hs ht hm hh⟩,
    fun s port release f ha => ⟨fun h => flitArrival_dropped ha h, fun ht hr => flitArrival_waits ha ht hr⟩,
    fun s port ha hl => ⟨fun ht => flitRelease_untrained ha hl ht, fun flow h i e ht hs hrec hh hrel hst hc => ?_,
      fun flow h i e bs ht hs hnone hone hh hr hf hlen => flitRelease_relayed ha hl ht hs hnone hone hh hr hf hlen⟩,
    fun s hid i cursor bs e x o code ha he hp hx hw => ⟨fun hl => flitLanding_lands ha he hp hx hw hl,
      fun hl => flitLanding_refused ha he hp hx hl⟩,
    fun s ha => frameMarkerSend_effect ha, fun s p due ha => frameMarkerArrival_effect ha, fun s p due ha => frameMarkerMiss_effect ha,
    fun s p deskew flight ha => linkTrained_effect ha, fun s p ha hp => linkTrainingLost_effect ha hp,
    fun s p c ha => bankSwitchArm_effect ha, fun s p c ha => bankSwitchCancel_effect ha, fun s p c ha => bankSwitchTx_effect ha,
    fun s p c ha => bankSwitchRx_effect ha⟩
  · obtain ⟨t, he, hf, hk, hlate, u, hu, rfl⟩ := transmitRead_effect ha hs
    refine ⟨_, he, hf, hk, hlate, fun h x hh hrole hb hst hc hx => ?_⟩
    obtain ⟨h1, h2⟩ := transmitRead_reads (i := i) (late := late) hu hh ⟨hrole, hb, hst, hc⟩ hx
    cases hp : s.flowPlace hid e (h.cursorAt e (2 * k)) with
    | scratch o code => exact h1 o code hp
    | global va => exact h2 va hp
    | nowhere => trivial
  · obtain ⟨t, he, hf, hk, hsent, hdet, -⟩ := scheduledFlitSend_sends ha hs ht hm
    rw [flitOf_none hh] at hsent hdet
    exact ⟨t, he, hf, hk, hdet, hsent⟩
  · cases hfl : s.flitReleased port with
    | bytes bs =>
      obtain ⟨t, he, hf, hk, hx⟩ := flitRelease_bytes ha hl ht hs hrec hrel hh hst hc hfl
      refine ⟨t, he, hf, hk, ?_⟩
      rw [show ((s.port port).incoming.find? (fun x => x.1 == s.now) |>.map (·.2)).getD .idle = _ from hfl]
      exact hx
    | idle =>
      obtain ⟨t, he, hf, hk, hx⟩ := flitRelease_idle ha hl ht hs hrec hrel hst hc hfl
      refine ⟨t, he, hf, hk, ?_⟩
      rw [show ((s.port port).incoming.find? (fun x => x.1 == s.now) |>.map (·.2)).getD .idle = _ from hfl]
      exact hx
    | halt =>
      obtain ⟨t, he, hf, hk, hx⟩ := flitRelease_halt ha hl ht hs hrec hrel hh hst hfl
      refine ⟨t, he, hf, hk, ?_⟩
      rw [show ((s.port port).incoming.find? (fun x => x.1 == s.now) |>.map (·.2)).getD .idle = _ from hfl]
      exact hx

end Sys2Proof.Machine
end
section
/-! PROOFS. Messages put on the ports, and the regatta's halt: O59. -/
namespace Sys2Proof.Machine

/-! ### What sending a message leaves -/

theorem mem_insertMsg {x y : Nat × Msg} {l : List (Nat × Msg)} : y ∈ insertMsg x l ↔ y = x ∨ y ∈ l := by
  induction l with
  | nil => simp [insertMsg]
  | cons z r ih =>
    rw [insertMsg]
    split
    · simp
    · simp [ih, or_left_comm]

/-- A state after messages were put on ports: its outbound flows, its ports' queues and its agenda alone have changed, and nothing
has left a queue or the agenda. -/
structure Sent (s t : State) : Prop where
  eq : ∃ f ps a q, t = { s with flows := f, ports := ps, agenda := a, seq := q }
  agenda : ∀ d ∈ s.agenda, d ∈ t.agenda
  queues : ∀ p, ∃ l, t.port p = { s.port p with queue := l } ∧ ∀ e ∈ (s.port p).queue, e ∈ l

theorem Sent.refl (s : State) : Sent s s := ⟨⟨_, _, _, _, rfl⟩, fun _ h => h, fun p => ⟨_, rfl, fun _ h => h⟩⟩

theorem Sent.trans {s t u : State} (h : Sent s t) (h' : Sent t u) : Sent s u := by
  refine ⟨?_, fun d hd => h'.agenda d (h.agenda d hd), fun p => ?_⟩
  · obtain ⟨f, ps, a, q, e⟩ := h.eq
    obtain ⟨f', ps', a', q', e'⟩ := h'.eq
    subst e
    exact ⟨f', ps', a', q', e'⟩
  · obtain ⟨l, e, m⟩ := h.queues p
    obtain ⟨l', e', m'⟩ := h'.queues p
    refine ⟨l', by rw [e', e], fun x hx => m' x ?_⟩
    rw [e]
    exact m x hx

theorem Pushed.sent {s t : State} (h : Pushed s t) : Sent s t :=
  ⟨⟨_, _, _, _, h.1⟩, h.2, fun p => ⟨_, by rw [h.port], fun _ hx => hx⟩⟩

theorem foldl_sent {α : Type} (f : State → α → State) (h : ∀ s x, Sent s (f s x)) (l : List α) : ∀ s, Sent s (l.foldl f s) := by
  induction l with
  | nil => exact fun s => .refl s
  | cons x r ih => exact fun s => (h s x).trans (ih _)

/-- One turn of a fold comes after a state of the fold, and before its end. -/
theorem foldl_sent_mem {α : Type} (f : State → α → State) (h : ∀ s x, Sent s (f s x)) {l : List α} {x : α} (hx : x ∈ l) :
    ∀ s, ∃ u, Sent s u ∧ Sent (f u x) (l.foldl f s) := foldl_turn Sent.refl Sent.trans h hx

section
variable {s t : State} (h : Sent s t)
include h

theorem Sent.grows : Grows s t := by
  obtain ⟨f, ps, a, q, e⟩ := h.eq
  exact ⟨h.agenda, files_of_heats (by rw [e])⟩

theorem Sent.now : t.now = s.now := by obtain ⟨f, ps, a, q, e⟩ := h.eq; rw [e]
theorem Sent.heats : t.heats = s.heats := by obtain ⟨f, ps, a, q, e⟩ := h.eq; rw [e]
theorem Sent.regatta : t.regatta = s.regatta := by obtain ⟨f, ps, a, q, e⟩ := h.eq; rw [e]
theorem Sent.mailbox : t.mailbox = s.mailbox := by obtain ⟨f, ps, a, q, e⟩ := h.eq; rw [e]
theorem Sent.pkgNo : t.pkgNo = s.pkgNo := by obtain ⟨f, ps, a, q, e⟩ := h.eq; rw [e]
theorem Sent.ptp : t.ptp = s.ptp := by obtain ⟨f, ps, a, q, e⟩ := h.eq; rw [e]
theorem Sent.routes : t.routes = s.routes := by obtain ⟨f, ps, a, q, e⟩ := h.eq; rw [e]
theorem Sent.fatal : t.fatal = s.fatal := by obtain ⟨f, ps, a, q, e⟩ := h.eq; rw [e]

theorem Sent.trained (p : Nat) : (t.port p).trained = (s.port p).trained := by
  obtain ⟨l, e, -⟩ := h.queues p
  rw [e]

/-- What was sent stays in its queue. -/
theorem Sent.sends {r : State} {p cls : Nat} {b : List Byte} (hs : r.sends s p cls b) : r.sends t p cls b := by
  obtain ⟨e, he, hc⟩ := hs
  obtain ⟨l, ht, hl⟩ := h.queues p
  refine ⟨e, ?_, hc⟩
  rw [ht]
  exact hl e he

end

theorem State.sends_now {s r t : State} {p cls : Nat} {b : List Byte} (h : r.now = s.now) (hs : r.sends t p cls b) :
    s.sends t p cls b := by
  obtain ⟨e, he, h1, h2⟩ := hs
  exact ⟨e, he, h1.trans h, h2⟩

/-! ### Each way of sending -/

theorem State.modPort_queue_sent (s : State) (p : Nat) (f : List (Nat × Msg) → List (Nat × Msg)) (hf : ∀ l, ∀ e ∈ l, e ∈ f l) :
    Sent s (s.modPort p fun x => { x with queue := f x.queue }) := by
  refine ⟨⟨_, _, _, _, rfl⟩, fun _ h => h, fun q => ?_⟩
  by_cases hq : q = p
  · subst hq
    rw [State.port_modPort]
    exact ⟨_, rfl, fun e he => hf _ e he⟩
  · rw [State.port_modPort_other _ hq]
    exact ⟨_, rfl, fun _ h => h⟩

theorem State.enqueue_sent (s : State) (p ready : Nat) (m : Msg) : Sent s (s.enqueue p ready m) :=
  (s.modPort_queue_sent p (insertMsg (ready, m)) fun _ _ he => mem_insertMsg.2 (.inr he)).trans (State.wakePort_pushed ..).sent

theorem State.enqueue_mem (s : State) (p ready : Nat) (m : Msg) : (ready, m) ∈ ((s.enqueue p ready m).port p).queue := by
  unfold State.enqueue
  rw [(State.wakePort_pushed ..).port, State.port_modPort]
  exact mem_insertMsg.2 (.inl rfl)

theorem State.takeSeq_sent (s : State) (k : FlowKey) : Sent s (s.takeSeq k).2 := by
  unfold State.takeSeq
  split <;> exact ⟨⟨_, _, _, _, rfl⟩, fun _ h => h, fun p => ⟨_, rfl, fun _ h => h⟩⟩

theorem State.sendOn_sent (s : State) (p : Nat) (m : Msg) : Sent s (s.sendOn p m) :=
  (State.takeSeq_sent ..).trans (State.enqueue_sent ..)

theorem State.sendOn_sends (s : State) (p : Nat) (m : Msg) : s.sends (s.sendOn p m) p m.cls.toNat m.payload :=
  ⟨_, State.enqueue_mem .., rfl, by simp, rfl⟩

theorem State.emit_sent (s : State) (m : Msg) (ready : Nat) : Sent s (s.emit m ready) := by
  unfold State.emit
  split
  · exact State.enqueue_sent ..
  · split
    · exact (State.push_pushed ..).sent
    · exact .refl s

theorem State.sendRouted_sent (s : State) (m : Msg) : Sent s (s.sendRouted m) :=
  (State.takeSeq_sent ..).trans (State.emit_sent ..)

theorem State.sendControl_sent (s : State) (pkg : Nat) (b : List Byte) : Sent s (s.sendControl pkg b) := State.sendRouted_sent ..

theorem State.sendControl_sends {s : State} {pkg p : Nat} {b : List Byte} (h : s.route (BitVec.ofNat 17 pkg) = some p) :
    s.sends (s.sendControl pkg b) p 4 b := by
  have hs := s.takeSeq_sent (msgKey (s.newMsg 4 (BitVec.ofNat 17 pkg) 0x7FFE b))
  have hr : (s.takeSeq (msgKey (s.newMsg 4 (BitVec.ofNat 17 pkg) 0x7FFE b))).2.route (BitVec.ofNat 17 pkg) = some p := by
    rw [← h]
    unfold State.route
    rw [hs.routes]
  unfold State.sendControl State.sendRouted
  dsimp only
  rw [State.emit, show (Msg.dpkg { s.newMsg 4 (BitVec.ofNat 17 pkg) 0x7FFE b with sq := _ }) = BitVec.ofNat 17 pkg from rfl, hr]
  exact ⟨_, State.enqueue_mem .., rfl, rfl, rfl⟩

/-- One turn of the flood. -/
def State.floodOn (b : List Byte) (notOn : Option Nat) (s : State) (p : Nat) : State :=
  if (s.port p).trained ∧ notOn ≠ some p then s.sendOn p { s.newMsg 4 0x1FFFF 0x7FFE b with ttl := 255 } else s

theorem State.floodOn_sent (b : List Byte) (notOn : Option Nat) (s : State) (p : Nat) : Sent s (s.floodOn b notOn p) := by
  unfold State.floodOn
  split
  · exact State.sendOn_sent ..
  · exact .refl s

theorem State.flood_sent (s : State) (b : List Byte) (notOn : Option Nat) : Sent s (s.flood b notOn) :=
  foldl_sent (State.floodOn b notOn) (State.floodOn_sent b notOn) _ s

theorem State.flood_sends {s : State} {b : List Byte} {notOn : Option Nat} {p : Nat} (hp : p < 16) (ht : (s.port p).trained = true)
    (hn : notOn ≠ some p) : s.sends (s.flood b notOn) p 4 b := by
  obtain ⟨u, hu, hv⟩ := foldl_sent_mem (State.floodOn b notOn) (State.floodOn_sent b notOn) (List.mem_range.2 hp) s
  refine State.sends_now hu.now (hv.sends ?_)
  unfold State.floodOn
  rw [if_pos ⟨hu.trained p ▸ ht, hn⟩]
  exact State.sendOn_sends ..

theorem State.tellAll_sent (s : State) (b : List Byte) : Sent s (s.tellAll b) :=
  foldl_sent _ (fun s p => s.sendControl_sent p b) _ s

theorem State.tellHalted_sent (s : State) (cause arg : Nat) : Sent s (s.tellHalted cause arg) := by
  unfold State.tellHalted
  split
  · split
    · exact (State.push_pushed ..).sent
    · exact State.sendControl_sent ..
  · exact .refl s

/-! ### HALT -/

theorem mem_insertUp {x y : Nat} {l : List Nat} : y ∈ insertUp x l ↔ y = x ∨ y ∈ l := by
  induction l with
  | nil => simp [insertUp]
  | cons z r ih =>
    rw [insertUp]
    repeat' split
    · simp
    · rename_i h
      subst h
      simp
    · simp [ih, or_left_comm]

theorem mem_addPackage (p : Nat) (l : List Nat) : p ∈ addPackage p l := by
  unfold addPackage
  split
  case isTrue h => simpa using h
  case isFalse => exact mem_insertUp.2 (.inl rfl)

/-- The least halt cycle that the package has received. -/
def State.leastHalt (s : State) (ph : Nat) : Nat :=
  match s.regatta.ph with
  | some x => min x ph
  | none => ph

theorem State.leastHalt_le (s : State) (ph : Nat) : s.leastHalt ph ≤ ph := by
  unfold State.leastHalt
  split
  · exact Nat.min_le_right ..
  · exact Nat.le_refl ph

/-- The state that has taken note of a HALT. -/
def State.haltNoted (s : State) (ini ph : Nat) : State :=
  { s with regatta := { s.regatta with
      forwarded := s.regatta.forwarded ++ [(ini, ph)], ph := some (s.leastHalt ph), initiators := addPackage ini s.regatta.initiators } }

/-- The halt and the time by which the packages are to report it, put on the agenda. -/
def State.haltTaken (s : State) (ini ph : Nat) : State :=
  let least := s.leastHalt ph
  let s := s.haltNoted ini ph
  (s.push (max s.now least) 84 (.regattaHalt least)).push (max s.now least + 14000000000) 84 (.haltedTimeout least)

theorem State.haltTaken_pushed (s : State) (ini ph : Nat) : Pushed (s.haltNoted ini ph) (s.haltTaken ini ph) :=
  (State.push_pushed ..).trans (State.push_pushed ..)

theorem State.haltTaken_awaits (s : State) (ini ph : Nat) :
    (s.haltTaken ini ph).awaits (max s.now (s.leastHalt ph)) (.regattaHalt (s.leastHalt ph)) ∧
    (s.haltTaken ini ph).awaits (max s.now (s.leastHalt ph) + 14000000000) (.haltedTimeout (s.leastHalt ph)) :=
  ⟨(State.push_pushed ..).awaits (State.push_awaits ..), State.push_awaits ..⟩

theorem halt_seen {s : State} {ini cause ph : Nat} {from' : Option Nat} (ha : s.arg = .halt ini cause ph from')
    (hc : s.regatta.forwarded.contains (ini, ph) = true) : exec .halt s = .next s := by
  show execHalt s = _
  unfold execHalt
  rw [ha]
  exact if_pos hc

theorem halt_eq {s : State} {ini cause ph : Nat} {from' : Option Nat} (ha : s.arg = .halt ini cause ph from')
    (hc : s.regatta.forwarded.contains (ini, ph) = false) :
    exec .halt s = .next ((s.flood (regattaPayload 0x20 cause ph 0 ini) from').haltTaken ini ph) := by
  show execHalt s = _
  unfold execHalt
  rw [ha]
  dsimp only
  rw [hc]
  generalize s.flood (regattaPayload 0x20 cause ph 0 ini) from' = u
  rfl

theorem halt_effect {s : State} {ini cause ph : Nat} {from' : Option Nat} (ha : s.arg = .halt ini cause ph from')
    (hc : s.regatta.forwarded.contains (ini, ph) = false) : ∃ (t : State) (least : Nat), exec .halt s = .next t ∧ sameFiles s t ∧
      s.keeps t [] ∧ t.regatta.ph = some least ∧ least ≤ ph ∧ (∀ x, s.regatta.ph = some x → least = min x ph) ∧
      (s.regatta.ph = none → least = ph) ∧ ini ∈ t.regatta.initiators ∧ (ini, ph) ∈ t.regatta.forwarded ∧
      (∀ p, p < 16 → (s.port p).trained = true → from' ≠ some p → s.sends t p 4 (regattaPayload 0x20 cause ph 0 ini)) ∧
      t.awaits (max s.now least) (.regattaHalt least) ∧ t.awaits (max s.now least + 14000000000) (.haltedTimeout least) := by
  have he := halt_eq ha hc
  have hk := (execHalt_keeps s).keeps he
  have hs := s.flood_sent (regattaPayload 0x20 cause ph 0 ini) from'
  have hf := fun p hp ht hn => State.flood_sends (s := s) (b := regattaPayload 0x20 cause ph 0 ini) (notOn := from') (p := p) hp ht hn
  generalize s.flood (regattaPayload 0x20 cause ph 0 ini) from' = u at he hk hs hf
  have hl : u.leastHalt ph = s.leastHalt ph := by
    unfold State.leastHalt
    rw [hs.regatta]
  have hp := u.haltTaken_pushed ini ph
  have hr : (u.haltTaken ini ph).regatta = (u.haltNoted ini ph).regatta := hp.sent.regatta
  obtain ⟨h1, h2⟩ := u.haltTaken_awaits ini ph
  rw [hl, hs.now] at h1 h2
  refine ⟨_, s.leastHalt ph, he, hp.grows.files.trans (files_of_heats (s := s) hs.heats), hk, ?_, s.leastHalt_le ph, fun x hx => ?_,
    fun hx => ?_, ?_, ?_, fun p hpp ht hn => hp.sent.sends (hf p hpp ht hn), h1, h2⟩
  · rw [hr, ← hl]
    rfl
  · unfold State.leastHalt; rw [hx]
  · unfold State.leastHalt; rw [hx]
  · rw [hr]
    exact mem_addPackage ..
  · rw [hr]
    exact List.mem_append_right _ (List.mem_cons_self ..)

end Sys2Proof.Machine
end
section
/-! PROOFS. What the packages do at a regatta's halt, their reports and the conclusion: O59. -/
namespace Sys2Proof.Machine

/-! ### Folds over heats with numbers apart -/

/-- The numbers of the resident heats. -/
def State.hids (s : State) : List Nat := s.heats.map (·.hid)

theorem State.modHeat_hids (s : State) (hid : Nat) (f : Heat → Heat) (h : ∀ x, (f x).hid = x.hid) :
    (s.modHeat hid f).hids = s.hids := by
  unfold State.hids State.modHeat
  rw [List.map_map]
  refine List.map_congr_left fun x _ => ?_
  dsimp only [Function.comp]
  split
  · exact h x
  · rfl

theorem State.heat?_modHeat_other {s : State} {hid x : Nat} (hx : x ≠ hid) (f : Heat → Heat) (hf : ∀ h, (f h).hid = h.hid) :
    (s.modHeat hid f).heat? x = s.heat? x := by
  rw [State.heat?_modHeat _ _ _ _ hf]
  cases h : s.heat? x with
  | none => rfl
  | some y =>
    have hy := State.heat?_hid h
    exact congrArg some (if_neg fun e => hx (hy.symm.trans e))

/-- In a fold over heats with numbers apart, a heat is as its own turn leaves it. -/
theorem foldl_heat? (f : State → Heat → State) (ok : State → Prop) (hok : ∀ s x, ok (f s x) → ok s)
    (hf : ∀ s x y, y ≠ x.hid → ok (f s x) → (f s x).heat? y = s.heat? y) :
    ∀ (l : List Heat) (s : State), (l.map (·.hid)).Nodup → ok (l.foldl f s) →
      (∀ y, y ∉ l.map (·.hid) → (l.foldl f s).heat? y = s.heat? y) ∧
      ∀ h ∈ l, ∃ pre post, l = pre ++ h :: post ∧ (pre.foldl f s).heat? h.hid = s.heat? h.hid ∧
        (l.foldl f s).heat? h.hid = (f (pre.foldl f s) h).heat? h.hid := by
  have hall : ∀ (l : List Heat) (s : State), ok (l.foldl f s) → ok s := by
    intro l
    induction l with
    | nil => exact fun _ h => h
    | cons x r ih => exact fun s h => hok s x (ih _ h)
  intro l
  induction l with
  | nil => exact fun s _ _ => ⟨fun _ _ => rfl, fun h hm => absurd hm (List.not_mem_nil)⟩
  | cons x r ih =>
    intro s hn ho
    obtain ⟨hx, hr⟩ := List.nodup_cons.1 hn
    obtain ⟨h1, h2⟩ := ih (f s x) hr ho
    have hstep := fun y hy => hf s x y hy (hall r _ ho)
    refine ⟨fun y hy => ?_, fun h hm => ?_⟩
    · rw [List.map_cons, List.mem_cons, not_or] at hy
      exact (h1 y hy.2).trans (hstep y hy.1)
    · rcases List.mem_cons.1 hm with rfl | hm
      · exact ⟨[], r, rfl, rfl, h1 _ hx⟩
      · obtain ⟨pre, post, rfl, h3, h4⟩ := h2 h hm
        have hne : h.hid ≠ x.hid := fun e => hx (List.mem_map.2 ⟨h, hm, e⟩)
        exact ⟨x :: pre, post, rfl, h3.trans (hstep _ hne), h4⟩

/-! ### The halt of the heats -/

/-- What the halt of a heat leaves to the rest of the package. -/
structure HaltFrame (s t : State) : Prop where
  files : t.files = s.files
  regatta : t.regatta = s.regatta
  mailbox : t.mailbox = s.mailbox
  hids : t.hids = s.hids
  pending : ∀ y, t.restorePending y = s.restorePending y

theorem HaltFrame.refl (s : State) : HaltFrame s s := ⟨rfl, rfl, rfl, rfl, fun _ => rfl⟩

theorem HaltFrame.trans {s t u : State} (h : HaltFrame s t) (h' : HaltFrame t u) : HaltFrame s u :=
  ⟨h'.files.trans h.files, h'.regatta.trans h.regatta, h'.mailbox.trans h.mailbox, h'.hids.trans h.hids,
    fun y => (h'.pending y).trans (h.pending y)⟩

theorem foldl_haltFrame {α : Type} (f : State → α → State) (h : ∀ s x, HaltFrame s (f s x)) (l : List α) :
    ∀ s, HaltFrame s (l.foldl f s) := by
  induction l with
  | nil => exact fun s => .refl s
  | cons x r ih => exact fun s => (h s x).trans (ih _)

theorem State.push_haltFrame (s : State) (c r : Nat) {e : Ev} (he : ∀ y, e ≠ .restore y) : HaltFrame s (s.push c r e) := by
  refine ⟨rfl, rfl, rfl, rfl, fun y => Bool.eq_iff_iff.2 ?_⟩
  simp only [State.restorePending, List.any_eq_true, beq_iff_eq]
  refine ⟨fun ⟨d, hd, hy⟩ => ?_, fun ⟨d, hd, hy⟩ => ⟨d, (State.mem_pushSub ..).2 (.inr hd), hy⟩⟩
  rcases (State.mem_pushSub ..).1 hd with rfl | hd
  · exact absurd hy (he y)
  · exact ⟨d, hd, hy⟩

theorem State.modHeat_haltFrame (s : State) (hid : Nat) (f : Heat → Heat) (hh : ∀ x, (f x).hid = x.hid) (hf : ∀ x, (f x).file = x.file) :
    HaltFrame s (s.modHeat hid f) :=
  ⟨State.modHeat_files _ _ _ hf, rfl, rfl, State.modHeat_hids _ _ _ hh, fun _ => rfl⟩

theorem State.afterCounter_haltFrame (s : State) (hid : Nat) : HaltFrame s (s.afterCounter hid) := by
  unfold State.afterCounter
  split
  · exact .refl s
  · split
    · exact State.push_haltFrame _ _ _ fun _ h => nomatch h
    · split
      · exact State.push_haltFrame _ _ _ fun _ h => nomatch h
      · exact .refl s

/-- A heat with the regatta's halt. -/
def Heat.haltedAt (ph : Nat) (h : Heat) : Heat := { h with halt := some (h.regattaStop ph) }

/-- A heat that halts from now on. -/
def Heat.haltingNow (h : Heat) : Heat := { h with status := .halting }

theorem Heat.haltedAt_hid (ph : Nat) (h : Heat) : (h.haltedAt ph).hid = h.hid := rfl
theorem Heat.haltingNow_hid (h : Heat) : h.haltingNow.hid = h.hid := rfl
theorem Heat.haltedAt_file (ph : Nat) (h : Heat) : (h.haltedAt ph).file = h.file := rfl
theorem Heat.haltingNow_file (h : Heat) : h.haltingNow.file = h.file := rfl

/-- Whether a heat's halt has come. -/
def Heat.haltDue (h : Heat) (now : Nat) : Bool :=
  match h.halt with
  | some (.regatta, _) => true
  | some (_, x) => decide (h.anchor + x ≤ now)
  | none => false

/-- Whether a heat can begin to halt: it runs, waits for its anchor, or is resuming and its restore has been made. -/
def State.goingOn (s : State) (h : Heat) : Prop :=
  h.status = .running ∨ h.status = .closing ∨ h.status = .scheduled ∨ (h.status = .restoring ∧ s.restorePending h.hid = false)

theorem State.beginHalt_some {s : State} {h : Heat} (hh : s.heat? h.hid = some h) (hg : s.goingOn h) (hd : h.haltDue s.now = true) :
    s.beginHalt h.hid = (s.modHeat h.hid Heat.haltingNow).afterCounter h.hid := by
  unfold State.beginHalt
  rw [hh]
  exact if_pos ⟨by simpa [State.goingOn] using hg, hd⟩

theorem State.beginHalt_cases (s : State) (hid : Nat) :
    s.beginHalt hid = s ∨ s.beginHalt hid = (s.modHeat hid Heat.haltingNow).afterCounter hid := by
  unfold State.beginHalt
  split
  · exact .inl rfl
  · exact (ite_eq_or_eq ..).symm

theorem State.beginHalt_frame (s : State) (hid : Nat) : HaltFrame s (s.beginHalt hid) := by
  rcases s.beginHalt_cases hid with h | h <;> rw [h]
  · exact .refl s
  · exact (State.modHeat_haltFrame s hid Heat.haltingNow Heat.haltingNow_hid Heat.haltingNow_file).trans
      (State.afterCounter_haltFrame ..)

theorem State.beginHalt_other {s : State} {hid y : Nat} (hy : y ≠ hid) : (s.beginHalt hid).heat? y = s.heat? y := by
  rcases s.beginHalt_cases hid with h | h <;> rw [h]
  rw [heat?_congr (State.afterCounter_pushed ..).heats]
  exact State.heat?_modHeat_other hy Heat.haltingNow Heat.haltingNow_hid

/-- What a heat keeps when it begins to halt. -/
theorem State.beginHalt_self {s : State} {h : Heat} (hh : s.heat? h.hid = some h) :
    (s.beginHalt h.hid).heat? h.hid = some h ∨ (s.beginHalt h.hid).heat? h.hid = some h.haltingNow := by
  rcases s.beginHalt_cases h.hid with hx | hx <;> rw [hx]
  · exact .inl hh
  · right
    rw [heat?_congr (State.afterCounter_pushed ..).heats]
    exact State.heat?_modHeat_self hh Heat.haltingNow_hid

/-- A heat's turn at the regatta's halt. -/
def State.haltHeat (ph : Nat) (s : State) (h : Heat) : State := (s.modHeat h.hid (Heat.haltedAt ph)).beginHalt h.hid

theorem State.haltHeat_frame (ph : Nat) (s : State) (h : Heat) : HaltFrame s (s.haltHeat ph h) :=
  (State.modHeat_haltFrame s h.hid (Heat.haltedAt ph) (Heat.haltedAt_hid ph) (Heat.haltedAt_file ph)).trans (State.beginHalt_frame ..)

theorem State.haltHeat_other {ph : Nat} {s : State} {h : Heat} {y : Nat} (hy : y ≠ h.hid) : (s.haltHeat ph h).heat? y = s.heat? y :=
  (State.beginHalt_other hy).trans (State.heat?_modHeat_other hy (Heat.haltedAt ph) (Heat.haltedAt_hid ph))

theorem Heat.haltedAt_due {h : Heat} (ph now : Nat) (hf : h.fault = none) : (h.haltedAt ph).haltDue now = true := by
  unfold Heat.haltDue Heat.haltedAt Heat.regattaStop
  cases h.halt with
  | none => rfl
  | some kx => simp [hf]

/-- A heat after its turn: it has the regatta's halt, and without a fault it halts now unless its restore is still to come. -/
theorem State.haltHeat_self {ph : Nat} {s : State} {h : Heat} (hh : s.heat? h.hid = some h) :
    (∃ y, (s.haltHeat ph h).heat? h.hid = some y ∧ y.halt = some (h.regattaStop ph) ∧ y.fault = h.fault ∧
      (y.status = h.status ∨ y.status = .halting)) ∧
    (h.fault = none → s.goingOn h → ((s.haltHeat ph h).heat? h.hid).map (·.status) = some .halting) := by
  have h1 := State.heat?_modHeat_self hh (Heat.haltedAt_hid ph)
  refine ⟨?_, fun hf hg => ?_⟩
  · rcases State.beginHalt_self (h := h.haltedAt ph) h1 with h2 | h2
    · exact ⟨_, h2, rfl, rfl, .inl rfl⟩
    · exact ⟨_, h2, rfl, rfl, .inr rfl⟩
  · have h2 := State.beginHalt_some (h := h.haltedAt ph) h1 hg (Heat.haltedAt_due ph _ hf)
    unfold State.haltHeat
    rw [show (h.haltedAt ph).hid = h.hid from rfl] at h2
    have h3 := State.heat?_modHeat_self (h := h.haltedAt ph) h1 Heat.haltingNow_hid
    rw [show (h.haltedAt ph).hid = h.hid from rfl] at h3
    rw [h2, heat?_congr (State.afterCounter_pushed ..).heats, h3]
    rfl

/-- The package once PH has come. -/
def State.phReached (s : State) (ph : Nat) : State :=
  { s with
    regatta := { s.regatta with halted := true }
    mailbox := { s.mailbox with regattaHalted := true, regattaPh := ph } }

theorem State.reportHalted_same (s : State) : s.reportHalted.heats = s.heats ∧ s.reportHalted.mailbox = s.mailbox ∧
    s.reportHalted.regatta.halted = s.regatta.halted := by
  unfold State.reportHalted
  split
  · split
    · dsimp only
      refine ⟨?_, ?_, ?_⟩
      · exact (State.tellHalted_sent ..).heats
      · exact (State.tellHalted_sent ..).mailbox
      · rw [(State.tellHalted_sent ..).regatta]
    · exact ⟨rfl, rfl, rfl⟩
  · exact ⟨rfl, rfl, rfl⟩

theorem regattaHalt_done {s : State} {ph : Nat} (ha : s.arg = .regattaHalt ph) (h : s.regatta.ph ≠ some ph ∨ s.regatta.halted = true) :
    exec .regattaHalt s = .next s := by
  show execRegattaHalt s = _
  unfold execRegattaHalt
  rw [ha]
  exact if_pos h

theorem regattaHalt_eq {s : State} {ph : Nat} (ha : s.arg = .regattaHalt ph) (hp : s.regatta.ph = some ph)
    (hh : s.regatta.halted = false) : exec .regattaHalt s =
      .next ((s.heats.filter (·.haltable)).foldl (State.haltHeat ph) (s.phReached ph)).reportHalted := by
  show execRegattaHalt s = _
  unfold execRegattaHalt
  split
  · rename_i hx
    cases ha.symm.trans hx
    exact (if_neg (not_or.2 ⟨not_not_intro hp, by simp [hh]⟩)).trans rfl
  · rename_i hx
    exact absurd ha (hx ph)

theorem Heat.haltable_iff (h : Heat) : h.haltable = true ↔ h.record.sched = true ∧
    (h.status = .scheduled ∨ h.status = .running ∨ h.status = .closing ∨ h.status = .restoring) := by
  simp [Heat.haltable, or_assoc]

/-- A haltable heat is going on, or is resuming. -/
theorem Heat.haltable_going {h : Heat} (hl : h.haltable = true) (u : State) : u.goingOn h ∨ h.status = .restoring := by
  obtain ⟨-, h1 | h1 | h1 | h1⟩ := h.haltable_iff.1 hl
  · exact .inl (.inr (.inr (.inl h1)))
  · exact .inl (.inl h1)
  · exact .inl (.inr (.inl h1))
  · exact .inr h1

theorem regattaHalt_effect {s : State} {ph : Nat} (ha : s.arg = .regattaHalt ph) (hp : s.regatta.ph = some ph)
    (hh : s.regatta.halted = false) : ∃ t : State, exec .regattaHalt s = .next t ∧ sameFiles s t ∧
      s.keeps t [] ∧ t.regatta.halted = true ∧ t.mailbox.regattaHalted = true ∧ t.mailbox.regattaPh = ph ∧
      (s.hidsApart → ∀ x ∈ t.heats, x.fault = none → x.record.sched = true →
        x.status ≠ .scheduled ∧ x.status ≠ .running ∧ x.status ≠ .closing) ∧
      ∀ h, s.heat? h.hid = some h → s.hidsApart → h.haltable = true →
        (h.fault = none ∨ h.halt = none → (t.heat? h.hid).map (·.halt) = some (some (.regatta, ph - h.anchor))) ∧
        (∀ k x, h.fault.isSome = true → h.halt = some (k, x) →
          (t.heat? h.hid).map (·.halt) = some (some (k, min x (ph - h.anchor)))) ∧
        (h.fault = none → h.status ≠ .restoring ∨ s.restorePending h.hid = false →
          (t.heat? h.hid).map (·.status) = some .halting) := by
  have he := regattaHalt_eq ha hp hh
  have hfr := foldl_haltFrame (State.haltHeat ph) (State.haltHeat_frame ph) (s.heats.filter (·.haltable)) (s.phReached ph)
  have hfold := foldl_heat? (State.haltHeat ph) (fun _ => True) (fun _ _ _ => trivial) (fun u x y hy _ => State.haltHeat_other hy)
    (s.heats.filter (·.haltable)) (s.phReached ph)
  have hturn : ∀ h, s.heat? h.hid = some h → s.hidsApart → h.haltable = true → ∃ u : State, HaltFrame (s.phReached ph) u ∧
      u.heat? h.hid = some h ∧ ((s.heats.filter (·.haltable)).foldl (State.haltHeat ph) (s.phReached ph)).heat? h.hid =
        (u.haltHeat ph h).heat? h.hid := by
    intro h hm hd hl
    obtain ⟨pre, post, -, h1, h2⟩ := (hfold ((List.filter_sublist.map _).nodup hd) trivial).2 h
      (List.mem_filter.2 ⟨List.mem_of_find?_eq_some hm, hl⟩)
    exact ⟨_, foldl_haltFrame (State.haltHeat ph) (State.haltHeat_frame ph) pre _, h1.trans hm, h2⟩
  have hk := (execRegattaHalt_keeps s).keeps he
  obtain ⟨r1, r2, r3⟩ := ((s.heats.filter (·.haltable)).foldl (State.haltHeat ph) (s.phReached ph)).reportHalted_same
  refine ⟨_, he, (files_of_heats r1).trans hfr.files, hk, r3.trans (congrArg Regatta.halted hfr.regatta),
    (congrArg _ (r2.trans hfr.mailbox)), (congrArg _ (r2.trans hfr.mailbox)), fun hd x hx hf hsch => ?_, fun h hm hd hl => ?_⟩
  · have hdf : ((s.heats.filter (·.haltable)).foldl (State.haltHeat ph) (s.phReached ph)).hidsApart := by
      unfold State.hidsApart
      rw [show List.map _ _ = _ from hfr.hids]
      exact hd
    have hxt := State.heat?_of_mem hdf (r1 ▸ hx)
    by_cases hin : x.hid ∈ (s.heats.filter (·.haltable)).map (·.hid)
    · obtain ⟨h, hm, hid⟩ := List.mem_map.1 hin
      obtain ⟨hs, hl⟩ := List.mem_filter.1 hm
      obtain ⟨u, -, hu, hturned⟩ := hturn h (State.heat?_of_mem hd hs) hd hl
      obtain ⟨⟨y, hy, -, hyf, hys⟩, hhalts⟩ := State.haltHeat_self (ph := ph) hu
      rw [← hid, hturned] at hxt
      obtain rfl : y = x := Option.some.inj (hy.symm.trans hxt)
      rw [hxt] at hhalts
      have hst : y.status = .halting ∨ y.status = .restoring := by
        rcases Heat.haltable_going hl u with hg | hg
        · exact .inl (Option.some.inj (hhalts (hyf ▸ hf) hg))
        · exact hys.symm.imp_right fun e => e.trans hg
      rcases hst with e | e <;> simp [e]
    · rw [(hfold ((List.filter_sublist.map _).nodup hd) trivial).1 _ hin] at hxt
      have hxs : x ∈ s.heats := List.mem_of_find?_eq_some hxt
      have hn : ¬x.haltable = true := fun hl => hin (List.mem_map_of_mem (List.mem_filter.2 ⟨hxs, hl⟩))
      rw [Heat.haltable_iff] at hn
      exact ⟨fun e => hn ⟨hsch, .inl e⟩, fun e => hn ⟨hsch, .inr (.inl e)⟩, fun e => hn ⟨hsch, .inr (.inr (.inl e))⟩⟩
  · obtain ⟨u, hfu, hu, hturned⟩ := hturn h hm hd hl
    obtain ⟨⟨y, hy, hyh, -, -⟩, hhalts⟩ := State.haltHeat_self (ph := ph) hu
    rw [heat?_congr r1, hturned, hy, Option.map_some, hyh]
    refine ⟨fun hc => ?_, fun k x hf hx => ?_, fun hf hst => ?_⟩
    · unfold Heat.regattaStop
      cases hx : h.halt with
      | none => rfl
      | some kx =>
        have hf : h.fault = none := hc.resolve_right (by simp [hx])
        simp [hf]
    · unfold Heat.regattaStop
      rw [hx]
      simp [hf]
    · rw [← hy]
      refine hhalts hf ((Heat.haltable_going hl u).elim id fun hr => .inr (.inr (.inr ⟨hr, ?_⟩)))
      exact (hfu.pending _).trans (hst.resolve_left (fun hne => hne hr))

end Sys2Proof.Machine
end
section
/-! PROOFS. The regatta's conclusion, and the packages that it excludes: O59. -/
namespace Sys2Proof.Machine

/-! ### The conclusion -/

theorem le_foldl_max (l : List Nat) : ∀ a, a ≤ l.foldl max a ∧ ∀ x ∈ l, x ≤ l.foldl max a := by
  induction l with
  | nil => exact fun a => ⟨Nat.le_refl a, fun _ h => absurd h (List.not_mem_nil)⟩
  | cons y r ih =>
    intro a
    obtain ⟨h1, h2⟩ := ih (max a y)
    refine ⟨(Nat.le_max_left ..).trans h1, fun x hx => ?_⟩
    rcases List.mem_cons.1 hx with rfl | hx
    · exact (Nat.le_max_right ..).trans h1
    · exact h2 x hx

/-- The shift of a resumption: whole turns of the banks, to every cycle reported and late enough for the message. -/
theorem resumeShift_spec (ph now lead : Nat) (args : List Nat) : resumeShift ph now lead args % 8192 = 0 ∧
    now + lead ≤ ph + resumeShift ph now lead args ∧ ∀ x ∈ args, x ≤ ph + resumeShift ph now lead args := by
  obtain ⟨h1, h2⟩ := le_foldl_max args (now + lead)
  unfold resumeShift roundUp
  generalize args.foldl max (now + lead) = m at h1 h2
  exact ⟨by omega, by omega, fun x hx => by have := h2 x hx; omega⟩

/-- The packages that a conclusion excludes: those that are leaving or have not reported. -/
def State.silent (s : State) : List Nat :=
  s.regatta.packages.filter fun p => match s.regatta.reported.find? (fun r => r.1 == p) with
    | some r => r.2.1
    | none => true

/-- Tell the packages that one is excluded. -/
def State.excluding (ph me : Nat) (s : State) (p : Nat) : State :=
  (s.tellAll (regattaPayload 0x24 0 ph p me)).push s.now 44 (.exclude p ph me)

theorem State.excluding_sent (ph me : Nat) (s : State) (p : Nat) : Sent s (s.excluding ph me p) :=
  (State.tellAll_sent ..).trans (State.push_pushed ..).sent

/-- The shift by which the regatta resumes. -/
def State.shift (s : State) (ph : Nat) : Nat :=
  resumeShift ph s.now s.regatta.haltLead ((s.regatta.reported.filter fun r => !r.2.1).map (·.2.2))

/-- Tell the packages to resume. -/
def State.resuming (s : State) (ph me : Nat) : State :=
  (s.tellAll (regattaPayload 0x22 0 ph (s.shift ph) me)).push s.now 45 (.resume (s.shift ph) ph me)

theorem State.resuming_sent (s : State) (ph me : Nat) : Sent s (s.resuming ph me) :=
  (State.tellAll_sent ..).trans (State.push_pushed ..).sent

theorem State.conclude_eq (s : State) (ph : Nat) :
    s.conclude ph = (s.silent.foldl (State.excluding ph s.pkgNo.toNat) s).resuming ph s.pkgNo.toNat := rfl

theorem State.conclude_sent (s : State) (ph : Nat) : Sent s (s.conclude ph) := by
  rw [State.conclude_eq]
  exact (foldl_sent _ (State.excluding_sent ph _) _ s).trans (State.resuming_sent ..)

theorem State.mem_silent {s : State} {p : Nat} (hp : p ∈ s.regatta.packages) (hr : ∀ r ∈ s.regatta.reported, r.1 ≠ p) :
    p ∈ s.silent := by
  refine List.mem_filter.2 ⟨hp, ?_⟩
  rw [List.find?_eq_none.2 fun r hm => by simpa using hr r hm]

/-- The coordinator concludes. -/
theorem State.conclude_concludes (s : State) (ph : Nat) : Concludes s (s.conclude ph) ph := by
  have hs := foldl_sent _ (State.excluding_sent ph s.pkgNo.toNat) s.silent s
  obtain ⟨h1, h2, h3⟩ := resumeShift_spec ph s.now s.regatta.haltLead ((s.regatta.reported.filter fun r => !r.2.1).map (·.2.2))
  unfold Concludes
  rw [s.conclude_sent ph |>.regatta, State.conclude_eq]
  refine ⟨⟨s.shift ph, ?_, h1, h2, fun r hr hf => h3 _ (List.mem_map_of_mem (List.mem_filter.2 ⟨hr, by simp [hf]⟩))⟩, fun p hp hr => ?_⟩
  · have hsh : (s.silent.foldl (State.excluding ph s.pkgNo.toNat) s).shift ph = s.shift ph := by
      unfold State.shift
      rw [hs.now, hs.regatta]
    unfold State.resuming
    rw [hsh, hs.now]
    exact State.push_awaits ..
  · obtain ⟨u, hu, hv⟩ := foldl_sent_mem _ (State.excluding_sent ph s.pkgNo.toNat) (State.mem_silent hp hr) s
    refine (hv.trans (State.resuming_sent ..)).grows.awaits ?_
    unfold State.excluding
    rw [hu.now]
    exact State.push_awaits ..

/-- The regatta's reports with a package's. -/
def State.reportTaken (s : State) (pkg leaving arg : Nat) : State :=
  { s with regatta := { s.regatta with
      reported := s.regatta.reported.filter (fun r => r.1 ≠ pkg) ++ [(pkg, leaving == 1, arg)] } }

/-- Whether every package of the regatta has reported. -/
def State.allReported (s : State) : Bool := s.regatta.packages.all fun p => s.regatta.reported.any fun r => r.1 == p

theorem halted_other {s : State} {pkg leaving arg ph ini : Nat} (ha : s.arg = .halted pkg leaving arg ph ini)
    (hp : s.regatta.ph ≠ some ph) : exec .halted s = .next s := by
  show execHalted s = _
  unfold execHalted
  rw [ha]
  exact if_pos hp

theorem halted_eq {s : State} {pkg leaving arg ph ini : Nat} (ha : s.arg = .halted pkg leaving arg ph ini)
    (hp : s.regatta.ph = some ph) : exec .halted s = .next
      (if (s.reportTaken pkg leaving arg).allReported = true ∧ s.regatta.coordinator = some s.pkgNo.toNat
        then (s.reportTaken pkg leaving arg).conclude ph else s.reportTaken pkg leaving arg) := by
  show execHalted s = _
  unfold execHalted
  split
  · rename_i hx
    cases ha.symm.trans hx
    exact (if_neg (not_not_intro hp)).trans rfl
  · rename_i hx
    exact (hx _ _ _ _ _ ha).elim

theorem State.reportTaken_all {s : State} {pkg leaving arg : Nat}
    (h : ∀ p ∈ s.regatta.packages, p ≠ pkg → ∃ r ∈ s.regatta.reported, r.1 = p) :
    (s.reportTaken pkg leaving arg).allReported = true := by
  refine List.all_eq_true.2 fun p hp => List.any_eq_true.2 ?_
  by_cases hpk : p = pkg
  · exact ⟨_, List.mem_append_right _ (List.mem_cons_self ..), by simp [hpk]⟩
  · obtain ⟨r, hr, hrp⟩ := h p hp hpk
    exact ⟨r, List.mem_append_left _ (List.mem_filter.2 ⟨hr, by simpa [hrp] using hpk⟩), by simp [hrp]⟩

theorem halted_effect {s : State} {pkg leaving arg ph ini : Nat} (ha : s.arg = .halted pkg leaving arg ph ini)
    (hp : s.regatta.ph = some ph) : ∃ t : State, exec .halted s = .next t ∧ sameFiles s t ∧ s.keeps t [] ∧
      (pkg, leaving == 1, arg) ∈ t.regatta.reported ∧
      (s.regatta.coordinator = some s.pkgNo.toNat → (∀ p ∈ s.regatta.packages, p ≠ pkg → ∃ r ∈ s.regatta.reported, r.1 = p) →
        Concludes s t ph) := by
  have he := halted_eq ha hp
  have hk := (execHalted_keeps s).keeps he
  have hs := (s.reportTaken pkg leaving arg).conclude_sent ph
  have hm : (pkg, leaving == 1, arg) ∈ (s.reportTaken pkg leaving arg).regatta.reported :=
    List.mem_append_right _ (List.mem_cons_self ..)
  refine ⟨_, he, ?_, hk, ?_, fun hc hall => ?_⟩
  · split
    · exact hs.grows.files
    · rfl
  · split
    · rw [hs.regatta]; exact hm
    · exact hm
  · rw [if_pos ⟨State.reportTaken_all hall, hc⟩]
    exact State.conclude_concludes (s.reportTaken pkg leaving arg) ph

/-- Whether the package is to conclude the regatta's halt at PH. -/
def State.coordinates (s : State) (ph : Nat) : Prop :=
  s.regatta.ph = some ph ∧ s.regatta.halted = true ∧ s.regatta.coordinator = some s.pkgNo.toNat

theorem haltedTimeout_mine {s : State} {ph : Nat} (ha : s.arg = .haltedTimeout ph) (h : s.coordinates ph) :
    ∃ t : State, exec .haltedTimeout s = .next t ∧ sameFiles s t ∧ s.keeps t [] ∧ Concludes s t ph := by
  have he : exec .haltedTimeout s = .next (s.conclude ph) := by
    show execHaltedTimeout s = _
    unfold execHaltedTimeout
    rw [ha]
    exact congrArg _ (if_pos h)
  exact ⟨_, he, (s.conclude_sent ph).grows.files, (execHaltedTimeout_keeps s).keeps he, s.conclude_concludes ph⟩

theorem haltedTimeout_other {s : State} {ph : Nat} (ha : s.arg = .haltedTimeout ph) (h : ¬s.coordinates ph) :
    exec .haltedTimeout s = .next s := by
  show execHaltedTimeout s = _
  unfold execHaltedTimeout
  rw [ha]
  exact congrArg _ (if_neg h)

theorem resumed_effect {s : State} {pkg : Nat} (ha : s.arg = .resumed pkg) :
    ∃ t : State, exec .resumed s = .next t ∧ sameFiles s t ∧ s.keeps t [] ∧ t.logEvents = s.logEvents ++ [(s.now, .resumed pkg)] := by
  have he : exec .resumed s = .next (s.logEvent (.resumed pkg)) := by
    show execResumed s = _
    unfold execResumed
    rw [ha]
  exact ⟨_, he, rfl, (execResumed_keeps s).keeps he, rfl⟩

/-! ### Exclusion -/

/-- A heat that is released with a cause. -/
def Heat.aborted (cause : Nat) (h : Heat) : Heat :=
  { h with abortCause := cause, status := .quiesced, anchor := if h.status = .armed then 0 else h.anchor }

theorem Heat.aborted_hid (cause : Nat) (h : Heat) : (h.aborted cause).hid = h.hid := rfl

theorem State.abortHeat_eq (s : State) (hid cause : Nat) :
    s.abortHeat hid cause = (s.modHeat hid (Heat.aborted cause)).push s.now 80 (.heatCompletion hid) := rfl

/-- What aborting heats leaves: the cycle, the numbers, the registers, steps on the agenda, and heats already aborted with the cause. -/
structure Aborts (cause : Nat) (s t : State) : Prop where
  now : t.now = s.now
  hids : t.hids = s.hids
  grows : Grows s t
  stays : ∀ y, (∃ x ∈ s.heats, x.hid = y ∧ x.abortCause = cause) → ∃ x ∈ t.heats, x.hid = y ∧ x.abortCause = cause

theorem Aborts.refl (cause : Nat) (s : State) : Aborts cause s s := ⟨rfl, rfl, .refl s, fun _ h => h⟩

theorem Aborts.trans {cause : Nat} {s t u : State} (h : Aborts cause s t) (h' : Aborts cause t u) : Aborts cause s u :=
  ⟨h'.now.trans h.now, h'.hids.trans h.hids, h.grows.trans h'.grows, fun y hy => h'.stays y (h.stays y hy)⟩

theorem State.mem_modHeat {s : State} {x : Heat} (hx : x ∈ s.heats) (hid : Nat) (f : Heat → Heat) :
    (if x.hid = hid then f x else x) ∈ (s.modHeat hid f).heats := List.mem_map_of_mem hx

theorem State.abortHeat_aborts (s : State) (hid cause : Nat) : Aborts cause s (s.abortHeat hid cause) := by
  refine ⟨rfl, State.modHeat_hids s hid (Heat.aborted cause) (Heat.aborted_hid cause), ⟨?_, State.abortHeat_files ..⟩, ?_⟩
  · exact fun d hd => (State.mem_pushSub ..).2 (.inr hd)
  · rintro y ⟨x, hx, rfl, hc⟩
    refine ⟨_, State.mem_modHeat hx hid (Heat.aborted cause), ?_, ?_⟩ <;> split
    · rfl
    · rfl
    · rfl
    · exact hc

theorem State.abortHeat_self {s : State} {hid : Nat} (cause : Nat) (h : hid ∈ s.hids) :
    (∃ x ∈ (s.abortHeat hid cause).heats, x.hid = hid ∧ x.abortCause = cause) ∧
      (s.abortHeat hid cause).awaits s.now (.heatCompletion hid) := by
  obtain ⟨x, hx, rfl⟩ := List.mem_map.1 h
  refine ⟨⟨_, State.mem_modHeat hx x.hid (Heat.aborted cause), ?_, ?_⟩, State.push_awaits ..⟩ <;> rw [if_pos rfl]
  · rfl
  · rfl

/-- The package without another one of the regatta. -/
def State.packageGone (s : State) (pkg : Nat) : State :=
  { s with regatta := { s.regatta with packages := s.regatta.packages.filter (· ≠ pkg) } }

/-- The heats with a flow to a package. -/
def State.cutOff (s : State) (pkg : Nat) : List Heat := s.heats.filter fun h => h.abortCause == 0 && s.flowsTo h pkg

theorem State.flowsTo_iff {s : State} {h : Heat} {pkg : Nat} :
    s.flowsTo h pkg = true ↔ ∃ p, s.route (BitVec.ofNat 17 pkg) = some p ∧ p ∈ h.record.ports := by
  unfold State.flowsTo
  split
  · rename_i p hp
    simp [hp]
  · rename_i hp
    simp [hp]

theorem exclude_eq {s : State} {pkg ph ini : Nat} (ha : s.arg = .exclude pkg ph ini) : exec .exclude s =
    .next ((s.cutOff pkg).foldl (fun u h => u.abortHeat h.hid 0xE2) (s.packageGone pkg)) := by
  show execExclude s = _
  unfold execExclude
  split
  · rename_i hx
    cases ha.symm.trans hx
    rfl
  · rename_i hx
    exact (hx _ _ _ ha).elim

theorem foldl_abort_regatta (l : List Heat) (cause : Nat) : ∀ s : State, (l.foldl (fun u h => u.abortHeat h.hid cause) s).regatta =
    s.regatta := by
  induction l with
  | nil => exact fun _ => rfl
  | cons x r ih => exact fun s => ih (s.abortHeat x.hid cause)

theorem foldl_abort_spared {h : Heat} (l : List Heat) (cause : Nat) (hn : ∀ x ∈ l, x.hid ≠ h.hid) : ∀ s : State, h ∈ s.heats →
    h ∈ (l.foldl (fun u x => u.abortHeat x.hid cause) s).heats := by
  induction l with
  | nil => exact fun _ hm => hm
  | cons x r ih =>
    intro s hm
    refine ih (fun y hy => hn y (List.mem_cons_of_mem _ hy)) _ ?_
    have hx := State.mem_modHeat hm x.hid (Heat.aborted cause)
    rw [if_neg (fun e => hn x (List.mem_cons_self ..) e.symm)] at hx
    exact hx

theorem exclude_effect {s : State} {pkg ph ini : Nat} (ha : s.arg = .exclude pkg ph ini) :
    ∃ t : State, exec .exclude s = .next t ∧ sameFiles s t ∧
    s.keeps t [] ∧ pkg ∉ t.regatta.packages ∧ (∀ p ∈ s.regatta.packages, p ≠ pkg → p ∈ t.regatta.packages) ∧
    ∀ h ∈ s.heats, h.abortCause = 0 →
      ((∃ p, s.route (BitVec.ofNat 17 pkg) = some p ∧ p ∈ h.record.ports) → (∃ x ∈ t.heats, x.hid = h.hid ∧ x.abortCause = 0xE2) ∧
        t.awaits s.now (.heatCompletion h.hid)) ∧
      ((∀ p, s.route (BitVec.ofNat 17 pkg) = some p → p ∉ h.record.ports) → s.hidsApart → h ∈ t.heats) := by
  have he := exclude_eq ha
  have hturn := fun h hm => foldl_turn (R := Aborts 0xE2) (Aborts.refl _) Aborts.trans (f := fun u h => u.abortHeat h.hid 0xE2)
    (fun u x => u.abortHeat_aborts x.hid 0xE2) (l := s.cutOff pkg) (x := h) hm (s.packageGone pkg)
  refine ⟨_, he, ?_, (execExclude_keeps s).keeps he, ?_, ?_, fun h hm hc => ⟨fun hp => ?_, fun hp hd => ?_⟩⟩
  · exact foldl_files _ (fun u x => State.abortHeat_files ..) _ _
  · rw [foldl_abort_regatta]
    simp [State.packageGone]
  · rw [foldl_abort_regatta]
    intro p hp hne
    simp [State.packageGone, hp, hne]
  · obtain ⟨u, hu, hv⟩ := hturn h (List.mem_filter.2 ⟨hm, by simp [hc, State.flowsTo_iff.2 hp]⟩)
    obtain ⟨h1, h2⟩ := State.abortHeat_self (s := u) (hid := h.hid) 0xE2 (by rw [hu.hids]; exact List.mem_map_of_mem hm)
    rw [hu.now] at h2
    exact ⟨hv.stays _ h1, hv.grows.awaits h2⟩
  · refine foldl_abort_spared _ _ (fun x hx e => ?_) _ hm
    obtain ⟨hxs, hxc⟩ := List.mem_filter.1 hx
    have hxh : x = h := Option.some.inj ((State.heat?_of_mem hd hxs).symm.trans (e ▸ State.heat?_of_mem hd hm))
    rw [hxh, Bool.and_eq_true] at hxc
    obtain ⟨p, hr, hpp⟩ := State.flowsTo_iff.1 hxc.2
    exact hp p hr hpp

end Sys2Proof.Machine
end
section
/-! PROOFS. The time protocol and the pod counter: O59. -/
namespace Sys2Proof.Machine

/-! ### Syncs and delay requests -/

theorem State.ptpMsg_payload (s : State) (subtype : Nat) (body : List Nat) : (s.ptpMsg subtype body).payload = s.ptpPayload subtype body := rfl

theorem State.sendOn_ptp (s : State) (p subtype : Nat) (body : List Nat) :
    s.sends (s.sendOn p (s.ptpMsg subtype body)) p 4 (s.ptpPayload subtype body) := State.sendOn_sends ..

/-- A Sync sent on the ports that do not lead to the master. -/
def State.syncSent (s : State) (p : Nat) : State :=
  let t := s.ptpTime s.now
  if s.ptp.decided ∧ s.ptp.slavePort ≠ some p then s.sendOn p (s.ptpMsg 0 [t / 65536, t % 65536]) else s

theorem State.syncSent_sent (s : State) (p : Nat) : Sent s (s.syncSent p) := by
  unfold State.syncSent
  dsimp only
  split
  · exact State.sendOn_sent ..
  · exact .refl s

theorem sync_send_eq {s : State} {p origin : Nat} (ha : s.arg = .sync p true origin) : exec .sync s =
    .next (if (s.port p).trained = true then (s.syncSent p).push (roundUp 8192 ((s.syncSent p).now + 10937500)) 72 (.sync p true 0)
      else s) := by
  have hn : (s.syncSent p).now = s.now := (s.syncSent_sent p).now
  rw [hn]
  show execSync s = _
  unfold execSync
  rw [ha]
  rfl

theorem sync_send_effect {s : State} {p origin : Nat} (ha : s.arg = .sync p true origin) :
    ∃ t : State, exec .sync s = .next t ∧ sameFiles s t ∧ s.keeps t [] ∧
      ((s.port p).trained = true →
        (s.ptp.decided = true → s.ptp.slavePort ≠ some p →
          s.sends t p 4 (s.ptpPayload 0 [s.ptpTime s.now / 65536, s.ptpTime s.now % 65536])) ∧
        ∃ c, s.now + 10937500 ≤ c ∧ c < s.now + 10937500 + 8192 ∧ c % 8192 = 0 ∧ t.awaits c (.sync p true 0)) ∧
      ((s.port p).trained = false → t = s) := by
  have he := sync_send_eq ha
  have hs := s.syncSent_sent p
  have hk := (execSync_keeps s).keeps he
  refine ⟨_, he, ?_, hk, fun ht => ?_, fun ht => if_neg (by simp [ht])⟩
  · split
    · exact (State.push_files ..).trans hs.grows.files
    · rfl
  · rw [if_pos ht]
    refine ⟨fun hd hp => (State.push_pushed ..).sent.sends ?_, _, ?_, ?_, ?_, State.push_awaits ..⟩
    · unfold State.syncSent
      dsimp only
      rw [if_pos ⟨hd, hp⟩]
      exact State.sendOn_ptp ..
    all_goals rw [hs.now]; unfold roundUp; omega

/-- The lock once a Sync has come in step. -/
def State.locked (s : State) : State := { s with ptpLock := true, ready := { s.ready with ptp := true } }

theorem sync_heard_eq {s : State} {p origin : Nat} (ha : s.arg = .sync p false origin) : exec .sync s =
    if s.ptp.slavePort ≠ some p ∨ (!s.regatta.member) = true then .next s
    else if (s.port p).inStep s.regatta.epoch origin = true then .next s.locked
    else .next (if s.ptpLock = true then s.push s.now 48 .ptpLockLost else s) := by
  show execSync s = _
  unfold execSync
  split
  · rename_i hx
    cases ha.symm.trans hx
    rfl
  · rename_i hx
    exact (hx _ _ _ ha).elim

/-- Whether the marker that a Sync speaks of left its sender within 4 ns of this package's own time (R18). -/
theorem Port.inStep_iff {p : Port} {epoch origin seen due : Nat} (h : p.syncAt = some (seen, due)) :
    p.inStep epoch origin = true ↔
      ((7 * origin + 65536 * 5 * 1120 : Int) - (65536 * (7 * epoch + 5 * (seen + p.deskew)) : Int) ≤ 4 * 7 * 65536 ∧
        (65536 * (7 * epoch + 5 * (seen + p.deskew)) : Int) - (7 * origin + 65536 * 5 * 1120 : Int) ≤ 4 * 7 * 65536) := by
  unfold Port.inStep
  rw [h]
  simp only [decide_eq_true_eq]
  omega

theorem sync_heard_effect {s : State} {p origin : Nat} (ha : s.arg = .sync p false origin) :
    ∃ t : State, exec .sync s = .next t ∧ sameFiles s t ∧ s.keeps t [] ∧
      (s.ptp.slavePort ≠ some p ∨ s.regatta.member = false → t = s) ∧
      (s.ptp.slavePort = some p → s.regatta.member = true →
        ((s.port p).inStep s.regatta.epoch origin = true → t.ptpLock = true ∧ t.ready.ptp = true) ∧
        (¬(s.port p).inStep s.regatta.epoch origin = true → s.ptpLock = true → t.awaits s.now .ptpLockLost) ∧
        (¬(s.port p).inStep s.regatta.epoch origin = true → s.ptpLock = false → t = s)) := by
  have he := sync_heard_eq ha
  have hm : s.ptp.slavePort ≠ some p ∨ (!s.regatta.member) = true ↔ s.ptp.slavePort ≠ some p ∨ s.regatta.member = false := by simp
  by_cases h1 : s.ptp.slavePort ≠ some p ∨ (!s.regatta.member) = true
  · rw [if_pos h1] at he
    refine ⟨s, he, rfl, (execSync_keeps s).keeps he, fun _ => rfl, fun hp hb => ?_⟩
    rcases hm.1 h1 with h | h
    · exact absurd hp h
    · simp [hb] at h
  rw [if_neg h1] at he
  have hno : ¬(s.ptp.slavePort ≠ some p ∨ s.regatta.member = false) := fun h => h1 (hm.2 h)
  by_cases h2 : (s.port p).inStep s.regatta.epoch origin = true
  · rw [if_pos h2] at he
    exact ⟨_, he, rfl, (execSync_keeps s).keeps he, fun h => absurd h hno, fun _ _ =>
      ⟨fun _ => ⟨rfl, rfl⟩, fun h => absurd h2 h, fun h => absurd h2 h⟩⟩
  rw [if_neg h2] at he
  have hk := (execSync_keeps s).keeps he
  refine ⟨_, he, ?_, hk, fun h => absurd h hno, fun _ _ => ⟨fun h => absurd h h2, fun _ hl => ?_, fun _ hl => if_neg (by simp [hl])⟩⟩
  · split
    · exact State.push_files ..
    · rfl
  · rw [if_pos hl]
    exact State.push_awaits ..

theorem pdelayReq_effect {s : State} {p : Nat} (ha : s.arg = .pdelayReq p) :
    ∃ t : State, exec .pdelayReq s = .next t ∧ sameFiles s t ∧ s.keeps t [] ∧
    s.sends t p 4 (s.ptpPayload 3 [(s.port p).nextUnscheduled s.now - s.now]) := by
  have he : exec .pdelayReq s = .next (s.sendOn p (s.ptpMsg 3 [(s.port p).nextUnscheduled s.now - s.now])) := by
    show execPdelayReq s = _
    unfold execPdelayReq
    rw [ha]
  exact ⟨_, he, State.sendOn_files .., (execPdelayReq_keeps s).keeps he, State.sendOn_ptp ..⟩

theorem pdelayResp_effect {s : State} {p turn : Nat} (ha : s.arg = .pdelayResp p turn) :
    ∃ t : State, exec .pdelayResp s = .next t ∧ sameFiles s t ∧
    s.keeps t [] ∧ ∀ c d, (s.port p).pdelay = some (c, d) → (t.port p).pdelay = some (c, (s.now - c - turn) / 2) := by
  have he : exec .pdelayResp s =
      .next (s.modPort p fun x => { x with pdelay := x.pdelay.map fun d => (d.1, (s.now - d.1 - turn) / 2) }) := by
    show execPdelayResp s = _
    unfold execPdelayResp
    rw [ha]
  refine ⟨_, he, State.modPort_files .., (execPdelayResp_keeps s).keeps he, fun c d hp => ?_⟩
  rw [State.port_modPort]
  simp [hp]

/-- A step put on the agenda at a later cycle that the spec does not bound. -/
def State.pushSomeday (s : State) (e : Ev) : State := s.someday.2.push s.someday.1 72 e

theorem State.pushSomeday_scheduled (s : State) (e : Ev) : Scheduled s (s.pushSomeday e) :=
  ⟨⟨_, _, _, rfl⟩, (State.push_pushed s.someday.2 s.someday.1 72 e).2⟩

theorem State.pushSomeday_awaits (s : State) (e : Ev) : ∃ c, s.now < c ∧ (s.pushSomeday e).awaits c e :=
  ⟨s.someday.1, by simp only [State.someday]; omega, State.push_awaits ..⟩

theorem Scheduled.sends {r s t : State} (h : Scheduled s t) {p cls : Nat} {b : List Byte} (hs : r.sends s p cls b) : r.sends t p cls b := by
  obtain ⟨e, he, hc⟩ := hs
  refine ⟨e, ?_, hc⟩
  rw [port_congr h.ports]
  exact he

/-- The delay request that a port will have sent in its next slot. -/
def State.pdelayNoted (s : State) (p : Nat) : State :=
  s.modPort p fun x => { x with pdelay := some ((s.port p).nextUnscheduled s.now, (x.pdelay.map (·.2)).getD 0) }

theorem pdelayReqSend_effect {s : State} {p : Nat} (ha : s.arg = .pdelayReqSend p) :
    ∃ t : State, exec .pdelayReqSend s = .next t ∧ sameFiles s t ∧
    s.keeps t [] ∧ ((s.port p).trained = false → t = s) ∧
    ((s.port p).trained = true → s.sends t p 4 (s.ptpPayload 2 []) ∧
      (t.port p).pdelay.map (·.1) = some ((s.port p).nextUnscheduled s.now) ∧ ∃ c, s.now < c ∧ t.awaits c (.pdelayReqSend p)) := by
  have he : exec .pdelayReqSend s = if (!(s.port p).trained) = true then .next s else
      .next (((s.pdelayNoted p).sendOn p ((s.pdelayNoted p).ptpMsg 2 [])).pushSomeday (.pdelayReqSend p)) := by
    show execPdelayReqSend s = _
    unfold execPdelayReqSend
    rw [ha]
    rfl
  cases ht : (s.port p).trained
  · rw [ht, if_pos (by decide)] at he
    exact ⟨s, he, rfl, (execPdelayReqSend_keeps s).keeps he, fun _ => rfl, nofun⟩
  rw [ht, if_neg (by decide)] at he
  have hs := (s.pdelayNoted p).sendOn_sent p ((s.pdelayNoted p).ptpMsg 2 [])
  have hc := State.pushSomeday_scheduled ((s.pdelayNoted p).sendOn p ((s.pdelayNoted p).ptpMsg 2 [])) (.pdelayReqSend p)
  refine ⟨_, he, hc.grows.files.trans (hs.grows.files.trans (State.modPort_files ..)), (execPdelayReqSend_keeps s).keeps he,
    nofun, fun _ => ⟨hc.sends ((s.pdelayNoted p).sendOn_ptp p 2 []), ?_, ?_⟩⟩
  · obtain ⟨l, hl, -⟩ := hs.queues p
    rw [port_congr hc.ports, hl, State.pdelayNoted, State.port_modPort]
    rfl
  · obtain ⟨c, h1, h2⟩ := State.pushSomeday_awaits ((s.pdelayNoted p).sendOn p ((s.pdelayNoted p).ptpMsg 2 [])) (.pdelayReqSend p)
    exact ⟨c, hs.now ▸ h1, h2⟩

/-! ### The best master clock -/

theorem lexBefore_trans : ∀ {a b c : List Nat}, lexBefore a b = true → lexBefore b c = true → lexBefore a c = true
  | x :: r, y :: q, z :: p, h1, h2 => by
    simp only [lexBefore, Bool.or_eq_true, decide_eq_true_eq, Bool.and_eq_true, beq_iff_eq] at *
    rcases h1 with h1 | ⟨rfl, h1⟩ <;> rcases h2 with h2 | ⟨rfl, h2⟩
    · exact .inl (h1.trans h2)
    · exact .inl h1
    · exact .inl h2
    · exact .inr ⟨rfl, lexBefore_trans h1 h2⟩

theorem lexBefore_asymm : ∀ {a b : List Nat}, lexBefore a b = true → lexBefore b a = false
  | x :: r, y :: q, h => by
    simp only [lexBefore, Bool.or_eq_true, decide_eq_true_eq, Bool.and_eq_true, beq_iff_eq, Bool.or_eq_false_iff, decide_eq_false_iff_not,
      Bool.and_eq_false_iff, beq_eq_false_iff_ne] at *
    rcases h with h | ⟨rfl, h⟩
    · exact ⟨by omega, .inl (by omega)⟩
    · exact ⟨by omega, .inr (lexBefore_asymm h)⟩

/-- What is before a list is before every list of the same length that is not before it. -/
theorem lexBefore_of_not : ∀ {a b c : List Nat}, a.length = b.length → b.length = c.length → lexBefore b c = true →
    lexBefore b a = false → lexBefore a c = true
  | [], [], [], _, _, h, _ => h
  | x :: r, y :: q, z :: p, hl, hl', h, hn => by
    simp only [lexBefore, Bool.or_eq_true, decide_eq_true_eq, Bool.and_eq_true, beq_iff_eq, Bool.or_eq_false_iff, decide_eq_false_iff_not,
      Bool.and_eq_false_iff, beq_eq_false_iff_ne] at *
    obtain ⟨h1, h2⟩ := hn
    rcases h with h | ⟨rfl, h⟩
    · exact .inl (by omega)
    · by_cases hxy : y = x
      · subst hxy
        exact .inr ⟨rfl, lexBefore_of_not (by simpa using hl) (by simpa using hl') h (h2.resolve_left (fun hh => hh rfl))⟩
      · exact .inl (by omega)

theorem Announce.key_length (a b : Announce) : a.key.length = b.key.length := rfl

/-- The better of the clock so far and the one that a port hears. -/
def State.betterOf (s : State) (best : Option (Nat × Announce)) (p : Nat) : Option (Nat × Announce) :=
  match s.heard p, best with
  | some a, some b => if lexBefore a.key b.2.key then some (p, a) else best
  | some a, none => some (p, a)
  | none, _ => best

/-- The best of the clocks heard on some ports. -/
def State.BestOf (s : State) (ps : List Nat) (best : Option (Nat × Announce)) : Prop :=
  (best = none → ∀ p ∈ ps, s.heard p = none) ∧
    ∀ q b, best = some (q, b) → q ∈ ps ∧ s.heard q = some b ∧ ∀ p ∈ ps, ∀ a, s.heard p = some a → lexBefore a.key b.key = false

theorem lexBefore_self (a : List Nat) : lexBefore a a = false := by
  cases h : lexBefore a a
  · rfl
  · exact (lexBefore_asymm h).symm.trans h |>.symm

theorem State.BestOf.step {s : State} {ps : List Nat} {best : Option (Nat × Announce)} (h : s.BestOf ps best) (p : Nat) :
    s.BestOf (ps ++ [p]) (s.betterOf best p) := by
  obtain ⟨hnone, hsome⟩ := h
  unfold State.betterOf
  cases hp : s.heard p with
  | none =>
    refine ⟨fun hb q hq => ?_, fun q b hb => ?_⟩
    · rcases List.mem_append.1 hq with hq | hq
      · exact hnone hb q hq
      · rw [List.mem_singleton.1 hq]; exact hp
    · obtain ⟨h1, h2, h3⟩ := hsome q b hb
      refine ⟨List.mem_append_left _ h1, h2, fun q' hq a ha => ?_⟩
      rcases List.mem_append.1 hq with hq | hq
      · exact h3 q' hq a ha
      · rw [List.mem_singleton.1 hq, hp] at ha
        cases ha
  | some a =>
    have hnew : ∀ q' ∈ ps ++ [p], ∀ x, s.heard q' = some x → q' ∈ ps ∨ x = a := by
      intro q' hq x hx
      rcases List.mem_append.1 hq with hq | hq
      · exact .inl hq
      · rw [List.mem_singleton.1 hq, hp] at hx
        exact .inr (Option.some.inj hx).symm
    cases best with
    | none =>
      refine ⟨nofun, ?_⟩
      rintro q b ⟨⟩
      refine ⟨by simp, hp, fun q' hq x hx => ?_⟩
      rcases hnew q' hq x hx with hq | rfl
      · rw [hnone rfl q' hq] at hx
        cases hx
      · exact lexBefore_self _
    | some qb =>
      obtain ⟨q0, b0⟩ := qb
      obtain ⟨h1, h2, h3⟩ := hsome q0 b0 rfl
      dsimp only
      split
      case isTrue hlt =>
        refine ⟨nofun, ?_⟩
        rintro q b ⟨⟩
        refine ⟨by simp, hp, fun q' hq x hx => ?_⟩
        rcases hnew q' hq x hx with hq | rfl
        · cases hx' : lexBefore x.key a.key with
          | false => rfl
          | true => exact (h3 q' hq x hx).symm.trans (lexBefore_trans hx' hlt) |>.symm
        · exact lexBefore_self _
      case isFalse hlt =>
        refine ⟨nofun, ?_⟩
        rintro q b ⟨⟩
        refine ⟨by simp [h1], h2, fun q' hq x hx => ?_⟩
        rcases hnew q' hq x hx with hq | rfl
        · exact h3 q' hq x hx
        · simpa using hlt

theorem State.bestHeard_best (s : State) : s.BestOf (List.range 16) s.bestHeard := by
  have hfold : ∀ (l ps : List Nat) (best : Option (Nat × Announce)), s.BestOf ps best → s.BestOf (ps ++ l) (l.foldl s.betterOf best) := by
    intro l
    induction l with
    | nil => intro ps best h; rw [List.append_nil]; exact h
    | cons p r ih =>
      intro ps best h
      rw [List.append_cons]
      exact ih _ _ (h.step p)
  exact hfold (List.range 16) [] none ⟨fun _ p hp => absurd hp (List.not_mem_nil), nofun⟩

/-- An Announce that a port hears and that counts. -/
def State.hears (s : State) (q : Nat) (a : Announce) : Prop :=
  q < 16 ∧ (s.port q).trained = true ∧ (s.port q).announce = some a ∧ s.pkgNo.toNat ∉ a.path

theorem State.heard_iff {s : State} {q : Nat} {a : Announce} : s.heard q = some a ↔
    (s.port q).trained = true ∧ (s.port q).announce = some a ∧ s.pkgNo.toNat ∉ a.path := by
  unfold State.heard
  cases (s.port q).trained with
  | false => simp
  | true => simp [Option.filter_eq_some_iff]

/-- The master that the algorithm finds. -/
theorem State.bestMaster_spec (s : State) : s.bestMaster.ptp.decided = true ∧
    ((∀ q a, s.hears q a → ¬lexBefore a.key s.ownClock.key = true) →
      s.bestMaster.ptp.slavePort = none ∧ s.bestMaster.ptpLock = true ∧ s.bestMaster.ready.ptp = true) ∧
    ((∃ q a, s.hears q a ∧ lexBefore a.key s.ownClock.key = true) → ∃ q a, s.bestMaster.ptp.slavePort = some q ∧ s.hears q a ∧
      lexBefore a.key s.ownClock.key = true ∧ ∀ q' a', s.hears q' a' → lexBefore a'.key a.key = false) := by
  obtain ⟨hnone, hsome⟩ := s.bestHeard_best
  unfold State.bestMaster
  cases hb : s.bestHeard with
  | none =>
    refine ⟨rfl, fun _ => ⟨rfl, rfl, rfl⟩, fun ⟨q, a, ⟨hq, hh⟩, _⟩ => ?_⟩
    have := hnone hb q (List.mem_range.2 hq)
    rw [State.heard_iff.2 hh] at this
    cases this
  | some qb =>
    obtain ⟨q, b⟩ := qb
    obtain ⟨h1, h2, h3⟩ := hsome q b hb
    have hq : s.hears q b := ⟨List.mem_range.1 h1, State.heard_iff.1 h2⟩
    have hbest : ∀ q' a', s.hears q' a' → lexBefore a'.key b.key = false := fun q' a' ⟨hl, hh⟩ =>
      h3 q' (List.mem_range.2 hl) a' (State.heard_iff.2 hh)
    dsimp only
    split
    case isTrue hlt => exact ⟨rfl, fun hno => absurd hlt (hno q b hq), fun _ => ⟨q, b, rfl, hq, hlt, hbest⟩⟩
    case isFalse hlt =>
      refine ⟨rfl, fun _ => ⟨rfl, rfl, rfl⟩, fun ⟨q', a', hh, hl⟩ => absurd ?_ hlt⟩
      exact lexBefore_of_not (Announce.key_length ..) (Announce.key_length ..) hl (hbest q' a' hh)

end Sys2Proof.Machine
end
section
/-! PROOFS. Announces, the lock, and the load and trim of the pod counter: O59. -/
namespace Sys2Proof.Machine

/-- A port that has heard an Announce. -/
def State.announceHeard (s : State) (p : Nat) (a : Announce) : State := s.modPort p fun x => { x with announce := some a }

theorem announce_effect {s : State} {p : Nat} {body : List Byte} (ha : s.arg = .announce p body) :
    ∃ t : State, exec .announce s = .next t ∧ sameFiles s t ∧ s.keeps t [] ∧ t.ptp.decided = true ∧
      (t.port p).announce = some (announceOf body) ∧ (∀ q, q ≠ p → t.port q = s.port q) ∧
      t = (s.announceHeard p (announceOf body)).bestMaster := by
  have he : exec .announce s = .next (s.announceHeard p (announceOf body)).bestMaster := by
    show execAnnounce s = _
    unfold execAnnounce
    rw [ha]
    rfl
  obtain ⟨h1, -, h3⟩ := (s.announceHeard p (announceOf body)).bestMaster_same
  refine ⟨_, he, files_of_heats h3, (execAnnounce_keeps s).keeps he, (State.bestMaster_spec _).1, ?_, fun q hq => ?_, rfl⟩
  · rw [port_congr h1, State.announceHeard, State.port_modPort]
  · rw [port_congr h1]
    exact State.port_modPort_other s hq _

/-- The trained ports. -/
def State.up (s : State) : List Nat := (List.range 16).filter fun p => (s.port p).trained

/-- The ports on which an Announce goes out, and the Announce put on them. -/
def State.announces (s : State) (m : Msg) : State :=
  (s.up.filter fun p => s.ptp.slavePort ≠ some p).foldl (fun (s : State) p => s.sendOn p m) s

theorem State.announces_sent (s : State) (m : Msg) : Sent s (s.announces m) := foldl_sent _ (fun s p => s.sendOn_sent p m) _ s

theorem State.announces_sends {s : State} {m : Msg} {p : Nat} (hp : p ∈ s.up) (hs : s.ptp.slavePort ≠ some p) :
    s.sends (s.announces m) p m.cls.toNat m.payload := by
  have hm : p ∈ s.up.filter fun p => s.ptp.slavePort ≠ some p := List.mem_filter.2 ⟨hp, by simpa using hs⟩
  obtain ⟨u, hu, hv⟩ := foldl_sent_mem (fun (s : State) p => s.sendOn p m) (fun s p => s.sendOn_sent p m) hm s
  exact State.sends_now hu.now (hv.sends (u.sendOn_sends p m))

theorem announceSend_eq {s : State} (ha : s.arg = .announceSend) : exec .announceSend s =
    if s.bestMaster.up = [] then .next s.bestMaster
    else .next ((s.bestMaster.announces (s.bestMaster.ptpMsg 0x0B s.bestMaster.announced.body)).pushSomeday .announceSend) := by
  show execAnnounceSend s = _
  unfold execAnnounceSend
  rw [ha]
  rfl

theorem State.bestMaster_now (s : State) : s.bestMaster.now = s.now ∧ s.bestMaster.ptp.domain = s.ptp.domain := by
  unfold State.bestMaster
  split
  · split <;> exact ⟨rfl, rfl⟩
  · exact ⟨rfl, rfl⟩

theorem announceSend_effect {s : State} (ha : s.arg = .announceSend) :
    ∃ t : State, exec .announceSend s = .next t ∧ sameFiles s t ∧ s.keeps t [] ∧
    ∀ p, p < 16 → (s.port p).trained = true → (∃ c, s.now < c ∧ t.awaits c .announceSend) ∧
      (t.ptp.slavePort ≠ some p → s.sends t p 4 (s.ptpPayload 0x0B s.bestMaster.announced.body)) := by
  have he := announceSend_eq ha
  obtain ⟨b1, -, b3⟩ := s.bestMaster_same
  obtain ⟨bn, bd⟩ := s.bestMaster_now
  have hup : ∀ p, p < 16 → (s.port p).trained = true → p ∈ s.bestMaster.up := fun p hp ht =>
    List.mem_filter.2 ⟨List.mem_range.2 hp, by rw [port_congr b1]; exact ht⟩
  by_cases hn : s.bestMaster.up = []
  · rw [if_pos hn] at he
    refine ⟨_, he, files_of_heats b3, (execAnnounceSend_keeps s).keeps he, fun p hp ht => ?_⟩
    have hm := hup p hp ht
    rw [hn] at hm
    exact absurd hm (List.not_mem_nil)
  rw [if_neg hn] at he
  have hs := s.bestMaster.announces_sent (s.bestMaster.ptpMsg 0x0B s.bestMaster.announced.body)
  have hc := State.pushSomeday_scheduled (s.bestMaster.announces (s.bestMaster.ptpMsg 0x0B s.bestMaster.announced.body)) .announceSend
  refine ⟨_, he, hc.grows.files.trans (hs.grows.files.trans (files_of_heats b3)), (execAnnounceSend_keeps s).keeps he,
    fun p hp ht => ⟨?_, fun hsl => ?_⟩⟩
  · obtain ⟨c, h1, h2⟩ := State.pushSomeday_awaits
      (s.bestMaster.announces (s.bestMaster.ptpMsg 0x0B s.bestMaster.announced.body)) .announceSend
    exact ⟨c, by rw [hs.now, bn] at h1; exact h1, h2⟩
  · have hptp : ((s.bestMaster.announces (s.bestMaster.ptpMsg 0x0B s.bestMaster.announced.body)).pushSomeday .announceSend).ptp =
        s.bestMaster.ptp := hs.ptp
    rw [hptp] at hsl
    have hx := hc.sends (State.announces_sends (m := s.bestMaster.ptpMsg 0x0B s.bestMaster.announced.body) (hup p hp ht) hsl)
    rw [State.ptpMsg_payload, State.ptpPayload, bd] at hx
    exact State.sends_now bn hx

/-- The package that has lost its lock. -/
def State.unlocked (s : State) : State := { s with ptpLock := false, ready := { s.ready with ptp := false } }

/-- The detection of the lost lock in a heat of the regatta. -/
def State.blameLock (s : State) (h : Heat) : State :=
  if h.record.sched && h.resident then s.detect (Detect.blank h.hid (externalRank 0 0xE3) 0xE3 6) else s

theorem State.blameLock_eq (s : State) (h : Heat) : ∃ ds, s.blameLock h = { s with detects := s.detects ++ ds } := by
  unfold State.blameLock
  split
  · exact ⟨_, rfl⟩
  · exact ⟨[], by rw [List.append_nil]⟩

theorem foldl_blameLock (l : List Heat) : ∀ s : State, ∃ ds, l.foldl State.blameLock s = { s with detects := s.detects ++ ds } := by
  induction l with
  | nil => exact fun s => ⟨[], by rw [List.append_nil]; rfl⟩
  | cons h r ih =>
    intro s
    obtain ⟨d1, h1⟩ := s.blameLock_eq h
    obtain ⟨d2, h2⟩ := ih (s.blameLock h)
    refine ⟨d1 ++ d2, ?_⟩
    rw [List.foldl_cons, h2, h1, List.append_assoc]

theorem ptpLockLost_effect {s : State} (ha : s.arg = .ptpLockLost) :
    ∃ t : State, exec .ptpLockLost s = .next t ∧ sameFiles s t ∧ s.keeps t [] ∧
    t.ready.ptp = false ∧ t.ptpLock = false ∧ ∀ h ∈ s.heats, h.record.sched = true → h.resident = true →
      ∃ d ∈ t.detects, d.cause = 0xE3 ∧ d.hid = h.hid := by
  have he : exec .ptpLockLost s = .next (s.heats.foldl State.blameLock s.unlocked) := by
    show execPtpLockLost s = _
    unfold execPtpLockLost
    split
    · rfl
    · rename_i hx
      exact (hx ha).elim
  obtain ⟨ds, hds⟩ := foldl_blameLock s.heats s.unlocked
  refine ⟨_, he, ?_, (execPtpLockLost_keeps s).keeps he, ?_, ?_, fun h hm hs hr =>
    ⟨Detect.blank h.hid (externalRank 0 0xE3) 0xE3 6, ?_, rfl, rfl⟩⟩
  · rw [hds]; rfl
  · rw [hds]; rfl
  · rw [hds]; rfl
  · refine foldl_detects_mem State.blameLock (fun u x d hd => ?_) hm (fun u => ?_) _
    · obtain ⟨d', hd'⟩ := u.blameLock_eq x
      rw [hd']
      exact List.mem_append_left _ hd
    · unfold State.blameLock
      rw [if_pos (by simp [hs, hr])]
      exact List.mem_append_right _ (List.mem_cons_self ..)

/-! ### The pod counter -/

theorem insertDue_length (d : Due) (l : List Due) : (insertDue d l).length = l.length + 1 := by
  induction l with
  | nil => rfl
  | cons e r ih =>
    rw [insertDue]
    split
    · rfl
    · rw [List.length_cons, ih, List.length_cons]

theorem foldl_insertDue_length (l : List Due) : ∀ acc, (l.foldl (fun acc d => insertDue d acc) acc).length = acc.length + l.length := by
  induction l with
  | nil => exact fun _ => rfl
  | cons d r ih =>
    intro acc
    rw [List.foldl_cons, ih, insertDue_length, List.length_cons]
    omega

theorem mem_foldl_insertDue {x : Due} (l : List Due) : ∀ acc, x ∈ l.foldl (fun acc d => insertDue d acc) acc ↔ x ∈ acc ∨ x ∈ l := by
  induction l with
  | nil => intro acc; simp
  | cons d r ih =>
    intro acc
    rw [List.foldl_cons, ih, mem_insertDue]
    simp only [List.mem_cons]
    tauto

/-- The agenda in the new count. -/
def rebased (l : List Due) (old new : Nat) : List Due := (l.map fun d => d.rebase old new).foldl (fun acc d => insertDue d acc) []

theorem rebased_length (l : List Due) (old new : Nat) : (rebased l old new).length = l.length := by
  rw [rebased, foldl_insertDue_length, List.length_map, List.length_nil, Nat.zero_add]

theorem mem_rebased {l : List Due} {d : Due} (hd : d ∈ l) (old new : Nat) : d.rebase old new ∈ rebased l old new :=
  (mem_foldl_insertDue _ _).2 (.inr (List.mem_map_of_mem hd))

/-- The next bank switch of a port comes at the frame that it names, in the new count too. -/
theorem Due.rebase_switch {d : Due} {p c : Nat} (h : d.ev = .bankSwitchTx p c) (old new : Nat) :
    (d.rebase old new).at_ = max new (turnBase new + 8192 * c) ∧ (d.rebase old new).ev = d.ev := by
  unfold Due.rebase
  rw [h]
  exact ⟨rfl, rfl⟩

theorem podCounterLoad_refused {s : State} {v : BitVec 64} {epoch : Nat} (ha : s.arg = .podCounterLoad v epoch)
    (h : (∃ h ∈ s.heats, h.resident = true) ∨ (∃ p ∈ s.ports, p.2.bankActive = true)) : exec .podCounterLoad s = .next s := by
  show execPodCounterLoad s = _
  unfold execPodCounterLoad
  split
  · refine if_pos ?_
    rw [Bool.or_eq_true, List.any_eq_true, List.any_eq_true]
    exact h
  · rename_i hx
    exact (hx _ _ ha).elim

theorem podCounterLoad_effect {s : State} {v : BitVec 64} {epoch : Nat} (ha : s.arg = .podCounterLoad v epoch)
    (hr : ∀ h ∈ s.heats, h.resident = false) (hb : ∀ p ∈ s.ports, p.2.bankActive = false) : ∃ t : State,
      exec .podCounterLoad s = .next t ∧ sameFiles s t ∧ t.now = v.toNat ∧ t.regatta.member = true ∧ t.regatta.epoch = epoch ∧
      t.flows = [] ∧ (∀ p, s.sameIn t p) ∧ t.agenda = rebased s.agenda s.now v.toNat := by
  obtain ⟨o, he⟩ : ∃ o, exec .podCounterLoad s = o := ⟨_, rfl⟩
  have hx : execPodCounterLoad s = o := he
  unfold execPodCounterLoad at hx
  split at hx
  · rename_i hy
    cases ha.symm.trans hy
    rw [if_neg] at hx
    · subst hx
      exact ⟨_, he, rfl, rfl, rfl, rfl, rfl, fun p a => by cases p <;> rfl, rfl⟩
    · rw [Bool.or_eq_true, List.any_eq_true, List.any_eq_true]
      rintro (⟨h, hm, hh⟩ | ⟨p, hm, hp⟩)
      · simp [hr h hm] at hh
      · simp [hb p hm] at hp
  · rename_i hy
    exact (hy _ _ ha).elim

/-- Whether a trim comes too soon after the last, or is too large (R16). -/
def State.trimRefused (s : State) (n : Int) : Bool :=
  (match s.trimAt with
    | some c => decide (s.now < c + 131072)
    | none => false) || decide (n.natAbs > 21990 ∨ (s.trim + n).natAbs > 109951162)

theorem State.trimRefused_false {s : State} {n : Int} (hc : ∀ c, s.trimAt = some c → c + 131072 ≤ s.now) (h1 : n.natAbs ≤ 21990)
    (h2 : (s.trim + n).natAbs ≤ 109951162) : s.trimRefused n = false := by
  refine Bool.or_eq_false_iff.2 ⟨?_, decide_eq_false (by omega)⟩
  split
  · rename_i c hx
    exact decide_eq_false (Nat.not_lt.2 (hc c hx))
  · rfl

theorem frequencyTrim_eq {s : State} {n : Int} (ha : s.arg = .frequencyTrim n) : exec .frequencyTrim s =
    .next (if s.trimRefused n then s else { s with trim := s.trim + n, trimAt := some s.now }) := by
  show execFrequencyTrim s = _
  unfold execFrequencyTrim
  split
  · rename_i hx
    cases ha.symm.trans hx
    rfl
  · rename_i hx
    exact (hx _ ha).elim

theorem frequencyTrim_effect {s : State} {n : Int} (ha : s.arg = .frequencyTrim n) :
    ∃ t : State, exec .frequencyTrim s = .next t ∧ sameFiles s t ∧ s.keeps t [] ∧
    ((∀ c, s.trimAt = some c → c + 131072 ≤ s.now) → n.natAbs ≤ 21990 → (s.trim + n).natAbs ≤ 109951162 →
      t.trim = s.trim + n ∧ t.trimAt = some s.now) ∧
    (21990 < n.natAbs → t = s) := by
  have he := frequencyTrim_eq ha
  have hk := (execFrequencyTrim_keeps s).keeps he
  refine ⟨_, he, ?_, hk, fun hc h1 h2 => ?_, fun h => if_pos ?_⟩
  · split <;> rfl
  · rw [State.trimRefused_false hc h1 h2]
    exact ⟨rfl, rfl⟩
  · exact Bool.or_eq_true_iff.2 (.inr (decide_eq_true (.inl h)))

end Sys2Proof.Machine
end
section
/-! PROOFS. The regatta's resumption, and the steps of the regatta: O59. -/
namespace Sys2Proof.Machine

/-! ### What the resumption of a heat leaves alone -/

/-- The halt of the regatta, the mailbox, the routes, the package and the cycle. -/
def State.outer (s : State) : Option Nat × Bool × Mailbox × Store Nat × BitVec 17 × Nat :=
  (s.regatta.ph, s.regatta.halted, s.mailbox, s.routes, s.pkgNo, s.now)

theorem foldl_outer {α : Type} (f : State → α → State) (h : ∀ s x, (f s x).outer = s.outer) (l : List α) :
    ∀ s, (l.foldl f s).outer = s.outer := by
  induction l with
  | nil => exact fun _ => rfl
  | cons x r ih => exact fun s => (ih _).trans (h s x)

/-- A state that differs from another in its ports and its agenda alone. -/
def PortsOnly (s t : State) : Prop := ∃ ps a q, t = { s with ports := ps, agenda := a, seq := q }

theorem PortsOnly.refl (s : State) : PortsOnly s s := ⟨_, _, _, rfl⟩

theorem PortsOnly.trans {s t u : State} (h : PortsOnly s t) (h' : PortsOnly t u) : PortsOnly s u := by
  obtain ⟨ps, a, q, rfl⟩ := h
  obtain ⟨ps', a', q', rfl⟩ := h'
  exact ⟨ps', a', q', rfl⟩

theorem Pushed.portsOnly {s t : State} (h : Pushed s t) : PortsOnly s t := ⟨_, _, _, h.1⟩

theorem State.modPort_portsOnly (s : State) (p : Nat) (f : Port → Port) : PortsOnly s (s.modPort p f) := ⟨_, _, _, rfl⟩

theorem foldl_portsOnly {α : Type} (f : State → α → State) (h : ∀ s x, PortsOnly s (f s x)) (l : List α) :
    ∀ s, PortsOnly s (l.foldl f s) := by
  induction l with
  | nil => exact fun s => .refl s
  | cons x r ih => exact fun s => (h s x).trans (ih _)

/-- What the resumption of the heat with a number leaves: the outer state, and, while no dump is taken, every other heat. -/
structure Touches (hid : Nat) (s t : State) : Prop where
  outer : t.outer = s.outer
  fatal : t.fatal = none → s.fatal = none
  others : t.fatal = none → ∀ y, y ≠ hid → t.heat? y = s.heat? y

section
variable {hid : Nat} {s t u : State}

theorem Touches.refl (hid : Nat) (s : State) : Touches hid s s := ⟨rfl, id, fun _ _ _ => rfl⟩

theorem Touches.trans (h : Touches hid s t) (h' : Touches hid t u) : Touches hid s u :=
  ⟨h'.outer.trans h.outer, fun hf => h.fatal (h'.fatal hf), fun hf y hy => (h'.others hf y hy).trans (h.others (h'.fatal hf) y hy)⟩

theorem Touches.of_same (ho : t.outer = s.outer) (hf : t.fatal = s.fatal) (hh : t.heats = s.heats) : Touches hid s t :=
  ⟨ho, fun h => hf ▸ h, fun _ y _ => heat?_congr hh y⟩

theorem PortsOnly.touches (h : PortsOnly s t) (hid : Nat) : Touches hid s t := by
  obtain ⟨ps, a, q, rfl⟩ := h
  exact .of_same rfl rfl rfl

theorem Scheduled.touches (h : Scheduled s t) (hid : Nat) : Touches hid s t := by
  obtain ⟨⟨a, q, n, rfl⟩, -⟩ := h
  exact .of_same rfl rfl rfl

theorem State.modHeat_touches (s : State) (hid : Nat) (f : Heat → Heat) (hf : ∀ h, (f h).hid = h.hid) : Touches hid s (s.modHeat hid f) :=
  ⟨rfl, id, fun _ _ hy => State.heat?_modHeat_other hy f hf⟩

end

theorem State.modQueue_touches (s : State) (hid q : Nat) (f : Queue → Queue) : Touches hid s (s.modQueue q f) := .of_same rfl rfl rfl

theorem State.push_touches (s : State) (hid c r : Nat) (e : Ev) : Touches hid s (s.push c r e) := .of_same rfl rfl rfl

theorem State.abortHeat_touches (s : State) (hid cause : Nat) : Touches hid s (s.abortHeat hid cause) :=
  (s.modHeat_touches hid (Heat.aborted cause) (Heat.aborted_hid cause)).trans (State.push_touches ..)

theorem State.fatalDump_touches (s : State) (hid cause : Nat) : Touches hid s (s.fatalDump cause) := by
  refine ⟨?_, nofun, nofun⟩
  have h1 : ∀ u : State, (u.heats.foldl (fun (s : State) h => s.abortHeat h.hid cause) s).outer = s.outer := fun u =>
    foldl_outer _ (fun v (h : Heat) => (v.abortHeat_touches h.hid cause).outer) _ s
  have h2 : ∀ u : State, (u.tellHalted 1 0).outer = u.outer := fun u => by
    have hs := u.tellHalted_sent 1 0
    unfold State.outer
    rw [hs.regatta, hs.mailbox, hs.routes, hs.pkgNo, hs.now]
  exact (h2 _).trans (h1 s)

theorem State.countEntry_touches (s : State) (hid u : Nat) : Touches hid s (s.countEntry u) := by
  unfold State.countEntry State.raise
  dsimp only
  repeat' split
  all_goals exact .of_same rfl rfl rfl

theorem State.writeNotice_touches (s : State) (hid q : Nat) (irq : Bool) (c : Completion) : Touches hid s (s.writeNotice q irq c) := by
  have hw : ∀ dev a bs, Touches hid s (s.writeLoc dev a bs) := fun dev a bs => by
    cases dev <;> exact .of_same rfl rfl rfl
  unfold State.writeNotice
  dsimp only
  split
  · exact (hw ..).trans ((State.modQueue_touches ..).trans (State.countEntry_touches ..))
  · exact (hw ..).trans (State.modQueue_touches ..)

theorem foldl_touches {α : Type} {hid : Nat} (f : State → α → State) (h : ∀ s x, Touches hid s (f s x)) (l : List α) :
    ∀ s, Touches hid s (l.foldl f s) := by
  induction l with
  | nil => exact fun s => .refl hid s
  | cons x r ih => exact fun s => (h s x).trans (ih _)

theorem State.corrected_touches (s : State) (hid k : Nat) (p : Nat → Bool) : Touches hid s (s.corrected k p) := by
  unfold State.corrected
  dsimp only
  split
  · exact .refl hid s
  · exact .of_same rfl rfl rfl

theorem State.saveCorrected_touches (s : State) (hid : Nat) (h : Heat) : Touches hid s (s.saveCorrected h) :=
  foldl_touches _ (fun u k => u.corrected_touches hid k (h.saves k)) _ s

/-- A heat whose save begins. -/
def Heat.savingFor (cost : Nat) (h : Heat) : Heat := { h with status := .saving, saveCost := cost }

theorem Heat.savingFor_hid (cost : Nat) (h : Heat) : (h.savingFor cost).hid = h.hid := rfl

/-- What a save is to cost: told at its pre-emption, or now. -/
def Heat.costToSave (h : Heat) : Nat :=
  match h.halt with
  | some (.preempt, _) => h.saveCost
  | _ => h.saveSum

/-- A save put on the agenda at a cycle that the device chooses. -/
def State.saveChosen (s : State) (h : Heat) (lo hi : Nat) : State :=
  ((s.choose lo hi).2.modHeat h.hid (Heat.savingFor h.costToSave)).push (s.choose lo hi).1 46 (.saveComplete h.hid)

theorem State.startSave_eq (s : State) (h : Heat) : s.startSave h = match s.saveError h with
    | some cause => s.abortHeat h.hid cause
    | none => (s.saveCorrected h).saveChosen h (s.lastLanding h.hid + 1) (s.now + h.costToSave + 4096) := rfl

theorem State.saveChosen_touches (s : State) (h : Heat) (lo hi : Nat) : Touches h.hid s (s.saveChosen h lo hi) :=
  ((State.choose_scheduled ..).touches h.hid).trans
    ((State.modHeat_touches _ h.hid (Heat.savingFor h.costToSave) (Heat.savingFor_hid _)).trans (State.push_touches ..))

theorem State.startSave_touches (s : State) (h : Heat) : Touches h.hid s (s.startSave h) := by
  rw [State.startSave_eq]
  split
  · exact State.abortHeat_touches ..
  · exact (State.saveCorrected_touches ..).trans (State.saveChosen_touches ..)

theorem State.settleCharge_touches (s : State) (hid : Nat) : Touches hid s (s.settleCharge hid) := by
  unfold State.settleCharge
  split
  · exact .refl hid s
  · exact (State.modHeat_touches _ _ _ (by exact fun _ => rfl)).trans (State.modQueue_touches ..)

theorem State.leaves_touches (s : State) (hid : Nat) (h : Heat) : Touches hid s (s.leaves h) := by
  unfold State.leaves
  split
  · exact .refl hid s
  · exact .of_same rfl rfl rfl

theorem State.missAnchor_touches (s : State) (h : Heat) : Touches h.hid s (s.missAnchor h) := by
  unfold State.missAnchor
  split
  · have hp : Touches h.hid s (if h.record.sched = true ∧ s.regatta.member = true then
        s.push s.now 44 (.halt s.pkgNo.toNat 0x88 (roundUp 8192 (s.now + s.regatta.haltLead)) none) else s) := by
      split
      · exact State.push_touches ..
      · exact .refl _ s
    dsimp only
    split
    · exact hp
    · split
      · exact hp.trans ((State.settleCharge_touches ..).trans ((State.leaves_touches ..).trans
          ((State.modHeat_touches _ _ _ (by exact fun _ => rfl)).trans ((State.modQueue_touches ..).trans (State.writeNotice_touches ..)))))
      · exact hp.trans (State.startSave_touches ..)
  · exact State.fatalDump_touches ..
  · exact State.abortHeat_touches ..

theorem State.armBanks_portsOnly (s : State) (r : Record) (c : Nat) : PortsOnly s (s.armBanks r c) := by
  refine foldl_portsOnly _ (fun u p => ?_) _ s
  have hb : PortsOnly u (u.buildBank p) := by
    unfold State.buildBank
    exact State.modPort_portsOnly ..
  dsimp only
  split
  · exact hb
  · exact (hb.trans (State.modPort_portsOnly ..)).trans
      ((State.pushSub_pushed ..).portsOnly.trans (State.pushSub_pushed ..).portsOnly)

/-- A heat as it begins to resume at an anchor. -/
def Heat.restoringAt (h : Heat) (a : Nat) (x : Heat) : Heat :=
  { x with
    status := .restoring, anchor := a, rxBase := x.rxBase + a - h.anchor, halt := none, dieHalt := []
    chargeFrom := if h.away then a + h.resumeStop else x.chargeFrom
    prov := if h.away then (h.record.nclus : Int) * ((h.record.stop : Int) - h.resumeStop) else x.prov }

theorem Heat.restoringAt_hid (h : Heat) (a : Nat) (x : Heat) : (h.restoringAt a x).hid = x.hid := rfl

/-- The queue of a saved heat is charged for what it has still to run. -/
def State.restoreCharged (s : State) (h : Heat) : State :=
  if h.away then s.modQueue h.queue fun q =>
    { q with deficit := q.deficit - (h.record.nclus : Int) * ((h.record.stop : Int) - h.resumeStop), saves := q.saves.filter (· ≠ h.hid) }
  else s

/-- The banks of a saved heat with flows are built again. -/
def State.restoreBanks (s : State) (h : Heat) (a : Nat) : State :=
  if h.away ∧ h.record.flows ≠ [] then s.armBanks h.record (a / 8192) else s

/-- The restore is put on the agenda at a cycle that the device chooses. -/
def State.restoreChosen (s : State) (h : Heat) (a : Nat) : State :=
  (s.choose s.now (a + h.resumeStop - 1)).2.push (s.choose s.now (a + h.resumeStop - 1)).1 46 (.restore h.hid)

theorem State.beginRestore_eq (s : State) (h : Heat) (a : Nat) : s.beginRestore h h.clusters a =
    (((s.modHeat h.hid (h.restoringAt a)).restoreCharged h).restoreBanks h a).restoreChosen h a := by
  unfold State.beginRestore
  rw [if_pos rfl]
  rfl

theorem State.restoreCharged_same (s : State) (h : Heat) :
    Touches h.hid s (s.restoreCharged h) ∧ (s.restoreCharged h).heats = s.heats := by
  unfold State.restoreCharged
  split
  · exact ⟨State.modQueue_touches .., rfl⟩
  · exact ⟨.refl _ s, rfl⟩

theorem PortsOnly.heats {s t : State} (h : PortsOnly s t) : t.heats = s.heats := by
  obtain ⟨ps, a, q, rfl⟩ := h
  rfl

theorem State.restoreBanks_portsOnly (s : State) (h : Heat) (a : Nat) : PortsOnly s (s.restoreBanks h a) := by
  unfold State.restoreBanks
  split
  · exact State.armBanks_portsOnly ..
  · exact .refl s

theorem State.restoreChosen_scheduled (s : State) (h : Heat) (a : Nat) : Scheduled s (s.restoreChosen h a) :=
  (State.choose_scheduled ..).trans (State.push_pushed ..).scheduled

theorem Scheduled.heats {s t : State} (h : Scheduled s t) : t.heats = s.heats := by
  obtain ⟨⟨a, q, n, rfl⟩, -⟩ := h
  rfl

/-- A heat that begins to resume on its own clusters. -/
theorem State.beginRestore_spec (s : State) (h : Heat) (a : Nat) : Touches h.hid s (s.beginRestore h h.clusters a) ∧
    (s.beginRestore h h.clusters a).heats = (s.modHeat h.hid (h.restoringAt a)).heats ∧
    ∃ c, (s.beginRestore h h.clusters a).awaits c (.restore h.hid) := by
  rw [State.beginRestore_eq]
  obtain ⟨h1, h2⟩ := (s.modHeat h.hid (h.restoringAt a)).restoreCharged_same h
  have h3 := ((s.modHeat h.hid (h.restoringAt a)).restoreCharged h).restoreBanks_portsOnly h a
  have h4 := (((s.modHeat h.hid (h.restoringAt a)).restoreCharged h).restoreBanks h a).restoreChosen_scheduled h a
  exact ⟨(s.modHeat_touches h.hid (h.restoringAt a) (h.restoringAt_hid a)).trans (h1.trans ((h3.touches _).trans (h4.touches _))),
    h4.heats.trans (h3.heats.trans h2), _, State.push_awaits ..⟩

/-! ### The resumption -/

/-- Whether a halted heat of the regatta finds its place again. -/
def State.refits (s : State) (h : Heat) : Bool :=
  (s.place? { h.record with place := false, clusters := h.clusters }).isSome && !s.grainsMeet h.record && !s.flowsMeet h.record

/-- The package without a heat. -/
def State.without (s : State) (hid : Nat) : State := { s with heats := s.heats.filter fun x => x.hid ≠ hid }

theorem State.resumeShifted_eq (s : State) (h : Heat) (d : Nat) : s.resumeShifted h d =
    if ((s.without h.hid).powerOk (h.record.load (h.anchor + d) h.resumeStop) && (h.status == .quiesced || s.refits h)) = true
    then s.beginRestore h h.clusters (h.anchor + d) else s.missAnchor h := rfl

theorem State.resumeShifted_touches (s : State) (h : Heat) (d : Nat) : Touches h.hid s (s.resumeShifted h d) := by
  rw [State.resumeShifted_eq]
  split
  · exact (State.beginRestore_spec ..).1
  · exact State.missAnchor_touches ..

theorem State.shiftSwitch_portsOnly (s : State) (p d : Nat) : PortsOnly s (s.shiftSwitch p d) := by
  have hc : ∀ f, PortsOnly s (s.cancel f) := fun f => ⟨_, _, _, rfl⟩
  unfold State.shiftSwitch
  dsimp only
  repeat' split
  · exact ((hc _).trans ((State.modPort_portsOnly ..).trans (State.pushSub_pushed ..).portsOnly)).trans
      ((State.modPort_portsOnly ..).trans (State.pushSub_pushed ..).portsOnly)
  · exact (hc _).trans ((State.modPort_portsOnly ..).trans (State.pushSub_pushed ..).portsOnly)
  · exact (hc _).trans ((State.modPort_portsOnly ..).trans (State.pushSub_pushed ..).portsOnly)
  · exact hc _

/-- The package once RESUME has come, before its switches and heats have moved. -/
def State.resumeBegun (s : State) (d : Nat) : State :=
  { s with
    regatta := { s.regatta with ph := none, initiators := [], reported := [], forwarded := [], halted := false }
    mailbox := { s.mailbox with regattaHalted := false, regattaDelta := d }
    heats := s.heats.map (·.shiftArmed d) }

/-- The package once its switches have moved. -/
def State.switchesMoved (s : State) (d : Nat) : State := (List.range 16).foldl (fun (s : State) p => s.shiftSwitch p d) (s.resumeBegun d)

/-- The heats that RESUME resumes. -/
def State.toResume (s : State) : List Heat :=
  s.heats.filter fun h => h.record.sched && h.abortCause == 0 && (h.status == .saved || h.status == .quiesced)

/-- The package once its heats have resumed. -/
def State.heatsResumed (s : State) (d : Nat) : State :=
  s.toResume.foldl (fun (s : State) h => s.resumeShifted h d) (s.switchesMoved d)

/-- The answer to RESUME. -/
def State.answerResume (s : State) (ph ini : Nat) : State :=
  if ini = s.pkgNo.toNat then s else s.sendControl ini (regattaPayload 0x23 0 ph 0 ini)

theorem resume_other {s : State} {d ph ini : Nat} (ha : s.arg = .resume d ph ini)
    (h : s.regatta.ph ≠ some ph ∨ s.regatta.halted = false) : exec .resume s = .next s := by
  show execResume s = _
  unfold execResume
  split
  · rename_i hx
    cases ha.symm.trans hx
    exact if_pos (h.imp id (by simp))
  · rename_i hx
    exact (hx _ _ _ ha).elim

theorem resume_eq {s : State} {d ph ini : Nat} (ha : s.arg = .resume d ph ini) (hp : s.regatta.ph = some ph)
    (hh : s.regatta.halted = true) : exec .resume s = .next ((s.heatsResumed d).answerResume ph ini) := by
  show execResume s = _
  unfold execResume
  split
  · rename_i hx
    cases ha.symm.trans hx
    exact (if_neg (not_or.2 ⟨not_not_intro hp, by simp [hh]⟩)).trans rfl
  · rename_i hx
    exact (hx _ _ _ ha).elim

theorem State.answerResume_sent (s : State) (ph ini : Nat) : Sent s (s.answerResume ph ini) := by
  unfold State.answerResume
  split
  · exact .refl s
  · exact State.sendControl_sent ..

theorem State.switchesMoved_portsOnly (s : State) (d : Nat) : PortsOnly (s.resumeBegun d) (s.switchesMoved d) :=
  foldl_portsOnly _ (fun u p => u.shiftSwitch_portsOnly p d) _ _

theorem State.heatsResumed_outer (s : State) (d : Nat) : (s.heatsResumed d).outer = (s.resumeBegun d).outer :=
  (foldl_outer _ (fun u (h : Heat) => (u.resumeShifted_touches h d).outer) _ _).trans
    ((s.switchesMoved_portsOnly d).touches 0).outer

theorem Heat.shiftArmed_hid (h : Heat) (d : Nat) : (h.shiftArmed d).hid = h.hid := by
  unfold Heat.shiftArmed
  split <;> rfl

theorem Heat.shiftArmed_file (h : Heat) (d : Nat) :
    ((h.shiftArmed d).hid, (h.shiftArmed d).trap, (h.shiftArmed d).teams.map Team.file) = (h.hid, h.trap, h.teams.map Team.file) := by
  unfold Heat.shiftArmed
  split <;> rfl

theorem State.heat?_switchesMoved (s : State) (d y : Nat) : (s.switchesMoved d).heat? y = (s.heat? y).map (·.shiftArmed d) := by
  rw [heat?_congr (s.switchesMoved_portsOnly d).heats]
  unfold State.heat?
  rw [show (s.resumeBegun d).heats = s.heats.map (·.shiftArmed d) from rfl, List.find?_map]
  refine congrArg (Option.map _) (congrArg (List.find? · _) (funext fun h => ?_))
  simp only [Function.comp, Heat.shiftArmed_hid]

theorem State.switchesMoved_files (s : State) (d : Nat) : (s.switchesMoved d).files = s.files := by
  rw [files_of_heats (s.switchesMoved_portsOnly d).heats]
  show (s.heats.map _).map _ = _
  rw [List.map_map]
  exact List.map_congr_left fun h _ => h.shiftArmed_file d

end Sys2Proof.Machine
end
section
/-! PROOFS. What the resumption does to the heats, and the steps of the regatta: O59. -/
namespace Sys2Proof.Machine

theorem State.keeps_trans {s t u : State} {ps : List Space} (h : s.keeps t ps) (h' : t.keeps u ps) : s.keeps u ps := by
  obtain ⟨c, p, m⟩ := h
  obtain ⟨c', p', m'⟩ := h'
  exact ⟨c'.trans c, p'.trans p, fun q hq a => (m' q hq a).trans (m q hq a)⟩

theorem PortsOnly.keeps {s t : State} (h : PortsOnly s t) : s.keeps t [] := by
  obtain ⟨ps, a, q, rfl⟩ := h
  exact ⟨rfl, rfl, fun p _ a => by cases p <;> rfl⟩

theorem Sent.keeps {s t : State} (h : Sent s t) : s.keeps t [] := by
  obtain ⟨f, ps, a, q, rfl⟩ := h.eq
  exact ⟨rfl, rfl, fun p _ a => by cases p <;> rfl⟩

theorem powerOk_congr {s t : State} (hl : t.loads = s.loads) (hb : t.budget = s.budget) (l : Load) : t.powerOk l = s.powerOk l := by
  unfold State.powerOk
  rw [hl, hb]

theorem State.without_budget (s : State) (hid : Nat) : (s.without hid).budget = s.budget := rfl

theorem State.toResume_nodup {s : State} (hd : s.hidsApart) : (s.toResume.map Heat.hid).Nodup :=
  List.Sublist.nodup (List.filter_sublist.map Heat.hid) hd

section
variable {s : State} {h : Heat} (hd : s.hidsApart) (hm : h ∈ s.heats)
include hd hm

theorem State.eq_of_hid {x : Heat} (hx : x ∈ s.heats) (e : x.hid = h.hid) : x = h :=
  Option.some.inj ((State.heat?_of_mem hd hx).symm.trans (e ▸ State.heat?_of_mem hd hm))

theorem State.toResume_apart : h ∈ s.toResume ∨ h.hid ∉ s.toResume.map (·.hid) := by
  by_cases hin : h.hid ∈ s.toResume.map (·.hid)
  · obtain ⟨x, hx, e⟩ := List.mem_map.1 hin
    exact .inl (State.eq_of_hid hd hm (List.mem_filter.1 hx).1 e ▸ hx)
  · exact .inr hin

variable (hone : ∀ x ∈ s.heats, x.hid ≠ h.hid → x.record.sched = false)
include hone

theorem State.toResume_single (hs : h.record.sched = true) (ha : h.abortCause = 0) (hq : h.status = .quiesced) : s.toResume = [h] := by
  have hall : ∀ x ∈ s.toResume, x = h := by
    intro x hx
    obtain ⟨hxs, hc⟩ := List.mem_filter.1 hx
    simp only [Bool.and_eq_true] at hc
    obtain ⟨⟨hsch, -⟩, -⟩ := hc
    by_contra hne
    rw [hone x hxs fun e => hne (State.eq_of_hid hd hm hxs e)] at hsch
    cases hsch
  have hin : h ∈ s.toResume := List.mem_filter.2 ⟨hm, by simp [hs, ha, hq]⟩
  have hnd : s.toResume.Nodup := (State.toResume_nodup hd).of_map _
  have hrep := List.eq_replicate_of_mem hall
  rw [hrep] at hnd hin
  have hlen := List.nodup_replicate.1 hnd
  rw [List.mem_replicate] at hin
  rw [hrep, show s.toResume.length = 1 by omega]
  rfl

omit hd hm in
/-- The other heats weigh as before when those of the regatta are none of them. -/
theorem State.powerOk_moved (d : Nat) (l : Load) : ((s.switchesMoved d).without h.hid).powerOk l = (s.without h.hid).powerOk l := by
  have hb : (s.switchesMoved d).budget = s.budget := by
    obtain ⟨ps, a, q, e⟩ := s.switchesMoved_portsOnly d
    rw [e]
    rfl
  have hl : (s.switchesMoved d).heats.filter (fun x => x.hid ≠ h.hid) = s.heats.filter fun x => x.hid ≠ h.hid := by
    rw [(s.switchesMoved_portsOnly d).heats]
    show (s.heats.map (·.shiftArmed d)).filter _ = _
    rw [List.filter_map]
    have hp : ((fun x : Heat => decide (x.hid ≠ h.hid)) ∘ fun x : Heat => x.shiftArmed d) = fun x => decide (x.hid ≠ h.hid) := by
      funext x
      simp only [Function.comp, Heat.shiftArmed_hid]
    rw [hp]
    refine (List.map_congr_left fun x hx => ?_).trans (List.map_id _)
    obtain ⟨hxs, hne⟩ := List.mem_filter.1 hx
    unfold Heat.shiftArmed
    rw [hone x hxs (by simpa using hne)]
    rfl
  have hlo : ((s.switchesMoved d).without h.hid).loads = (s.without h.hid).loads := by
    unfold State.loads State.without
    rw [hl]
  exact powerOk_congr hlo (by rw [State.without_budget, State.without_budget, hb]) l

end

theorem State.missAnchor_aborts {s : State} {h : Heat}
    (h2 : s.policyOf h { Detect.blank h.hid (externalRank 0 0x88) 0x88 8 with core := 0 } ≠ 2)
    (h3 : s.policyOf h { Detect.blank h.hid (externalRank 0 0x88) 0x88 8 with core := 0 } ≠ 3) :
    s.missAnchor h = s.abortHeat h.hid 0x88 := by
  unfold State.missAnchor
  split
  · contradiction
  · contradiction
  · rfl

section
variable {s : State} {h : Heat} {d : Nat} (hd : s.hidsApart) (hm : h ∈ s.heats)
  (hone : ∀ x ∈ s.heats, x.hid ≠ h.hid → x.record.sched = false) (hs : h.record.sched = true) (ha : h.abortCause = 0)
  (hq : h.status = .quiesced)
include hd hm hone hs ha hq

theorem State.heatsResumed_single : s.heatsResumed d = (s.switchesMoved d).resumeShifted h d := by
  unfold State.heatsResumed
  rw [State.toResume_single hd hm hone hs ha hq, List.foldl_cons, List.foldl_nil]

omit hone hs ha in
theorem State.heat?_moved_self : (s.switchesMoved d).heat? h.hid = some h := by
  rw [State.heat?_switchesMoved, State.heat?_of_mem hd hm]
  refine congrArg some (if_neg ?_)
  rw [hq]
  exact fun e => nomatch e.2

theorem State.heatsResumed_restores (hp : (s.without h.hid).powerOk (h.record.load (h.anchor + d) h.resumeStop) = true) :
    ((s.heatsResumed d).heat? h.hid).map (fun x => (x.status, x.anchor)) = some (.restoring, h.anchor + d) ∧
      ∃ c, (s.heatsResumed d).awaits c (.restore h.hid) := by
  rw [State.heatsResumed_single hd hm hone hs ha hq, State.resumeShifted_eq, State.powerOk_moved hone d, hp, hq]
  obtain ⟨-, h1, h2⟩ := (s.switchesMoved d).beginRestore_spec h (h.anchor + d)
  refine ⟨?_, h2⟩
  rw [if_pos (by rfl), heat?_congr h1, State.heat?_modHeat_self (State.heat?_moved_self hd hm hq) (h.restoringAt_hid _)]
  rfl

theorem State.heatsResumed_misses (hp : (s.without h.hid).powerOk (h.record.load (h.anchor + d) h.resumeStop) = false)
    (h2 : s.policyOf h { Detect.blank h.hid (externalRank 0 0x88) 0x88 8 with core := 0 } ≠ 2)
    (h3 : s.policyOf h { Detect.blank h.hid (externalRank 0 0x88) 0x88 8 with core := 0 } ≠ 3) :
    s.released (s.heatsResumed d) h.hid 0x88 := by
  have hpol : ∀ x, (s.switchesMoved d).policyOf h x = s.policyOf h x := fun x => by
    obtain ⟨ps, a, q, e⟩ := s.switchesMoved_portsOnly d
    rw [e]
    rfl
  have hnow : (s.switchesMoved d).now = s.now := (s.switchesMoved_portsOnly d).keeps.clock
  rw [State.heatsResumed_single hd hm hone hs ha hq, State.resumeShifted_eq, State.powerOk_moved hone d, hp, if_neg (by simp),
    State.missAnchor_aborts (by rw [hpol]; exact h2) (by rw [hpol]; exact h3), State.abortHeat_eq]
  refine ⟨?_, ?_⟩
  · rw [heat?_congr (State.push_pushed ..).heats, State.heat?_modHeat_self (State.heat?_moved_self hd hm hq) (Heat.aborted_hid _)]
    rfl
  · rw [hnow]
    exact State.push_awaits ..

end

theorem State.heatsResumed_none {s : State} {d : Nat}
    (h : ∀ h ∈ s.heats, h.record.sched = false ∨ h.abortCause ≠ 0 ∨ (h.status ≠ .saved ∧ h.status ≠ .quiesced)) :
    s.heatsResumed d = s.switchesMoved d := by
  have hnil : s.toResume = [] := List.filter_eq_nil_iff.2 fun x hx => by
    rcases h x hx with h | h | h <;> simp [h]
  unfold State.heatsResumed
  rw [hnil, List.foldl_nil]

theorem State.heatsResumed_other {s : State} {h : Heat} {d : Nat} (hd : s.hidsApart) (hm : h ∈ s.heats) (hs : h.record.sched = false)
    (hf : (s.heatsResumed d).fatal = none) : (s.heatsResumed d).heat? h.hid = some h := by
  have hout : h.hid ∉ s.toResume.map (·.hid) := (State.toResume_apart hd hm).resolve_left fun hin => by
    simpa [hs] using (List.mem_filter.1 hin).2
  have hfold := (foldl_heat? (fun (s : State) h => s.resumeShifted h d) (fun u => u.fatal = none)
    (fun u x => (u.resumeShifted_touches x d).fatal) (fun u x y hy hu => (u.resumeShifted_touches x d).others hu y hy)
    s.toResume (s.switchesMoved d) (State.toResume_nodup hd) hf).1 _ hout
  refine hfold.trans ?_
  rw [State.heat?_switchesMoved, State.heat?_of_mem hd hm]
  refine congrArg some (if_neg ?_)
  rw [hs]
  exact fun e => nomatch e.1

theorem State.answerResume_sends {s : State} {ph ini p : Nat} (hi : ini ≠ s.pkgNo.toNat)
    (hr : s.route (BitVec.ofNat 17 ini) = some p) : s.sends (s.answerResume ph ini) p 4 (regattaPayload 0x23 0 ph 0 ini) := by
  unfold State.answerResume
  rw [if_neg hi]
  exact State.sendControl_sends hr

theorem Sent.released {r s t : State} (h : Sent s t) {hid cause : Nat} (hr : r.released s hid cause) : r.released t hid cause := by
  obtain ⟨h1, h2⟩ := hr
  exact ⟨by rw [heat?_congr h.heats]; exact h1, h.grows.awaits h2⟩

theorem resume_effect {s : State} {d ph ini : Nat} (ha : s.arg = .resume d ph ini) (hp : s.regatta.ph = some ph)
    (hh : s.regatta.halted = true) (hd : s.hidsApart) : ∃ t : State, exec .resume s = .next t ∧
      s.keeps t [.hbm, .host] ∧
      t.regatta.halted = false ∧ t.regatta.ph = none ∧ t.mailbox.regattaHalted = false ∧ t.mailbox.regattaDelta = d ∧
      (∀ h ∈ s.heats, (∀ x ∈ s.heats, x.hid ≠ h.hid → x.record.sched = false) → h.record.sched = true → h.abortCause = 0 →
        h.status = .quiesced → (s.without h.hid).powerOk (h.record.load (h.anchor + d) h.resumeStop) = true →
        (t.heat? h.hid).map (fun x => (x.status, x.anchor)) = some (.restoring, h.anchor + d) ∧
        ∃ c, t.awaits c (.restore h.hid)) ∧
      (∀ h ∈ s.heats, (∀ x ∈ s.heats, x.hid ≠ h.hid → x.record.sched = false) → h.record.sched = true → h.abortCause = 0 →
        h.status = .quiesced → (s.without h.hid).powerOk (h.record.load (h.anchor + d) h.resumeStop) = false →
        s.policyOf h { Detect.blank h.hid (externalRank 0 0x88) 0x88 8 with core := 0 } ≠ 2 →
        s.policyOf h { Detect.blank h.hid (externalRank 0 0x88) 0x88 8 with core := 0 } ≠ 3 → s.released t h.hid 0x88) ∧
      ((∀ h ∈ s.heats, h.record.sched = false ∨ h.abortCause ≠ 0 ∨ (h.status ≠ .saved ∧ h.status ≠ .quiesced)) →
        s.keeps t [] ∧ sameFiles s t) ∧
      (∀ h ∈ s.heats, h.record.sched = false → t.fatal = none → (t.heat? h.hid) = some h) ∧
      (ini ≠ s.pkgNo.toNat → ∀ p, s.route (BitVec.ofNat 17 ini) = some p → s.sends t p 4 (regattaPayload 0x23 0 ph 0 ini)) := by
  have he := resume_eq ha hp hh
  have hk := (execResume_keeps s).keeps he
  have hs := (s.heatsResumed d).answerResume_sent ph ini
  have ho := s.heatsResumed_outer d
  have hph : (s.heatsResumed d).regatta.ph = none := congrArg (·.1) ho
  have hha : (s.heatsResumed d).regatta.halted = false := congrArg (·.2.1) ho
  have hmb : (s.heatsResumed d).mailbox = (s.resumeBegun d).mailbox := congrArg (·.2.2.1) ho
  have hro : (s.heatsResumed d).routes = s.routes := congrArg (·.2.2.2.1) ho
  have hpk : (s.heatsResumed d).pkgNo = s.pkgNo := congrArg (·.2.2.2.2.1) ho
  have hnow : (s.heatsResumed d).now = s.now := congrArg (·.2.2.2.2.2) ho
  refine ⟨_, he, hk, by rw [hs.regatta, hha], by rw [hs.regatta, hph], by rw [hs.mailbox, hmb]; rfl, by rw [hs.mailbox, hmb]; rfl,
    fun h hm hone hsch hac hq hpow => ?_, fun h hm hone hsch hac hq hpow h2 h3 => ?_, fun hnone => ?_, fun h hm hsch hf => ?_,
    fun hi p hr => ?_⟩
  · obtain ⟨h1, c, h2⟩ := State.heatsResumed_restores hd hm hone hsch hac hq hpow
    exact ⟨by rw [heat?_congr hs.heats]; exact h1, c, hs.grows.awaits h2⟩
  · exact hs.released (State.heatsResumed_misses hd hm hone hsch hac hq hpow h2 h3)
  · rw [State.heatsResumed_none hnone] at hs ⊢
    refine ⟨State.keeps_trans (State.keeps_trans ?_ (s.switchesMoved_portsOnly d).keeps) hs.keeps,
      hs.grows.files.trans (s.switchesMoved_files d)⟩
    exact ⟨rfl, rfl, fun p _ a => by cases p <;> rfl⟩
  · rw [hs.fatal] at hf
    rw [heat?_congr hs.heats]
    exact State.heatsResumed_other hd hm hsch hf
  · refine State.sends_now hnow (State.answerResume_sends (by rw [hpk]; exact hi) ?_)
    rw [← hr]
    unfold State.route
    rw [hro]

/-- Settles O59: each step of the regatta and of its clock by its own lemma. -/
theorem regattaSteps : Obligations.RegattaSteps := by
  unfold Obligations.RegattaSteps
  refine ⟨fun s ini cause ph from' ha => ⟨fun h => halt_seen ha h, fun h => halt_effect ha h⟩,
    fun s ph ha => ⟨fun h => regattaHalt_done ha h, fun hp hh => regattaHalt_effect ha hp hh⟩,
    fun s pkg leaving arg ph ini ha => ⟨fun h => halted_other ha h, fun h => halted_effect ha h⟩,
    fun s ph ha => ⟨fun h => haltedTimeout_mine ha h, fun h => haltedTimeout_other ha h⟩,
    fun s d ph ini ha => ⟨fun h => resume_other ha h, fun hp hh hd => resume_effect ha hp hh hd⟩,
    fun s pkg ha => resumed_effect ha, fun s pkg ph ini ha => exclude_effect ha, fun s p sent origin ha => ?_,
    fun s p ha => pdelayReq_effect ha, fun s p turn ha => pdelayResp_effect ha, fun s p ha => pdelayReqSend_effect ha,
    fun s p body ha => ?_, fun s ha => announceSend_effect ha, fun s ha => ptpLockLost_effect ha,
    fun s v epoch ha => ⟨fun h => podCounterLoad_refused ha h, fun hr hb => ?_⟩, fun s n ha => frequencyTrim_effect ha⟩
  · cases sent with
    | true =>
      obtain ⟨t, he, hf, hk, h1, h2⟩ := sync_send_effect ha
      exact ⟨t, he, hf, hk, fun _ => h1, fun _ => h2, nofun, nofun⟩
    | false =>
      obtain ⟨t, he, hf, hk, h1, h2⟩ := sync_heard_effect ha
      refine ⟨t, he, hf, hk, nofun, nofun, fun _ => h1, fun _ hp hm seen due hsy => ?_⟩
      obtain ⟨h3, h4, h5⟩ := h2 hp hm
      exact ⟨fun hn => h3 ((Port.inStep_iff hsy).2 hn), fun hn => h4 fun hin => hn ((Port.inStep_iff hsy).1 hin),
        fun hn => h5 fun hin => hn ((Port.inStep_iff hsy).1 hin)⟩
  · obtain ⟨t, he, hf, hk, hdec, hann, hoth, rfl⟩ := announce_effect ha
    obtain ⟨-, h1, h2⟩ := (s.announceHeard p (announceOf body)).bestMaster_spec
    obtain ⟨hports, -, -⟩ := (s.announceHeard p (announceOf body)).bestMaster_same
    refine ⟨_, he, hf, hk, hann, hdec, hoth, ?_⟩
    simp only [port_congr hports]
    exact ⟨h1, h2⟩
  · obtain ⟨t, he, hf, h1, h2, h3, h4, h5, hag⟩ := podCounterLoad_effect ha hr hb
    refine ⟨t, he, hf, h1, h2, h3, h4, h5, by rw [hag, rebased_length], fun e hm p c hev => ?_⟩
    obtain ⟨hat, hev'⟩ := Due.rebase_switch hev s.now v.toNat
    exact ⟨_, hag ▸ mem_rebased hm s.now v.toNat, hat, hev'⟩

end Sys2Proof.Machine
end

section
/-! PROOFS. The dump of a package with more trapped heats than its length field can tell refutes the last clause of `SystemSteps`. -/
namespace Sys2Proof.Machine

/-! ### CRC-32C tells two lists apart that differ in one byte (R49) -/

/-- One bit of the CRC-32C shift register. -/
def crcBit (c : Nat) : Nat := if c % 2 = 1 then (c / 2) ^^^ 0x82F63B78 else c / 2

theorem crcByte_eq (c b : Nat) : crcByte c b = crcBit^[8] (c ^^^ b) :=
  List.foldl_const crcBit (c ^^^ b) (List.range 8)

theorem crcBit_lt {c : Nat} (h : c < 2 ^ 32) : crcBit c < 2 ^ 32 := by
  unfold crcBit
  split
  · exact Nat.xor_lt_two_pow (by omega) (by decide)
  · omega

/-- Bit 31 tells whether the bit shifted out was 1. -/
theorem testBit_crcBit {c : Nat} (h : c < 2 ^ 32) : (crcBit c).testBit 31 = decide (c % 2 = 1) := by
  have hb : (c / 2).testBit 31 = false := Nat.testBit_lt_two_pow (by omega)
  have hp : Nat.testBit 0x82F63B78 31 = true := by decide
  unfold crcBit
  split
  case isTrue ho => rw [Nat.testBit_xor, hb, hp, ho]; rfl
  case isFalse ho => rw [hb, decide_eq_false ho]

theorem crcBit_injOn : Set.InjOn crcBit (Set.Iio (2 ^ 32)) := by
  intro c hc d hd h
  have hbit : decide (c % 2 = 1) = decide (d % 2 = 1) := by rw [← testBit_crcBit hc, ← testBit_crcBit hd, h]
  have hpar : c % 2 = 1 ↔ d % 2 = 1 := decide_eq_decide.1 hbit
  unfold crcBit at h
  split at h
  case isTrue ho =>
    rw [if_pos (hpar.1 ho)] at h
    have := Nat.xor_left_inj.1 h
    omega
  case isFalse ho =>
    rw [if_neg (mt hpar.2 ho)] at h
    omega

theorem crcBit_mapsTo : Set.MapsTo crcBit (Set.Iio (2 ^ 32)) (Set.Iio (2 ^ 32)) := fun _ h => crcBit_lt h

theorem xor_byte_lt {c : Nat} (h : c < 2 ^ 32) (b : Byte) : c ^^^ b.toNat < 2 ^ 32 :=
  Nat.xor_lt_two_pow h (b.isLt.trans (by decide))

theorem crcByte_lt {c : Nat} (h : c < 2 ^ 32) (b : Byte) : crcByte c b.toNat < 2 ^ 32 := by
  rw [crcByte_eq]
  exact crcBit_mapsTo.iterate 8 (xor_byte_lt h b)

theorem crcByte_inj {c d : Nat} (hc : c < 2 ^ 32) (hd : d < 2 ^ 32) {a b : Byte} (h : crcByte c a.toNat = crcByte d b.toNat) :
    c ^^^ a.toNat = d ^^^ b.toNat := by
  rw [crcByte_eq, crcByte_eq] at h
  exact crcBit_injOn.iterate crcBit_mapsTo 8 (xor_byte_lt hc a) (xor_byte_lt hd b) h

theorem crcFrom_lt (bs : List Byte) : ∀ {c : Nat}, c < 2 ^ 32 → crcFrom c bs < 2 ^ 32 := by
  induction bs with
  | nil => exact id
  | cons b r ih => exact fun h => ih (crcByte_lt h b)

theorem crcFrom_inj (bs : List Byte) : ∀ {c d : Nat}, c < 2 ^ 32 → d < 2 ^ 32 → crcFrom c bs = crcFrom d bs → c = d := by
  induction bs with
  | nil => exact fun _ _ h => h
  | cons b r ih => exact fun hc hd h => Nat.xor_left_inj.1 (crcByte_inj hc hd (ih (crcByte_lt hc b) (crcByte_lt hd b) h))

theorem crc32c_lt (bs : List Byte) : crc32c bs < 2 ^ 32 := Nat.xor_lt_two_pow (crcFrom_lt bs (by decide)) (by decide)

theorem crc32c_byte_inj {xs ys : List Byte} {a b : Byte} (h : crc32c (xs ++ a :: ys) = crc32c (xs ++ b :: ys)) : a = b := by
  rw [crc32c_eq, crc32c_eq, crcFrom_append, crcFrom_append] at h
  have hx : crcFrom 0xFFFFFFFF xs < 2 ^ 32 := crcFrom_lt xs (by decide)
  have hs := crcFrom_inj ys (crcByte_lt hx a) (crcByte_lt hx b) (Nat.xor_left_inj.1 h)
  exact BitVec.eq_of_toNat_eq (Nat.xor_right_inj.1 (crcByte_inj hx hx hs))

theorem leBytes_inj {n x y : Nat} (hx : x < 2 ^ (8 * n)) (hy : y < 2 ^ (8 * n)) (h : leBytes n x = leBytes n y) : x = y := by
  rw [← Nat.mod_eq_of_lt hx, ← Nat.mod_eq_of_lt hy, ← ofLeBytes_leBytes, ← ofLeBytes_leBytes, h]

/-! ### The parts of the fatal dump (R350, Table 6) -/

/-- The trap records in the dump. -/
def State.dumpTraps (s : State) : List (List Byte) :=
  (s.heats.filter fun h => h.trap ≠ []).map fun h => ((List.range 64).map fun i => leBytes 4 (Store.get 0 h.trap i).toNat).flatten

/-- The length that the dump's header gives. -/
def State.dumpLength (s : State) : Nat := 64 + 256 * s.dumpTraps.length + 4096 * 96 + 128

/-- The dump's header before its length. -/
def State.dumpHead (s : State) (cause : Nat) : List Byte :=
  let clus := 64 + 256 * s.dumpTraps.length
  leBytes 8 (0xF4D1 * 2 ^ 48 + 2 ^ 40 + cause * 2 ^ 32 + s.dumpTraps.length * 2 ^ 10) ++ leBytes 8 s.now ++ leBytes 8 s.ready.word ++
    leBytes 8 clus ++ leBytes 8 (clus + 4096 * 96) ++ leBytes 8 0 ++ leBytes 8 0

/-- The dump after its header. -/
def State.dumpRest (s : State) : List Byte :=
  s.dumpTraps.flatten ++ (freeBytes 4096 (4096 * 96) ++ ((List.range 16).map fun i => leBytes 8 (s.readCounter i).toNat).flatten)

theorem State.dumpBytes_eq (s : State) (cause : Nat) :
    s.dumpBytes cause = s.dumpHead cause ++ (leBytes 8 s.dumpLength ++ s.dumpRest) := by
  simp only [State.dumpRest, ← List.append_assoc]
  rfl

theorem State.dumpHead_length (s : State) (cause : Nat) : (s.dumpHead cause).length = 56 := by
  simp [State.dumpHead, leBytes_length]

theorem leBytes_add (m n x : Nat) : leBytes (m + n) x = leBytes m x ++ leBytes n (x / 256 ^ m) := by
  induction m generalizing x with
  | zero => simp [leBytes]
  | succ m ih => rw [Nat.succ_add, leBytes, leBytes, ih, Nat.div_div_eq_div_mul, Nat.pow_succ, Nat.mul_comm 256, List.cons_append]

/-- From 2^32 bytes on, the length's fifth byte stands where the seal goes. -/
theorem State.dumpBytes_overflow {s : State} {r : Nat} (hr : r < 2 ^ 32) (hlen : s.dumpLength = 2 ^ 32 + r) (cause : Nat) :
    ∃ pre post : List Byte, pre.length = 60 ∧ s.dumpBytes cause = pre ++ 1 :: 0 :: 0 :: 0 :: post := by
  refine ⟨s.dumpHead cause ++ leBytes 4 s.dumpLength, s.dumpRest, ?_, ?_⟩
  · rw [List.length_append, State.dumpHead_length, leBytes_length]
  · have hq : s.dumpLength / 256 ^ 4 = 1 := by rw [hlen]; omega
    have hl : leBytes 8 s.dumpLength = leBytes 4 s.dumpLength ++ [1, 0, 0, 0] := by
      rw [leBytes_add 4 4, hq]
      rfl
    rw [State.dumpBytes_eq, hl, List.append_assoc, List.append_assoc]
    rfl

/-! ### The dump in memory -/

theorem foldl_abort_hbm (cause : Nat) (l : List Heat) : ∀ s : State, (l.foldl (fun u h => u.abortHeat h.hid cause) s).hbm = s.hbm := by
  induction l with
  | nil => exact fun _ => rfl
  | cons h r ih => exact fun s => ih _

theorem Sent.hbm {s t : State} (h : Sent s t) : t.hbm = s.hbm := by obtain ⟨f, ps, a, q, e⟩ := h.eq; rw [e]

theorem State.fatalDump_hbm (s : State) (cause : Nat) :
    (s.fatalDump cause).hbm = Store.putRun 0 s.hbm ((s.mailbox.dumpBase.map (·.toNat)).getD 0x005FFF000000)
      ((s.dumpBytes cause).take 60 ++ leBytes 4 (crc32c (s.dumpBytes cause)) ++ (s.dumpBytes cause).drop 64) := by
  refine (Sent.hbm (State.tellHalted_sent _ 1 0)).trans ?_
  exact congrArg (Store.putRun 0 · _ _) (foldl_abort_hbm cause s.heats s)

/-- A dump whose length does not fit in 32 bits carries the seal of other bytes than its own with SEAL zero. -/
theorem State.not_fatalDump_of_overflow {s : State} {r : Nat} (hw : Store.wf 0 s.hbm = true) (hr : r < 2 ^ 32)
    (hlen : s.dumpLength = 2 ^ 32 + r) (cause : Nat) : ¬ FatalDump s (s.fatalDump cause) cause := by
  intro hd
  obtain ⟨pre, post, hpre, hbs⟩ := State.dumpBytes_overflow hr hlen cause
  have hm := s.fatalDump_hbm cause
  have hdump := hd.dump hw
  dsimp only at hdump
  generalize (s.mailbox.dumpBase.map (·.toNat)).getD 0x005FFF000000 = a at hm hdump
  have hdrop : (pre ++ 1 :: 0 :: 0 :: 0 :: post).drop 64 = post := by
    rw [show 64 = pre.length + 4 by omega, List.drop_length_add_append]
    rfl
  have hlength : (pre ++ 1 :: 0 :: 0 :: 0 :: post).length = pre.length + 4 + post.length := by
    simp only [List.length_append, List.length_cons]
    omega
  rw [hbs, List.take_left' hpre, hdrop] at hm hdump
  have hwritten : (s.fatalDump cause).readHbm a (pre ++ 1 :: 0 :: 0 :: 0 :: post).length =
      pre ++ leBytes 4 (crc32c (pre ++ 1 :: 0 :: 0 :: 0 :: post)) ++ post := by
    have hg := getRun_putRun hw a (pre ++ leBytes 4 (crc32c (pre ++ 1 :: 0 :: 0 :: 0 :: post)) ++ post)
    rw [List.length_append, List.length_append, leBytes_length] at hg
    unfold State.readHbm
    rw [hm, hlength]
    exact hg
  rw [hwritten] at hdump
  have hseal := List.append_cancel_left (List.append_cancel_right hdump)
  have hcrc := leBytes_inj (crc32c_lt _) (crc32c_lt _) hseal
  rw [List.append_assoc] at hcrc
  exact absurd (crc32c_byte_inj hcrc) (by decide)

/-! ### The counterexample -/

/-- A quiesced heat that holds a trap record. -/
def trappedHeat : Heat := { Heat.make 0 1 0 .launch placedRecord [0] [] [] 0 0 .quiesced with trap := [(0, 1)] }

/-- A machine check in a package that holds n such heats. -/
def crowded (n : Nat) : State := { State.reset with arg := .machineCheck, heats := List.replicate n trappedHeat }

theorem crowded_dumpLength (n : Nat) : (crowded n).dumpLength = 64 + 256 * n + 4096 * 96 + 128 := by
  have ht : decide (trappedHeat.trap ≠ []) = true := by decide
  unfold State.dumpLength State.dumpTraps crowded
  rw [List.length_map, List.filter_replicate, if_pos ht, List.length_replicate]

theorem crowded_idle (n : Nat) : ∀ h ∈ (crowded n).heats, h.live = false := by
  intro h hh
  rw [List.eq_of_mem_replicate hh]
  decide

theorem exec_crowded (n : Nat) : exec .machineCheck (crowded n) = .next ((crowded n).fatalDump 0xFF) := by
  have hf : (crowded n).heats.filter (·.live) = [] := List.filter_eq_nil_iff.2 fun h hh => by simp [crowded_idle n h hh]
  have hr : (crowded n).raiseFatal 0xFF = (crowded n).fatalDump 0xFF := by
    unfold State.raiseFatal
    rw [hf]
  exact congrArg Host.Outcome.next hr

/-- Refutes O60, in the clause of the fatal causes. That clause speaks of a dump sealed over its bytes with the four bytes of SEAL
zero, whatever the number of heats. The dump's header holds its length in eight bytes, of which SEAL replaces the upper four (R350,
Table 6), and the model seals the bytes with the upper half still there. With 2^24 trap records, 256 bytes each, the length passes
2^32 and the two seals differ. No package holds so many heats: the clause lacks a bound on them. -/
theorem not_systemSteps : ¬ Obligations.SystemSteps := by
  unfold Obligations.SystemSteps
  rintro ⟨-, -, -, -, -, -, -, -, -, -, -, -, -, -, -, -, -, -, hfatal⟩
  obtain ⟨hdump, -⟩ := hfatal (crowded (2 ^ 24)) .machineCheck 0xFF (.inr (.inr (.inr ⟨rfl, rfl, rfl⟩)))
  obtain ⟨t, ht, hd⟩ := hdump (crowded_idle _)
  obtain rfl : (crowded (2 ^ 24)).fatalDump 0xFF = t := by injection (exec_crowded _).symm.trans ht
  exact State.not_fatalDump_of_overflow rfl (r := 393408) (by decide) (crowded_dumpLength _) 0xFF hd

end Sys2Proof.Machine
end

section
/-! PROOFS. Messages between packages: what a release from a heat does to a graph that has stopped and in which nothing runs. -/
namespace Sys2Proof.Machine

/-- A node with a count of 1 that has not run. -/
def idleNode : NodeRun :=
  { node := { kind := 2, init := 1, pred := 0, addr := 0, succ := [], x := [], heat := none }, count := 1, ran := false
    running := false, readyAt := 0, moved := 0, held := [] }

/-- A graph that has stopped, with one node, which does not run. -/
def stoppedGraph : Graph := { entry := 0, sub := none, nodes := [idleNode], charge := 0, cause := 0, stopped := true }

/-- A release of that node. The completion ring of queue 0 lies at address 0 of host memory. -/
def releaseAtStopped : State :=
  { State.reset with
    arg := .graphRelease 0 0 0 0 0
    queues := [(0, { Queue.init with graph := some stoppedGraph })] }

/-- The byte at address 30 of host memory in the state that an instruction leaves. -/
def hostByte30After (o : Host.Outcome State Fault Refusal) : Option Nat :=
  match o with
  | .next t => some (t.look .host 30)
  | _ => none

/-- The release ends the graph, whose completion record is written: its byte 30 holds KIND. -/
theorem releaseAtStopped_writes : hostByte30After (exec .graphRelease releaseAtStopped) = some 128 := by decide +kernel

/-- Refutes O53, in the clause of a release from a heat. That clause says that a release writes no memory, whatever the graph's
state. In a graph that has stopped and in which nothing runs, the model's release follows the counts, which ends the graph: its
completion record goes to host memory. The model ends such a graph as it stops, so that a release does not meet one: the clause
lacks the premise that the graph has not stopped. -/
theorem not_messageSteps : ¬ Obligations.MessageSteps := by
  unfold Obligations.MessageSteps
  rintro ⟨-, -, -, -, -, -, -, -, -, -, hrelease⟩
  obtain ⟨t, ht, -, hkeeps, -⟩ := hrelease releaseAtStopped 0 0 0 0 0 rfl
  have hwritten : some (t.look .host 30) = some 128 := by
    have h := releaseAtStopped_writes
    rwa [ht] at h
  have hkept : t.look .host 30 = 0 := hkeeps.memory .host (by decide) 30
  rw [hkept] at hwritten
  exact absurd hwritten (by decide)

end Sys2Proof.Machine
end

section
/-! PROOFS. Messages that a cox posts: the commit of a cox instruction, the breaches that a clear one does not have, and the
post itself. -/
namespace Sys2Proof.Machine

/-! ### What a cox instruction that breaks nothing brings -/

@[simp] theorem UCtx.commit_cores (c : UCtx) (s : State) (i : Instr) (L : Nat) : (c.commit s i L).cores = s.cores := by
  simp [UCtx.commit]

@[simp] theorem UCtx.commit_gops (c : UCtx) (s : State) (i : Instr) (L : Nat) : (c.commit s i L).gops = s.gops := by
  simp [UCtx.commit]

@[simp] theorem UCtx.commit_pkgNo (c : UCtx) (s : State) (i : Instr) (L : Nat) : (c.commit s i L).pkgNo = s.pkgNo := by
  simp [UCtx.commit]

theorem State.modCox_placed (s : State) (r : TeamRef) (f : Cox → Cox) : (s.modCox r f).placed = s.placed :=
  State.modTeam_placed _ _ _ fun _ => rfl

theorem State.corrected_placed (s : State) (k : Nat) (p : Nat → Bool) : (s.corrected k p).placed = s.placed := by
  unfold State.corrected
  dsimp only
  split <;> rfl

@[simp] theorem UCtx.commit_placed (c : UCtx) (s : State) (i : Instr) (L : Nat) : (c.commit s i L).placed = s.placed :=
  (State.modCox_placed ..).trans (State.corrected_placed ..)

@[simp] theorem UCtx.commit_nextOp (c : UCtx) (s : State) (i : Instr) (L : Nat) : (c.commit s i L).nextOp = s.nextOp :=
  congrArg (·.2.1) (c.commit_placed s i L)

theorem UCtx.commit_core (c : UCtx) (s : State) (i : Instr) (L n : Nat) : (c.commit s i L).core n = s.core n :=
  congrArg (Store.get Core.init · n) (c.commit_cores s i L)

/-- No cause at the issue means no breach of the instruction's own rule. -/
theorem UCtx.own_nil {c : UCtx} {s : State} {i : Instr} {own : List (Nat × Nat × Nat)} (h : c.causes s i own = []) :
    own = [] := by
  unfold UCtx.causes at h
  split at h
  · exact List.map_eq_nil_iff.1 (List.append_eq_nil_iff.1 h).2
  · rename_i hne
    exact absurd h hne

theorem CoxClear.own {i : Instr} {s : State} {c : UCtx} (h : CoxClear i s c) : coxOwn i s c = [] :=
  UCtx.own_nil h.2.2.2.1

theorem CoxClear.ctx {i : Instr} {s : State} {c : UCtx} (h : CoxClear i s c) : uniCtx s = some c := h.2.2.1

/-- A cox instruction whose effect keeps counts, memories and registers issues. -/
theorem coxIssues_of_commit {i : Instr} {s u : State} {c : UCtx} {L : Nat} {act : UCtx → State → State}
    (he : exec i s = issueUni i s L (coxOwn i s) act) (hc : CoxClear i s c) (hu : act c (c.commit s i L) = u)
    (ht : u.tallies = (c.commit s i L).tallies) (hk : u.kept [] = (c.commit s i L).kept [])
    (hf : u.files = s.files) : CoxIssues i s c u :=
  ⟨(issue_uni he hc).trans (congrArg Host.Outcome.next hu), coxIssued_of_commit i L hc.ctx ht hk, hf⟩

/-! ### Posting -/

/-- MSG counts a post at once, and it is taken 16 cycles later. -/
theorem UCtx.postMessage_posts (c : UCtx) (s : State) (i : Instr) (p : AckTo → Post) (w : UE) :
    (c.postMessage s i p w).awaits (s.now + 16) (.messageAccepted (p (c.waits w))) ∧
      ((c.postMessage s i p w).core c.team.core).msg = (s.core c.team.core).msg + 1 := by
  refine ⟨⟨_, (State.mem_pushSub ..).2 (.inl rfl), rfl, rfl⟩, ?_⟩
  exact congrArg Core.msg (State.core_modCore s c.team.core fun k => { k with msg := k.msg + 1 })

/-- A cox instruction that posts a message and does nothing else. -/
theorem messagePosted {i : Instr} {w : UE} {s : State} {c : UCtx} {act : UCtx → State → State} {p : AckTo → Post}
    (he : exec i s = issueUni i s 16 (coxOwn i s) act) (hc : CoxClear i s c)
    (hp : act c (c.commit s i 16) = c.postMessage (c.commit s i 16) i p w) : MessagePosted i s c (p (c.waits w)) := by
  obtain ⟨hawaits, hmsg⟩ := c.postMessage_posts (c.commit s i 16) i p w
  rw [UCtx.commit_now] at hawaits
  rw [UCtx.commit_core] at hmsg
  exact ⟨_, coxIssues_of_commit he hc hp (by simp) (by simp) (by simp), hawaits, hmsg⟩

/-! ### Launch writes and signals -/

theorem UCtx.launchPayload_length (c : UCtx) (d : Nat) : (c.launchPayload d).length = 48 := by
  have hk : (c.kBytes (d + 3) 2).length = 8 := by simp [UCtx.kBytes, List.range_succ, leBytes_length]
  simp only [UCtx.launchPayload, List.length_append, hk, leBytes_length]
  simp [List.range_succ, leBytes_length]

theorem signalPayload_length (core : Nat) (arrive : Bool) (handle credit : Word) :
    (signalPayload core arrive handle credit).length = 16 := by simp [signalPayload, leBytes_length]

/-- A clear `sig` has no reserved bit set in its words. -/
theorem sig_words {w : UE} {s : State} {c : UCtx} (h : CoxClear (.sig w) s c) :
    c.kn w.d.toNat < 2 ^ 26 ∧ c.kn (w.d.toNat + 3) < 2 := by
  have hown : c.sigExtra w = [] := h.own
  unfold UCtx.sigExtra at hown
  split at hown
  · cases hown
  · omega

/-- Bits 25:17 of a signal's first word name its core. -/
theorem signal_core {x : Nat} (h : x < 2 ^ 26) : bits x 25 17 = x / 2 ^ 17 := by
  unfold bits
  rw [Nat.shiftRight_eq_div_pow]
  omega

/-- A word below 2 is odd exactly when it is 1. -/
theorem odd_word {x : Word} (h : x.toNat < 2) : (x.toNat % 2 == 1) = decide (x = 1) := by
  have hx : x = 1 ↔ x.toNat = 1 := ⟨fun e => by rw [e]; rfl, fun e => BitVec.eq_of_toNat_eq e⟩
  rw [Bool.eq_iff_iff, beq_iff_eq, decide_eq_true_iff, hx]
  omega

/-! ### Host-ring entries -/

theorem mem_insertEntry (e : RingEntry) (l : List RingEntry) : e ∈ insertEntry e l := by
  induction l with
  | nil => exact List.mem_singleton_self e
  | cons x r ih =>
    unfold insertEntry
    split
    · exact List.mem_cons_self
    · exact List.mem_cons_of_mem _ ih

/-- A clear `hpost` posts at most 6 words. -/
theorem hpost_words {w : UE} {s : State} {c : UCtx} (h : CoxClear (.hpost w) s c) :
    bits (c.kn w.d.toNat) 10 8 = c.kn w.d.toNat / 256 % 8 ∧ bits (c.kn w.d.toNat) 10 8 ≤ 6 := by
  have hown : c.hpostExtra w = [] := h.own
  unfold UCtx.hpostExtra at hown
  have hb := (List.append_eq_nil_iff.1 hown).1
  have hbits : bits (c.kn w.d.toNat) 10 8 = c.kn w.d.toNat / 256 % 8 := by
    unfold bits
    rw [Nat.shiftRight_eq_div_pow]
    rfl
  refine ⟨hbits, ?_⟩
  split at hb
  · cases hb
  · omega

theorem flatten_words_length (ws : List Nat) : ((ws.map (leBytes 4)).flatten).length = 4 * ws.length := by
  induction ws with
  | nil => rfl
  | cons x r ih => rw [List.map_cons, List.flatten_cons, List.length_append, ih, leBytes_length, List.length_cons]; omega

/-- Word j of words in memory order. -/
theorem flatten_words_take {ws : List Nat} {j x : Nat} (h : ws[j]? = some x) (rest : List Byte) :
    ((((ws.map (leBytes 4)).flatten ++ rest).drop (4 * j)).take 4) = leBytes 4 x := by
  induction ws generalizing j with
  | nil => simp at h
  | cons y r ih =>
    rw [List.map_cons, List.flatten_cons, List.append_assoc]
    cases j with
    | zero =>
      obtain rfl : y = x := by simpa using h
      exact List.take_left' (leBytes_length 4 y)
    | succ j =>
      rw [show 4 * (j + 1) = (leBytes 4 y).length + 4 * j by rw [leBytes_length]; omega, List.drop_length_add_append]
      exact ih (by simpa using h)

/-- The head of an entry: HEATID, TEAM, the number of words and a byte of zeros. -/
def entryHead (heatid : BitVec 32) (team n : Nat) : List Byte :=
  leBytes 4 heatid.toNat ++ leBytes 2 team ++ leBytes 1 n ++ leBytes 1 0

theorem entryHead_length (heatid : BitVec 32) (team n : Nat) : (entryHead heatid team n).length = 8 := by
  simp [entryHead, leBytes_length]

/-- An entry is its head, its words and zeros up to 32 bytes. -/
theorem entryBytes_eq (heatid : BitVec 32) (team : Nat) (ws : List Nat) : entryBytes heatid team ws =
    entryHead heatid team ws.length ++ ((ws.map (leBytes 4)).flatten ++
      List.replicate (32 - (entryHead heatid team ws.length ++ (ws.map (leBytes 4)).flatten).length) 0) :=
  List.append_assoc ..

theorem entryBytes_length (heatid : BitVec 32) (team : Nat) {ws : List Nat} (h : ws.length ≤ 6) :
    (entryBytes heatid team ws).length = 32 := by
  rw [entryBytes_eq]
  simp only [List.length_append, List.length_replicate, entryHead_length, flatten_words_length]
  omega

theorem entryBytes_heatid (heatid : BitVec 32) (team : Nat) (ws : List Nat) :
    (entryBytes heatid team ws).take 4 = leBytes 4 heatid.toNat := by
  rw [entryBytes_eq, entryHead]
  simp only [List.append_assoc]
  exact List.take_left' (leBytes_length ..)

theorem entryBytes_word (heatid : BitVec 32) (team : Nat) {ws : List Nat} {j x : Nat} (h : ws[j]? = some x) :
    ((entryBytes heatid team ws).drop (8 + 4 * j)).take 4 = leBytes 4 x := by
  rw [entryBytes_eq, show 8 + 4 * j = (entryHead heatid team ws.length).length + 4 * j by rw [entryHead_length],
    List.drop_length_add_append]
  exact flatten_words_take h _

theorem earlierOps_congr {s t : State} (hg : t.gops = s.gops) (hb : ∀ r, t.teamBase r = s.teamBase r) (core posted : Nat) :
    t.earlierOps core posted = s.earlierOps core posted := by
  unfold State.earlierOps
  simp only [hg, hb]

/-- The state once the next number of an operation is taken. -/
def State.numbered (s : State) : State := { s with nextOp := s.nextOp + 1 }

/-- The entry that a `hpost` posts. -/
def UCtx.hostEntry (c : UCtx) (s : State) (w : UE) : RingEntry :=
  { id := s.nextOp, posted := s.now, core := c.team.core, tsel := c.team.tsel, heatid := c.heat.heatid
    team := c.ref.team
    bytes := entryBytes c.heat.heatid c.ref.team
      ((List.range (bits (c.kn w.d.toNat) 10 8)).map fun i => c.kn (w.d.toNat + 1 + i))
    ops := [], accepted := false, from_ := 0, done := c.waits w }

theorem UCtx.hostEntry_commit (c : UCtx) (s : State) (w : UE) (i : Instr) (L : Nat) :
    c.hostEntry (c.commit s i L) w = c.hostEntry s w := by
  simp only [UCtx.hostEntry, UCtx.commit_now, UCtx.commit_nextOp]

/-- The state after the commit of a `hpost` and its entry's post. -/
def UCtx.entryPosted (c : UCtx) (s : State) (w : UE) : State :=
  (c.commit s (.hpost w) 16).numbered.post (c.kn w.d.toNat % 64) (c.hostEntry s w)

theorem UCtx.entryPosted_waits (c : UCtx) (s : State) (w : UE) :
    { c.hostEntry s w with ops := s.earlierOps c.team.core s.now } ∈
      ((c.entryPosted s w).ring (c.kn w.d.toNat % 64)).waiting := by
  have hops : (c.commit s (.hpost w) 16).numbered.earlierOps c.team.core s.now = s.earlierOps c.team.core s.now :=
    earlierOps_congr (c.commit_gops ..) (teamBase_of_placed (c.commit_placed s (.hpost w) 16)) _ _
  unfold UCtx.entryPosted State.post
  rw [State.ring_modRing, ← hops]
  exact mem_insertEntry ..

theorem exec_hpost (w : UE) (s : State) : exec (.hpost w) s = issueUni (.hpost w) s 16 (coxOwn (.hpost w) s) fun c s =>
    c.postMessage (s.numbered.post (c.kn w.d.toNat % 64) (c.hostEntry s w)) (.hpost w)
      (fun _ => .hostEntry (c.kn w.d.toNat % 64) s.nextOp) w := rfl

/-- What a clear `hpost` leaves: its entry posted, then the post itself. -/
theorem hpost_issues {w : UE} {s : State} {c : UCtx} (hc : CoxClear (.hpost w) s c) :
    CoxIssues (.hpost w) s c (c.postMessage (c.entryPosted s w) (.hpost w)
      (fun _ => .hostEntry (c.kn w.d.toNat % 64) s.nextOp) w) := by
  refine coxIssues_of_commit (exec_hpost w s) hc ?_ ?_ ?_ ?_
  · rw [UCtx.hostEntry_commit, UCtx.commit_nextOp]
    rfl
  · exact UCtx.postMessage_tallies ..
  · exact (UCtx.postMessage_kept ..).trans (State.post_kept ..)
  · exact (UCtx.postMessage_files ..).trans (c.commit_files ..)

/-! ### The three instructions -/

theorem exec_lwr (w : UE) (s : State) : exec (.lwr w) s = issueUni (.lwr w) s 16 (coxOwn (.lwr w) s) fun c s =>
    let m := s.newMsg 1 (BitVec.ofNat 17 (c.kn w.d.toNat)) c.team.core (c.launchPayload w.d.toNat)
    c.postMessage s (.lwr w) (fun a => if m.dpkg = s.pkgNo then .localLaunch m a else .message m a) w := rfl

theorem exec_sig (w : UE) (s : State) : exec (.sig w) s = issueUni (.sig w) s 16 (coxOwn (.sig w) s) fun c s =>
    c.postMessage s (.sig w) (s.signalPost (c.kn w.d.toNat) c.team.core (c.k (w.d.toNat + 1)) (c.k (w.d.toNat + 2))
      (c.kn (w.d.toNat + 3) % 2 == 1)) w := rfl

theorem lwr_posts {w : UE} {s : State} {c : UCtx} (hc : CoxClear (.lwr w) s c) :
    ∃ m, m.cls = 1 ∧ m.dpkg = BitVec.ofNat 17 (c.k w.d.toNat).toNat ∧ m.payload.length = 48 ∧
      m.spkg = s.pkgNo ∧ m.ack = false ∧
      MessagePosted (.lwr w) s c (if m.dpkg = s.pkgNo then .localLaunch m (c.waits w) else .message m (c.waits w)) := by
  let m := (c.commit s (.lwr w) 16).newMsg 1 (BitVec.ofNat 17 (c.kn w.d.toNat)) c.team.core (c.launchPayload w.d.toNat)
  refine ⟨m, rfl, rfl, c.launchPayload_length _, c.commit_pkgNo s (.lwr w) 16, rfl, ?_⟩
  have h := messagePosted (p := fun a => if m.dpkg = (c.commit s (.lwr w) 16).pkgNo then .localLaunch m a else .message m a)
    (exec_lwr w s) hc rfl
  rwa [UCtx.commit_pkgNo] at h

theorem sig_posts {w : UE} {s : State} {c : UCtx} (hc : CoxClear (.sig w) s c) :
    MessagePosted (.sig w) s c ((c.commit s (.sig w) 16).signalPost (c.kn w.d.toNat) c.team.core (c.k (w.d.toNat + 1))
      (c.k (w.d.toNat + 2)) (c.kn (w.d.toNat + 3) % 2 == 1) (c.waits w)) :=
  messagePosted (exec_sig w s) hc rfl

/-- Settles O42: each message instruction is its commit and a post; the words of `sig` and `hpost` are in range because the
instruction breaks no rule of its own. -/
theorem coxMessages : Obligations.CoxMessages := by
  unfold Obligations.CoxMessages
  refine ⟨fun w s c hc => lwr_posts hc, fun w s c hc => ?_, fun w s c hc => ?_⟩
  · obtain ⟨hd, hk⟩ := sig_words hc
    have h := sig_posts hc
    rw [show (c.kn (w.d.toNat + 3) % 2 == 1) = _ from odd_word hk] at h
    unfold State.signalPost at h
    simp only [signal_core hd, UCtx.commit_pkgNo] at h
    change if BitVec.ofNat 17 (c.kn w.d.toNat) = s.pkgNo ∧ c.kn w.d.toNat / 2 ^ 17 < 384 then _ else _
    split
    · rename_i hl
      rwa [if_pos hl] at h
    · rename_i hr
      rw [if_neg hr] at h
      exact ⟨_, rfl, rfl, signalPayload_length .., h⟩
  · obtain ⟨hbits, hle⟩ := hpost_words hc
    obtain ⟨hawaits, hmsg⟩ := c.postMessage_posts (c.entryPosted s w) (.hpost w)
      (fun _ => .hostEntry (c.kn w.d.toNat % 64) s.nextOp) w
    have hnow : (c.entryPosted s w).now = s.now := c.commit_now s (.hpost w) 16
    have hcore : (c.entryPosted s w).core c.team.core = s.core c.team.core := c.commit_core s (.hpost w) 16 _
    rw [hnow] at hawaits
    rw [hcore] at hmsg
    have hwords : ((List.range (bits (c.kn w.d.toNat) 10 8)).map fun i => c.kn (w.d.toNat + 1 + i)).length ≤ 6 := by
      rwa [List.length_map, List.length_range]
    refine ⟨_, _, hpost_issues hc, hmsg, hawaits, c.entryPosted_waits s w, rfl, rfl, rfl, rfl, rfl, rfl, rfl, rfl, rfl,
      entryBytes_length _ _ hwords, entryBytes_heatid .., fun j hj => entryBytes_word _ _ ?_⟩
    rw [List.getElem?_map, List.getElem?_range (hbits ▸ hj)]
    rfl

end Sys2Proof.Machine
end

section
/-! PROOFS. Engine commands at their issue: the search for granted quanta, the command that an issue adds, and owner flips. -/
namespace Sys2Proof.Machine

/-! ### The search for quanta -/

/-- Quantum q of an engine is granted to a team by the record of its heat, whose cluster has index j (R53). -/
def grantedAt (h : Heat) (t : Team) (eng j q : Nat) : Prop :=
  h.record.res.getD (256 * j + 64 * eng + q % 64) 0xF = crewIndex t

/-- The first quantum that a command may take. -/
def firstQuantum (h : Heat) (t : Team) (eng earliest : Nat) : Nat :=
  (max earliest (Store.get 0 h.engFree (4 * clusterOf t.core + eng) - t.shift) + 63) / 64

/-- What the search for a start finds: the first quantum from which min n 64 quanta are granted, that leaves room before END. -/
theorem startOf_spec {h : Heat} {t : Team} {eng n earliest st : Nat} (hs : startOf h t eng n earliest = some st) :
    ∃ j x, h.clusterIndex (clusterOf t.core) = some j ∧ st = 64 * x ∧ firstQuantum h t eng earliest ≤ x ∧
      (∀ i, i < min n 64 → grantedAt h t eng j (x + i)) ∧
      (∀ y, firstQuantum h t eng earliest ≤ y → y < x → ∃ i, i < min n 64 ∧ ¬grantedAt h t eng j (y + i)) ∧
      64 * (x + n) ≤ h.record.stop + 1 - t.shift := by
  unfold startOf at hs
  dsimp only at hs
  split at hs
  · cases hs
  · rename_i j hj
    split at hs
    · rename_i x hx
      split at hs
      · rename_i hend
        obtain rfl := Option.some.inj hs
        rw [List.find?_map, Option.map_eq_some_iff] at hx
        obtain ⟨i, hi, rfl⟩ := hx
        obtain ⟨hall, -, hbefore⟩ := List.find?_range_eq_some.1 hi
        refine ⟨j, _, hj, rfl, Nat.le_add_right .., fun k hk => ?_, fun y hy hyx => ?_, hend⟩
        · have := List.all_eq_true.1 hall k (List.mem_range.2 hk)
          exact eq_of_beq this
        · have hn := hbefore (y - firstQuantum h t eng earliest) (by unfold firstQuantum at *; omega)
          simp only [Function.comp, Bool.not_eq_true', List.all_eq_false, List.mem_range, beq_iff_eq] at hn
          obtain ⟨k, hk, hnot⟩ := hn
          refine ⟨k, hk, fun hg => hnot ?_⟩
          have e : firstQuantum h t eng earliest + (y - firstQuantum h t eng earliest) = y := by omega
          rw [← e] at hg
          exact hg
      · cases hs
    · cases hs

/-- Grants repeat every 64 quanta, so that 64 granted ones give every later one. -/
theorem grantedAt_of_period {h : Heat} {t : Team} {eng j x n : Nat} (hg : ∀ i, i < min n 64 → grantedAt h t eng j (x + i)) {q : Nat}
    (hq : q < n) : grantedAt h t eng j (x + q) := by
  have h' := hg (q % 64) (by omega)
  unfold grantedAt at *
  rwa [Nat.add_mod, Nat.mod_mod, ← Nat.add_mod] at h'

/-! ### The command that an issue adds -/

/-- The command of an engine instruction (R218, R322). -/
def UCtx.engineCmd (c : UCtx) (id : Nat) (i : Instr) (w : UE) (opcode : Nat) (p : EngPlan) (body : EngBody) (cr : Bool)
    (crh : Word) : EngCmd :=
  let cl := clusterOf c.team.core
  let eseq := Store.get 0 c.heat.eseqs (4 * c.ref.team + p.eng)
  { id := id, hid := c.ref.hid, team := c.ref.team, core := c.team.core, cluster := cl, eng := p.eng, eseq := eseq
    opcode := opcode, issue := c.t, start := (startOf c.heat c.team p.eng p.n p.earliest).getD 0, quanta := p.n
    completion := c.completion p, body := body, cr := cr, crh := crh
    bar := c.barHandle w, flag := flagFor c.clause i, iter := 0, left := [], buf := [], result := [], image := []
    folds := 0, shape := none, failed := none, held := false, done := false
    blame := { c.blame 0 with rank := engineRank cl p.eng, src := 2 + p.eng, eop := opcode, eseq := eseq } }

/-- What an issue changes in its heat: the numbers of its engine's commands and the cycles that they take. -/
def UCtx.engineTaken (c : UCtx) (p : EngPlan) (st : Nat) (h : Heat) : Heat :=
  let key := 4 * clusterOf c.team.core + p.eng
  { h with
    eseqs := Store.set 0 h.eseqs (4 * c.ref.team + p.eng) (Store.get 0 c.heat.eseqs (4 * c.ref.team + p.eng) + 1)
    engFree := Store.set 0 h.engFree key (st + 64 * p.n + c.team.shift)
    engDone := Store.set 0 h.engDone key (c.completion p + c.team.shift) }

/-- A command added under the next number. -/
def State.addCmd (s : State) (cmd : EngCmd) : State := { s with nextOp := s.nextOp + 1, cmds := s.cmds ++ [cmd] }

/-- A heat that a change of itself leaves under its number. -/
theorem State.heat?_modHeat_own (s : State) (hid : Nat) (f : Heat → Heat) (hf : ∀ h, (f h).hid = h.hid) :
    (s.modHeat hid f).heat? hid = (s.heat? hid).map f := by
  rw [State.heat?_modHeat _ _ _ _ hf]
  cases h : s.heat? hid with
  | none => rfl
  | some x => exact congrArg some (if_pos (State.heat?_hid h))

/-- The state in which a command is counted and has taken its quanta, before its steps are on the agenda. -/
def UCtx.engineCounted (c : UCtx) (s : State) (p : EngPlan) (cmd : EngCmd) : State :=
  ((s.addCmd cmd).modCore c.team.core fun k => { k with eng := k.eng + 1 }).modHeat c.ref.hid (c.engineTaken p cmd.start)

theorem UCtx.issueEngine_eq (c : UCtx) (s : State) (i : Instr) (w : UE) (opcode : Nat) (p : EngPlan) (body : EngBody) (cr : Bool)
    (crh : Word) : c.issueEngine s i w opcode p body cr crh =
      ((c.engineCounted s p (c.engineCmd s.nextOp i w opcode p body cr crh)).push
        (c.base + (c.engineCmd s.nextOp i w opcode p body cr crh).start) 46 (.engineCommandStart s.nextOp)).push
        (c.base + c.completion p) 45 (.engineCompletion s.nextOp) := rfl

/-- What an engine's issue leaves of the state: its command last, its heat with the quanta taken, its core with one more
command, and its two steps. -/
structure EngineIssued (c : UCtx) (p : EngPlan) (cmd : EngCmd) (s t : State) : Prop where
  cmds : t.cmds = s.cmds ++ [cmd]
  heat : t.heat? c.ref.hid = (s.heat? c.ref.hid).map (c.engineTaken p cmd.start)
  core : t.core c.team.core = { s.core c.team.core with eng := (s.core c.team.core).eng + 1 }
  start : t.awaits (c.base + cmd.start) (.engineCommandStart cmd.id)

theorem UCtx.issueEngine_issued (c : UCtx) (s : State) (i : Instr) (w : UE) (opcode : Nat) (p : EngPlan) (body : EngBody)
    (cr : Bool) (crh : Word) :
    EngineIssued c p (c.engineCmd s.nextOp i w opcode p body cr crh) s (c.issueEngine s i w opcode p body cr crh) where
  cmds := rfl
  heat := State.heat?_modHeat_own _ _ (c.engineTaken p _) fun _ => rfl
  core := State.core_modCore (s.addCmd (c.engineCmd s.nextOp i w opcode p body cr crh)) c.team.core
    fun k => { k with eng := k.eng + 1 }
  start := (State.push_pushed ..).awaits (State.push_awaits ..)

theorem UCtx.granted_iff {c : UCtx} {eng j : Nat} (hj : c.heat.clusterIndex (clusterOf c.team.core) = some j) (q : Nat) :
    c.granted eng q ↔ grantedAt c.heat c.team eng j q := by
  unfold UCtx.granted grantedAt
  constructor
  · rintro ⟨k, hk, h⟩
    obtain rfl : j = k := Option.some.inj (hj.symm.trans hk)
    exact h
  · exact fun h => ⟨j, hj, h⟩

/-- The command of an issue that finds its quanta takes them as R231-R233 say. -/
theorem EngineIssued.takes {c : UCtx} {p : EngPlan} {s u t : State} {i : Instr} {w : UE} {opcode st : Nat} {body : EngBody}
    {cr : Bool} {crh : Word} (h : EngineIssued c p (c.engineCmd s.nextOp i w opcode p body cr crh) u t)
    (hheat : u.heat? c.ref.hid ≠ none) (hcore : u.core c.team.core = s.core c.team.core)
    (hst : startOf c.heat c.team p.eng p.n p.earliest = some st) :
    EngineTakes s c t (c.engineCmd s.nextOp i w opcode p body cr crh) p.eng p.n p.earliest := by
  have hstart : (c.engineCmd s.nextOp i w opcode p body cr crh).start = st := congrArg (Option.getD · 0) hst
  obtain ⟨j, x, hj, rfl, hfirst, hrun, hbefore, hends⟩ := startOf_spec hst
  have hq : firstQuantum c.heat c.team p.eng p.earliest = (max p.earliest (c.engineFree p.eng) + 63) / 64 := rfl
  exact {
    taken := by rw [h.cmds]; exact List.mem_append_right _ (List.mem_singleton_self _)
    names := ⟨rfl, rfl, rfl, rfl, rfl, rfl, rfl⟩
    start := by rw [hstart, hst]
    late := by
      rw [hstart]
      exact ⟨Nat.dvd_mul_right .., by omega, by omega⟩
    run := fun q hqn => by
      rw [hstart, Nat.mul_div_cancel_left x (by decide), c.granted_iff hj]
      exact grantedAt_of_period hrun hqn
    first := fun y hy hf hlt => by
      obtain ⟨i, hi, hnot⟩ := hbefore y (by omega) (by omega)
      exact ⟨i, by omega, fun hg => hnot ((c.granted_iff hj _).1 hg)⟩
    ends := by rw [hstart]; omega
    later := by
      rw [h.heat]
      obtain ⟨y, hy⟩ := Option.ne_none_iff_exists'.1 hheat
      rw [hy, hstart]
      exact congrArg some ((Store.get_set ..).trans (if_pos rfl))
    waits := h.start
    counted := by rw [h.core, hcore] }

/-- A command that completes by its own rule completes no earlier than the engine's command before it (R233). -/
theorem UCtx.issueEngine_completes (c : UCtx) (s : State) (i : Instr) (w : UE) (opcode : Nat) (p : EngPlan) (body : EngBody)
    (cr : Bool) (crh : Word) :
    EngineCompletes c (c.issueEngine s i w opcode p body cr crh) (c.engineCmd s.nextOp i w opcode p body cr crh)
      (p.finish (c.engineCmd s.nextOp i w opcode p body cr crh).start) :=
  ⟨rfl, State.push_awaits ..⟩

/-! ### Engine commands that break nothing -/

/-- An engine command that breaks no rule has a plan, and the plan finds its quanta. -/
theorem UCtx.engineExtra_nil {c : UCtx} {own : List (Nat × Nat × Nat)} {plan : Option EngPlan} (h : c.engineExtra own plan = []) :
    ∃ p st, plan = some p ∧ startOf c.heat c.team p.eng p.n p.earliest = some st := by
  obtain ⟨hown, hplan⟩ := List.append_eq_nil_iff.1 h
  cases plan with
  | none => rw [hown] at hplan; cases hplan
  | some p =>
    refine ⟨p, ?_⟩
    change c.startBreach p = [] at hplan
    unfold UCtx.startBreach at hplan
    split at hplan
    · rename_i st hst
      exact ⟨st, rfl, hst⟩
    · cases hplan

/-- The heat of a cox at its issue is still there after the commit. -/
theorem UCtx.commit_heat {c : UCtx} {s : State} (h : uniCtx s = some c) (i : Instr) (L : Nat) :
    (c.commit s i L).heat? c.ref.hid ≠ none := by
  have hc := c.commit_count? s i L c.ref
  rw [if_pos rfl, State.count?, State.count?, (uniCtx_team h).1] at hc
  intro hn
  rw [State.team?, hn] at hc
  cases hc

/-- The state in which an engine command is issued: the commit, and the corrected errors of what it captures. -/
def UCtx.beforeEngine (c : UCtx) (s : State) (i : Instr) (L : Nat) (codes : List Nat) : State :=
  (c.commit s i L).corrected 2 (c.selected codes).contains

theorem UCtx.beforeEngine_core (c : UCtx) (s : State) (i : Instr) (L : Nat) (codes : List Nat) (n : Nat) :
    (c.beforeEngine s i L codes).core n = s.core n :=
  (congrArg (Store.get Core.init · n) (State.corrected_cores ..)).trans (c.commit_core s i L n)

theorem UCtx.beforeEngine_nextOp (c : UCtx) (s : State) (i : Instr) (L : Nat) (codes : List Nat) :
    (c.beforeEngine s i L codes).nextOp = s.nextOp :=
  (congrArg (·.2.1) (State.corrected_placed (c.commit s i L) ..)).trans (c.commit_nextOp s i L)

theorem UCtx.beforeEngine_heat {c : UCtx} {s : State} (h : uniCtx s = some c) (i : Instr) (L : Nat) (codes : List Nat) :
    (c.beforeEngine s i L codes).heat? c.ref.hid ≠ none := by
  rw [UCtx.beforeEngine, heat?_congr (State.corrected_heats ..)]
  exact c.commit_heat h i L

/-- An engine command that breaks nothing issues, takes its quanta and waits for its completion. -/
theorem uniEngine_issues {i : Instr} {w : UE} {s : State} {c : UCtx} {opcode : Nat} {codes : UCtx → List Nat}
    {extra : UCtx → List (Nat × Nat × Nat)} {plan : UCtx → Option EngPlan} {body : UCtx → EngBody} {cr : Bool}
    (he : exec i s = uniEngine i w s opcode codes extra plan body cr)
    (hown : coxOwn i s c = c.engineExtra (extra c ++ c.selectedExtra s (codes c)) (plan c)) (hc : CoxClear i s c) :
    ∃ t cmd p, plan c = some p ∧ CoxIssues i s c t ∧ EngineTakes s c t cmd p.eng p.n p.earliest ∧ cmd.body = body c ∧
      EngineCompletes c t cmd (p.finish cmd.start) := by
  obtain ⟨p, st, hp, hst⟩ := UCtx.engineExtra_nil (hown.symm.trans hc.own)
  obtain ⟨-, -, hctx, hcauses, hhandler⟩ := hc
  let u := c.beforeEngine s i (c.completion p - c.t) (codes c)
  let crh := if cr then c.k (w.d.toNat + 3) else 0
  have hn : u.nextOp = s.nextOp := c.beforeEngine_nextOp ..
  have hx : exec i s = .next (c.issueEngine u i w opcode p (body c) cr crh) := by
    rw [he, uniEngine, checkUni_clear i s _ _ c hctx (hown ▸ hcauses) hhandler, hp]
    rfl
  have hheat : u.heat? c.ref.hid ≠ none := c.beforeEngine_heat hctx i (c.completion p - c.t) (codes c)
  have hi := c.issueEngine_issued u i w opcode p (body c) cr crh
  have hf := c.issueEngine_completes u i w opcode p (body c) cr crh
  rw [hn] at hi hf
  refine ⟨_, _, p, hp, ⟨hx, coxIssued_of_commit i (c.completion p - c.t) hctx ?_ ?_, ?_⟩,
    hi.takes hheat (c.beforeEngine_core ..) hst, rfl, hf⟩
  · exact (UCtx.issueEngine_tallies ..).trans (State.corrected_tallies ..)
  · exact (UCtx.issueEngine_kept ..).trans (State.corrected_kept ..)
  · exact (UCtx.issueEngine_files ..).trans ((State.corrected_files ..).trans (c.commit_files ..))

/-! ### The plans -/

theorem mma_takes {w : UE} {s : State} {c : UCtx} (hc : CoxClear (.mma w) s c) :
    ∃ t cmd p, CoxIssues (.mma w) s c t ∧ (c.mma w).kind = some p ∧
      EngineTakes s c t cmd 0 ((96 + (c.mma w).k / p.kappa + 63) / 64) (c.t + 4) ∧ cmd.body = .mma (c.mma w) ∧
      EngineCompletes c t cmd (cmd.start + 96 + (c.mma w).k / p.kappa) := by
  obtain ⟨t, cmd, p, hp, hi, ht, hb, hf⟩ := uniEngine_issues (Eq.trans (b := execMma w s) rfl rfl) rfl hc
  obtain ⟨k, hk, rfl⟩ := Option.map_eq_some_iff.1 hp
  exact ⟨t, cmd, k, hi, hk, ht, hb, hf⟩

/-- The beats of the first rows of a walk are the sum of the rows' beats. -/
theorem XcpBody.walk_beats (b : XcpBody) (cluster n : Nat) :
    (b.walk cluster n).1 = ((List.range n).map fun k => ((b.row k).map (·.beats)).getD 0).sum := by
  induction n with
  | zero => rfl
  | succ n ih =>
    unfold XcpBody.walk at *
    rw [List.range_succ, List.foldl_append, List.map_append, List.sum_append, ← ih]
    simp only [List.foldl_cons, List.foldl_nil, List.map_cons, List.map_nil, List.sum_cons, List.sum_nil, Nat.add_zero]
    generalize List.foldl (b.walkRow cluster) (0, 0) (List.range n) = acc
    unfold XcpBody.walkRow
    cases b.row n <;> rfl

theorem xcp_takes {w : UE} {s : State} {c : UCtx} (hc : CoxClear (.xcp w) s c) :
    ∃ t cmd, CoxIssues (.xcp w) s c t ∧
      EngineTakes s c t cmd (copyEngine w) (((c.xcp w).beatsOf + 63) / 64) (c.t + 4) ∧ cmd.body = .xcp (c.xcp w) ∧
      EngineCompletes c t cmd
        (cmd.start + ((c.xcp w).walk (c.team.core / 4) ((c.xcp w).iters * (c.xcp w).rows)).2) := by
  obtain ⟨t, cmd, p, hp, hi, ht, hb, hf⟩ := uniEngine_issues (Eq.trans (b := execXcp w s) rfl rfl) rfl hc
  unfold UCtx.xcpPlan at hp
  dsimp only at hp
  split at hp
  · cases hp
  · obtain rfl := Option.some.inj hp
    rw [XcpBody.walk_beats] at ht
    exact ⟨t, cmd, hi, ht, hb, hf⟩

theorem lay_takes {w : UE} {s : State} {c : UCtx} (hc : CoxClear (.lay w) s c) :
    let b := layBeats (c.lay w).1 (c.lay w).2.1
    ∃ t cmd, CoxIssues (.lay w) s c t ∧ EngineTakes s c t cmd 3 ((b + 63) / 64) (c.t + 4) ∧
      cmd.body = .lay (c.lay w).1 (c.lay w).2.1 (c.lay w).2.2 ∧
      EngineCompletes c t cmd (cmd.start + b - 1 + if dmwReq (c.lay w).2.2 then 72 else 40) := by
  obtain ⟨t, cmd, p, hp, hi, ht, hb, hf⟩ := uniEngine_issues (Eq.trans (b := execLay w s) rfl rfl) rfl hc
  unfold UCtx.layPlan at hp
  dsimp only at hp
  split at hp
  · obtain rfl := Option.some.inj hp
    exact ⟨t, cmd, hi, ht, hb, hf⟩
  · cases hp

/-! ### Transfers -/

/-- A command still takes its quanta in a state with the same commands, heats and cores in which its start waits. -/
theorem EngineTakes.of_eq {s t u : State} {c : UCtx} {cmd : EngCmd} {eng n earliest : Nat} (h : EngineTakes s c t cmd eng n earliest)
    (hcmds : u.cmds = t.cmds) (hheats : u.heats = t.heats) (hcores : u.cores = t.cores)
    (ha : u.awaits (c.base + cmd.start) (.engineCommandStart cmd.id)) : EngineTakes s c u cmd eng n earliest where
  __ := h
  taken := hcmds ▸ h.taken
  later := by rw [heat?_congr hheats]; exact h.later
  waits := ha
  counted := (congrArg (fun x => (Store.get Core.init x c.team.core).eng) hcores).trans h.counted

/-- A step stays on the agenda when others are taken off. -/
theorem State.cancel_awaits {s : State} {p : Ev → Bool} {cycle : Nat} {e : Ev} (h : s.awaits cycle e) (hp : p e = false) :
    (s.cancel p).awaits cycle e := by
  obtain ⟨d, hd, hat, rfl⟩ := h
  exact ⟨d, List.mem_filter.2 ⟨hd, by simp [hp]⟩, hat, rfl⟩

theorem UCtx.recordVa_eq (c : UCtx) (w : UE) : c.recordVa w = c.number w.d.toNat % 2 ^ 56 := by
  have h : c.pair w.d.toNat = c.number w.d.toNat := by
    unfold UCtx.number UCtx.op64 UCtx.pair
    rw [BitVec.toNat_append, ← Nat.shiftLeft_add_eq_or_of_lt (BitVec.isLt _), Nat.shiftLeft_eq]
    unfold UCtx.kn
    omega
  rw [UCtx.recordVa, h]

/-- The read of a transfer's shape record (R252). -/
def UCtx.xferOp (c : UCtx) (id va : Nat) : GlobalOp :=
  let st := c.t + 320 + (if c.far va then 48 else 0)
  { id := id + 1, hid := c.ref.hid, team := c.ref.team, gang := 0, core := c.team.core, issue := c.t, kind := .xferRec
    sz := 128, sx := false, aop := 0, order := false
    lanes := [{ lane := 0, va := va, pa := 0, kind := 0, far := c.far va, s := st, p := st, data := 0, cmp := 0, result := 0
                ok := false, done := false, sq := 0 }]
    dests := [], zeros := [], latch := none, flag := none, blame := c.blame 0, hot := false, n := id, bar := none
    addr := va, bytes := [] }

/-- A transfer's command as an engine command, with the completion of its plan. -/
def UCtx.xferEngine (c : UCtx) (s : State) (w : UE) : State :=
  c.issueEngine (c.commit s (.xfer w) 704) (.xfer w) w 0x57 (c.xferPlan w)
    (.xfer (sideEntry (c.xferSides w).1) (sideEntry (c.xferSides w).2) (c.recordVa w)) (w.flags.getLsbD 9)
    (c.k (w.d.toNat + 3))

/-- A record read added under its number. -/
def State.addRead (s : State) (o : GlobalOp) : State := { s with nextOp := o.id + 1, gops := s.gops ++ [o] }

/-- A transfer completes at DONE and not by its plan, and reads its record. -/
theorem UCtx.issueXfer_eq (c : UCtx) (s : State) (w : UE) : c.issueXfer s w =
    ((((c.xferEngine s w).cancel fun e => e == .engineCompletion (c.commit s (.xfer w) 704).nextOp).addRead
      (c.xferOp s.nextOp (c.recordVa w))).push
      (c.base + (c.t + 320 + (if c.far (c.recordVa w) then 48 else 0))) 15 (.stackAccess (.record (s.nextOp + 1)))).push
      (c.base + c.t + 648 + (if c.far (c.recordVa w) then 64 else 0)) 45 (.xferRecordRead s.nextOp) := by
  rw [UCtx.commit_nextOp]
  rfl

theorem UCtx.issueXfer_cmds (c : UCtx) (s : State) (w : UE) : (c.issueXfer s w).cmds = (c.xferEngine s w).cmds := by
  rw [UCtx.issueXfer_eq]
  rfl

theorem UCtx.issueXfer_heats (c : UCtx) (s : State) (w : UE) : (c.issueXfer s w).heats = (c.xferEngine s w).heats := by
  rw [UCtx.issueXfer_eq]
  rfl

theorem UCtx.issueXfer_cores (c : UCtx) (s : State) (w : UE) : (c.issueXfer s w).cores = (c.xferEngine s w).cores := by
  rw [UCtx.issueXfer_eq]
  rfl

/-- A clear `xfer` finds its quanta. -/
theorem xfer_start {w : UE} {s : State} {c : UCtx} (hc : CoxClear (.xfer w) s c) :
    ∃ st, startOf c.heat c.team (c.xferPlan w).eng (c.xferPlan w).n (c.xferPlan w).earliest = some st := by
  have hown : c.xferOwn s w = [] := hc.own
  obtain ⟨hleft, hstart⟩ := List.append_eq_nil_iff.1 hown
  have hextra : c.xferExtra w = [] := (List.append_eq_nil_iff.1 hleft).1
  have hside : xferSide (c.xferSides w).1 = [] := (List.append_eq_nil_iff.1 (List.append_eq_nil_iff.1 hextra).1).2
  rw [if_pos hside] at hstart
  unfold UCtx.startBreach at hstart
  split at hstart
  · rename_i st hst
    exact ⟨st, hst⟩
  · cases hstart

/-- The commit gives a state with the same heats the same heats. -/
theorem UCtx.commit_heats_congr {s t : State} (h : t.heats = s.heats) (c : UCtx) (i : Instr) (L : Nat) :
    (c.commit t i L).heats = (c.commit s i L).heats := by
  simp only [UCtx.commit, State.modCox, State.modTeam, State.modHeat, State.corrected_heats, h]

/-- What a clear `xfer` leaves: the issue of a transfer after the corrected errors of what it captures. -/
theorem xfer_issues {w : UE} {s : State} {c : UCtx} (hc : CoxClear (.xfer w) s c) :
    CoxIssues (.xfer w) s c (c.issueXfer (s.corrected 2 (c.selected (c.xferCodes w)).contains) w) := by
  have hown : coxOwn (.xfer w) s c = c.xferOwn s w := rfl
  obtain ⟨-, -, hctx, hcauses, hhandler⟩ := hc
  refine ⟨checkUni_clear (.xfer w) s _ _ c hctx (hown ▸ hcauses) hhandler, coxIssued_of_commit (.xfer w) 704 hctx ?_ ?_, ?_⟩
  · exact (UCtx.issueXfer_tallies ..).trans
      (congrArg (List.map Heat.tally) (c.commit_heats_congr (State.corrected_heats ..) (.xfer w) 704))
  · simp
  · simp [sameFiles]

/-- The command of a transfer. -/
def UCtx.xferCmd (c : UCtx) (id : Nat) (w : UE) : EngCmd :=
  c.engineCmd id (.xfer w) w 0x57 (c.xferPlan w)
    (.xfer (sideEntry (c.xferSides w).1) (sideEntry (c.xferSides w).2) (c.recordVa w)) (w.flags.getLsbD 9)
    (c.k (w.d.toNat + 3))

theorem UCtx.xferEngine_issued (c : UCtx) (s : State) (w : UE) :
    EngineIssued c (c.xferPlan w) (c.xferCmd s.nextOp w) (c.commit s (.xfer w) 704) (c.xferEngine s w) := by
  have h := c.issueEngine_issued (c.commit s (.xfer w) 704) (.xfer w) w 0x57 (c.xferPlan w)
    (.xfer (sideEntry (c.xferSides w).1) (sideEntry (c.xferSides w).2) (c.recordVa w)) (w.flags.getLsbD 9)
    (c.k (w.d.toNat + 3))
  rwa [UCtx.commit_nextOp] at h

section
variable {s u : State} {c : UCtx} (w : UE) (hn : u.nextOp = s.nextOp) (hcore : u.core c.team.core = s.core c.team.core)
include hn hcore

/-- The issue of a transfer starts the read of its record. -/
theorem UCtx.issueXfer_reads : RecordStarts s c (c.issueXfer u w) (s.nextOp + 1) (c.recordVa w) 128 .xferRec := by
  refine ⟨c.xferOp u.nextOp (c.recordVa w), ?_, congrArg (· + 1) hn, rfl, rfl, rfl, rfl, ?_, ?_⟩
  · rw [c.issueXfer_eq u w]
    exact List.mem_append_right _ (List.mem_singleton_self _)
  · rw [c.issueXfer_eq u w, hn]
    refine (State.push_pushed ..).awaits (State.push_awaits' _ _ _ _ _ ?_)
    omega
  · have h := (c.xferEngine_issued u w).core
    rw [c.commit_core, hcore] at h
    have hcores : (c.issueXfer u w).core c.team.core = (c.xferEngine u w).core c.team.core :=
      congrArg (Store.get Core.init · _) (c.issueXfer_cores u w)
    rw [hcores, h]

/-- The issue of a transfer takes the quanta that the search finds. -/
theorem UCtx.issueXfer_takes {st : Nat} (hctx : uniCtx u = some c)
    (hst : startOf c.heat c.team (c.xferPlan w).eng (c.xferPlan w).n (c.xferPlan w).earliest = some st) :
    EngineTakes s c (c.issueXfer u w) (c.xferCmd s.nextOp w) (c.xferPlan w).eng (c.xferPlan w).n (c.xferPlan w).earliest := by
  have hi := c.xferEngine_issued u w
  rw [hn] at hi
  have ht := hi.takes (c.commit_heat hctx (.xfer w) 704) ((c.commit_core u (.xfer w) 704 _).trans hcore) hst
  refine ht.of_eq (c.issueXfer_cmds u w) (c.issueXfer_heats u w) (c.issueXfer_cores u w) ?_
  rw [c.issueXfer_eq u w]
  exact ((State.push_pushed ..).trans (State.push_pushed ..)).awaits
    (State.cancel_awaits (p := fun e => e == .engineCompletion (c.commit u (.xfer w) 704).nextOp) ht.waits rfl)

end

theorem uniCtx_congr {s t : State} (hcur : t.cur = s.cur) (hheats : t.heats = s.heats) (hnow : t.now = s.now) :
    uniCtx t = uniCtx s := by
  unfold uniCtx
  simp only [hcur, heat?_congr hheats, hnow]

theorem xfer_takes {w : UE} {s : State} {c : UCtx} (hc : CoxClear (.xfer w) s c) :
    let va := c.number w.d.toNat % 2 ^ 56
    ∃ t cmd, CoxIssues (.xfer w) s c t ∧
      EngineTakes s c t cmd (copyEngine w) ((sourceBeats (sideEntry (c.xferSides w).1) + 63) / 64) (c.t + 704) ∧
      cmd.body = .xfer (sideEntry (c.xferSides w).1) (sideEntry (c.xferSides w).2) va ∧
      RecordStarts s c t (s.nextOp + 1) va 128 .xferRec ∧
      t.awaits (c.base + c.t + 648 + if c.far va then 64 else 0) (.xferRecordRead s.nextOp) := by
  dsimp only
  rw [← c.recordVa_eq w]
  obtain ⟨st, hst⟩ := xfer_start hc
  let u := s.corrected 2 (c.selected (c.xferCodes w)).contains
  have hn : u.nextOp = s.nextOp := congrArg (·.2.1) (State.corrected_placed s ..)
  have hcore : u.core c.team.core = s.core c.team.core := congrArg (Store.get Core.init · _) (State.corrected_cores ..)
  have hctx : uniCtx u = some c := (uniCtx_congr (by simp [u]) (by simp [u]) (by simp [u])).trans hc.ctx
  refine ⟨_, _, xfer_issues hc, c.issueXfer_takes w hn hcore hctx hst, rfl, c.issueXfer_reads w hn hcore, ?_⟩
  rw [c.issueXfer_eq, ← hn]
  exact State.push_awaits ..

/-! ### Owner flips -/

/-- The granules of a flip. -/
def flipped (g0 count : Nat) : List Nat := (List.range count).map fun i => g0 + i

/-- A core after a flip. -/
def Core.flip (c : Core) (gs : List Nat) (owner now : Nat) : Core :=
  { c with
    owner := Store.setAll 0 c.owner (gs.map fun g => (g, BitVec.ofNat 3 owner))
    closed := Store.setAll 0 c.closed (gs.map fun g => (g, now + 10)) }

theorem State.retestPasses_pushed (s : State) (core : Nat) : Pushed s (s.retestPasses core) := by
  refine foldl_pushed _ (fun s c => ?_) _ s
  split
  · exact State.push_pushed ..
  · exact .refl s

/-- Each granule of a list gets the value of the list's writes. -/
theorem get_setAll_map {α : Type} [DecidableEq α] (d v : α) (s : Store α) {gs : List Nat} (hn : gs.Nodup) {g : Nat} (hg : g ∈ gs) :
    Store.get d (Store.setAll d s (gs.map fun g => (g, v))) g = v :=
  Store.get_setAll_of_mem s _ (by rwa [List.map_map, show Prod.fst ∘ (fun g => (g, v)) = id from rfl, List.map_id]) (g, v)
    (List.mem_map.2 ⟨g, hg, rfl⟩)

theorem flipped_nodup (g0 count : Nat) : (flipped g0 count).Nodup :=
  List.nodup_range.map fun _ _ h => Nat.add_left_cancel h

/-- A flip gives each granule its owner, closes it for 10 cycles and puts its opening on the agenda (R115, R184). -/
theorem State.flip_flips (s : State) (core g0 count owner : Nat) {g : Nat} (hg : g ∈ flipped g0 count) :
    Store.get 0 ((s.flip core g0 count owner).core core).owner g = BitVec.ofNat 3 owner ∧
      Store.get 0 ((s.flip core g0 count owner).core core).closed g = s.now + 10 ∧
      (s.flip core g0 count owner).awaits (s.now + 10) (.ownerFlipOpen core g) := by
  let m := s.modCore core fun c => c.flip (flipped g0 count) owner s.now
  have hfold : Pushed m ((flipped g0 count).foldl (fun s g => s.push (s.now + 10) 10 (.ownerFlipOpen core g)) m) :=
    foldl_pushed _ (fun s g => State.push_pushed ..) _ m
  have hp : Pushed m (s.flip core g0 count owner) := hfold.trans (State.retestPasses_pushed ..)
  have hcore : (s.flip core g0 count owner).core core = (s.core core).flip (flipped g0 count) owner s.now :=
    (hp.core core).trans (State.core_modCore ..)
  rw [hcore]
  refine ⟨get_setAll_map _ _ _ (flipped_nodup ..) hg, get_setAll_map _ _ _ (flipped_nodup ..) hg, ?_⟩
  obtain ⟨u, hu, hv⟩ := foldl_pushed_mem (fun s g => s.push (s.now + 10) 10 (.ownerFlipOpen core g))
    (fun s g => State.push_pushed ..) hg m
  have hopen : (u.push (u.now + 10) 10 (.ownerFlipOpen core g)).awaits (s.now + 10) (.ownerFlipOpen core g) :=
    State.push_awaits' _ _ _ _ _ (congrArg (· + 10) hu.now)
  exact (State.retestPasses_pushed ..).awaits (hv.awaits hopen)

theorem exec_coxOwn (w : UE) (s : State) : exec (.coxOwn w) s = issueUni (.coxOwn w) s 10 (coxOwn (.coxOwn w) s) fun c s =>
    (s.flip c.team.core (c.team.sbase + c.kn w.d.toNat / 4096) (w.flags.toNat % 256 + 1) (bits w.flags.toNat 10 8)).push
      (s.now + 10) 10 (.coxResult c.ref { CoxLanding.empty with flag := flagFor c.clause (.coxOwn w) }) := rfl

theorem coxOwn_flips {w : UE} {s : State} {c : UCtx} (hc : CoxClear (.coxOwn w) s c) :
    ∃ t, CoxIssues (.coxOwn w) s c t ∧ ∀ j, j ≤ w.flags.toNat % 256 →
      let g := c.team.sbase + (c.k w.d.toNat).toNat / 4096 + j
      Store.get 0 (t.core c.team.core).owner g = BitVec.ofNat 3 (w.flags.toNat / 256) ∧
      Store.get 0 (t.core c.team.core).closed g = s.now + 10 ∧
      t.awaits (s.now + 10) (.ownerFlipOpen c.team.core g) := by
  refine ⟨_, coxIssues_of_commit (exec_coxOwn w s) hc rfl ?_ ?_ ?_, fun j hj => ?_⟩
  · simp
  · simp
  · simp
  · have hg : c.team.sbase + c.kn w.d.toNat / 4096 + j ∈
        flipped (c.team.sbase + c.kn w.d.toNat / 4096) (w.flags.toNat % 256 + 1) :=
      List.mem_map.2 ⟨j, List.mem_range.2 (by omega), rfl⟩
    obtain ⟨howner, hclosed, hopen⟩ := (c.commit s (.coxOwn w) 10).flip_flips c.team.core _ _ (bits w.flags.toNat 10 8) hg
    rw [c.commit_now] at hclosed hopen
    have hbits : BitVec.ofNat 3 (bits w.flags.toNat 10 8) = BitVec.ofNat 3 (w.flags.toNat / 256) := by
      apply BitVec.eq_of_toNat_eq
      simp only [BitVec.toNat_ofNat, bits, Nat.shiftRight_eq_div_pow]
      omega
    exact ⟨howner.trans hbits, hclosed, (State.push_pushed ..).awaits hopen⟩

/-- Settles O41: an issue that breaks nothing has found its quanta, since 0x8C is a breach of its own rule. -/
theorem coxEngines : Obligations.CoxEngines := by
  unfold Obligations.CoxEngines
  exact ⟨fun w s c => mma_takes, fun w s c => xcp_takes, fun w s c => lay_takes, fun w s c => xfer_takes,
    fun w s c => coxOwn_flips⟩

end Sys2Proof.Machine
end

section
/-! PROOFS. Queues: what the look for a queue's head leaves of the state. -/
namespace Sys2Proof.Machine

/-! ### Steps that change queues and the agenda alone -/

/-- A state after changes of queues and steps put on the agenda. -/
def QueuesOnly (s t : State) : Prop :=
  (∃ qs a n c, t = { s with queues := qs, agenda := a, seq := n, freeCtr := c }) ∧ ∀ d ∈ s.agenda, d ∈ t.agenda

theorem QueuesOnly.refl (s : State) : QueuesOnly s s := ⟨⟨_, _, _, _, rfl⟩, fun _ h => h⟩

theorem QueuesOnly.trans {s t u : State} (h : QueuesOnly s t) (h' : QueuesOnly t u) : QueuesOnly s u := by
  obtain ⟨⟨_, _, _, _, rfl⟩, m⟩ := h
  obtain ⟨⟨_, _, _, _, rfl⟩, m'⟩ := h'
  exact ⟨⟨_, _, _, _, rfl⟩, fun d hd => m' d (m d hd)⟩

theorem Scheduled.queuesOnly {s t : State} (h : Scheduled s t) : QueuesOnly s t := by
  obtain ⟨⟨_, _, _, rfl⟩, m⟩ := h
  exact ⟨⟨_, _, _, _, rfl⟩, m⟩

theorem State.push_queuesOnly (s : State) (c r : Nat) (e : Ev) : QueuesOnly s (s.push c r e) := (State.push_pushed ..).scheduled.queuesOnly

theorem State.modQueue_queuesOnly (s : State) (q : Nat) (f : Queue → Queue) : QueuesOnly s (s.modQueue q f) :=
  ⟨⟨_, _, _, _, rfl⟩, fun _ h => h⟩

theorem foldl_queuesOnly {α : Type} (f : State → α → State) (h : ∀ s x, QueuesOnly s (f s x)) (l : List α) :
    ∀ s, QueuesOnly s (l.foldl f s) := by
  induction l with
  | nil => exact .refl
  | cons x r ih => exact fun s => (h s x).trans (ih _)

section
variable {s t : State} (h : QueuesOnly s t)
include h

theorem QueuesOnly.awaits {c : Nat} {e : Ev} (ha : s.awaits c e) : t.awaits c e :=
  ha.imp fun d ⟨hd, hc⟩ => ⟨h.2 d hd, hc⟩

theorem QueuesOnly.heats : t.heats = s.heats := by obtain ⟨⟨_, _, _, _, rfl⟩, -⟩ := h; rfl

theorem QueuesOnly.files : sameFiles s t := files_of_heats h.heats

theorem QueuesOnly.kept (ps : List Space) : t.kept ps = s.kept ps := by obtain ⟨⟨_, _, _, _, rfl⟩, -⟩ := h; rfl

theorem QueuesOnly.keeps : s.keeps t [] := keeps_of_kept _ _ _ (h.kept [])

theorem QueuesOnly.now : t.now = s.now := by obtain ⟨⟨_, _, _, _, rfl⟩, -⟩ := h; rfl

theorem QueuesOnly.logEvents : t.logEvents = s.logEvents := by obtain ⟨⟨_, _, _, _, rfl⟩, -⟩ := h; rfl

theorem QueuesOnly.unacked : t.unacked = s.unacked := by obtain ⟨⟨_, _, _, _, rfl⟩, -⟩ := h; rfl

theorem QueuesOnly.barPend : t.barPend = s.barPend := by obtain ⟨⟨_, _, _, _, rfl⟩, -⟩ := h; rfl

theorem QueuesOnly.hbm : t.hbm = s.hbm := by obtain ⟨⟨_, _, _, _, rfl⟩, -⟩ := h; rfl

end

/-! ### One queue -/

theorem State.queue_modQueue (s : State) (q x : Nat) (f : Queue → Queue) :
    (s.modQueue q f).queue x = if x = q then f (s.queue x) else s.queue x := by
  refine (Store.get_set ..).trans ?_
  split
  · rename_i h
    rw [h]
  · rfl

theorem State.queue_modQueue_self (s : State) (q : Nat) (f : Queue → Queue) : (s.modQueue q f).queue q = f (s.queue q) := by
  rw [State.queue_modQueue, if_pos rfl]

theorem queue_congr {s t : State} (h : t.queues = s.queues) (q : Nat) : t.queue q = s.queue q := congrArg (Store.get Queue.init · q) h

theorem Scheduled.queues {s t : State} (h : Scheduled s t) : t.queues = s.queues := by obtain ⟨⟨_, _, _, rfl⟩, -⟩ := h; rfl

/-! ### Prefetches put on the agenda -/

theorem State.pushPrefetch_scheduled (s : State) (q code : Nat) (ks : List Nat) : Scheduled s (s.pushPrefetch q code ks) := by
  unfold State.pushPrefetch State.prefetchTurn
  exact (State.choose_scheduled ..).trans (State.push_pushed ..).scheduled

theorem foldl_scheduled {α : Type} (f : State → α → State) (h : ∀ s x, Scheduled s (f s x)) (l : List α) :
    ∀ s, Scheduled s (l.foldl f s) := by
  induction l with
  | nil => exact .refl
  | cons x r ih => exact fun s => (h s x).trans (ih _)

/-- One queue of a state has become y, and its other queues are as they were. -/
def QueueSet (s t : State) (q : Nat) (y : Queue) : Prop :=
  QueuesOnly s t ∧ ∀ x, t.queue x = if x = q then y else s.queue x

theorem QueueSet.here {s t : State} {q : Nat} {y : Queue} (h : QueueSet s t q y) : t.queue q = y := (h.2 q).trans (if_pos rfl)

theorem QueueSet.other {s t : State} {q x : Nat} {y : Queue} (h : QueueSet s t q y) (hx : x ≠ q) : t.queue x = s.queue x :=
  (h.2 x).trans (if_neg hx)

theorem QueueSet.trans {s t u : State} {q : Nat} {y z : Queue} (h : QueueSet s t q y) (h' : QueueSet t u q z) : QueueSet s u q z := by
  refine ⟨h.1.trans h'.1, fun x => ?_⟩
  rw [h'.2]
  split
  · rfl
  · rename_i hx
    exact h.other hx

theorem Scheduled.queueSet {s t : State} (h : Scheduled s t) (q : Nat) : QueueSet s t q (s.queue q) := by
  refine ⟨h.queuesOnly, fun x => ?_⟩
  rw [queue_congr h.queues]
  split
  · rename_i hx
    rw [hx]
  · rfl

theorem State.modQueue_queueSet (s : State) (q : Nat) (f : Queue → Queue) : QueueSet s (s.modQueue q f) q (f (s.queue q)) := by
  refine ⟨State.modQueue_queuesOnly .., fun x => ?_⟩
  rw [State.queue_modQueue]
  split
  · rename_i hx
    rw [hx]
  · rfl

theorem QueueSet.of_queue {s t : State} {q : Nat} {x y : Queue} (h : QueueSet s t q x) (e : x = y) : QueueSet s t q y := e ▸ h

theorem State.push_queueSet (s : State) (q c r : Nat) (e : Ev) : QueueSet s (s.push c r e) q (s.queue q) :=
  (State.push_pushed ..).scheduled.queueSet q

/-- The prefetch of a record that is still to be captured put on the agenda. -/
def State.pushRecord (q : Nat) (s : State) (k : Command) : State :=
  match k.body with
  | .raw bs => s.pushPrefetch q (prefetchCode k.entry k.sub) (s.commandStacks bs true)
  | _ => s

theorem State.pushRecord_scheduled (q : Nat) (s : State) (k : Command) : Scheduled s (s.pushRecord q k) := by
  unfold State.pushRecord
  split
  · exact State.pushPrefetch_scheduled ..
  · exact .refl s

/-- The prefetches of n entries of a queue from its next one, and of its records, put on the agenda. -/
def State.pushPrefetches (s : State) (q n : Nat) : State :=
  (List.range n).foldl (fun (s' : State) i =>
    s'.pushPrefetch q ((s.queue q).next + i) (s'.entryStacks (s.queue q).desc ((s.queue q).next + i)))
    ((s.rawDue q).foldl (State.pushRecord q) s)

theorem State.pushPrefetches_scheduled (s : State) (q n : Nat) : Scheduled s (s.pushPrefetches q n) :=
  (foldl_scheduled _ (State.pushRecord_scheduled q) _ s).trans (foldl_scheduled _ (fun _ _ => State.pushPrefetch_scheduled ..) _ _)

theorem State.schedulePrefetch_eq (s : State) (q : Nat) : s.schedulePrefetch q =
    if !(s.queue q).desc.en ∨ !s.ready.fe then s
    else
      let n := min ((s.queue q).desc.pi - BitVec.ofNat 32 (s.queue q).next).toNat (s.firstOpen q + 16 - (s.queue q).next)
      (s.pushPrefetches q n).modQueue q fun x => { x with next := x.next + n } := rfl

/-- Scheduling prefetches moves a queue's next entry and leaves the rest of its queues. -/
theorem State.schedulePrefetch_spec (s : State) (q : Nat) :
    ∃ n, QueueSet s (s.schedulePrefetch q) q { s.queue q with next := n } := by
  rw [State.schedulePrefetch_eq]
  split
  · exact ⟨_, (Scheduled.refl s).queueSet q⟩
  · dsimp only
    generalize min ((s.queue q).desc.pi - BitVec.ofNat 32 (s.queue q).next).toNat (s.firstOpen q + 16 - (s.queue q).next) = n
    have h := ((s.pushPrefetches_scheduled q n).queueSet q).trans
      (State.modQueue_queueSet _ q fun x => { x with next := x.next + n })
    rw [queue_congr (s.pushPrefetches_scheduled q n).queues] at h
    exact ⟨_, h⟩

/-! ### The look for the head -/

/-- A command but for its ready mark. -/
def Command.unready (c : Command) : Command := { c with ready := false }

/-- A command marked as ready. -/
def Command.readied (c : Command) : Command := { c with ready := true }

/-- A queue with its command i marked as ready. -/
def Queue.readied (i : Nat) (x : Queue) : Queue := { x with commands := modifyNth x.commands i Command.readied }

/-- What a look for a queue's head leaves of the queue: commands that have completed with all before them are gone, ready
marks and the next entry may change. -/
structure Advanced (x y : Queue) : Prop where
  commands : y.commands.map Command.unready = x.advanceCi.commands.map Command.unready
  rest : y = { x.advanceCi with commands := y.commands, next := y.next }

theorem Advanced.desc {x y : Queue} (h : Advanced x y) : y.desc = x.advanceCi.desc :=
  (congrArg Queue.desc h.rest).trans rfl

theorem Advanced.graph {x y : Queue} (h : Advanced x y) : y.graph = x.graph :=
  (congrArg Queue.graph h.rest).trans rfl

theorem Advanced.deficit {x y : Queue} (h : Advanced x y) : y.deficit = x.deficit :=
  (congrArg Queue.deficit h.rest).trans rfl

theorem Advanced.nsave {x y : Queue} (h : Advanced x y) : y.nsave = x.nsave :=
  (congrArg Queue.nsave h.rest).trans rfl

/-- CI passes the commands that have completed with all before them. -/
theorem Queue.advanceCi_commands (x : Queue) : x.advanceCi.commands = x.commands.dropWhile (·.completed) := by
  change x.commands.drop (x.commands.takeWhile (·.completed)).length = _
  generalize x.commands = l
  conv_lhs => enter [2]; rw [← List.takeWhile_append_dropWhile (p := (·.completed)) (l := l)]
  exact List.drop_left

/-- What a test refuses is not dropped by it. -/
theorem mem_dropWhile_of_not {α : Type} {p : α → Bool} {l : List α} {a : α} (ha : a ∈ l) (hp : p a = false) : a ∈ l.dropWhile p := by
  induction l with
  | nil => exact ha
  | cons x r ih =>
    rw [List.dropWhile_cons]
    split
    · rename_i hx
      rcases List.mem_cons.1 ha with rfl | hr
      · rw [hp] at hx
        cases hx
      · exact ih hr
    · exact ha

/-- Every command that stays was there, but for its ready mark. -/
theorem Advanced.mem {x y : Queue} (h : Advanced x y) {c : Command} (hc : c ∈ y.commands) :
    ∃ k ∈ x.commands, c.unready = k.unready := by
  have hm : c.unready ∈ x.advanceCi.commands.map Command.unready := h.commands ▸ List.mem_map_of_mem hc
  obtain ⟨k, hk, e⟩ := List.mem_map.1 hm
  rw [Queue.advanceCi_commands] at hk
  exact ⟨k, (List.dropWhile_sublist _).mem hk, e.symm⟩

/-- A command that has not completed stays, but for its ready mark. -/
theorem Advanced.stays {x y : Queue} (h : Advanced x y) {c : Command} (hc : c ∈ x.commands) (hn : c.completed = false) :
    ∃ k ∈ y.commands, k.unready = c.unready := by
  have hd : c ∈ x.advanceCi.commands := by
    rw [Queue.advanceCi_commands]
    exact mem_dropWhile_of_not hc hn
  have hm : c.unready ∈ y.commands.map Command.unready := h.commands ▸ List.mem_map_of_mem hd
  obtain ⟨k, hk, e⟩ := List.mem_map.1 hm
  exact ⟨k, hk, e⟩

theorem State.advanceQueue_spec (s : State) (q : Nat) :
    ∃ y, Advanced (s.queue q) y ∧ QueueSet s (s.advanceQueue q) q y := by
  obtain ⟨n, hn⟩ := (s.modQueue q (·.advanceCi)).schedulePrefetch_spec q
  have hs := (s.modQueue_queueSet q (·.advanceCi)).trans hn
  rw [State.queue_modQueue_self] at hs
  have ha : Advanced (s.queue q) { (s.queue q).advanceCi with next := n } := ⟨rfl, rfl⟩
  unfold State.advanceQueue
  dsimp only
  generalize (s.modQueue q (·.advanceCi)).schedulePrefetch q = t at hs
  split
  · exact ⟨_, ha, hs⟩
  split
  · exact ⟨_, ha, hs⟩
  split
  · exact ⟨_, ha, hs⟩
  split
  · exact ⟨_, ha, hs⟩
  rename_i i _ _ _ _ _
  have hr := hs.trans (t.modQueue_queueSet q (Queue.readied i))
  rw [hs.here] at hr
  refine ⟨_, ?_, hr.trans ((State.push_queueSet _ q _ _ _).of_queue hr.here)⟩
  exact ⟨map_modifyNth Command.unready Command.readied (fun _ => rfl) _ _, rfl⟩

end Sys2Proof.Machine
end

section
/-! PROOFS. Queues: writes of PI and EN, prefetches. -/
namespace Sys2Proof.Machine

/-! ### Uses of stacks -/

/-- A state after uses of stacks. -/
def StackUsed (s t : State) : Prop := ∃ f c e, t = { s with stackFrames := f, counters := c, env := e }

theorem StackUsed.refl (s : State) : StackUsed s s := ⟨_, _, _, rfl⟩

theorem StackUsed.trans {s t u : State} (h : StackUsed s t) (h' : StackUsed t u) : StackUsed s u := by
  obtain ⟨_, _, _, rfl⟩ := h
  obtain ⟨_, _, _, rfl⟩ := h'
  exact ⟨_, _, _, rfl⟩

theorem State.useStack_used (s : State) (k : Nat) : StackUsed s (s.useStack k) := by
  unfold State.useStack State.hbmCorrected State.tick
  dsimp only
  split <;> split <;> exact ⟨_, _, _, rfl⟩

theorem State.takeStackError_used (s : State) (e : Nat × Nat × Bool) : StackUsed s (s.takeStackError e) := by
  unfold State.takeStackError
  dsimp only
  split <;> exact ⟨_, _, _, rfl⟩

theorem State.stackUse_used (s : State) (k : Nat) : StackUsed s (s.stackUse k).2 := by
  rw [State.stackUse_eq]
  refine StackUsed.trans (s.useStack_used k) ?_
  generalize s.useStack k = v
  dsimp only
  split
  · exact .refl v
  split
  · exact .refl v
  rename_i e _
  refine (v.takeStackError_used e).trans ?_
  repeat' split
  all_goals exact ⟨_, _, _, rfl⟩

theorem State.useStacks_used (s : State) (ks : List Nat) : StackUsed s (s.useStacks ks).2 := by
  unfold State.useStacks
  have hf : ∀ (x : Option Nat × State), StackUsed x.2 (ks.foldl (fun x k =>
      let u := x.2.stackUse k
      (leastSet x.1 u.1, u.2)) x).2 := by
    induction ks with
    | nil => exact fun x => .refl x.2
    | cons k r ih => exact fun x => (x.2.stackUse_used k).trans (ih _)
  exact hf (none, s)

section
variable {s t : State} (h : StackUsed s t)
include h

theorem StackUsed.files : sameFiles s t := by obtain ⟨_, _, _, rfl⟩ := h; rfl

theorem StackUsed.keeps : s.keeps t [] := by obtain ⟨_, _, _, rfl⟩ := h; exact keeps_of_kept _ _ _ rfl

theorem StackUsed.queues : t.queues = s.queues := by obtain ⟨_, _, _, rfl⟩ := h; rfl

theorem StackUsed.hbm : t.hbm = s.hbm := by obtain ⟨_, _, _, rfl⟩ := h; rfl

theorem StackUsed.now : t.now = s.now := by obtain ⟨_, _, _, rfl⟩ := h; rfl

theorem StackUsed.capture (bs : List Byte) (nested : Bool) : t.captureCommand bs nested = s.captureCommand bs nested := by
  obtain ⟨_, _, _, rfl⟩ := h; rfl

theorem StackUsed.ringEntry (d : QueueDesc) (e : Nat) : t.ringEntry d e = s.ringEntry d e := by
  obtain ⟨_, _, _, rfl⟩ := h; rfl

theorem StackUsed.readHbm (a n : Nat) : t.readHbm a n = s.readHbm a n := by
  obtain ⟨_, _, _, rfl⟩ := h; rfl

end

/-! ### Writes of PI and EN -/

/-- The look for a queue's head passes CI and changes the rest of the ring's registers nowhere. -/
theorem State.advanceQueue_desc (s : State) (q : Nat) : ((s.advanceQueue q).queue q).desc = (s.queue q).advanceCi.desc := by
  obtain ⟨y, hy, hs⟩ := s.advanceQueue_spec q
  rw [hs.here, hy.desc]

theorem State.advanceQueue_only (s : State) (q : Nat) : QueuesOnly s (s.advanceQueue q) := by
  obtain ⟨y, -, hs⟩ := s.advanceQueue_spec q
  exact hs.1

/-- A queue with a new PI. -/
def Queue.withPi (pi : Word) (x : Queue) : Queue := { x with desc := { x.desc with pi := pi } }

/-- A queue that has been disabled. -/
def Queue.disabled (x : Queue) : Queue := { x with desc := { x.desc with en := false } }

theorem queuePiWrite_eq {s : State} {q : Nat} {pi : Word} (ha : s.arg = .queuePiWrite q pi) : exec .queuePiWrite s =
    if !s.ready.fe then .next s
    else if (s.queue q).desc.rlog < 4 ∨ 16 < (s.queue q).desc.rlog ∨
        2 ^ (s.queue q).desc.rlog - 16 < (pi - (s.queue q).desc.ci).toNat then
      .next ((s.modQueue q Queue.disabled).mailStatus 3)
    else .next ((s.modQueue q (Queue.withPi pi)).advanceQueue q) := by
  show execQueuePiWrite s = _
  unfold execQueuePiWrite
  rw [ha]
  rfl

theorem queuePiWrite_effect {s : State} {q : Nat} {pi : Word} (ha : s.arg = .queuePiWrite q pi) :
    let d := (s.queue q).desc
    let bad := d.rlog < 4 ∨ 16 < d.rlog ∨ 2 ^ d.rlog - 16 < (pi - d.ci).toNat
    ∃ (t : State), exec .queuePiWrite s = .next t ∧ sameFiles s t ∧ s.keeps t [] ∧
      (s.ready.fe = false → t = s) ∧
      (s.ready.fe = true → bad → (t.queue q).desc = { d with en := false } ∧ t.mailbox.status = Config.statusCode 3) ∧
      (s.ready.fe = true → ¬bad → (t.queue q).desc.pi = pi ∧ (t.queue q).desc.en = d.en) := by
  dsimp only
  rw [queuePiWrite_eq ha]
  cases hfe : s.ready.fe
  · exact ⟨s, rfl, rfl, (QueuesOnly.refl s).keeps, fun _ => rfl, nofun, nofun⟩
  · by_cases hbad : (s.queue q).desc.rlog < 4 ∨ 16 < (s.queue q).desc.rlog ∨
        2 ^ (s.queue q).desc.rlog - 16 < (pi - (s.queue q).desc.ci).toNat
    · rw [if_neg (by simp), if_pos hbad]
      have hd := s.queue_modQueue_self q Queue.disabled
      exact ⟨_, rfl, rfl, keeps_of_kept _ _ _ rfl, nofun, fun _ _ => ⟨congrArg Queue.desc hd, rfl⟩, fun _ h => absurd hbad h⟩
    · rw [if_neg (by simp), if_neg hbad]
      have ho := (State.modQueue_queuesOnly s q (Queue.withPi pi)).trans (State.advanceQueue_only _ q)
      have hd := State.advanceQueue_desc (s.modQueue q (Queue.withPi pi)) q
      rw [State.queue_modQueue_self] at hd
      exact ⟨_, rfl, ho.files, ho.keeps, nofun, fun _ h => absurd h hbad, fun _ _ => ⟨by rw [hd]; rfl, by rw [hd]; rfl⟩⟩

/-- A queue whose EN has been written (R277, R282). -/
def Queue.withEn (en : Bool) (x : Queue) : Queue :=
  { x with desc := { x.desc with en := en }, nsave := if en && !x.desc.en then 0 else x.nsave }

theorem queueEnWrite_effect {s : State} {q : Nat} {en : Bool} (ha : s.arg = .queueEnWrite q en) :
    ∃ (t : State), exec .queueEnWrite s = .next t ∧ sameFiles s t ∧ s.keeps t [] ∧ (t.queue q).desc.en = en ∧
      (t.queue q).nsave = if en && !(s.queue q).desc.en then 0 else (s.queue q).nsave := by
  have hx : exec .queueEnWrite s = .next ((s.modQueue q (Queue.withEn en)).advanceQueue q) := by
    show execQueueEnWrite s = _
    unfold execQueueEnWrite
    rw [ha]
    rfl
  obtain ⟨y, hy, hs⟩ := State.advanceQueue_spec (s.modQueue q (Queue.withEn en)) q
  rw [State.queue_modQueue_self] at hy
  have ho := (State.modQueue_queuesOnly s q (Queue.withEn en)).trans hs.1
  refine ⟨_, hx, ho.files, ho.keeps, ?_, ?_⟩
  · rw [hs.here, hy.desc]
    rfl
  · rw [hs.here, hy.nsave]
    rfl

/-! ### Prefetches -/

theorem State.le_freeGrain (s : State) (k c : Nat) : c ≤ s.freeGrain k c := by
  unfold State.freeGrain
  dsimp only
  split
  · rename_i x hx
    have hm := List.mem_of_find?_eq_some hx
    rcases List.mem_cons.1 hm with rfl | hm
    · exact Nat.le_refl _
    · obtain ⟨i, -, rfl⟩ := List.mem_map.1 hm
      omega
  · omega

theorem State.le_freeForAll (s : State) (ks : List Nat) (c : Nat) : c ≤ s.freeForAll ks c := by
  unfold State.freeForAll
  split
  · rename_i x hx
    have hm := List.mem_of_find?_eq_some hx
    rcases List.mem_cons.1 hm with rfl | hm
    · exact Nat.le_refl _
    · obtain ⟨i, -, rfl⟩ := List.mem_map.1 hm
      omega
  · exact s.le_freeGrain ..

/-- The record of a queue that is still to be captured under a number (R280). -/
def State.rawOf (s : State) (q e : Nat) (sub : Option Nat) : Option (List Byte) :=
  (s.queue q).commands.findSome? fun c => if c.entry = e ∧ c.sub = sub then (match c.body with
    | .raw bs => some bs
    | _ => none) else none

theorem State.rawOf_none {s : State} {q e : Nat} {sub : Option Nat}
    (h : ∀ k ∈ (s.queue q).commands, k.entry = e → k.sub = sub → k.body.isRaw = false) : s.rawOf q e sub = none := by
  unfold State.rawOf
  refine List.findSome?_eq_none_iff.2 fun c hc => ?_
  split
  · rename_i hcs
    have hb := h c hc hcs.1 hcs.2
    split
    · rename_i hr
      rw [hr] at hb
      cases hb
    · rfl
  · rfl

/-- A queue with commands put behind its own. -/
def Queue.appended (cs : List Command) (x : Queue) : Queue := { x with commands := x.commands ++ cs }

/-- The stacks that a prefetch touches: those of a record still to be captured, or of an entry. -/
def State.prefetchStacks (s : State) (q e : Nat) (raw : Option (List Byte)) : List Nat :=
  match raw with
  | some bs => s.commandStacks bs true
  | none => s.entryStacks (s.queue q).desc e

/-- The body that a captured record gets: the breach of its reads, or its capture. -/
def State.capturedBody (s : State) (bs : List Byte) (nested : Bool) (bad : Option Nat) : CmdBody :=
  match bad with
  | some cause => .bad cause (kindOfType (bits (qword bs 0) 63 56))
  | none => s.captureCommand bs nested

/-- What a prefetch answers once its turn has come. -/
def State.prefetched (s : State) (q e : Nat) (sub : Option Nat) (raw : Option (List Byte)) : Host.Outcome State Fault Refusal :=
  let u := s.useStacks (s.prefetchStacks q e raw)
  match sub, raw with
  | some _, some bs =>
    .next ((u.2.modCommand q e sub fun c => { c with body := s.capturedBody bs true u.1, readAt := s.now }).advanceQueue q)
  | some _, none => .next s
  | none, _ => .next ((u.2.modQueue q (Queue.appended (u.2.readEntry q e u.1))).advanceQueue q)

theorem prefetch_eq {s : State} {q code e : Nat} {sub : Option Nat} (ha : s.arg = .prefetch q code) (he : code % 2 ^ 64 = e)
    (hsub : (if code ≥ 2 ^ 64 then some (code / 2 ^ 64 - 1) else none) = sub) (hen : (s.queue q).desc.en = true)
    (hfe : s.ready.fe = true) : exec .prefetch s =
      let raw := s.rawOf q e sub
      let turn := if sub.isNone ∧ s.prefetchBefore q e then s.now + 1 else s.freeForAll (s.prefetchStacks q e raw) s.now
      if s.now < turn then .next (s.push turn 70 (.prefetch q code)) else s.prefetched q e sub raw := by
  show execPrefetch s = _
  unfold execPrefetch
  rw [ha]
  dsimp only
  rw [he, hsub, if_neg (by simp [hen, hfe])]
  rfl

/-- The prefetch of an entry of the ring that is read. -/
theorem prefetch_entry_eq {s : State} {q e : Nat} (ha : s.arg = .prefetch q e) (he : e < 2 ^ 64) (hen : (s.queue q).desc.en = true)
    (hfe : s.ready.fe = true) (hraw : s.rawOf q e none = none) : exec .prefetch s =
      let ks := s.entryStacks (s.queue q).desc e
      let turn := if s.prefetchBefore q e then s.now + 1 else s.freeForAll ks s.now
      if s.now < turn then .next (s.push turn 70 (.prefetch q e))
      else .next (((s.useStacks ks).2.modQueue q (Queue.appended ((s.useStacks ks).2.readEntry q e (s.useStacks ks).1))).advanceQueue q) := by
  have h := prefetch_eq ha (Nat.mod_eq_of_lt he) (if_neg (by omega)) hen hfe
  simp only [hraw, Option.isNone_none, true_and] at h
  exact h

theorem prefetch_unread {s : State} {q e : Nat} (ha : s.arg = .prefetch q e) (he : e < 2 ^ 64)
    (h : (s.queue q).desc.en = false ∨ s.ready.fe = false) : exec .prefetch s = .next (s.dropPrefetches q e) := by
  show execPrefetch s = _
  unfold execPrefetch
  rw [ha]
  dsimp only
  rw [Nat.mod_eq_of_lt he, if_neg (by omega : ¬e ≥ 2 ^ 64), if_pos (h.imp (by simp [·]) (by simp [·]))]
  rfl

theorem prefetch_unread_effect {s : State} {q e : Nat} (ha : s.arg = .prefetch q e) (he : e < 2 ^ 64)
    (h : (s.queue q).desc.en = false ∨ s.ready.fe = false) :
    ∃ (t : State), exec .prefetch s = .next t ∧ sameFiles s t ∧ s.keeps t [] ∧
      (t.queue q).next = min (s.queue q).next e ∧ (t.queue q).commands = (s.queue q).commands ∧
      ∀ x ∈ t.agenda, ∀ n, n < 2 ^ 64 → x.ev ≠ .prefetch q n := by
  refine ⟨_, prefetch_unread ha he h, files_of_heats rfl, keeps_of_kept _ _ _ rfl, ?_, ?_, fun x hx n hn hev => ?_⟩
  · unfold State.dropPrefetches
    rw [State.queue_modQueue_self]
    rfl
  · unfold State.dropPrefetches
    rw [State.queue_modQueue_self]
    rfl
  · have hk := (List.mem_filter.1 hx).2
    rw [hev] at hk
    simp only [beq_self_eq_true, hn, decide_true, Bool.and_self, Bool.not_true, Bool.false_eq_true] at hk

theorem prefetch_waits {s : State} {q e : Nat} (ha : s.arg = .prefetch q e) (he : e < 2 ^ 64) (hen : (s.queue q).desc.en = true)
    (hfe : s.ready.fe = true) (hraw : s.rawOf q e none = none)
    (hturn : ¬(s.prefetchBefore q e = false ∧
      s.freeForAll (s.entryStacks (s.queue q).desc e) s.now = s.now)) :
    ∃ (t : State) (c : Nat), exec .prefetch s = .next t ∧ sameFiles s t ∧ s.keeps t [] ∧ s.now < c ∧
      t.awaits c (.prefetch q e) ∧ t.queues = s.queues := by
  have hx := prefetch_entry_eq ha he hen hfe hraw
  dsimp only at hx
  have hle := s.le_freeForAll (s.entryStacks (s.queue q).desc e) s.now
  generalize htn : (if s.prefetchBefore q e then s.now + 1 else s.freeForAll (s.entryStacks (s.queue q).desc e) s.now) = turn at hx
  have hlt : s.now < turn := by
    rw [← htn]
    split
    · omega
    · rename_i hb
      exact Nat.lt_of_le_of_ne hle fun h => hturn ⟨by simpa using hb, h.symm⟩
  rw [if_pos hlt] at hx
  have ho := s.push_queuesOnly turn 70 (.prefetch q e)
  exact ⟨_, turn, hx, ho.files, ho.keeps, hlt, State.push_awaits .., rfl⟩

/-- The command that the read of an entry makes, before a buffer that is captured with it. -/
def State.entryCommand (s : State) (q e : Nat) (bad : Option Nat) : Command :=
  Command.make (s.ringEntry (s.queue q).desc e) e none (s.capturedBody (s.ringEntry (s.queue q).desc e) false bad) s.now

theorem State.readEntry_eq (s : State) (q e : Nat) (bad : Option Nat) : s.readEntry q e bad =
    match s.capturedBody (s.ringEntry (s.queue q).desc e) false bad with
    | .indirect false p n => (s.expand (s.entryCommand q e bad) false p n).1 ++ [(s.expand (s.entryCommand q e bad) false p n).2]
    | _ => [s.entryCommand q e bad] := rfl

/-- What the read of an entry brings: the command itself, but for a buffer that is captured with it. -/
theorem State.readEntry_plain {s : State} {q e : Nat} {bad : Option Nat}
    (hn : ∀ p n, s.capturedBody (s.ringEntry (s.queue q).desc e) false bad ≠ .indirect false p n) :
    s.readEntry q e bad = [s.entryCommand q e bad] := by
  rw [State.readEntry_eq]
  split
  · rename_i p n hi
    exact absurd hi (hn p n)
  · rfl

theorem mem_zip_range {α : Type} {l : List α} {i : Nat} {a : α} (h : l[i]? = some a) : (i, a) ∈ (List.range l.length).zip l := by
  refine List.mem_of_getElem? (i := i) (List.getElem?_zip_eq_some.2 ⟨?_, h⟩)
  exact List.getElem?_range (List.getElem?_eq_some_iff.1 h).1

/-- The body of a record of an indirect buffer (R280): captured with it, or only checked. -/
def State.recordBody (s : State) (vol : Bool) (b : List Byte) : CmdBody :=
  if vol then (if commandBad b true then CmdBody.bad 0xA1 3 else .raw b) else s.captureCommand b true

/-- The command of record i of an indirect buffer. -/
def State.recordCommand (s : State) (c : Command) (e : Nat × List Byte × CmdBody) : Command :=
  let k := Command.make e.2.1 c.entry (some e.1) e.2.2 s.now
  if e.1 = 0 then { k with ser := k.ser || c.ser } else k

theorem State.recordCommand_fields (s : State) (c : Command) (e : Nat × List Byte × CmdBody) :
    (s.recordCommand c e).entry = c.entry ∧ (s.recordCommand c e).sub = some e.1 ∧ (s.recordCommand c e).body = e.2.2 ∧
      (s.recordCommand c e).completed = false := by
  unfold State.recordCommand
  dsimp only
  split <;> exact ⟨rfl, rfl, rfl, rfl⟩

theorem State.expand_eq (s : State) (c : Command) (vol : Bool) (addr n : Nat) : s.expand c vol addr n =
    match bufferCause ((s.bufferRecords addr n).map (s.recordBody vol)) with
    | some cause => ([], { c with body := .bad cause 3 })
    | none => (((List.range (s.bufferRecords addr n).length).zip
        ((s.bufferRecords addr n).zip ((s.bufferRecords addr n).map (s.recordBody vol)))).map (s.recordCommand c),
        { c with expanded := true, ready := false, ser := false }) := rfl

theorem bufferCause_none {bodies : List CmdBody} (h : ∀ b ∈ bodies, ∀ cause kind, b ≠ .bad cause kind) : bufferCause bodies = none := by
  refine List.findSome?_eq_none_iff.2 fun b hb => ?_
  split
  · rename_i cause kind
    exact absurd rfl (h _ hb cause kind)
  · rfl

/-- The records of a buffer none of which has a breach stand before their command, each under its number. -/
theorem State.expand_records {s : State} {c : Command} {vol : Bool} {addr n : Nat}
    (h : ∀ i, i < n → ∀ cause kind, s.recordBody vol (s.readHbm (addr + 64 * i) 64) ≠ .bad cause kind) {i : Nat} (hi : i < n) :
    ∃ k ∈ (s.expand c vol addr n).1, k.entry = c.entry ∧ k.sub = some i ∧
      k.body = s.recordBody vol (s.readHbm (addr + 64 * i) 64) ∧ k.completed = false := by
  have hrecs : (s.bufferRecords addr n)[i]? = some (s.readHbm (addr + 64 * i) 64) := by
    unfold State.bufferRecords
    rw [List.getElem?_map, List.getElem?_range hi]
    rfl
  have hnone : bufferCause ((s.bufferRecords addr n).map (s.recordBody vol)) = none := by
    refine bufferCause_none fun b hb => ?_
    obtain ⟨r, hr, rfl⟩ := List.mem_map.1 hb
    obtain ⟨j, hj, rfl⟩ := List.mem_map.1 hr
    exact h j (List.mem_range.1 hj)
  rw [State.expand_eq, hnone]
  refine ⟨_, List.mem_map_of_mem (a := (i, s.readHbm (addr + 64 * i) 64, s.recordBody vol (s.readHbm (addr + 64 * i) 64))) ?_,
    State.recordCommand_fields ..⟩
  have hz : ((s.bufferRecords addr n).zip ((s.bufferRecords addr n).map (s.recordBody vol)))[i]? =
      some (s.readHbm (addr + 64 * i) 64, s.recordBody vol (s.readHbm (addr + 64 * i) 64)) :=
    List.getElem?_zip_eq_some.2 ⟨hrecs, by rw [List.getElem?_map, hrecs]; rfl⟩
  have hm := mem_zip_range hz
  rwa [List.length_zip, List.length_map, Nat.min_self] at hm

theorem StackUsed.capturedBody {s t : State} (h : StackUsed s t) (bs : List Byte) (nested : Bool) (bad : Option Nat) :
    t.capturedBody bs nested bad = s.capturedBody bs nested bad := by
  unfold State.capturedBody
  rw [h.capture]

/-- What the read of an entry of the ring leaves. -/
theorem prefetch_reads {s : State} {q e : Nat} (ha : s.arg = .prefetch q e) (he : e < 2 ^ 64) (hen : (s.queue q).desc.en = true)
    (hfe : s.ready.fe = true) (hraw : s.rawOf q e none = none)
    (hturn : s.prefetchBefore q e = false ∧ s.freeForAll (s.entryStacks (s.queue q).desc e) s.now = s.now) :
    let u := s.useStacks (s.entryStacks (s.queue q).desc e)
    ∃ (t : State), exec .prefetch s = .next t ∧ sameFiles s t ∧ s.keeps t [] ∧
      ∀ c ∈ u.2.readEntry q e u.1, c.completed = false → ∃ k ∈ (t.queue q).commands, k.unready = c.unready := by
  have hx := prefetch_entry_eq ha he hen hfe hraw
  obtain ⟨hb, hf⟩ := hturn
  dsimp only at hx
  rw [hb, hf, if_neg (by simp)] at hx
  have hu := s.useStacks_used (s.entryStacks (s.queue q).desc e)
  dsimp only
  generalize s.useStacks (s.entryStacks (s.queue q).desc e) = u at hx hu
  obtain ⟨y, hy, hs⟩ := State.advanceQueue_spec (u.2.modQueue q (Queue.appended (u.2.readEntry q e u.1))) q
  rw [State.queue_modQueue_self] at hy
  have ho := (State.modQueue_queuesOnly u.2 q (Queue.appended (u.2.readEntry q e u.1))).trans hs.1
  refine ⟨_, hx, ho.files.trans hu.files, State.keeps_trans hu.keeps ho.keeps, fun c hc hn => ?_⟩
  rw [hs.here]
  exact hy.stays (List.mem_append_right _ hc) hn

end Sys2Proof.Machine
end

section
/-! PROOFS. Queues: what a prefetch brings, and the capture of a record of a volatile buffer. -/
namespace Sys2Proof.Machine

theorem StackUsed.queue {s t : State} (h : StackUsed s t) (q : Nat) : t.queue q = s.queue q := queue_congr h.queues q

/-- What two commands share when they differ by their ready marks. -/
theorem Command.fields_of_unready {c k : Command} (h : k.unready = c.unready) :
    k.entry = c.entry ∧ k.sub = c.sub ∧ k.body = c.body ∧ k.readAt = c.readAt ∧ k.completed = c.completed ∧
      k.admitted = c.admitted ∧ k.cause = c.cause :=
  ⟨(congrArg Command.entry h :), (congrArg Command.sub h :), (congrArg Command.body h :), (congrArg Command.readAt h :),
    (congrArg Command.completed h :), (congrArg Command.admitted h :), (congrArg Command.cause h :)⟩

/-- What the command that an entry's read makes says. -/
theorem StackUsed.entryCommand_fields {s t : State} (h : StackUsed s t) (q e : Nat) (bad : Option Nat) :
    (t.entryCommand q e bad).entry = e ∧ (t.entryCommand q e bad).sub = none ∧
      (t.entryCommand q e bad).body = s.capturedBody (s.ringEntry (s.queue q).desc e) false bad ∧
      (t.entryCommand q e bad).readAt = s.now ∧ (t.entryCommand q e bad).completed = false := by
  refine ⟨rfl, rfl, ?_, h.now, rfl⟩
  rw [← h.capturedBody, ← h.ringEntry, ← h.queue]
  rfl

theorem prefetch_turn {s : State} {q e : Nat} (ha : s.arg = .prefetch q e) (he : e < 2 ^ 64) (hen : (s.queue q).desc.en = true)
    (hfe : s.ready.fe = true) (hraw : s.rawOf q e none = none)
    (hturn : s.prefetchBefore q e = false ∧ s.freeForAll (s.entryStacks (s.queue q).desc e) s.now = s.now) :
    let bs := s.ringEntry (s.queue q).desc e
    let body := s.captureCommand bs false
    let ks := s.entryStacks (s.queue q).desc e
    ∃ (t : State), exec .prefetch s = .next t ∧ sameFiles s t ∧ s.keeps t [] ∧
      ((s.useStacks ks).1 = none → (∀ p n, body ≠ .indirect false p n) →
        ∃ c ∈ (t.queue q).commands, c.entry = e ∧ c.sub = none ∧ c.body = body ∧ c.readAt = s.now ∧ c.completed = false) ∧
      (∀ cause, (s.useStacks ks).1 = some cause →
        ∃ c ∈ (t.queue q).commands, c.entry = e ∧ c.sub = none ∧ c.body = .bad cause (kindOfType (bits (qword bs 0) 63 56))) ∧
      ((s.useStacks ks).1 = none → ∀ p n, body = .indirect false p n →
        (∀ i, i < n → ∀ c k, s.captureCommand (s.readHbm (p + 64 * i) 64) true ≠ .bad c k) →
        ∀ i, i < n → ∃ c ∈ (t.queue q).commands, c.entry = e ∧ c.sub = some i ∧
          c.body = s.captureCommand (s.readHbm (p + 64 * i) 64) true) := by
  obtain ⟨t, hx, hfiles, hkeeps, hin⟩ := prefetch_reads ha he hen hfe hraw hturn
  dsimp only
  have hu := s.useStacks_used (s.entryStacks (s.queue q).desc e)
  generalize s.useStacks (s.entryStacks (s.queue q).desc e) = u at hin hu
  obtain ⟨hentry, hsub, hbody, hread, hdone⟩ := hu.entryCommand_fields q e u.1
  have hcap : u.2.capturedBody (u.2.ringEntry (u.2.queue q).desc e) false u.1 =
      s.capturedBody (s.ringEntry (s.queue q).desc e) false u.1 := by rw [hu.capturedBody, hu.queue, hu.ringEntry]
  have hplain (hn : ∀ p n, s.capturedBody (s.ringEntry (s.queue q).desc e) false u.1 ≠ .indirect false p n) :
      ∃ c ∈ (t.queue q).commands, c.entry = e ∧ c.sub = none ∧
        c.body = s.capturedBody (s.ringEntry (s.queue q).desc e) false u.1 ∧ c.readAt = s.now ∧ c.completed = false := by
    obtain ⟨k, hk, hun⟩ := hin (u.2.entryCommand q e u.1)
      (by rw [State.readEntry_plain (by rwa [hcap])]; exact List.mem_singleton_self _) hdone
    obtain ⟨h1, h2, h3, h4, h5, -, -⟩ := Command.fields_of_unready hun
    exact ⟨k, hk, h1.trans hentry, h2.trans hsub, h3.trans hbody, h4.trans hread, h5.trans hdone⟩
  refine ⟨t, hx, hfiles, hkeeps, fun hnone hn => ?_, fun cause hsome => ?_, fun hnone p n hi hgood i hin' => ?_⟩
  · rw [hnone] at hplain
    exact hplain hn
  · rw [hsome] at hplain
    obtain ⟨c, hc, h1, h2, h3, -, -⟩ := hplain fun _ _ => nofun
    exact ⟨c, hc, h1, h2, h3⟩
  · have hrec : ∀ b, u.2.recordBody false b = s.captureCommand b true := fun b => hu.capture b true
    rw [hnone] at hcap hin
    have hcap' : u.2.capturedBody (u.2.ringEntry (u.2.queue q).desc e) false none = .indirect false p n := hcap.trans hi
    obtain ⟨k, hk, h1, h2, h3, h4⟩ := State.expand_records (s := u.2) (c := u.2.entryCommand q e none) (vol := false) (addr := p)
      (n := n) (fun j hj cause kind => by rw [hrec, hu.readHbm]; exact hgood j hj cause kind) hin'
    obtain ⟨k', hk', hun⟩ := hin k (by rw [State.readEntry_eq, hcap']; exact List.mem_append_left _ hk) h4
    obtain ⟨g1, g2, g3, -⟩ := Command.fields_of_unready hun
    exact ⟨k', hk', g1.trans h1, g2.trans h2, (g3.trans h3).trans (by rw [hrec, hu.readHbm])⟩

/-! ### Records of volatile buffers -/

/-- A queue with its command of a number changed. -/
def Queue.withCommand (entry : Nat) (sub : Option Nat) (f : Command → Command) (x : Queue) : Queue :=
  { x with commands := x.commands.map fun c => if c.entry = entry ∧ c.sub = sub then f c else c }

theorem Queue.mem_withCommand_self {entry : Nat} {sub : Option Nat} {f : Command → Command} {x : Queue} {c : Command}
    (hc : c ∈ x.commands) (he : c.entry = entry) (hs : c.sub = sub) : f c ∈ (x.withCommand entry sub f).commands :=
  List.mem_map.2 ⟨c, hc, if_pos ⟨he, hs⟩⟩

theorem Queue.mem_withCommand_other {entry : Nat} {sub : Option Nat} {f : Command → Command} {x : Queue} {c : Command}
    (hc : c ∈ x.commands) (h : ¬(c.entry = entry ∧ c.sub = sub)) : c ∈ (x.withCommand entry sub f).commands :=
  List.mem_map.2 ⟨c, hc, if_neg h⟩

/-- A command with a body that has been captured in a cycle. -/
def Command.captured (body : CmdBody) (now : Nat) (c : Command) : Command := { c with body := body, readAt := now }

theorem State.rawOf_some {s : State} {q e : Nat} {sub : Option Nat} {raw : List Byte} {c : Command} (hc : c ∈ (s.queue q).commands)
    (he : c.entry = e) (hs : c.sub = sub) (h : ∀ k ∈ (s.queue q).commands, k.entry = e → k.sub = sub → k.body = .raw raw) :
    s.rawOf q e sub = some raw := by
  unfold State.rawOf
  cases hf : List.findSome? _ (s.queue q).commands with
  | none =>
    have := List.findSome?_eq_none_iff.1 hf c hc
    rw [if_pos ⟨he, hs⟩, h c hc he hs] at this
    cases this
  | some b =>
    obtain ⟨k, hk, hb⟩ := List.exists_of_findSome?_eq_some hf
    split at hb
    · rename_i hks
      rw [h k hk hks.1 hks.2] at hb
      exact hb.symm
    · cases hb

theorem prefetchRecord_eq {s : State} {q e i : Nat} (ha : s.arg = .prefetch q (e + 2 ^ 64 * (i + 1))) (he : e < 2 ^ 64)
    (hen : (s.queue q).desc.en = true) (hfe : s.ready.fe = true) : exec .prefetch s =
      let ks := s.prefetchStacks q e (s.rawOf q e (some i))
      if s.now < s.freeForAll ks s.now then .next (s.push (s.freeForAll ks s.now) 70 (.prefetch q (e + 2 ^ 64 * (i + 1))))
      else s.prefetched q e (some i) (s.rawOf q e (some i)) := by
  have hcode : (e + 2 ^ 64 * (i + 1)) / 2 ^ 64 = i + 1 := by
    rw [Nat.add_mul_div_left _ _ (by decide), Nat.div_eq_of_lt he, Nat.zero_add]
  refine (prefetch_eq (sub := some i) ha (by rw [Nat.add_mul_mod_self_left, Nat.mod_eq_of_lt he]) ?_ hen hfe).trans ?_
  · rw [if_pos (by omega), hcode]
    rfl
  · simp only [Option.isNone_some, Bool.false_eq_true, false_and, if_false]

theorem prefetchRecord_effect {s : State} {q e i : Nat} {raw : List Byte} (ha : s.arg = .prefetch q (e + 2 ^ 64 * (i + 1)))
    (he : e < 2 ^ 64) (hen : (s.queue q).desc.en = true) (hfe : s.ready.fe = true)
    (hraw : ∀ k ∈ (s.queue q).commands, k.entry = e → k.sub = some i → k.body = .raw raw)
    (hfree : s.freeForAll (s.commandStacks raw true) s.now = s.now) (hgood : (s.useStacks (s.commandStacks raw true)).1 = none) :
    ∃ (t : State), exec .prefetch s = .next t ∧ sameFiles s t ∧ s.keeps t [] ∧
      ∀ c ∈ (s.queue q).commands, c.entry = e → c.sub = some i → c.completed = false →
        ∃ c' ∈ (t.queue q).commands, c'.entry = e ∧ c'.sub = some i ∧ c'.body = s.captureCommand raw true ∧ c'.readAt = s.now := by
  have hx := prefetchRecord_eq ha he hen hfe
  dsimp only at hx
  by_cases hany : ∃ c ∈ (s.queue q).commands, c.entry = e ∧ c.sub = some i
  · obtain ⟨c, hc, hce, hcs⟩ := hany
    rw [State.rawOf_some hc hce hcs hraw] at hx
    unfold State.prefetchStacks State.prefetched at hx
    dsimp only [State.prefetchStacks] at hx
    rw [hfree, if_neg (Nat.lt_irrefl _)] at hx
    have hu := s.useStacks_used (s.commandStacks raw true)
    generalize s.useStacks (s.commandStacks raw true) = u at hx hu hgood
    rw [hgood] at hx
    obtain ⟨y, hy, hs⟩ := State.advanceQueue_spec (u.2.modQueue q (Queue.withCommand e (some i)
      (Command.captured (s.captureCommand raw true) s.now))) q
    rw [State.queue_modQueue_self, hu.queue] at hy
    have ho := (State.modQueue_queuesOnly u.2 q (Queue.withCommand e (some i)
      (Command.captured (s.captureCommand raw true) s.now))).trans hs.1
    refine ⟨_, hx, ho.files.trans hu.files, State.keeps_trans hu.keeps ho.keeps, fun k hk hke hks hkn => ?_⟩
    obtain ⟨k', hk', hun⟩ := hy.stays (Queue.mem_withCommand_self (f := Command.captured (s.captureCommand raw true) s.now)
      hk hke hks) hkn
    obtain ⟨g1, g2, g3, g4, -⟩ := Command.fields_of_unready hun
    rw [← hs.here] at hk'
    exact ⟨k', hk', g1.trans hke, g2.trans hks, g3, g4⟩
  · have hnone : s.rawOf q e (some i) = none := State.rawOf_none fun k hk h1 h2 => absurd ⟨k, hk, h1, h2⟩ hany
    rw [hnone] at hx
    have hno : ∀ k ∈ (s.queue q).commands, k.entry = e → k.sub = some i → False := fun k hk h1 h2 => hany ⟨k, hk, h1, h2⟩
    split at hx
    · have ho := s.push_queuesOnly (s.freeForAll (s.prefetchStacks q e none) s.now) 70 (.prefetch q (e + 2 ^ 64 * (i + 1)))
      exact ⟨_, hx, ho.files, ho.keeps, fun k hk h1 h2 _ => (hno k hk h1 h2).elim⟩
    · exact ⟨s, hx, rfl, (QueuesOnly.refl s).keeps, fun k hk h1 h2 _ => (hno k hk h1 h2).elim⟩

end Sys2Proof.Machine
end

section
/-! PROOFS. Queues: what the completion of a command leaves of the state. -/
namespace Sys2Proof.Machine

/-! ### Steps that answer a command -/

/-- A state after changes of queues, steps put on the agenda, bytes written to device and host memory and interrupts
counted. -/
def Answered (s t : State) : Prop :=
  (∃ qs a n c m w l u x, t = { s with
    queues := qs, agenda := a, seq := n, freeCtr := c, hbm := m, hostMem := w, hbmLog := l, coalesce := u, msix := x }) ∧
  ∀ d ∈ s.agenda, d ∈ t.agenda

theorem Answered.refl (s : State) : Answered s s := ⟨⟨_, _, _, _, _, _, _, _, _, rfl⟩, fun _ h => h⟩

theorem Answered.trans {s t u : State} (h : Answered s t) (h' : Answered t u) : Answered s u := by
  obtain ⟨⟨_, _, _, _, _, _, _, _, _, rfl⟩, m⟩ := h
  obtain ⟨⟨_, _, _, _, _, _, _, _, _, rfl⟩, m'⟩ := h'
  exact ⟨⟨_, _, _, _, _, _, _, _, _, rfl⟩, fun d hd => m' d (m d hd)⟩

theorem QueuesOnly.answered {s t : State} (h : QueuesOnly s t) : Answered s t := by
  obtain ⟨⟨_, _, _, _, rfl⟩, m⟩ := h
  exact ⟨⟨_, _, _, _, _, _, _, _, _, rfl⟩, m⟩

section
variable {s t : State} (h : Answered s t)
include h

theorem Answered.awaits {c : Nat} {e : Ev} (ha : s.awaits c e) : t.awaits c e := ha.imp fun d ⟨hd, hc⟩ => ⟨h.2 d hd, hc⟩

theorem Answered.heats : t.heats = s.heats := by obtain ⟨⟨_, _, _, _, _, _, _, _, _, rfl⟩, -⟩ := h; rfl

theorem Answered.files : sameFiles s t := files_of_heats h.heats

theorem Answered.logEvents : t.logEvents = s.logEvents := by obtain ⟨⟨_, _, _, _, _, _, _, _, _, rfl⟩, -⟩ := h; rfl

theorem Answered.now : t.now = s.now := by obtain ⟨⟨_, _, _, _, _, _, _, _, _, rfl⟩, -⟩ := h; rfl

end

theorem State.countEntry_answered (s : State) (u : Nat) : Answered s (s.countEntry u) := by
  unfold State.countEntry State.raise
  dsimp only
  repeat' split
  all_goals exact ⟨⟨_, _, _, _, _, _, _, _, _, rfl⟩, fun _ h => h⟩

theorem State.countEntry_queues (s : State) (u : Nat) : (s.countEntry u).queues = s.queues := by
  unfold State.countEntry State.raise
  dsimp only
  repeat' split
  all_goals rfl

theorem State.writeLoc_answered (s : State) (dev : Bool) (a : Nat) (bs : List Byte) : Answered s (s.writeLoc dev a bs) := by
  cases dev <;> exact ⟨⟨_, _, _, _, _, _, _, _, _, rfl⟩, fun _ h => h⟩

theorem State.writeLoc_queues (s : State) (dev : Bool) (a : Nat) (bs : List Byte) : (s.writeLoc dev a bs).queues = s.queues := by
  cases dev <;> rfl

/-! ### Completion records -/

/-- Where a completion record stands. -/
def QueueDesc.recordAt (d : QueueDesc) (entry : Nat) : Nat := d.cbase.toNat + 32 * (entry % 2 ^ d.rlog)

theorem State.writeCompletion_eq (s : State) (q entry : Nat) (irq : Bool) (c : Completion) : s.writeCompletion q entry irq c =
    let t := s.writeLoc (s.queue q).desc.cloc ((s.queue q).desc.recordAt entry) c.bytes
    if irq then t.countEntry (64 + q) else t := rfl

theorem State.writeCompletion_answered (s : State) (q entry : Nat) (irq : Bool) (c : Completion) :
    Answered s (s.writeCompletion q entry irq c) := by
  rw [State.writeCompletion_eq]
  dsimp only
  split
  · exact (State.writeLoc_answered ..).trans (State.countEntry_answered ..)
  · exact State.writeLoc_answered ..

theorem State.writeCompletion_queues (s : State) (q entry : Nat) (irq : Bool) (c : Completion) :
    (s.writeCompletion q entry irq c).queues = s.queues := by
  rw [State.writeCompletion_eq]
  dsimp only
  split
  · exact (State.countEntry_queues ..).trans (State.writeLoc_queues ..)
  · exact State.writeLoc_queues ..

theorem Completion.bytes_length (c : Completion) : c.bytes.length = 32 := by
  unfold Completion.bytes
  simp only [List.length_append, leBytes_length]

theorem QueuesOnly.memoryWf {s t : State} (h : QueuesOnly s t) (hw : s.memoryWf) : t.memoryWf := by
  obtain ⟨⟨_, _, _, _, rfl⟩, -⟩ := h; exact hw

theorem State.look_hbm_congr {s t : State} (h : t.hbm = s.hbm) (a : Nat) : t.look .hbm a = s.look .hbm a := by
  unfold State.look; rw [h]

theorem State.look_host_congr {s t : State} (h : t.hostMem = s.hostMem) (a : Nat) : t.look .host a = s.look .host a := by
  unfold State.look; rw [h]

theorem State.readHbm_congr {s t : State} (h : t.hbm = s.hbm) (a n : Nat) : t.readHbm a n = s.readHbm a n := by
  unfold State.readHbm; rw [h]

theorem State.readHost_congr {s t : State} (h : t.hostMem = s.hostMem) (a n : Nat) : t.readHost a n = s.readHost a n := by
  unfold State.readHost; rw [h]

theorem State.look_writeHost_outside {s : State} (h : Store.wf 0 s.hostMem = true) (b : Nat) (bs : List Byte) {a : Nat}
    (ha : a < b ∨ b + bs.length ≤ a) : (s.writeHost b bs).look .host a = s.look .host a := by
  simp only [State.look, State.writeHost, Store.get_putRun s.hostMem h]
  rw [if_neg (by omega)]

theorem State.readHost_writeHost {s : State} (h : Store.wf 0 s.hostMem = true) (b : Nat) (bs : List Byte) :
    (s.writeHost b bs).readHost b bs.length = bs := getRun_putRun h b bs

/-- Bytes of a completion record in their place, and nothing else changed (R282). -/
def State.recordedAt (s t : State) (dev : Bool) (a : Nat) (bs : List Byte) : Prop :=
  if dev then
    t.readHbm (a % 2 ^ 48) 32 = bs ∧ (∀ x, (x < a % 2 ^ 48 ∨ a % 2 ^ 48 + 32 ≤ x) → t.look .hbm x = s.look .hbm x) ∧
      s.keeps t [.hbm]
  else
    t.readHost (a % 2 ^ 64) 32 = bs ∧ (∀ x, (x < a % 2 ^ 64 ∨ a % 2 ^ 64 + 32 ≤ x) → t.look .host x = s.look .host x) ∧
      s.keeps t [.host]

theorem State.recorded_iff (s t : State) (q entry : Nat) (c : Completion) :
    s.recorded t q entry c ↔ s.recordedAt t (s.queue q).desc.cloc ((s.queue q).desc.recordAt entry) c.bytes := Iff.rfl

theorem State.writeLoc_recordedAt {s : State} (hw : s.memoryWf) (dev : Bool) (a : Nat) {bs : List Byte} (hb : bs.length = 32) :
    s.recordedAt (s.writeLoc dev a bs) dev a bs := by
  obtain ⟨hhbm, hhost, -, -⟩ := hw
  cases dev
  · have hr := State.readHost_writeHost hhost (a % 2 ^ 64) bs
    rw [hb] at hr
    exact ⟨hr, fun x hx => State.look_writeHost_outside hhost _ bs (by rwa [hb]),
      keeps_of_kept _ _ _ (State.writeHost_kept _ _ _ _ (by decide))⟩
  · have hr := State.readHbm_writeHbm hhbm (a % 2 ^ 48) bs
    rw [hb] at hr
    exact ⟨hr, fun x hx => State.look_writeHbm_outside hhbm _ bs (by rwa [hb]),
      keeps_of_kept _ _ _ (State.writeHbm_kept _ _ _ _ (by decide))⟩

/-- A record stays where only queues, the agenda and interrupts changed. -/
theorem State.recordedAt_congr {s s' t t' : State} {dev : Bool} {a : Nat} {bs : List Byte} (h : s'.recordedAt t dev a bs)
    (hs : ∀ ps, s'.kept ps = s.kept ps) (ht : ∀ ps, t'.kept ps = t.kept ps) : s.recordedAt t' dev a bs := by
  have hm {u v : State} (h : ∀ ps, u.kept ps = v.kept ps) : u.hbm = v.hbm ∧ u.hostMem = v.hostMem := by
    have := h []
    simp only [State.kept, Space.cut, List.not_mem_nil, if_false, Prod.mk.injEq] at this
    exact ⟨this.2.2.1, this.2.2.2.1⟩
  obtain ⟨sh, sw⟩ := hm hs
  obtain ⟨th, tw⟩ := hm ht
  unfold State.recordedAt at h ⊢
  cases dev
  · obtain ⟨hr, ho, hk⟩ := h
    exact ⟨(State.readHost_congr tw ..).trans hr,
      fun x hx => (State.look_host_congr tw x).trans ((ho x hx).trans (State.look_host_congr sw x)),
      State.keeps_trans (keeps_of_kept _ _ _ (hs _)) (State.keeps_trans hk (keeps_of_kept _ _ _ (ht _)))⟩
  · obtain ⟨hr, ho, hk⟩ := h
    exact ⟨(State.readHbm_congr th ..).trans hr,
      fun x hx => (State.look_hbm_congr th x).trans ((ho x hx).trans (State.look_hbm_congr sh x)),
      State.keeps_trans (keeps_of_kept _ _ _ (hs _)) (State.keeps_trans hk (keeps_of_kept _ _ _ (ht _)))⟩

theorem State.writeCompletion_recordedAt {s : State} (hw : s.memoryWf) (q entry : Nat) (irq : Bool) (c : Completion) :
    s.recordedAt (s.writeCompletion q entry irq c) (s.queue q).desc.cloc ((s.queue q).desc.recordAt entry) c.bytes := by
  rw [State.writeCompletion_eq]
  dsimp only
  have h := State.writeLoc_recordedAt hw (s.queue q).desc.cloc ((s.queue q).desc.recordAt entry) c.bytes_length
  split
  · exact State.recordedAt_congr h (fun _ => rfl) fun ps => State.countEntry_kept ..
  · exact h

/-- A record counts from any state with the same memories and queue. -/
theorem State.recorded_congr {s s' t : State} {q entry : Nat} {c : Completion} (h : s'.recorded t q entry c)
    (hs : ∀ ps, s'.kept ps = s.kept ps) (hd : (s'.queue q).desc = (s.queue q).desc) : s.recorded t q entry c := by
  rw [State.recorded_iff, hd] at h
  exact (State.recorded_iff ..).2 (State.recordedAt_congr h hs fun _ => rfl)

/-! ### A command completes -/

/-- A command that has been admitted and has completed. -/
def Command.finished (c : Command) : Command := { c with admitted := true, completed := true }

/-- A command that has completed. -/
def Command.over (c : Command) : Command := { c with completed := true }

/-- A command with the charge of a record of its buffer, and its cause unless it has one. -/
def Command.charged (charge cause : Nat) (c : Command) : Command :=
  { c with charge := c.charge + charge, cause := if c.cause = 0 then cause else c.cause }

/-- Whether all of a queue's commands of a number have been admitted and have completed. -/
def Queue.Done (x : Queue) (entry : Nat) (sub : Option Nat) : Prop :=
  ∀ k ∈ x.commands, k.entry = entry → k.sub = sub → k.completed = true ∧ k.admitted = true

theorem State.commandDone_iff (t : State) (q entry : Nat) (sub : Option Nat) :
    t.commandDone q entry sub ↔ (t.queue q).Done entry sub := Iff.rfl

/-- A change of a command that names it as before and takes back no mark. -/
structure Command.Onward (f : Command → Command) : Prop where
  entry : ∀ c, (f c).entry = c.entry
  sub : ∀ c, (f c).sub = c.sub
  completed : ∀ c, c.completed = true → (f c).completed = true
  admitted : ∀ c, c.admitted = true → (f c).admitted = true

theorem Command.over_onward : Command.Onward Command.over := ⟨fun _ => rfl, fun _ => rfl, fun _ _ => rfl, fun _ h => h⟩

theorem Command.charged_onward (charge cause : Nat) : Command.Onward (Command.charged charge cause) :=
  ⟨fun _ => rfl, fun _ => rfl, fun _ h => h, fun _ h => h⟩

/-- A command of a queue after a change of those of a number. -/
theorem Queue.mem_withCommand {entry : Nat} {sub : Option Nat} {f : Command → Command} {x : Queue} {k : Command}
    (h : k ∈ (x.withCommand entry sub f).commands) :
    ∃ c ∈ x.commands, (c.entry = entry ∧ c.sub = sub ∧ k = f c) ∨ (¬(c.entry = entry ∧ c.sub = sub) ∧ k = c) := by
  obtain ⟨c, hc, e⟩ := List.mem_map.1 h
  refine ⟨c, hc, ?_⟩
  split at e
  · rename_i hcs
    exact .inl ⟨hcs.1, hcs.2, e.symm⟩
  · rename_i hcs
    exact .inr ⟨hcs, e.symm⟩

theorem Queue.done_finished (x : Queue) (entry : Nat) (sub : Option Nat) : (x.withCommand entry sub Command.finished).Done entry sub := by
  intro k hk he hs
  obtain ⟨c, -, ⟨-, -, rfl⟩ | ⟨hn, rfl⟩⟩ := Queue.mem_withCommand hk
  · exact ⟨rfl, rfl⟩
  · exact absurd ⟨he, hs⟩ hn

theorem Queue.Done.withCommand {x : Queue} {entry e : Nat} {sub s : Option Nat} {f : Command → Command} (h : x.Done entry sub)
    (hf : Command.Onward f) : (x.withCommand e s f).Done entry sub := by
  intro k hk he hs
  obtain ⟨c, hc, ⟨-, -, rfl⟩ | ⟨-, rfl⟩⟩ := Queue.mem_withCommand hk
  · obtain ⟨h1, h2⟩ := h c hc ((hf.entry c).symm.trans he) ((hf.sub c).symm.trans hs)
    exact ⟨hf.completed c h1, hf.admitted c h2⟩
  · exact h k hc he hs

theorem Queue.Done.advanced {x y : Queue} {entry : Nat} {sub : Option Nat} (h : x.Done entry sub) (hy : Advanced x y) :
    y.Done entry sub := by
  intro k hk he hs
  obtain ⟨c, hc, hun⟩ := hy.mem hk
  obtain ⟨h1, h2, -, -, h5, h6, -⟩ := Command.fields_of_unready hun
  obtain ⟨g1, g2⟩ := h c hc (h1.symm.trans he) (h2.symm.trans hs)
  exact ⟨h5.trans g1, h6.trans g2⟩

/-- The irq bit of a queue's command of a number. -/
def Queue.irqOf (x : Queue) (entry : Nat) (sub : Option Nat) : Bool :=
  ((x.commands.find? fun c => c.entry == entry && c.sub == sub).map (·.irq)).getD false

theorem State.completeCommand_none (s : State) (q entry : Nat) (r : Completion) : s.completeCommand q entry none r =
    ((s.modQueue q (Queue.withCommand entry none Command.finished)).writeCompletion q entry ((s.queue q).irqOf entry none)
      r).advanceQueue q := rfl

theorem State.completeCommand_some (s : State) (q entry i : Nat) (r : Completion) : s.completeCommand q entry (some i) r =
    (((s.modQueue q (Queue.withCommand entry (some i) Command.finished)).modQueue q
      (Queue.withCommand entry none (Command.charged r.charge r.cause))).closeIndirect q entry).advanceQueue q := rfl

theorem State.closeIndirect_eq (s : State) (q entry : Nat) : s.closeIndirect q entry =
    match (s.queue q).commands.find? (fun c => c.entry == entry && c.sub.isNone) with
    | none => s
    | some c =>
      if c.expanded && c.admitted && !c.completed && (s.queue q).openKids entry == 0 then
        (s.modQueue q (Queue.withCommand entry none Command.over)).writeCompletion q entry c.irq
          (plainCompletion c c.cause 3 c.charge)
      else s := rfl

/-- An indirect command is left as it is, or completes with its record. -/
theorem State.closeIndirect_cases (s : State) (q entry : Nat) : s.closeIndirect q entry = s ∨
    ((s.queue q).openKids entry = 0 ∧ ∃ irq r, s.closeIndirect q entry =
      (s.modQueue q (Queue.withCommand entry none Command.over)).writeCompletion q entry irq r) := by
  rw [State.closeIndirect_eq]
  split
  · exact .inl rfl
  split
  · rename_i h
    exact .inr ⟨by simpa using (Bool.and_eq_true_iff.1 h).2, _, _, rfl⟩
  · exact .inl rfl

theorem State.closeIndirect_answered (s : State) (q entry : Nat) : Answered s (s.closeIndirect q entry) := by
  rcases s.closeIndirect_cases q entry with h | ⟨-, irq, r, h⟩ <;> rw [h]
  · exact .refl s
  · exact (State.modQueue_queuesOnly ..).answered.trans (State.writeCompletion_answered ..)

theorem State.closeIndirect_queue (s : State) (q entry : Nat) : (s.closeIndirect q entry).queue q = s.queue q ∨
    (s.closeIndirect q entry).queue q = (s.queue q).withCommand entry none Command.over := by
  rcases s.closeIndirect_cases q entry with h | ⟨-, irq, r, h⟩ <;> rw [h]
  · exact .inl rfl
  · right
    rw [queue_congr (State.writeCompletion_queues ..), State.queue_modQueue_self]

theorem State.completeCommand_answered (s : State) (q entry : Nat) (sub : Option Nat) (r : Completion) :
    Answered s (s.completeCommand q entry sub r) := by
  cases sub with
  | none =>
    rw [State.completeCommand_none]
    exact (State.modQueue_queuesOnly ..).answered.trans ((State.writeCompletion_answered ..).trans (State.advanceQueue_only ..).answered)
  | some i =>
    rw [State.completeCommand_some]
    exact (State.modQueue_queuesOnly ..).answered.trans ((State.modQueue_queuesOnly ..).answered.trans
      ((State.closeIndirect_answered ..).trans (State.advanceQueue_only ..).answered))

/-- What a queue holds after its command of the ring has completed. -/
theorem State.completeCommand_queue (s : State) (q entry : Nat) (r : Completion) :
    Advanced ((s.queue q).withCommand entry none Command.finished) ((s.completeCommand q entry none r).queue q) := by
  rw [State.completeCommand_none]
  obtain ⟨y, hy, hs⟩ := State.advanceQueue_spec ((s.modQueue q (Queue.withCommand entry none Command.finished)).writeCompletion q entry
    ((s.queue q).irqOf entry none) r) q
  rw [queue_congr (State.writeCompletion_queues ..), State.queue_modQueue_self] at hy
  rw [hs.here]
  exact hy

/-- What a queue holds after a record of a buffer has completed: its own mark, and a change of the indirect command. -/
theorem State.completeRecord_queue (s : State) (q entry i : Nat) (r : Completion) :
    ∃ x, Advanced x ((s.completeCommand q entry (some i) r).queue q) ∧
      (x = ((s.queue q).withCommand entry (some i) Command.finished).withCommand entry none (Command.charged r.charge r.cause) ∨
        x = (((s.queue q).withCommand entry (some i) Command.finished).withCommand entry none
          (Command.charged r.charge r.cause)).withCommand entry none Command.over) := by
  rw [State.completeCommand_some]
  have hc := State.closeIndirect_queue ((s.modQueue q (Queue.withCommand entry (some i) Command.finished)).modQueue q
      (Queue.withCommand entry none (Command.charged r.charge r.cause))) q entry
  obtain ⟨y, hy, hs⟩ := State.advanceQueue_spec (((s.modQueue q (Queue.withCommand entry (some i) Command.finished)).modQueue q
      (Queue.withCommand entry none (Command.charged r.charge r.cause))).closeIndirect q entry) q
  rw [State.queue_modQueue_self, State.queue_modQueue_self] at hc
  rw [hs.here]
  exact ⟨_, hy, hc⟩

theorem State.completeCommand_done (s : State) (q entry : Nat) (sub : Option Nat) (r : Completion) :
    (s.completeCommand q entry sub r).commandDone q entry sub := by
  rw [State.commandDone_iff]
  cases sub with
  | none => exact ((s.queue q).done_finished entry none).advanced (s.completeCommand_queue q entry r)
  | some i =>
    have h := ((s.queue q).done_finished entry (some i)).withCommand (e := entry) (s := none) (Command.charged_onward r.charge r.cause)
    obtain ⟨x, hx, rfl | rfl⟩ := s.completeRecord_queue q entry i r
    · exact h.advanced hx
    · exact (h.withCommand Command.over_onward).advanced hx

theorem State.completeCommand_recorded (s : State) (hw : s.memoryWf) (q entry : Nat) (r : Completion) :
    s.recorded (s.completeCommand q entry none r) q entry r := by
  rw [State.recorded_iff, State.completeCommand_none]
  have ho := s.modQueue_queuesOnly q (Queue.withCommand entry none Command.finished)
  have h := State.writeCompletion_recordedAt (ho.memoryWf hw) q entry ((s.queue q).irqOf entry none) r
  rw [State.queue_modQueue_self] at h
  exact State.recordedAt_congr h ho.kept (State.advanceQueue_only ..).kept

/-! ### A command with a breach -/

/-- A command with a cause unless it has one. -/
def Command.blamed (cause : Nat) (c : Command) : Command := { c with cause := if c.cause = 0 then cause else c.cause }

/-- Whether a command is record i of an entry's buffer or a later one. -/
def Command.from_ (entry i : Nat) (k : Command) : Bool :=
  k.entry == entry && (match k.sub with
    | some j => decide (i ≤ j)
    | none => false)

/-- A queue whose records of a buffer from one on are gone. -/
def Queue.without (entry i : Nat) (x : Queue) : Queue := { x with commands := x.commands.filter fun k => !k.from_ entry i }

theorem State.stopBuffer_eq (s : State) (q : Nat) (c : Command) (cause : Nat) : s.stopBuffer q c cause =
    ((s.modQueue q (Queue.without c.entry (c.sub.getD 0))).modQueue q
      (Queue.withCommand c.entry none (Command.blamed cause))).advanceQueue q := rfl

theorem State.stopBuffer_queuesOnly (s : State) (q : Nat) (c : Command) (cause : Nat) : QueuesOnly s (s.stopBuffer q c cause) := by
  rw [State.stopBuffer_eq]
  exact (State.modQueue_queuesOnly ..).trans ((State.modQueue_queuesOnly ..).trans (State.advanceQueue_only ..))

theorem State.stopBuffer_queue (s : State) (q : Nat) (c : Command) (cause : Nat) :
    Advanced (((s.queue q).without c.entry (c.sub.getD 0)).withCommand c.entry none (Command.blamed cause))
      ((s.stopBuffer q c cause).queue q) := by
  rw [State.stopBuffer_eq]
  obtain ⟨y, hy, hs⟩ := State.advanceQueue_spec ((s.modQueue q (Queue.without c.entry (c.sub.getD 0))).modQueue q
      (Queue.withCommand c.entry none (Command.blamed cause))) q
  rw [State.queue_modQueue_self, State.queue_modQueue_self] at hy
  rw [hs.here]
  exact hy

theorem Command.blamed_cause {cause : Nat} (h : cause ≠ 0) (c : Command) : (c.blamed cause).cause ≠ 0 := by
  unfold Command.blamed
  dsimp only
  split
  · exact h
  · assumption

/-- After a buffer has stopped at record i, the queue holds only earlier records of it, and its command a cause. -/
theorem State.stopBuffer_leaves (s : State) (q : Nat) {c : Command} {i : Nat} (cause : Nat) (hi : c.sub = some i) :
    (∀ k ∈ ((s.stopBuffer q c cause).queue q).commands, ∀ j, k.entry = c.entry → k.sub = some j → j < i) ∧
    ∀ k ∈ ((s.stopBuffer q c cause).queue q).commands, k.entry = c.entry → k.sub = none → cause ≠ 0 → k.cause ≠ 0 := by
  have hy := s.stopBuffer_queue q c cause
  rw [hi] at hy
  refine ⟨fun k hk j he hs => ?_, fun k hk he hs hc => ?_⟩
  · obtain ⟨k1, hk1, hun⟩ := hy.mem hk
    obtain ⟨h1, h2, -⟩ := Command.fields_of_unready hun
    obtain ⟨k2, hk2, ⟨-, hn, rfl⟩ | ⟨-, rfl⟩⟩ := Queue.mem_withCommand hk1
    · exact nomatch (hs.symm.trans h2).trans hn
    · have hf := (List.mem_filter.1 hk2).2
      rw [Command.from_, ← h1, ← h2, he, hs] at hf
      simpa using hf
  · obtain ⟨k1, hk1, hun⟩ := hy.mem hk
    obtain ⟨h1, h2, -, -, -, -, h7⟩ := Command.fields_of_unready hun
    rw [h7]
    obtain ⟨k2, -, ⟨-, -, rfl⟩ | ⟨hn, rfl⟩⟩ := Queue.mem_withCommand hk1
    · exact Command.blamed_cause hc k2
    · exact absurd ⟨h1.symm.trans he, h2.symm.trans hs⟩ hn

theorem State.badCommand_fails {s : State} (hw : s.memoryWf) (q : Nat) (c : Command) (cause kind : Nat) :
    CommandFails s (s.badCommand q c cause kind) q c cause kind := by
  cases hs : c.sub with
  | none =>
    have he : s.badCommand q c cause kind =
        (s.logEvent (.command q cause)).completeCommand q c.entry none (plainCompletion c cause kind 0) := by
      unfold State.badCommand
      rw [hs]
    rw [he]
    have ha := (s.logEvent (.command q cause)).completeCommand_answered q c.entry none (plainCompletion c cause kind 0)
    exact ⟨ha.logEvents, ha.files, fun _ => ⟨State.recorded_congr ((s.logEvent (.command q cause)).completeCommand_recorded hw ..) (fun _ => rfl) rfl,
      State.completeCommand_done _ q c.entry none _⟩, fun _ hi => nomatch hs.symm.trans hi⟩
  | some i =>
    have he : s.badCommand q c cause kind = (s.logEvent (.command q cause)).stopBuffer q c cause := by
      unfold State.badCommand
      rw [hs]
    rw [he]
    have ho := (s.logEvent (.command q cause)).stopBuffer_queuesOnly q c cause
    exact ⟨ho.logEvents, ho.files, fun hn => (nomatch hn.symm.trans hs), fun j hj =>
      ⟨keeps_of_kept _ _ _ ((ho.kept []).trans rfl), (s.logEvent (.command q cause)).stopBuffer_leaves q cause hj⟩⟩

end Sys2Proof.Machine
end

section
/-! PROOFS. Queues: the commands at the head of a queue. -/
namespace Sys2Proof.Machine

theorem Queue.head_mem {x : Queue} {c : Command} (h : x.head = some c) : c ∈ x.commands := by
  unfold Queue.head at h
  split at h
  · rename_i hf
    split at h
    · cases h
      exact List.mem_of_find?_eq_some hf
    · cases h
  · cases h

theorem QueuesOnly.awaits_foldl {α : Type} {f : State → α → State} (h : ∀ s x, QueuesOnly s (f s x)) {x : α} {e : Ev} {n : Nat}
    (hx : ∀ s, s.now = n → (f s x).awaits n e) {l : List α} (hl : x ∈ l) : ∀ {s : State}, s.now = n → (l.foldl f s).awaits n e := by
  induction l with
  | nil => exact nomatch hl
  | cons y r ih =>
    intro s hs
    rcases List.mem_cons.1 hl with rfl | hr
    · exact (foldl_queuesOnly f h r (f s x)).awaits (hx s hs)
    · exact ih hr ((h s y).now.trans hs)

/-! ### The nop, and commands with a breach -/

theorem exec_commandNop {s : State} {q : Nat} {c : Command} (ha : s.arg = .commandNop q) (hh : (s.queue q).head = some c)
    (hb : c.body = .nop) : exec .commandNop s = .next (s.completeCommand q c.entry c.sub (plainCompletion c 0 3 0)) := by
  show execCommandNop s = _
  unfold execCommandNop
  rw [ha]
  dsimp only
  rw [hh]
  dsimp only
  rw [hb]

/-- The command that a queue's CI passes. -/
theorem Queue.advanceCi_one {x : Queue} {c : Command} {rest : List Command} (hx : x.commands = c :: rest) (hc : c.completed = true)
    (hs : c.sub = none) (hr : ∀ k ∈ rest, k.completed = false) :
    x.advanceCi.desc.ci = x.desc.ci + 1 ∧ x.advanceCi.commands = rest := by
  have ht : rest.takeWhile (·.completed) = [] := by
    cases rest with
    | nil => rfl
    | cons k r => rw [List.takeWhile_cons, hr k (List.mem_cons_self ..)]; rfl
  have htake : x.commands.takeWhile (·.completed) = [c] := by
    rw [hx, List.takeWhile_cons, hc, ht]
    rfl
  unfold Queue.advanceCi
  rw [htake, hx]
  refine ⟨?_, rfl⟩
  simp only [List.filter_cons, hs, Option.isNone_none, if_true, List.filter_nil, List.length_singleton]
  rfl

theorem commandNop_passes {s : State} {q : Nat} {c : Command} {rest : List Command} (r : Completion) (hs : c.sub = none)
    (hc : (s.queue q).commands = c :: rest) (hr : ∀ k ∈ rest, k.entry ≠ c.entry ∧ k.completed = false) :
    ((s.completeCommand q c.entry none r).queue q).desc.ci = (s.queue q).desc.ci + 1 ∧
      ((s.completeCommand q c.entry none r).queue q).commands.length = rest.length := by
  have hy := s.completeCommand_queue q c.entry r
  have hx : ((s.queue q).withCommand c.entry none Command.finished).commands = c.finished :: rest := by
    have hmap : rest.map (fun k => if k.entry = c.entry ∧ k.sub = none then k.finished else k) = rest :=
      (List.map_congr_left fun k hk => if_neg fun h => (hr k hk).1 h.1).trans (List.map_id _)
    unfold Queue.withCommand
    rw [hc, List.map_cons, if_pos ⟨rfl, hs⟩, hmap]
  obtain ⟨h1, h2⟩ := Queue.advanceCi_one hx rfl hs fun k hk => (hr k hk).2
  refine ⟨(congrArg (·.ci) hy.desc).trans h1, ?_⟩
  have hl := congrArg List.length hy.commands
  rwa [List.length_map, List.length_map, h2] at hl

theorem commandNop_effect {s : State} {q : Nat} {c : Command} (ha : s.arg = .commandNop q) (hh : (s.queue q).head = some c)
    (hb : c.body = .nop) (hw : s.memoryWf) :
    ∃ (t : State), exec .commandNop s = .next t ∧ sameFiles s t ∧ t.commandDone q c.entry c.sub ∧
      (c.sub = none → s.recorded t q c.entry (plainCompletion c 0 3 0)) ∧
      ∀ rest, c.sub = none → (s.queue q).commands = c :: rest → (∀ k ∈ rest, k.entry ≠ c.entry ∧ k.completed = false) →
        (t.queue q).desc.ci = (s.queue q).desc.ci + 1 ∧ (t.queue q).commands.length = rest.length := by
  refine ⟨_, exec_commandNop ha hh hb, (s.completeCommand_answered ..).files, s.completeCommand_done q c.entry c.sub _, fun hs => ?_,
    fun rest hs hc hr => ?_⟩
  · rw [hs]
    exact s.completeCommand_recorded hw ..
  · rw [hs]
    exact commandNop_passes _ hs hc hr

theorem exec_badCommand {s : State} {q : Nat} {c : Command} {cause kind : Nat} (hh : (s.queue q).head = some c)
    (hb : c.body = .bad cause kind) :
    (s.arg = .commandNop q → exec .commandNop s = .next (s.badCommand q c cause kind)) ∧
    (s.arg = .commandHeat q → exec .commandHeat s = .next (s.badCommand q c cause kind)) ∧
    (s.arg = .commandGraph q → exec .commandGraph s = .next (s.badCommand q c cause kind)) := by
  refine ⟨fun ha => ?_, fun ha => ?_, fun ha => ?_⟩
  · show execCommandNop s = _
    unfold execCommandNop
    rw [ha]
    dsimp only
    rw [hh]
    dsimp only
    rw [hb]
  · show execCommandHeat s = _
    unfold execCommandHeat
    rw [ha]
    dsimp only
    rw [hh]
    dsimp only
    rw [hb]
  · show execCommandGraph s = _
    unfold execCommandGraph
    rw [ha]
    dsimp only
    rw [hh]
    dsimp only
    rw [hb]

theorem commandHeat_waits {s : State} {q : Nat} {c : Command} (ha : s.arg = .commandHeat q) (hh : (s.queue q).head = some c)
    (hb : ∃ r a args, c.body = .heat r a args) : exec .commandHeat s = .next s := by
  obtain ⟨r, a, args, hb⟩ := hb
  show execCommandHeat s = _
  unfold execCommandHeat
  rw [ha]
  dsimp only
  rw [hh]
  dsimp only
  rw [hb]

/-! ### The walk of a graph that goes on -/

/-- A node but for the cycle at which it became ready. -/
def NodeRun.unmarked (n : NodeRun) : NodeRun := { n with readyAt := 0 }

/-- A node that became ready at a cycle. -/
def NodeRun.readiedAt (c : Nat) (n : NodeRun) : NodeRun := { n with readyAt := c }

/-- A graph with other nodes. -/
def Graph.withNodes (ns : List NodeRun) (g : Graph) : Graph := { g with nodes := ns }

/-- A queue with a change of a node of its graph. -/
def Queue.withNode (i : Nat) (f : NodeRun → NodeRun) (x : Queue) : Queue :=
  { x with graph := x.graph.map fun g => { g with nodes := modifyNth g.nodes i f } }

theorem State.modNode_eq (s : State) (q i : Nat) (f : NodeRun → NodeRun) : s.modNode q i f = s.modQueue q (Queue.withNode i f) := rfl

/-- What the walk does with a node. -/
def State.walkNode (q : Nat) (s : State) (e : Nat × NodeRun) : State :=
  if e.2.isReady ∧ e.2.readyAt = 0 then
    let s := s.modNode q e.1 (NodeRun.readiedAt s.now)
    match nodeEvent q e.1 e.2.node with
    | some ev => s.push s.now nodeRank ev
    | none => s
  else if e.2.isReady ∧ e.2.node.kind = 3 ∧ !(s.agenda.any fun d => d.ev == .graphEnd q) then s.push s.now nodeRank (.graphEnd q)
  else s

theorem State.walkGraph_goes {s : State} {q : Nat} {g : Graph} (hg : (s.queue q).graph = some g) (hs : g.stopped = false) :
    s.walkGraph q = ((List.range g.nodes.length).zip g.nodes).foldl (State.walkNode q) s := by
  unfold State.walkGraph
  rw [hg]
  dsimp only
  rw [hs]
  rfl

/-- A state in which the graph of a queue has been walked: its nodes may have become ready, steps are on the agenda. -/
structure Walked (q : Nat) (s t : State) : Prop where
  only : QueuesOnly s t
  graph : ∀ g, (s.queue q).graph = some g → ∃ ns, (t.queue q).graph = some (g.withNodes ns) ∧
    ns.map NodeRun.unmarked = g.nodes.map NodeRun.unmarked
  none : (s.queue q).graph = none → (t.queue q).graph = none

theorem Walked.refl (q : Nat) (s : State) : Walked q s s := ⟨.refl s, fun g h => ⟨g.nodes, h, rfl⟩, id⟩

theorem Walked.trans {q : Nat} {s t u : State} (h : Walked q s t) (h' : Walked q t u) : Walked q s u := by
  refine ⟨h.only.trans h'.only, fun g hg => ?_, fun hn => h'.none (h.none hn)⟩
  obtain ⟨ns, h1, h2⟩ := h.graph g hg
  obtain ⟨ms, g1, g2⟩ := h'.graph _ h1
  exact ⟨ms, g1, g2.trans h2⟩

theorem foldl_walked {α : Type} {q : Nat} (f : State → α → State) (h : ∀ s x, Walked q s (f s x)) (l : List α) :
    ∀ s, Walked q s (l.foldl f s) := by
  induction l with
  | nil => exact .refl q
  | cons x r ih => exact fun s => (h s x).trans (ih _)

theorem Scheduled.walked {s t : State} (h : Scheduled s t) (q : Nat) : Walked q s t :=
  ⟨h.queuesOnly, fun g hg => ⟨g.nodes, by rw [queue_congr h.queues]; exact hg, rfl⟩, fun hn => by rwa [queue_congr h.queues]⟩

theorem State.push_walked (s : State) (q c r : Nat) (e : Ev) : Walked q s (s.push c r e) := (State.push_pushed ..).scheduled.walked q

/-- A change of a node that leaves all but the cycle at which it became ready. -/
theorem State.modNode_walked (s : State) (q i : Nat) (f : NodeRun → NodeRun) (hf : ∀ n, (f n).unmarked = n.unmarked) :
    Walked q s (s.modNode q i f) := by
  rw [State.modNode_eq]
  refine ⟨State.modQueue_queuesOnly .., fun g hg => ⟨modifyNth g.nodes i f, ?_, map_modifyNth _ _ hf _ _⟩, fun hn => ?_⟩
  · rw [State.queue_modQueue_self]
    unfold Queue.withNode
    rw [hg]
    rfl
  · rw [State.queue_modQueue_self]
    unfold Queue.withNode
    rw [hn]
    rfl

theorem State.walkNode_walked (q : Nat) (s : State) (e : Nat × NodeRun) : Walked q s (s.walkNode q e) := by
  have hm := s.modNode_walked q e.1 (NodeRun.readiedAt s.now) fun _ => rfl
  unfold State.walkNode
  split
  · dsimp only
    split
    · exact hm.trans (State.push_walked ..)
    · exact hm
  · split
    · exact State.push_walked ..
    · exact .refl q s

theorem State.walkNode_awaits {q i : Nat} {n : NodeRun} {e : Ev} (hr : n.isReady = true) (h0 : n.readyAt = 0)
    (he : nodeEvent q i n.node = some e) (s : State) : (s.walkNode q (i, n)).awaits s.now e := by
  unfold State.walkNode
  rw [if_pos ⟨hr, h0⟩]
  dsimp only
  rw [he]
  exact State.push_awaits ..

theorem State.walkGraph_walked {s : State} {q : Nat} {g : Graph} (hg : (s.queue q).graph = some g) (hs : g.stopped = false) :
    Walked q s (s.walkGraph q) := by
  rw [State.walkGraph_goes hg hs]
  exact foldl_walked _ (State.walkNode_walked q) _ s

theorem State.walkGraph_awaits {s : State} {q i : Nat} {g : Graph} {n : NodeRun} {e : Ev} (hg : (s.queue q).graph = some g)
    (hs : g.stopped = false) (hn : g.nodes[i]? = some n) (hr : n.isReady = true) (h0 : n.readyAt = 0)
    (he : nodeEvent q i n.node = some e) : (s.walkGraph q).awaits s.now e := by
  rw [State.walkGraph_goes hg hs]
  exact QueuesOnly.awaits_foldl (fun s e => (s.walkNode_walked q e).only) (x := (i, n))
    (fun u hu => hu ▸ State.walkNode_awaits hr h0 he u) (mem_zip_range hn) rfl

/-- What a walk leaves of the nodes but the cycle at which they became ready. -/
theorem map_of_unmarked {α : Type} {f : NodeRun → α} (hf : ∀ n, f n.unmarked = f n) {ns ms : List NodeRun}
    (h : ns.map NodeRun.unmarked = ms.map NodeRun.unmarked) : ns.map f = ms.map f := by
  have hm (l : List NodeRun) : l.map f = (l.map NodeRun.unmarked).map f := by
    rw [List.map_map]
    exact List.map_congr_left fun n _ => (hf n).symm
  rw [hm ns, h, ← hm]

/-! ### A graph becomes active -/

/-- A node that has not run. -/
def Node.fresh (n : Node) : NodeRun := { node := n, count := n.init, ran := false, running := false, readyAt := 0, moved := 0, held := [] }

/-- The graph that a command makes active. -/
def Command.graphOf (c : Command) (ns : List Node) : Graph :=
  { entry := c.entry, sub := c.sub, nodes := ns.map Node.fresh, charge := 0, cause := 0, stopped := false }

/-- A command that has been admitted. -/
def Command.taken (c : Command) : Command := { c with admitted := true }

/-- A queue with an active graph. -/
def Queue.activated (g : Graph) (x : Queue) : Queue := { x with graph := some g }

theorem exec_commandGraph {s : State} {q : Nat} {c : Command} {ns : List Node} (ha : s.arg = .commandGraph q)
    (hh : (s.queue q).head = some c) (hb : c.body = .graph ns) : exec .commandGraph s = .next
      (((s.modCommand q c.entry c.sub Command.taken).modQueue q (Queue.activated (c.graphOf ns))).walkGraph q) := by
  show execCommandGraph s = _
  unfold execCommandGraph
  rw [ha]
  dsimp only
  rw [hh]
  dsimp only
  rw [hb]
  rfl

theorem commandGraph_effect {s : State} {q : Nat} {c : Command} {ns : List Node} (ha : s.arg = .commandGraph q)
    (hh : (s.queue q).head = some c) (hb : c.body = .graph ns) :
    ∃ (t : State) (g : Graph), exec .commandGraph s = .next t ∧ sameFiles s t ∧ s.keeps t [] ∧ (t.queue q).graph = some g ∧
      g.entry = c.entry ∧ g.sub = c.sub ∧ g.stopped = false ∧ g.nodes.map (·.node) = ns ∧
      g.nodes.map (·.count) = ns.map (·.init) ∧
      ∀ i n e, ns[i]? = some n → n.init = 0 → nodeEvent q i n = some e → t.awaits s.now e := by
  have ho := (State.modQueue_queuesOnly s q (Queue.withCommand c.entry c.sub Command.taken)).trans
    (State.modQueue_queuesOnly _ q (Queue.activated (c.graphOf ns)))
  have hg : (((s.modQueue q (Queue.withCommand c.entry c.sub Command.taken)).modQueue q
      (Queue.activated (c.graphOf ns))).queue q).graph = some (c.graphOf ns) := by
    rw [State.queue_modQueue_self]
    rfl
  have hw := State.walkGraph_walked hg rfl
  obtain ⟨ms, hm, hu⟩ := hw.graph _ hg
  have hall := ho.trans hw.only
  refine ⟨_, _, exec_commandGraph ha hh hb, hall.files, hall.keeps, hm, rfl, rfl, rfl, ?_, ?_, fun i n e hn hi he => ?_⟩
  · refine (map_of_unmarked (f := (·.node)) (fun _ => rfl) hu).trans ?_
    show (ns.map Node.fresh).map _ = ns
    rw [List.map_map]
    exact List.map_id _
  · refine (map_of_unmarked (f := (·.count)) (fun _ => rfl) hu).trans ?_
    show (ns.map Node.fresh).map _ = _
    rw [List.map_map]
    rfl
  · refine State.walkGraph_awaits (n := n.fresh) hg rfl ?_ ?_ rfl he
    · show (ns.map Node.fresh)[i]? = _
      rw [List.getElem?_map, hn]
      rfl
    · unfold NodeRun.isReady Node.fresh
      rw [hi]
      rfl

end Sys2Proof.Machine
end

section
/-! PROOFS. Queues: the indirect command at the head of a queue. -/
namespace Sys2Proof.Machine

/-- A queue whose indirect command has been replaced by its records and what is left of it. -/
def Queue.expandedBy (c : Command) (r : List Command × Command) (x : Queue) : Queue :=
  { x with commands := (x.commands.map fun k =>
      if k.entry = c.entry ∧ k.sub.isNone then r.1 ++ [r.2.unready] else [k]).flatten }

theorem Queue.mem_expandedBy {c k : Command} {r : List Command × Command} {x : Queue} (hc : c ∈ x.commands) (hs : c.sub = none)
    (hk : k ∈ r.1 ++ [r.2.unready]) : k ∈ (x.expandedBy c r).commands :=
  List.mem_flatten.2 ⟨_, List.mem_map.2 ⟨c, hc, if_pos ⟨rfl, by rw [hs]; rfl⟩⟩, hk⟩

/-- The records of a volatile buffer as they are read, with what is left of their command. -/
def State.readBuffer (s : State) (c : Command) (addr n : Nat) (bad : Option Nat) : List Command × Command :=
  match bad with
  | some cause => ([], { c with body := .bad cause 3 })
  | none => s.expand c true addr n

theorem exec_commandIndirect {s : State} {q : Nat} {c : Command} {vol : Bool} {p n : Nat} (ha : s.arg = .commandIndirect q)
    (hh : (s.queue q).head = some c) (hb : c.body = .indirect vol p n) : exec .commandIndirect s =
      if c.expanded then
        .next (((s.modCommand q c.entry none Command.taken).closeIndirect q c.entry).advanceQueue q)
      else
        let ks := s.bufferStacks true p n
        let x := s.freeForAll ks s.now
        if s.now < x then .next (s.push x 74 (.commandIndirect q))
        else
          let u := s.useStacks ks
          .next ((u.2.modQueue q (Queue.expandedBy c (u.2.readBuffer c p n u.1))).advanceQueue q) := by
  show execCommandIndirect s = _
  unfold execCommandIndirect
  rw [ha]
  dsimp only
  rw [hh]
  dsimp only
  rw [hb]
  rfl

/-! ### The command after its records -/

theorem Queue.openKids_pos {x : Queue} {entry : Nat} {k : Command} (hk : k ∈ x.commands) (he : k.entry = entry) (hs : k.sub.isSome = true)
    (hn : k.completed = false) : x.openKids entry ≠ 0 := by
  refine Nat.ne_of_gt (List.length_pos_of_mem (a := k) (List.mem_filter.2 ⟨hk, ?_⟩))
  rw [he, hs, hn, beq_self_eq_true]
  rfl

/-- Whether a queue's command of an entry has been admitted. -/
def Queue.Admitted (x : Queue) (entry : Nat) : Prop := ∀ k ∈ x.commands, k.entry = entry → k.sub = none → k.admitted = true

theorem Queue.admitted_taken (x : Queue) (entry : Nat) : (x.withCommand entry none Command.taken).Admitted entry := by
  intro k hk he hs
  obtain ⟨c, -, ⟨-, -, rfl⟩ | ⟨hn, rfl⟩⟩ := Queue.mem_withCommand hk
  · rfl
  · exact absurd ⟨he, hs⟩ hn

theorem Queue.Admitted.over {x : Queue} {entry : Nat} (h : x.Admitted entry) : (x.withCommand entry none Command.over).Admitted entry := by
  intro k hk he hs
  obtain ⟨c, hc, ⟨g1, g2, rfl⟩ | ⟨-, rfl⟩⟩ := Queue.mem_withCommand hk
  · exact h c hc g1 g2
  · exact h k hc he hs

theorem Queue.Admitted.advanced {x y : Queue} {entry : Nat} (h : x.Admitted entry) (hy : Advanced x y) : y.Admitted entry := by
  intro k hk he hs
  obtain ⟨c, hc, hun⟩ := hy.mem hk
  obtain ⟨h1, h2, -, -, -, h6, -⟩ := Command.fields_of_unready hun
  exact h6.trans (h c hc (h1.symm.trans he) (h2.symm.trans hs))

theorem commandIndirect_admits {s : State} {q : Nat} {c : Command} {vol : Bool} {p n : Nat} (ha : s.arg = .commandIndirect q)
    (hh : (s.queue q).head = some c) (hb : c.body = .indirect vol p n) (hx : c.expanded = true) :
    ∃ (t : State), exec .commandIndirect s = .next t ∧ sameFiles s t ∧
      (∀ k ∈ (t.queue q).commands, k.entry = c.entry → k.sub = none → k.admitted = true) ∧
      ((∃ k ∈ (s.queue q).commands, k.entry = c.entry ∧ k.sub.isSome ∧ k.completed = false) → s.keeps t []) := by
  have he := exec_commandIndirect ha hh hb
  rw [if_pos hx] at he
  have hm := State.modQueue_queuesOnly s q (Queue.withCommand c.entry none Command.taken)
  have hc := State.closeIndirect_answered (s.modQueue q (Queue.withCommand c.entry none Command.taken)) q c.entry
  have hq := State.closeIndirect_queue (s.modQueue q (Queue.withCommand c.entry none Command.taken)) q c.entry
  have hcases := State.closeIndirect_cases (s.modQueue q (Queue.withCommand c.entry none Command.taken)) q c.entry
  rw [State.queue_modQueue_self] at hq hcases
  obtain ⟨y, hy, hs⟩ := State.advanceQueue_spec ((s.modQueue q (Queue.withCommand c.entry none Command.taken)).closeIndirect q c.entry) q
  refine ⟨_, he, (hm.answered.trans (hc.trans hs.1.answered)).files, ?_, fun ⟨k, hk, hke, hks, hkn⟩ => ?_⟩
  · show ((((s.modQueue q (Queue.withCommand c.entry none Command.taken)).closeIndirect q c.entry).advanceQueue q).queue q).Admitted c.entry
    rw [hs.here]
    have hadm := (s.queue q).admitted_taken c.entry
    rcases hq with hq | hq
    · exact (hq ▸ hadm).advanced hy
    · exact (hq ▸ hadm.over).advanced hy
  · rcases hcases with hcl | ⟨h0, -⟩
    · refine (hm.trans (.trans ?_ hs.1)).keeps
      rw [hcl]
      exact .refl _
    · have hk' : k ∈ ((s.queue q).withCommand c.entry none Command.taken).commands :=
        Queue.mem_withCommand_other hk fun h => by rw [h.2] at hks; cases hks
      exact absurd h0 (Queue.openKids_pos hk' hke hks hkn)

/-! ### The read of the buffer -/

theorem commandIndirect_waits {s : State} {q : Nat} {c : Command} {vol : Bool} {p n : Nat} (ha : s.arg = .commandIndirect q)
    (hh : (s.queue q).head = some c) (hb : c.body = .indirect vol p n) (hx : c.expanded = false)
    (hlt : s.now < s.freeForAll (s.bufferStacks true p n) s.now) :
    ∃ (t : State), exec .commandIndirect s = .next t ∧ sameFiles s t ∧ s.keeps t [] ∧ t.queues = s.queues ∧
      t.awaits (s.freeForAll (s.bufferStacks true p n) s.now) (.commandIndirect q) := by
  have he := exec_commandIndirect ha hh hb
  rw [hx, if_neg (by decide)] at he
  dsimp only at he
  rw [if_pos hlt] at he
  have ho := s.push_queuesOnly (s.freeForAll (s.bufferStacks true p n) s.now) 74 (.commandIndirect q)
  exact ⟨_, he, ho.files, ho.keeps, rfl, State.push_awaits ..⟩

/-- What a queue holds of the records read, and of their command, that have not completed. -/
theorem commandIndirect_reads {s : State} {q : Nat} {c : Command} {vol : Bool} {p n : Nat} (ha : s.arg = .commandIndirect q)
    (hh : (s.queue q).head = some c) (hb : c.body = .indirect vol p n) (hsub : c.sub = none) (hx : c.expanded = false)
    (hfree : s.freeForAll (s.bufferStacks true p n) s.now = s.now) (hgood : (s.useStacks (s.bufferStacks true p n)).1 = none) :
    let u := (s.useStacks (s.bufferStacks true p n)).2
    ∃ (t : State), exec .commandIndirect s = .next t ∧ sameFiles s t ∧ s.keeps t [] ∧
      ∀ k ∈ (u.expand c true p n).1 ++ [(u.expand c true p n).2.unready], k.completed = false →
        ∃ k' ∈ (t.queue q).commands, k'.unready = k.unready := by
  have he := exec_commandIndirect ha hh hb
  rw [hx, if_neg (by decide)] at he
  dsimp only at he
  rw [hfree, if_neg (Nat.lt_irrefl _)] at he
  have hu := s.useStacks_used (s.bufferStacks true p n)
  dsimp only
  generalize s.useStacks (s.bufferStacks true p n) = u at he hu hgood
  rw [hgood] at he
  obtain ⟨y, hy, hs⟩ := State.advanceQueue_spec (u.2.modQueue q (Queue.expandedBy c (u.2.expand c true p n))) q
  rw [State.queue_modQueue_self, hu.queue] at hy
  have ho := (State.modQueue_queuesOnly u.2 q (Queue.expandedBy c (u.2.expand c true p n))).trans hs.1
  refine ⟨_, he, ho.files.trans hu.files, State.keeps_trans hu.keeps ho.keeps, fun k hk hn => ?_⟩
  have hst := hy.stays (Queue.mem_expandedBy (Queue.head_mem hh) hsub hk) hn
  rw [← hs.here] at hst
  exact hst

theorem commandIndirect_records {s : State} {q : Nat} {c : Command} {vol : Bool} {p n : Nat} (ha : s.arg = .commandIndirect q)
    (hh : (s.queue q).head = some c) (hb : c.body = .indirect vol p n) (hsub : c.sub = none) (hx : c.expanded = false)
    (hfree : s.freeForAll (s.bufferStacks true p n) s.now = s.now) (hgood : (s.useStacks (s.bufferStacks true p n)).1 = none)
    (hok : ∀ i, i < n → commandBad (s.readHbm (p + 64 * i) 64) true = false) :
    ∃ (t : State), exec .commandIndirect s = .next t ∧ sameFiles s t ∧ s.keeps t [] ∧
      ∀ i, i < n → ∃ k ∈ (t.queue q).commands, k.entry = c.entry ∧ k.sub = some i ∧ k.body = .raw (s.readHbm (p + 64 * i) 64) := by
  obtain ⟨t, he, hf, hk, hin⟩ := commandIndirect_reads ha hh hb hsub hx hfree hgood
  have hu := s.useStacks_used (s.bufferStacks true p n)
  have hraw : ∀ i, i < n → (s.useStacks (s.bufferStacks true p n)).2.recordBody true
      ((s.useStacks (s.bufferStacks true p n)).2.readHbm (p + 64 * i) 64) = .raw (s.readHbm (p + 64 * i) 64) := fun i hi => by
    unfold State.recordBody
    rw [hu.readHbm, if_pos rfl, hok i hi]
    rfl
  refine ⟨t, he, hf, hk, fun i hi => ?_⟩
  obtain ⟨k, hkm, h1, h2, h3, h4⟩ := State.expand_records (c := c) (fun j hj _ _ => by rw [hraw j hj]; exact nofun) hi
  obtain ⟨k', hk', hun⟩ := hin k (List.mem_append_left _ hkm) h4
  obtain ⟨g1, g2, g3, -⟩ := Command.fields_of_unready hun
  exact ⟨k', hk', g1.trans h1, g2.trans h2, (g3.trans h3).trans (hraw i hi)⟩

/-- A buffer with a record that breaks a rule of command records has the cause of that. -/
theorem bufferCause_checked (s : State) {recs : List (List Byte)} (h : ∃ b ∈ recs, commandBad b true = true) :
    bufferCause (recs.map (s.recordBody true)) = some 0xA1 := by
  induction recs with
  | nil => obtain ⟨b, hb, -⟩ := h; exact nomatch hb
  | cons r rs ih =>
    unfold bufferCause at ih ⊢
    rw [List.map_cons, List.findSome?_cons]
    cases hr : commandBad r true
    · obtain ⟨b, hb, hbad⟩ := h
      have hbody : s.recordBody true r = .raw r := by
        unfold State.recordBody
        rw [hr]
        rfl
      rw [hbody]
      refine ih ⟨b, (List.mem_cons.1 hb).resolve_left ?_, hbad⟩
      rintro rfl
      rw [hr] at hbad
      cases hbad
    · have hbody : s.recordBody true r = .bad 0xA1 3 := by
        unfold State.recordBody
        rw [hr]
        rfl
      rw [hbody]

theorem commandIndirect_breach {s : State} {q : Nat} {c : Command} {vol : Bool} {p n : Nat} (ha : s.arg = .commandIndirect q)
    (hh : (s.queue q).head = some c) (hb : c.body = .indirect vol p n) (hsub : c.sub = none) (hx : c.expanded = false)
    (hfree : s.freeForAll (s.bufferStacks true p n) s.now = s.now) (hgood : (s.useStacks (s.bufferStacks true p n)).1 = none)
    (hn : c.completed = false) (hbad : ∃ i, i < n ∧ commandBad (s.readHbm (p + 64 * i) 64) true = true) :
    ∃ (t : State), exec .commandIndirect s = .next t ∧ sameFiles s t ∧ s.keeps t [] ∧
      ∃ k ∈ (t.queue q).commands, k.entry = c.entry ∧ k.sub = none ∧ k.body = .bad 0xA1 3 := by
  obtain ⟨t, he, hf, hk, hin⟩ := commandIndirect_reads ha hh hb hsub hx hfree hgood
  have hu := s.useStacks_used (s.bufferStacks true p n)
  generalize (s.useStacks (s.bufferStacks true p n)).2 = u at hin hu
  have hcause : bufferCause ((u.bufferRecords p n).map (u.recordBody true)) = some 0xA1 := by
    obtain ⟨i, hi, hib⟩ := hbad
    refine bufferCause_checked u ⟨u.readHbm (p + 64 * i) 64, List.mem_map.2 ⟨i, List.mem_range.2 hi, rfl⟩, ?_⟩
    rwa [hu.readHbm]
  have hexp : u.expand c true p n = ([], { c with body := .bad 0xA1 3 }) := by
    rw [State.expand_eq, hcause]
  rw [hexp] at hin
  obtain ⟨k, hkm, hun⟩ := hin _ (List.mem_append_right _ (List.mem_singleton_self _)) hn
  obtain ⟨g1, g2, g3, -⟩ := Command.fields_of_unready hun
  exact ⟨t, he, hf, hk, k, hkm, g1, g2.trans hsub, g3⟩

end Sys2Proof.Machine
end

section
/-! PROOFS. Queues: the nodes of a dependence graph. -/
namespace Sys2Proof.Machine

/-! ### Changes of nodes -/

theorem State.node?_congr {s t : State} (h : t.queues = s.queues) (q i : Nat) : t.node? q i = s.node? q i := by
  unfold State.node?
  rw [queue_congr h]

theorem State.node?_of_graph {s : State} {q : Nat} {g : Graph} (h : (s.queue q).graph = some g) (i : Nat) :
    s.node? q i = g.nodes[i]? := by
  unfold State.node?
  rw [h]
  rfl

theorem State.modNode_graph (s : State) (q i : Nat) (f : NodeRun → NodeRun) :
    ((s.modNode q i f).queue q).graph = (s.queue q).graph.map fun g => g.withNodes (modifyNth g.nodes i f) := by
  rw [State.modNode_eq, State.queue_modQueue_self]
  rfl

theorem State.node?_modNode (s : State) (q i j : Nat) (f : NodeRun → NodeRun) :
    (s.modNode q i f).node? q j = if j = i then (s.node? q j).map f else s.node? q j := by
  unfold State.node?
  rw [State.modNode_graph]
  cases (s.queue q).graph with
  | none => exact (ite_self none).symm
  | some g => exact getElem?_modifyNth ..

theorem State.node?_modNode_self (s : State) (q i : Nat) (f : NodeRun → NodeRun) : (s.modNode q i f).node? q i = (s.node? q i).map f := by
  rw [State.node?_modNode, if_pos rfl]

theorem State.modNode_queuesOnly (s : State) (q i : Nat) (f : NodeRun → NodeRun) : QueuesOnly s (s.modNode q i f) :=
  State.modQueue_queuesOnly ..

/-- A state in which only nodes of a queue's graph may have changed, and the graph goes on as before. -/
structure NodesOnly (q : Nat) (s t : State) : Prop where
  only : QueuesOnly s t
  stopped : (t.queue q).graph.map (·.stopped) = (s.queue q).graph.map (·.stopped)

theorem NodesOnly.refl (q : Nat) (s : State) : NodesOnly q s s := ⟨.refl s, rfl⟩

theorem NodesOnly.trans {q : Nat} {s t u : State} (h : NodesOnly q s t) (h' : NodesOnly q t u) : NodesOnly q s u :=
  ⟨h.only.trans h'.only, h'.stopped.trans h.stopped⟩

theorem State.modNode_nodesOnly (s : State) (q i : Nat) (f : NodeRun → NodeRun) : NodesOnly q s (s.modNode q i f) := by
  refine ⟨s.modNode_queuesOnly q i f, ?_⟩
  rw [State.modNode_graph, Option.map_map]
  rfl

theorem foldl_nodesOnly {α : Type} {q : Nat} (f : State → α → State) (h : ∀ s x, NodesOnly q s (f s x)) (l : List α) :
    ∀ s, NodesOnly q s (l.foldl f s) := by
  induction l with
  | nil => exact .refl q
  | cons x r ih => exact fun s => (h s x).trans (ih _)

/-- The graph that goes on, where one went on before. -/
theorem NodesOnly.goes {q : Nat} {s t : State} (h : NodesOnly q s t) {g : Graph} (hg : (s.queue q).graph = some g)
    (hs : g.stopped = false) : ∃ g', (t.queue q).graph = some g' ∧ g'.stopped = false := by
  have e := h.stopped
  rw [hg, Option.map_some, Option.map_eq_some_iff] at e
  obtain ⟨g', h1, h2⟩ := e
  exact ⟨g', h1, h2.trans hs⟩

/-- A walk leaves each node but for the cycle at which it became ready. -/
theorem Walked.node? {q : Nat} {s t : State} (h : Walked q s t) (i : Nat) :
    (t.node? q i).map NodeRun.unmarked = (s.node? q i).map NodeRun.unmarked := by
  cases hg : (s.queue q).graph with
  | none =>
    unfold State.node?
    rw [hg, h.none hg]
  | some g =>
    obtain ⟨ns, h1, h2⟩ := h.graph g hg
    rw [State.node?_of_graph hg, State.node?_of_graph h1]
    have e := congrArg (·[i]?) h2
    rwa [List.getElem?_map, List.getElem?_map] at e

/-- A field of a node that a walk leaves. -/
theorem Walked.field {q : Nat} {s t : State} (h : Walked q s t) {α : Type} {f : NodeRun → α} (hf : ∀ n, f n.unmarked = f n) (i : Nat) :
    (t.node? q i).map f = (s.node? q i).map f := by
  have e := congrArg (Option.map f) (h.node? i)
  rwa [Option.map_map, Option.map_map, show f ∘ NodeRun.unmarked = f from funext hf] at e

/-! ### Counts -/

/-- A node whose count has decreased. -/
def NodeRun.lessened (k : Nat) (n : NodeRun) : NodeRun := { n with count := n.count - k }

theorem State.decrement_eq (s : State) (q : Nat) (ns : List Nat) : s.decrement q ns =
    ns.foldl (fun (s : State) i => if i = 0xFFFF then s else s.modNode q i (NodeRun.lessened 1)) s := rfl

theorem State.decrement_cons (s : State) (q x : Nat) (ns : List Nat) : s.decrement q (x :: ns) =
    (if x = 0xFFFF then s else s.modNode q x (NodeRun.lessened 1)).decrement q ns := rfl

theorem State.decrement_nodesOnly (s : State) (q : Nat) (ns : List Nat) : NodesOnly q s (s.decrement q ns) := by
  rw [State.decrement_eq]
  refine foldl_nodesOnly _ (fun u i => ?_) _ s
  split
  · exact .refl q u
  · exact State.modNode_nodesOnly ..

theorem NodeRun.lessened_lessened (a b : Nat) : NodeRun.lessened b ∘ NodeRun.lessened a = NodeRun.lessened (a + b) := by
  funext n
  exact congrArg (fun k => ({ n with count := k } : NodeRun)) (Nat.sub_sub ..)

/-- A node loses a count for each time that a list names it. -/
theorem State.decrement_node? {q j : Nat} (hj : j ≠ 0xFFFF) (ns : List Nat) :
    ∀ s : State, (s.decrement q ns).node? q j = (s.node? q j).map (NodeRun.lessened (ns.count j)) := by
  induction ns with
  | nil => exact fun s => by cases h : s.node? q j <;> exact h
  | cons x r ih =>
    intro s
    rw [State.decrement_cons, ih, List.count_cons]
    by_cases hx : x = j
    · subst hx
      rw [if_neg hj, State.node?_modNode_self, Option.map_map, NodeRun.lessened_lessened, beq_self_eq_true, if_pos rfl, Nat.add_comm]
    · have hxj : ¬(x == j) = true := by simpa using hx
      rw [if_neg hxj, Nat.add_zero]
      split
      · rfl
      · rw [State.node?_modNode, if_neg (Ne.symm hx)]

/-- A field of a node other than its count is the same after decrements. -/
theorem State.decrement_field {α : Type} {f : NodeRun → α} (hf : ∀ n, f (n.lessened 1) = f n) (q j : Nat) (ns : List Nat) :
    ∀ s : State, ((s.decrement q ns).node? q j).map f = (s.node? q j).map f := by
  induction ns with
  | nil => exact fun _ => rfl
  | cons x r ih =>
    intro s
    rw [State.decrement_cons, ih]
    split
    · rfl
    · rw [State.node?_modNode]
      split
      · rw [Option.map_map, show f ∘ NodeRun.lessened 1 = f from funext hf]
      · rfl

/-! ### A node completes -/

/-- A node that has run. -/
def NodeRun.done (n : NodeRun) : NodeRun := { n with running := false, ran := true, readyAt := 0 }

theorem State.nodeDone_eq {s : State} {q i : Nat} {n : NodeRun} (h : s.node? q i = some n) :
    s.nodeDone q i = ((s.modNode q i NodeRun.done).decrement q n.node.succ).walkGraph q := by
  unfold State.nodeDone
  rw [h]
  rfl

/-- What the completion of a node of a graph that goes on leaves. -/
theorem State.nodeDone_effect {s : State} {q i : Nat} {n : NodeRun} {g : Graph} (h : s.node? q i = some n)
    (hg : (s.queue q).graph = some g) (hs : g.stopped = false) :
    QueuesOnly s (s.nodeDone q i) ∧ s.countsDown (s.nodeDone q i) q n.node.succ ∧
      ((s.nodeDone q i).node? q i).map (·.ran) = some true ∧ ((s.nodeDone q i).node? q i).map (·.running) = some false := by
  rw [State.nodeDone_eq h]
  have ho := (s.modNode_nodesOnly q i NodeRun.done).trans (State.decrement_nodesOnly _ q n.node.succ)
  obtain ⟨g', hg', hs'⟩ := ho.goes hg hs
  have hw := State.walkGraph_walked hg' hs'
  refine ⟨ho.only.trans hw.only, fun j m hj hm => ?_, ?_, ?_⟩
  · rw [hw.field (f := (·.count)) (fun _ => rfl), State.decrement_node? hj, State.node?_modNode]
    split
    · rw [hm]; rfl
    · rw [hm]; rfl
  · rw [hw.field (f := (·.ran)) (fun _ => rfl), State.decrement_field (f := (·.ran)) (fun _ => rfl), State.node?_modNode_self, h]
    rfl
  · rw [hw.field (f := (·.running)) (fun _ => rfl), State.decrement_field (f := (·.running)) (fun _ => rfl),
      State.node?_modNode_self, h]
    rfl

/-! ### A graph stops -/

theorem State.completeCommand_graph (s : State) (q entry : Nat) (sub : Option Nat) (r : Completion) :
    ((s.completeCommand q entry sub r).queue q).graph = (s.queue q).graph := by
  cases sub with
  | none => exact (s.completeCommand_queue q entry r).graph.trans rfl
  | some i =>
    obtain ⟨x, hx, rfl | rfl⟩ := s.completeRecord_queue q entry i r <;> exact hx.graph.trans rfl

/-- The completion record of a graph. -/
def Queue.graphCompletion (x : Queue) (g : Graph) : Completion :=
  { tag := ((x.commands.find? fun c => c.entry == g.entry && c.sub == g.sub).map (·.tag.toNat)).getD 0, heatid := 0, anchor := 0
    charge := g.charge, cause := g.cause, kind := 2, exit0 := 0, exitMax := 0, xteam := 0 }

/-- A queue whose graph is over. -/
def Queue.graphless (x : Queue) : Queue := { x with graph := none }

theorem State.finishGraph_eq (s : State) (q : Nat) (g : Graph) : s.finishGraph q g =
    (s.modQueue q Queue.graphless).completeCommand q g.entry g.sub ((s.queue q).graphCompletion g) := rfl

theorem State.finishGraph_answered (s : State) (q : Nat) (g : Graph) : Answered s (s.finishGraph q g) := by
  rw [State.finishGraph_eq]
  exact (State.modQueue_queuesOnly ..).answered.trans (State.completeCommand_answered ..)

theorem State.finishGraph_graph (s : State) (q : Nat) (g : Graph) : ((s.finishGraph q g).queue q).graph = none := by
  rw [State.finishGraph_eq, State.completeCommand_graph, State.queue_modQueue_self]
  rfl

theorem State.walkGraph_stopped {s : State} {q : Nat} {g : Graph} (hg : (s.queue q).graph = some g) (hs : g.stopped = true) :
    s.walkGraph q = s ∨ s.walkGraph q = s.finishGraph q g := by
  unfold State.walkGraph
  rw [hg]
  dsimp only
  rw [hs, if_pos rfl]
  exact ite_eq_or_eq ..

/-- A graph that admits nothing more, with the cause of that unless it has one. -/
def Graph.halted (cause : Nat) (g : Graph) : Graph := { g with stopped := true, cause := if g.cause = 0 then cause else g.cause }

/-- A queue whose graph admits nothing more. -/
def Queue.graphHalted (cause : Nat) (x : Queue) : Queue := { x with graph := x.graph.map (Graph.halted cause) }

theorem State.stopGraph_eq (s : State) (q cause : Nat) :
    s.stopGraph q cause = (s.modQueue q (Queue.graphHalted cause)).walkGraph q := rfl

theorem State.stopGraph_effect (s : State) (q cause : Nat) :
    Answered s (s.stopGraph q cause) ∧ (s.stopGraph q cause).graphStops q := by
  rw [State.stopGraph_eq]
  have ho := (s.modQueue_queuesOnly q (Queue.graphHalted cause)).answered
  have hq := s.queue_modQueue_self q (Queue.graphHalted cause)
  generalize s.modQueue q (Queue.graphHalted cause) = u at ho hq
  cases hg : (s.queue q).graph with
  | none =>
    have hu : (u.queue q).graph = none := by rw [hq, Queue.graphHalted, hg]; rfl
    have hw : u.walkGraph q = u := by
      unfold State.walkGraph
      rw [hu]
    rw [hw]
    exact ⟨ho, fun g h => nomatch hu.symm.trans h⟩
  | some g =>
    have hu : (u.queue q).graph = some (g.halted cause) := by rw [hq, Queue.graphHalted, hg]; rfl
    rcases State.walkGraph_stopped hu rfl with hw | hw <;> rw [hw]
    · exact ⟨ho, fun g' h => by cases hu.symm.trans h; rfl⟩
    · exact ⟨ho.trans (State.finishGraph_answered ..), fun g' h => nomatch (State.finishGraph_graph ..).symm.trans h⟩

/-- A graph that breaks a rule stops, and the umpire logs it. -/
theorem State.graphFault_effect (s : State) (q cause : Nat) : sameFiles s (s.graphFault q cause) ∧
    (s.graphFault q cause).graphStops q ∧ (s.now, LogEvent.graph q cause) ∈ (s.graphFault q cause).logEvents := by
  obtain ⟨ha, hs⟩ := (s.logEvent (.graph q cause)).stopGraph_effect q cause
  refine ⟨ha.files, hs, ?_⟩
  rw [State.graphFault, ha.logEvents]
  exact List.mem_append_right _ (List.mem_singleton_self _)

/-! ### The end of a graph -/

theorem exec_graphEnd {s : State} {q : Nat} {g : Graph} (ha : s.arg = .graphEnd q) (hg : (s.queue q).graph = some g)
    (hr : ∃ n ∈ g.nodes, n.node.kind = 3 ∧ n.isReady = true) :
    exec .graphEnd s = .next (if g.nodes.any (·.running) then s else s.finishGraph q g) := by
  have hany : (g.nodes.any fun n => n.node.kind == 3 && n.isReady) = true := by
    obtain ⟨n, hn, hk, hy⟩ := hr
    exact List.any_eq_true.2 ⟨n, hn, by rw [hk, hy]; rfl⟩
  show execGraphEnd s = _
  unfold execGraphEnd
  rw [ha]
  dsimp only
  rw [hg]
  dsimp only
  rw [hany]
  cases g.nodes.any (·.running) <;> rfl

theorem graphEnd_effect {s : State} {q : Nat} {g : Graph} (ha : s.arg = .graphEnd q) (hg : (s.queue q).graph = some g)
    (hr : ∃ n ∈ g.nodes, n.node.kind = 3 ∧ n.isReady = true) :
    ((∃ n ∈ g.nodes, n.running = true) → exec .graphEnd s = .next s) ∧
    ((∀ n ∈ g.nodes, n.running = false) → s.memoryWf → ∃ (t : State), exec .graphEnd s = .next t ∧ sameFiles s t ∧
      (t.queue q).graph = none ∧ t.commandDone q g.entry g.sub ∧
      ∀ c, (s.queue q).commands.find? (fun c => c.entry == g.entry && c.sub == g.sub) = some c → g.sub = none →
        s.recorded t q g.entry (plainCompletion c g.cause 2 g.charge)) := by
  rw [exec_graphEnd ha hg hr]
  refine ⟨fun ⟨n, hn, hrun⟩ => by rw [if_pos (List.any_eq_true.2 ⟨n, hn, hrun⟩)], fun hno hw => ?_⟩
  rw [if_neg (by simpa using hno)]
  refine ⟨_, rfl, (s.finishGraph_answered q g).files, s.finishGraph_graph q g, ?_, fun c hc hsub => ?_⟩
  · rw [State.finishGraph_eq]
    exact State.completeCommand_done _ q g.entry g.sub _
  · have ho := s.modQueue_queuesOnly q Queue.graphless
    have hcomp : (s.queue q).graphCompletion g = plainCompletion c g.cause 2 g.charge := by
      unfold Queue.graphCompletion
      rw [hc]
      rfl
    rw [State.finishGraph_eq, hsub, hcomp]
    exact State.recorded_congr (State.completeCommand_recorded _ (ho.memoryWf hw) ..) ho.kept
      ((congrArg Queue.desc (s.queue_modQueue_self q Queue.graphless)).trans rfl)

/-! ### A conditional node -/

/-- A node of which the test is over. -/
def NodeRun.tested (n : NodeRun) : NodeRun := { n with ran := true, readyAt := 0 }

/-- A node that is to run again. -/
def NodeRun.rearmed (n : NodeRun) : NodeRun := { n with count := n.node.pred, ran := false, readyAt := 0 }

/-- Whether a conditional's comparison holds. -/
def State.conditionHolds (s : State) (n : Node) : Bool := nodeCompare (bits (n.xn 2) 3 0) (ofLeBytes (s.readHbm n.addr 8)) (n.xn 1)

/-- The arm that a conditional takes. -/
def Node.arm (n : Node) (holds : Bool) : List Nat :=
  if holds then n.succ else (List.range 4).map fun j => bits (n.xn 0) (16 * j + 15) (16 * j)

/-- The nodes that a conditional arms again. -/
def Node.rearms (n : Node) (holds : Bool) : List Nat :=
  if (if holds then (n.xn 2).testBit 4 else (n.xn 2).testBit 5) then (List.range (bits (n.xn 2) 63 48)).map (bits (n.xn 2) 47 32 + ·) else []

theorem Node.mem_rearms (n : Node) (holds : Bool) (j : Nat) : j ∈ n.rearms holds ↔
    (if holds then (n.xn 2).testBit 4 else (n.xn 2).testBit 5) = true ∧
      bits (n.xn 2) 47 32 ≤ j ∧ j < bits (n.xn 2) 47 32 + bits (n.xn 2) 63 48 := by
  unfold Node.rearms
  generalize (if holds then (n.xn 2).testBit 4 else (n.xn 2).testBit 5) = b
  cases b
  · exact ⟨(nomatch ·), fun h => nomatch h.1⟩
  · rw [if_pos rfl, List.mem_map]
    refine ⟨fun ⟨i, hi, e⟩ => ?_, fun ⟨_, h1, h2⟩ => ⟨j - bits (n.xn 2) 47 32, List.mem_range.2 (by omega), by omega⟩⟩
    have := List.mem_range.1 hi
    exact ⟨rfl, by omega, by omega⟩

/-- Whether a node of a list runs or is ready. -/
def State.anyBusy (s : State) (q : Nat) (l : List Nat) : Bool :=
  l.any fun k => match s.node? q k with
    | some m => m.running || m.isReady
    | none => false

/-- The nodes of a list armed again. -/
def State.rearm (s : State) (q : Nat) (l : List Nat) : State := l.foldl (fun (s : State) k => s.modNode q k NodeRun.rearmed) s

theorem exec_conditionalNode {s : State} {q i : Nat} {r : NodeRun} (ha : s.arg = .conditionalNode q i) (hr : s.node? q i = some r) :
    exec .conditionalNode s =
      let n := r.node
      let holds := s.conditionHolds n
      let u := s.modNode q i NodeRun.tested
      if !s.ready.fe then .next s
      else if n.addr + 8 > hbmEnd then .next (s.graphFault q 0x61)
      else if u.anyBusy q (n.rearms holds) then .next (u.graphFault q 0xC7)
      else .next (((u.rearm q (n.rearms holds)).decrement q (n.arm holds)).walkGraph q) := by
  show execConditionalNode s = _
  unfold execConditionalNode
  rw [ha]
  dsimp only
  rw [hr]
  rfl

theorem State.anyBusy_iff (s : State) (q : Nat) (l : List Nat) : s.anyBusy q l = true ↔
    ∃ k ∈ l, ∃ m, s.node? q k = some m ∧ (m.running = true ∨ m.isReady = true) := by
  unfold State.anyBusy
  rw [List.any_eq_true]
  refine exists_congr fun k => and_congr_right fun _ => ?_
  cases s.node? q k with
  | none => simp
  | some m => simp [Bool.or_eq_true]

theorem State.rearm_nodesOnly (s : State) (q : Nat) (l : List Nat) : NodesOnly q s (s.rearm q l) :=
  foldl_nodesOnly _ (fun u k => u.modNode_nodesOnly q k NodeRun.rearmed) l s

theorem State.rearm_node?_not {q j : Nat} {l : List Nat} (h : j ∉ l) : ∀ s : State, (s.rearm q l).node? q j = s.node? q j := by
  induction l with
  | nil => exact fun _ => rfl
  | cons x r ih =>
    intro s
    refine (ih (fun hr => h (List.mem_cons_of_mem _ hr)) (s.modNode q x NodeRun.rearmed)).trans ?_
    rw [State.node?_modNode, if_neg fun e => h (by rw [e]; exact List.mem_cons_self ..)]

/-- A node that has been armed again is as it was at first, but for its payload. -/
theorem State.rearm_node?_mem {q j : Nat} {l : List Nat} (h : j ∈ l) :
    ∀ s : State, (s.rearm q l).node? q j = (s.node? q j).map NodeRun.rearmed := by
  induction l with
  | nil => exact nomatch h
  | cons x r ih =>
    intro s
    show ((s.modNode q x NodeRun.rearmed).rearm q r).node? q j = _
    by_cases hr : j ∈ r
    · rw [ih hr, State.node?_modNode]
      split
      · rw [Option.map_map]
        rfl
      · rfl
    · have hx : j = x := (List.mem_cons.1 h).resolve_right hr
      rw [State.rearm_node?_not hr, State.node?_modNode, if_pos hx]

theorem conditionalNode_effect {s : State} {q i : Nat} {r : NodeRun} {g : Graph} (ha : s.arg = .conditionalNode q i)
    (hr : s.node? q i = some r) (hg : (s.queue q).graph = some g) (hs : g.stopped = false) :
    let n := r.node
    let holds := nodeCompare (bits (n.xn 2) 3 0) (ofLeBytes (s.readHbm n.addr 8)) (n.xn 1)
    let arm := if holds then n.succ else (List.range 4).map fun j => bits (n.xn 0) (16 * j + 15) (16 * j)
    let named (j : Nat) : Prop := (if holds then (n.xn 2).testBit 4 else (n.xn 2).testBit 5) = true ∧
      bits (n.xn 2) 47 32 ≤ j ∧ j < bits (n.xn 2) 47 32 + bits (n.xn 2) 63 48
    (s.ready.fe = false → exec .conditionalNode s = .next s) ∧
    (s.ready.fe = true → hbmEnd < n.addr + 8 → ∃ (t : State), exec .conditionalNode s = .next t ∧ sameFiles s t ∧
      t.graphStops q ∧ (s.now, LogEvent.graph q 0x61) ∈ t.logEvents) ∧
    (s.ready.fe = true → n.addr + 8 ≤ hbmEnd → (∃ k m, k ≠ i ∧ named k ∧ s.node? q k = some m ∧ (m.running = true ∨ m.isReady = true)) →
      ∃ (t : State), exec .conditionalNode s = .next t ∧ sameFiles s t ∧ t.graphStops q ∧
        (s.now, LogEvent.graph q 0xC7) ∈ t.logEvents) ∧
    (s.ready.fe = true → n.addr + 8 ≤ hbmEnd → r.running = false →
      (∀ k m, named k → s.node? q k = some m → k ≠ i → m.running = false ∧ m.isReady = false) →
      ∃ (t : State), exec .conditionalNode s = .next t ∧ sameFiles s t ∧ s.keeps t [] ∧
        (¬named i → (t.node? q i).map (·.ran) = some true) ∧
        ∀ j m, j ≠ 0xFFFF → s.node? q j = some m →
          (named j → (t.node? q j).map (·.count) = some (m.node.pred - arm.count j) ∧ (t.node? q j).map (·.ran) = some false) ∧
          (¬named j → (t.node? q j).map (·.count) = some (m.count - arm.count j))) := by
  have hx := exec_conditionalNode ha hr
  dsimp only at hx ⊢
  rw [hx]
  have hnamed (j : Nat) := r.node.mem_rearms (s.conditionHolds r.node) j
  refine ⟨fun hfe => by rw [hfe]; rfl, fun hfe hend => ?_, fun hfe hend ⟨k, m, hk, hkn, hm, hb⟩ => ?_, fun hfe hend hrun hidle => ?_⟩
  · rw [hfe, if_neg (by decide), if_pos hend]
    exact ⟨_, rfl, s.graphFault_effect q 0x61⟩
  · rw [hfe, if_neg (by decide), if_neg (by omega), if_pos ((State.anyBusy_iff ..).2 ⟨k, (hnamed k).2 hkn, m, ?_, hb⟩)]
    · obtain ⟨h1, h2, h3⟩ := (s.modNode q i NodeRun.tested).graphFault_effect q 0xC7
      exact ⟨_, rfl, h1, h2, h3⟩
    · rwa [State.node?_modNode, if_neg hk]
  · have hbusy : ¬(s.modNode q i NodeRun.tested).anyBusy q (r.node.rearms (s.conditionHolds r.node)) = true := by
      rw [State.anyBusy_iff]
      rintro ⟨k, hk, m, hm, hb⟩
      rw [State.node?_modNode] at hm
      split at hm
      · rename_i hki
        rw [hki, hr] at hm
        cases hm
        rcases hb with hb | hb
        · exact absurd (hb.symm.trans hrun) (by decide)
        · exact absurd hb (by unfold NodeRun.isReady NodeRun.tested; simp)
      · rename_i hki
        obtain ⟨h1, h2⟩ := hidle k m ((hnamed k).1 hk) hm hki
        rw [h1, h2] at hb
        simp at hb
    rw [hfe, if_neg (by decide), if_neg (by omega), if_neg hbusy]
    have ho := (s.modNode_nodesOnly q i NodeRun.tested).trans ((State.rearm_nodesOnly _ q (r.node.rearms (s.conditionHolds r.node))).trans
      (State.decrement_nodesOnly _ q (r.node.arm (s.conditionHolds r.node))))
    obtain ⟨g', hg', hs'⟩ := ho.goes hg hs
    have hw := State.walkGraph_walked hg' hs'
    have hall := ho.only.trans hw.only
    refine ⟨_, rfl, hall.files, hall.keeps, fun hi => ?_, fun j m hj hm => ⟨fun hjn => ?_, fun hjn => ?_⟩⟩
    · rw [hw.field (f := (·.ran)) (fun _ => rfl), State.decrement_field (f := (·.ran)) (fun _ => rfl),
        State.rearm_node?_not fun h => hi ((hnamed i).1 h), State.node?_modNode_self, hr]
      rfl
    · have hre := State.rearm_node?_mem (q := q) ((hnamed j).2 hjn) (s.modNode q i NodeRun.tested)
      have hmap : ((s.modNode q i NodeRun.tested).node? q j).map NodeRun.rearmed = some m.rearmed := by
        rw [State.node?_modNode, hm]
        split <;> rfl
      rw [hw.field (f := (·.count)) (fun _ => rfl), hw.field (f := (·.ran)) (fun _ => rfl), State.decrement_node? hj, hre, hmap]
      exact ⟨rfl, rfl⟩
    · rw [hw.field (f := (·.count)) (fun _ => rfl), State.decrement_node? hj,
        State.rearm_node?_not fun h => hjn ((hnamed j).1 h), State.node?_modNode, hm]
      split <;> rfl

end Sys2Proof.Machine
end

section
/-! PROOFS. Queues: copy nodes. -/
namespace Sys2Proof.Machine

/-! ### Messages and signals leave the queues -/

theorem State.sendMessage_eq (s : State) (m : Msg) (done : AckTo) : s.sendMessage m done =
    ({ (s.takeSeq (msgKey m)).2 with
        unacked := (s.takeSeq (msgKey m)).2.unacked ++
          [{ m := { m with sq := (s.takeSeq (msgKey m)).1 }, done := done, losses := 0, lastNeg := false }] } : State).emit
      { m with sq := (s.takeSeq (msgKey m)).1 } s.now := rfl

theorem Sent.queuesKept {s t : State} (h : Sent s t) : t.queues = s.queues := by obtain ⟨f, ps, a, q, e⟩ := h.eq; rw [e]

theorem Sent.unacked {s t : State} (h : Sent s t) : t.unacked = s.unacked := by obtain ⟨f, ps, a, q, e⟩ := h.eq; rw [e]

theorem State.takeSeq_seq (s : State) (k : FlowKey) : (s.takeSeq k).1 = s.nextSeq k := by
  unfold State.takeSeq State.nextSeq
  cases s.flows.find? fun e => e.1 == k <;> rfl

/-- A message handed to the fabric waits for its acknowledgement under the next number of its flow; the queues are as they were. -/
theorem State.sendMessage_effect (s : State) (m : Msg) (done : AckTo) :
    (s.sendMessage m done).queues = s.queues ∧ (s.sendMessage m done).heats = s.heats ∧ (s.sendMessage m done).now = s.now ∧
      ∃ u ∈ (s.sendMessage m done).unacked, u.m = { m with sq := s.nextSeq (msgKey m) } ∧ u.done = done := by
  rw [State.sendMessage_eq, State.takeSeq_seq]
  have ht := s.takeSeq_sent (msgKey m)
  generalize (s.takeSeq (msgKey m)).2 = v at ht
  have he := State.emit_sent { v with unacked := v.unacked ++ [⟨{ m with sq := s.nextSeq (msgKey m) }, done, 0, false⟩] }
    { m with sq := s.nextSeq (msgKey m) } s.now
  refine ⟨he.queuesKept.trans ht.queuesKept, he.heats.trans ht.heats, he.now.trans ht.now, ?_⟩
  rw [he.unacked]
  exact ⟨_, List.mem_append_right _ (List.mem_singleton_self _), rfl, rfl⟩

theorem State.applySignal_queues (s : State) (core rank : Nat) (handle credit : Word) (arrive : Bool) :
    (s.applySignal core rank handle credit arrive).queues = s.queues := by
  unfold State.applySignal State.barChange State.corrected State.detect
  dsimp only
  repeat' split
  all_goals rfl

theorem State.applySignal_files (s : State) (core rank : Nat) (handle credit : Word) (arrive : Bool) :
    sameFiles s (s.applySignal core rank handle credit arrive) := State.barChange_files ..

/-! ### The end of a copy -/

/-- A copy node whose bytes have all performed. -/
def NodeRun.settled (n : NodeRun) : NodeRun := { n with moved := 0 }

/-- The credit of a copy node, where it has one for a barrier of the package. -/
def State.copyCredit (s : State) (n : Node) : State :=
  if !(n.xn 1).testBit 17 ∧ (n.xn 2).testBit 9 ∧ bits (n.xn 2) 8 0 < 384 then
    s.applySignal (bits (n.xn 2) 8 0) 309999 (BitVec.ofNat 32 (bits (n.xn 2) 63 32)) (BitVec.ofNat 32 (bits (n.xn 1) 63 32)) false
  else s

theorem exec_copyNodeCompletion {s : State} {q i : Nat} {r : NodeRun} (ha : s.arg = .copyNodeCompletion q i)
    (hr : s.node? q i = some r) : exec .copyNodeCompletion s = .next
      (if s.unacked.any fun u => u.done.hid == copyHid q i then s.push (s.now + 64) 46 (.copyNodeCompletion q i)
      else ((s.copyCredit r.node).modNode q i NodeRun.settled).nodeDone q i) := by
  show execCopyNodeCompletion s = _
  unfold execCopyNodeCompletion
  rw [ha]
  dsimp only
  rw [hr]
  dsimp only
  cases s.unacked.any fun u => u.done.hid == copyHid q i <;> rfl

theorem State.copyCredit_frame (s : State) (n : Node) :
    (s.copyCredit n).queues = s.queues ∧ sameFiles s (s.copyCredit n) ∧ s.keeps (s.copyCredit n) [] := by
  unfold State.copyCredit
  split
  · exact ⟨State.applySignal_queues .., State.applySignal_files .., keeps_of_kept _ _ _ (State.applySignal_kept ..)⟩
  · exact ⟨rfl, rfl, keeps_of_kept _ _ _ rfl⟩

theorem State.copyCredit_changes {s : State} {n : Node} (hp : (n.xn 1).testBit 17 = false) (hc : (n.xn 2).testBit 9 = true)
    (hl : bits (n.xn 2) 8 0 < 384) (hb : s.handleBreach (bits (n.xn 2) 8 0) (BitVec.ofNat 32 (bits (n.xn 2) 63 32)) = none) :
    (s.copyCredit n).changes (bits (n.xn 2) 8 0) (BitVec.ofNat 32 (bits (n.xn 2) 63 32)) 0 (bits (n.xn 1) 63 32) := by
  have hlen : (BitVec.ofNat 32 (bits (n.xn 1) 63 32)).toNat = bits (n.xn 1) 63 32 := by
    rw [BitVec.toNat_ofNat]
    exact Nat.mod_eq_of_lt (by unfold bits; exact Nat.mod_lt _ (by decide))
  have h := State.barChange_changes (s := s) 0 (bits (n.xn 1) 63 32) 0 true
    ({ Detect.blank (((s.heatOn (bits (n.xn 2) 8 0)).map (·.hid)).getD (2 ^ 62)) 309999 0 6 with core := bits (n.xn 2) 8 0 }) hb
  unfold State.copyCredit State.applySignal
  rw [if_pos ⟨by rw [hp]; rfl, hc, hl⟩, hlen]
  exact h

theorem QueuesOnly.changes {s t : State} (h : QueuesOnly s t) {core a b : Nat} {w : Word} (hc : s.changes core w a b) : t.changes core w a b := by
  unfold State.changes
  rw [h.barPend]
  exact hc

theorem State.countsDown_congr {s s' t : State} {q : Nat} {ns : List Nat} (h : s'.countsDown t q ns)
    (hc : ∀ j, (s'.node? q j).map (·.count) = (s.node? q j).map (·.count)) : s.countsDown t q ns := by
  intro j m hj hm
  have e := hc j
  rw [hm, Option.map_some, Option.map_eq_some_iff] at e
  obtain ⟨m', h1, h2⟩ := e
  rw [h j m' hj h1, h2]

theorem copyNodeCompletion_effect {s : State} {q i : Nat} {r : NodeRun} {g : Graph} (ha : s.arg = .copyNodeCompletion q i)
    (hr : s.node? q i = some r) (hg : (s.queue q).graph = some g) (hs : g.stopped = false) :
    let n := r.node
    ((∃ u ∈ s.unacked, u.done.hid = copyHid q i) → ∃ (t : State), exec .copyNodeCompletion s = .next t ∧ sameFiles s t ∧
      s.keeps t [] ∧ t.awaits (s.now + 64) (.copyNodeCompletion q i)) ∧
    ((∀ u ∈ s.unacked, u.done.hid ≠ copyHid q i) → ∃ (t : State), exec .copyNodeCompletion s = .next t ∧ sameFiles s t ∧
      s.keeps t [] ∧ (t.node? q i).map (·.ran) = some true ∧ (t.node? q i).map (·.running) = some false ∧
      s.countsDown t q n.succ ∧
      ((n.xn 1).testBit 17 = false → (n.xn 2).testBit 9 = true → bits (n.xn 2) 8 0 < 384 →
        s.handleBreach (bits (n.xn 2) 8 0) (BitVec.ofNat 32 (bits (n.xn 2) 63 32)) = none →
        t.changes (bits (n.xn 2) 8 0) (BitVec.ofNat 32 (bits (n.xn 2) 63 32)) 0 (bits (n.xn 1) 63 32))) := by
  have hx := exec_copyNodeCompletion ha hr
  dsimp only
  rw [hx]
  refine ⟨fun ⟨u, hu, he⟩ => ?_, fun hno => ?_⟩
  · rw [if_pos (List.any_eq_true.2 ⟨u, hu, by rw [he]; exact beq_self_eq_true _⟩)]
    have ho := s.push_queuesOnly (s.now + 64) 46 (.copyNodeCompletion q i)
    exact ⟨_, rfl, ho.files, ho.keeps, State.push_awaits ..⟩
  · rw [if_neg (by simpa using hno)]
    obtain ⟨hq, hf, hk⟩ := s.copyCredit_frame r.node
    have hm := (s.copyCredit r.node).modNode_nodesOnly q i NodeRun.settled
    obtain ⟨g', hg', hs'⟩ := hm.goes (by rw [queue_congr hq]; exact hg) hs
    have hr' : ((s.copyCredit r.node).modNode q i NodeRun.settled).node? q i = some r.settled := by
      rw [State.node?_modNode_self, State.node?_congr hq, hr]
      rfl
    obtain ⟨ho, hdown, hran, hrun⟩ := State.nodeDone_effect hr' hg' hs'
    have hall := hm.only.trans ho
    refine ⟨_, rfl, hall.files.trans hf, State.keeps_trans hk hall.keeps, hran, hrun, State.countsDown_congr hdown fun j => ?_,
      fun hp hc hl hb => hall.changes (State.copyCredit_changes hp hc hl hb)⟩
    rw [State.node?_modNode, State.node?_congr hq]
    split
    · cases s.node? q j <;> rfl
    · rfl

/-! ### The pieces of a copy -/

/-- A copy node that runs. -/
def NodeRun.begun (n : NodeRun) : NodeRun := { n with running := true }

/-- A copy node that met an error. -/
def NodeRun.failed (n : NodeRun) : NodeRun := { n with running := false, ran := true, moved := 0, held := [] }

/-- A copy node that holds bytes it has read. -/
def NodeRun.holding (bs : List Byte) (n : NodeRun) : NodeRun := { n with held := bs }

/-- A copy node that has sent bytes. -/
def NodeRun.movedTo (o : Nat) (n : NodeRun) : NodeRun := { n with moved := o }

/-- A copy node that has written the bytes it held. -/
def NodeRun.written (o : Nat) (n : NodeRun) : NodeRun := { n with moved := o, held := [] }

/-- The next step of a copy node put on the agenda, in the next free grain of a stack. -/
def State.copyAgain (s : State) (q i stack : Nat) : State := s.push (s.freeGrain stack (s.now + 1)) 24 (.copyNode q i)

/-- How many bytes a piece of a copy reads. -/
def NodeRun.pieceLen (r : NodeRun) : Nat :=
  min (bits (r.node.xn 1) 63 32 - r.moved) (min (4096 - (r.node.addr + r.moved) % 4096)
    (if (r.node.xn 1).testBit 17 then 224 else 4096 - (bits (r.node.xn 0) 47 0 + r.moved) % 4096))

/-- The stack that a copy's next piece touches. -/
def NodeRun.stack (r : NodeRun) : Nat :=
  if r.held = [] then stackOf (r.node.addr + r.moved) else stackOf (bits (r.node.xn 0) 47 0 + r.moved)

theorem State.copyPiece_eq (s : State) (q i : Nat) (r : NodeRun) : s.copyPiece q i r =
    if !s.grainFree r.stack s.now then s.copyAgain q i r.stack
    else match (s.stackUse r.stack).1 with
      | some cause => ((s.stackUse r.stack).2.modNode q i NodeRun.failed).graphFault q cause
      | none =>
        let u := (s.stackUse r.stack).2
        let a := r.node.addr + r.moved
        let b := bits (r.node.xn 0) 47 0 + r.moved
        if r.held = [] then
          let bs := u.readHbm a r.pieceLen
          if (r.node.xn 1).testBit 17 then
            ((u.sendMessage (s.copyMessage q i r.node r.moved bs) { hid := copyHid q i, core := 0, bar := none }).modNode q i
              (NodeRun.movedTo (r.moved + r.pieceLen))).copyAgain q i (stackOf (a + r.pieceLen))
          else (u.modNode q i (NodeRun.holding bs)).copyAgain q i (stackOf b)
        else ((u.writeHbm b r.held).modNode q i (NodeRun.written (r.moved + r.held.length))).copyAgain q i
          (stackOf (a + r.held.length)) := rfl

/-- Whether a copy's bytes all lie in the device's memory. -/
def Node.inside (n : Node) : Prop :=
  n.addr + bits (n.xn 1) 63 32 ≤ hbmEnd ∧ ((n.xn 1).testBit 17 = true ∨ bits (n.xn 0) 47 0 + bits (n.xn 1) 63 32 ≤ hbmEnd)

theorem exec_copyNode {s : State} {q i : Nat} {r : NodeRun} (ha : s.arg = .copyNode q i) (hr : s.node? q i = some r) :
    exec .copyNode s =
      if !r.running ∧ !s.ready.fe then .next s
      else if !r.running ∧ (r.node.addr + bits (r.node.xn 1) 63 32 > hbmEnd ∨
          (!(r.node.xn 1).testBit 17 ∧ bits (r.node.xn 0) 47 0 + bits (r.node.xn 1) 63 32 > hbmEnd)) then .next (s.graphFault q 0x61)
      else
        let u := s.modNode q i NodeRun.begun
        .next (if r.moved ≥ bits (r.node.xn 1) 63 32 then u.push s.now 74 (.copyNodeCompletion q i) else u.copyPiece q i r) := by
  show execCopyNode s = _
  unfold execCopyNode
  rw [ha]
  dsimp only
  rw [hr]
  rfl

theorem Node.not_inside (n : Node) : (n.addr + bits (n.xn 1) 63 32 > hbmEnd ∨
    (!(n.xn 1).testBit 17 ∧ bits (n.xn 0) 47 0 + bits (n.xn 1) 63 32 > hbmEnd)) ↔ ¬n.inside := by
  unfold Node.inside
  cases (n.xn 1).testBit 17
  · simp only [Bool.not_false, true_and, Bool.false_eq_true, false_or]
    omega
  · simp

theorem copyNode_waits {s : State} {q i : Nat} {r : NodeRun} (ha : s.arg = .copyNode q i) (hr : s.node? q i = some r)
    (hrun : r.running = false) (hfe : s.ready.fe = false) : exec .copyNode s = .next s := by
  rw [exec_copyNode ha hr, hrun, hfe, if_pos ⟨rfl, rfl⟩]

theorem copyNode_outside {s : State} {q i : Nat} {r : NodeRun} (ha : s.arg = .copyNode q i) (hr : s.node? q i = some r)
    (hrun : r.running = false) (hfe : s.ready.fe = true) (hin : ¬r.node.inside) :
    ∃ (t : State), exec .copyNode s = .next t ∧ sameFiles s t ∧ t.graphStops q ∧ (s.now, LogEvent.graph q 0x61) ∈ t.logEvents := by
  rw [exec_copyNode ha hr, hrun, hfe, if_neg (by decide), if_pos ⟨rfl, r.node.not_inside.2 hin⟩]
  exact ⟨_, rfl, s.graphFault_effect q 0x61⟩

/-- A copy that runs, or may start, goes on. -/
theorem exec_copyNode_goes {s : State} {q i : Nat} {r : NodeRun} (ha : s.arg = .copyNode q i) (hr : s.node? q i = some r)
    (hgo : r.running = true ∨ (s.ready.fe = true ∧ r.node.inside)) : exec .copyNode s = .next
      (if r.moved ≥ bits (r.node.xn 1) 63 32 then (s.modNode q i NodeRun.begun).push s.now 74 (.copyNodeCompletion q i)
      else (s.modNode q i NodeRun.begun).copyPiece q i r) := by
  rw [exec_copyNode ha hr, if_neg, if_neg]
  · rw [r.node.not_inside]
    rintro ⟨h1, h2⟩
    rcases hgo with h | ⟨-, h⟩
    · rw [h] at h1; cases h1
    · exact h2 h
  · rintro ⟨h1, h2⟩
    rcases hgo with h | ⟨h, -⟩
    · rw [h] at h1; cases h1
    · rw [h] at h2; cases h2

theorem State.copyAgain_queuesOnly (s : State) (q i stack : Nat) : QueuesOnly s (s.copyAgain q i stack) := State.push_queuesOnly ..

theorem State.copyAgain_node? (s : State) (q i stack j : Nat) : (s.copyAgain q i stack).node? q j = s.node? q j := rfl

theorem State.copyAgain_awaits (s : State) (q i stack : Nat) :
    s.now < s.freeGrain stack (s.now + 1) ∧ (s.copyAgain q i stack).awaits (s.freeGrain stack (s.now + 1)) (.copyNode q i) :=
  ⟨s.le_freeGrain stack (s.now + 1), State.push_awaits ..⟩

/-- A state with other queues. -/
def State.withQueues (qs : Store Queue) (s : State) : State := { s with queues := qs }

theorem State.modNode_withQueues (s : State) (q i : Nat) (f : NodeRun → NodeRun) :
    s.modNode q i f = s.withQueues (s.modNode q i f).queues := rfl

theorem State.useStack_withQueues (s : State) (qs : Store Queue) (k : Nat) :
    (s.withQueues qs).useStack k = (s.useStack k).withQueues qs := by
  unfold State.useStack State.hbmCorrected State.tick State.withQueues
  dsimp only
  split <;> split <;> rfl

/-- What an access meets at a stack, by its error retries so far and the state after its mark (R110, R338). -/
def State.stackCause (s v : State) (k : Nat) : Option Nat :=
  let x := Store.get StackFrame.init s.stackFrames k
  let n := if x.frame = s.now / 4096 then x.retries else 0
  if v.lateRefresh k v.now then some 0x83
  else match v.env.hbmErrors.find? (fun e => e.1 == k && e.2.1 == v.now) with
    | none => if n ≥ 2 then some 0x84 else none
    | some e => if n ≥ 1 then some 0x84 else if e.2.2 then some 0xF2 else none

theorem State.stackUse_fst (s : State) (k : Nat) : (s.stackUse k).1 = s.stackCause (s.useStack k) k := by
  rw [State.stackUse_eq, State.stackCause]
  generalize s.useStack k = v
  dsimp only
  generalize (if (Store.get StackFrame.init s.stackFrames k).frame = s.now / 4096
    then (Store.get StackFrame.init s.stackFrames k).retries else 0) = n
  split
  · rfl
  · cases v.env.hbmErrors.find? (fun e => e.1 == k && e.2.1 == v.now) with
    | none => rfl
    | some e =>
      dsimp only
      split <;> rfl

/-- What an access meets at a stack does not depend on the queues. -/
theorem State.stackUse_withQueues (s : State) (qs : Store Queue) (k : Nat) : ((s.withQueues qs).stackUse k).1 = (s.stackUse k).1 := by
  rw [State.stackUse_fst, State.stackUse_fst, State.useStack_withQueues]
  rfl

theorem StackUsed.keepsAny {s t : State} (h : StackUsed s t) {ps : List Space} : s.keeps t ps := by
  obtain ⟨_, _, _, rfl⟩ := h; exact keeps_of_kept _ _ _ rfl

section
variable {s : State} {q i : Nat} {r : NodeRun} (ha : s.arg = .copyNode q i) (hr : s.node? q i = some r)
  (hgo : r.running = true ∨ (s.ready.fe = true ∧ r.node.inside))
include ha hr hgo

theorem copyNode_ends (hlen : bits (r.node.xn 1) 63 32 ≤ r.moved) :
    ∃ (t : State), exec .copyNode s = .next t ∧ sameFiles s t ∧ s.keeps t [] ∧ t.awaits s.now (.copyNodeCompletion q i) := by
  rw [exec_copyNode_goes ha hr hgo, if_pos hlen]
  have ho := (s.modNode_queuesOnly q i NodeRun.begun).trans (State.push_queuesOnly _ s.now 74 (.copyNodeCompletion q i))
  exact ⟨_, rfl, ho.files, ho.keeps, State.push_awaits ..⟩

theorem copyNode_busy (hlen : r.moved < bits (r.node.xn 1) 63 32) (hb : s.grainFree r.stack s.now = false) :
    ∃ (t : State), exec .copyNode s = .next t ∧ sameFiles s t ∧ s.keeps t [] ∧
      (t.node? q i).map (fun y => (y.moved, y.held)) = some (r.moved, r.held) ∧
      t.awaits (s.freeGrain r.stack (s.now + 1)) (.copyNode q i) := by
  have hb' : ((!(s.modNode q i NodeRun.begun).grainFree r.stack (s.modNode q i NodeRun.begun).now) = true) := by
    rw [show (s.modNode q i NodeRun.begun).grainFree r.stack (s.modNode q i NodeRun.begun).now = s.grainFree r.stack s.now from rfl, hb]
    rfl
  rw [exec_copyNode_goes ha hr hgo, if_neg (by omega), State.copyPiece_eq, if_pos hb']
  have ho := (s.modNode_queuesOnly q i NodeRun.begun).trans (State.copyAgain_queuesOnly _ q i r.stack)
  refine ⟨_, rfl, ho.files, ho.keeps, ?_, (State.copyAgain_awaits _ q i r.stack).2⟩
  rw [State.copyAgain_node?, State.node?_modNode_self, hr]
  rfl

variable (hlen : r.moved < bits (r.node.xn 1) 63 32) (hfree : s.grainFree r.stack s.now = true)
include hlen hfree

theorem exec_copyNode_piece : exec .copyNode s = .next
    (match (s.stackUse r.stack).1 with
      | some cause => (((s.modNode q i NodeRun.begun).stackUse r.stack).2.modNode q i NodeRun.failed).graphFault q cause
      | none =>
        let u := ((s.modNode q i NodeRun.begun).stackUse r.stack).2
        let a := r.node.addr + r.moved
        let b := bits (r.node.xn 0) 47 0 + r.moved
        if r.held = [] then
          let bs := u.readHbm a r.pieceLen
          if (r.node.xn 1).testBit 17 then
            ((u.sendMessage (s.copyMessage q i r.node r.moved bs) { hid := copyHid q i, core := 0, bar := none }).modNode q i
              (NodeRun.movedTo (r.moved + r.pieceLen))).copyAgain q i (stackOf (a + r.pieceLen))
          else (u.modNode q i (NodeRun.holding bs)).copyAgain q i (stackOf b)
        else ((u.writeHbm b r.held).modNode q i (NodeRun.written (r.moved + r.held.length))).copyAgain q i
          (stackOf (a + r.held.length))) := by
  have hfree' : ¬(!(s.modNode q i NodeRun.begun).grainFree r.stack (s.modNode q i NodeRun.begun).now) = true := by
    rw [show (s.modNode q i NodeRun.begun).grainFree r.stack (s.modNode q i NodeRun.begun).now = s.grainFree r.stack s.now from rfl, hfree]
    decide
  rw [exec_copyNode_goes ha hr hgo, if_neg (by omega), State.copyPiece_eq, if_neg hfree', State.modNode_withQueues,
    State.stackUse_withQueues]
  rfl

theorem copyNode_breach {cause : Nat} (hc : (s.stackUse r.stack).1 = some cause) :
    ∃ (t : State), exec .copyNode s = .next t ∧ sameFiles s t ∧ t.graphStops q ∧ (s.now, LogEvent.graph q cause) ∈ t.logEvents := by
  have hx := exec_copyNode_piece ha hr hgo hlen hfree
  have hu := (s.modNode q i NodeRun.begun).stackUse_used r.stack
  rw [hc] at hx
  generalize ((s.modNode q i NodeRun.begun).stackUse r.stack).2 = u at hx hu
  obtain ⟨h1, h2, h3⟩ := (u.modNode q i NodeRun.failed).graphFault_effect q cause
  refine ⟨_, hx, h1.trans hu.files, h2, ?_⟩
  rw [show (u.modNode q i NodeRun.failed).now = s.now from hu.now] at h3
  exact h3

theorem copyNode_reads (hc : (s.stackUse r.stack).1 = none) (hh : r.held = []) (hp : (r.node.xn 1).testBit 17 = false) :
    ∃ (t : State) (c : Nat), exec .copyNode s = .next t ∧ sameFiles s t ∧ s.now < c ∧ t.awaits c (.copyNode q i) ∧ s.keeps t [] ∧
      (t.node? q i).map (fun y => (y.moved, y.held)) = some (r.moved, s.readHbm (r.node.addr + r.moved) r.pieceLen) := by
  have hx := exec_copyNode_piece ha hr hgo hlen hfree
  have hu := (s.modNode q i NodeRun.begun).stackUse_used r.stack
  rw [hc] at hx
  dsimp only at hx
  rw [if_pos hh, hp, if_neg (by decide)] at hx
  generalize ((s.modNode q i NodeRun.begun).stackUse r.stack).2 = u at hx hu
  have ho := (u.modNode_queuesOnly q i (NodeRun.holding (u.readHbm (r.node.addr + r.moved) r.pieceLen))).trans
    (State.copyAgain_queuesOnly _ q i (stackOf (bits (r.node.xn 0) 47 0 + r.moved)))
  obtain ⟨hlt, haw⟩ := (u.modNode q i (NodeRun.holding (u.readHbm (r.node.addr + r.moved) r.pieceLen))).copyAgain_awaits q i
    (stackOf (bits (r.node.xn 0) 47 0 + r.moved))
  have hnow : u.now = s.now := hu.now
  refine ⟨_, _, hx, ho.files.trans hu.files, hnow ▸ hlt, haw,
    State.keeps_trans (s.modNode_queuesOnly q i NodeRun.begun).keeps (State.keeps_trans hu.keeps ho.keeps), ?_⟩
  rw [State.copyAgain_node?, State.node?_modNode_self, State.node?_congr hu.queues, State.node?_modNode_self, hr, hu.readHbm]
  rfl

theorem copyNode_sends (hc : (s.stackUse r.stack).1 = none) (hh : r.held = []) (hp : (r.node.xn 1).testBit 17 = true) :
    ∃ (t : State) (c : Nat), exec .copyNode s = .next t ∧ sameFiles s t ∧ s.now < c ∧ t.awaits c (.copyNode q i) ∧ s.keeps t [] ∧
      (t.node? q i).map (fun y => (y.moved, y.held)) = some (r.moved + r.pieceLen, []) ∧
      let x := s.copyMessage q i r.node r.moved (s.readHbm (r.node.addr + r.moved) r.pieceLen)
      ∃ u ∈ t.unacked, u.m = { x with sq := s.nextSeq (msgKey x) } ∧ u.done.hid = copyHid q i := by
  have hx := exec_copyNode_piece ha hr hgo hlen hfree
  have hu := (s.modNode q i NodeRun.begun).stackUse_used r.stack
  rw [hc] at hx
  dsimp only at hx ⊢
  rw [if_pos hh, hp, if_pos rfl] at hx
  generalize ((s.modNode q i NodeRun.begun).stackUse r.stack).2 = u at hx hu
  have hbs : u.readHbm (r.node.addr + r.moved) r.pieceLen = s.readHbm (r.node.addr + r.moved) r.pieceLen := hu.readHbm ..
  have hseq (k : FlowKey) : u.nextSeq k = s.nextSeq k := by obtain ⟨_, _, _, rfl⟩ := hu; rfl
  rw [hbs] at hx
  generalize s.copyMessage q i r.node r.moved (s.readHbm (r.node.addr + r.moved) r.pieceLen) = x at hx ⊢
  obtain ⟨hq, hheats, hn, y, hy, hym, hyd⟩ := u.sendMessage_effect x { hid := copyHid q i, core := 0, bar := none }
  have hk := keeps_of_kept _ _ [] (u.sendMessage_kept [] x { hid := copyHid q i, core := 0, bar := none })
  generalize u.sendMessage x { hid := copyHid q i, core := 0, bar := none } = v at hx hq hheats hn hy hk
  have ho := (v.modNode_queuesOnly q i (NodeRun.movedTo (r.moved + r.pieceLen))).trans
    (State.copyAgain_queuesOnly _ q i (stackOf (r.node.addr + r.moved + r.pieceLen)))
  obtain ⟨hlt, haw⟩ := (v.modNode q i (NodeRun.movedTo (r.moved + r.pieceLen))).copyAgain_awaits q i
    (stackOf (r.node.addr + r.moved + r.pieceLen))
  have hnow : v.now = s.now := hn.trans hu.now
  refine ⟨_, _, hx, ho.files.trans ((files_of_heats hheats).trans hu.files), hnow ▸ hlt, haw,
    State.keeps_trans (s.modNode_queuesOnly q i NodeRun.begun).keeps (State.keeps_trans hu.keeps (State.keeps_trans hk ho.keeps)),
    ?_, y, ?_, ?_, congrArg (·.hid) hyd⟩
  · rw [State.copyAgain_node?, State.node?_modNode_self, State.node?_congr hq, State.node?_congr hu.queues,
      State.node?_modNode_self, hr]
    exact congrArg (fun l => some (_, l)) hh
  · rw [ho.unacked]
    exact hy
  · rw [hym, hseq]

theorem copyNode_writes (hw : s.memoryWf) (hc : (s.stackUse r.stack).1 = none) (hh : r.held ≠ []) :
    let b := bits (r.node.xn 0) 47 0 + r.moved
    ∃ (t : State) (c : Nat), exec .copyNode s = .next t ∧ sameFiles s t ∧ s.now < c ∧ t.awaits c (.copyNode q i) ∧
      s.keeps t [.hbm] ∧ t.readHbm b r.held.length = r.held ∧
      (∀ x, (x < b ∨ b + r.held.length ≤ x) → t.look .hbm x = s.look .hbm x) ∧
      (t.node? q i).map (fun y => (y.moved, y.held)) = some (r.moved + r.held.length, []) := by
  have hx := exec_copyNode_piece ha hr hgo hlen hfree
  have hu := (s.modNode q i NodeRun.begun).stackUse_used r.stack
  rw [hc] at hx
  dsimp only at hx ⊢
  rw [if_neg hh] at hx
  generalize ((s.modNode q i NodeRun.begun).stackUse r.stack).2 = u at hx hu
  have hhbm : u.hbm = s.hbm := hu.hbm
  have hwf : Store.wf 0 u.hbm = true := hhbm ▸ hw.1
  have hread := State.readHbm_writeHbm hwf (bits (r.node.xn 0) 47 0 + r.moved) r.held
  have hout := fun x => State.look_writeHbm_outside hwf (bits (r.node.xn 0) 47 0 + r.moved) r.held (a := x)
  have hk := keeps_of_kept _ _ [.hbm] (u.writeHbm_kept [.hbm] (bits (r.node.xn 0) 47 0 + r.moved) r.held (by decide))
  have hq : (u.writeHbm (bits (r.node.xn 0) 47 0 + r.moved) r.held).queues = u.queues := rfl
  have hv : (u.writeHbm (bits (r.node.xn 0) 47 0 + r.moved) r.held).heats = u.heats := rfl
  have hnow : (u.writeHbm (bits (r.node.xn 0) 47 0 + r.moved) r.held).now = s.now := hu.now
  generalize u.writeHbm (bits (r.node.xn 0) 47 0 + r.moved) r.held = v at hx hread hout hk hq hv hnow
  have ho := (v.modNode_queuesOnly q i (NodeRun.written (r.moved + r.held.length))).trans
    (State.copyAgain_queuesOnly _ q i (stackOf (r.node.addr + r.moved + r.held.length)))
  obtain ⟨hlt, haw⟩ := (v.modNode q i (NodeRun.written (r.moved + r.held.length))).copyAgain_awaits q i
    (stackOf (r.node.addr + r.moved + r.held.length))
  have hkept (ps : List Space) : ((s.modNode q i NodeRun.begun).kept ps) = s.kept ps := (s.modNode_queuesOnly q i NodeRun.begun).kept ps
  refine ⟨_, _, hx, ho.files.trans ((files_of_heats hv).trans hu.files), hnow ▸ hlt, haw, ?_, ?_, fun x h => ?_, ?_⟩
  · exact State.keeps_trans (keeps_of_kept _ _ _ (hkept _)) (State.keeps_trans hu.keepsAny (State.keeps_trans hk
      (keeps_of_kept _ _ _ (ho.kept _))))
  · exact (State.readHbm_congr ho.hbm ..).trans hread
  · exact (State.look_hbm_congr ho.hbm x).trans ((hout x h).trans (State.look_hbm_congr hhbm x))
  · rw [State.copyAgain_node?, State.node?_modNode_self, State.node?_congr hq, State.node?_congr hu.queues,
      State.node?_modNode_self, hr]
    rfl

end

theorem copyNode_effect {s : State} {q i : Nat} {r : NodeRun} (ha : s.arg = .copyNode q i) (hr : s.node? q i = some r)
    (hw : s.memoryWf) :
    let n := r.node
    let len := bits (n.xn 1) 63 32
    let dst := bits (n.xn 0) 47 0
    let peer := (n.xn 1).testBit 17
    let a := n.addr + r.moved
    let b := dst + r.moved
    let stack := if r.held = [] then stackOf a else stackOf b
    let inside := n.addr + len ≤ hbmEnd ∧ (peer = true ∨ dst + len ≤ hbmEnd)
    (r.running = false → s.ready.fe = false → exec .copyNode s = .next s) ∧
    (r.running = false → s.ready.fe = true → ¬inside → ∃ (t : State), exec .copyNode s = .next t ∧ sameFiles s t ∧
      t.graphStops q ∧ (s.now, LogEvent.graph q 0x61) ∈ t.logEvents) ∧
    (r.running = true ∨ (s.ready.fe = true ∧ inside) →
      (len ≤ r.moved → ∃ (t : State), exec .copyNode s = .next t ∧ sameFiles s t ∧ s.keeps t [] ∧
        t.awaits s.now (.copyNodeCompletion q i)) ∧
      (r.moved < len → s.grainFree stack s.now = false → ∃ (t : State), exec .copyNode s = .next t ∧ sameFiles s t ∧
        s.keeps t [] ∧ (t.node? q i).map (fun y => (y.moved, y.held)) = some (r.moved, r.held) ∧
        t.awaits (s.freeGrain stack (s.now + 1)) (.copyNode q i)) ∧
      (∀ cause, r.moved < len → s.grainFree stack s.now = true → (s.stackUse stack).1 = some cause →
        ∃ (t : State), exec .copyNode s = .next t ∧ sameFiles s t ∧ t.graphStops q ∧
          (s.now, LogEvent.graph q cause) ∈ t.logEvents) ∧
      (r.moved < len → s.grainFree stack s.now = true → (s.stackUse stack).1 = none →
        ∃ (t : State) (c : Nat), exec .copyNode s = .next t ∧ sameFiles s t ∧ s.now < c ∧ t.awaits c (.copyNode q i) ∧
          (r.held = [] → s.keeps t [] ∧
            let m := min (len - r.moved) (min (4096 - a % 4096) (if peer then 224 else 4096 - b % 4096))
            (peer = false → (t.node? q i).map (fun y => (y.moved, y.held)) = some (r.moved, s.readHbm a m)) ∧
            (peer = true → (t.node? q i).map (fun y => (y.moved, y.held)) = some (r.moved + m, []) ∧
              let x := s.copyMessage q i n r.moved (s.readHbm a m)
              ∃ u ∈ t.unacked, u.m = { x with sq := s.nextSeq (msgKey x) } ∧ u.done.hid = copyHid q i)) ∧
          (r.held ≠ [] → s.keeps t [.hbm] ∧ t.readHbm b r.held.length = r.held ∧
            (∀ x, (x < b ∨ b + r.held.length ≤ x) → t.look .hbm x = s.look .hbm x) ∧
            (t.node? q i).map (fun y => (y.moved, y.held)) = some (r.moved + r.held.length, [])))) := by
  refine ⟨copyNode_waits ha hr, copyNode_outside ha hr, fun hgo => ⟨copyNode_ends ha hr hgo, copyNode_busy ha hr hgo,
    fun cause hlen hfree hc => copyNode_breach ha hr hgo hlen hfree hc, fun hlen hfree hc => ?_⟩⟩
  by_cases hh : r.held = []
  · cases hp : (r.node.xn 1).testBit 17
    · obtain ⟨t, c, hx, hf, hlt, haw, hk, hn⟩ := copyNode_reads ha hr hgo hlen hfree hc hh hp
      exact ⟨t, c, hx, hf, hlt, haw, fun _ => ⟨hk, fun _ => by rw [hn, NodeRun.pieceLen, hp], nofun⟩, fun h => absurd hh h⟩
    · obtain ⟨t, c, hx, hf, hlt, haw, hk, hn, hu⟩ := copyNode_sends ha hr hgo hlen hfree hc hh hp
      unfold NodeRun.pieceLen at hn hu
      rw [hp] at hn hu
      exact ⟨t, c, hx, hf, hlt, haw, fun _ => ⟨hk, nofun, fun _ => ⟨hn, hu⟩⟩, fun h => absurd hh h⟩
  · obtain ⟨t, c, hx, hf, hlt, haw, hwr⟩ := copyNode_writes ha hr hgo hlen hfree hw hc hh
    exact ⟨t, c, hx, hf, hlt, haw, fun h => absurd h hh, fun _ => hwr⟩

end Sys2Proof.Machine
end

section
/-! PROOFS. Queues: a heat that the arbiter admits. -/
namespace Sys2Proof.Machine

/-! ### What is cleared for the teams of a heat -/

/-- A state in which only cores, scratch and tiles may have changed. -/
def Cleared (s t : State) : Prop := ∃ cs m w, t = { s with cores := cs, scratch := m, tiles := w }

theorem Cleared.refl (s : State) : Cleared s s := ⟨_, _, _, rfl⟩

theorem Cleared.trans {s t u : State} (h : Cleared s t) (h' : Cleared t u) : Cleared s u := by
  obtain ⟨_, _, _, rfl⟩ := h
  obtain ⟨_, _, _, rfl⟩ := h'
  exact ⟨_, _, _, rfl⟩

theorem Cleared.queues {s t : State} (h : Cleared s t) : t.queues = s.queues := by obtain ⟨_, _, _, rfl⟩ := h; rfl

theorem Cleared.heats {s t : State} (h : Cleared s t) : t.heats = s.heats := by obtain ⟨_, _, _, rfl⟩ := h; rfl

/-- The teams' granules and tiles zeroed. -/
def State.clearTeams (s : State) (ts : List Team) : State := ts.foldl (fun s t => s.clearTeam t) s

theorem State.clearTeam_cleared (s : State) (t : Team) : Cleared s (s.clearTeam t) := ⟨_, _, _, rfl⟩

theorem State.clearTeams_cleared (ts : List Team) : ∀ s : State, Cleared s (s.clearTeams ts) := by
  induction ts with
  | nil => exact .refl
  | cons t r ih => exact fun s => (s.clearTeam_cleared t).trans (ih _)

/-- Whether a team's granules and tiles are zero. -/
def State.zeroed (s : State) (y : Team) : Prop :=
  (∀ o, o < 4096 * y.scnt → s.look .scratch (scratchKey y.core (4096 * y.sbase) + o) = 0) ∧
    ∀ o, o < 2 ^ 14 * y.acnt → s.look .tiles (tileKey (clusterOf y.core) y.abase 0 0 + o) = 0

theorem State.clearTeam_look {s : State} (hs : Store.wf 0 s.scratch = true) (ht : Store.wf (0 : Word) s.tiles = true) (t : Team) (a : Nat) :
    (s.clearTeam t).look .scratch a = (if scratchKey t.core (4096 * t.sbase) ≤ a ∧
        a < scratchKey t.core (4096 * t.sbase) + 4096 * t.scnt then 0 else s.look .scratch a) ∧
      (s.clearTeam t).look .tiles a = if tileKey (clusterOf t.core) t.abase 0 0 ≤ a ∧
        a < tileKey (clusterOf t.core) t.abase 0 0 + 2 ^ 14 * t.acnt then 0 else s.look .tiles a := by
  constructor
  · refine (congrArg BitVec.toNat (Store.get_clearRun s.scratch hs _ _ a)).trans ?_
    split <;> rfl
  · refine (congrArg BitVec.toNat (Store.get_clearRun s.tiles ht _ _ a)).trans ?_
    split <;> rfl

theorem State.clearTeam_stores {s : State} (hs : Store.wf 0 s.scratch = true) (ht : Store.wf (0 : Word) s.tiles = true) (t : Team) :
    Store.wf 0 (s.clearTeam t).scratch = true ∧ Store.wf (0 : Word) (s.clearTeam t).tiles = true :=
  ⟨Store.wf_clearRun _ hs .., Store.wf_clearRun _ ht ..⟩

/-- What is zero stays so, and each of the teams is. -/
theorem State.clearTeams_zeroed (ts : List Team) : ∀ {s : State}, Store.wf 0 s.scratch = true → Store.wf (0 : Word) s.tiles = true →
    (∀ y, s.zeroed y → (s.clearTeams ts).zeroed y) ∧ ∀ y ∈ ts, (s.clearTeams ts).zeroed y := by
  induction ts with
  | nil => exact fun _ _ => ⟨fun _ h => h, fun _ h => absurd h List.not_mem_nil⟩
  | cons t r ih =>
    intro s hs ht
    obtain ⟨hs', ht'⟩ := State.clearTeam_stores hs ht t
    obtain ⟨hkeep, hall⟩ := ih hs' ht'
    have hlook := State.clearTeam_look hs ht t
    have hone : ∀ y, s.zeroed y ∨ y = t → (s.clearTeam t).zeroed y := by
      rintro y (⟨h1, h2⟩ | rfl)
      · refine ⟨fun o ho => ?_, fun o ho => ?_⟩
        · rw [(hlook _).1, h1 o ho, ite_self]
        · rw [(hlook _).2, h2 o ho, ite_self]
      · refine ⟨fun o ho => ?_, fun o ho => ?_⟩
        · rw [(hlook _).1, if_pos (by omega)]
        · rw [(hlook _).2, if_pos (by omega)]
    refine ⟨fun y hy => hkeep y (hone y (.inl hy)), fun y hy => ?_⟩
    rcases List.mem_cons.1 hy with rfl | hr
    · exact hkeep y (hone y (.inr rfl))
    · exact hall y hr

/-! ### A heat admitted at an anchor -/

/-- A state in which only cores, ports, counters and the agenda may have changed. -/
def Armed (s t : State) : Prop :=
  (∃ cs ps a n k, t = { s with cores := cs, ports := ps, agenda := a, seq := n, counters := k }) ∧ ∀ d ∈ s.agenda, d ∈ t.agenda

theorem Armed.refl (s : State) : Armed s s := ⟨⟨_, _, _, _, _, rfl⟩, fun _ h => h⟩

theorem Armed.trans {s t u : State} (h : Armed s t) (h' : Armed t u) : Armed s u := by
  obtain ⟨⟨_, _, _, _, _, rfl⟩, m⟩ := h
  obtain ⟨⟨_, _, _, _, _, rfl⟩, m'⟩ := h'
  exact ⟨⟨_, _, _, _, _, rfl⟩, fun d hd => m' d (m d hd)⟩

theorem Pushed.armed {s t : State} (h : Pushed s t) : Armed s t := by
  obtain ⟨e, m⟩ := h
  exact ⟨⟨s.cores, s.ports, _, _, s.counters, e⟩, m⟩

theorem foldl_armed {α : Type} (f : State → α → State) (h : ∀ s x, Armed s (f s x)) (l : List α) : ∀ s, Armed s (l.foldl f s) := by
  induction l with
  | nil => exact .refl
  | cons x r ih => exact fun s => (h s x).trans (ih _)

theorem Armed.awaits {s t : State} (h : Armed s t) {c : Nat} {e : Ev} (ha : s.awaits c e) : t.awaits c e :=
  ha.imp fun d ⟨hd, hc⟩ => ⟨h.2 d hd, hc⟩

theorem Armed.heats {s t : State} (h : Armed s t) : t.heats = s.heats := by obtain ⟨⟨_, _, _, _, _, rfl⟩, -⟩ := h; rfl

theorem Armed.queues {s t : State} (h : Armed s t) : t.queues = s.queues := by obtain ⟨⟨_, _, _, _, _, rfl⟩, -⟩ := h; rfl

theorem Armed.zeroed {s t : State} (h : Armed s t) {y : Team} (hy : s.zeroed y) : t.zeroed y := by
  obtain ⟨⟨_, _, _, _, _, rfl⟩, -⟩ := h; exact hy

theorem State.landingOwners_armed (s : State) (h : Heat) : Armed s (s.landingOwners h) := by
  unfold State.landingOwners
  refine foldl_armed _ (fun u e => ?_) _ s
  dsimp only
  split
  · exact .refl u
  · exact ⟨⟨_, _, _, _, _, rfl⟩, fun _ h => h⟩

theorem State.buildBank_armed (s : State) (p : Nat) : Armed s (s.buildBank p) := ⟨⟨_, _, _, _, _, rfl⟩, fun _ h => h⟩

theorem State.modPort_armed (s : State) (p : Nat) (f : Port → Port) : Armed s (s.modPort p f) := ⟨⟨_, _, _, _, _, rfl⟩, fun _ h => h⟩

theorem State.armBanks_armed (s : State) (r : Record) (swcyc : Nat) : Armed s (s.armBanks r swcyc) := by
  unfold State.armBanks
  refine foldl_armed _ (fun u p => ?_) _ s
  dsimp only
  split
  · exact State.buildBank_armed ..
  · exact (State.buildBank_armed ..).trans ((State.modPort_armed ..).trans
      ((State.pushSub_pushed ..).trans (State.pushSub_pushed ..)).armed)

theorem State.startFlows_pushed (s : State) (hid c : Nat) (pick : Nat → Bool) : Pushed s (s.startFlows hid c pick) := by
  unfold State.startFlows
  split
  · exact .refl s
  · rename_i h _
    refine foldl_pushed _ (fun u ie => ?_) _ s
    have ht : Pushed u (if ie.2.role = 0 ∨ ie.2.role = 2 then u.pushTransmit hid ie.1 ie.2 (h.flowBase ie.2) c else u) := by
      split
      · exact State.pushTransmit_pushed ..
      · exact .refl u
    dsimp only
    split
    · exact ht.trans (State.pushRelease_pushed ..)
    · exact ht

theorem State.tick_armed (s : State) (a b n : Nat) : Armed s (s.tick a b n) := ⟨⟨_, _, _, _, _, rfl⟩, fun _ h => h⟩

/-- A queue whose deficit has paid for a heat. -/
def Queue.pays (c : Int) (x : Queue) : Queue := { x with deficit := x.deficit - c }

/-- The heat that an admission at an anchor makes. -/
def State.admittedHeat (s : State) (q : Nat) (o : Origin) (r : Record) (cl : List Nat) (a : Nat) (args : List Word) : Heat :=
  { Heat.make s.nextHid s.newHeatid q o r cl (r.teams.map fun e => Team.start e (r.absCore cl e) (r.windowsOf e) args) args a s.now
      .scheduled with prov := ((r.nclus * r.stop : Nat) : Int), chargeFrom := a }

/-- A state with one heat more. -/
def State.withHeat (h : Heat) (s : State) : State :=
  { s with nextHid := s.nextHid + 1, nextHeatid := nextId s.newHeatid, heats := s.heats ++ [h] }

theorem State.admitHeat_scheduled {s : State} {q : Nat} {o : Origin} {r : Record} {cl : List Nat} {a : Nat} {args : List Word}
    (hr : r.armed = false) : s.admitHeat q o r cl a args =
      let h := s.admittedHeat q o r cl a args
      let u := (((s.withHeat h).clearTeams h.teams).landingOwners h).modQueue q (Queue.pays ((r.nclus * r.stop : Nat) : Int))
      let v := if r.flows = [] then u.tick 9 0 1 else (u.tick 9 0 1).armBanks r (a / 8192)
      ((v.push a 46 (.heatStart s.nextHid)).push (a + r.stop) 62 (.endCheck s.nextHid)).startFlows s.nextHid a fun _ => true := by
  unfold State.admitHeat
  dsimp only
  rw [hr]
  rfl

/-- What an admission at an anchor leaves. -/
structure AdmitsAt (s t : State) (q : Nat) (r : Record) (a : Nat) (h : Heat) : Prop where
  heats : t.heats = s.heats ++ [h]
  start : t.awaits a (.heatStart s.nextHid)
  endCheck : t.awaits (a + r.stop) (.endCheck s.nextHid)
  deficit : (t.queue q).deficit = (s.queue q).deficit - ((r.nclus * r.stop : Nat) : Int)
  zeroed : ∀ y ∈ h.teams, t.zeroed y

theorem State.admitHeat_admits {s : State} {q : Nat} {o : Origin} {r : Record} {cl : List Nat} {a : Nat} {args : List Word}
    (hr : r.armed = false) (hw : s.memoryWf) :
    AdmitsAt s (s.admitHeat q o r cl a args) q r a (s.admittedHeat q o r cl a args) := by
  rw [State.admitHeat_scheduled hr]
  generalize hh : s.admittedHeat q o r cl a args = h
  dsimp only
  have hc := State.clearTeams_cleared h.teams (s.withHeat h)
  have hz := (State.clearTeams_zeroed h.teams (s := s.withHeat h) hw.2.2.1 hw.2.2.2).2
  generalize (s.withHeat h).clearTeams h.teams = u at hc hz
  have ho := u.landingOwners_armed h
  generalize u.landingOwners h = w at ho
  have hlast : ∀ v : State, Pushed (v.push a 46 (.heatStart s.nextHid)) (((v.push a 46 (.heatStart s.nextHid)).push (a + r.stop) 62
      (.endCheck s.nextHid)).startFlows s.nextHid a fun _ => true) := fun v =>
    (State.push_pushed ..).trans (State.startFlows_pushed ..)
  have hstart : ∀ v : State, (((v.push a 46 (.heatStart s.nextHid)).push (a + r.stop) 62
      (.endCheck s.nextHid)).startFlows s.nextHid a fun _ => true).awaits a (.heatStart s.nextHid) := fun v =>
    (hlast v).awaits (State.push_awaits ..)
  have hend : ∀ v : State, (((v.push a 46 (.heatStart s.nextHid)).push (a + r.stop) 62
      (.endCheck s.nextHid)).startFlows s.nextHid a fun _ => true).awaits (a + r.stop) (.endCheck s.nextHid) := fun v =>
    (State.startFlows_pushed ..).awaits (State.push_awaits ..)
  have hv : ∀ x : State, Armed x (if r.flows = [] then x.tick 9 0 1 else (x.tick 9 0 1).armBanks r (a / 8192)) := fun x => by
    split
    · exact x.tick_armed 9 0 1
    · exact (x.tick_armed 9 0 1).trans (State.armBanks_armed ..)
  have hall := (hv (w.modQueue q (Queue.pays ((r.nclus * r.stop : Nat) : Int)))).trans
    ((State.push_pushed _ a 46 (.heatStart s.nextHid)).trans (hlast _)).armed
  refine ⟨?_, hstart _, hend _, ?_, fun y hy => ?_⟩
  · exact hall.heats.trans (ho.heats.trans hc.heats)
  · rw [queue_congr hall.queues, State.queue_modQueue_self, queue_congr (ho.queues.trans hc.queues)]
    rfl
  · exact hall.zeroed (s := w.modQueue q _) (ho.zeroed (hz y hy))

end Sys2Proof.Machine
end

section
/-! PROOFS. Queues: the steps of the arbiter: O55. -/
namespace Sys2Proof.Machine

/-- Heads all of which have used up their deficit get their weight again (R284). -/
def State.topUp (s : State) (b : List (Nat × Head)) : State :=
  if b ≠ [] ∧ b.all fun e => decide ((s.queue e.1).deficit ≤ 0) then
    b.foldl (fun (s : State) e => s.modQueue e.1 fun q => { q with deficit := q.deficit + ((64 * q.desc.qw : Nat) : Int) }) s
  else s

/-- The first head, from the pointer on, that can be admitted, with its clusters and its anchor. -/
def State.arbiterPick (s : State) (b : List (Nat × Head)) : Option (Nat × Head × List Nat × Nat) :=
  ((b.filter fun e => decide (s.pointer ≤ e.1)) ++ b.filter fun e => decide (e.1 < s.pointer)).findSome? fun e =>
    if (s.queue e.1).deficit > 0 then (s.canAdmit e.2).map fun r => (e.1, e.2, r.1, r.2) else none

/-- The state after the arbiter's choice. -/
def State.picked (s : State) (p : Option (Nat × Head × List Nat × Nat)) : State :=
  match p with
  | some (q, h, cl, a) => { s.admitHead q h cl a with pointer := q }
  | none => s

/-- A queue that keeps no deficit. -/
def Queue.capped (x : Queue) : Queue := { x with deficit := min x.deficit 0 }

/-- Whether a queue has neither a head nor a heat. -/
def State.idleQueue (s : State) (q : Nat) : Bool := (s.headOf q).isNone && !(s.heats.any fun h => h.queue == q)

/-- Idle queues keep no deficit. -/
def State.capIdle (s : State) : State :=
  s.queues.foldl (fun (v : State) e => if s.idleQueue e.1 then v.modQueue e.1 Queue.capped else v) s

theorem State.arbitrate_eq (s : State) : s.arbitrate =
    ((s.dropMissed.topUp s.dropMissed.heads).picked
      ((s.dropMissed.topUp s.dropMissed.heads).arbiterPick s.dropMissed.heads)).capIdle := rfl

theorem exec_arbiterStep {s : State} (ha : s.arg = .arbiterStep) :
    exec .arbiterStep s = .next (s.arbitrate.push (s.now + 64) 90 .arbiterStep) := by
  show execArbiterStep s = _
  unfold execArbiterStep
  rw [ha]

theorem State.arbitrate_now (s : State) : s.arbitrate.now = s.now :=
  congrArg Prod.fst (State.arbitrate_kept [.hbm, .host, .scratch, .tiles] s (by decide) (by decide) (by decide) (by decide))

/-! ### Idle queues -/

theorem State.capIdle_queuesOnly (s : State) : QueuesOnly s s.capIdle :=
  foldl_queuesOnly _ (fun v e => by
    split
    · exact State.modQueue_queuesOnly ..
    · exact .refl v) _ s

theorem State.capIdle_deficit (s : State) (q : Nat) (l : List (Nat × Queue)) :
    ∀ v : State, ((l.foldl (fun (v : State) e => if s.idleQueue e.1 then v.modQueue e.1 Queue.capped else v) v).queue q).deficit =
      if s.idleQueue q = true ∧ q ∈ l.map (·.1) then min (v.queue q).deficit 0 else (v.queue q).deficit := by
  induction l with
  | nil => exact fun v => (if_neg fun h => absurd h.2 List.not_mem_nil).symm
  | cons e r ih =>
    intro v
    simp only [List.foldl_cons, ih, List.map_cons, List.mem_cons]
    by_cases hi : s.idleQueue e.1 = true
    · rw [if_pos hi, State.queue_modQueue]
      by_cases hq : q = e.1
      · subst hq
        simp only [hi, true_and, true_or, if_true, Queue.capped]
        split
        · omega
        · rfl
      · simp only [hq, if_false, false_or]
    · rw [if_neg hi]
      by_cases hq : q = e.1
      · subst hq
        simp only [hi, Bool.false_eq_true, false_and, if_false]
      · simp only [hq, false_or]

theorem State.capIdle_idle {s : State} {e : Nat × Queue} (he : e ∈ s.queues) (hh : s.headOf e.1 = none) (hn : ∀ h ∈ s.heats, h.queue ≠ e.1) :
    (s.capIdle.queue e.1).deficit = min (s.queue e.1).deficit 0 := by
  have hi : s.idleQueue e.1 = true := by
    unfold State.idleQueue
    rw [hh]
    simpa using hn
  exact (s.capIdle_deficit e.1 s.queues s).trans (if_pos ⟨hi, List.mem_map_of_mem he⟩)

theorem State.capIdle_busy {s : State} {q : Nat} {h : Heat} (hm : h ∈ s.heats) (hq : h.queue = q) :
    (s.capIdle.queue q).deficit = (s.queue q).deficit := by
  refine (s.capIdle_deficit q s.queues s).trans (if_neg fun hi => ?_)
  have hany : (s.heats.any fun h => h.queue == q) = true := List.any_eq_true.2 ⟨h, hm, by rw [hq]; exact beq_self_eq_true q⟩
  have := hi.1
  rw [State.idleQueue, hany, Bool.not_true, Bool.and_false] at this
  cases this

/-! ### A cycle without heads -/

theorem State.arbitrate_headless {s : State} (h : s.heads = []) : s.arbitrate = s.capIdle := by
  have hd : s.dropMissed = s := by
    unfold State.dropMissed
    rw [h]
    rfl
  rw [State.arbitrate_eq, hd, h]
  have ht : s.topUp [] = s := if_neg fun h => h.1 rfl
  rw [ht]
  rfl

theorem arbiterStep_headless {s : State} (ha : s.arg = .arbiterStep) (h : s.heads = []) :
    ∃ (t : State), exec .arbiterStep s = .next t ∧ sameFiles s t ∧ s.keeps t [] ∧
      ∀ e ∈ s.queues, s.headOf e.1 = none → (∀ h ∈ s.heats, h.queue ≠ e.1) →
        (t.queue e.1).deficit = min (s.queue e.1).deficit 0 := by
  have hx := exec_arbiterStep ha
  rw [State.arbitrate_headless h] at hx
  have ho := s.capIdle_queuesOnly.trans (State.push_queuesOnly _ (s.now + 64) 90 .arbiterStep)
  exact ⟨_, hx, ho.files, ho.keeps, fun e he hh hn => State.capIdle_idle he hh hn⟩

/-! ### A cycle with the head of one ring -/

/-- How the heat of a command of a ring came to the package. -/
def Command.origin (c : Command) : Origin :=
  match c.sub with
  | none => .ring c.entry c.tag c.irq
  | some j => .indirect c.entry j c.irq

theorem State.admitHead_ring (s : State) (q : Nat) (c : Command) {r : Record} (named : Nat) (args : List Word) (cl : List Nat) (a : Nat)
    (hr : r.armed = false) : s.admitHead q (.ring c r named args) cl a =
      ((s.modQueue q (Queue.withCommand c.entry c.sub Command.taken)).admitHeat q c.origin r cl a args).advanceQueue q := by
  unfold State.admitHead
  simp only [Head.record, hr, Bool.false_eq_true, if_false]
  rfl

section
variable {s : State} {q : Nat} {c : Command} {r : Record} {named : Nat} {args : List Word}
  (hh : s.heads = [(q, .ring c r named args)])
include hh

theorem State.dropMissed_ring (hm : anchorMissed r (max (c.readAt + 2800) (s.now + 1024)) (anchorNamed s.now named) = false) :
    s.dropMissed = s := by
  unfold State.dropMissed
  rw [hh]
  show (if anchorMissed r (max (c.readAt + 2800) (s.now + 1024)) (anchorNamed s.now named) then _ else s) = s
  rw [hm]
  rfl

theorem State.topUp_ring (hd : 0 < (s.queue q).deficit) : s.topUp s.heads = s := by
  rw [hh]
  refine if_neg fun h => ?_
  have := List.all_eq_true.1 h.2 _ (List.mem_singleton_self _)
  have := of_decide_eq_true this
  dsimp only at this
  omega

theorem State.arbiterPick_ring {cl : List Nat} {a : Nat} (hd : 0 < (s.queue q).deficit)
    (had : s.admissible r (max (c.readAt + 2800) (s.now + 1024)) (anchorNamed s.now named) = some (cl, a)) :
    s.arbiterPick s.heads = some (q, .ring c r named args, cl, a) := by
  have horder : ((s.heads.filter fun e => decide (s.pointer ≤ e.1)) ++ s.heads.filter fun e => decide (e.1 < s.pointer)) =
      [(q, .ring c r named args)] := by
    rw [hh]
    by_cases hp : s.pointer ≤ q
    · simp [hp, Nat.not_lt.2 hp]
    · simp [hp, Nat.lt_of_not_le hp]
  have hcan : s.canAdmit (.ring c r named args) = some (cl, a) := had
  unfold State.arbiterPick
  rw [horder, List.findSome?_cons]
  dsimp only
  rw [if_pos hd, hcan]
  rfl

theorem State.arbitrate_ring {cl : List Nat} {a : Nat} (hr : r.armed = false)
    (hm : anchorMissed r (max (c.readAt + 2800) (s.now + 1024)) (anchorNamed s.now named) = false) (hd : 0 < (s.queue q).deficit)
    (had : s.admissible r (max (c.readAt + 2800) (s.now + 1024)) (anchorNamed s.now named) = some (cl, a)) :
    s.arbitrate = ({ ((s.modQueue q (Queue.withCommand c.entry c.sub Command.taken)).admitHeat q c.origin r cl a args).advanceQueue q with
      pointer := q } : State).capIdle := by
  rw [State.arbitrate_eq, State.dropMissed_ring hh hm, State.topUp_ring hh hd, State.arbiterPick_ring hh hd had, State.picked,
    State.admitHead_ring _ _ _ _ _ _ _ hr]

end

theorem QueuesOnly.zeroed {s t : State} (h : QueuesOnly s t) {y : Team} (hy : s.zeroed y) : t.zeroed y := by
  obtain ⟨⟨_, _, _, _, rfl⟩, -⟩ := h; exact hy

theorem QueuesOnly.pointer {s t : State} (h : QueuesOnly s t) : t.pointer = s.pointer := by obtain ⟨⟨_, _, _, _, rfl⟩, -⟩ := h; rfl

theorem QueuesOnly.nextHid {s t : State} (h : QueuesOnly s t) : t.nextHid = s.nextHid := by obtain ⟨⟨_, _, _, _, rfl⟩, -⟩ := h; rfl

theorem QueuesOnly.newHeatid {s t : State} (h : QueuesOnly s t) : t.newHeatid = s.newHeatid := by
  obtain ⟨⟨_, _, _, _, rfl⟩, -⟩ := h; rfl

/-- A state with another place of the arbiter. -/
def State.pointedAt (q : Nat) (s : State) : State := { s with pointer := q }

theorem arbiterStep_admits {s : State} {q : Nat} {c : Command} {r : Record} {named : Nat} {args : List Word} {cl : List Nat} {a : Nat}
    (ha : s.arg = .arbiterStep) (hh : s.heads = [(q, .ring c r named args)]) (hr : r.armed = false)
    (hm : anchorMissed r (max (c.readAt + 2800) (s.now + 1024)) (anchorNamed s.now named) = false) (hd : 0 < (s.queue q).deficit)
    (had : s.admissible r (max (c.readAt + 2800) (s.now + 1024)) (anchorNamed s.now named) = some (cl, a)) (hw : s.memoryWf) :
    ∃ (t : State) (x : Heat), exec .arbiterStep s = .next t ∧ x ∈ t.heats ∧ (∀ h ∈ s.heats, h ∈ t.heats) ∧
      x.hid = s.nextHid ∧ x.heatid = s.newHeatid ∧ x.queue = q ∧ x.clusters = cl ∧ x.anchor = a ∧ x.status = .scheduled ∧
      x.teams = (r.teams.map fun e => Team.start e (r.absCore cl e) (r.windowsOf e) args) ∧
      t.awaits a (.heatStart s.nextHid) ∧ t.awaits (a + r.stop) (.endCheck s.nextHid) ∧ t.pointer = q ∧
      (t.queue q).deficit = (s.queue q).deficit - ((r.nclus * r.stop : Nat) : Int) ∧
      s.keeps t [.scratch, .tiles] ∧
      ∀ y ∈ x.teams, (∀ o, o < 4096 * y.scnt → t.look .scratch (scratchKey y.core (4096 * y.sbase) + o) = 0) ∧
        ∀ o, o < 2 ^ 14 * y.acnt → t.look .tiles (tileKey (clusterOf y.core) y.abase 0 0 + o) = 0 := by
  have hx := exec_arbiterStep ha
  rw [State.arbitrate_ring hh hr hm hd had] at hx
  have h1 := s.modQueue_queuesOnly q (Queue.withCommand c.entry c.sub Command.taken)
  have hdef : ((s.modQueue q (Queue.withCommand c.entry c.sub Command.taken)).queue q).deficit = (s.queue q).deficit := by
    rw [State.queue_modQueue_self]
    rfl
  have hadm := State.admitHeat_admits (s := s.modQueue q (Queue.withCommand c.entry c.sub Command.taken)) (q := q) (o := c.origin)
    (cl := cl) (a := a) (args := args) hr (h1.memoryWf hw)
  have hk1 := State.admitHeat_kept [.scratch, .tiles] (s.modQueue q (Queue.withCommand c.entry c.sub Command.taken)) q c.origin r cl a args
    (by decide) (by decide)
  have hhid := h1.nextHid
  have hheatid := h1.newHeatid
  generalize s.modQueue q (Queue.withCommand c.entry c.sub Command.taken) = v at hx h1 hdef hadm hk1 hhid hheatid
  generalize hnew : v.admittedHeat q c.origin r cl a args = x at hadm
  generalize v.admitHeat q c.origin r cl a args = u at hx hadm hk1
  obtain ⟨y, hy, hs⟩ := u.advanceQueue_spec q
  generalize u.advanceQueue q = w at hx hs
  have hheats : w.heats = s.heats ++ [x] := hs.1.heats.trans (hadm.heats.trans (by rw [h1.heats]))
  have hin : x ∈ w.heats := by rw [hheats]; exact List.mem_append_right _ (List.mem_singleton_self _)
  have hxq : x.queue = q := by rw [← hnew]; rfl
  have hcap : (((w.pointedAt q).capIdle).queue q).deficit = (u.queue q).deficit := by
    rw [State.capIdle_busy (s := w.pointedAt q) hin hxq]
    exact (congrArg Queue.deficit hs.here).trans hy.deficit
  have ho := (State.capIdle_queuesOnly (w.pointedAt q)).trans
    (State.push_queuesOnly _ (s.now + 64) 90 .arbiterStep)
  refine ⟨_, x, hx, ?_, fun h hhm => ?_, by rw [← hhid, ← hnew]; rfl, by rw [← hheatid, ← hnew]; rfl, hxq, by rw [← hnew]; rfl, by rw [← hnew]; rfl,
    by rw [← hnew]; rfl, by rw [← hnew]; rfl, ?_, ?_, ?_, ?_, ?_, fun y hy => ?_⟩
  · exact ho.heats ▸ hin
  · refine ho.heats ▸ (?_ : h ∈ w.heats)
    rw [hheats]
    exact List.mem_append_left _ hhm
  · exact ho.awaits (s := w.pointedAt q) (hs.1.awaits (hhid ▸ hadm.start))
  · exact ho.awaits (s := w.pointedAt q) (hs.1.awaits (hhid ▸ hadm.endCheck))
  · exact ho.pointer
  · refine Eq.trans hcap (hadm.deficit.trans ?_)
    rw [hdef]
  · exact keeps_of_kept _ _ _ ((ho.kept _).trans ((hs.1.kept _).trans (hk1.trans (h1.kept _))))
  · exact ho.zeroed (s := w.pointedAt q) (hs.1.zeroed (hadm.zeroed y hy))

/-! ### The obligation -/

/-- Settles O55: each step of a queue, of the arbiter and of a graph by its own lemma. -/
theorem queueSteps : Obligations.QueueSteps := by
  unfold Obligations.QueueSteps
  refine ⟨fun s q pi ha => queuePiWrite_effect ha, fun s q en ha => queueEnWrite_effect ha, fun s q e ha he => ?_,
    fun s q e i raw ha he hen hfe hraw hfree hgood => prefetchRecord_effect ha he hen hfe hraw hfree hgood,
    fun s q c hh hw => ?_, fun s ha => ⟨?_, arbiterStep_headless ha,
      fun q c r named args cl a hh hr hm hd had hw => arbiterStep_admits ha hh hr hm hd had hw⟩,
    fun s q i r ha hr hw => copyNode_effect ha hr hw, fun s q i r g ha hr hg hs => copyNodeCompletion_effect ha hr hg hs,
    fun s q i r g ha hr hg hs => conditionalNode_effect ha hr hg hs, fun s q g ha hg hr => graphEnd_effect ha hg hr⟩
  · exact ⟨prefetch_unread_effect ha he, fun hen hfe hraw => ⟨prefetch_waits ha he hen hfe (State.rawOf_none hraw),
      prefetch_turn ha he hen hfe (State.rawOf_none hraw)⟩⟩
  · refine ⟨fun ha hb => commandNop_effect ha hh hb hw, fun cause kind hb => ?_, fun ha hb => commandHeat_waits ha hh hb,
      fun ha ns hb => commandGraph_effect ha hh hb, fun ha vol p n hb hsub => ⟨commandIndirect_admits ha hh hb,
        commandIndirect_waits ha hh hb, fun hx hr hok => commandIndirect_records ha hh hb hsub hx hr.1 hr.2 hok,
        fun hx hr hn hbad => commandIndirect_breach ha hh hb hsub hx hr.1 hr.2 hn hbad⟩⟩
    obtain ⟨hnop, hheat, hgraph⟩ := exec_badCommand hh hb
    have hfails := State.badCommand_fails hw q c cause kind
    exact ⟨fun ha => ⟨_, hnop ha, hfails⟩, fun ha => ⟨_, hheat ha, hfails⟩, fun ha => ⟨_, hgraph ha, hfails⟩⟩
  · exact ⟨_, exec_arbiterStep ha, s.arbitrate_now, State.push_awaits ..⟩

end Sys2Proof.Machine
end

section
/-! PROOFS. Heats: the start of a heat, its timeout as an armed one, and the check at its END. -/
namespace Sys2Proof.Machine

/-! ### The start (R57, R62) -/

/-- A heat that runs from now on. -/
def Heat.begun (h : Heat) : Heat := { h with status := .running }

/-- A triggered heat that has its anchor. -/
def Heat.anchoredAt (a : Nat) (h : Heat) : Heat := { h with status := .scheduled, anchor := a, trigger := none }

theorem exec_heatStart_scheduled {s : State} {h : Heat} (ha : s.arg = .heatStart h.hid) (hh : s.heat? h.hid = some h)
    (hs : h.status = .scheduled) : exec .heatStart s = .next (s.modHeat h.hid Heat.begun) := by
  show execHeatStart s = _
  unfold execHeatStart
  rw [ha]
  dsimp only
  rw [hh]
  dsimp only
  rw [hs]
  rfl

theorem heatStart_runs {s : State} {h : Heat} (ha : s.arg = .heatStart h.hid) (hh : s.heat? h.hid = some h) (hs : h.status = .scheduled) :
    ∃ (t : State), exec .heatStart s = .next t ∧ sameFiles s t ∧ s.keeps t [] ∧ (t.heat? h.hid).map (·.status) = some .running := by
  have hx := exec_heatStart_scheduled ha hh hs
  refine ⟨_, hx, State.modHeat_files _ _ _ fun _ => rfl, (execHeatStart_keeps s).keeps hx, ?_⟩
  rw [State.heat?_modHeat_self (f := Heat.begun) hh fun _ => rfl]
  rfl

/-- The anchor that a triggered heat takes, if it takes one now (R42, R57). -/
def State.triggeredAnchor (s : State) (h : Heat) (x : Nat) : Option Nat :=
  if h.record.sched ∧ s.regatta.halted then none else s.anchorFrom h.record (max s.now (x + 256)) 0

theorem State.fixAnchor_eq (s : State) (h : Heat) (x : Nat) : s.fixAnchor h x =
    match s.triggeredAnchor h x with
    | none => s.push (s.now + 4096) 3 (.heatStart h.hid)
    | some a => (((s.modHeat h.hid (Heat.anchoredAt a)).push a 46 (.heatStart h.hid)).push (a + h.record.stop) 62
        (.endCheck h.hid)).startFlows h.hid a (· == 0) := rfl

theorem exec_heatStart_armed {s : State} {h : Heat} {x : Nat} (ha : s.arg = .heatStart h.hid) (hh : s.heat? h.hid = some h)
    (hs : h.status = .armed) (hx : h.trigger = some x) : exec .heatStart s = .next (s.fixAnchor h x) := by
  show execHeatStart s = _
  unfold execHeatStart
  rw [ha]
  dsimp only
  rw [hh]
  dsimp only
  rw [hs, hx]

theorem dvd_roundUp (g x : Nat) : g ∣ roundUp g x := ⟨(x + g - 1) / g, Nat.mul_comm ..⟩

/-- Every anchor that the search finds is a multiple of the grid. -/
theorem State.grid_dvd_anchorFrom {s : State} {r : Record} {lo b a : Nat} (h : s.anchorFrom r lo b = some a) : r.grid ∣ a := by
  obtain ⟨i, -, rfl⟩ := List.mem_map.1 (List.mem_of_find?_eq_some h)
  exact Nat.dvd_add (dvd_roundUp ..) (Nat.dvd_mul_right ..)

theorem heatStart_anchored {s : State} {h : Heat} {x a : Nat} (ha : s.arg = .heatStart h.hid) (hh : s.heat? h.hid = some h)
    (hs : h.status = .armed) (hx : h.trigger = some x) (hn : s.triggeredAnchor h x = some a) :
    ∃ (t : State), exec .heatStart s = .next t ∧ sameFiles s t ∧ s.keeps t [] ∧
      (t.heat? h.hid).map (fun y => (y.status, y.anchor, y.trigger)) = some (.scheduled, a, none) ∧
      h.record.grid ∣ a ∧ t.awaits a (.heatStart h.hid) ∧ t.awaits (a + h.record.stop) (.endCheck h.hid) := by
  have he := exec_heatStart_armed ha hh hs hx
  rw [State.fixAnchor_eq, hn] at he
  have hlast := State.startFlows_pushed (((s.modHeat h.hid (Heat.anchoredAt a)).push a 46 (.heatStart h.hid)).push (a + h.record.stop) 62
    (.endCheck h.hid)) h.hid a (· == 0)
  have hall := (State.push_pushed (s.modHeat h.hid (Heat.anchoredAt a)) a 46 (.heatStart h.hid)).trans
    ((State.push_pushed _ (a + h.record.stop) 62 (.endCheck h.hid)).trans hlast)
  refine ⟨_, he, (files_of_heats hall.heats).trans (State.modHeat_files _ _ _ fun _ => rfl), (execHeatStart_keeps s).keeps he, ?_, ?_,
    ((State.push_pushed _ (a + h.record.stop) 62 (.endCheck h.hid)).trans hlast).awaits (State.push_awaits ..),
    hlast.awaits (State.push_awaits ..)⟩
  · rw [heat?_congr hall.heats, State.heat?_modHeat_self (f := Heat.anchoredAt a) hh fun _ => rfl]
    rfl
  · unfold State.triggeredAnchor at hn
    split at hn
    · cases hn
    · exact State.grid_dvd_anchorFrom hn

theorem heatStart_waits {s : State} {h : Heat} {x : Nat} (ha : s.arg = .heatStart h.hid) (hh : s.heat? h.hid = some h)
    (hs : h.status = .armed) (hx : h.trigger = some x) (hn : s.triggeredAnchor h x = none) :
    ∃ (t : State), exec .heatStart s = .next t ∧ sameFiles s t ∧ s.keeps t [] ∧ t.heats = s.heats ∧
      t.awaits (s.now + 4096) (.heatStart h.hid) := by
  have he := exec_heatStart_armed ha hh hs hx
  rw [State.fixAnchor_eq, hn] at he
  have ho := s.push_queuesOnly (s.now + 4096) 3 (.heatStart h.hid)
  exact ⟨_, he, ho.files, ho.keeps, ho.heats, State.push_awaits ..⟩

/-! ### The end of a cycle in which nothing changed -/

theorem settleBars_idle {s : State} (hb : s.barPend = []) : settleBars s.barPend.length s = s := by
  rw [hb]
  cases s
  cases hb
  rfl

theorem State.settle_idle {s : State} (hb : s.barPend = []) (hd : s.detects = []) : s.settle = s := by
  unfold State.settle
  rw [settleBars_idle hb]
  unfold State.settleDetects
  cases s
  cases hd
  rfl

/-! ### The timeout of an armed heat (R57, R329) -/

/-- An armed heat whose time is over. -/
def Heat.timedOut (h : Heat) : Heat := { h with abortCause := 0x92, status := .quiesced, anchor := 0 }

theorem exec_armedTimeout {s : State} {h : Heat} (ha : s.arg = .armedTimeout h.hid) (hh : s.heat? h.hid = some h) (hb : s.barPend = [])
    (hd : s.detects = []) : exec .armedTimeout s =
      if h.status ≠ .armed ∨ h.trigger.isSome then .next s
      else .next (((s.modHeat h.hid Heat.timedOut).logEvent (.heat h.heatid 0x92)).push s.now 80 (.heatCompletion h.hid)) := by
  show execArmedTimeout s = _
  unfold execArmedTimeout
  rw [ha]
  dsimp only
  rw [State.settle_idle hb hd, hh]
  rfl

theorem armedTimeout_effect {s : State} {h : Heat} (ha : s.arg = .armedTimeout h.hid) (hh : s.heat? h.hid = some h) (hb : s.barPend = [])
    (hd : s.detects = []) :
    (h.status = .armed → h.trigger = none → ∃ (t : State), exec .armedTimeout s = .next t ∧ sameFiles s t ∧
      s.keeps t [] ∧ s.released t h.hid 0x92 ∧ (t.heat? h.hid).map (·.anchor) = some 0 ∧
      t.logEvents = s.logEvents ++ [(s.now, .heat h.heatid 0x92)]) ∧
    ((h.status ≠ .armed ∨ h.trigger ≠ none) → exec .armedTimeout s = .next s) := by
  have hx := exec_armedTimeout ha hh hb hd
  refine ⟨fun hs ht => ?_, fun hn => ?_⟩
  · rw [if_neg (by rw [hs, ht]; decide)] at hx
    have ht := State.heat?_modHeat_self (f := Heat.timedOut) hh fun _ => rfl
    refine ⟨_, hx, State.modHeat_files _ _ _ fun _ => rfl, (execArmedTimeout_keeps s).keeps hx, ⟨?_, State.push_awaits ..⟩, ?_, rfl⟩
    · exact congrArg (Option.map (·.abortCause)) ht
    · exact congrArg (Option.map (·.anchor)) ht
  · rw [if_pos (hn.imp_right (Option.isSome_iff_ne_none.2 ·))] at hx
    exact hx

/-! ### The check at END (R59, R337) -/

/-- What stops of streams leave: every gang and cox is there, and none that had stopped goes on. -/
structure StopsMore (s t : State) : Prop where
  gang : ∀ g x, s.gang? g = some x → ∃ y, t.gang? g = some y ∧
    ∀ b ∈ y.groups, ∃ a ∈ x.groups, b.quads = a.quads ∧ (a.stopped.isSome = true → b.stopped.isSome = true)
  cox : ∀ r c, s.cox? r = some c → ∃ d, t.cox? r = some d ∧ (c.stopped.isSome = true → d.stopped.isSome = true)

theorem StopsMore.of_heats {s t : State} (h : t.heats = s.heats) : StopsMore s t :=
  ⟨fun g x hx => ⟨x, (State.gang?_congr h g).trans hx, fun b hb => ⟨b, hb, rfl, id⟩⟩,
    fun r c hc => ⟨c, (State.cox?_congr h r).trans hc, id⟩⟩

theorem StopsMore.trans {s t u : State} (h : StopsMore s t) (h' : StopsMore t u) : StopsMore s u := by
  refine ⟨fun g x hx => ?_, fun r c hc => ?_⟩
  · obtain ⟨y, hy, h1⟩ := h.gang g x hx
    obtain ⟨z, hz, h2⟩ := h'.gang g y hy
    refine ⟨z, hz, fun b hb => ?_⟩
    obtain ⟨m, hm, e, i⟩ := h2 b hb
    obtain ⟨a, ha, e', i'⟩ := h1 m hm
    exact ⟨a, ha, e.trans e', i ∘ i'⟩
  · obtain ⟨d, hd, h1⟩ := h.cox r c hc
    obtain ⟨e, he, h2⟩ := h'.cox r d hd
    exact ⟨e, he, h2 ∘ h1⟩

/-- A stop of a gang leaves the coxes. -/
theorem State.cox?_modGang (s : State) (g : GangRef) (f : Gang → Gang) (r : TeamRef) : (s.modGang g f).cox? r = s.cox? r := by
  unfold State.cox? State.modGang
  rw [State.team?_modTeam]
  split
  · rw [Option.map_map]
    rfl
  · rfl

/-- A change of a cox that does not let it go on. -/
theorem State.modCox_stopsMore (s : State) (r : TeamRef) {f : Cox → Cox} (hf : ∀ c, (f c).stopped.isSome = true) :
    StopsMore s (s.modCox r f) := by
  refine ⟨fun g x hx => ⟨x, (State.gang?_modCox ..).trans hx, fun b hb => ⟨b, hb, rfl, id⟩⟩, fun q c hc => ?_⟩
  unfold State.cox? State.modCox at *
  rw [State.team?_modTeam]
  split
  · obtain ⟨x, hx, rfl⟩ := Option.map_eq_some_iff.1 hc
    exact ⟨f x.cox, by rw [hx]; rfl, fun _ => hf _⟩
  · exact ⟨c, hc, id⟩

theorem State.modGang_stopsMore (s : State) (g : GangRef) {f : Group → Group} (hq : ∀ a, (f a).quads = a.quads)
    (hf : ∀ a, a.stopped.isSome = true → (f a).stopped.isSome = true) :
    StopsMore s (s.modGang g fun x => { x with groups := x.groups.map f }) := by
  refine ⟨fun q x hx => ?_, fun r c hc => ⟨c, (State.cox?_modGang ..).trans hc, id⟩⟩
  rw [State.gang?_modGang]
  split
  · refine ⟨_, by rw [hx]; rfl, fun b hb => ?_⟩
    obtain ⟨a, ha, rfl⟩ := List.mem_map.1 hb
    exact ⟨a, ha, hq a, hf a⟩
  · exact ⟨x, hx, fun b hb => ⟨b, hb, rfl, id⟩⟩

theorem State.stopGang_stopsMore (s : State) (g : GangRef) : StopsMore s (s.stopGang g) := by
  unfold State.stopGang State.stopGroups
  split
  · rename_i h t _ _
    refine State.modGang_stopsMore s g (f := fun gr => if gr.quads &&& 0xFF = 0 then gr else gr.stop (h.cycleOf t s.now))
      (fun a => ?_) fun a ha => ?_
    · split <;> rfl
    · split
      · exact ha
      · rfl
  · exact .of_heats rfl

theorem State.stopCox_stopsMore (s : State) (r : TeamRef) : StopsMore s (s.stopCox r) := by
  unfold State.stopCox
  split
  · exact State.modCox_stopsMore s r fun _ => rfl
  · exact .of_heats rfl

theorem StopsMore.gangStopped {s t : State} (h : StopsMore s t) {g : GangRef} (hg : s.gangStopped g) : t.gangStopped g := by
  obtain ⟨x, hx, hs⟩ := hg
  obtain ⟨y, hy, hb⟩ := h.gang g x hx
  refine ⟨y, hy, fun b hbm hq => ?_⟩
  obtain ⟨a, ha, e, i⟩ := hb b hbm
  exact i (hs a ha (e ▸ hq))

theorem StopsMore.coxStopped {s t : State} (h : StopsMore s t) {r : TeamRef} (hr : (s.cox? r).map (·.stopped.isSome) = some true) :
    (t.cox? r).map (·.stopped.isSome) = some true := by
  obtain ⟨c, hc, hs⟩ := Option.map_eq_some_iff.1 hr
  obtain ⟨d, hd, i⟩ := h.cox r c hc
  rw [hd, Option.map_some, i hs]

/-- A stream stopped by the check, and its detection. -/
def State.endStop (hid : Nat) (s : State) (d : Detect) : State :=
  (if d.src = 1 then s.stopCox ⟨hid, d.team⟩ else s.stopGang ⟨hid, d.team, d.gang⟩).detect d

/-- The streams of a heat that have not retired, as detections. -/
def Heat.unretiredStreams (h : Heat) (hid : Nat) : List Detect :=
  (((List.range h.teams.length).zip h.teams).map fun it => unretired hid it.1 it.2).flatten

theorem exec_endCheck {s : State} {h : Heat} (ha : s.arg = .endCheck h.hid) (hh : s.heat? h.hid = some h)
    (hs : h.status = .running ∨ h.status = .closing) :
    exec .endCheck s = .next ((h.unretiredStreams h.hid).foldl (State.endStop h.hid) s) := by
  show execEndCheck s = _
  unfold execEndCheck
  rw [ha]
  dsimp only
  rw [hh]
  dsimp only
  rw [if_neg (by rcases hs with e | e <;> rw [e] <;> decide)]
  rfl

theorem State.endStop_stopsMore (hid : Nat) (s : State) (d : Detect) : StopsMore s (s.endStop hid d) := by
  unfold State.endStop
  split
  · exact (State.stopCox_stopsMore ..).trans (.of_heats rfl)
  · exact (State.stopGang_stopsMore ..).trans (.of_heats rfl)

theorem State.endStop_detects (hid : Nat) (s : State) (d : Detect) : (s.endStop hid d).detects = s.detects ++ [d] := by
  unfold State.endStop
  split
  · obtain ⟨hs, e⟩ := s.stopCox_eq ⟨hid, d.team⟩
    rw [e]
    rfl
  · obtain ⟨hs, e⟩ := s.stopGang_eq ⟨hid, d.team, d.gang⟩
    rw [e]
    rfl

theorem State.endStop_files (hid : Nat) (s : State) (d : Detect) : (s.endStop hid d).files = s.files := by
  unfold State.endStop
  split
  · exact State.stopCox_files ..
  · exact State.stopGang_files ..

theorem foldl_endStop (hid : Nat) (l : List Detect) : ∀ s : State, StopsMore s (l.foldl (State.endStop hid) s) ∧
    (l.foldl (State.endStop hid) s).detects = s.detects ++ l ∧ (l.foldl (State.endStop hid) s).files = s.files := by
  induction l with
  | nil => exact fun s => ⟨.of_heats rfl, (List.append_nil _).symm, rfl⟩
  | cons d r ih =>
    intro s
    obtain ⟨h1, h2, h3⟩ := ih (s.endStop hid d)
    refine ⟨(s.endStop_stopsMore hid d).trans h1, ?_, h3.trans (s.endStop_files hid d)⟩
    rw [List.foldl_cons, h2, State.endStop_detects, List.append_assoc]
    rfl

/-- The stream that a detection of the check names has stopped. -/
theorem foldl_endStop_stopped {hid : Nat} {d : Detect} {l : List Detect} (hd : d ∈ l) : ∀ {s : State},
    (d.src = 0 → s.gang? ⟨hid, d.team, d.gang⟩ ≠ none → (l.foldl (State.endStop hid) s).gangStopped ⟨hid, d.team, d.gang⟩) ∧
    (d.src = 1 → s.cox? ⟨hid, d.team⟩ ≠ none → ((l.foldl (State.endStop hid) s).cox? ⟨hid, d.team⟩).map (·.stopped.isSome) = some true) := by
  induction l with
  | nil => exact nomatch hd
  | cons e r ih =>
    intro s
    have hone := s.endStop_stopsMore hid e
    rcases List.mem_cons.1 hd with rfl | hr
    · have hrest := (foldl_endStop hid r (s.endStop hid d)).1
      refine ⟨fun h0 hg => hrest.gangStopped ?_, fun h1 hc => hrest.coxStopped ?_⟩
      · unfold State.endStop
        rw [if_neg (by omega)]
        exact State.quadsStopped_congr (State.stopGang_stopped hg) rfl
      · unfold State.endStop
        rw [if_pos h1]
        exact State.stopCox_stopped hc
    · obtain ⟨h1, h2⟩ := ih hr (s := s.endStop hid e)
      refine ⟨fun h0 hg => h1 h0 ?_, fun hsrc hc => h2 hsrc ?_⟩
      · obtain ⟨x, hx⟩ := Option.ne_none_iff_exists'.1 hg
        obtain ⟨y, hy, -⟩ := hone.gang _ x hx
        rw [hy]
        exact nofun
      · obtain ⟨c, hc⟩ := Option.ne_none_iff_exists'.1 hc
        obtain ⟨d', hd', -⟩ := hone.cox _ c hc
        rw [hd']
        exact nofun

/-- The detection of a gang that has not retired. -/
def Team.gangUnretired (t : Team) (hid ti gi : Nat) (g : Gang) : Detect :=
  { Detect.blank hid (streamRank t.core t.tsel gi) 0x90 0 with
    team := ti, core := t.core, gang := gi, qmask := g.groups.foldl (fun m g => m ||| g.quads.toNat) 0, fdix := g.dix }

/-- The detection of a cox that has not retired. -/
def Team.coxUnretired (t : Team) (hid ti : Nat) : Detect :=
  { Detect.blank hid (streamRank t.core t.tsel 16) 0x90 1 with team := ti, core := t.core, gang := 0, qmask := 0, fdix := t.cox.count }

theorem unretired_eq (hid ti : Nat) (t : Team) : unretired hid ti t =
    (((List.range t.gangs.length).zip t.gangs).filterMap fun ig =>
      if ig.2.retired then none else some (t.gangUnretired hid ti ig.1 ig.2)) ++
    (if t.cox.retired then [] else [t.coxUnretired hid ti]) := rfl

theorem Heat.mem_unretired {h : Heat} {hid ti : Nat} {x : Team} {d : Detect} (hx : h.teams[ti]? = some x) (hd : d ∈ unretired hid ti x) :
    d ∈ h.unretiredStreams hid :=
  List.mem_flatten.2 ⟨_, List.mem_map.2 ⟨(ti, x), mem_zip_range hx, rfl⟩, hd⟩

theorem Team.gang_mem_unretired {x : Team} (hid ti : Nat) {gi : Nat} {g : Gang} (hg : x.gangs[gi]? = some g) (hr : g.retired = false) :
    x.gangUnretired hid ti gi g ∈ unretired hid ti x := by
  rw [unretired_eq]
  refine List.mem_append_left _ (List.mem_filterMap.2 ⟨(gi, g), mem_zip_range hg, ?_⟩)
  dsimp only
  rw [hr]
  rfl

theorem Team.cox_mem_unretired {x : Team} (hid ti : Nat) (hr : x.cox.retired = false) : x.coxUnretired hid ti ∈ unretired hid ti x := by
  rw [unretired_eq, hr]
  exact List.mem_append_right _ (List.mem_singleton_self _)

theorem Heat.unretiredStreams_nil {h : Heat} (hid : Nat) (hr : h.allRetired = true) : h.unretiredStreams hid = [] := by
  have hteams := List.all_eq_true.1 hr
  refine List.flatten_eq_nil_iff.2 fun l hl => ?_
  obtain ⟨it, hit, rfl⟩ := List.mem_map.1 hl
  have ht := Bool.and_eq_true_iff.1 (hteams it.2 (List.of_mem_zip hit).2)
  have hg := List.all_eq_true.1 ht.2
  unfold unretired
  rw [ht.1]
  refine List.append_eq_nil_iff.2 ⟨List.filterMap_eq_nil_iff.2 fun ig hig => ?_, rfl⟩
  rw [hg ig.2 (List.of_mem_zip hig).2]
  rfl

theorem endCheck_effect {s : State} {h : Heat} (ha : s.arg = .endCheck h.hid) (hh : s.heat? h.hid = some h)
    (hs : h.status = .running ∨ h.status = .closing) : ∃ (t : State), exec .endCheck s = .next t ∧
      sameFiles s t ∧ s.keeps t [] ∧ (h.allRetired = true → t = s) ∧
      ∀ ti x, h.teams[ti]? = some x →
        (∀ gi g, x.gangs[gi]? = some g → g.retired = false → t.gangStopped ⟨h.hid, ti, gi⟩ ∧
          ∃ d ∈ t.detects, d.cause = 0x90 ∧ d.hid = h.hid ∧ d.src = 0 ∧ d.team = ti ∧ d.gang = gi ∧ d.fdix = g.dix) ∧
        (x.cox.retired = false → (t.cox? ⟨h.hid, ti⟩).map (·.stopped.isSome) = some true ∧
          ∃ d ∈ t.detects, d.cause = 0x90 ∧ d.hid = h.hid ∧ d.src = 1 ∧ d.team = ti ∧ d.fdix = x.cox.count) := by
  have hx := exec_endCheck ha hh hs
  obtain ⟨-, hdet, hfiles⟩ := foldl_endStop h.hid (h.unretiredStreams h.hid) s
  refine ⟨_, hx, hfiles, (execEndCheck_keeps s).keeps hx, fun hr => by rw [Heat.unretiredStreams_nil _ hr]; rfl, fun ti x hti => ?_⟩
  have hteam : s.team? ⟨h.hid, ti⟩ = some x := by
    unfold State.team?
    rw [hh]
    exact hti
  rw [hdet]
  refine ⟨fun gi g hgi hr => ?_, fun hr => ?_⟩
  · have hd := Heat.mem_unretired hti (Team.gang_mem_unretired h.hid ti hgi hr)
    refine ⟨(foldl_endStop_stopped hd).1 rfl ?_, _, List.mem_append_right _ hd, rfl, rfl, rfl, rfl, rfl, rfl⟩
    have hgang : s.gang? ⟨h.hid, ti, gi⟩ = some g := by
      unfold State.gang?
      rw [hteam]
      exact hgi
    exact Option.ne_none_iff_exists'.2 ⟨g, hgang⟩
  · have hd := Heat.mem_unretired hti (Team.cox_mem_unretired h.hid ti hr)
    refine ⟨(foldl_endStop_stopped hd).2 rfl ?_, _, List.mem_append_right _ hd, rfl, rfl, rfl, rfl, rfl⟩
    exact Option.ne_none_iff_exists'.2 ⟨x.cox, congrArg (Option.map Team.cox) hteam⟩

end Sys2Proof.Machine
end

section
/-! PROOFS. Heats: halts, and pre-emption requests. -/
namespace Sys2Proof.Machine

/-! ### A halt begins (R291, R320) -/

theorem Heat.haltDue_of_reached {h : Heat} {k : HaltKind} {x now : Nat} (hk : h.halt = some (k, x)) (hx : h.anchor + x ≤ now) :
    h.haltDue now = true := by
  unfold Heat.haltDue
  rw [hk]
  split
  · rfl
  · rename_i e
    cases e
    exact decide_eq_true hx
  · rename_i e
    cases e

/-- A heat that reaches its halt begins to halt. -/
theorem State.beginHalt_effect {s : State} {h : Heat} (hh : s.heat? h.hid = some h) {k : HaltKind} {x : Nat} (hk : h.halt = some (k, x))
    (hx : h.anchor + x ≤ s.now) (hs : h.status = .running ∨ h.status = .closing ∨ h.status = .scheduled) :
    Pushed (s.modHeat h.hid Heat.haltingNow) (s.beginHalt h.hid) ∧ sameFiles s (s.beginHalt h.hid) ∧
      ((s.beginHalt h.hid).heat? h.hid).map (·.status) = some .halting := by
  have hb := State.beginHalt_some hh (by rcases hs with e | e | e <;> simp [State.goingOn, e]) (Heat.haltDue_of_reached hk hx)
  have hp := State.afterCounter_pushed (s.modHeat h.hid Heat.haltingNow) h.hid
  rw [hb]
  refine ⟨hp, (files_of_heats hp.heats).trans (State.modHeat_files _ _ _ Heat.haltingNow_file), ?_⟩
  rw [heat?_congr hp.heats, State.heat?_modHeat_self hh Heat.haltingNow_hid]
  rfl

theorem preemptionHalt_effect {s : State} {h : Heat} {k : HaltKind} {x : Nat} (ha : s.arg = .preemptionHalt h.hid)
    (hh : s.heat? h.hid = some h) (hk : h.halt = some (k, x)) (hx : h.anchor + x ≤ s.now)
    (hs : h.status = .running ∨ h.status = .closing ∨ h.status = .scheduled) :
    ∃ (t : State), exec .preemptionHalt s = .next t ∧ sameFiles s t ∧ s.keeps t [] ∧ (t.heat? h.hid).map (·.status) = some .halting := by
  have he : exec .preemptionHalt s = .next (s.beginHalt h.hid) := by
    show execPreemptionHalt s = _
    unfold execPreemptionHalt
    rw [ha]
  obtain ⟨-, hf, hst⟩ := State.beginHalt_effect hh hk hx hs
  exact ⟨_, he, hf, (execPreemptionHalt_keeps s).keeps he, hst⟩

/-- The regatta told to halt, where a fault of a heat asks for it (R324, R355). -/
def State.faultTold (s : State) (h : Heat) : State :=
  match h.fault with
  | some d =>
    if h.record.sched ∧ s.regatta.member ∧ (s.policyOf h d = 0 ∨ s.policyOf h d = 2) then
      s.push s.now 44 (.halt s.pkgNo.toNat d.cause (roundUp 8192 (h.anchor + h.faultAt + s.regatta.haltLead)) none)
    else s
  | none => s

theorem State.faultTold_pushed (s : State) (h : Heat) : Pushed s (s.faultTold h) := by
  unfold State.faultTold
  split
  · split
    · exact State.push_pushed ..
    · exact .refl s
  · exact .refl s

theorem exec_faultHalt {s : State} {h : Heat} (ha : s.arg = .faultHalt h.hid) (hh : s.heat? h.hid = some h) :
    exec .faultHalt s = .next ((s.faultTold h).beginHalt h.hid) := by
  show execFaultHalt s = _
  unfold execFaultHalt
  rw [ha]
  dsimp only
  rw [hh]
  rfl

theorem faultHalt_effect {s : State} {h : Heat} {k : HaltKind} {x : Nat} (ha : s.arg = .faultHalt h.hid) (hh : s.heat? h.hid = some h)
    (hk : h.halt = some (k, x)) (hx : h.anchor + x ≤ s.now) (hs : h.status = .running ∨ h.status = .closing ∨ h.status = .scheduled) :
    ∃ (t : State), exec .faultHalt s = .next t ∧ sameFiles s t ∧ s.keeps t [] ∧ (t.heat? h.hid).map (·.status) = some .halting ∧
      ∀ d, h.fault = some d → h.record.sched = true → s.regatta.member = true → s.policyOf h d = 0 ∨ s.policyOf h d = 2 →
        t.awaits s.now (.halt s.pkgNo.toNat d.cause (roundUp 8192 (h.anchor + h.faultAt + s.regatta.haltLead)) none) := by
  have he := exec_faultHalt ha hh
  have hp := s.faultTold_pushed h
  have hnow : (s.faultTold h).now = s.now := by rw [hp.1]
  obtain ⟨hb, hf, hst⟩ := State.beginHalt_effect (s := s.faultTold h) ((heat?_congr hp.heats h.hid).trans hh) hk (hnow ▸ hx) hs
  refine ⟨_, he, hf.trans (files_of_heats hp.heats), (execFaultHalt_keeps s).keeps he, hst, fun d hd hsched hm hpol => ?_⟩
  have hw : (s.faultTold h).awaits s.now
      (.halt s.pkgNo.toNat d.cause (roundUp 8192 (h.anchor + h.faultAt + s.regatta.haltLead)) none) := by
    unfold State.faultTold
    rw [hd]
    dsimp only
    rw [if_pos ⟨hsched, hm, hpol⟩]
    exact State.push_awaits ..
  exact hb.awaits hw

/-! ### Pre-emption requests (R289, R290, R347) -/

/-- A heat that is to halt for pre-emption. -/
def Heat.preempted (ds : List Nat) (H : Nat) (h : Heat) : Heat :=
  { h with
    discards := ds, saveCost := h.saveSum
    halt := match h.halt with
      | some (.haltFlit _, _) => some (.preempt, H)
      | some (k, x) => some (k, min x H)
      | none => some (.preempt, H) }

theorem State.preemptHeat_eq (s : State) (h : Heat) (ds : List Nat) : s.preemptHeat h ds =
    (s.modHeat h.hid (Heat.preempted ds (h.preemptAt s.now))).push (h.anchor + h.preemptAt s.now) 84 (.preemptionHalt h.hid) := rfl

/-- What the acceptance of a pre-emption leaves. -/
theorem State.preemptHeat_effect {s : State} {h : Heat} (hh : s.heat? h.hid = some h) (hn : h.halt = none) (ds : List Nat) :
    sameFiles s (s.preemptHeat h ds) ∧ s.keeps (s.preemptHeat h ds) [] ∧
      ((s.preemptHeat h ds).heat? h.hid).map (fun y => (y.halt, y.discards, y.saveCost)) =
        some (some (.preempt, h.preemptAt s.now), ds, h.saveSum) ∧
      (s.preemptHeat h ds).awaits (h.anchor + h.preemptAt s.now) (.preemptionHalt h.hid) := by
  have hk := keeps_of_kept _ _ [] (s.preemptHeat_kept [] h ds)
  rw [State.preemptHeat_eq] at hk ⊢
  refine ⟨State.modHeat_files _ _ _ fun _ => rfl, hk, ?_, State.push_awaits ..⟩
  have e := State.heat?_modHeat_self (f := Heat.preempted ds (h.preemptAt s.now)) hh fun _ => rfl
  refine (congrArg (Option.map fun y => (y.halt, y.discards, y.saveCost)) e).trans ?_
  rw [Option.map_some, Heat.preempted, hn]

theorem exec_preemptSave {s : State} {hid : BitVec 32} {by' : BitVec 64} (ha : s.arg = .preemptSave hid by') :
    exec .preemptSave s = .next (s.preempt hid fun _ => some []) := by
  show execPreemptSave s = _
  unfold execPreemptSave
  rw [ha]

theorem exec_preemptDrain {s : State} {hid : BitVec 32} {by' : BitVec 64} (ha : s.arg = .preemptDrain hid by') :
    exec .preemptDrain s = .next (s.preempt hid fun _ => none) := by
  show execPreemptDrain s = _
  unfold execPreemptDrain
  rw [ha]

/-- What an estimate answers for a heat: the teams to discard, or none when it drains in time. -/
def State.estimate (s : State) (by' : Nat) (h : Heat) : Option (List Nat) :=
  if h.anchor + h.record.stop + 1024 ≤ s.named by' then none else some (h.discardSet (h.preemptAt s.now))

theorem exec_preemptEstimate {s : State} {hid : BitVec 32} {by' : BitVec 64} (ha : s.arg = .preemptEstimate hid by') :
    exec .preemptEstimate s = .next (s.preempt hid (s.estimate by'.toNat)) := by
  show execPreemptEstimate s = _
  unfold execPreemptEstimate
  rw [ha]
  rfl

theorem State.preempt_found {s : State} {hid : BitVec 32} {h : Heat} (hf : s.heats.find? (fun h => h.heatid == hid) = some h)
    (hs : h.record.sched = false) (hst : h.status = .scheduled ∨ h.status = .running ∨ h.status = .closing)
    (save : Heat → Option (List Nat)) :
    s.preempt hid save = match save h with
      | none => s
      | some ds => s.preemptHeat h ds := by
  have hr : ¬(h.status = .restoring ∧ (!h.record.sched) = true) := by
    rcases hst with e | e | e <;> rw [e] <;> exact fun h => nomatch h.1
  have hgo : ¬(h.record.sched = true ∨
      (!(h.status == .scheduled || h.status == .running || h.status == .closing)) = true) := by
    rcases hst with e | e | e <;> rw [hs, e] <;> decide
  unfold State.preempt
  rw [hf]
  refine (if_neg hr).trans ((if_neg hgo).trans ?_)
  cases save h <;> rfl

theorem State.preempt_resuming {s : State} {hid : BitVec 32} {h : Heat} (hf : s.heats.find? (fun h => h.heatid == hid) = some h)
    (hs : h.record.sched = false) (hst : h.status = .restoring) (save : Heat → Option (List Nat)) :
    s.preempt hid save = s.push (max (s.now + 1) (h.anchor + h.resumeStop)) 84 s.arg := by
  unfold State.preempt
  rw [hf]
  dsimp only
  rw [hs, hst, if_pos ⟨rfl, rfl⟩]

theorem State.preempt_unknown {s : State} {hid : BitVec 32} (hf : ∀ h ∈ s.heats, h.heatid ≠ hid) (hn : hid = 0 ∨ s.nextHeatid ≤ hid)
    (save : Heat → Option (List Nat)) : s.preempt hid save = s.mailStatus 1 := by
  have hnone : s.heats.find? (fun h => h.heatid == hid) = none :=
    List.find?_eq_none.2 fun h hh => by simpa using hf h hh
  unfold State.preempt
  rw [hnone]
  exact if_pos hn

/-- The teams that a MODE 0 request discards (R290). -/
theorem Heat.mem_discardSet (h : Heat) (H i : Nat) : i ∈ h.discardSet H ↔ ∃ x, h.teams[i]? = some x ∧ x.restart = true ∧
    ((H : Nat) : Int) - x.sigma ≤ 2 * x.saveTime ∧ roundUp 8192 H ≤ h.record.stop / 2 := by
  unfold Heat.discardSet
  rw [List.mem_filter, List.mem_range]
  cases hx : h.teams[i]? with
  | none =>
    exact ⟨fun ⟨_, h⟩ => (nomatch h), fun ⟨_, h, _⟩ => (nomatch h)⟩
  | some t =>
    have hlt : i < h.teams.length := (List.getElem?_eq_some_iff.1 hx).1
    simp only [hlt, true_and, Option.some.injEq, Bool.and_eq_true, decide_eq_true_eq, and_assoc, exists_eq_left']

theorem preempt_found_effect {s : State} {hid : BitVec 32} {by' : BitVec 64} {h : Heat}
    (hf : s.heats.find? (fun h => h.heatid == hid) = some h) (hh : s.heat? h.hid = some h) (hs : h.record.sched = false)
    (hn : h.halt = none) (hst : h.status = .scheduled ∨ h.status = .running ∨ h.status = .closing) :
    let H (h : Heat) := if s.now + 64 ≤ h.anchor then 0 else roundUp h.rho (s.now + 64 - h.anchor)
    let halts (t : State) (h : Heat) (ds : List Nat) : Prop := sameFiles s t ∧ s.keeps t [] ∧
      (t.heat? h.hid).map (fun y => (y.halt, y.discards, y.saveCost)) = some (some (.preempt, H h), ds, h.saveSum) ∧
      t.awaits (h.anchor + H h) (.preemptionHalt h.hid)
    (s.arg = .preemptSave hid by' → ∃ (t : State), exec .preemptSave s = .next t ∧ halts t h []) ∧
    (s.arg = .preemptEstimate hid by' → s.named by'.toNat < h.anchor + h.record.stop + 1024 →
      ∃ (t : State) (ds : List Nat), exec .preemptEstimate s = .next t ∧ halts t h ds ∧
        ∀ i, i ∈ ds ↔ ∃ x, h.teams[i]? = some x ∧ x.restart = true ∧ ((H h : Nat) : Int) - x.sigma ≤ 2 * x.saveTime ∧
          roundUp 8192 (H h) ≤ h.record.stop / 2) ∧
    (s.arg = .preemptEstimate hid by' → h.anchor + h.record.stop + 1024 ≤ s.named by'.toNat → exec .preemptEstimate s = .next s) ∧
    (s.arg = .preemptDrain hid by' → exec .preemptDrain s = .next s) := by
  refine ⟨fun ha => ?_, fun ha hlt => ?_, fun ha hle => ?_, fun ha => ?_⟩
  · have hx := exec_preemptSave ha
    rw [State.preempt_found hf hs hst] at hx
    exact ⟨_, hx, State.preemptHeat_effect hh hn []⟩
  · have hx := exec_preemptEstimate ha
    rw [State.preempt_found hf hs hst, State.estimate, if_neg (by omega)] at hx
    exact ⟨_, _, hx, State.preemptHeat_effect hh hn _, fun i => h.mem_discardSet _ i⟩
  · rw [exec_preemptEstimate ha, State.preempt_found hf hs hst, State.estimate, if_pos hle]
  · rw [exec_preemptDrain ha, State.preempt_found hf hs hst]

theorem preempt_resuming_effect {s : State} {hid : BitVec 32} {by' : BitVec 64} {h : Heat}
    (hf : s.heats.find? (fun h => h.heatid == hid) = some h) (hs : h.record.sched = false) (hst : h.status = .restoring) :
    let again (t : State) : Prop := t.heats = s.heats ∧ t.awaits (max (s.now + 1) (h.anchor + h.resumeStop)) s.arg
    (s.arg = .preemptSave hid by' → ∃ (t : State), exec .preemptSave s = .next t ∧ again t) ∧
    (s.arg = .preemptEstimate hid by' → ∃ (t : State), exec .preemptEstimate s = .next t ∧ again t) ∧
    (s.arg = .preemptDrain hid by' → ∃ (t : State), exec .preemptDrain s = .next t ∧ again t) := by
  have hp := State.preempt_resuming hf hs hst
  exact ⟨fun ha => ⟨_, (exec_preemptSave ha).trans (congrArg _ (hp _)), rfl, State.push_awaits ..⟩,
    fun ha => ⟨_, (exec_preemptEstimate ha).trans (congrArg _ (hp _)), rfl, State.push_awaits ..⟩,
    fun ha => ⟨_, (exec_preemptDrain ha).trans (congrArg _ (hp _)), rfl, State.push_awaits ..⟩⟩

theorem preempt_unknown_effect {s : State} {hid : BitVec 32} {by' : BitVec 64} (hf : ∀ h ∈ s.heats, h.heatid ≠ hid)
    (hn : hid = 0 ∨ s.nextHeatid ≤ hid) :
    let told := ({ s with mailbox := { s.mailbox with status := Config.statusCode 1 } } : State)
    (s.arg = .preemptSave hid by' → exec .preemptSave s = .next told) ∧
    (s.arg = .preemptEstimate hid by' → exec .preemptEstimate s = .next told) ∧
    (s.arg = .preemptDrain hid by' → exec .preemptDrain s = .next told) := by
  have hp := State.preempt_unknown hf hn
  exact ⟨fun ha => (exec_preemptSave ha).trans (congrArg _ (hp _)), fun ha => (exec_preemptEstimate ha).trans (congrArg _ (hp _)),
    fun ha => (exec_preemptDrain ha).trans (congrArg _ (hp _))⟩

theorem exec_preemptionRequestUnassigned {s : State} {hid mode : BitVec 32} (ha : s.arg = .preemptionRequestUnassigned hid mode) :
    exec .preemptionRequestUnassigned s = .next (s.mailStatus 2) := by
  show execPreemptionRequestUnassigned s = _
  unfold execPreemptionRequestUnassigned
  rw [ha]

end Sys2Proof.Machine
end

section
/-! PROOFS. Heats: the trap record closes, and the schedule is frozen. -/
namespace Sys2Proof.Machine

/-! ### A trap record closes (R322) -/

/-- A heat with its trap record. -/
def Heat.trapped (ws : Store Word) (h : Heat) : Heat := { h with trap := ws }

/-- A heat of which a fault saves every team (R320). -/
def Heat.savesAll (h : Heat) : Heat := { h with discards := if h.fault.isSome then [] else h.discards }

/-- The words of a heat's trap record at Q. -/
def State.trapOf (s : State) (h : Heat) (d : Detect) : Store Word := trapWords (s.finalIter h d) h h.nsec h.faultAt h.haltCyc

/-- The words of a trap record as the log holds them. -/
def trapList (ws : Store Word) : List Word := (List.range 64).map fun i => Store.get 0 ws i

/-- What closing a trap record changes but for the heat itself. -/
def TrapLogged (s t : State) (ws : Store Word) : Prop :=
  (∃ mb m l, t = { s with mailbox := mb, faultLog := s.faultLog ++ [trapList ws], hbm := m, hbmLog := l }) ∧
    (s.mailbox.logBase = none → t.hbm = s.hbm)

theorem State.logTrap_logged (s : State) (h : Heat) : TrapLogged s (s.logTrap h) h.trap := by
  unfold State.logTrap
  dsimp only
  split
  · rename_i a ha
    exact ⟨⟨_, _, _, rfl⟩, fun hn => nomatch ha.symm.trans hn⟩
  · exact ⟨⟨_, _, _, rfl⟩, fun _ => rfl⟩

theorem State.closeTrap_fault {s : State} {h : Heat} {d : Detect} (hh : s.heat? h.hid = some h) (hf : h.fault = some d) :
    TrapLogged (s.modHeat h.hid (Heat.trapped (s.trapOf h d))) (s.closeTrap h.hid) (s.trapOf h d) := by
  unfold State.closeTrap
  rw [hh]
  dsimp only
  rw [hf]
  dsimp only
  split
  · obtain ⟨⟨_, _, _, e⟩, hn⟩ := State.logTrap_logged ({ s.modHeat h.hid (Heat.trapped (s.trapOf h d)) with
      mailbox := { s.mailbox with revokeFault := true } } : State) (h.trapped (s.trapOf h d))
    exact ⟨⟨_, _, _, e⟩, hn⟩
  · exact State.logTrap_logged (s.modHeat h.hid (Heat.trapped (s.trapOf h d))) (h.trapped (s.trapOf h d))

theorem State.closeTrap_none {s : State} {h : Heat} (hh : s.heat? h.hid = some h) (hf : h.fault = none) : s.closeTrap h.hid = s := by
  unfold State.closeTrap
  rw [hh]
  dsimp only
  rw [hf]

/-! ### A halted heat is frozen (R351, R352) -/

/-- What of a heat stays as it is while it comes to rest. -/
structure Rests (h y : Heat) : Prop where
  hid : y.hid = h.hid
  status : y.status = h.status
  fault : y.fault = h.fault
  halt : y.halt = h.halt
  record : y.record = h.record
  queue : y.queue = h.queue
  clusters : y.clusters = h.clusters
  saveCost : y.saveCost = h.saveCost
  trap : y.trap = h.trap
  retired : y.allRetired = h.allRetired

theorem Rests.refl (h : Heat) : Rests h h := ⟨rfl, rfl, rfl, rfl, rfl, rfl, rfl, rfl, rfl, rfl⟩

theorem Rests.trans {h y z : Heat} (a : Rests h y) (b : Rests y z) : Rests h z :=
  ⟨b.hid.trans a.hid, b.status.trans a.status, b.fault.trans a.fault, b.halt.trans a.halt, b.record.trans a.record,
    b.queue.trans a.queue, b.clusters.trans a.clusters, b.saveCost.trans a.saveCost, b.trap.trans a.trap,
    b.retired.trans a.retired⟩

/-- A team that starts again shifted. -/
def Team.shifted (n : Nat) (t : Team) : Team := { t with shift := n }

theorem all_modifyNth {α : Type} (p : α → Bool) (f : α → α) (hf : ∀ x, p (f x) = p x) (l : List α) (i : Nat) :
    (modifyNth l i f).all p = l.all p := by
  induction l generalizing i with
  | nil => rfl
  | cons x r ih => cases i <;> simp [modifyNth, hf, ih]

theorem Heat.shiftTeam_rests (h : Heat) (i n : Nat) : Rests h (h.modTeam i (Team.shifted n)) :=
  ⟨rfl, rfl, rfl, rfl, rfl, rfl, rfl, rfl, rfl, all_modifyNth _ (Team.shifted n) (fun _ => rfl) h.teams i⟩

/-- A state of which only heats have changed, and of the heat with a number nothing that its rest leaves. -/
structure Resting (hid : Nat) (s t : State) : Prop where
  eq : ∃ hs, t = { s with heats := hs }
  files : t.files = s.files
  heat : ∀ h, s.heat? hid = some h → ∃ y, t.heat? hid = some y ∧ Rests h y

theorem Resting.refl (hid : Nat) (s : State) : Resting hid s s := ⟨⟨_, rfl⟩, rfl, fun h e => ⟨h, e, .refl h⟩⟩

theorem Resting.trans {hid : Nat} {s t u : State} (a : Resting hid s t) (b : Resting hid t u) : Resting hid s u := by
  refine ⟨?_, b.files.trans a.files, fun h e => ?_⟩
  · obtain ⟨hs, rfl⟩ := a.eq
    obtain ⟨hs', rfl⟩ := b.eq
    exact ⟨hs', rfl⟩
  · obtain ⟨y, ey, ry⟩ := a.heat h e
    obtain ⟨z, ez, rz⟩ := b.heat y ey
    exact ⟨z, ez, ry.trans rz⟩

theorem State.shiftTeam_resting (s : State) (hid i n : Nat) : Resting hid s (s.modTeam ⟨hid, i⟩ (Team.shifted n)) := by
  refine ⟨⟨_, rfl⟩, State.modTeam_files _ _ _ fun _ => rfl, fun h e => ⟨h.modTeam i (Team.shifted n), ?_, h.shiftTeam_rests i n⟩⟩
  obtain rfl := State.heat?_hid e
  exact State.heat?_modHeat_self e fun _ => rfl

theorem foldl_resting {α : Type} {hid : Nat} (f : State → α → State) (h : ∀ s x, Resting hid s (f s x)) (l : List α) :
    ∀ s, Resting hid s (l.foldl f s) := by
  induction l with
  | nil => exact fun s => .refl hid s
  | cons x r ih => exact fun s => (h s x).trans (ih _)

/-- A heat that has come to rest with its stop points and the rest of its schedule. -/
def Heat.frozen (ps : List (StopAgent × Nat)) (mine : List Due) (h : Heat) : Heat :=
  { h with
    status := .quiesced, stops := ps, resumeStop := leastStop h ps
    parked := (h.parked.filter fun d => !h.discarded d.ev) ++ mine.map fun d => { d with at_ := d.at_ - h.anchor } }

/-- A heat at rest. -/
def Heat.quieted (h : Heat) : Heat := { h with status := .quiesced }

/-- What freezing a heat's schedule leaves. -/
structure Frozen (h : Heat) (s t : State) : Prop where
  eq : ∃ hs, t = { s with heats := hs, agenda := s.agenda.filter fun d => !(h.waits d.ev || resumesOf h.hid d.ev) }
  files : t.files = s.files
  heat : ∃ y, t.heat? h.hid = some y ∧ Rests h.quieted y

/-- A heat as its schedule is taken off a state's agenda. -/
def State.takenFrom (s : State) (h : Heat) : Heat → Heat := Heat.frozen (s.stopPoints h)
  (s.agenda.filter fun d => h.waits d.ev && !h.discarded d.ev)

/-- A state with a heat's schedule off its agenda. -/
def State.scheduleTaken (s : State) (h : Heat) : State :=
  (s.cancel fun e => h.waits e || resumesOf h.hid e).modHeat h.hid (s.takenFrom h)

theorem State.scheduleTaken_files (s : State) (h : Heat) : (s.scheduleTaken h).files = s.files :=
  (State.modHeat_files _ h.hid (s.takenFrom h) fun _ => rfl).trans (State.cancel_files ..)

theorem State.scheduleTaken_resting (s : State) (h : Heat) : Resting h.hid (s.scheduleTaken h) (s.freezeHeat h) :=
  foldl_resting _ (fun v i => v.shiftTeam_resting h.hid i (roundUp 8192 h.haltCyc)) h.discards _

theorem State.freezeHeat_frozen {s : State} {h : Heat} (hh : s.heat? h.hid = some h) : Frozen h s (s.freezeHeat h) := by
  have hu : (s.scheduleTaken h).heat? h.hid = some (s.takenFrom h h) :=
    State.heat?_modHeat_self (s := s.cancel fun e => h.waits e || resumesOf h.hid e) hh fun _ => rfl
  have hr := s.scheduleTaken_resting h
  obtain ⟨hs, e⟩ := hr.eq
  obtain ⟨y, hy, ry⟩ := hr.heat _ hu
  refine ⟨⟨hs, e⟩, hr.files.trans (s.scheduleTaken_files h), y, hy, ?_⟩
  have h0 : Rests h.quieted (s.takenFrom h h) := ⟨rfl, rfl, rfl, rfl, rfl, rfl, rfl, rfl, rfl, rfl⟩
  exact h0.trans ry

/-! ### Whether a heat at rest is still quiet (R321) -/

section
variable {h y : Heat} {s t : State}

theorem State.beatsLeft_of_sublist (hy : y.hid = h.hid) (hc : t.cmds = s.cmds) (ha : ∀ d ∈ t.agenda, d ∈ s.agenda)
    (hq : s.beatsLeft h = false) : t.beatsLeft y = false := by
  rw [State.beatsLeft, hy, hc, List.any_eq_false]
  rw [State.beatsLeft, List.any_eq_false] at hq
  intro c hcs hx
  rw [Bool.and_eq_true, List.any_eq_true] at hx
  obtain ⟨hf, d, hd, hp⟩ := hx
  refine hq c hcs ?_
  rw [Bool.and_eq_true, List.any_eq_true]
  exact ⟨hf, d, ha d hd, hp⟩

theorem State.quiet_of_sublist (hy : y.hid = h.hid) (hcl : y.clusters = h.clusters) (hk : t.cores = s.cores) (hc : t.cmds = s.cmds)
    (ha : ∀ d ∈ t.agenda, d ∈ s.agenda) (hq : s.quiet h = true) : t.quiet y = true := by
  rw [State.quiet, Bool.and_eq_true, Bool.not_eq_true'] at hq ⊢
  refine ⟨?_, State.beatsLeft_of_sublist hy hc ha hq.2⟩
  rw [hcl]
  unfold State.core
  rw [hk]
  exact hq.1

theorem State.msgQuiet_congr (hcl : y.clusters = h.clusters) (hk : t.cores = s.cores) : t.msgQuiet y = s.msgQuiet h := by
  unfold State.msgQuiet State.core
  rw [hcl, hk]

end

end Sys2Proof.Machine
end

section
/-! PROOFS. Heats: the quiesce and its policies. -/
namespace Sys2Proof.Machine

/-! ### What an acting policy leaves (R291, R323) -/

/-- What the policies leave that abort or save a heat: the memories, the registers, the fault log, the heat's trap record, and an
agenda on which nothing waits for a heat that did not before. -/
structure Acts (hid : Nat) (s t : State) : Prop where
  kept : ∀ ps, t.kept ps = s.kept ps
  files : t.files = s.files
  faultLog : t.faultLog = s.faultLog
  trap : (t.heat? hid).map (·.trap) = (s.heat? hid).map (·.trap)
  agenda : ∀ d ∈ t.agenda, d ∈ s.agenda ∨ ∀ h : Heat, h.waits d.ev = false

section
variable {hid : Nat} {s t u : State}

theorem Acts.refl (hid : Nat) (s : State) : Acts hid s s := ⟨fun _ => rfl, rfl, rfl, rfl, fun _ hd => .inl hd⟩

theorem Acts.trans (a : Acts hid s t) (b : Acts hid t u) : Acts hid s u :=
  ⟨fun ps => (b.kept ps).trans (a.kept ps), b.files.trans a.files, b.faultLog.trans a.faultLog, b.trap.trans a.trap,
    fun d hd => (b.agenda d hd).elim (a.agenda d) .inr⟩

/-- No step that waits for a heat waits again once the heat's own are gone. -/
theorem Acts.stays_free (a : Acts hid s t) {h : Heat} (hs : ∀ d ∈ s.agenda, h.waits d.ev = false) :
    ∀ d ∈ t.agenda, h.waits d.ev = false := fun d hd => (a.agenda d hd).elim (hs d) (· h)

theorem State.push_acts (s : State) (hid c r : Nat) {e : Ev} (he : ∀ h : Heat, h.waits e = false) : Acts hid s (s.push c r e) := by
  refine ⟨fun ps => State.push_kept ps s c r e, State.push_files .., rfl, rfl, fun d hd => ?_⟩
  rcases (State.mem_pushSub ..).1 hd with rfl | hd
  · exact .inr he
  · exact .inl hd

theorem State.modHeat_acts (s : State) (hid : Nat) (f : Heat → Heat) (h : ∀ x, (f x).hid = x.hid ∧ (f x).trap = x.trap)
    (hf : ∀ x, (f x).file = x.file) : Acts hid s (s.modHeat hid f) := by
  refine ⟨fun _ => State.modHeat_kept .., State.modHeat_files _ _ _ hf, rfl, ?_, fun _ hd => .inl hd⟩
  rw [State.heat?_modHeat _ _ _ _ fun x => (h x).1, Option.map_map]
  refine congrArg (fun g => (s.heat? hid).map g) (funext fun x => ?_)
  rw [Function.comp]
  split
  · exact (h x).2
  · rfl

end

theorem State.abortHeat_acts (s : State) (hid cause : Nat) : Acts hid s (s.abortHeat hid cause) :=
  (s.modHeat_acts hid (Heat.aborted cause) (fun _ => ⟨rfl, rfl⟩) fun _ => rfl).trans (State.push_acts _ _ _ _ fun _ => rfl)

theorem State.corrected_acts (s : State) (hid k : Nat) (p : Nat → Bool) : Acts hid s (s.corrected k p) :=
  ⟨fun _ => State.corrected_kept .., State.corrected_files .., State.corrected_faultLog ..,
    congrArg _ (heat?_congr (State.corrected_heats ..) hid), fun _ hd => .inl (State.corrected_agenda s k p ▸ hd)⟩

theorem foldl_acts {α : Type} {hid : Nat} (f : State → α → State) (h : ∀ s x, Acts hid s (f s x)) (l : List α) :
    ∀ s, Acts hid s (l.foldl f s) := by
  induction l with
  | nil => exact fun s => .refl hid s
  | cons x r ih => exact fun s => (h s x).trans (ih _)

theorem State.saveCorrected_acts (s : State) (hid : Nat) (h : Heat) : Acts hid s (s.saveCorrected h) :=
  foldl_acts _ (fun u k => u.corrected_acts hid k (h.saves k)) _ s

theorem State.saveCorrected_heats (s : State) (h : Heat) : (s.saveCorrected h).heats = s.heats := by
  unfold State.saveCorrected
  simp only [List.foldl_cons, List.foldl_nil, State.corrected_heats]

theorem State.choose_acts (s : State) (hid lo hi : Nat) : Acts hid s (s.choose lo hi).2 := by
  obtain ⟨n, hn⟩ := s.choose_eq lo hi
  rw [hn]
  exact ⟨fun _ => rfl, rfl, rfl, rfl, fun _ hd => .inl hd⟩

theorem State.saveChosen_acts (s : State) (h : Heat) (lo hi : Nat) : Acts h.hid s (s.saveChosen h lo hi) :=
  (State.choose_acts ..).trans ((State.modHeat_acts _ h.hid (Heat.savingFor h.costToSave) (fun _ => ⟨rfl, rfl⟩) fun _ => rfl).trans
    (State.push_acts _ _ _ _ fun _ => rfl))

theorem State.startSave_acts (s : State) (h : Heat) : Acts h.hid s (s.startSave h) := by
  rw [State.startSave_eq]
  split
  · exact State.abortHeat_acts ..
  · exact (State.saveCorrected_acts ..).trans (State.saveChosen_acts ..)

/-! ### A save begins (R291, R349) -/

theorem State.saveError_none {s : State} (h : Heat) (hd : s.env.doubleBits = []) : s.saveError h = none := by
  have hu : ∀ k p, s.uncorrectable k p = false := fun k p => by
    unfold State.uncorrectable
    rw [hd]
    rfl
  unfold State.saveError
  simp only [hu]
  rfl

theorem foldl_max_ge (l : List Due) : ∀ m : Nat, m ≤ l.foldl (fun m d => max m d.at_) m := by
  induction l with
  | nil => exact fun m => Nat.le_refl m
  | cons d r ih => exact fun m => (Nat.le_max_left ..).trans (ih _)

theorem State.now_le_lastLanding (s : State) (hid : Nat) : s.now ≤ s.lastLanding hid := foldl_max_ge _ _

theorem State.lastLanding_none {s : State} {hid : Nat} (h : ∀ d ∈ s.agenda, s.landsFor hid d.ev = false) : s.lastLanding hid = s.now := by
  unfold State.lastLanding
  rw [List.filter_eq_nil_iff.2 fun d hd => by rw [h d hd]; exact Bool.false_ne_true]
  rfl

theorem State.startSave_saves {s : State} {h : Heat} (hh : s.heat? h.hid = some h) (hd : s.env.doubleBits = []) :
    ((s.startSave h).heat? h.hid).map (·.status) = some .saving ∧ ∃ c, s.now < c ∧ (s.startSave h).awaits c (.saveComplete h.hid) ∧
      ((∀ d ∈ s.agenda, s.landsFor h.hid d.ev = false) → c ≤ s.now + h.costToSave + 4096) := by
  rw [State.startSave_eq, State.saveError_none h hd]
  have hc : (s.saveCorrected h).heat? h.hid = some h := (heat?_congr (s.saveCorrected_heats h) h.hid).trans hh
  generalize hlo : s.lastLanding h.hid + 1 = lo
  generalize s.saveCorrected h = u at hc
  refine ⟨?_, (u.choose lo (s.now + h.costToSave + 4096)).1, ?_, State.push_awaits .., fun hn => ?_⟩
  · obtain ⟨n, hn⟩ := u.choose_eq lo (s.now + h.costToSave + 4096)
    have e := State.heat?_modHeat_self (s := (u.choose lo (s.now + h.costToSave + 4096)).2) (f := Heat.savingFor h.costToSave)
      (by rw [hn]; exact hc) fun _ => rfl
    exact congrArg (Option.map (·.status)) e
  · exact Nat.lt_of_lt_of_le (by have := s.now_le_lastLanding h.hid; omega) (u.le_choose lo _)
  · refine u.choose_le ?_
    rw [State.lastLanding_none hn] at hlo
    omega

/-! ### The quiesce acts (R319, R321) -/

/-- A state whose heat's trap record is closed, as its schedule is to be frozen. -/
def State.trapClosed (s : State) (hid : Nat) : State := (s.closeTrap hid).modHeat hid Heat.savesAll

theorem exec_quiesce {s : State} {h : Heat} (ha : s.arg = .quiesce h.hid) (hh : s.heat? h.hid = some h)
    (hst : h.status = .halting) (hq : s.quiet h = true) (hb : s.barPend = []) (hd : s.detects = []) :
    exec .quiesce s = match (s.trapClosed h.hid).heat? h.hid with
      | none => .next (s.trapClosed h.hid)
      | some z => match ((s.trapClosed h.hid).freezeHeat z).heat? h.hid with
        | none => .next ((s.trapClosed h.hid).freezeHeat z)
        | some y =>
          if ((s.trapClosed h.hid).freezeHeat z).policyFrom y > ((s.trapClosed h.hid).freezeHeat z).now then
            .next (((s.trapClosed h.hid).freezeHeat z).push (((s.trapClosed h.hid).freezeHeat z).policyFrom y) 85 (.quiesce h.hid))
          else .next (((s.trapClosed h.hid).freezeHeat z).actPolicy y) := by
  show execQuiesce s = _
  unfold execQuiesce
  rw [ha]
  dsimp only
  rw [State.settle_idle hb hd, hh]
  dsimp only
  rw [if_neg (by rw [hst]; exact fun e => nomatch e.1), if_neg (by rw [hst, hq]; simp)]
  rfl

theorem quiesce_frozen {s : State} {h z : Heat} (ha : s.arg = .quiesce h.hid) (hh : s.heat? h.hid = some h)
    (hst : h.status = .halting) (hq : s.quiet h = true) (hb : s.barPend = []) (hd : s.detects = [])
    (hz : (s.closeTrap h.hid).heat? h.hid = some z) : z.hid = h.hid ∧
    ∃ u y, Frozen z.savesAll (s.trapClosed h.hid) u ∧ u.heat? h.hid = some y ∧
      Rests z.savesAll.quieted y ∧ (u.policyFrom y = u.now → exec .quiesce s = .next (u.actPolicy y)) := by
  have hid : z.hid = h.hid := State.heat?_hid hz
  have hw : (s.trapClosed h.hid).heat? h.hid = some z.savesAll := by
    rw [← hid] at hz ⊢
    exact State.heat?_modHeat_self (f := Heat.savesAll) hz fun _ => rfl
  have hf : Frozen z.savesAll (s.trapClosed h.hid) ((s.trapClosed h.hid).freezeHeat z.savesAll) :=
    State.freezeHeat_frozen (h := z.savesAll) (hw ▸ congrArg _ hid)
  obtain ⟨y, hy, ry⟩ := hf.heat
  have hy' : ((s.trapClosed h.hid).freezeHeat z.savesAll).heat? h.hid = some y := hy ▸ congrArg _ hid.symm
  refine ⟨hid, _, y, hf, hy', ry, fun hp => ?_⟩
  rw [exec_quiesce ha hh hst hq hb hd, hw]
  dsimp only
  rw [hy']
  dsimp only
  rw [if_neg (by rw [hp]; exact Nat.lt_irrefl _)]

/-! ### A pre-empted heat at rest (R290, R291) -/

/-- A heat that goes on to its completion. -/
def Heat.completing (h : Heat) : Heat := { h with status := .closing }

section
variable {u : State} {y : Heat}

theorem State.policyFrom_no_fault (hf : y.fault = none) : u.policyFrom y = u.now := by
  unfold State.policyFrom
  rw [hf]

theorem State.policyFrom_not_sched (hs : y.record.sched = false) : u.policyFrom y = u.now := by
  unfold State.policyFrom
  split
  · exact if_neg fun e => by rw [hs] at e; exact Bool.false_ne_true e.1
  · rfl

theorem State.actPolicy_complete {x : Nat} (hf : y.fault = none) (hk : y.halt = some (.preempt, x)) (hc : u.completeAtHalt y = true) :
    u.actPolicy y = (u.modHeat y.hid Heat.completing).push u.now 80 (.heatCompletion y.hid) := by
  unfold State.actPolicy
  rw [hf]
  dsimp only
  rw [hk]
  dsimp only
  rw [if_pos hc]
  rfl

theorem State.actPolicy_saves {x : Nat} (hf : y.fault = none) (hk : y.halt = some (.preempt, x)) (hc : y.allRetired = false) :
    u.actPolicy y = u.startSave y := by
  unfold State.actPolicy
  rw [hf]
  dsimp only
  rw [hk]
  dsimp only
  rw [if_neg (by rw [State.completeAtHalt, hc]; exact Bool.false_ne_true)]

end

/-- A pre-empted heat comes to rest without a trap record. -/
theorem quiesce_preempted {s : State} {h : Heat} (ha : s.arg = .quiesce h.hid) (hh : s.heat? h.hid = some h)
    (hst : h.status = .halting) (hq : s.quiet h = true) (hb : s.barPend = []) (hd : s.detects = []) (hf : h.fault = none) :
    ∃ u y, Frozen h.savesAll (s.modHeat h.hid Heat.savesAll) u ∧ u.files = s.files ∧ u.heat? h.hid = some y ∧ Rests h.savesAll.quieted y ∧
      exec .quiesce s = .next (u.actPolicy y) := by
  have hc := State.closeTrap_none hh hf
  have hz : (s.closeTrap h.hid).heat? h.hid = some h := by rw [hc]; exact hh
  obtain ⟨-, u, y, fu, hy, ry, he⟩ := quiesce_frozen ha hh hst hq hb hd hz
  rw [State.trapClosed, hc] at fu
  exact ⟨u, y, fu, fu.files.trans (State.modHeat_files _ _ _ fun _ => rfl), hy, ry,
    he (State.policyFrom_no_fault (ry.fault.trans hf))⟩

theorem quiesce_complete {s : State} {h : Heat} (ha : s.arg = .quiesce h.hid) (hh : s.heat? h.hid = some h)
    (hst : h.status = .halting) (hq : s.quiet h = true) (hb : s.barPend = []) (hd : s.detects = []) (hf : h.fault = none) {x : Nat}
    (hk : h.halt = some (.preempt, x)) (hr : h.allRetired = true) (hm : s.msgQuiet h = true) :
    ∃ (t : State), exec .quiesce s = .next t ∧ sameFiles s t ∧ s.keeps t [] ∧ (t.heat? h.hid).map (·.status) = some .closing ∧
      t.awaits s.now (.heatCompletion h.hid) := by
  obtain ⟨u, y, fu, hfile, hy, ry, he⟩ := quiesce_preempted ha hh hst hq hb hd hf
  obtain ⟨hs, eu⟩ := fu.eq
  have hid : y.hid = h.hid := ry.hid
  have hqu : u.quiet y = true := by
    refine State.quiet_of_sublist ry.hid ry.clusters ?_ ?_ ?_ hq
    · rw [eu]; rfl
    · rw [eu]; rfl
    · rw [eu]; exact fun d hd => (List.mem_filter.1 hd).1
  have hmu : u.msgQuiet y = true := (State.msgQuiet_congr ry.clusters (by rw [eu]; rfl)).trans hm
  have hcu : u.completeAtHalt y = true := by
    rw [State.completeAtHalt, show y.allRetired = true from ry.retired.trans hr, hqu, hmu]
    rfl
  rw [State.actPolicy_complete (ry.fault.trans hf) (ry.halt.trans hk) hcu, hid] at he
  refine ⟨_, he, ?_, keeps_of_kept _ _ _ ?_, ?_, ?_⟩
  · exact (State.push_files ..).trans ((State.modHeat_files _ _ Heat.completing fun _ => rfl).trans hfile)
  · exact (State.push_kept ..).trans ((State.modHeat_kept ..).trans (eu ▸ rfl))
  · have e := State.heat?_modHeat_self (f := Heat.completing) (s := u) (h := y) (hid.symm ▸ hy) fun _ => rfl
    exact congrArg (Option.map (·.status)) (hid ▸ e)
  · have hnow : u.now = s.now := by rw [eu]; rfl
    exact hnow ▸ State.push_awaits ..

/-- The steps of a heat's schedule are off the agenda of a state where it is frozen. -/
theorem Frozen.free {h : Heat} {s t : State} (f : Frozen h s t) : ∀ d ∈ t.agenda, h.waits d.ev = false := by
  obtain ⟨hs, rfl⟩ := f.eq
  intro d hd
  have hw := (List.mem_filter.1 hd).2
  rw [Bool.not_eq_true', Bool.or_eq_false_iff] at hw
  exact hw.1

theorem quiesce_saves {s : State} {h : Heat} (ha : s.arg = .quiesce h.hid) (hh : s.heat? h.hid = some h)
    (hst : h.status = .halting) (hq : s.quiet h = true) (hb : s.barPend = []) (hd : s.detects = []) (hf : h.fault = none) {x : Nat}
    (hk : h.halt = some (.preempt, x)) (hr : h.allRetired = false) (hdb : s.env.doubleBits = []) :
    ∃ (t : State) (c : Nat), exec .quiesce s = .next t ∧ sameFiles s t ∧ s.keeps t [] ∧
      (t.heat? h.hid).map (·.status) = some .saving ∧ s.now < c ∧ t.awaits c (.saveComplete h.hid) ∧
      (∀ d ∈ t.agenda, h.waits d.ev = false) ∧
      ((∀ d ∈ s.agenda, s.landsFor h.hid d.ev = false) → c ≤ s.now + h.saveCost + 4096) := by
  obtain ⟨u, y, fu, hfile, hy, ry, he⟩ := quiesce_preempted ha hh hst hq hb hd hf
  obtain ⟨hs, eu⟩ := fu.eq
  have hid : y.hid = h.hid := ry.hid
  have hnow : u.now = s.now := by rw [eu]; rfl
  have hky := ry.halt.trans hk
  rw [State.actPolicy_saves (ry.fault.trans hf) hky (ry.retired.trans hr)] at he
  have hacts : Acts h.hid u (u.startSave y) := hid ▸ u.startSave_acts y
  obtain ⟨hstat, c, hlt, hw, hle⟩ := State.startSave_saves (s := u) (h := y) (hid.symm ▸ hy) (by rw [eu]; exact hdb)
  rw [hid] at hstat hw hle
  refine ⟨_, c, he, hacts.files.trans hfile, keeps_of_kept _ _ _ ((hacts.kept []).trans (eu ▸ rfl)), hstat, hnow ▸ hlt, hw,
    hacts.stays_free fu.free, fun hn => ?_⟩
  have hcost : y.costToSave = h.saveCost := by
    rw [Heat.costToSave, hky]
    exact ry.saveCost
  rw [← hnow, ← hcost]
  refine hle fun d hd => ?_
  rw [eu] at hd ⊢
  exact hn d (List.mem_filter.1 hd).1

/-! ### A faulted heat at rest (R320-R325) -/

/-- What a state and a heat are once the heat rests with its fault's record, and its policy is to act. -/
structure FaultRest (s : State) (h : Heat) (d : Detect) (u : State) (y : Heat) : Prop where
  heat : u.heat? h.hid = some y
  hid : y.hid = h.hid
  fault : y.fault = some d
  trap : y.trap = s.trapOf h d
  faultLog : u.faultLog = s.faultLog ++ [trapList (s.trapOf h d)]
  kept : s.mailbox.logBase = none → u.kept [] = s.kept []
  now : u.now = s.now
  env : u.env = s.env
  free : ∀ e ∈ u.agenda, h.waits e.ev = false
  policy : ∀ e, u.policyOf y e = s.policyOf h e

theorem quiesce_faulted {s : State} {h : Heat} {d : Detect} (ha : s.arg = .quiesce h.hid) (hh : s.heat? h.hid = some h)
    (hst : h.status = .halting) (hq : s.quiet h = true) (hb : s.barPend = []) (hd : s.detects = []) (hf : h.fault = some d)
    (hs : h.record.sched = false) : ∃ u y, FaultRest s h d u y ∧ exec .quiesce s = .next (u.actPolicy y) := by
  obtain ⟨⟨mb, m, l, ec⟩, hm⟩ := State.closeTrap_fault hh hf
  have hz : (s.closeTrap h.hid).heat? h.hid = some (h.trapped (s.trapOf h d)) := by
    rw [ec]
    exact State.heat?_modHeat_self (f := Heat.trapped (s.trapOf h d)) hh fun _ => rfl
  obtain ⟨-, u, y, fu, hy, ry, he⟩ := quiesce_frozen ha hh hst hq hb hd hz
  have hsy : y.record.sched = false := (congrArg (·.sched) ry.record).trans hs
  refine ⟨u, y, ?_, he (State.policyFrom_not_sched hsy)⟩
  obtain ⟨hs', eu⟩ := fu.eq
  rw [State.trapClosed] at eu
  refine ⟨hy, ry.hid, ry.fault.trans hf, ry.trap, ?_, fun hn => ?_, ?_, ?_, fu.free, fun e => ?_⟩
  · rw [eu, ec]; rfl
  · have hhbm : u.hbm = s.hbm := by rw [eu]; exact hm hn
    rw [State.kept, hhbm, eu, ec]
    rfl
  · rw [eu, ec]; rfl
  · rw [eu, ec]; rfl
  · have hqu : u.queue y.queue = s.queue h.queue := by rw [ry.queue, eu, ec]; rfl
    unfold State.policyOf
    rw [hqu]

section
variable {u : State} {y : Heat} {d : Detect}

theorem State.actPolicy_handler (hf : y.fault = some d) (hp : u.policyOf y d = 0) :
    u.actPolicy y = u.push (u.now + 256) 46 (.handlerEntry y.hid) := by
  unfold State.actPolicy
  rw [hf]
  dsimp only
  rw [hp]
  rfl

theorem State.actPolicy_save (hf : y.fault = some d) (hp : u.policyOf y d = 2) : u.actPolicy y = u.startSave y := by
  unfold State.actPolicy
  rw [hf]
  dsimp only
  rw [hp]
  rfl

theorem State.actPolicy_fatal (hf : y.fault = some d) (hp : u.policyOf y d = 3) : u.actPolicy y = u.fatalDump d.cause := by
  unfold State.actPolicy
  rw [hf]
  dsimp only
  rw [hp]
  rfl

theorem State.actPolicy_abort (hf : y.fault = some d) (h0 : u.policyOf y d ≠ 0) (h2 : u.policyOf y d ≠ 2) (h3 : u.policyOf y d ≠ 3) :
    u.actPolicy y = u.abortHeat y.hid d.cause := by
  unfold State.actPolicy
  rw [hf]
  dsimp only
  split
  · exact absurd ‹_› h0
  · exact absurd ‹_› h2
  · exact absurd ‹_› h3
  · rfl

theorem State.actPolicy_acts (hf : y.fault = some d) (h3 : u.policyOf y d ≠ 3) : Acts y.hid u (u.actPolicy y) := by
  by_cases h0 : u.policyOf y d = 0
  · rw [State.actPolicy_handler hf h0]
    exact State.push_acts _ _ _ _ fun _ => rfl
  by_cases h2 : u.policyOf y d = 2
  · rw [State.actPolicy_save hf h2]
    exact State.startSave_acts ..
  · rw [State.actPolicy_abort hf h0 h2 h3]
    exact State.abortHeat_acts ..

end

theorem State.abortHeat_released {s : State} {h : Heat} (hh : s.heat? h.hid = some h) (cause : Nat) :
    s.released (s.abortHeat h.hid cause) h.hid cause :=
  ⟨congrArg (Option.map (·.abortCause)) (State.heat?_modHeat_self (f := Heat.aborted cause) hh (Heat.aborted_hid cause)),
    State.push_awaits ..⟩

theorem quiesce_fault_effect {s : State} {h : Heat} {d : Detect} (ha : s.arg = .quiesce h.hid) (hh : s.heat? h.hid = some h)
    (hst : h.status = .halting) (hq : s.quiet h = true) (hb : s.barPend = []) (hd : s.detects = []) (hf : h.fault = some d)
    (hs : h.record.sched = false) (h3 : s.policyOf h d ≠ 3) :
    ∃ (t : State), exec .quiesce s = .next t ∧ (t.heat? h.hid).map (·.trap) = some (s.trapOf h d) ∧
      t.faultLog = s.faultLog ++ [trapList (s.trapOf h d)] ∧ (s.mailbox.logBase = none → s.keeps t []) ∧
      (∀ e ∈ t.agenda, h.waits e.ev = false) ∧ (s.policyOf h d = 0 → t.awaits (s.now + 256) (.handlerEntry h.hid)) ∧
      (s.policyOf h d = 1 → s.released t h.hid d.cause) ∧
      (s.policyOf h d = 2 → s.env.doubleBits = [] → ∃ c, s.now < c ∧ t.awaits c (.saveComplete h.hid)) := by
  obtain ⟨u, y, r, he⟩ := quiesce_faulted ha hh hst hq hb hd hf hs
  rw [← r.policy] at h3 ⊢
  have a : Acts h.hid u (u.actPolicy y) := r.hid ▸ State.actPolicy_acts r.fault h3
  have hy : u.heat? y.hid = some y := r.hid.symm ▸ r.heat
  refine ⟨_, he, ?_, a.faultLog.trans r.faultLog, fun hn => keeps_of_kept _ _ _ ((a.kept []).trans (r.kept hn)), a.stays_free r.free,
    fun h0 => ?_, fun h1 => ?_, fun h2 hdb => ?_⟩
  · rw [a.trap, r.heat, Option.map_some, r.trap]
  · rw [State.actPolicy_handler r.fault h0, r.now, r.hid]
    exact State.push_awaits ..
  · rw [State.actPolicy_abort r.fault (by omega) (by omega) (by omega)]
    have hrel := State.abortHeat_released hy d.cause
    rw [r.hid] at hrel ⊢
    exact ⟨hrel.1, r.now ▸ hrel.2⟩
  · rw [State.actPolicy_save r.fault h2]
    obtain ⟨-, c, hlt, hw, -⟩ := State.startSave_saves hy (r.env ▸ hdb)
    exact ⟨c, r.now ▸ hlt, r.hid ▸ hw⟩

/-! ### A fatal fault (R323, R350) -/

/-- Every heat whose number is in a list is aborted by a fold over it. -/
theorem foldl_abort_all (cause : Nat) (l : List Heat) : ∀ s : State, (∀ y ∈ s.heats, y.abortCause = cause ∨ ∃ x ∈ l, x.hid = y.hid) →
    ∀ y ∈ (l.foldl (fun u h => u.abortHeat h.hid cause) s).heats, y.abortCause = cause := by
  induction l with
  | nil => exact fun s h y hy => (h y hy).elim id fun ⟨_, hx, _⟩ => nomatch hx
  | cons x r ih =>
    refine fun s h => ih _ fun y hy => ?_
    obtain ⟨w, hw, rfl⟩ := List.mem_map.1 (show y ∈ (s.modHeat x.hid (Heat.aborted cause)).heats from hy)
    split
    · exact .inl rfl
    · rename_i hne
      refine (h w hw).imp_right fun ⟨z, hz, e⟩ => ?_
      rcases List.mem_cons.1 hz with rfl | hz
      · exact absurd e.symm hne
      · exact ⟨z, hz, e⟩

theorem State.fatalDump_effect (s : State) (cause : Nat) : (s.fatalDump cause).fatal = some cause ∧
    (s.fatalDump cause).ready.fe = false ∧ ∀ y ∈ (s.fatalDump cause).heats, y.abortCause = cause := by
  refine ⟨rfl, rfl, fun y hy => foldl_abort_all cause s.heats s (fun y hy => .inr ⟨y, hy, rfl⟩) y ?_⟩
  unfold State.fatalDump at hy
  dsimp only at hy
  rw [(State.tellHalted_sent _ 1 0).heats] at hy
  exact hy

theorem quiesce_fatal {s : State} {h : Heat} {d : Detect} (ha : s.arg = .quiesce h.hid) (hh : s.heat? h.hid = some h)
    (hst : h.status = .halting) (hq : s.quiet h = true) (hb : s.barPend = []) (hd : s.detects = []) (hf : h.fault = some d)
    (hs : h.record.sched = false) (h3 : s.policyOf h d = 3) :
    ∃ (t : State), exec .quiesce s = .next t ∧ t.fatal = some d.cause ∧ t.ready.fe = false ∧ ∀ y ∈ t.heats, y.abortCause = d.cause := by
  obtain ⟨u, y, r, he⟩ := quiesce_faulted ha hh hst hq hb hd hf hs
  rw [State.actPolicy_fatal r.fault ((r.policy d).trans h3)] at he
  exact ⟨_, he, u.fatalDump_effect d.cause⟩

end Sys2Proof.Machine
end

section
/-! PROOFS. Heats: what ends with a heat, and what is told of it. -/
namespace Sys2Proof.Machine

/-! ### A queue's balance outlives its commands (R284, R285) -/

/-- A state after an answer to a command or node of a queue, which leaves the queue's balance. -/
structure Closes (q : Nat) (s t : State) : Prop where
  answered : Answered s t
  deficit : (t.queue q).deficit = (s.queue q).deficit

section
variable {q : Nat} {s t u : State}

theorem Closes.refl (q : Nat) (s : State) : Closes q s s := ⟨.refl s, rfl⟩

theorem Closes.trans (h : Closes q s t) (h' : Closes q t u) : Closes q s u :=
  ⟨h.answered.trans h'.answered, h'.deficit.trans h.deficit⟩

theorem Scheduled.closes (h : Scheduled s t) : Closes q s t := ⟨h.queuesOnly.answered, by rw [queue_congr h.queues]⟩

theorem State.modQueue_closes (s : State) (q : Nat) {f : Queue → Queue} (hf : ∀ x, (f x).deficit = x.deficit) :
    Closes q s (s.modQueue q f) := ⟨(State.modQueue_queuesOnly ..).answered, by rw [State.queue_modQueue_self, hf]⟩

theorem foldl_closes {α : Type} (f : State → α → State) (h : ∀ s x, Closes q s (f s x)) (l : List α) :
    ∀ s, Closes q s (l.foldl f s) := by
  induction l with
  | nil => exact .refl q
  | cons x r ih => exact fun s => (h s x).trans (ih _)

end

theorem State.push_closes (s : State) (q c r : Nat) (e : Ev) : Closes q s (s.push c r e) := (State.push_pushed ..).scheduled.closes

theorem State.completeCommand_closes (s : State) (q entry : Nat) (sub : Option Nat) (r : Completion) :
    Closes q s (s.completeCommand q entry sub r) := by
  refine ⟨State.completeCommand_answered .., ?_⟩
  cases sub with
  | none => exact (s.completeCommand_queue q entry r).deficit
  | some i =>
    obtain ⟨x, hx, rfl | rfl⟩ := s.completeRecord_queue q entry i r <;> exact hx.deficit

theorem State.finishGraph_closes (s : State) (q : Nat) (g : Graph) : Closes q s (s.finishGraph q g) := by
  rw [State.finishGraph_eq]
  exact (State.modQueue_closes s q (f := Queue.graphless) fun _ => rfl).trans (State.completeCommand_closes ..)

theorem State.modNode_closes (s : State) (q i : Nat) (f : NodeRun → NodeRun) : Closes q s (s.modNode q i f) :=
  s.modQueue_closes q (f := Queue.withNode i f) fun _ => rfl

theorem State.walkNode_closes (q : Nat) (s : State) (e : Nat × NodeRun) : Closes q s (s.walkNode q e) := by
  unfold State.walkNode
  split
  · dsimp only
    split
    · exact (State.modNode_closes ..).trans (State.push_closes ..)
    · exact State.modNode_closes ..
  · split
    · exact State.push_closes ..
    · exact .refl q s

theorem State.walkGraph_closes (s : State) (q : Nat) : Closes q s (s.walkGraph q) := by
  cases hg : (s.queue q).graph with
  | none =>
    unfold State.walkGraph
    rw [hg]
    exact .refl q s
  | some g =>
    cases hs : g.stopped with
    | true =>
      rcases State.walkGraph_stopped hg hs with e | e <;> rw [e]
      · exact .refl q s
      · exact State.finishGraph_closes ..
    | false =>
      rw [State.walkGraph_goes hg hs]
      exact foldl_closes _ (State.walkNode_closes q) _ s

theorem State.decrement_closes (s : State) (q : Nat) (ns : List Nat) : Closes q s (s.decrement q ns) := by
  refine foldl_closes _ (fun u i => ?_) ns s
  split
  · exact .refl q u
  · exact State.modNode_closes ..

theorem State.nodeDone_closes (s : State) (q i : Nat) : Closes q s (s.nodeDone q i) := by
  unfold State.nodeDone
  split
  · exact .refl q s
  · exact (State.modNode_closes ..).trans ((State.decrement_closes ..).trans (State.walkGraph_closes ..))

theorem State.stopGraph_closes (s : State) (q cause : Nat) : Closes q s (s.stopGraph q cause) := by
  rw [State.stopGraph_eq]
  exact (State.modQueue_closes s q (f := Queue.graphHalted cause) fun _ => rfl).trans (State.walkGraph_closes ..)

/-! ### The report to the coordinator (R356) -/

theorem State.reportHalted_eq (s : State) : ∃ r f ps a n,
    s.reportHalted = { s with regatta := r, flows := f, ports := ps, agenda := a, seq := n } := by
  unfold State.reportHalted
  split
  · split
    · obtain ⟨f, ps, a, n, e⟩ := (State.tellHalted_sent ({ s with regatta := { s.regatta with
        reported := s.regatta.reported ++ [(s.pkgNo.toNat, false, s.restorableFrom ‹_›)] } } : State) 0 (s.restorableFrom ‹_›)).eq
      exact ⟨_, f, ps, a, n, e⟩
    · exact ⟨_, _, _, _, _, rfl⟩
  · exact ⟨_, _, _, _, _, rfl⟩

/-- A state whose rest is reported to the coordinator. -/
structure Reports (s t : State) : Prop where
  kept : ∀ ps, t.kept ps = s.kept ps
  heats : t.heats = s.heats
  queues : t.queues = s.queues
  cores : t.cores = s.cores
  spent : t.spent = s.spent
  gone : t.gone = s.gone
  mailbox : t.mailbox = s.mailbox

theorem State.reportHalted_reports (s : State) : Reports s s.reportHalted := by
  obtain ⟨r, f, ps, a, n, e⟩ := s.reportHalted_eq
  rw [e]
  exact ⟨fun _ => rfl, rfl, rfl, rfl, rfl, rfl, rfl⟩

/-! ### The end of a residence (R285) -/

/-- What a heat's residence has used. -/
def Heat.used (h : Heat) (now : Nat) : Nat := h.clusters.length * (now - h.chargeFrom)

/-- A heat charged for a residence. -/
def Heat.chargedWith (actual : Nat) (h : Heat) : Heat := { h with charge := h.charge + actual }

/-- A queue that gets back what a heat has not used. -/
def Queue.settled (prov : Int) (actual : Nat) (x : Queue) : Queue :=
  { x with deficit := min (x.deficit + prov - (actual : Nat)) ((64 * x.desc.qw : Nat) : Int) }

theorem State.settleCharge_eq {s : State} {h : Heat} (hh : s.heat? h.hid = some h) : s.settleCharge h.hid =
    (s.modHeat h.hid (Heat.chargedWith (h.used s.now))).modQueue h.queue (Queue.settled h.prov (h.used s.now)) := by
  unfold State.settleCharge
  rw [hh]
  rfl

theorem State.settleCharge_heat {s : State} {h : Heat} (hh : s.heat? h.hid = some h) :
    (s.settleCharge h.hid).heat? h.hid = some (h.chargedWith (h.used s.now)) := by
  rw [State.settleCharge_eq hh]
  exact State.heat?_modHeat_self (f := Heat.chargedWith (h.used s.now)) hh fun _ => rfl

/-! ### The cores of a heat are freed (R61, R291) -/

/-- A core's first barrier objects, freed. -/
def Core.freedBars (c : Core) (n : Nat) : Store Barrier := Store.putRun Barrier.init [] 0 ((List.range n).map fun i => (c.bar i).free)

theorem Core.freedBars_get (c : Core) {i n : Nat} (hi : i < n) : Store.get Barrier.init (c.freedBars n) i = (c.bar i).free := by
  rw [Core.freedBars, Store.get_putRun [] rfl, if_pos (by simpa using hi)]
  simp [List.getD, hi]

/-- A core that a heat leaves. -/
def Core.vacated (c : Core) : Core := { Core.init with bars := c.freedBars 1024 }

/-- A cluster that a heat leaves. -/
def State.freeCluster (s : State) (cl : Nat) : State :=
  [0, 1, 2, 3].foldl (fun (s : State) p => s.modCore (4 * cl + p) Core.vacated) s

theorem State.freeCores_eq (s : State) (h : Heat) : s.freeCores h = h.clusters.foldl State.freeCluster s := rfl

theorem State.core_modCore_other {s : State} {c x : Nat} (hx : x ≠ c) (f : Core → Core) : (s.modCore c f).core x = s.core x :=
  (Store.get_set ..).trans (if_neg hx)

theorem State.core_modCore_if (s : State) (c x : Nat) (f : Core → Core) : (s.modCore c f).core x = if x = c then f (s.core x) else s.core x := by
  split
  · rename_i h
    rw [h, State.core_modCore]
  · exact State.core_modCore_other ‹_› f

theorem Core.vacated_bar (c : Core) {i : Nat} (hi : i < 1024) : c.vacated.bar i = (c.bar i).free := c.freedBars_get hi

theorem State.freeCluster_other {s : State} {cl x : Nat} (hx : x / 4 ≠ cl) : (s.freeCluster cl).core x = s.core x := by
  simp only [State.freeCluster, List.foldl_cons, List.foldl_nil]
  rw [State.core_modCore_other (by omega), State.core_modCore_other (by omega), State.core_modCore_other (by omega),
    State.core_modCore_other (by omega)]

theorem State.freeCluster_self {s : State} {cl p : Nat} (hp : p < 4) : (s.freeCluster cl).core (4 * cl + p) = (s.core (4 * cl + p)).vacated := by
  simp only [State.freeCluster, List.foldl_cons, List.foldl_nil, State.core_modCore_if]
  obtain rfl | rfl | rfl | rfl : p = 0 ∨ p = 1 ∨ p = 2 ∨ p = 3 := by omega
  all_goals simp only [Nat.add_left_cancel_iff, if_true]; rfl

theorem foldl_freeCluster_other {x : Nat} (l : List Nat) (hx : x / 4 ∉ l) : ∀ s : State, (l.foldl State.freeCluster s).core x = s.core x := by
  induction l with
  | nil => exact fun _ => rfl
  | cons cl r ih =>
    intro s
    rw [List.mem_cons, not_or] at hx
    rw [List.foldl_cons, ih hx.2, State.freeCluster_other hx.1]

theorem foldl_freeCluster {cl p : Nat} (hp : p < 4) (l : List Nat) (hd : l.Nodup) (hc : cl ∈ l) :
    ∀ s : State, (l.foldl State.freeCluster s).core (4 * cl + p) = (s.core (4 * cl + p)).vacated := by
  induction l with
  | nil => exact nomatch hc
  | cons x r ih =>
    intro s
    obtain ⟨hx, hr⟩ := List.nodup_cons.1 hd
    rcases List.mem_cons.1 hc with rfl | hc
    · rw [List.foldl_cons, foldl_freeCluster_other r (by rwa [show (4 * cl + p) / 4 = cl by omega]), State.freeCluster_self hp]
    · rw [List.foldl_cons, ih hr hc, State.freeCluster_other (by rintro rfl; exact hx (by rwa [show (4 * cl + p) / 4 = cl by omega]))]

theorem State.freeCores_core {s : State} {h : Heat} (hd : h.clusters.Nodup) {cl p : Nat} (hc : cl ∈ h.clusters) (hp : p < 4) :
    (s.freeCores h).core (4 * cl + p) = (s.core (4 * cl + p)).vacated := foldl_freeCluster hp h.clusters hd hc s

/-- A state of which only cores have changed. -/
def CoresOnly (s t : State) : Prop := ∃ cs, t = { s with cores := cs }

theorem CoresOnly.trans {s t u : State} (h : CoresOnly s t) (h' : CoresOnly t u) : CoresOnly s u := by
  obtain ⟨_, rfl⟩ := h
  obtain ⟨cs, rfl⟩ := h'
  exact ⟨cs, rfl⟩

theorem foldl_coresOnly {α : Type} (f : State → α → State) (h : ∀ s x, CoresOnly s (f s x)) (l : List α) :
    ∀ s, CoresOnly s (l.foldl f s) := by
  induction l with
  | nil => exact fun s => ⟨_, rfl⟩
  | cons x r ih => exact fun s => (h s x).trans (ih _)

theorem State.freeCores_only (s : State) (h : Heat) : CoresOnly s (s.freeCores h) :=
  foldl_coresOnly _ (fun u cl => foldl_coresOnly (fun (s : State) p => s.modCore (4 * cl + p) Core.vacated) (fun _ _ => ⟨_, rfl⟩) _ u) _ s

/-! ### A heat is removed (R61, R264) -/

/-- A queue without the save of a heat. -/
def Queue.unsaved (hid : Nat) (x : Queue) : Queue := { x with saves := x.saves.filter (· ≠ hid) }

/-- What a heat's flows leave behind. -/
def Heat.leftBehind (h : Heat) : List GoneFlow :=
  (h.flowList.filter fun ie => ie.2.role == 0 || ie.2.role == 2).map fun ie =>
    { hid := h.hid, entry := ie.1, e := ie.2, base := h.flowBase ie.2 }

theorem Heat.mem_leftBehind {h : Heat} {ie : Nat × FlowEntry} (hm : ie ∈ h.flowList) (hr : ie.2.role = 0 ∨ ie.2.role = 2) :
    { hid := h.hid, entry := ie.1, e := ie.2, base := h.flowBase ie.2 } ∈ h.leftBehind :=
  List.mem_map_of_mem (f := fun ie : Nat × FlowEntry => ({ hid := h.hid, entry := ie.1, e := ie.2, base := h.flowBase ie.2 } : GoneFlow))
    (List.mem_filter.2 ⟨hm, by simpa using hr⟩)

/-- A state with what a heat's flows leave behind. -/
def State.withGone (s : State) (l : List GoneFlow) : State := { s with gone := s.gone ++ l }

theorem State.retireFlows_only (s : State) (h : Heat) : PortsOnly (s.withGone h.leftBehind) (s.retireFlows h) := by
  unfold State.retireFlows
  refine PortsOnly.trans (foldl_portsOnly _ (fun u ie => ?_) _ _) (foldl_portsOnly _ (fun u p => ?_) _ _)
  · dsimp only
    split
    · exact .refl u
    · exact (State.pushTransmit_pushed ..).portsOnly
  · split
    · exact State.modPort_portsOnly ..
    · exact .refl u

end Sys2Proof.Machine
end

section
/-! PROOFS. Heats: the completion of a heat. -/
namespace Sys2Proof.Machine

section
variable {s t : State} (h : Answered s t)
include h

theorem Answered.spent : t.spent = s.spent := by obtain ⟨⟨_, _, _, _, _, _, _, _, _, rfl⟩, -⟩ := h; rfl

theorem Answered.gone : t.gone = s.gone := by obtain ⟨⟨_, _, _, _, _, _, _, _, _, rfl⟩, -⟩ := h; rfl

theorem Answered.cores : t.cores = s.cores := by obtain ⟨⟨_, _, _, _, _, _, _, _, _, rfl⟩, -⟩ := h; rfl

end

/-! ### What carried the heat is answered (R282, R287) -/

/-- A graph charged for a heat. -/
def Graph.charged (n : Nat) (g : Graph) : Graph := { g with charge := g.charge + n }

/-- A queue whose graph is charged for a heat. -/
def Queue.graphCharged (n : Nat) (x : Queue) : Queue := { x with graph := x.graph.map (Graph.charged n) }

/-- A node that has ended. -/
def NodeRun.ended (n : NodeRun) : NodeRun := { n with running := false, ran := true }

/-- The command, node or launch that carried a heat is answered with a record. -/
def State.answerOrigin (s : State) (h : Heat) (r : Completion) : State :=
  match h.origin with
  | .ring e _ _ => s.completeCommand h.queue e none r
  | .indirect e i _ => s.completeCommand h.queue e (some i) r
  | .launch => s
  | .node i _ =>
    if h.abortCause = 0 then (s.modQueue h.queue (Queue.graphCharged r.charge)).nodeDone h.queue i
    else ((s.modQueue h.queue (Queue.graphCharged r.charge)).modNode h.queue i NodeRun.ended).stopGraph h.queue h.abortCause

theorem State.answerOrigin_closes (s : State) (h : Heat) (r : Completion) : Closes h.queue s (s.answerOrigin h r) := by
  have hg := s.modQueue_closes h.queue (f := Queue.graphCharged r.charge) fun _ => rfl
  unfold State.answerOrigin
  split
  · exact State.completeCommand_closes ..
  · exact State.completeCommand_closes ..
  · exact .refl _ s
  · split
    · exact hg.trans (State.nodeDone_closes ..)
    · exact hg.trans ((State.modNode_closes ..).trans (State.stopGraph_closes ..))

/-! ### A heat's place is vacated -/

/-- A state without a heat and what belongs to it. -/
def State.withoutHeat (s : State) (hid : Nat) : State :=
  { s with
    heats := s.heats.filter fun x => x.hid ≠ hid
    gops := s.gops.filter fun o => o.hid ≠ hid
    cmds := s.cmds.filter fun c => c.hid ≠ hid
    detects := s.detects.filter fun d => d.hid ≠ hid }

theorem State.removeHeat_here {s : State} {h : Heat} (ha : h.away = false) : s.removeHeat h =
    ((s.freeCores h).modQueue h.queue (Queue.unsaved h.hid)).withoutHeat h.hid := by
  unfold State.removeHeat
  rw [ha]
  rfl

theorem State.removeHeat_away {s : State} {h : Heat} (ha : h.away = true) : s.removeHeat h =
    (s.modQueue h.queue (Queue.unsaved h.hid)).withoutHeat h.hid := by
  unfold State.removeHeat
  rw [ha]
  rfl

/-- What the removal of a heat leaves, where it was resident or not. -/
structure Vacates (h : Heat) (s t : State) : Prop where
  kept : ∀ ps, t.kept ps = s.kept ps
  heats : t.heats = s.heats.filter fun x => x.hid ≠ h.hid
  queue : t.queue h.queue = (s.queue h.queue).unsaved h.hid
  spent : t.spent = s.spent
  gone : t.gone = s.gone ++ h.leftBehind

/-- The heat's place in a state. -/
def State.vacate (s : State) (h : Heat) : State := (s.removeHeat h).retireFlows h

theorem State.removeHeat_queue (s : State) (h : Heat) : (s.removeHeat h).queue h.queue = (s.queue h.queue).unsaved h.hid := by
  cases ha : h.away with
  | false =>
    rw [State.removeHeat_here ha]
    refine (State.queue_modQueue_self (s.freeCores h) h.queue (Queue.unsaved h.hid)).trans ?_
    obtain ⟨cs, ec⟩ := s.freeCores_only h
    rw [ec]
    rfl
  | true =>
    rw [State.removeHeat_away ha]
    exact State.queue_modQueue_self s h.queue (Queue.unsaved h.hid)

theorem State.removeHeat_rest (s : State) (h : Heat) : (∀ ps, (s.removeHeat h).kept ps = s.kept ps) ∧
    ((s.removeHeat h).heats = s.heats.filter fun x => x.hid ≠ h.hid) ∧ (s.removeHeat h).spent = s.spent ∧
    (s.removeHeat h).gone = s.gone := by
  cases ha : h.away with
  | false =>
    rw [State.removeHeat_here ha]
    obtain ⟨cs, ec⟩ := s.freeCores_only h
    rw [ec]
    exact ⟨fun _ => rfl, rfl, rfl, rfl⟩
  | true =>
    rw [State.removeHeat_away ha]
    exact ⟨fun _ => rfl, rfl, rfl, rfl⟩

theorem State.vacate_vacates (s : State) (h : Heat) : Vacates h s (s.vacate h) := by
  obtain ⟨ps, a, n, e⟩ := (s.removeHeat h).retireFlows_only h
  obtain ⟨hk, hh, hs, hg⟩ := s.removeHeat_rest h
  have hq := s.removeHeat_queue h
  rw [State.vacate, e]
  exact ⟨hk, hh, hq, hs, congrArg (· ++ h.leftBehind) hg⟩

theorem State.vacate_core {s : State} {h : Heat} (ha : h.away = false) (hd : h.clusters.Nodup) {cl p : Nat} (hc : cl ∈ h.clusters)
    (hp : p < 4) : (s.vacate h).core (4 * cl + p) = (s.core (4 * cl + p)).vacated := by
  obtain ⟨ps, a, n, e⟩ := (s.removeHeat h).retireFlows_only h
  have hflows : (s.vacate h).cores = (s.removeHeat h).cores := by
    rw [State.vacate, e]
    rfl
  have hcores : (s.removeHeat h).cores = (s.freeCores h).cores := by
    rw [State.removeHeat_here ha]
    rfl
  exact (congrArg (Store.get Core.init · (4 * cl + p)) (hflows.trans hcores)).trans (State.freeCores_core hd hc hp)

theorem filter_modHeat (s : State) (hid : Nat) (f : Heat → Heat) (hf : ∀ x, (f x).hid = x.hid) :
    ((s.modHeat hid f).heats.filter fun x => x.hid ≠ hid) = s.heats.filter fun x => x.hid ≠ hid := by
  unfold State.modHeat
  dsimp only
  induction s.heats with
  | nil => rfl
  | cons x r ih =>
    rw [List.map_cons, List.filter_cons, List.filter_cons, ih]
    by_cases hx : x.hid = hid
    · simp only [hx, if_true, hf, ne_eq, not_true_eq_false, decide_false, Bool.false_eq_true, if_false]
    · simp only [if_neg hx]

/-! ### Whether the heat completes now (R61) -/

theorem State.completes_iff {s : State} {h : Heat} (hr : h.status ≠ .running ∨ h.abortCause ≠ 0 ∨ h.status = .closing) :
    s.completes h = true ↔ h.abortCause ≠ 0 ∨
      (h.status = .closing ∧ h.fault = none ∧ h.allRetired = true ∧ s.quiet h = true ∧ s.msgQuiet h = true) := by
  unfold State.completes
  simp only [Bool.or_eq_true, Bool.and_eq_true, bne_iff_ne, ne_eq, beq_iff_eq, Option.isNone_iff_eq_none]
  constructor
  · rintro (h' | ⟨⟨⟨⟨hc | hc, hf⟩, ha⟩, hq⟩, hm⟩)
    · exact .inl h'
    · exact .inr ⟨hc, hf, ha, hq, hm⟩
    · rcases hr with hr | hr | hr
      · exact absurd hc hr
      · exact .inl hr
      · exact .inr ⟨hr, hf, ha, hq, hm⟩
  · rintro (h' | ⟨hc, hf, ha, hq, hm⟩)
    · exact .inl h'
    · exact .inr ⟨⟨⟨⟨.inl hc, hf⟩, ha⟩, hq⟩, hm⟩

theorem heatCompletion_waits {s : State} {h : Heat} (ha : s.arg = .heatCompletion h.hid) (hh : s.heat? h.hid = some h)
    (hb : s.barPend = []) (hd : s.detects = []) (hc : s.completes h = false) : exec .heatCompletion s = .next s := by
  show execHeatCompletion s = _
  unfold execHeatCompletion
  rw [ha]
  dsimp only
  rw [State.settle_idle hb hd, hh]
  dsimp only
  rw [hc]
  rfl

/-! ### A heat's end where it was resident -/

/-- A heat at its end: charged for its residence. -/
def State.atEnd (s : State) (h : Heat) : Heat := h.chargedWith (h.used s.now)

/-- A state whose heat has left everything it held. -/
def State.emptied (s : State) (h : Heat) : State := ((s.settleCharge h.hid).leaves (s.atEnd h)).vacate (s.atEnd h)

/-- The record of a heat's end. -/
def State.endRecord (s : State) (h : Heat) : Completion := (s.settleCharge h.hid).heatRecord (s.atEnd h) h.abortCause 0

/-- A state whose heat has ended, and what carried it is answered. -/
def State.ended (s : State) (h : Heat) : State := (s.emptied h).answerOrigin (s.atEnd h) (s.endRecord h)

/-- A state whose heat has completed. -/
def State.completed (s : State) (h : Heat) : State := (s.ended h).reportHalted

theorem exec_heatCompletion_held {s : State} {h : Heat} (ha : s.arg = .heatCompletion h.hid) (hh : s.heat? h.hid = some h)
    (hb : s.barPend = []) (hd : s.detects = []) (hc : s.completes h = true) (haw : h.away = false) :
    exec .heatCompletion s = .next (s.completed h) := by
  show execHeatCompletion s = _
  unfold execHeatCompletion
  rw [ha]
  dsimp only
  rw [State.settle_idle hb hd, hh]
  dsimp only
  simp only [hc, haw, Bool.not_true, Bool.false_eq_true, if_false, Bool.false_and, Bool.not_false, if_true,
    State.settleCharge_heat hh, Option.getD_some]
  rfl

/-- What the end of a resident heat leaves, before its record. -/
structure Emptied (h : Heat) (s t : State) : Prop where
  kept : ∀ ps, t.kept ps = s.kept ps
  heats : t.heats = s.heats.filter fun x => x.hid ≠ h.hid
  queue : t.queue h.queue = ((s.queue h.queue).settled h.prov (h.used s.now)).unsaved h.hid
  spent : t.spent = if h.anchor = 0 then s.spent else s.spent ++ [{ record := h.record, anchor := h.anchor, ended := s.now }]
  gone : t.gone = s.gone ++ h.leftBehind
  cores : h.away = false → h.clusters.Nodup → ∀ cl ∈ h.clusters, ∀ p, p < 4 → t.core (4 * cl + p) = (s.core (4 * cl + p)).vacated

theorem State.leaves_eq (s : State) (h : Heat) : s.leaves h = { s with
    spent := if h.anchor = 0 then s.spent else s.spent ++ [{ record := h.record, anchor := h.anchor, ended := s.now }] } := by
  unfold State.leaves
  split <;> rfl

theorem State.emptied_emptied {s : State} {h : Heat} (hh : s.heat? h.hid = some h) : Emptied h s (s.emptied h) := by
  have hv := ((s.settleCharge h.hid).leaves (s.atEnd h)).vacate_vacates (s.atEnd h)
  have hcore : (s.atEnd h).away = false → (s.atEnd h).clusters.Nodup → _ := fun ha hd cl hc p hp =>
    State.vacate_core (s := (s.settleCharge h.hid).leaves (s.atEnd h)) (h := s.atEnd h) (cl := cl) (p := p) ha hd hc hp
  have hf := filter_modHeat s h.hid (Heat.chargedWith (h.used s.now)) fun _ => rfl
  have hq := State.queue_modQueue_self (s.modHeat h.hid (Heat.chargedWith (h.used s.now))) h.queue
    (Queue.settled h.prov (h.used s.now))
  rw [State.leaves_eq, State.settleCharge_eq hh] at hv hcore
  rw [State.emptied, State.leaves_eq, State.settleCharge_eq hh]
  exact ⟨fun ps => (hv.kept ps).trans rfl, hv.heats.trans hf, hv.queue.trans (congrArg (Queue.unsaved h.hid) hq), hv.spent, hv.gone, hcore⟩

/-! ### What is told of it -/

section
variable {s : State} {h : Heat}

theorem State.endRecord_ring {e : Nat} {tag : Word} {irq : Bool} (ho : h.origin = .ring e tag irq) :
    s.endRecord h =
      { tag := tag.toNat, heatid := h.heatid.toNat, anchor := h.anchor, charge := h.charge + h.used s.now
        cause := h.abortCause, kind := 0, exit0 := h.exits.1, exitMax := h.exits.2.1, xteam := h.exits.2.2 } := by
  have ht : (s.settleCharge h.hid).tagOf (s.atEnd h) = tag.toNat := by
    rw [State.tagOf, State.atEnd, Heat.chargedWith, ho]
  rw [State.endRecord, State.heatRecord, ht]
  rfl

theorem State.ended_ring {e : Nat} {tag : Word} {irq : Bool} (ho : h.origin = .ring e tag irq) :
    s.ended h = (s.emptied h).completeCommand h.queue e none (s.endRecord h) := by
  rw [State.ended, State.answerOrigin, show (s.atEnd h).origin = .ring e tag irq from ho]
  rfl

theorem State.ended_indirect {e i : Nat} {irq : Bool} (ho : h.origin = .indirect e i irq) :
    s.ended h = (s.emptied h).completeCommand h.queue e (some i) (s.endRecord h) := by
  rw [State.ended, State.answerOrigin, show (s.atEnd h).origin = .indirect e i irq from ho]
  rfl

theorem State.ended_launch (ho : h.origin = .launch) : s.ended h = s.emptied h := by
  rw [State.ended, State.answerOrigin, show (s.atEnd h).origin = .launch from ho]

/-- A state whose queue's graph is charged for the heat that ends. -/
def State.graphCharged (s : State) (h : Heat) : State :=
  (s.emptied h).modQueue h.queue (Queue.graphCharged (s.endRecord h).charge)

theorem State.ended_node {i : Nat} {irq : Bool} (ho : h.origin = .node i irq) (hc : h.abortCause = 0) :
    s.ended h = (s.graphCharged h).nodeDone h.queue i := by
  rw [State.ended, State.answerOrigin, show (s.atEnd h).origin = .node i irq from ho]
  exact if_pos hc

theorem State.ended_node_aborted {i : Nat} {irq : Bool} (ho : h.origin = .node i irq) (hc : h.abortCause ≠ 0) :
    s.ended h = ((s.graphCharged h).modNode h.queue i NodeRun.ended).stopGraph h.queue h.abortCause := by
  rw [State.ended, State.answerOrigin, show (s.atEnd h).origin = .node i irq from ho]
  exact if_neg hc

theorem State.graphCharged_graph (hh : s.heat? h.hid = some h) {g : Graph} (hg : (s.queue h.queue).graph = some g) :
    ((s.graphCharged h).queue h.queue).graph = some (g.charged (s.endRecord h).charge) := by
  rw [State.graphCharged, State.queue_modQueue_self, (State.emptied_emptied hh).queue, Queue.graphCharged]
  exact congrArg (Option.map (Graph.charged (s.endRecord h).charge)) hg

theorem State.graphCharged_node? (hh : s.heat? h.hid = some h) {g : Graph} (hg : (s.queue h.queue).graph = some g) (i : Nat) :
    (s.graphCharged h).node? h.queue i = s.node? h.queue i := by
  rw [State.node?_of_graph (State.graphCharged_graph hh hg), State.node?_of_graph hg]
  rfl

theorem State.ended_node_effect (hh : s.heat? h.hid = some h) {i : Nat} {irq : Bool} {n : NodeRun} {g : Graph}
    (ho : h.origin = .node i irq) (hn : s.node? h.queue i = some n) (hg : (s.queue h.queue).graph = some g) :
    (h.abortCause = 0 → g.stopped = false →
      ((s.ended h).node? h.queue i).map (·.ran) = some true ∧ s.countsDown (s.ended h) h.queue n.node.succ) ∧
    (h.abortCause ≠ 0 → (s.ended h).graphStops h.queue) := by
  refine ⟨fun hc hs => ?_, fun hc => ?_⟩
  · rw [State.ended_node ho hc]
    obtain ⟨-, hcd, hran, -⟩ := State.nodeDone_effect ((State.graphCharged_node? hh hg i).trans hn)
      (State.graphCharged_graph hh hg) (show (g.charged (s.endRecord h).charge).stopped = false from hs)
    exact ⟨hran, fun j m hj hm => hcd j m hj ((State.graphCharged_node? hh hg j).trans hm)⟩
  · rw [State.ended_node_aborted ho hc]
    exact (State.stopGraph_effect ..).2

theorem State.ended_recorded (hh : s.heat? h.hid = some h) (hw : s.memoryWf) {e : Nat} {tag : Word} {irq : Bool}
    (ho : h.origin = .ring e tag irq) : s.recorded (s.ended h) h.queue e (s.endRecord h) := by
  have he := State.emptied_emptied hh
  rw [State.ended_ring ho]
  generalize s.emptied h = u at he
  have hwu : u.memoryWf := by rw [memoryWf_iff, he.kept, ← memoryWf_iff]; exact hw
  have hd : (u.queue h.queue).desc = (s.queue h.queue).desc := by rw [he.queue]; rfl
  exact State.recorded_congr (u.completeCommand_recorded hwu h.queue e (s.endRecord h)) he.kept hd

theorem Reports.recorded {u t : State} (r : Reports u t) {q e : Nat} {c : Completion} (h : s.recorded u q e c) : s.recorded t q e c :=
  (State.recorded_iff ..).2 (State.recordedAt_congr h (fun _ => rfl) r.kept)

theorem Reports.queue {u t : State} (r : Reports u t) (q : Nat) : t.queue q = u.queue q := queue_congr r.queues q

theorem State.ended_closes (s : State) (h : Heat) : Closes h.queue (s.emptied h) (s.ended h) := State.answerOrigin_closes ..

theorem State.completed_reports (s : State) (h : Heat) : Reports (s.ended h) (s.completed h) := State.reportHalted_reports _

theorem State.completed_heats (hh : s.heat? h.hid = some h) : (s.completed h).heats = s.heats.filter (·.hid ≠ h.hid) :=
  (s.completed_reports h).heats.trans ((s.ended_closes h).answered.heats.trans (State.emptied_emptied hh).heats)

theorem State.completed_deficit (hh : s.heat? h.hid = some h) : ((s.completed h).queue h.queue).deficit =
    min ((s.queue h.queue).deficit + h.prov - ((h.used s.now : Nat) : Int)) ((64 * (s.queue h.queue).desc.qw : Nat) : Int) := by
  rw [(s.completed_reports h).queue, (s.ended_closes h).deficit, (State.emptied_emptied hh).queue]
  rfl

theorem State.completed_core (hh : s.heat? h.hid = some h) (ha : h.away = false) (hd : h.clusters.Nodup) {cl p : Nat}
    (hc : cl ∈ h.clusters) (hp : p < 4) : (s.completed h).core (4 * cl + p) = (s.core (4 * cl + p)).vacated := by
  have hcores := (s.completed_reports h).cores.trans (s.ended_closes h).answered.cores
  exact (congrArg (Store.get Core.init · (4 * cl + p)) hcores).trans ((State.emptied_emptied hh).cores ha hd cl hc p hp)

theorem State.completed_spent (hh : s.heat? h.hid = some h) : (s.completed h).spent =
    if h.anchor = 0 then s.spent else s.spent ++ [{ record := h.record, anchor := h.anchor, ended := s.now }] :=
  (s.completed_reports h).spent.trans ((s.ended_closes h).answered.spent.trans (State.emptied_emptied hh).spent)

theorem State.completed_gone (hh : s.heat? h.hid = some h) {ie : Nat × FlowEntry} (hm : ie ∈ h.flowList)
    (hr : ie.2.role = 0 ∨ ie.2.role = 2) :
    { hid := h.hid, entry := ie.1, e := ie.2, base := h.flowBase ie.2 } ∈ (s.completed h).gone := by
  rw [(s.completed_reports h).gone, (s.ended_closes h).answered.gone, (State.emptied_emptied hh).gone]
  exact List.mem_append_right _ (Heat.mem_leftBehind hm hr)

theorem State.completed_ring (hh : s.heat? h.hid = some h) (hw : s.memoryWf) {e : Nat} {tag : Word} {irq : Bool}
    (ho : h.origin = .ring e tag irq) :
    (s.completed h).commandDone h.queue e none ∧ s.recorded (s.completed h) h.queue e (s.endRecord h) := by
  have hr := s.completed_reports h
  refine ⟨?_, hr.recorded (State.ended_recorded hh hw ho)⟩
  rw [State.commandDone_iff, hr.queue, ← State.commandDone_iff, State.ended_ring ho]
  exact State.completeCommand_done _ _ _ _ _

theorem State.completed_indirect {e i : Nat} {irq : Bool} (ho : h.origin = .indirect e i irq) :
    (s.completed h).commandDone h.queue e (some i) := by
  rw [State.commandDone_iff, (s.completed_reports h).queue, ← State.commandDone_iff, State.ended_indirect ho]
  exact State.completeCommand_done _ _ _ _ _

theorem State.completed_launch (hh : s.heat? h.hid = some h) (ho : h.origin = .launch) : s.keeps (s.completed h) [] := by
  have hr := (s.completed_reports h).kept []
  rw [State.ended_launch ho] at hr
  exact keeps_of_kept _ _ _ (hr.trans ((State.emptied_emptied hh).kept []))

theorem State.completed_node (hh : s.heat? h.hid = some h) {i : Nat} {irq : Bool} {n : NodeRun} {g : Graph}
    (ho : h.origin = .node i irq) (hn : s.node? h.queue i = some n) (hg : (s.queue h.queue).graph = some g) :
    (h.abortCause = 0 → g.stopped = false →
      ((s.completed h).node? h.queue i).map (·.ran) = some true ∧ s.countsDown (s.completed h) h.queue n.node.succ) ∧
    (h.abortCause ≠ 0 → (s.completed h).graphStops h.queue) := by
  obtain ⟨hgo, hstop⟩ := State.ended_node_effect hh ho hn hg
  have hr := s.completed_reports h
  refine ⟨fun hc hs => ?_, fun hc => ?_⟩
  · obtain ⟨hran, hcd⟩ := hgo hc hs
    refine ⟨by rw [State.node?_congr hr.queues]; exact hran, fun j m hj hm => ?_⟩
    rw [State.node?_congr hr.queues]
    exact hcd j m hj hm
  · rw [State.graphStops, hr.queue]
    exact hstop hc

end

theorem exec_heatCompletion_away {s : State} {h : Heat} (ha : s.arg = .heatCompletion h.hid) (hh : s.heat? h.hid = some h)
    (hb : s.barPend = []) (hd : s.detects = []) (hc : s.completes h = true) (haw : h.away = true) (hp : h.prov = 0) :
    exec .heatCompletion s =
      .next ((s.vacate h).answerOrigin h (s.heatRecord h h.abortCause 0)).reportHalted := by
  show execHeatCompletion s = _
  unfold execHeatCompletion
  rw [ha]
  dsimp only
  rw [State.settle_idle hb hd, hh]
  dsimp only
  simp only [hc, haw, hp, Bool.not_true, Bool.false_eq_true, if_false, Bool.true_and, BEq.rfl, hh, Option.getD_some]
  rfl

theorem heatCompletion_away_effect {s : State} {h : Heat} (ha : s.arg = .heatCompletion h.hid) (hh : s.heat? h.hid = some h)
    (hb : s.barPend = []) (hd : s.detects = []) (haw : h.away = true) (hp : h.prov = 0) (hc : h.abortCause ≠ 0) :
    ∃ (t : State), exec .heatCompletion s = .next t ∧ t.heats = s.heats.filter (·.hid ≠ h.hid) ∧ t.spent = s.spent ∧
      (t.queue h.queue).deficit = (s.queue h.queue).deficit := by
  have hcomp : s.completes h = true := (State.completes_iff (.inr (.inl hc))).2 (.inl hc)
  have hv := s.vacate_vacates h
  have hcl := (s.vacate h).answerOrigin_closes h (s.heatRecord h h.abortCause 0)
  have hr := ((s.vacate h).answerOrigin h (s.heatRecord h h.abortCause 0)).reportHalted_reports
  refine ⟨_, exec_heatCompletion_away ha hh hb hd hcomp haw hp, ?_, ?_, ?_⟩
  · exact hr.heats.trans (hcl.answered.heats.trans hv.heats)
  · exact hr.spent.trans (hcl.answered.spent.trans hv.spent)
  · rw [hr.queue, hcl.deficit, hv.queue]
    rfl

end Sys2Proof.Machine
end

section
/-! PROOFS. Heats: the save completes. -/
namespace Sys2Proof.Machine

/-! ### The image (R292) -/

/-- A state of which only device memory has changed. -/
def HbmOnly (s t : State) : Prop := ∃ m l, t = { s with hbm := m, hbmLog := l }

theorem HbmOnly.trans {s t u : State} (h : HbmOnly s t) (h' : HbmOnly t u) : HbmOnly s u := by
  obtain ⟨_, _, rfl⟩ := h
  obtain ⟨m, l, rfl⟩ := h'
  exact ⟨m, l, rfl⟩

theorem HbmOnly.writeHbm {s t : State} (h : HbmOnly s t) (a : Nat) (bs : List Byte) : HbmOnly s (t.writeHbm a bs) :=
  h.trans ⟨_, _, rfl⟩

theorem foldl_hbmOnly {α : Type} (f : State → α → State) (h : ∀ s x, HbmOnly s (f s x)) (l : List α) :
    ∀ s, HbmOnly s (l.foldl f s) := by
  induction l with
  | nil => exact fun s => ⟨_, _, rfl⟩
  | cons x r ih => exact fun s => (h s x).trans (ih _)

theorem State.writeImage_hbmOnly (s : State) (h : Heat) : HbmOnly s (s.writeImage h).1 := by
  unfold State.writeImage
  dsimp only
  have hr := foldl_hbmOnly (fun (u : State) (w : Nat × List Byte) => u.writeHbm (s.imageBase h + w.1) w.2) (fun _ _ => ⟨_, _, rfl⟩)
    (s.registerWrites h) s
  exact ((((hr.writeHbm _ _).writeHbm _ _).writeHbm _ _).writeHbm _ _).writeHbm _ _

/-! ### The heat that is away (R85, R291) -/

/-- The cores of a heat, by their places in it. -/
def Heat.coreMap (h : Heat) : List (Nat × Nat) :=
  (((List.range h.clusters.length).zip h.clusters).map fun ic => [0, 1, 2, 3].map fun p => (4 * ic.1 + p, 4 * ic.2 + p)).flatten

/-- A heat whose image has been written. -/
def State.savedAs (s : State) (h x : Heat) : Heat :=
  { x with
    status := .saved, away := true, barsAway := s.heatBarriers h
    landAway := h.coreMap.filterMap fun c => (s.core c.2).landing.map fun l => (c.1, l)
    msgAway := h.coreMap.foldl (fun m c => Store.set 0 m c.1 (s.core c.2).msg) ([] : Store Nat)
    checkpoints := h.checkpoints + 1, image := some (s.imageBase h), imageLen := (s.writeImage h).2, prov := 0
    teams := h.teams.map (·.checkpointed) }

/-- A queue with the save of a heat. -/
def Queue.withSave (hid : Nat) (x : Queue) : Queue := { x with saves := x.saves ++ [hid] }

/-- A state with the place of a heat's image told. -/
def State.imageTold (s : State) (base : Nat) (heatid : Word) : State :=
  { s with mailbox := { s.mailbox with imageAt := BitVec.ofNat 48 base, imageHeat := heatid } }

/-- A state whose heat has left its cores for an image. -/
def State.leftFor (s : State) (h : Heat) : State := (((s.writeImage h).1.settleCharge h.hid).freeCores h).leaves h

/-- A state with a heat's image, before the notice of its save. -/
def State.imaged (s : State) (h : Heat) : State :=
  ((((s.leftFor h).modHeat h.hid (s.savedAs h)).imageTold (s.imageBase h) h.heatid).modQueue h.queue (Queue.withSave h.hid)).tick 10 0 1

theorem exec_saveComplete {s : State} {h x : Heat} (ha : s.arg = .saveComplete h.hid) (hh : s.heat? h.hid = some h)
    (hs : h.status = .saving) (hx : (s.imaged h).heat? h.hid = some x) : exec .saveComplete s =
      .next ((s.imaged h).writeNotice h.queue h.origin.irq
        ((s.imaged h).heatRecord x ((h.fault.map (·.cause)).getD 0) 1)).reportHalted := by
  have he : exec .saveComplete s = match (s.imaged h).heat? h.hid with
      | some x => .next ((s.imaged h).writeNotice h.queue h.origin.irq
          ((s.imaged h).heatRecord x ((h.fault.map (·.cause)).getD 0) 1)).reportHalted
      | none => .next (s.imaged h) := by
    show execSaveComplete s = _
    unfold execSaveComplete
    rw [ha]
    dsimp only
    rw [hh]
    dsimp only
    rw [if_neg (fun e => e hs)]
    rfl
  rw [he, hx]

/-! ### What the image leaves of the state -/

/-- The change of one heat leaves the registers where it leaves that heat's. -/
theorem State.modHeat_files_self {s : State} {h : Heat} {f : Heat → Heat} (hd : s.hidsApart) (hh : s.heat? h.hid = some h)
    (hf : (f h).file = h.file) : (s.modHeat h.hid f).files = s.files := by
  simp only [State.files_eq, State.modHeat, List.map_map]
  refine List.map_congr_left fun x hx => ?_
  rw [Function.comp]
  split
  · rename_i e
    obtain rfl : x = h := Option.some.inj ((State.heat?_of_mem hd hx).symm.trans (e ▸ hh))
    exact hf
  · rfl

theorem Team.checkpointed_file (t : Team) : t.checkpointed.file = t.file := by
  simp only [Team.file, Team.checkpointed, List.map_map]
  rfl

theorem State.savedAs_file (s : State) (h : Heat) : (s.savedAs h (s.atEnd h)).file = h.file := by
  simp only [Heat.file, State.savedAs, List.map_map]
  exact congrArg (fun l => (h.hid, h.trap, l)) (List.map_congr_left fun t _ => t.checkpointed_file)

/-- What a heat's leaving for its image leaves: its charge and its queue's balance, its cores, and device memory. -/
structure LeftFor (h : Heat) (s t : State) : Prop where
  eq : ∃ m l cs sp, t = { (s.modHeat h.hid (Heat.chargedWith (h.used s.now))).modQueue h.queue (Queue.settled h.prov (h.used s.now)) with
    hbm := m, hbmLog := l, cores := cs, spent := sp }
  cores : ∀ cl ∈ h.clusters, ∀ p, p < 4 → ∃ c, t.core (4 * cl + p) = Core.vacated c
  kept : ∀ ps, t.kept ps = (s.writeImage h).1.kept ps

theorem State.leaves_core (s : State) (h : Heat) (c : Nat) : (s.leaves h).core c = s.core c := by
  unfold State.leaves
  split <;> rfl

theorem State.freeCluster_vacated {s : State} {cl x p : Nat} (hp : p < 4) (h : ∃ c, s.core (4 * x + p) = Core.vacated c) :
    ∃ c, (s.freeCluster cl).core (4 * x + p) = Core.vacated c := by
  by_cases e : x = cl
  · subst e
    exact ⟨_, State.freeCluster_self hp⟩
  · rwa [State.freeCluster_other (by omega)]

theorem foldl_freeCluster_stays {x p : Nat} (hp : p < 4) (l : List Nat) : ∀ s : State, (∃ c, s.core (4 * x + p) = Core.vacated c) →
    ∃ c, (l.foldl State.freeCluster s).core (4 * x + p) = Core.vacated c := by
  induction l with
  | nil => exact fun _ h => h
  | cons cl r ih =>
    intro s h
    rw [List.foldl_cons]
    exact ih _ (State.freeCluster_vacated hp h)

theorem foldl_freeCluster_vacated {x p : Nat} (hp : p < 4) (l : List Nat) (hx : x ∈ l) :
    ∀ s : State, ∃ c, (l.foldl State.freeCluster s).core (4 * x + p) = Core.vacated c := by
  induction l with
  | nil => exact nomatch hx
  | cons cl r ih =>
    intro s
    rw [List.foldl_cons]
    rcases List.mem_cons.1 hx with rfl | hx
    · exact foldl_freeCluster_stays hp r _ ⟨_, State.freeCluster_self hp⟩
    · exact ih hx _

theorem State.leftFor_leftFor {s : State} {h : Heat} (hh : s.heat? h.hid = some h) : LeftFor h s (s.leftFor h) := by
  obtain ⟨m, l, ew⟩ := s.writeImage_hbmOnly h
  have hset := State.settleCharge_eq (s := (s.writeImage h).1) (h := h) (by rw [ew]; exact hh)
  obtain ⟨cs, ec⟩ := ((s.writeImage h).1.settleCharge h.hid).freeCores_only h
  refine ⟨⟨m, l, cs, if h.anchor = 0 then s.spent else s.spent ++ [{ record := h.record, anchor := h.anchor, ended := s.now }], ?_⟩,
    fun cl hc p hp => ?_, fun ps => ?_⟩
  · rw [State.leftFor, State.leaves_eq, ec, hset, ew]
    rfl
  · rw [State.leftFor, State.leaves_core, State.freeCores_eq]
    exact foldl_freeCluster_vacated hp h.clusters hc _
  · exact (State.leaves_kept ..).trans ((State.freeCores_kept ..).trans (State.settleCharge_kept ..))

/-- What a heat's image leaves, before the notice. -/
structure Imaged (h : Heat) (s t : State) : Prop where
  heat : t.heat? h.hid = some (s.savedAs h (s.atEnd h))
  queue : t.queue h.queue = ((s.queue h.queue).settled h.prov (h.used s.now)).withSave h.hid
  cores : ∀ cl ∈ h.clusters, ∀ p, p < 4 → ∃ c, t.core (4 * cl + p) = Core.vacated c
  imageHeat : t.mailbox.imageHeat = h.heatid
  imageAt : t.mailbox.imageAt = BitVec.ofNat 48 (s.imageBase h)
  files : s.hidsApart → t.files = s.files
  wf : s.memoryWf → t.memoryWf

theorem State.imaged_imaged {s : State} {h : Heat} (hh : s.heat? h.hid = some h) : Imaged h s (s.imaged h) := by
  obtain ⟨⟨m, l, cs, sp, e⟩, hc, hk⟩ := State.leftFor_leftFor hh
  have hy : (s.leftFor h).heat? (s.atEnd h).hid = some (s.atEnd h) := by
    rw [e]
    exact State.heat?_modHeat_self (f := Heat.chargedWith (h.used s.now)) hh fun _ => rfl
  have hq : (s.leftFor h).queue h.queue = (s.queue h.queue).settled h.prov (h.used s.now) := by
    rw [e]
    exact State.queue_modQueue_self (s.modHeat h.hid (Heat.chargedWith (h.used s.now))) h.queue _
  have hf : (s.leftFor h).heats = (s.modHeat h.hid (Heat.chargedWith (h.used s.now))).heats := by rw [e]; rfl
  rw [State.imaged]
  generalize s.leftFor h = u at hy hq hf hk hc
  refine ⟨State.heat?_modHeat_self (f := s.savedAs h) hy fun _ => rfl, ?_, hc, rfl, rfl, fun hd => ?_, fun hw => ?_⟩
  · refine (State.queue_modQueue_self _ h.queue (Queue.withSave h.hid)).trans (congrArg (Queue.withSave h.hid) hq)
  · have hdu : u.hidsApart := by
      rw [State.hidsApart, hf]
      exact (congrArg List.Nodup (s.modHeat_hids h.hid (Heat.chargedWith (h.used s.now)) fun _ => rfl)).mpr hd
    have h1 : (u.modHeat h.hid (s.savedAs h)).files = u.files := State.modHeat_files_self (h := s.atEnd h) hdu hy (s.savedAs_file h)
    have h2 : u.files = s.files := (files_of_heats hf).trans (State.modHeat_files _ _ _ fun _ => rfl)
    exact h1.trans h2
  · rw [memoryWf_iff] at hw ⊢
    exact (hk []).symm ▸ State.writeImage_wf s h hw

/-! ### The notice of the save (R282) -/

/-- Where a queue's next save notice stands. -/
def Queue.noticeAt (x : Queue) : Nat := x.desc.cbase.toNat + 32 * 2 ^ x.desc.rlog + 32 * (x.nsave % 16)

/-- A queue with one more notice. -/
def Queue.noticed (x : Queue) : Queue := { x with nsave := x.nsave + 1 }

theorem State.writeNotice_eq (s : State) (q : Nat) (irq : Bool) (c : Completion) : s.writeNotice q irq c =
    let t := (s.writeLoc (s.queue q).desc.cloc (s.queue q).noticeAt c.bytes).modQueue q Queue.noticed
    if irq then t.countEntry (64 + q) else t := rfl

theorem State.writeNotice_answered (s : State) (q : Nat) (irq : Bool) (c : Completion) : Answered s (s.writeNotice q irq c) := by
  rw [State.writeNotice_eq]
  have h := (s.writeLoc_answered (s.queue q).desc.cloc (s.queue q).noticeAt c.bytes).trans
    (State.modQueue_queuesOnly _ q Queue.noticed).answered
  dsimp only
  split
  · exact h.trans (State.countEntry_answered ..)
  · exact h

theorem State.writeNotice_queue (s : State) (q : Nat) (irq : Bool) (c : Completion) :
    (s.writeNotice q irq c).queue q = (s.queue q).noticed := by
  have h : ((s.writeLoc (s.queue q).desc.cloc (s.queue q).noticeAt c.bytes).modQueue q Queue.noticed).queue q = (s.queue q).noticed := by
    rw [State.queue_modQueue_self, queue_congr (State.writeLoc_queues ..)]
  rw [State.writeNotice_eq]
  dsimp only
  split
  · exact (queue_congr (State.countEntry_queues ..) q).trans h
  · exact h

theorem State.writeNotice_recordedAt {s : State} (hw : s.memoryWf) (q : Nat) (irq : Bool) (c : Completion) :
    s.recordedAt (s.writeNotice q irq c) (s.queue q).desc.cloc (s.queue q).noticeAt c.bytes := by
  have h := State.writeLoc_recordedAt hw (s.queue q).desc.cloc (s.queue q).noticeAt c.bytes_length
  rw [State.writeNotice_eq]
  dsimp only
  split
  · exact State.recordedAt_congr h (fun _ => rfl) fun ps => (State.countEntry_kept ..).trans ((State.modQueue_queuesOnly ..).kept ps)
  · exact State.recordedAt_congr h (fun _ => rfl) fun ps => (State.modQueue_queuesOnly ..).kept ps

end Sys2Proof.Machine
end

section
/-! PROOFS. The life of a heat: O56. -/
namespace Sys2Proof.Machine

/-! ### The save completes (R282, R291, R292) -/

/-- The notice of a heat's save. -/
def State.saveRecord (s : State) (h : Heat) : Completion :=
  (s.imaged h).heatRecord (s.savedAs h (s.atEnd h)) ((h.fault.map (·.cause)).getD 0) 1

/-- A state with a heat's image and its notice. -/
def State.saved (s : State) (h : Heat) : State := ((s.imaged h).writeNotice h.queue h.origin.irq (s.saveRecord h)).reportHalted

theorem Answered.mailbox {s t : State} (h : Answered s t) : t.mailbox = s.mailbox := by
  obtain ⟨⟨_, _, _, _, _, _, _, _, _, rfl⟩, -⟩ := h; rfl

theorem Heat.exits_checkpointed (s : State) (h x : Heat) : (s.savedAs h x).exits = h.exits := by
  unfold Heat.exits State.savedAs
  rw [List.map_map]
  rfl

section
variable {s : State} {h : Heat}

theorem State.saveRecord_ring {e : Nat} {tag : Word} {irq : Bool} (ho : h.origin = .ring e tag irq) :
    s.saveRecord h =
      { tag := tag.toNat, heatid := h.heatid.toNat, anchor := h.anchor, charge := h.charge + h.used s.now
        cause := (h.fault.map (·.cause)).getD 0, kind := 1, exit0 := h.exits.1, exitMax := h.exits.2.1
        xteam := h.exits.2.2 } := by
  have ht : (s.imaged h).tagOf (s.savedAs h (s.atEnd h)) = tag.toNat := by
    rw [State.tagOf, show (s.savedAs h (s.atEnd h)).origin = .ring e tag irq from ho]
  rw [State.saveRecord, State.heatRecord, ht, Heat.exits_checkpointed]
  rfl

theorem exec_saveComplete_saving (ha : s.arg = .saveComplete h.hid) (hh : s.heat? h.hid = some h) (hs : h.status = .saving) :
    exec .saveComplete s = .next (s.saved h) := exec_saveComplete ha hh hs (State.imaged_imaged hh).heat

theorem State.saved_reports (s : State) (h : Heat) :
    Reports ((s.imaged h).writeNotice h.queue h.origin.irq (s.saveRecord h)) (s.saved h) := State.reportHalted_reports _

theorem State.saved_heats (s : State) (h : Heat) : (s.saved h).heats = (s.imaged h).heats :=
  (s.saved_reports h).heats.trans (State.writeNotice_answered ..).heats

theorem State.saved_files (hh : s.heat? h.hid = some h) (hd : s.hidsApart) : sameFiles s (s.saved h) :=
  (files_of_heats (s.saved_heats h)).trans ((State.imaged_imaged hh).files hd)

theorem State.saved_heat (hh : s.heat? h.hid = some h) : (s.saved h).heat? h.hid = some (s.savedAs h (s.atEnd h)) :=
  (heat?_congr (s.saved_heats h) h.hid).trans (State.imaged_imaged hh).heat

theorem State.saved_queue (hh : s.heat? h.hid = some h) : (s.saved h).queue h.queue =
    (((s.queue h.queue).settled h.prov (h.used s.now)).withSave h.hid).noticed := by
  rw [(s.saved_reports h).queue, State.writeNotice_queue, (State.imaged_imaged hh).queue]

theorem State.saved_mailbox (s : State) (h : Heat) : (s.saved h).mailbox = (s.imaged h).mailbox :=
  (s.saved_reports h).mailbox.trans (State.writeNotice_answered ..).mailbox

theorem State.saved_core (hh : s.heat? h.hid = some h) {cl p : Nat} (hc : cl ∈ h.clusters) (hp : p < 4) :
    ∃ c, (s.saved h).core (4 * cl + p) = Core.vacated c := by
  obtain ⟨c, e⟩ := (State.imaged_imaged hh).cores cl hc p hp
  have hcores := (s.saved_reports h).cores.trans (State.writeNotice_answered ..).cores
  exact ⟨c, (congrArg (Store.get Core.init · (4 * cl + p)) hcores).trans e⟩

theorem State.saved_notice (hh : s.heat? h.hid = some h) (hw : s.memoryWf) : (s.imaged h).recordedAt (s.saved h)
    (s.queue h.queue).desc.cloc (s.queue h.queue).noticeAt (s.saveRecord h).bytes := by
  have hi := State.imaged_imaged hh
  have hn := State.writeNotice_recordedAt (hi.wf hw) h.queue h.origin.irq (s.saveRecord h)
  rw [hi.queue] at hn
  exact State.recordedAt_congr hn (fun _ => rfl) (s.saved_reports h).kept

end

theorem State.recordedAt.bytes {s t : State} {dev : Bool} {a : Nat} {bs : List Byte} (h : s.recordedAt t dev a bs) :
    (if dev then t.readHbm (a % 2 ^ 48) 32 else t.readHost (a % 2 ^ 64) 32) = bs := by
  unfold State.recordedAt at h
  cases dev
  · exact h.1
  · exact h.1

theorem Team.checkpointed_clean (t : Team) : t.checkpointed.kdirty = 0 ∧ t.checkpointed.gdirty = 0 ∧ t.checkpointed.tdirty = 0 ∧
    ∀ g ∈ t.checkpointed.gangs, g.vdirty = 0 ∧ g.mxdirty = 0 := by
  refine ⟨rfl, rfl, rfl, fun g hg => ?_⟩
  obtain ⟨_, _, rfl⟩ := List.mem_map.1 hg
  exact ⟨rfl, rfl⟩

/-- What a heat's completed save leaves of its queue, its cores and its teams. -/
theorem saveComplete_effect {s : State} {h : Heat} (ha : s.arg = .saveComplete h.hid) (hh : s.heat? h.hid = some h)
    (hs : h.status = .saving) (hd : s.hidsApart) (hw : s.memoryWf) :
    let d := (s.queue h.queue).desc
    let a := d.cbase.toNat + 32 * 2 ^ d.rlog + 32 * ((s.queue h.queue).nsave % 16)
    ∃ (t : State) (x : Heat), exec .saveComplete s = .next t ∧ sameFiles s t ∧ s.keeps t [.hbm, .host] ∧ t.heat? h.hid = some x ∧
      x.status = .saved ∧ x.away = true ∧ x.checkpoints = h.checkpoints + 1 ∧ x.charge = h.charge + h.used s.now ∧ x.image.isSome ∧
      (t.queue h.queue).saves = (s.queue h.queue).saves ++ [h.hid] ∧ (t.queue h.queue).nsave = (s.queue h.queue).nsave + 1 ∧
      t.mailbox.imageHeat = h.heatid ∧ x.image = some (s.imageBase h) ∧ t.mailbox.imageAt = BitVec.ofNat 48 (s.imageBase h) ∧
      (∀ tm ∈ x.teams, tm.kdirty = 0 ∧ tm.gdirty = 0 ∧ tm.tdirty = 0 ∧ ∀ g ∈ tm.gangs, g.vdirty = 0 ∧ g.mxdirty = 0) ∧
      (∀ cl ∈ h.clusters, ∀ p, p < 4 → (t.core (4 * cl + p)).landing = none ∧ (t.core (4 * cl + p)).msg = 0) ∧
      ∀ e tag irq, h.origin = .ring e tag irq →
        (if d.cloc then t.readHbm (a % 2 ^ 48) 32 else t.readHost (a % 2 ^ 64) 32) =
          ({ tag := tag.toNat, heatid := h.heatid.toNat, anchor := h.anchor, charge := h.charge + h.used s.now
             cause := (h.fault.map (·.cause)).getD 0, kind := 1, exit0 := h.exits.1, exitMax := h.exits.2.1
             xteam := h.exits.2.2 } : Completion).bytes := by
  have he := exec_saveComplete_saving ha hh hs
  have hi := State.imaged_imaged hh
  refine ⟨s.saved h, s.savedAs h (s.atEnd h), he, State.saved_files hh hd, (execSaveComplete_keeps s).keeps he, State.saved_heat hh,
    rfl, rfl, rfl, rfl, rfl, ?_, ?_, ?_, rfl, ?_, fun tm ht => ?_, fun cl hc p hp => ?_, fun e tag irq ho => ?_⟩
  · rw [State.saved_queue hh]
    rfl
  · rw [State.saved_queue hh]
    rfl
  · rw [State.saved_mailbox, hi.imageHeat]
  · rw [State.saved_mailbox, hi.imageAt]
  · obtain ⟨t, -, rfl⟩ := List.mem_map.1 ht
    exact t.checkpointed_clean
  · obtain ⟨c, hc⟩ := State.saved_core hh hc hp
    rw [hc]
    exact ⟨rfl, rfl⟩
  · rw [← State.saveRecord_ring ho]
    exact (State.saved_notice hh hw).bytes

/-! ### The completion -/

theorem Core.vacated_free (c : Core) : c.vacated.sto = 0 ∧ c.vacated.atm = 0 ∧ c.vacated.eng = 0 ∧ c.vacated.msg = 0 ∧
    ∀ i, i < 1024 → (c.vacated.bar i).alloc = false ∧ (c.vacated.bar i).gen = (c.bar i).gen + 1 := by
  refine ⟨rfl, rfl, rfl, rfl, fun i hi => ?_⟩
  rw [c.vacated_bar hi]
  exact ⟨rfl, rfl⟩

theorem heatCompletion_effect {s : State} {h : Heat} (ha : s.arg = .heatCompletion h.hid) (hh : s.heat? h.hid = some h)
    (hb : s.barPend = []) (hd : s.detects = []) (haw : h.away = false) (hcl : h.clusters.Nodup) (hw : s.memoryWf)
    (hc : s.completes h = true) :
    ∃ (t : State), exec .heatCompletion s = .next t ∧ t.heats = s.heats.filter (·.hid ≠ h.hid) ∧
      (t.queue h.queue).deficit =
        min ((s.queue h.queue).deficit + h.prov - ((h.used s.now : Nat) : Int)) ((64 * (s.queue h.queue).desc.qw : Nat) : Int) ∧
      (∀ cl ∈ h.clusters, ∀ p, p < 4 → (t.core (4 * cl + p)).sto = 0 ∧ (t.core (4 * cl + p)).atm = 0 ∧
        (t.core (4 * cl + p)).eng = 0 ∧ (t.core (4 * cl + p)).msg = 0 ∧
        ∀ i, i < 1024 → ((t.core (4 * cl + p)).bar i).alloc = false ∧
          ((t.core (4 * cl + p)).bar i).gen = ((s.core (4 * cl + p)).bar i).gen + 1) ∧
      (∀ e tag irq, h.origin = .ring e tag irq → t.commandDone h.queue e none ∧
        s.recorded t h.queue e
          { tag := tag.toNat, heatid := h.heatid.toNat, anchor := h.anchor, charge := h.charge + h.used s.now, cause := h.abortCause
            kind := 0, exit0 := h.exits.1, exitMax := h.exits.2.1, xteam := h.exits.2.2 }) ∧
      (∀ e i irq, h.origin = .indirect e i irq → t.commandDone h.queue e (some i)) ∧
      (h.origin = .launch → s.keeps t []) ∧
      t.spent = (if h.anchor = 0 then s.spent else s.spent ++ [{ record := h.record, anchor := h.anchor, ended := s.now }]) ∧
      (∀ ie ∈ h.flowList, (ie.2.role = 0 ∨ ie.2.role = 2) →
        { hid := h.hid, entry := ie.1, e := ie.2, base := h.flowBase ie.2 } ∈ t.gone) ∧
      (∀ i irq n g, h.origin = .node i irq → s.node? h.queue i = some n → (s.queue h.queue).graph = some g →
        (h.abortCause = 0 → g.stopped = false → (t.node? h.queue i).map (·.ran) = some true ∧ s.countsDown t h.queue n.node.succ) ∧
        (h.abortCause ≠ 0 → t.graphStops h.queue)) := by
  refine ⟨s.completed h, exec_heatCompletion_held ha hh hb hd hc haw, State.completed_heats hh, State.completed_deficit hh,
    fun cl hm p hp => ?_, fun e tag irq ho => ?_, fun e i irq => State.completed_indirect, State.completed_launch hh,
    State.completed_spent hh, fun ie => State.completed_gone hh, fun i irq n g => State.completed_node hh⟩
  · rw [State.completed_core hh haw hcl hm hp]
    exact (s.core (4 * cl + p)).vacated_free
  · rw [← State.endRecord_ring ho]
    exact State.completed_ring hh hw ho

/-! ### The life of a heat -/

theorem heatStart_armed {s : State} {h : Heat} {x : Nat} (ha : s.arg = .heatStart h.hid) (hh : s.heat? h.hid = some h)
    (hs : h.status = .armed) (hx : h.trigger = some x) :
    ∃ (t : State), exec .heatStart s = .next t ∧ sameFiles s t ∧ s.keeps t [] ∧
      match if h.record.sched = true ∧ s.regatta.halted = true then none
        else s.anchorFrom h.record (max s.now (x + 256)) 0 with
      | some a => (t.heat? h.hid).map (fun y => (y.status, y.anchor, y.trigger)) = some (.scheduled, a, none) ∧
          h.record.grid ∣ a ∧ t.awaits a (.heatStart h.hid) ∧ t.awaits (a + h.record.stop) (.endCheck h.hid)
      | none => t.heats = s.heats ∧ t.awaits (s.now + 4096) (.heatStart h.hid) := by
  change ∃ (t : State), _ ∧ _ ∧ _ ∧ match s.triggeredAnchor h x with
    | some a => _
    | none => _
  cases hn : s.triggeredAnchor h x with
  | none => exact heatStart_waits ha hh hs hx hn
  | some a => exact heatStart_anchored ha hh hs hx hn

/-- Settles O56: each step by its own lemma, stated for the heat's own number. -/
theorem heatSteps : Obligations.HeatSteps := by
  unfold Obligations.HeatSteps
  refine ⟨fun s hid h hh => ?_, fun s hid h ha hh hb hd haw hcl hw => ?_, fun s hid h ha hh hb hd => ?_, fun s hid h k x hh hk hx hs => ?_,
    fun s hid by' => ⟨fun h => preempt_found_effect, fun h => preempt_resuming_effect, preempt_unknown_effect⟩,
    fun s hid mode => exec_preemptionRequestUnassigned, fun s hid h ha hh hst hq hb hd => ?_, fun s hid h ha hh hs hd hw => ?_⟩
  all_goals obtain rfl := State.heat?_hid hh
  · exact ⟨fun ha => heatStart_runs ha hh, fun ha hs x hx => heatStart_armed ha hh hs hx, fun ha hb hd => armedTimeout_effect ha hh hb hd,
      fun ha hs => endCheck_effect ha hh hs⟩
  · refine ⟨fun hc => heatCompletion_effect ha hh hb hd haw hcl hw ?_, fun hn hc hst => heatCompletion_waits ha hh hb hd ?_⟩
    · rcases hc with ⟨-, hc⟩ | hc
      · exact (State.completes_iff (.inr (.inr hc.1))).2 (.inr hc)
      · exact (State.completes_iff (.inr (.inl hc))).2 (.inl hc)
    · refine Bool.eq_false_iff.2 fun hx => ?_
      rcases (State.completes_iff (.inl hst)).1 hx with h' | h'
      · exact h' hc
      · exact hn ⟨hc, h'⟩
  · exact fun haw hp hc => heatCompletion_away_effect ha hh hb hd haw hp hc
  · exact ⟨fun ha => faultHalt_effect ha hh hk hx hs, fun ha => preemptionHalt_effect ha hh hk hx hs⟩
  · exact ⟨fun hf x hk => ⟨quiesce_complete ha hh hst hq hb hd hf hk, quiesce_saves ha hh hst hq hb hd hf hk⟩,
      fun d hf hs => ⟨quiesce_fault_effect ha hh hst hq hb hd hf hs, quiesce_fatal ha hh hst hq hb hd hf hs⟩⟩
  · exact saveComplete_effect ha hh hs hd hw

end Sys2Proof.Machine
end
